-- ==== Sys2Proof/Word.lean ====
section
/-! DEFINITION. The byte, the byte string and the register word of the FV-6400. -/

namespace Sys2Proof

/-- One byte. -/
abbrev Byte := BitVec 8

/-- One 32-bit register word (R40). -/
abbrev Word := BitVec 32

/-- A byte string: byte 0 stands first (R15). -/
abbrev Bytes := List Byte

end Sys2Proof
end

