-- ==== Sys2Proof/Syntax.lean ====
section
/-! DEFINITION. The commands of the block: one constructor of `Instr` per row of spec/opcode_table.json, with its operands.
Numbers are plain `Nat`; a register name's index, a port, a lane and the like count from 0 as the manual counts them.
An operand that tells of a mishap or a test (`agree`, `mishap`, `kat4`, `cut`) has the ordinary case for its default. -/

namespace Sys2Proof

/-- Who makes a register or fabric access: the master ID and sub-ID of Table AH.7 (R33). The host's function f is
master 0x50, sub-ID f. -/
structure Requester where
  master : Nat
  sub    : Nat
  deriving DecidableEq, Repr

/-- The door a command came through: a PF or VF mailbox (R224), the internal mailbox (R242), a submission queue (R277),
a Ferry COMMAND frame (R431), or the custody firmware itself (a waypoint, a released act). -/
inductive Origin where
  | mbox (fn box : Nat)
  | internal
  | ring (sq : Nat)
  | ferry (xtag : Nat)
  | firmware
  deriving DecidableEq, Repr

/-- A command as the device has snapshotted it: the header of Table CM.1, field by field, the payload bytes, the true
requester (`inst`), the door it came through and the number `cid` by which the model finds the waiting requester again.
`zeros` is 0 exactly when every byte Table CM.1 requires to be zero is zero. -/
structure Msg where
  opcode : Nat
  flags : Nat
  tenant : Nat
  inst : Nat
  tag : Nat
  target : Nat
  version : Nat
  payloadLen : Nat
  payloadAddr : Nat
  resultAddr : Nat
  resultLen : Nat
  key : Nat
  hamper : Nat
  alg : Nat
  param : Nat
  key2 : Nat
  zeros : Nat
  payload : Bytes
  origin : Origin
  cid : Nat
  deriving DecidableEq, Repr

/-- A function descriptor as the loader read it (Table HQ.3). -/
structure FnDesc where
  maxInflight : Nat
  noticeCq : Nat
  noticeValid : Bool
  mboxVector : Nat
  windows : Nat
  zeros : Bool
  deriving DecidableEq, Repr

/-- An SQ descriptor as the loader read it (Table HQ.4). -/
structure SqDesc where
  base : Nat
  header : Nat
  log2 : Nat
  fn : Nat
  loc : Nat
  pollMode : Nat
  pollValue : Nat
  cq : Nat
  prefetch : Nat
  far : Nat
  farValid : Bool
  zeros : Bool
  deriving DecidableEq, Repr

/-- A CQ descriptor as the loader read it (Table HQ.5). -/
structure CqDesc where
  base : Nat
  header : Nat
  log2 : Nat
  fn : Nat
  loc : Nat
  vector : Nat
  coalCount : Nat
  coalUs : Nat
  zeros : Bool
  deriving DecidableEq, Repr

/-- A window entry (Table HQ.6). -/
structure Window where
  ibase : Nat
  pages : Nat
  valid : Bool
  page2M : Bool
  read : Bool
  write : Bool
  list : Nat
  deriving DecidableEq, Repr

/-- What a device read of host memory brought back: the data, or a failed host read (R266). -/
inductive HostData where
  | data (bytes : Bytes)
  | failed
  deriving DecidableEq, Repr

/-- The outcome of reading a ring header in host memory: the index read, a failed read, or a translation fault (R274, R278). -/
inductive HeaderRead where
  | index (n : Nat)
  | failed
  | fault (kind : Nat)
  deriving DecidableEq, Repr

/-- A store response entry as the device found it: the entry read (tag, result), or an entry that cannot be read (R475);
with a fetch, the page the host put into the buffer, `none` where the buffer cannot be read. -/
structure StoreRsp where
  entry : Option (Nat × Nat)
  page : Option Bytes
  deriving DecidableEq, Repr

/-- The kind of a fabric access (R322, R323). -/
inductive AccKind where
  | read
  | write
  | fetch
  deriving DecidableEq, Repr

/-- What befalls a fabric access on its way (R27, R28, R34): nothing; the two cores of its lockstep pair disagree; or the access
meets an uncorrectable error in unit `unit` of group `group` of Table AH.3 (a memory bank, or a group of the base domain). -/
inductive Mishap where
  | none
  | lockstep
  | uncorrectable (group unit : Nat)
  deriving DecidableEq, Repr

/-- The parts that the device serves without (R27, R38, R39), by their units in Table AH.3 as masks: banks of the secure SRAM (1 to
3), of the key-slot SRAM, of the node cache, of the shared and of the normal SRAM; PCIe lanes; MRAM banks; application cores; the
store engine and the queue engine. -/
structure PartsOut where
  secure  : Nat
  keySlot : Nat
  cache   : Nat
  shared  : Nat
  normal  : Nat
  pcie    : Nat
  mram    : Nat
  aps     : Nat
  store   : Bool
  qeng    : Bool
  deriving DecidableEq, Repr

/-- Every part serves. -/
def PartsOut.none : PartsOut := ⟨0, 0, 0, 0, 0, 0, 0, 0, false, false⟩

/-- A frame from a PIN-entry device (Table DC.6): its SEQ, whether its tag verifies under the key in force, and whether it
is an empty frame (128 zero bytes). -/
structure PadFrame where
  seq : Nat
  tagOk : Bool
  empty : Bool
  deriving DecidableEq, Repr

/-- The header fields of a Ferry frame that the receiver judges (Table FY.2), and whether its CRC holds. -/
structure FerryHead where
  dest : Nat
  src : Nat
  ttl : Nat
  lseq : Nat
  ack : Nat
  xtag : Nat
  first : Bool
  last : Bool
  credits : Nat
  crcOk : Bool
  deriving DecidableEq, Repr

/-- What the start-up of the noise sources and the firmware banks shows at a start: the facts a start reads from the silicon and
from the MRAM banks that no rule of the manual computes. `bankOk` says which bank verifies under R410; `romOk` that the ROM digest
equals the OTP one; `kat4` and `kat5` that the known-answer tests of the TRNG's units 4 and 5 pass (R207); `n` which of N0–N3 passed
its start-up test, `nk` whether NK did; `cfgCrcA`, `cfgCrcB` and `cfgMacOk` what the check word of the configuration block in MRAM
gives, its CRC for each bank's copy (R413); `nwSigOk` whether NW_SIG verifies; `vio33` what VIO_CUST measures (R461); `out` the
parts whose self-test fails (Table AH.5). -/
structure BootFacts where
  bankAOk : Bool
  bankBOk : Bool
  selectorOk : Bool
  romOk : Bool
  linkOk : Bool
  kat4 : Bool
  kat5 : Bool
  n : List Bool
  nk : Bool
  cfgCrcA : Bool
  cfgCrcB : Bool
  cfgMacOk : Bool
  nwSigOk : Bool
  custodianMacOk : Bool
  straps : Nat
  vio33 : Bool
  out : PartsOut
  deriving DecidableEq, Repr

/-- The commands: one constructor per row of spec/opcode_table.json, in its order. -/
inductive Instr where
  | deviceInfoGet (m : Msg)
  | identityGet (m : Msg)
  | attestationAnswer (m : Msg)
  | attestationSign (m : Msg)
  | keyGenerate (m : Msg)
  | keyImport (m : Msg)
  | keyExport (m : Msg)
  | keyDerive (m : Msg)
  | keyPublicGet (m : Msg)
  | hamperLoad (m : Msg)
  | slotFree (m : Msg)
  | hamperRewrap (m : Msg)
  | hamperRevoke (m : Msg)
  | hamperReclaim (m : Msg)
  | nonceLimitSet (m : Msg)
  | sign (m : Msg)
  | verify (m : Msg)
  | encrypt (m : Msg)
  | decrypt (m : Msg)
  | macGenerate (m : Msg)
  | macVerify (m : Msg)
  | hash (m : Msg)
  | wrap (m : Msg)
  | unwrap (m : Msg)
  | agree (m : Msg)
  | encapsulate (m : Msg)
  | decapsulate (m : Msg)
  | arithmeticRun (m : Msg)
  /-- `agree`: the two paths of the DRBG's AES core agreed in every block of this step (R214); so for every row that has it. -/
  | randomGenerate (m : Msg) (agree : Bool := true)
  | tenantCreate (m : Msg)
  | tenantDelete (m : Msg)
  | tenantQuotaSet (m : Msg)
  | tenantPolicySet (m : Msg)
  | generationRoll (m : Msg)
  | generationRetire (m : Msg)
  | instanceBind (m : Msg)
  | tenantUnlock (m : Msg)
  | tenantInfoGet (m : Msg)
  | custodianEnrol (m : Msg)
  | custodianRemove (m : Msg)
  | quorumPolicySet (m : Msg)
  | portPair (m : Msg)
  | approvalSubmit (m : Msg)
  | operationStatusGet (m : Msg)
  | operationCancel (m : Msg)
  | timeGet (m : Msg)
  | anchorLoad (m : Msg)
  | waypointSet (m : Msg)
  | waypointClear (m : Msg)
  | mainsNominalSet (m : Msg)
  | storeAttach (m : Msg)
  | storeFormat (m : Msg)
  | storeRecheck (m : Msg)
  | storePrune (m : Msg)
  | storeReclaimRange (m : Msg)
  | curveLoad (m : Msg)
  | curveRetire (m : Msg)
  | microcodeInstall (m : Msg)
  | firmwareStage (m : Msg)
  | firmwareActivate (m : Msg)
  | configSet (m : Msg)
  | tamperResponseSet (m : Msg)
  | attestationKeyProvision (m : Msg)
  | noiseRecalibrate (m : Msg)
  | clusterServiceFence (m : Msg)
  | clusterServiceReturn (m : Msg)
  | clusterServicePowerOff (m : Msg)
  | clusterServicePowerOn (m : Msg)
  | clusterServiceRecalibrate (m : Msg)
  | clusterRetire (m : Msg)
  | deviceUnlock (m : Msg)
  | floorRaise (m : Msg)
  | domainJoin (m : Msg)
  | tenantReplicateOffer (m : Msg)
  | tenantReplicateSend (m : Msg)
  | tenantReplicateAccept (m : Msg)
  | tenantReplicateAdopt (m : Msg)
  | logRead (m : Msg)
  | logFreeze (m : Msg)
  | logThaw (m : Msg)
  | logClear (m : Msg)
  | journalAttach (m : Msg)
  | lifecycleTransition (m : Msg)
  | debugChallengeGet (m : Msg)
  | debugOpen (m : Msg)
  | debugPasswordSet (m : Msg)
  | debugKeySet (m : Msg)
  /-- The custody firmware takes released quorum slot `slot` (R237). -/
  | quorumActRun (slot : Nat)
  /-- A counted crossing finds slot `slot`'s deadline reached (R254). -/
  | quorumTimeout (slot : Nat)
  | go (fn box : Nat)
  | ack (fn box : Nat)
  | abort (fn box : Nat)
  /-- Bytes written by function `fn` at offset `off` of the message area of its mailbox `box`; function 0x100 is the
  normal-world image (R242). -/
  | mboxMessageWrite (fn box off : Nat) (bytes : Bytes)
  | sqDoorbell (fn idx : Nat)
  | cqDoorbell (fn idx : Nat)
  | capture (fn value : Nat)
  /-- A read of TRNG_DATA (`part` 0: 8 bytes; 1: the low half; 2: the high half) or of TRNG_DATA_VALID (`part` 3). -/
  | trngDataRead (req : Requester) (part : Nat) (agree : Bool := true)
  /-- A register read of `len` bytes at BAR offset `off`: the read outcomes of R41 to R43, the latch included. -/
  | lowHalfRead (req : Requester) (off len : Nat)
  /-- A 4-byte write to the half of a 64-bit register at `off`. -/
  | lowHalfWrite (req : Requester) (off value : Nat)
  /-- A write of `len` bytes at BAR offset `off`; `full` is false for partial byte enables. -/
  | registerWrite (req : Requester) (off len value : Nat) (full : Bool)
  | pwWrite (req : Requester) (off value : Nat)
  | pwWriteLanded (off : Nat)
  | sqcClear (req : Requester) (off value : Nat)
  | quiesce (req : Requester) (base : Nat) (on : Bool)
  | quiesced (base : Nat)
  | commitRequest (req : Requester) (base groups : Nat)
  | commitApply (base : Nat)
  | ruleEpochDrainEnd (checker : Nat)
  | functionLoad (fn : Nat) (desc : Option FnDesc)
  | functionDisable (fn : Nat)
  | sqLoad (sq : Nat) (desc : Option SqDesc)
  | sqDisable (sq : Nat)
  | cqLoad (cq : Nat) (desc : Option CqDesc)
  | cqDisable (cq : Nat)
  | windowTableLoad (fn : Nat) (table : Option (List Window))
  | windowTableDisable (fn : Nat)
  | loadDone
  | qengEventAck (req : Requester) (source : Nat)
  | faultAckHard (req : Requester) (slot : Nat)
  | faultAckMinor (req : Requester)
  | faultAckSevere (req : Requester)
  | storeReqConsWrite (value : Nat)
  | storeRspProdWrite (value : Nat)
  | storeResponse (rsp : StoreRsp)
  | storeBatchClose
  | storeFetchTimeout (tag : Nat)
  | storeHeldTimeout (cid : Nat)
  | storeRspRetry (rsp : StoreRsp)
  | storeBufferFreed
  | slotAgeTick
  | pkeClusterCtrlGateReq (req : Requester) (n : Nat) (on : Bool)
  | pkeClusterCtrlFence (req : Requester) (n : Nat) (on : Bool)
  /-- Cluster `n` reaches its release point: what its check and residue found, and the lane a mismatch names. -/
  | pkeJobRelease (n : Nat) (checkOk residueOk : Bool) (lane : Nat)
  | pkeWipeEnd (n : Nat)
  /-- The job of cluster `n` is aborted with completion status `status` (R140). -/
  | pkeJobAbort (n status : Nat)
  /-- Cluster `n` finishes loading and self-test; `badPkg` is the package the gate refused, 0 for none. -/
  | pkeClusterReady (n badPkg : Nat) (testOk : Bool)
  | quarantineReturn (n badPkg : Nat) (testOk : Bool)
  | maskSeedDelivery (n : Nat) (agree : Bool := true)
  | maskSeedExpiry (n : Nat)
  | entropyWaitTimeout (cid : Nat)
  | skeRequestStart (lane : Nat)
  | skeRequestEnd (lane : Nat) (checkOk : Bool)
  | skeLaneCtrlGateReq (req : Requester) (lane : Nat) (on : Bool)
  | skeLaneCtrlFence (req : Requester) (lane : Nat) (on : Bool)
  | skeLaneCtrlRejoin (req : Requester) (lane : Nat)
  | nonceReservationDone (ok0 ok1 : Bool)
  | nonceRotation (slot : Nat)
  /-- The lag window of `src` ends with these 4,096 raw bits. -/
  | trngWindowEnd (src : Nat) (bits : List Bool)
  | drbgInstantiate (agree : Bool := true)
  | drbgReseed (agree : Bool := true)
  | autoRecalibrate (src : Nat)
  | trngSrcCtrlRecal (req : Requester) (src : Nat)
  | trngSrcCtrlIsolate (req : Requester) (src : Nat)
  /-- The sweep of `src` ends with one 4,096-bit window per trim setting. -/
  | recalSweepEnd (src : Nat) (windows : List (List Bool))
  /-- A positive-going crossing accepted `t` units of 0.15625 ns after the cycle began, with negative-going crossings at
  the times `negs`. -/
  | mainsCrossing (t : Nat) (negs : List Nat)
  | cycleMissing
  | compassTick
  /-- Compass starts `elapsed` units of 0.15625 ns after the held count's tick. -/
  | compassStart (elapsed : Nat)
  /-- The two clocks differed by `ppm` over the last 50 ticks. -/
  | clockCrossCheck (ppm : Nat)
  | waypointFire (n : Nat)
  | waypointEpochRoll (n : Nat)
  | rateWindowEnd (tenant : Nat)
  | arbitrationRound
  | sqPollTick (sq : Nat)
  | sqHeaderRead (sq : Nat) (r : HeaderRead)
  | cqRoomPoll (cq : Nat) (r : HeaderRead)
  | coalesceTimer (cq : Nat)
  | msixPendingSend (fn vec : Nat)
  | hostReadTimeout (id : Nat)
  | linkReset
  /-- The endpoint reaches L0 with the PCIe lanes `dropped` dropped by training (R27); the host writes BAR0 of
  the PF and of the VFs. -/
  | linkUp (dropped bar0 vfBar0 : Nat := 0)
  | vfFlr (fn : Nat)
  | pfFlr
  /-- VF Enable is written `enable` and NumVFs `num`. -/
  | vfDisable (enable : Bool) (num : Nat)
  /-- A fabric access of `len` bytes (`data` for a write), and what befalls it. -/
  | fabricAccess (req : Requester) (kind : AccKind) (addr len : Nat) (data : Bytes) (mishap : Mishap := .none)
  | debugAccess (kind : AccKind) (addr len : Nat) (data : Bytes)
  | hostMboxPostedWrite (fn addr : Nat) (data : Bytes)
  | farWindowAccess (n off : Nat) (write : Bool) (value : Nat)
  | farReadTimeout (xtag : Nat)
  | mpcWdogFeed (master : Nat)
  | watchdogMiss (pair : Nat)
  | g5RestartEnd (facts : BootFacts)
  | mpcLeaseHoldSet (master value : Nat)
  /-- A gate request of PKE cluster `n` (`ske` false) or SKE lane `n` has been pending for TIMEOUT_MS. -/
  | leaseTimeout (ske : Bool) (n : Nat)
  | hardEscalation (slot : Nat)
  /-- `kat4`, `kat5`: the known-answer tests of the TRNG's units 4 and 5 pass (R207), where the TRNG was reset. -/
  | clusterResetEnd (cluster : Nat) (kat4 kat5 : Bool := true)
  | regionResetEnd (region : Nat) (kat4 kat5 : Bool := true)
  | logSubmit (typ : Nat)
  | logFreezeTimeout
  /-- A journal entry is written to the host ring; `ok` is false where the write or its translation fails. -/
  | journalEntryWrite (ok : Bool)
  | pocketRecordCopy
  /-- Decision path A (`pathB` false) or B of `source` alarms, with the record's DETAIL and VALUE. -/
  | tamperAlarm (source : Nat) (pathB : Bool) (detail value : Nat)
  | tamperDecisionDelayEnd (source : Nat)
  | tamperAlarmClear (source : Nat)
  | keeperMaskRotate
  | rsGenRetry (n : List Bool) (nk : Bool)
  | mainPowerOn
  /-- The main supplies fail; `cut` says how far the burns of a transition under way had come (R403). -/
  | mainPowerLoss (cut : Nat := 0)
  | porstNAssert
  | boot (facts : BootFacts)
  /-- The scrub ends having found these uncorrectable words: (bank, whether the other bank's copy repairs it). -/
  | mramScrub (bad : List (Nat × Bool))
  | portTransaction (port : Nat) (frame : PadFrame)
  | portSessionOpen (port : Nat)
  | helloAck (port : Nat) (frame : PadFrame) (nonce : Bytes)
  | approve (port : Nat) (frame : PadFrame) (op pos : Nat) (pin digest : Bytes)
  | pinSet (port : Nat) (frame : PadFrame) (pos : Nat) (pin pin2 : Bytes)
  | keepalive (port : Nat) (frame : PadFrame)
  /-- A DISCOVER frame arrives on `port`, from front device `front`. -/
  | discover (port front : Nat)
  /-- A follower at position `pos` behind front port `port` answers with its serial and life-cycle state. -/
  | discoverAck (port pos serial life : Nat)
  | assign (number : Nat)
  | commandFrame (h : FerryHead) (m : Msg)
  /-- A RESPONSE frame: the response header's fields, its stamp among them, and the frame's part of the result. -/
  | responseFrame (h : FerryHead) (status reason info hamper key stamp : Nat) (result : Bytes)
  | regRead (h : FerryHead) (off len : Nat)
  | regWrite (h : FerryHead) (off len value : Nat)
  | regData (h : FerryHead) (value : Nat)
  | hostRead (h : FerryHead) (addr len : Nat)
  | hostWrite (h : FerryHead) (addr : Nat) (data : Bytes)
  | hostData (h : FerryHead) (data : HostData)
  | eventFrame (h : FerryHead) (source : Nat)
  /-- A LINK frame on `port` (R428). -/
  | linkFrame (port : Nat) (h : FerryHead) (nak : Bool)
  | ferryIdleLink (port : Nat)
  | ferryDiscoverTick
  | ferryPortTrained (port : Nat)
  | ferryLinkSilence (port : Nat)
  | followerAbsent (n : Nat)
  | replicationOfferExpiry (tenant : Nat)
  | smbusDevStatus
  | smbusLanternStatus
  | smbusTemperatures
  | smbusKeeperPower
  | smbusFaultCountB
  | smbusDeviceSerial
  | smbusAlertResponse
  /-- The LANTERN edge of the local time, and the levels of the input pins as it comes: GPIO7–0, HOLDUP_SENSE in bit 8. -/
  | lanternEdge (pins : Nat := 0)
  | skeLaneSelfTestEnd (lane : Nat) (pass : Bool)
  /-- The read numbered `id` is answered. -/
  | hostReadCompletion (id : Nat) (r : HostData)
  | debugChallengeExpiry
  deriving DecidableEq, Repr

end Sys2Proof
end

