-- ==== Sys2Proof/Decode.lean ====
section
/-! DEFINITION. The decoder of the table's words. The block's commands come by doors, pins and clocks and not as words of one
encoding: spec/opcode_table.json gives no row any bits, so no word spells a command. The encodings that the manual does give (the
64-byte command header, the ring entries, the payloads) are read in Machine/Operands. -/

namespace Sys2Proof

/-- The command that a word spells by the table's bits: none. -/
def decodeTableWord (_nbits _w : Nat) : Option Instr := none

end Sys2Proof
end

