-- ==== Sys2Proof/Config.lean ====
section
/-! DEFINITION. What the manual leaves open: the cryptographic functions it names by standard, the device's draws of
randomness and the values it states no rule for. Each of them is opaque: no proof can see a value of it. CRC-32C is computed. -/

namespace Sys2Proof.Config

/-- The noise sources' raw bits and the keeper's draws of them: the n-th free byte string of the run, of the length asked for. -/
opaque randomByte : Nat → Nat → BitVec 8

/-- `len` random bytes, the n-th draw. -/
def random (n len : Nat) : Bytes := (List.range len).map (randomByte n)

/-- The n-th free number: a value the manual does not state and no rule constrains. -/
opaque freeNat : Nat → Nat

/-- SHA-384 (FIPS 180-4), 48 bytes, and SHA-256, 32 bytes: the byte at an index. -/
opaque sha384Byte : Bytes → Nat → BitVec 8
opaque sha256Byte : Bytes → Nat → BitVec 8

/-- The SHA-384 digest. -/
def sha384 (m : Bytes) : Bytes := (List.range 48).map (sha384Byte m)

/-- The SHA-256 digest. -/
def sha256 (m : Bytes) : Bytes := (List.range 32).map (sha256Byte m)

/-- SHA-512 and SHAKE256 (FIPS 180-4, FIPS 202) by byte index. -/
opaque sha512Byte : Bytes → Nat → BitVec 8
opaque shake256Byte : Bytes → Nat → BitVec 8

/-- The SHA-512 digest, and `n` bytes of SHAKE256. -/
def sha512 (m : Bytes) : Bytes := (List.range 64).map (sha512Byte m)
def shake256 (n : Nat) (m : Bytes) : Bytes := (List.range n).map (shake256Byte m)

/-- HMAC-SHA-384 under a key, by byte index. -/
opaque hmacByte : Bytes → Bytes → Nat → BitVec 8

/-- HMAC-SHA-384(key, message). -/
def hmac384 (k m : Bytes) : Bytes := (List.range 48).map (hmacByte k m)

/-- HMAC-SHA-256 under a key, by byte index. -/
opaque hmac256Byte : Bytes → Bytes → Nat → BitVec 8

/-- HMAC-SHA-256(key, message). -/
def hmac256 (k m : Bytes) : Bytes := (List.range 32).map (hmac256Byte k m)

/-- AES-256-CMAC under a key, by byte index. -/
opaque cmacByte : Bytes → Bytes → Nat → BitVec 8

/-- AES-256-CMAC(key, message), 16 bytes. -/
def cmac (k m : Bytes) : Bytes := (List.range 16).map (cmacByte k m)

/-- AES-KWP under a key, by byte index (SP 800-38F). -/
opaque kwpByte : Bytes → Bytes → Nat → BitVec 8

/-- AES-KWP wrapping: the plaintext padded to 8 bytes, and 8 bytes of integrity value. -/
def kwpWrap (k p : Bytes) : Bytes := (List.range (8 * ((p.length + 7) / 8) + 8)).map (kwpByte k p)

/-- AES-KWP unwrapping: `none` where the integrity check fails. -/
opaque kwpUnwrap : Bytes → Bytes → Option Bytes

/-- AES-KW wrapping by byte index, and unwrapping. -/
opaque kwByte : Bytes → Bytes → Nat → BitVec 8
opaque kwUnwrap : Bytes → Bytes → Option Bytes

/-- Byte `i` of a part of the system area in which the manual gives the records no place: the part, and what the records hold. -/
opaque placedByte : Nat → Bytes → Nat → BitVec 8

/-- The body of package 0x01 as shipped (R141): 16-byte blocks of its code, code bytes, and the code offset of a program. -/
opaque shippedBlocks : Nat
opaque shippedCode : Nat → BitVec 8
opaque shippedOffset : Nat → Nat → BitVec 8

/-- ML-KEM encapsulation (FIPS 203): a byte of the ciphertext or of the shared key, by parameter set, encapsulation key and random
bytes. -/
opaque kemCtByte : Nat → Bytes → Bytes → Nat → BitVec 8
opaque kemKeyByte : Nat → Bytes → Bytes → Nat → BitVec 8

/-- A coefficient of the secret vectors that FIPS 203 or FIPS 204 expands a seed to: whether it is ML-KEM, the parameter set, the
seed, the index. -/
opaque latticeCoeff : Bool → Nat → Bytes → Nat → Nat

/-- An output byte of a lattice program under a secret: program, parameter set, secret coefficients, seed, input, draw, index. -/
opaque latticeByte : Nat → Nat → List Nat → Bytes → Bytes → Bytes → Nat → BitVec 8

/-- Whether an ML-DSA signature verifies: PARAM, public key, the message behind its context, signature. -/
opaque mldsaOk : Nat → Bytes → Bytes → Bytes → Bool

/-- The ML-DSA signing attempts a message takes (R147). -/
opaque mldsaAttempts : Bytes → Bytes → Bytes → Nat

/-- An SKE algorithm's output byte: code, key, second key, IV or nonce, AAD, data, byte index. -/
opaque skeByte : Nat → Bytes → Bytes → Bytes → Bytes → Bytes → Nat → BitVec 8

/-- Whether an SKE tag verifies: code, key, IV or nonce, AAD, data, tag. -/
opaque skeTagOk : Nat → Bytes → Bytes → Bytes → Bytes → Bytes → Bool

/-- Whether SIG_EC and SIG_ML verify over bytes under the two maker keys of the boot ROM (R142, R409): message, ECDSA and ML-DSA
signature. -/
opaque makerSigOk : Bytes → Bytes → Bytes → Bool

/-- The check byte of a 64-bit word in the keeper's store, and the word that a word with another check byte decodes to: R67 names no
code. -/
opaque eccByte : Bytes → BitVec 8
opaque eccFix : Bytes → BitVec 8 → Bytes

/-- AES-256 of a 16-byte block under a key, by byte index. -/
opaque aesByte : Bytes → Bytes → Nat → BitVec 8

/-- The n-th draw of a random-delay generator from its seed (R357): the manual names no generator. -/
opaque delayDraw : Bytes → Nat → Nat

/-- AES-256(key, block). -/
def aes256 (k b : Bytes) : Bytes := (List.range 16).map (aesByte k b)

/-- The 64-byte ChaCha20 block of a key, a block counter and a nonce, by byte index. -/
opaque chachaByte : Bytes → Nat → Bytes → Nat → BitVec 8

/-- One bit of the CRC-32C (reflected, polynomial 0x1EDC6F41), and one byte. -/
def crcBit (c : Nat) : Nat := if c % 2 = 1 then (c / 2) ^^^ 0x82F63B78 else c / 2
def crcStep (c : Nat) (b : BitVec 8) : Nat :=
  crcBit (crcBit (crcBit (crcBit (crcBit (crcBit (crcBit (crcBit (c ^^^ b.toNat))))))))

/-- CRC-32C of bytes. -/
def crc32c (m : Bytes) : Nat := m.foldl crcStep 0xFFFFFFFF ^^^ 0xFFFFFFFF

end Sys2Proof.Config
end

