-- ==== Sys2Proof/Machine/State.lean ====
section
/-! DEFINITION. The state of the FV-6400 as plain data: the register file, the byte memories, and one structure per block for
what a block keeps beside its registers. -/

namespace Sys2Proof.Machine

/-- A finite table from `Nat` keys to values, held as a list. -/
abbrev Amap (α : Type) := List (Nat × α)

/-! ### Registers -/

/-- One register field: the PF BAR0 offset of its register (a VF's register at 0x2000000 + 0x10000 × function + offset), its
lowest bit, its width and its Cold value (R12, R40). -/
structure Fld where
  off   : Nat
  lsb   : Nat
  width : Nat
  cold  : Nat
  deriving DecidableEq, Repr

/-- The access codes of Table SC.6 that a field may carry (R10). -/
inductive Acc where
  | ro | rw | rwm | rws | sqc | wo
  deriving DecidableEq, Repr

/-- The field classes of R11; `groupOfChecker` is the commit group numbered as the checker (R325). -/
inductive Cls where
  | live
  | idleOnly
  | group (g : Nat)
  | groupOfChecker
  deriving DecidableEq, Repr

/-- What the Warm column says of a field (R12): its value, held through, or reloaded from where it is retained. -/
inductive Warm where
  | value | held | keep
  deriving DecidableEq, Repr

/-- Who may write a field (Table GI.5, R53). -/
inductive Writer where
  | nobody | pfAndPairs | pairs | pairsAndAps
  deriving DecidableEq, Repr

/-- A row of a register table: the field (its first instance), its access code and class, what Warm does, how many
instances there are and how far apart, and who writes it. -/
structure Row where
  fld    : Fld
  acc    : Acc
  cls    : Cls
  warm   : Warm
  count  : Nat
  stride : Nat
  writer : Writer
  deriving DecidableEq, Repr

/-! ### Power, resets and the halt -/

/-- Power and reset of die M (R23, R378, R453, R454). Bit masks are over regions G0–G7 or clusters 00–19. -/
structure Pwr where
  /-- Every main supply stands within its limits. -/
  main : Bool
  /-- The level of PORST_N. -/
  porstN : Bool
  /-- The PCIe link is up (R473). -/
  link : Bool
  /-- Regions powered off. -/
  regionOff : Nat
  /-- Regions in reset. -/
  regionReset : Nat
  /-- Clusters in reset after a SEVERE fault (R376). -/
  clusterReset : Nat
  /-- The halt latch of SYS (R378). -/
  halted : Bool
  /-- Local ticks of earlier SEVERE resets: region r under key r, cluster c under key 0x100 + c (R377). -/
  resetAt : List (Nat × Nat)
  /-- VF Enable and NumVFs of the SR-IOV capability (R267). -/
  vfEnable : Bool
  numVfs : Nat
  /-- BAR0 of the PF and of the VFs, as the host wrote them; 0 after a reset that PCIe defines (R45, R65). -/
  bar0 : Nat
  vfBar0 : Nat
  /-- Parts withdrawn, failed or dropped (R27, R39). -/
  parts : PartsOut
  /-- The overlay window of secure SRAM bank 0 (Table AH.5a): the opcode whose overlay it holds, while banks 2 and 3 are out. -/
  window : Option Nat
  deriving DecidableEq, Repr

/-! ### Faults and LANTERN (chapter 14) -/

/-- A location code without its device number (R7): die 0 M or 1 K, region 0–7 or 0xF, cluster or group, 0x7F for xx,
unit, 0xF for x. -/
structure Loc where
  die     : Nat
  region  : Nat
  cluster : Nat
  unit    : Nat
  deriving DecidableEq, Repr

/-- A fault report (R372): the class code of Table FL.1, the part, the reporting block, KIND, and for a fault raised by an
access its address, master, sub-ID and access type. -/
structure FaultRec where
  cls       : Nat
  loc       : Loc
  block     : Nat
  kind      : Nat
  addr      : Nat
  master    : Nat
  sub       : Nat
  access    : Nat
  escalated : Bool
  deriving DecidableEq, Repr

/-- The fault collector beside its registers. -/
structure FaultSt where
  /-- Entries of the fault ring not yet consumed, oldest first (R373). -/
  ring : List FaultRec
  /-- Unacknowledged NOTE, SOFT and SEVERE faults (R379); a HARD fault is unacknowledged while its slot is open. -/
  unackNote : Bool
  unackSoft : Bool
  unackSevere : Bool
  /-- Engine cycles gone of the microsecond under way, per HARD slot (R375). -/
  usPart : Nat
  /-- The local tick at which the device last became healthy (R380). -/
  healthySince : Option Nat
  /-- Position of a KIND per block is in the records; `haltRecord` is the halt record in MRAM (R378). -/
  haltRecord : Option FaultRec
  haltTick : Nat
  /-- The report of each open HARD slot, reported again as it stands at an escalation (R375). -/
  hard : Amap FaultRec
  deriving DecidableEq, Repr

/-! ### The records (chapter 14) -/

/-- A security-log record (Table FL.2). -/
structure LogRec where
  epoch : Nat
  typ : Nat
  stamp : Nat
  tick : Nat
  inst : Nat
  tenant : Nat
  body : Bytes
  deriving DecidableEq, Repr

/-- A journal entry (Table FL.4). -/
structure JournalEntry where
  seq : Nat
  typ : Nat
  inst : Nat
  stamp : Nat
  body : Bytes
  deriving DecidableEq, Repr

/-- The LOG block beside its registers. -/
structure LogSt where
  /-- Records of the current epoch, position 0 first (R382). -/
  recs : List LogRec
  /-- What MRAM holds at each position of the epochs before, where the current one has not yet come (R387). -/
  older : List LogRec
  /-- Records held during a freeze, oldest first (R385). -/
  buffer : List LogRec
  /-- Journal entries waiting to be written, oldest first (R390). -/
  journal : List JournalEntry
  /-- Entries dropped since the last write (JOURNAL_GAP, Table FL.5). -/
  gap : Nat
  ringAddr : Nat
  headerAddr : Nat
  deriving DecidableEq, Repr

/-! ### The register interface (chapter 2) -/

/-- What a requester's last low-half access left behind (R43). -/
inductive Half where
  | readLatch (off value : Nat)
  | heldWrite (off value : Nat)
  deriving DecidableEq, Repr

/-- The register interface beside the registers: the shadows of RWS fields, the values of PW registers in flight with their writer, the held
SQC statuses (the offset of each register that holds an event), the half-access latches by requester (key master × 256 +
sub-ID) and the COMPASS_NOW latches by function (R50). -/
structure IfaceSt where
  shadows : Amap Nat
  pwBusy  : Amap (Nat × Requester)
  sqcHeld : List Nat
  halves  : Amap Half
  stamps  : Amap Nat
  deriving DecidableEq, Repr

/-! ### The host side (chapters 8 and 10) -/

/-- The answer to a command (Table CM.2 beyond what it echoes). -/
structure Resp where
  status : Nat
  reason : Nat
  route  : Nat
  info   : Nat
  hamper : Nat
  key    : Nat
  result : Bytes
  deriving DecidableEq, Repr

/-- How far a command has come (R227): waiting for its payload, waiting on its route (a fetch, a held store, its slot), in
an engine, past its point of no return (its change lies in a batch), or answered and being written to its ring. -/
inductive Stage where
  | payload
  /-- Held back by the pause of a live update (R243). -/
  | held
  | route
  | engine
  | committed
  | answered
  deriving DecidableEq, Repr

/-- What an engine job handed back to the command that asked for it: status, REASON, INFO, the public result, the secret that
went over the key path (R138; zeros of its length where the input was rejected) and the slot handle used. -/
structure Yield where
  status : Nat
  reason : Nat
  info   : Nat
  out    : Bytes
  secret : Bytes
  key    : Nat
  deriving DecidableEq, Repr

/-- A command that the device has taken and not completed. `silent` is set where its response is not to be written (R228,
R268) and the cause for the journal is given; `got` holds what an engine job handed back, `tries` the slot that an AUTOLOAD
found, `needs` the store pages it waits for, `far` the device and the stamp of an answer that a follower gave, and `parts` what the
requests and jobs of its own have given on the way (R184, R185): 1 the key of its hamper, 2 a hamper wrapped, 3 a transport blob, 4 a
rotation's successor, 5 a hybrid seal, 6 and 7 the two secrets of a hybrid transport. -/
structure Cmd where
  m : Msg
  stage : Stage
  silent : Option Nat
  resp : Option Resp
  got : Option Yield
  needs : List Nat
  far : Option (Nat × Nat)
  parts : Amap Bytes
  deriving DecidableEq, Repr

/-- A CQ entry waiting to be written (Table HQ.7, R282). -/
structure CqEntry where
  tag : Nat
  status : Nat
  sq : Nat
  reason : Nat
  resultWritten : Bool
  chain : Bool
  notice : Bool
  noEvent : Bool
  info : Nat
  key : Nat
  resultLen : Nat
  chainRan : Nat
  hamper : Nat
  inst : Nat
  opcode : Nat
  deriving DecidableEq, Repr

/-- A chain being run (R280): the entries not yet started, the command now running, the entries run so far, the one that
stopped it, with its answer and whether its result was written, whether the chain is malformed, and the cause for the
journal where its entries report nothing else (R268). -/
structure Chain where
  waiting : List Msg
  cur : Option Nat
  bad : Bool
  silent : Option Nat
  ran : Nat
  stopped : Option (Msg × Resp × Bool)
  deriving DecidableEq, Repr

/-- A submission queue beside QENG_SQ_STATE: its descriptor, its function, its consumer and producer indices, the entries
prefetched in ring order and the chains under way, oldest first. -/
structure Sq where
  desc : SqDesc
  cons : Nat
  prod : Nat
  /-- Index of the next entry to fetch. -/
  next : Nat
  /-- A header read is issued; another is due after it (R49). -/
  headerRead : Bool
  headerAgain : Bool
  /-- Entries fetched and not yet taken, by ring index (R279). -/
  entries : Amap Msg
  chains : List Chain
  deriving DecidableEq, Repr

/-- A completion queue beside QENG_CQ_STATE. -/
structure Cq where
  desc : CqDesc
  prod : Nat
  cons : Nat
  held : List CqEntry
  unsignalled : Nat
  /-- A COALESCE_US timer runs (R292). -/
  timer : Bool
  /-- A header read is issued; another is due after it (R49). -/
  headerRead : Bool
  headerAgain : Bool
  deriving DecidableEq, Repr

/-- Why the device makes a host access. -/
inductive Purpose where
  | sqEntry (sq idx : Nat)
  | sqCons (sq : Nat)
  | payload (cid : Nat)
  | result (cid : Nat)
  | cqEntry (cq : Nat) (e : CqEntry)
  | cqProd (cq : Nat)
  | storeRing (tag : Nat)
  | dest
  | ferryHost (tag : Nat)
  deriving DecidableEq, Repr

/-- A host access in progress (R272, R273): the function, the instance address, the length or the data to write, and what it
waits for: the page-list entry of (window, page), or the data. -/
structure Access where
  id : Nat
  fn : Nat
  addr : Nat
  len : Nat
  data : Option Bytes
  listOf : Option (Nat × Nat)
  purpose : Purpose
  deriving DecidableEq, Repr

/-- A translation-cache entry: function, window, page index, and the page-list entry (R273). -/
structure TlbEntry where
  fn : Nat
  win : Nat
  page : Nat
  entry : Nat
  deriving DecidableEq, Repr

/-- The object a QENG_LOAD under way names (R270): OBJECT, ACTION and INDEX, RESULT and REASON once decided, and the window
table that waits for the drain of R275. -/
structure Load where
  object : Nat
  action : Nat
  index : Nat
  decided : Option (Nat × Nat)
  table : List Window
  deriving DecidableEq, Repr

/-- The queue engine, ITU and mailboxes beside their registers. -/
structure HostSt where
  cmds : Amap Cmd
  fns : Amap FnDesc
  sqs : Amap Sq
  cqs : Amap Cq
  /-- The function a queue is granted to (R49). -/
  sqGrant : Amap Nat
  cqGrant : Amap Nat
  windows : Amap (List Window)
  tlb : List TlbEntry
  accesses : List Access
  load : Option Load
  /-- A descriptor's MAX_INFLIGHT that applies at the next round boundary (R287). -/
  inflightNext : Amap FnDesc
  /-- The lowest-numbered eligible SQ at which the last round began (R284). -/
  lastStart : Nat
  /-- v[e][t] of R286, key 2t for the PKE and 2t + 1 for the SKE, and v_now. -/
  vtime : Amap Nat
  vnowPke : Nat
  vnowSke : Nat
  /-- MSI-X: enabled functions, functions in D3hot, table words (key fn × 0x10000 + byte offset) and the PBA (fn × 2048 +
  vector) (R289). -/
  msixOn : List Nat
  d3hot : List Nat
  msixTable : Amap Nat
  pba : List Nat
  /-- Bindings: the instance's tenants (R268). -/
  bindings : Amap (List Nat)
  nextId : Nat
  deriving DecidableEq, Repr

/-! ### Compass (chapter 11) -/

/-- An armed waypoint (Table CT.6); `late` where its instant was passed by a correction, a step, a reload or was past when
set (R311). -/
structure Waypoint where
  action : Nat
  repeats : Bool
  alignedOnly : Bool
  phase : Nat
  cycle : Nat
  period : Nat
  left : Nat
  arg : Bytes
  late : Bool
  deriving DecidableEq, Repr

/-- A RATE_WINDOW in force: the share and the tick count at which it ends (Table CT.7). -/
structure RateWindow where
  share : Nat
  endsAt : Nat
  deriving DecidableEq, Repr

/-- Compass beside its registers. Times are in units of 0.15625 ns on one clock that starts at the held count's tick. -/
structure CompassSt where
  running : Bool
  count : Nat
  /-- PHASE of the last stamp issued in this tick: the next is no less (R298). -/
  lastPhase : Nat
  seq : Nat
  /-- Ticks counted since power-on or PORST_N: the unit of every duration in mc (R297). -/
  mc : Nat
  /-- The present cycle's start, and the last tick. -/
  cycleAt : Nat
  tickAt : Nat
  /-- This cycle's tick has been counted (R297); a crossing was discarded in it (R296). -/
  ticked : Bool
  discarded : Bool
  /-- Missing or implausible cycles in a row (R297). -/
  badRun : Nat
  /-- The phase loop's period estimate, the length it predicts for this cycle, and |e| of the last 8 valid crossings
  (R298, R301). -/
  estimate : Nat
  span : Nat
  errors : List Nat
  /-- u at the entry to HOLDOVER, and ticks since (R301). -/
  u0 : Nat
  heldTicks : Nat
  /-- E starts at `eBase` plus the elapsed time at `heldPeriod`, with `uBase` added to u_E (R302). -/
  eBase : Nat
  heldPeriod : Nat
  uBase : Nat
  /-- D of the aligning step that is due (R308). -/
  stepDue : Nat
  /-- Counted crossings since the step, in STEP (Table CT.2). -/
  stepTicks : Nat
  /-- The comparisons within limit in a row (R314). -/
  agreeRun : Nat
  waypoints : Amap Waypoint
  /-- COMMAND holds: waypoint number to SQ; entries released and not yet taken, by SQ (Table CT.7). -/
  holds : Amap Nat
  released : Amap Nat
  /-- EPOCH waypoints that have fired and whose roll waits for the custody firmware (R312). -/
  epochDue : List (Nat × Waypoint)
  rates : Amap RateWindow
  /-- The two anchor-key entries: KIND and digest (R306). -/
  anchorKeys : List (Nat × Bytes)
  deriving DecidableEq, Repr

/-! ### Custodians and quorum (chapter 9) -/

/-- A custodian entry (Table DC.1), with the port where its PIN is set (Table DC.2). -/
structure Custodian where
  digest : Bytes
  kind : Nat
  port : Bool
  pinPending : Bool
  pinFails : Nat
  verifier : Bytes
  suspendUntil : Nat
  enrolPort : Nat
  deriving DecidableEq, Repr

/-- A class's policy (R248): its mask, `none` for every enrolled custodian of the kind, M and the timeout in mc. -/
structure Policy where
  mask : Option Nat
  m : Nat
  timeout : Nat
  deriving DecidableEq, Repr

/-- What a quorum slot holds beside its registers: the command, its digest, its operation ID and whether SHOW was sent for
it (R236, R251, R260). -/
structure Act where
  m : Msg
  digest : Bytes
  opId : Nat
  shown : Bool
  deriving DecidableEq, Repr

/-- An operation found in the slot mirror at a start (Table DC.4). -/
structure Mirrored where
  opId : Nat
  opcode : Nat
  cls : Nat
  inst : Nat
  deriving DecidableEq, Repr

/-- A custodian port (R257 to R262): the pairing count, the pairing key, the session, the two sequence numbers, the
discards in a row, the transactions without a valid frame, and the frames that wait to be sent. -/
structure Port where
  pairCount : Nat
  paired : Bool
  key : Bytes
  session : Bytes
  nonce : Bytes
  txSeq : Nat
  rxSeq : Nat
  discards : Nat
  silent : Nat
  queue : List (Nat × Bytes)
  deriving DecidableEq, Repr

/-- The quorum unit beside its registers. Custodian keys: device position p under p, tenant t's position p under
0x1000 + 8t + p. Policy keys: a device class under its code, a tenant class under code × 0x1000 + tenant. -/
structure QuorumSt where
  custodians : Amap Custodian
  policies : Amap Policy
  acts : Amap Act
  /-- The serial of the next operation ID (R236). -/
  serial : Nat
  /-- The 256 most recent outcomes, newest first: operation ID and status (R237). -/
  outcomes : List (Nat × Nat)
  /-- Commands now run as released acts: CID to slot. -/
  acting : Amap Nat
  mirror : List Mirrored
  portA : Port
  portB : Port
  /-- The CMAC of the custodian tables fails: they are treated as empty (R246). -/
  tablesFailed : Bool
  /-- VIO_CUST disagreed with STRAP2 at the last rise of PORST_N: both ports stay unpaired (R461). -/
  portsOff : Bool
  deriving DecidableEq, Repr

/-! ### Keys (chapter 3) -/

/-- A tenant-root entry as it stands in a table (Table KH.5). -/
structure TableEntry where
  state   : Nat
  live    : Nat
  tg      : Nat
  wgs     : List Nat
  wrapped : Bytes
  deriving DecidableEq, Repr

/-- A table set as it stands in one MRAM bank (Table KH.4): its header with the CRC-32C, and the entries of tables P and F that are
not EMPTY; the device entry stands under 4,096. `version` is the security version of the image it serves, which the firmware keeps
beside the header (log entry 95). -/
structure TableSet where
  seq   : Nat
  tagP  : Bytes
  tagF  : Bytes
  image : Bytes
  crc   : Nat
  version : Nat
  p     : Amap TableEntry
  f     : Amap TableEntry
  deriving DecidableEq, Repr

/-- An opened tenant (R78): its entry and the tenant root record of its reserved slot. `failed` marks an entry whose unwrap
failed, and `raw` is what stands in its WRAPPED field. -/
structure Tenant where
  state  : Nat
  live   : Nat
  tg     : Nat
  wgs    : List Nat
  trk    : Bytes
  salts  : List Bytes
  failed : Bool
  raw    : Bytes
  deriving DecidableEq, Repr

/-- A working key slot that is LOADED: its tag (Table KH.9), its cells, which hold the key under the slot's mask (R97), the hamper
it came from (load map, R122) and its use count (R193, R195). -/
structure Slot where
  tenant : Nat
  epoch  : Nat
  typ    : Nat
  len    : Nat
  curve  : Nat
  pinned : Bool
  isSealed : Bool
  usage  : Nat
  wg     : Nat
  inuse  : Nat
  age    : Nat
  cells  : Bytes
  /-- The reference of its hamper, 0 for a key derived into the slot; its SERIAL and LABEL. -/
  ref    : Nat
  serial : Nat
  label  : Nat
  used   : Nat
  limit  : Nat
  lowSeen  : Bool
  /-- NONCE_LOW was raised while rotation was on: a successor is due (R195). -/
  rotateDue : Bool
  exhaustSeen : Bool
  /-- The rotation number of this key, 0 for a key that is no successor (R195). -/
  rotation : Nat
  /-- The slot of the successor once it is linked, and whether a rotation failed. -/
  successor : Option Nat
  /-- The instance whose command loaded it (R291), and whether it is to be wiped once INUSE reaches 0 (R95). -/
  loader : Nat
  doomed : Bool
  deriving DecidableEq, Repr

/-- A value that the keeper holds twice (R67, R111): copy 0 under the mask, copy 1 its complement, each with 8 check bits per 64-bit
word, and the mask. All are empty where no value is held. -/
structure Twin where
  copy0 : Bytes
  copy1 : Bytes
  ecc0  : Bytes
  ecc1  : Bytes
  mask  : Bytes
  deriving DecidableEq, Repr

/-- The keys: the keeper's root-secret store, what die M holds of it, the tenant-root area and the working slots. -/
structure KeySt where
  /-- The root secret's two copies under the keeper mask K (R67). -/
  rs : Twin
  /-- The store anchor's two copies (R111). -/
  anchor : Twin
  /-- The OTP check values, oldest first (R67, R70). -/
  checks : List Bytes
  /-- The released keys (Table KH.2), empty while not held; the prospective pair of a handover; STK (R109). -/
  dmk : Bytes
  dmkd : Bytes
  sealRoot : Bytes
  idSeeds : Bytes
  nextDmk : Bytes
  nextDmkd : Bytes
  stk : Bytes
  /-- The attestation key in its reserved slot, empty where there is none (R100). -/
  attKey : Bytes
  /-- The two table sets in MRAM bank 0 and their copies in bank 1, the set opened and the one a handover staged (R75, R86). -/
  set0 : TableSet
  set1 : TableSet
  copySet0 : TableSet
  copySet1 : TableSet
  active : Option Nat
  staged : Option Nat
  tenants : Amap Tenant
  /-- Marks of R82: tenants, and wrap generations of a tenant, that are dying. -/
  dyingTenants : List Nat
  dyingWgs : List (Nat × Nat)
  slots : Amap Slot
  /-- EPOCH of each slot loaded since the start of G5; `epochGen` is the DRBG's Key and V from which the rest were drawn (R93). -/
  epochs : Amap Nat
  epochGen : Bytes × Bytes
  /-- The scramble tables and the mask key (R96, R97). -/
  scramble : Bytes
  maskKey : Bytes
  /-- With no key-slot bank working: the tenants whose root record is in the key reserve, last used first (R91). -/
  reserve : List Nat
  /-- Quotas, default usage limits and rotation, by tenant (R94, R193, R195). -/
  quotas : Amap Nat
  limits : Amap Nat
  rotating : List Nat
  deriving DecidableEq, Repr

/-- What a load puts into a slot: the tag's fields, the key and where it came from. -/
structure Cargo where
  tenant : Nat
  typ    : Nat
  curve  : Nat
  usage  : Nat
  wg     : Nat
  pin    : Bool
  isSealed : Bool
  key    : Bytes
  ref    : Nat
  serial : Nat
  label  : Nat
  rotation : Nat
  deriving DecidableEq, Repr

/-! ### The hamper store (chapter 4) -/

/-- A store request: OP of Table HS.7, its page, VERSION, URGENT, the data of a write, the buffer it took, whether it was
posted once before after a bad answer (R119, R476), whether it is the second fetch after a mismatch (R129), and whether its
answer only frees its TAG and buffer (R119, R478). -/
structure Req where
  op      : Nat
  page    : Nat
  version : Nat
  urgent  : Bool
  data    : Bytes
  buffer  : Option Nat
  again   : Bool
  second  : Bool
  stale   : Bool
  deriving DecidableEq, Repr

/-- A page read in and not yet vouched for (R122 step 2): the bytes (`none` for ABSENT), whether this is the second fetch
(R129), and whether the host could not deliver it (R119). -/
structure Fetched where
  bytes  : Option Bytes
  second : Bool
  failed : Bool
  deriving DecidableEq, Repr

/-- A command whose change lies in a batch: its number, its answer, and the key to load into a slot once the batch has
committed (LOAD of Table CM.4). -/
structure Held where
  cid  : Nat
  resp : Resp
  load : Option (Nat × Cargo)
  deriving DecidableEq, Repr

/-- A batch (R124): its dirty data pages and changed nodes; at its close the writes to post (OP, page, data), the root node
and NEXT_SERIAL; the commands and rotation links (R195: old slot, its epoch, the successor's handle and rotation number) that
wait for its commit; and how far that has come (0 open, 1 closed, 2 writes posted, 3 BARRIER posted). -/
structure Batch where
  pages  : Amap Bytes
  nodes  : List Nat
  writes : List (Nat × Nat × Bytes)
  root   : Bytes
  serial : Nat
  cmds   : List Held
  links  : List (Nat × Nat × Nat × Nat)
  phase  : Nat
  deriving DecidableEq, Repr

/-- A root record (Table HS.5). -/
structure RootRec where
  version : Nat
  epoch   : Nat
  log2    : Nat
  root    : Bytes
  serial  : Nat
  cycle   : Nat
  tag     : Bytes
  crc     : Nat
  deriving DecidableEq, Repr

/-- The format record of R115, with its CRC-32C. -/
structure FormatRec where
  target : Nat
  log2   : Nat
  opId   : Nat
  crc    : Nat
  deriving DecidableEq, Repr

/-- The store engine beside its registers. Nodes are keyed level × 2^27 + index; fetched pages 2 × page, plus 1 for a node
page. -/
structure StoreSt where
  attached : Bool
  reqs     : Amap Req
  waiting  : List Req
  nextTag  : Nat
  fetched  : Amap Fetched
  root     : Bytes
  nextSerial : Nat
  pinned   : Amap Bytes
  /-- The unpinned part of the node cache, most recently used first (R120). -/
  others   : List (Nat × Bytes)
  batches  : List Batch
  failed   : List (Nat × Nat)
  failed5  : List Nat
  bank0    : Amap RootRec
  bank1    : Amap RootRec
  /-- The format record in MRAM bank 0 and in bank 1. -/
  format   : Option FormatRec
  formatCopy : Option FormatRec
  /-- A STORE_FORMAT that waits for the batches: its command and PAGES_LOG2 (R115). -/
  formatting : Option (Nat × Nat × Nat)
  /-- Completions staged at a G5 reset, with the version their batch was to have (R125). -/
  stagedDone : List (Nat × Held)
  /-- The next node page that the prefill looks at: level and index (R120). -/
  prefill  : Option (Nat × Nat)
  /-- A response entry could not be read (R475). -/
  stuck    : Bool
  /-- The large-hamper cache, most recently used first: reference and page (R123). -/
  large    : List (Nat × Bytes)
  /-- Requests whose entry or buffer could not be written: each counts as answered with MEDIUM_ERROR (R475). -/
  unposted : List Req
  /-- A request whose ring entry or buffer lies in a page whose page-list entry is being read (R273, R475). -/
  posting  : Option Req
  deriving DecidableEq, Repr

/-! ### The engines (chapters 5 and 6) -/

/-- A short-Weierstrass curve's parameters: PBITS, cofactor, p, a, b, the base point and its order. -/
structure CurveP where
  pbits : Nat
  h : Nat
  p : Nat
  a : Nat
  b : Nat
  gx : Nat
  gy : Nat
  n : Nat
  deriving DecidableEq, Repr

/-- What a cluster's masking generator gives one run (R164): the seed that keys the ChaCha20 block function, its nonce, and the first
block. -/
structure Masks where
  seed  : Bytes
  nonce : Bytes
  start : Nat
  deriving DecidableEq, Repr

/-- A job for the PKE (`ske` false) or the SKE: its program or algorithm, curve handle and PARAM; its tenant and wrap generation;
the handles of the slots it uses; whether it uses a private key, and whether it draws from the DRBG; its cost in engine cycles
(R286); whether it is the store route's or the custody firmware's own; the key material, taken from the slots as it starts, as two
shares, the stored bytes and the mask (R98), or with no mask where it came unmasked; and its inputs. For the PKE `aad` is the public
key or peer value, `tag` the signature or ciphertext, `iv` the random bytes drawn at the start and `extra` the context or label; for
the SKE they are the AAD, the tag, the IV, nonce, counter block or tweak, and the customisation or context. `validate` marks the job
that checks an imported key (R152), `curves` holds the curves of its handles as its dispatch found them (R161, R170), and `gen` the
masking generator's part for this run (R164). A job with a `part` gives its command that part (Cmd.parts) in place of its answer. -/
structure Job where
  cid    : Nat
  ske    : Bool
  prog   : Nat
  curve  : Nat
  param  : Nat
  tenant : Nat
  wg     : Nat
  slots  : List Nat
  priv   : Bool
  draws  : Bool
  cost   : Nat
  own    : Bool
  key    : Bytes
  mask   : Bytes
  key2   : Bytes
  mask2  : Bytes
  aad    : Bytes
  iv     : Bytes
  tag    : Bytes
  extra  : Bytes
  data   : Bytes
  outLen : Nat
  validate : Bool
  curves : List (Nat × CurveP)
  gen    : Option Masks
  part   : Nat
  m      : Msg
  deriving DecidableEq, Repr

/-- A PKE cluster beside its registers. -/
structure Cluster where
  job : Option Job
  /-- The tick from which it has been idle (R133). -/
  idleSince : Nat
  /-- The masking seed, the count of seeds, the runs made under this one, the mc at which it ends, and the next seed where it is there
  already (R164). -/
  seed : Bytes
  seedCount : Nat
  runs : Nat
  seedEnds : Nat
  nextSeed : Bytes
  /-- The packages in its microcode store, with the programs of each body (R141, R144). -/
  loaded : Amap (List Nat)
  /-- It has passed its self-test and waits for its first seed (R135); it is held for service (R144, R169); it comes back from its
  quarantine (R169). -/
  tested : Bool
  held : Bool
  returning : Bool
  /-- The body of a package waits to be rolled onto it (R145), as a mask of packages. -/
  roll : Nat
  /-- mc of its quarantines (R169). -/
  quarAt : List Nat
  /-- It has applied the commit under way (Table GI.7: each cluster applies on its own). -/
  took : Bool
  deriving DecidableEq, Repr

/-- An SKE lane beside its registers: its request, and the numbers of its requests that had a mismatch (R183). -/
structure Lane where
  job : Option Job
  mism : List Nat
  /-- Bytes processed since cold reset, of which SKE_LANE_BYTES shows units of 4 KiB. -/
  bytes : Nat
  /-- It has applied the commit under way (Table GI.7: at the end of its request). -/
  took : Bool
  deriving DecidableEq, Repr

/-- An entry of the digest table (Table PK.3). -/
structure Package where
  version : Nat
  bodyLen : Nat
  digest  : Bytes
  copy    : Nat
  crc     : Nat
  deriving DecidableEq, Repr

/-- A body in the package area: its bytes, and the programs of its table (Table PK.2). -/
structure PkgBody where
  bytes    : Bytes
  programs : List Nat
  deriving DecidableEq, Repr

/-- A loaded curve (Table PK.9a). -/
structure Curve where
  pbits : Nat
  h : Nat
  label : Nat
  p : Nat
  a : Nat
  b : Nat
  gx : Nat
  gy : Nat
  n : Nat
  mac : Bytes
  deriving DecidableEq, Repr

/-- A CLUSTER_SERVICE that waits for its action's end (R417): its command, the kind of part (0 PKE cluster, 1 SKE lane, 2
region), the part, and the state it is to reach. -/
structure Service where
  cid  : Nat
  kind : Nat
  part : Nat
  goal : Nat
  deriving DecidableEq, Repr

/-- The engines beside their registers. -/
structure EngSt where
  clusters : Amap Cluster
  lanes    : Amap Lane
  pkeQueue : List Job
  skeQueue : List Job
  /-- The digest table in MRAM bank 0 and in bank 1, and the bodies by 2 × PACKAGE_ID + COPY (R143). -/
  packages : Amap Package
  packages1 : Amap Package
  bodies   : Amap PkgBody
  curves   : Amap Curve
  /-- The nonce reservation ring, one per MRAM bank, newest first (R191). -/
  nonce0   : List Nat
  nonce1   : List Nat
  /-- A reservation write is under way to this H. -/
  reserving : Option Nat
  /-- Encryptions under R179 are refused under R191. -/
  baseLost : Bool
  services : List Service
  deriving DecidableEq, Repr

/-! ### Entropy (chapter 7) -/

/-- A noise source beside its registers: whether it has passed its start-up test since it started (R207), the commands that wait for
its recalibration, once its sweep has ended the chosen trim and its estimate, which wait for the first lag window (R220, R222), the run
of equal bits that its last window ended with, its isolations in this boot, and whether the custody firmware's own recalibration is
still due after the last of them (R220). -/
structure Source where
  tested : Bool
  waiting : List Nat
  chosen : Option (Nat × Nat)
  run : Bool × Nat
  isolations : Nat
  due : Bool
  deriving DecidableEq, Repr

/-- A source's entry in the trim record, or for NK in the keeper's retained registers (R213, R222): its trim, the estimate of its last
recalibration and its isolation mark. -/
structure Trim where
  trim : Nat
  estimate : Nat
  marked : Bool
  deriving DecidableEq, Repr

/-- The TRNG beside its registers: the pool, oldest block first, with the source of each (R205); the source used last (R211);
the host FIFO and the VALID latches by requester (R217); the mc count of the last reseed (R212); whether the DRBG's inputs have
held an NK block since the instantiation. -/
structure TrngSt where
  /-- Key and V of the CTR_DRBG (R210), empty while it is not instantiated. -/
  key : Bytes
  v   : Bytes
  pool : List (Nat × Bytes)
  lastSource : Nat
  fifo : List Bytes
  valid : Amap Nat
  reseedMc : Nat
  nkIn : Bool
  sources : Amap Source
  /-- A tamper erasure keeps the DRBG down until the next boot (Table EN.6). -/
  erased : Bool
  /-- A known-answer test failed since the last reset (R207). -/
  katFailed : Bool
  /-- The DRBG has stopped since its last instantiation: TRNG_RESTORED is owed (R209). -/
  stopped : Bool
  /-- The trim record, by source (R222). -/
  trims : Amap Trim
  /-- The seed of the random-delay generators of the custody die's decision paths, how often they have drawn on it, and whether a new
  seed is due (R357, Table EN.5). -/
  delaySeed : Bytes
  delayDraws : Nat
  delayDue : Bool
  deriving DecidableEq, Repr

/-! ### Life cycle, boot, configuration (chapter 15) -/

/-- The configuration block (Table LC.9): the key entries are 17 bytes, or empty for none; one (main, Thermos) pair of
responses per tamper source; the temperature limits as bytes. -/
structure CfgBlock where
  nwPages   : Nat
  nwKey     : Bytes
  anchor0   : Bytes
  anchor1   : Bytes
  responses : List (Nat × Nat)
  low       : Nat
  high      : Nat
  fallback  : Nat
  deriving DecidableEq, Repr

/-- OTP, MRAM and boot state beside the registers. -/
inductive Change where
  /-- FIRMWARE_ACTIVATE of a bank. -/
  | update (bank : Nat)
  /-- LIFECYCLE_TRANSITION from one state to another. -/
  | transition (from_ to_ : Nat)
  deriving DecidableEq, Repr

structure LifeSt where
  /-- OTP (Table LC.3): serial, Trailhead ROM digest, state rows, completion rows and intent rows as 32-bit words, token
  digests T_INT, T_FLD, T_RET, T_SCR, and the values of the limited-change rows, oldest first. -/
  serial     : Bytes
  romDigest  : Bytes
  stateRows  : List Nat
  doneRows   : List Nat
  intents    : List Nat
  tokens     : List Bytes
  floors     : List Nat
  nominals   : List Nat
  passwords  : List Bytes
  debugKeys  : List Bytes
  /-- The boot selector (R410). -/
  selActive  : Nat
  selTrial   : Option Nat
  selFallback : Nat
  selSeq     : Nat
  /-- What Trailhead measured at this start: the ROM, the custody image and the configuration body (Table KH.3). -/
  romMeasured : Bytes
  imageDigest : Bytes
  cfgDigest   : Bytes
  /-- The configuration in force, and the block as it stands in MRAM with its CMAC. -/
  cfg       : CfgBlock
  cfgStored : CfgBlock
  cfgMac    : Bytes
  /-- The 40 KiB package buffer (R415). -/
  pkgBuffer : Bytes
  /-- The debug challenge, empty where none is valid (R406). -/
  challenge : Bytes
  /-- Local ticks of the last wrong password or key and of the last wrong token (R398). -/
  pwFailAt    : Nat
  tokenFailAt : Nat
  /-- A life-cycle restart, a live update or a configuration switch is under way (R397). -/
  underway  : Bool
  /-- A live update or a transition that waits for the queues to be quiesced (R86, R401, R416): its command, and what it is. -/
  updating  : Option (Nat × Change)
  /-- Custody pairs fenced: bit 0 A, bit 1 B (R417). -/
  pairsFenced : Nat
  /-- Temperature sensors out of service, by source number, and offset trims in quarter degrees plus 32 (R418). -/
  sensorsOut  : List Nat
  sensorTrims : Amap Nat
  /-- The facts of a start that waits: for the root secret (R66), or for the DRBG (Table LC.8 step 5). -/
  booting     : Option BootFacts
  deriving DecidableEq, Repr

/-! ### Worlds (chapter 12) -/

/-- A fabric access held by a checker that drains (R333). -/
structure HeldAccess where
  req  : Requester
  kind : AccKind
  addr : Nat
  len  : Nat
  data : Bytes
  deriving DecidableEq, Repr

/-- Worlds and protection beside the registers. -/
structure WorldsSt where
  /-- A custody pair has missed its watchdog since it last fed it (R340). -/
  missedA : Bool
  missedB : Bool
  /-- Accesses held, oldest first, by a checker that drains (R333). -/
  held : List (Nat × HeldAccess)
  /-- The first denied debug access of the session has been recorded (R339). -/
  debugSeen : Bool
  /-- Checkers whose standing rules or POT have been committed; the others run under the boot rules (R329). -/
  ruled : List Nat
  /-- The notice FIFO of the crossing unit, oldest first (R335). -/
  notices : List Bytes
  deriving DecidableEq, Repr

/-! ### The keeper (chapter 13) -/

/-- A decision on an alarm (R357): the response, whether Thermos mode decides it, whether path B came first, whether the second path has
agreed, the record's DETAIL and VALUE, the delay in steps of 0.125 µs where it waits one out, and the SERIAL and TIME that its record
took as the source was detected (R360, Table TK.8). -/
structure Decision where
  response : Nat
  battery  : Bool
  bFirst   : Bool
  agreed   : Bool
  detail   : Nat
  value    : Nat
  delay    : Nat
  serial   : Nat
  time     : Nat
  deriving DecidableEq, Repr

/-- A pocket record (Table TK.8). -/
structure Pocket where
  serial   : Nat
  time     : Nat
  source   : Nat
  response : Nat
  flags    : Nat
  detail   : Nat
  value    : Nat
  cycle    : Nat
  deriving DecidableEq, Repr

/-- The keeper beside its registers and its root-secret store: the paths that alarm, as masks of sources (R357), decisions
under way, the pocket log (records 0 to 14, and record 15), the next SERIAL, the action word (R359), the die-to-die session (R211), and
what the keeper drew from NK at its start (R201): the seeds of the mesh and loop patterns (R350), and the decision generator's seed with
the draws made on it (R357). The 64-bit Compass count that the keeper holds (R302) is in KEEPER registers. -/
structure KeeperSt where
  pathA    : Nat
  pathB    : Nat
  deciding : Amap Decision
  pocket   : List Pocket
  last     : Option Pocket
  serial   : Nat
  action   : Option (Nat × Nat)
  session  : Bool
  patterns : Bytes
  decisionSeed  : Bytes
  decisionDraws : Nat
  deriving DecidableEq, Repr

/-! ### Ferry and federation (chapter 16) -/

/-- An entry of the topology record (R425). -/
structure Topo where
  port   : Nat
  pos    : Nat
  serial : Nat
  deriving DecidableEq, Repr

/-- A replication offer that is held (R440): its OFFER_ID, the random bytes of its ephemeral keys, and the mc at which it
ends. -/
structure Offer where
  id   : Bytes
  secret : Bytes
  ends : Nat
  deriving DecidableEq, Repr

/-- A message to a follower, or from one, that waits for its answer: the follower, and the command, or the requester and
offset of a far read. -/
structure FarWait where
  dev : Nat
  cid : Option Nat
  req : Requester
  off : Nat
  deriving DecidableEq, Repr

/-- A Ferry frame as it is sent (Table FY.2). -/
structure FerryFrame where
  kind  : Nat
  dest  : Nat
  src   : Nat
  ttl   : Nat
  xtag  : Nat
  lseq  : Nat
  ack   : Nat
  first : Bool
  last  : Bool
  nak   : Bool
  data  : Bytes
  deriving DecidableEq, Repr

/-- A Ferry port beside FERRY_PORT: the last LSEQ received in order, the next one to send, credits, frames sent and not yet
acknowledged, and the local ticks of its last CRC failures (R428). -/
structure FerryPort where
  rxSeq   : Nat
  txSeq   : Nat
  credits : Nat
  unacked : List FerryFrame
  bad     : List Nat
  deriving DecidableEq, Repr

/-- Ferry and federation beside the registers. -/
structure FerrySt where
  /-- The topology record, by device number (R425). -/
  topo    : Amap Topo
  ports   : Amap FerryPort
  waits   : Amap FarWait
  nextTag : Nat
  /-- Commands held for a follower with 256 outstanding (R431), oldest first. -/
  queued  : List (Nat × Nat)
  /-- Bytes gathered of a multi-frame message, by XTAG (R427). -/
  gathered : Amap Bytes
  /-- The front device that made this device a follower, by its serial (R423, R426). -/
  front    : Option Nat
  /-- What the enumeration that found the topology record empty has found so far (R424): port, position, serial and
  life-cycle state; position 0 for the walk that came back on a port. -/
  found    : List (Nat × Nat × Nat × Nat)
  /-- The domain pin: the digests of AUTH_EC and AUTH_ML (R438); the certificate accepted; DOMAIN_ID, index and last
  CERT_SERIAL of each domain the device has been in. -/
  pin     : Bytes
  cert    : Bytes
  past    : List (Nat × Nat × Nat)
  /-- Tenants with a replica bit (R440), and the offers held, by tenant. -/
  replicas : List Nat
  offers   : Amap Offer
  /-- Ports that CLUSTER_SERVICE powered off, as a mask (R417). -/
  off      : Nat
  deriving DecidableEq, Repr

/-! ### Outputs -/

/-- What the device puts out: the newest stands first in `State.out`. -/
inductive Out where
  /-- The response to the command numbered `cid`, TAG and opcode as it carried them. -/
  | response (origin : Origin) (cid tag opcode inst : Nat) (r : Resp)
  /-- A read is answered with `value`. -/
  | readData (req : Requester) (off value : Nat)
  | fabricData (req : Requester) (addr : Nat) (data : Bytes)
  | fabricDenied (req : Requester) (addr : Nat)
  /-- A read of host memory at bus address or instance address `addr`, numbered `id`, by function `fn`. -/
  | hostRead (id fn addr len : Nat)
  | hostWrite (fn addr : Nat) (data : Bytes)
  | msix (fn vec : Nat)
  /-- An event source reaches the normal-world interrupt controller (R320). -/
  | normalWorldIrq (source : Nat)
  /-- A header read of an SQ or CQ is issued. -/
  | headerRead (cq : Bool) (queue : Nat)
  | storeRequest (code tag index : Nat) (data : Bytes)
  | ferryFrame (port : Nat) (f : FerryFrame)
  | portFrame (port kind : Nat) (data : Bytes)
  | smbus (data : Bytes)
  | journalWrite (addr : Nat) (seq typ inst stamp : Nat) (body : Bytes)
  deriving DecidableEq, Repr

/-- Why a step stops: nothing in this block does. Every command is answered and every event leaves a next state, so no
meaning raises this; it stands because the interface asks for a type of faults (safe). -/
inductive Fault where
  /-- Raised by no meaning (safe). -/
  | stuck
  deriving DecidableEq, Repr

/-- Why a command has no meaning. -/
inductive Refusal where
  /-- Raised by an arm of `exec` for a command that has no meaning yet (safe). -/
  | notModelled (mnemonic : String)
  deriving DecidableEq, Repr

/-- The whole device. -/
structure State where
  /-- Every register field that stands off its Cold value (key: offset × 64 + lowest bit). -/
  regs    : Amap Nat
  mem     : List Host.Cell
  iface   : IfaceSt
  pwr     : Pwr
  fault   : FaultSt
  log     : LogSt
  host    : HostSt
  keys    : KeySt
  hs      : StoreSt
  eng     : EngSt
  trng    : TrngSt
  quorum  : QuorumSt
  compass : CompassSt
  worlds  : WorldsSt
  life    : LifeSt
  keeper  : KeeperSt
  ferry   : FerrySt
  /-- The commands that wait, first in, first out. -/
  pending : List Instr
  /-- What the device put out, newest first. -/
  out     : List Out
  /-- The model's count of draws: the index of the next free value (no state of the manual's). -/
  fresh   : Nat
  deriving DecidableEq, Repr

/-! ### Reset -/

/-- A custodian port that has never been paired (R4, R257). -/
def Port.unpaired : Port := ⟨0, false, [], [], [], 0, 0, 0, 0, []⟩

/-- A table set without a valid header (R77). -/
def TableSet.empty : TableSet := ⟨0, [], [], [], 0, 0, [], []⟩

/-- No value held. -/
def Twin.empty : Twin := ⟨[], [], [], [], []⟩

/-- The configuration block as shipped (R4, Table LC.9, Table TK.4): 1,024 normal-world pages, no key entry, the class minima
as tamper responses, −50 °C and +160 °C. -/
def CfgBlock.shipped : CfgBlock :=
  ⟨1024, [], [], [],
    [(4, 1), (4, 1), (2, 0), (2, 0), (2, 0), (2, 0), (2, 0), (2, 0), (1, 0), (0, 0), (3, 0), (2, 0), (1, 0), (1, 0), (1, 0), (1, 0),
      (1, 0), (1, 0), (1, 0), (1, 0), (1, 0), (1, 0), (1, 0), (4, 1), (4, 1), (2, 0), (4, 1)],
    206, 160, 1⟩

/-- The programs of package 0x01 (R141, Table PK.4). -/
def shippedPrograms : List Nat :=
  [0x01, 0x02, 0x03, 0x04, 0x05, 0x08, 0x09, 0x0A, 0x0C, 0x0D, 0x0E, 0x10, 0x11, 0x18, 0x19, 0x1A, 0x1B, 0x1C, 0x20, 0x21, 0x28, 0x29,
    0x2A, 0x30, 0x31, 0x32, 0x38, 0x39, 0x3C, 0x40, 0x41, 0x42, 0x43, 0x44, 0x7F]

/-- The body of package 0x01 as shipped (Table PK.2): its program table, and code. The manual gives neither its length nor its code
nor the code offsets: free values within the table's bounds (log entry 3). -/
def PkgBody.shipped : PkgBody :=
  ⟨(shippedPrograms.map (fun i => [BitVec.ofNat 8 i, 0, 0, 0] ++ (List.range 4).map (Config.shippedOffset i))).flatten
      ++ (List.range (232 + 16 * (Config.shippedBlocks % 2017))).map Config.shippedCode, shippedPrograms⟩

/-- The bytes of a digest-table entry below its CRC (Table PK.3). -/
def Package.body (id : Nat) (p : Package) : Bytes :=
  [BitVec.ofNat 8 id, 1, BitVec.ofNat 8 p.version, BitVec.ofNat 8 (p.version / 256)]
    ++ (List.range 4).map (fun i => BitVec.ofNat 8 (p.bodyLen / 256 ^ i)) ++ p.digest ++ [BitVec.ofNat 8 p.copy, 0, 0, 0]

/-- An entry with its CRC. -/
def Package.mk' (id version bodyLen : Nat) (digest : Bytes) (copy : Nat) : Package :=
  ⟨version, bodyLen, digest, copy, Config.crc32c (Package.body id ⟨version, bodyLen, digest, copy, 0⟩)⟩

/-- The entry of package 0x01 as shipped. Its security version is not given (DESIGN CHOICE, log entry 3: 1). -/
def Package.shipped : Package := Package.mk' 1 1 PkgBody.shipped.bytes.length (Config.sha384 PkgBody.shipped.bytes) 0

/-- The device as shipped (R4) with its supplies up, as PORST_N rises (R23): every register at its Cold value, every memory
empty, Trailhead not yet run; the first BOOT command runs it. Two fields stand off the Cold value of the layout: SYS_PINS.HOLDUP
is 1, and LIFE_STATE.INTENTS is 1 for the transition that made the device INTEGRATOR (DESIGN CHOICE, log entry 3). -/
def State.reset : State where
  regs := [(0x10080 * 64 + 16, 1), (0xE0040 * 64 + 8, 1)]
  mem := []
  iface := ⟨[], [], [], [], []⟩
  pwr := ⟨true, true, false, 0, 0xFF, 0, false, [], false, 0, 0, 0, PartsOut.none, none⟩
  fault := ⟨[], false, false, false, 0, none, none, 0, []⟩
  log := ⟨[], [], [], [], 0, 0, 0⟩
  host := {
    cmds := [], fns := [], sqs := [], cqs := [], sqGrant := [], cqGrant := [], windows := [], tlb := [], accesses := []
    load := none, inflightNext := [], lastStart := 1023, vtime := [], vnowPke := 0, vnowSke := 0, msixOn := [], d3hot := []
    msixTable := [], pba := [], bindings := [], nextId := 0 }
  keys := {
    rs := Twin.empty, anchor := Twin.empty, checks := [], dmk := [], dmkd := [], sealRoot := [], idSeeds := [], nextDmk := []
    nextDmkd := [], stk := [], attKey := [], set0 := TableSet.empty, set1 := TableSet.empty
    copySet0 := TableSet.empty, copySet1 := TableSet.empty, active := none, staged := none
    tenants := [], dyingTenants := [], dyingWgs := [], slots := [], epochs := [], epochGen := ([], []), scramble := [], maskKey := []
    reserve := [], quotas := [], limits := [], rotating := [] }
  hs := {
    attached := false, reqs := [], waiting := [], nextTag := 0, fetched := [], root := [], nextSerial := 1, pinned := []
    others := [], batches := [], failed := [], failed5 := [], bank0 := [], bank1 := [], format := none, formatCopy := none, formatting := none
    stagedDone := [], prefill := none, stuck := false, large := [], unposted := [], posting := none }
  eng := {
    clusters := [], lanes := [], pkeQueue := [], skeQueue := [], packages := [(1, Package.shipped)], packages1 := [(1, Package.shipped)]
    bodies := [(2, PkgBody.shipped)], curves := [], nonce0 := [0]
    nonce1 := [0], reserving := none, baseLost := false, services := [] }
  trng := {
    key := [], v := [], pool := [], lastSource := 0, fifo := [], valid := [], reseedMc := 0, nkIn := false, sources := [], erased := false
    katFailed := false, stopped := false, trims := [], delaySeed := [], delayDraws := 0, delayDue := false }
  quorum := ⟨[], [], [], 0, [], [], [], Port.unpaired, Port.unpaired, false, false⟩
  compass := {
    running := false, count := 0, lastPhase := 0, seq := 0, mc := 0, cycleAt := 0, tickAt := 0, ticked := false
    discarded := false, badRun := 0, estimate := 0, span := 0, errors := [], u0 := 0, heldTicks := 0, eBase := 0, heldPeriod := 0
    uBase := 0, stepDue := 0, stepTicks := 0, agreeRun := 0, waypoints := [], holds := [], released := [], epochDue := [], rates := []
    anchorKeys := [] }
  worlds := ⟨false, false, [], false, [], []⟩
  life := {
    serial := List.replicate 8 0, romDigest := List.replicate 48 0, stateRows := [0xFFFFFFFF, 0, 0, 0]
    doneRows := [0xFFFFFFFF, 0, 0, 0]
    intents := 0xFE01FF00 :: List.replicate 15 0, tokens := List.replicate 4 (List.replicate 48 0), floors := [], nominals := []
    passwords := [], debugKeys := [], selActive := 0, selTrial := none, selFallback := 1, selSeq := 0, romMeasured := []
    imageDigest := [], cfgDigest := [], cfg := CfgBlock.shipped, cfgStored := CfgBlock.shipped, cfgMac := [], pkgBuffer := []
    challenge := [], pwFailAt := 0, tokenFailAt := 0, underway := false, updating := none, pairsFenced := 0, sensorsOut := [], sensorTrims := []
    booting := none }
  keeper := ⟨0, 0, [], [], none, 0, none, false, [], [], 0⟩
  ferry := {
    topo := [], ports := [], waits := [], nextTag := 0, queued := [], gathered := [], front := none, found := [], pin := []
    cert := [], past := [], replicas := [], offers := [], off := 0 }
  pending := []
  out := []
  fresh := 0

end Sys2Proof.Machine
end

