-- ==== Sys2Proof/Machine/Layout.lean ====
section
/-! DEFINITION. The register map: one `Fld` per field of the register tables of chapters 2 to 16 and 18 (Tables GI.4, GI.6,
GI.9, KH.11 and their fellows), under the register's own name, and the table `layout` of what each field admits (Table SC.6,
R11, R12, R53). -/

namespace Sys2Proof.Machine

/-- The block code that the header of the block set at `base` reads (Table GI.6). -/
def blockCode (base : Nat) : Nat :=
  if base = 0xC8000 then 13 else if base = 0xD0000 then 14 else if base = 0xE0000 then 15 else if base = 0xE8000 then 16
  else if base = 0xF0000 then 17 else base / 0x10000

/-- The bases of the block sets and half sets (Table GI.5, R51). -/
def blockBases : List Nat :=
  [0x10000, 0x20000, 0x30000, 0x40000, 0x50000, 0x60000, 0x70000, 0x80000, 0x90000, 0xa0000, 0xb0000, 0xc0000, 0xc8000, 0xd0000, 0xe0000, 0xe8000, 0xf0000]

/-- The class of tamper source `n` (Table TK.1). -/
def tamperClass (n : Nat) : Nat :=
  if n ≤ 1 then 1 else if n ≤ 7 then 2 else if n = 8 then 3 else if n = 9 then 4 else if n = 10 then 5
  else if n = 11 then 6 else if n = 12 then 7 else if n ≤ 18 then 8 else if n ≤ 22 then 9 else if n = 23 then 10
  else if n = 24 then 11 else 12

/-- The shipped main response of a class, its FIELDED minimum too (Table TK.4): 0 LOG, 1 ALERT, 2 LOCK, 3 PURGE, 4 SHRED. -/
def shippedMain (cls : Nat) : Nat :=
  match cls with
  | 1 => 4 | 2 => 2 | 3 => 1 | 4 => 0 | 5 => 3 | 6 => 2 | 7 => 1 | 8 => 1 | 9 => 1 | 10 => 4 | 11 => 4 | _ => 2

/-- The shipped main response of source `n` (Table TK.4). -/
def shippedMainOf (n : Nat) : Nat := if n = 26 then 4 else shippedMain (tamperClass n)

/-- The shipped Thermos response of source `n` (Table TK.4): 1 is SHRED. -/
def shippedThermosOf (n : Nat) : Nat :=
  if tamperClass n = 1 ∨ tamperClass n = 10 ∨ tamperClass n = 11 ∨ n = 26 then 1 else 0

namespace R

/-- DEV_STATUS.LIFE (02, R54). -/
def devStatusLife : Fld := ⟨0x4000, 0, 3, 1⟩
/-- DEV_STATUS.BOOT (02, R54). -/
def devStatusBoot : Fld := ⟨0x4000, 3, 2, 0⟩
/-- DEV_STATUS.CUSTODY_UP (02, R54). -/
def devStatusCustodyUp : Fld := ⟨0x4000, 5, 1, 0⟩
/-- DEV_STATUS.LOCKED (02, R54). -/
def devStatusLocked : Fld := ⟨0x4000, 6, 1, 0⟩
/-- DEV_STATUS.REDUCED (02, R54). -/
def devStatusReduced : Fld := ⟨0x4000, 7, 1, 0⟩
/-- DEV_STATUS.COMPASS_STATE (02, R54). -/
def devStatusCompassState : Fld := ⟨0x4000, 8, 4, 0⟩
/-- DEV_STATUS.MISSING (02, R54). -/
def devStatusMissing : Fld := ⟨0x4000, 16, 16, 0⟩
/-- COMPASS_NOW.CAPTURE (02, R54). -/
def compassNowCapture : Fld := ⟨0x4010, 0, 1, 0⟩
/-- COMPASS_NOW.CYCLE_LO (02, R54). -/
def compassNowCycleLo : Fld := ⟨0x4014, 0, 32, 0⟩
/-- COMPASS_NOW.CYCLE_HI (02, R54). -/
def compassNowCycleHi : Fld := ⟨0x4018, 0, 16, 0⟩
/-- COMPASS_NOW.PHASE (02, R54). -/
def compassNowPhase : Fld := ⟨0x4018, 16, 16, 0⟩
/-- COMPASS_NOW.STATE (02, R54). -/
def compassNowState : Fld := ⟨0x401c, 0, 4, 0⟩
/-- COMPASS_NOW.UNCERT (02, R54). -/
def compassNowUncert : Fld := ⟨0x401c, 4, 12, 0⟩
/-- COMPASS_NOW.SEQ (02, R54). -/
def compassNowSeq : Fld := ⟨0x401c, 16, 16, 0⟩
/-- LANTERN_STATUS.LEVEL (02, R54). -/
def lanternStatusLevel : Fld := ⟨0x4020, 0, 1, 0⟩
/-- LANTERN_STATUS.RUNNING (02, R54). -/
def lanternStatusRunning : Fld := ⟨0x4020, 1, 1, 0⟩
/-- LANTERN_STATUS.FAULT_ASSERTED (02, R54). -/
def lanternStatusFaultAsserted : Fld := ⟨0x4020, 2, 1, 0⟩
/-- LANTERN_STATUS.WORST (02, R54). -/
def lanternStatusWorst : Fld := ⟨0x4020, 4, 3, 0⟩
/-- LANTERN_STATUS.WDOG_MISSES (02, R54). -/
def lanternStatusWdogMisses : Fld := ⟨0x4020, 16, 16, 0⟩
/-- EVENT_SUMMARY.GROUP (02, R54). -/
def eventSummaryGroup : Fld := ⟨0x4030, 0, 32, 0⟩
/-- _ID.BLOCK of the block set at `b` (Table GI.6). -/
def hdrIdBlock (b : Nat) : Fld := ⟨b + 0x0, 0, 8, (blockCode b)⟩
/-- _ID.ISSUE of the block set at `b` (Table GI.6). -/
def hdrIdIssue (b : Nat) : Fld := ⟨b + 0x0, 8, 8, 1⟩
/-- _CTRL.QUIESCE of the block set at `b` (Table GI.6). -/
def hdrCtrlQuiesce (b : Nat) : Fld := ⟨b + 0x4, 0, 1, 0⟩
/-- _CTRL.SHADOW_VIEW of the block set at `b` (Table GI.6). -/
def hdrCtrlShadowView (b : Nat) : Fld := ⟨b + 0x4, 1, 1, 0⟩
/-- _CTRL.MASK of the block set at `b` (Table GI.6). -/
def hdrCtrlMask (b : Nat) : Fld := ⟨b + 0x4, 16, 16, 0⟩
/-- _STATE.IDLE of the block set at `b` (Table GI.6). -/
def hdrStateIdle (b : Nat) : Fld := ⟨b + 0x8, 0, 1, 1⟩
/-- _STATE.OFF of the block set at `b` (Table GI.6). -/
def hdrStateOff (b : Nat) : Fld := ⟨b + 0x8, 1, 1, 0⟩
/-- _STATE.RESETTING of the block set at `b` (Table GI.6). -/
def hdrStateResetting (b : Nat) : Fld := ⟨b + 0x8, 2, 1, 0⟩
/-- _STATE.QUIESCED of the block set at `b` (Table GI.6). -/
def hdrStateQuiesced (b : Nat) : Fld := ⟨b + 0x8, 3, 1, 0⟩
/-- _COMMIT.REQUEST of the block set at `b` (Table GI.6). -/
def hdrCommitRequest (b : Nat) : Fld := ⟨b + 0xc, 0, 8, 0⟩
/-- _COMMIT.PENDING of the block set at `b` (Table GI.6). -/
def hdrCommitPending (b : Nat) : Fld := ⟨b + 0xc, 8, 8, 0⟩
/-- _COMMIT.RESULT of the block set at `b` (Table GI.6). -/
def hdrCommitResult (b : Nat) : Fld := ⟨b + 0xc, 16, 2, 0⟩
/-- _COMMIT.LAST_GROUP of the block set at `b` (Table GI.6). -/
def hdrCommitLastGroup (b : Nat) : Fld := ⟨b + 0xc, 18, 3, 0⟩
/-- _COMMIT.REASON of the block set at `b` (Table GI.6). -/
def hdrCommitReason (b : Nat) : Fld := ⟨b + 0xc, 24, 8, 0⟩
/-- _ERR.SEQ of the block set at `b` (Table GI.6). -/
def hdrErrSeq (b : Nat) : Fld := ⟨b + 0x10, 0, 16, 0⟩
/-- _ERR.WRITE_WHILE_BUSY of the block set at `b` (Table GI.6). -/
def hdrErrWriteWhileBusy (b : Nat) : Fld := ⟨b + 0x10, 16, 1, 0⟩
/-- _ERR.SHADOW_FROZEN of the block set at `b` (Table GI.6). -/
def hdrErrShadowFrozen (b : Nat) : Fld := ⟨b + 0x10, 17, 1, 0⟩
/-- _ERR.DWORD of the block set at `b` (Table GI.6). -/
def hdrErrDword (b : Nat) : Fld := ⟨b + 0x10, 18, 14, 0⟩
/-- _ERR_COUNT.COUNT of the block set at `b` (Table GI.6). -/
def hdrErrCountCount (b : Nat) : Fld := ⟨b + 0x14, 0, 16, 0⟩
/-- SYS_ACCESS_ERR.SEQ (02, R54). -/
def sysAccessErrSeq : Fld := ⟨0x10040, 0, 16, 0⟩
/-- SYS_ACCESS_ERR.KIND (02, R54). -/
def sysAccessErrKind : Fld := ⟨0x10040, 16, 4, 0⟩
/-- SYS_ACCESS_ERR.FUNCTION (02, R54). -/
def sysAccessErrFunction : Fld := ⟨0x10040, 20, 8, 0⟩
/-- SYS_ACCESS_ERR.INTERNAL (02, R54). -/
def sysAccessErrInternal : Fld := ⟨0x10040, 28, 1, 0⟩
/-- SYS_ACCESS_ERR.WRITE (02, R54). -/
def sysAccessErrWrite : Fld := ⟨0x10040, 29, 1, 0⟩
/-- SYS_ACCESS_ERR_ADDR.OFFSET (02, R54). -/
def sysAccessErrAddrOffset : Fld := ⟨0x10044, 0, 25, 0⟩
/-- SYS_ACCESS_ERR_COUNT.COUNT (02, R54). -/
def sysAccessErrCountCount : Fld := ⟨0x10048, 0, 16, 0⟩
/-- KEEPER_RS_STATUS.PRESENT (03, R102). -/
def keeperRsStatusPresent : Fld := ⟨0xd0100, 0, 1, 0⟩
/-- KEEPER_RS_STATUS.COPIES_AGREE (03, R102). -/
def keeperRsStatusCopiesAgree : Fld := ⟨0xd0100, 1, 1, 0⟩
/-- KEEPER_RS_STATUS.WITHHELD (03, R102). -/
def keeperRsStatusWithheld : Fld := ⟨0xd0100, 2, 1, 0⟩
/-- KEEPER_RS_STATUS.GEN_DEFERRED (03, R102). -/
def keeperRsStatusGenDeferred : Fld := ⟨0xd0100, 3, 1, 0⟩
/-- KEEPER_RS_STATUS.CHK_ROWS (03, R102). -/
def keeperRsStatusChkRows : Fld := ⟨0xd0100, 4, 4, 0⟩
/-- KEEPER_RS_STATUS.REPAIRS (03, R102). -/
def keeperRsStatusRepairs : Fld := ⟨0xd0100, 8, 8, 0⟩
/-- KEEPER_RS_STATUS.GENERATED (03, R102). -/
def keeperRsStatusGenerated : Fld := ⟨0xd0100, 16, 1, 0⟩
/-- KEEPER_DERIVE_STATUS.RELEASED (03, R102). -/
def keeperDeriveStatusReleased : Fld := ⟨0xd0104, 0, 1, 0⟩
/-- KEEPER_DERIVE_STATUS.PROSPECTIVE (03, R102). -/
def keeperDeriveStatusProspective : Fld := ⟨0xd0104, 1, 1, 0⟩
/-- KEEPER_DERIVE_STATUS.REFUSAL (03, R102). -/
def keeperDeriveStatusRefusal : Fld := ⟨0xd0104, 8, 8, 0⟩
/-- SKE_SLOT_INUSE.LOADED (03, R102). -/
def skeSlotInuseLoaded : Fld := ⟨0x80400, 0, 17, 0⟩
/-- SKE_SLOT_LOADS.COUNT (03, R102). -/
def skeSlotLoadsCount : Fld := ⟨0x80404, 0, 32, 0⟩
/-- SKE_SLOT_EVICTS.COUNT (03, R102). -/
def skeSlotEvictsCount : Fld := ⟨0x80408, 0, 32, 0⟩
/-- SKE_SLOT_CFG.RESERVED_BANK (03, R102). -/
def skeSlotCfgReservedBank : Fld := ⟨0x8040c, 0, 2, 3⟩
/-- SKE_SLOT_CFG.SCRAMBLE_READY (03, R102). -/
def skeSlotCfgScrambleReady : Fld := ⟨0x8040c, 2, 1, 0⟩
/-- SKE_SLOT_CFG.MASK_READY (03, R102). -/
def skeSlotCfgMaskReady : Fld := ⟨0x8040c, 3, 1, 0⟩
/-- STORE_STATUS.OPEN (04, R131). -/
def storeStatusOpen : Fld := ⟨0xa0040, 0, 1, 0⟩
/-- STORE_STATUS.ROLLBACK (04, R131). -/
def storeStatusRollback : Fld := ⟨0xa0040, 1, 1, 0⟩
/-- STORE_STATUS.REOPEN_WAIT (04, R131). -/
def storeStatusReopenWait : Fld := ⟨0xa0040, 2, 1, 0⟩
/-- STORE_STATUS.PREFILLED (04, R131). -/
def storeStatusPrefilled : Fld := ⟨0xa0040, 3, 1, 0⟩
/-- STORE_STATUS.BATCH_OPEN (04, R131). -/
def storeStatusBatchOpen : Fld := ⟨0xa0040, 4, 1, 0⟩
/-- STORE_STATUS.COMMITTING (04, R131). -/
def storeStatusCommitting : Fld := ⟨0xa0040, 5, 1, 0⟩
/-- STORE_VERSION.VERSION (04, R131). -/
def storeVersionVersion : Fld := ⟨0xa0048, 0, 64, 0⟩
/-- STORE_EPOCH.EPOCH (04, R131). -/
def storeEpochEpoch : Fld := ⟨0xa0050, 0, 7, 0⟩
/-- STORE_EPOCH.PAGES_LOG2 (04, R131). -/
def storeEpochPagesLog2 : Fld := ⟨0xa0050, 16, 5, 0⟩
/-- STORE_REQ_BASE.ADDR (04, R131). -/
def storeReqBaseAddr : Fld := ⟨0xa0058, 0, 64, 0⟩
/-- STORE_REQ_CFG.LOG2_SIZE (04, R131). -/
def storeReqCfgLog2Size : Fld := ⟨0xa0060, 0, 4, 0⟩
/-- STORE_REQ_CFG.BUFFERS (04, R131). -/
def storeReqCfgBuffers : Fld := ⟨0xa0060, 16, 16, 0⟩
/-- STORE_REQ_PROD.INDEX (04, R131). -/
def storeReqProdIndex : Fld := ⟨0xa0064, 0, 16, 0⟩
/-- STORE_REQ_CONS.INDEX (04, R131). -/
def storeReqConsIndex : Fld := ⟨0xa0068, 0, 16, 0⟩
/-- STORE_RSP_BASE.ADDR (04, R131). -/
def storeRspBaseAddr : Fld := ⟨0xa0070, 0, 64, 0⟩
/-- STORE_RSP_CFG.LOG2_SIZE (04, R131). -/
def storeRspCfgLog2Size : Fld := ⟨0xa0078, 0, 4, 0⟩
/-- STORE_RSP_PROD.INDEX (04, R131). -/
def storeRspProdIndex : Fld := ⟨0xa007c, 0, 16, 0⟩
/-- STORE_RSP_CONS.INDEX (04, R131). -/
def storeRspConsIndex : Fld := ⟨0xa0080, 0, 16, 0⟩
/-- STORE_RSP_CONS.DROPPED (04, R131). -/
def storeRspConsDropped : Fld := ⟨0xa0080, 16, 16, 0⟩
/-- STORE_POOL_BASE.ADDR (04, R131). -/
def storePoolBaseAddr : Fld := ⟨0xa00a0, 0, 64, 0⟩
/-- STORE_BATCH_CFG.WINDOW (04, R131). -/
def storeBatchCfgWindow : Fld := ⟨0xa0084, 0, 14, 200⟩
/-- STORE_BATCH_CFG.PAGES (04, R131). -/
def storeBatchCfgPages : Fld := ⟨0xa0084, 16, 12, 256⟩
/-- STORE_FETCH_TIMEOUT.MS (04, R131). -/
def storeFetchTimeoutMs : Fld := ⟨0xa0088, 0, 14, 100⟩
/-- STORE_INTEG.SEQ (04, R131). -/
def storeIntegSeq : Fld := ⟨0xa008c, 0, 16, 0⟩
/-- STORE_INTEG.LEVEL (04, R131). -/
def storeIntegLevel : Fld := ⟨0xa008c, 16, 4, 0⟩
/-- STORE_INTEG_INDEX.INDEX (04, R131). -/
def storeIntegIndexIndex : Fld := ⟨0xa0090, 0, 30, 0⟩
/-- STORE_INTEG_COUNT.COUNT (04, R131). -/
def storeIntegCountCount : Fld := ⟨0xa0094, 0, 16, 0⟩
/-- STORE_INTEG_COUNT.FAILED (04, R131). -/
def storeIntegCountFailed : Fld := ⟨0xa0094, 16, 16, 0⟩
/-- STORE_CACHE.PINNED (04, R131). -/
def storeCachePinned : Fld := ⟨0xa0098, 0, 16, 0⟩
/-- STORE_CACHE.DIRTY (04, R131). -/
def storeCacheDirty : Fld := ⟨0xa0098, 16, 16, 0⟩
/-- KEEPER_STORE_ANCHOR.ANCHOR (04, R131). -/
def keeperStoreAnchorAnchor : Fld := ⟨0xd0108, 0, 64, 0⟩
/-- KEEPER_STORE_EPOCH.ROWS (04, R131). -/
def keeperStoreEpochRows : Fld := ⟨0xd0110, 0, 7, 0⟩
/-- PKE_SUMMARY.READY (05, R174). -/
def pkeSummaryReady : Fld := ⟨0x70040, 0, 16, 0⟩
/-- PKE_SUMMARY.BUSY (05, R174). -/
def pkeSummaryBusy : Fld := ⟨0x70040, 16, 16, 0⟩
/-- PKE_OUT.QUARANTINED (05, R174). -/
def pkeOutQuarantined : Fld := ⟨0x70044, 0, 16, 0⟩
/-- PKE_OUT.OUT (05, R174). -/
def pkeOutOut : Fld := ⟨0x70044, 16, 16, 0⟩
/-- PKE_FAULT.SEQ (05, R174). -/
def pkeFaultSeq : Fld := ⟨0x70048, 0, 16, 0⟩
/-- PKE_FAULT.KIND (05, R174). -/
def pkeFaultKind : Fld := ⟨0x70048, 16, 4, 0⟩
/-- PKE_FAULT.CLUSTER (05, R174). -/
def pkeFaultCluster : Fld := ⟨0x70048, 20, 4, 0⟩
/-- PKE_FAULT.LANE (05, R174). -/
def pkeFaultLane : Fld := ⟨0x70048, 24, 2, 0⟩
/-- PKE_FAULT_INFO.PROGRAM (05, R174). -/
def pkeFaultInfoProgram : Fld := ⟨0x7004c, 0, 8, 0⟩
/-- PKE_FAULT_INFO.SIZE_W (05, R174). -/
def pkeFaultInfoSizeW : Fld := ⟨0x7004c, 8, 8, 0⟩
/-- PKE_FAULT_COUNT.COUNT (05, R174). -/
def pkeFaultCountCount : Fld := ⟨0x70050, 0, 16, 0⟩
/-- PKE_REJECTS.REJECTED (05, R174). -/
def pkeRejectsRejected : Fld := ⟨0x70054, 0, 16, 0⟩
/-- PKE_REJECTS.ABORTS (05, R174). -/
def pkeRejectsAborts : Fld := ⟨0x70054, 16, 16, 0⟩
/-- PKE_MASK_CFG.RESEED_JOBS (05, R174). -/
def pkeMaskCfgReseedJobs : Fld := ⟨0x70058, 0, 12, 1024⟩
/-- PKE_MASK_CFG.RESEED_MC (05, R174). -/
def pkeMaskCfgReseedMc : Fld := ⟨0x70058, 16, 8, 50⟩
/-- PKE_GATE.SEQ (05, R174). -/
def pkeGateSeq : Fld := ⟨0x7005c, 0, 16, 0⟩
/-- PKE_GATE.PACKAGE (05, R174). -/
def pkeGatePackage : Fld := ⟨0x7005c, 16, 3, 0⟩
/-- PKE_GATE.CLUSTER (05, R174). -/
def pkeGateCluster : Fld := ⟨0x7005c, 20, 4, 0⟩
/-- PKE_CURVE_MAP.LOADED (05, R174). -/
def pkeCurveMapLoaded : Fld := ⟨0x70060, 0, 64, 63⟩
/-- PKE_CURVE_RETIRED.RETIRED (05, R174). -/
def pkeCurveRetiredRetired : Fld := ⟨0x70068, 0, 64, 0⟩
/-- PKE_PACKAGES.ACTIVE (05, R174). -/
def pkePackagesActive : Fld := ⟨0x70070, 0, 4, 1⟩
/-- PKE_PACKAGES.ROLLING (05, R174). -/
def pkePackagesRolling : Fld := ⟨0x70070, 4, 4, 0⟩
/-- PKE_CLUSTER_STATUS.STATE (05, R174). -/
def pkeClusterStatusState (i : Nat) : Fld := ⟨0x70100 + 0x10 * i, 0, 4, 0⟩
/-- PKE_CLUSTER_STATUS.PACKAGES (05, R174). -/
def pkeClusterStatusPackages (i : Nat) : Fld := ⟨0x70100 + 0x10 * i, 4, 4, 0⟩
/-- PKE_CLUSTER_STATUS.SEEDED (05, R174). -/
def pkeClusterStatusSeeded (i : Nat) : Fld := ⟨0x70100 + 0x10 * i, 8, 1, 0⟩
/-- PKE_CLUSTER_STATUS.LEASED (05, R174). -/
def pkeClusterStatusLeased (i : Nat) : Fld := ⟨0x70100 + 0x10 * i, 9, 1, 0⟩
/-- PKE_CLUSTER_STATUS.GATE_PENDING (05, R174). -/
def pkeClusterStatusGatePending (i : Nat) : Fld := ⟨0x70100 + 0x10 * i, 10, 1, 0⟩
/-- PKE_CLUSTER_STATUS.PROGRAM (05, R174). -/
def pkeClusterStatusProgram (i : Nat) : Fld := ⟨0x70100 + 0x10 * i, 16, 8, 0⟩
/-- PKE_CLUSTER_JOBS.COUNT (05, R174). -/
def pkeClusterJobsCount (i : Nat) : Fld := ⟨0x70104 + 0x10 * i, 0, 32, 0⟩
/-- PKE_CLUSTER_QUAR.QUARANTINES (05, R174). -/
def pkeClusterQuarQuarantines (i : Nat) : Fld := ⟨0x70108 + 0x10 * i, 0, 16, 0⟩
/-- PKE_CLUSTER_QUAR.SEED_JOBS_LEFT (05, R174). -/
def pkeClusterQuarSeedJobsLeft (i : Nat) : Fld := ⟨0x70108 + 0x10 * i, 16, 16, 0⟩
/-- PKE_CLUSTER_CTRL.GATE_REQ (05, R174). -/
def pkeClusterCtrlGateReq (i : Nat) : Fld := ⟨0x7010c + 0x10 * i, 0, 1, 0⟩
/-- PKE_CLUSTER_CTRL.FENCE (05, R174). -/
def pkeClusterCtrlFence (i : Nat) : Fld := ⟨0x7010c + 0x10 * i, 1, 1, 0⟩
/-- PKE_CLUSTER_CTRL.MASK (05, R174). -/
def pkeClusterCtrlMask (i : Nat) : Fld := ⟨0x7010c + 0x10 * i, 16, 16, 0⟩
/-- SKE_LANES.READY (06, R199). -/
def skeLanesReady : Fld := ⟨0x80040, 0, 8, 0⟩
/-- SKE_LANES.BUSY (06, R199). -/
def skeLanesBusy : Fld := ⟨0x80040, 8, 8, 0⟩
/-- SKE_LANES.ISOLATED (06, R199). -/
def skeLanesIsolated : Fld := ⟨0x80040, 16, 8, 0⟩
/-- SKE_LANES.OFF (06, R199). -/
def skeLanesOff : Fld := ⟨0x80040, 24, 8, 0⟩
/-- SKE_QUEUE.DEPTH (06, R199). -/
def skeQueueDepth : Fld := ⟨0x80044, 0, 11, 0⟩
/-- SKE_QUEUE.RESERVED_DEPTH (06, R199). -/
def skeQueueReservedDepth : Fld := ⟨0x80044, 16, 7, 0⟩
/-- SKE_CHECK.SEQ (06, R199). -/
def skeCheckSeq : Fld := ⟨0x80048, 0, 16, 0⟩
/-- SKE_CHECK.LANE (06, R199). -/
def skeCheckLane : Fld := ⟨0x80048, 16, 3, 0⟩
/-- SKE_CHECK.ISOLATED (06, R199). -/
def skeCheckIsolated : Fld := ⟨0x80048, 19, 1, 0⟩
/-- SKE_CHECK.ALG (06, R199). -/
def skeCheckAlg : Fld := ⟨0x80048, 24, 8, 0⟩
/-- SKE_CHECK_COUNT.COUNT (06, R199). -/
def skeCheckCountCount : Fld := ⟨0x8004c, 0, 16, 0⟩
/-- SKE_NONCE_CFG.DEVICE (06, R199). -/
def skeNonceCfgDevice : Fld := ⟨0x80050, 0, 15, 0⟩
/-- SKE_NONCE_BASE.NEXT (06, R199). -/
def skeNonceBaseNext : Fld := ⟨0x80058, 0, 64, 0⟩
/-- SKE_NONCE_RESERVED.H (06, R199). -/
def skeNonceReservedH : Fld := ⟨0x80060, 0, 64, 0⟩
/-- SKE_NONCE_EVENT.SEQ (06, R199). -/
def skeNonceEventSeq : Fld := ⟨0x80068, 0, 16, 0⟩
/-- SKE_NONCE_EVENT.LOW (06, R199). -/
def skeNonceEventLow : Fld := ⟨0x80068, 16, 1, 0⟩
/-- SKE_NONCE_EVENT.EXHAUSTED (06, R199). -/
def skeNonceEventExhausted : Fld := ⟨0x80068, 17, 1, 0⟩
/-- SKE_NONCE_EVENT.ROTATED (06, R199). -/
def skeNonceEventRotated : Fld := ⟨0x80068, 18, 1, 0⟩
/-- SKE_NONCE_EVENT.ROTATE_FAILED (06, R199). -/
def skeNonceEventRotateFailed : Fld := ⟨0x80068, 19, 1, 0⟩
/-- SKE_NONCE_EVENT.BASE_LOST (06, R199). -/
def skeNonceEventBaseLost : Fld := ⟨0x80068, 20, 1, 0⟩
/-- SKE_NONCE_EVENT_SLOT.SLOT (06, R199). -/
def skeNonceEventSlotSlot : Fld := ⟨0x8006c, 0, 16, 0⟩
/-- SKE_NONCE_EXHAUSTS.COUNT (06, R199). -/
def skeNonceExhaustsCount : Fld := ⟨0x80070, 0, 16, 0⟩
/-- SKE_NONCE_EXHAUSTS.ROTATIONS (06, R199). -/
def skeNonceExhaustsRotations : Fld := ⟨0x80070, 16, 16, 0⟩
/-- SKE_LANE_STATUS.STATE (06, R199). -/
def skeLaneStatusState (i : Nat) : Fld := ⟨0x80100 + 0x10 * i, 0, 3, 0⟩
/-- SKE_LANE_STATUS.LEASED (06, R199). -/
def skeLaneStatusLeased (i : Nat) : Fld := ⟨0x80100 + 0x10 * i, 3, 1, 0⟩
/-- SKE_LANE_STATUS.GATE_PENDING (06, R199). -/
def skeLaneStatusGatePending (i : Nat) : Fld := ⟨0x80100 + 0x10 * i, 4, 1, 0⟩
/-- SKE_LANE_STATUS.ALG (06, R199). -/
def skeLaneStatusAlg (i : Nat) : Fld := ⟨0x80100 + 0x10 * i, 8, 8, 0⟩
/-- SKE_LANE_STATUS.MISMATCHES (06, R199). -/
def skeLaneStatusMismatches (i : Nat) : Fld := ⟨0x80100 + 0x10 * i, 16, 2, 0⟩
/-- SKE_LANE_REQS.COUNT (06, R199). -/
def skeLaneReqsCount (i : Nat) : Fld := ⟨0x80104 + 0x10 * i, 0, 32, 0⟩
/-- SKE_LANE_BYTES.KIB4 (06, R199). -/
def skeLaneBytesKib4 (i : Nat) : Fld := ⟨0x80108 + 0x10 * i, 0, 32, 0⟩
/-- SKE_LANE_CTRL.GATE_REQ (06, R199). -/
def skeLaneCtrlGateReq (i : Nat) : Fld := ⟨0x8010c + 0x10 * i, 0, 1, 0⟩
/-- SKE_LANE_CTRL.FENCE (06, R199). -/
def skeLaneCtrlFence (i : Nat) : Fld := ⟨0x8010c + 0x10 * i, 1, 1, 0⟩
/-- SKE_LANE_CTRL.REJOIN (06, R199). -/
def skeLaneCtrlRejoin (i : Nat) : Fld := ⟨0x8010c + 0x10 * i, 2, 1, 0⟩
/-- SKE_LANE_CTRL.MASK (06, R199). -/
def skeLaneCtrlMask (i : Nat) : Fld := ⟨0x8010c + 0x10 * i, 16, 16, 0⟩
/-- TRNG_STATE.DRBG (07, R223). -/
def trngStateDrbg : Fld := ⟨0x90040, 0, 3, 0⟩
/-- TRNG_STATE.HEALTHY (07, R223). -/
def trngStateHealthy : Fld := ⟨0x90040, 8, 5, 0⟩
/-- TRNG_STATE.POOL (07, R223). -/
def trngStatePool : Fld := ⟨0x90040, 16, 8, 0⟩
/-- TRNG_HEALTH.SEQ (07, R223). -/
def trngHealthSeq : Fld := ⟨0x90044, 0, 16, 0⟩
/-- TRNG_HEALTH.SOURCE (07, R223). -/
def trngHealthSource : Fld := ⟨0x90044, 16, 3, 0⟩
/-- TRNG_HEALTH.TEST (07, R223). -/
def trngHealthTest : Fld := ⟨0x90044, 19, 3, 0⟩
/-- TRNG_HEALTH.LAG (07, R223). -/
def trngHealthLag : Fld := ⟨0x90044, 22, 4, 0⟩
/-- TRNG_HEALTH_STAT.STAT (07, R223). -/
def trngHealthStatStat : Fld := ⟨0x90048, 0, 16, 0⟩
/-- TRNG_FAIL_COUNT.FAILS (07, R223). -/
def trngFailCountFails : Fld := ⟨0x9004c, 0, 16, 0⟩
/-- TRNG_FAIL_COUNT.STOPS (07, R223). -/
def trngFailCountStops : Fld := ⟨0x9004c, 16, 16, 0⟩
/-- TRNG_RESEEDS.COUNT (07, R223). -/
def trngReseedsCount : Fld := ⟨0x90050, 0, 32, 0⟩
/-- TRNG_CALLS.SINCE_RESEED (07, R223). -/
def trngCallsSinceReseed : Fld := ⟨0x90054, 0, 21, 0⟩
/-- TRNG_RESEED_CFG.CALLS_LOG2 (07, R223). -/
def trngReseedCfgCallsLog2 : Fld := ⟨0x90058, 0, 5, 20⟩
/-- TRNG_RESEED_CFG.MC (07, R223). -/
def trngReseedCfgMc : Fld := ⟨0x90058, 8, 6, 50⟩
/-- TRNG_DATA.DATA (07, R223). -/
def trngDataData : Fld := ⟨0x90060, 0, 64, 0⟩
/-- TRNG_DATA_VALID.VALID (07, R223). -/
def trngDataValidValid : Fld := ⟨0x90068, 0, 1, 0⟩
/-- TRNG_HOST_ERR.SEQ (07, R223). -/
def trngHostErrSeq : Fld := ⟨0x9006c, 0, 16, 0⟩
/-- TRNG_HOST_ERR.EMPTY_READ (07, R223). -/
def trngHostErrEmptyRead : Fld := ⟨0x9006c, 16, 1, 0⟩
/-- TRNG_HOST_ERR.NOT_INSTANTIATED (07, R223). -/
def trngHostErrNotInstantiated : Fld := ⟨0x9006c, 17, 1, 0⟩
/-- TRNG_HOST_ERR.FUNCTION (07, R223). -/
def trngHostErrFunction : Fld := ⟨0x9006c, 18, 8, 0⟩
/-- TRNG_EMPTY_COUNT.COUNT (07, R223). -/
def trngEmptyCountCount : Fld := ⟨0x90070, 0, 16, 0⟩
/-- TRNG_EMPTY_COUNT.FIFO (07, R223). -/
def trngEmptyCountFifo : Fld := ⟨0x90070, 16, 9, 0⟩
/-- TRNG_SRC_STATUS.STATE (07, R223). -/
def trngSrcStatusState (i : Nat) : Fld := ⟨0x90100 + 0x10 * i, 0, 3, 0⟩
/-- TRNG_SRC_STATUS.TRIM (07, R223). -/
def trngSrcStatusTrim (i : Nat) : Fld := ⟨0x90100 + 0x10 * i, 4, 4, 0⟩
/-- TRNG_SRC_STATUS.ESTIMATE (07, R223). -/
def trngSrcStatusEstimate (i : Nat) : Fld := ⟨0x90100 + 0x10 * i, 8, 8, 0⟩
/-- TRNG_SRC_STATUS.ISOLATIONS (07, R223). -/
def trngSrcStatusIsolations (i : Nat) : Fld := ⟨0x90100 + 0x10 * i, 16, 16, 0⟩
/-- TRNG_SRC_BLOCKS.COUNT (07, R223). -/
def trngSrcBlocksCount (i : Nat) : Fld := ⟨0x90104 + 0x10 * i, 0, 32, 0⟩
/-- TRNG_SRC_CTRL.RECAL (07, R223). -/
def trngSrcCtrlRecal (i : Nat) : Fld := ⟨0x90108 + 0x10 * i, 0, 1, 0⟩
/-- TRNG_SRC_CTRL.ISOLATE (07, R223). -/
def trngSrcCtrlIsolate (i : Nat) : Fld := ⟨0x90108 + 0x10 * i, 1, 1, 0⟩
/-- TRNG_SRC_CTRL.MASK (07, R223). -/
def trngSrcCtrlMask (i : Nat) : Fld := ⟨0x90108 + 0x10 * i, 16, 16, 0⟩
/-- MBOX_DOORBELL.GO (08, R244). -/
def mboxDoorbellGo (i : Nat) : Fld := ⟨0x5000 + 0x8 * i, 0, 1, 0⟩
/-- MBOX_DOORBELL.ACK (08, R244). -/
def mboxDoorbellAck (i : Nat) : Fld := ⟨0x5000 + 0x8 * i, 1, 1, 0⟩
/-- MBOX_DOORBELL.ABORT (08, R244). -/
def mboxDoorbellAbort (i : Nat) : Fld := ⟨0x5000 + 0x8 * i, 2, 1, 0⟩
/-- MBOX_STATUS.STATE (08, R244). -/
def mboxStatusState (i : Nat) : Fld := ⟨0x5004 + 0x8 * i, 0, 2, 3⟩
/-- MBOX_STATUS.OVERRUN (08, R244). -/
def mboxStatusOverrun (i : Nat) : Fld := ⟨0x5004 + 0x8 * i, 2, 1, 0⟩
/-- MBOX_STATUS.COUNT (08, R244). -/
def mboxStatusCount (i : Nat) : Fld := ⟨0x5004 + 0x8 * i, 16, 16, 0⟩
/-- QUORUM_STATUS.PENDING (09, R263). -/
def quorumStatusPending : Fld := ⟨0xb0040, 0, 6, 0⟩
/-- QUORUM_STATUS.PORT_A (09, R263). -/
def quorumStatusPortA : Fld := ⟨0xb0040, 6, 2, 0⟩
/-- QUORUM_STATUS.PORT_B (09, R263). -/
def quorumStatusPortB : Fld := ⟨0xb0040, 8, 2, 0⟩
/-- QUORUM_SLOTS.PENDING (09, R263). -/
def quorumSlotsPending : Fld := ⟨0xb0044, 0, 32, 0⟩
/-- QUORUM_EVENT.SEQ (09, R263). -/
def quorumEventSeq : Fld := ⟨0xb0048, 0, 16, 0⟩
/-- QUORUM_EVENT.KIND (09, R263). -/
def quorumEventKind : Fld := ⟨0xb0048, 16, 4, 0⟩
/-- QUORUM_EVENT.SLOT (09, R263). -/
def quorumEventSlot : Fld := ⟨0xb0048, 20, 5, 0⟩
/-- QUORUM_PORT_CFG.CK_DIV (09, R263). -/
def quorumPortCfgCkDiv : Fld := ⟨0xb004c, 0, 8, 49⟩
/-- QUORUM_PORT_CFG.POLL_MS (09, R263). -/
def quorumPortCfgPollMs : Fld := ⟨0xb004c, 8, 7, 10⟩
/-- QUORUM_PORT_CFG.VIO_3V3 (09, R263). -/
def quorumPortCfgVio3v3 : Fld := ⟨0xb004c, 16, 1, 0⟩
/-- QUORUM_PORT_ERR.DISCARD_A (09, R263). -/
def quorumPortErrDiscardA : Fld := ⟨0xb0050, 0, 16, 0⟩
/-- QUORUM_PORT_ERR.DISCARD_B (09, R263). -/
def quorumPortErrDiscardB : Fld := ⟨0xb0050, 16, 16, 0⟩
/-- QUORUM_TOKEN_REFUSED.COUNT (09, R263). -/
def quorumTokenRefusedCount : Fld := ⟨0xb0054, 0, 16, 0⟩
/-- QUORUM_TOKEN_REFUSED.PIN_FAILS (09, R263). -/
def quorumTokenRefusedPinFails : Fld := ⟨0xb0054, 16, 16, 0⟩
/-- QUORUM_SLOT_ID.OPERATION_ID (09, R263). -/
def quorumSlotIdOperationId (i : Nat) : Fld := ⟨0xb0100 + 0x20 * i, 0, 32, 0⟩
/-- QUORUM_SLOT_CLASS.CLASS (09, R263). -/
def quorumSlotClassClass (i : Nat) : Fld := ⟨0xb0104 + 0x20 * i, 0, 5, 0⟩
/-- QUORUM_SLOT_CLASS.TENANT_KIND (09, R263). -/
def quorumSlotClassTenantKind (i : Nat) : Fld := ⟨0xb0104 + 0x20 * i, 5, 1, 0⟩
/-- QUORUM_SLOT_CLASS.PP (09, R263). -/
def quorumSlotClassPp (i : Nat) : Fld := ⟨0xb0104 + 0x20 * i, 6, 1, 0⟩
/-- QUORUM_SLOT_CLASS.PORT_SEEN (09, R263). -/
def quorumSlotClassPortSeen (i : Nat) : Fld := ⟨0xb0104 + 0x20 * i, 7, 1, 0⟩
/-- QUORUM_SLOT_CLASS.M (09, R263). -/
def quorumSlotClassM (i : Nat) : Fld := ⟨0xb0104 + 0x20 * i, 8, 5, 0⟩
/-- QUORUM_SLOT_CLASS.STATE (09, R263). -/
def quorumSlotClassState (i : Nat) : Fld := ⟨0xb0104 + 0x20 * i, 13, 3, 0⟩
/-- QUORUM_SLOT_CLASS.TENANT (09, R263). -/
def quorumSlotClassTenant (i : Nat) : Fld := ⟨0xb0104 + 0x20 * i, 16, 12, 0⟩
/-- QUORUM_SLOT_APPROVALS.APPROVED (09, R263). -/
def quorumSlotApprovalsApproved (i : Nat) : Fld := ⟨0xb0108 + 0x20 * i, 0, 16, 0⟩
/-- QUORUM_SLOT_APPROVALS.ELIGIBLE (09, R263). -/
def quorumSlotApprovalsEligible (i : Nat) : Fld := ⟨0xb0108 + 0x20 * i, 16, 16, 0⟩
/-- QUORUM_SLOT_DEADLINE.CYCLE (09, R263). -/
def quorumSlotDeadlineCycle (i : Nat) : Fld := ⟨0xb0110 + 0x20 * i, 0, 48, 0⟩
/-- QENG_STATUS.SQS (10, R294). -/
def qengStatusSqs : Fld := ⟨0x50040, 0, 11, 0⟩
/-- QENG_STATUS.CQS (10, R294). -/
def qengStatusCqs : Fld := ⟨0x50040, 11, 11, 0⟩
/-- QENG_STATUS.FUNCTIONS (10, R294). -/
def qengStatusFunctions : Fld := ⟨0x50040, 22, 9, 0⟩
/-- QENG_STATUS.CFG_SET (10, R294). -/
def qengStatusCfgSet : Fld := ⟨0x50040, 31, 1, 0⟩
/-- QENG_CFG_BASE.ADDR (10, R294). -/
def qengCfgBaseAddr : Fld := ⟨0x50048, 12, 52, 0⟩
/-- QENG_LOAD.INDEX (10, R294). -/
def qengLoadIndex : Fld := ⟨0x50050, 0, 10, 0⟩
/-- QENG_LOAD.OBJECT (10, R294). -/
def qengLoadObject : Fld := ⟨0x50050, 10, 3, 0⟩
/-- QENG_LOAD.ACTION (10, R294). -/
def qengLoadAction : Fld := ⟨0x50050, 13, 2, 0⟩
/-- QENG_LOAD_STATUS.RUNNING (10, R294). -/
def qengLoadStatusRunning : Fld := ⟨0x50054, 0, 1, 0⟩
/-- QENG_LOAD_STATUS.RESULT (10, R294). -/
def qengLoadStatusResult : Fld := ⟨0x50054, 1, 2, 0⟩
/-- QENG_LOAD_STATUS.REASON (10, R294). -/
def qengLoadStatusReason : Fld := ⟨0x50054, 8, 8, 0⟩
/-- QENG_LOAD_STATUS.LOADS (10, R294). -/
def qengLoadStatusLoads : Fld := ⟨0x50054, 16, 16, 0⟩
/-- QENG_QERR.SEQ (10, R294). -/
def qengQerrSeq : Fld := ⟨0x50058, 0, 16, 0⟩
/-- QENG_QERR.CQ (10, R294). -/
def qengQerrCq : Fld := ⟨0x50058, 16, 1, 0⟩
/-- QENG_QERR.QUEUE (10, R294). -/
def qengQerrQueue : Fld := ⟨0x50058, 17, 10, 0⟩
/-- QENG_QERR.KIND (10, R294). -/
def qengQerrKind : Fld := ⟨0x50058, 27, 4, 0⟩
/-- QENG_QERR_COUNT.COUNT (10, R294). -/
def qengQerrCountCount : Fld := ⟨0x5005c, 0, 16, 0⟩
/-- QENG_ROUNDS.COUNT (10, R294). -/
def qengRoundsCount : Fld := ⟨0x50060, 0, 32, 0⟩
/-- QENG_INFLIGHT.TAKEN (10, R294). -/
def qengInflightTaken : Fld := ⟨0x50064, 0, 14, 0⟩
/-- QENG_INFLIGHT.PREFETCHED (10, R294). -/
def qengInflightPrefetched : Fld := ⟨0x50064, 16, 15, 0⟩
/-- QENG_NOTICE_DROPPED.COUNT (10, R294). -/
def qengNoticeDroppedCount : Fld := ⟨0x50068, 0, 16, 0⟩
/-- QENG_EVENT_PENDING.PENDING (10, R294). -/
def qengEventPendingPending (i : Nat) : Fld := ⟨0x50100 + 0x4 * i, 0, 32, 0⟩
/-- QENG_EVENT_ACK.SOURCE (10, R294). -/
def qengEventAckSource : Fld := ⟨0x50140, 0, 9, 0⟩
/-- QENG_SQ_ARB.WEIGHT (10, R294). -/
def qengSqArbWeight (i : Nat) : Fld := ⟨0x51000 + 0x4 * i, 0, 8, 1⟩
/-- QENG_SQ_ARB.BURST (10, R294). -/
def qengSqArbBurst (i : Nat) : Fld := ⟨0x51000 + 0x4 * i, 8, 7, 4⟩
/-- QENG_TENANT_SHARE.SHARE (10, R294). -/
def qengTenantShareShare (t : Nat) : Fld := ⟨0x52000 + 4 * (t / 4), 8 * (t % 4), 8, 16⟩
/-- QENG_EVENT_ROUTE.FUNCTION (10, R294). -/
def qengEventRouteFunction (i : Nat) : Fld := ⟨0x53000 + 0x4 * i, 0, 8, 0⟩
/-- QENG_EVENT_ROUTE.VECTOR (10, R294). -/
def qengEventRouteVector (i : Nat) : Fld := ⟨0x53000 + 0x4 * i, 8, 11, 0⟩
/-- QENG_EVENT_ROUTE.ENABLE (10, R294). -/
def qengEventRouteEnable (i : Nat) : Fld := ⟨0x53000 + 0x4 * i, 19, 1, 0⟩
/-- QENG_SQ_STATE.STATE (10, R294). -/
def qengSqStateState (i : Nat) : Fld := ⟨0x54000 + 0x4 * i, 0, 2, 0⟩
/-- QENG_SQ_STATE.PREFETCHED (10, R294). -/
def qengSqStatePrefetched (i : Nat) : Fld := ⟨0x54000 + 0x4 * i, 2, 7, 0⟩
/-- QENG_SQ_STATE.TAKEN (10, R294). -/
def qengSqStateTaken (i : Nat) : Fld := ⟨0x54000 + 0x4 * i, 16, 13, 0⟩
/-- QENG_CQ_STATE.STATE (10, R294). -/
def qengCqStateState (i : Nat) : Fld := ⟨0x55000 + 0x4 * i, 0, 2, 0⟩
/-- QENG_CQ_STATE.FULL (10, R294). -/
def qengCqStateFull (i : Nat) : Fld := ⟨0x55000 + 0x4 * i, 2, 1, 0⟩
/-- QENG_CQ_STATE.HELD (10, R294). -/
def qengCqStateHeld (i : Nat) : Fld := ⟨0x55000 + 0x4 * i, 16, 16, 0⟩
/-- QENG_FN_STATE.ENABLED (10, R294). -/
def qengFnStateEnabled (i : Nat) : Fld := ⟨0x56000 + 0x4 * i, 0, 1, 0⟩
/-- QENG_FN_STATE.INFLIGHT (10, R294). -/
def qengFnStateInflight (i : Nat) : Fld := ⟨0x56000 + 0x4 * i, 1, 13, 0⟩
/-- QENG_FN_STATE.NOTICES_HELD (10, R294). -/
def qengFnStateNoticesHeld (i : Nat) : Fld := ⟨0x56000 + 0x4 * i, 14, 7, 0⟩
/-- ITU_STATUS.VALID (10, R294). -/
def ituStatusValid : Fld := ⟨0x60040, 0, 13, 0⟩
/-- ITU_FAULT.SEQ (10, R294). -/
def ituFaultSeq : Fld := ⟨0x60044, 0, 16, 0⟩
/-- ITU_FAULT.FUNCTION (10, R294). -/
def ituFaultFunction : Fld := ⟨0x60044, 16, 8, 0⟩
/-- ITU_FAULT.KIND (10, R294). -/
def ituFaultKind : Fld := ⟨0x60044, 24, 3, 0⟩
/-- ITU_FAULT.WRITE (10, R294). -/
def ituFaultWrite : Fld := ⟨0x60044, 27, 1, 0⟩
/-- ITU_FAULT_ADDR.ADDR (10, R294). -/
def ituFaultAddrAddr : Fld := ⟨0x60048, 0, 64, 0⟩
/-- ITU_MISSES.COUNT (10, R294). -/
def ituMissesCount : Fld := ⟨0x60050, 0, 32, 0⟩
/-- ITU_FAULT_COUNT.COUNT (10, R294). -/
def ituFaultCountCount : Fld := ⟨0x60054, 0, 16, 0⟩
/-- COMPASS_STATUS.STATE (11, R316). -/
def compassStatusState : Fld := ⟨0x40040, 0, 4, 0⟩
/-- COMPASS_STATUS.ALIGNED (11, R316). -/
def compassStatusAligned : Fld := ⟨0x40040, 4, 1, 0⟩
/-- COMPASS_STATUS.ANCHOR_HELD (11, R316). -/
def compassStatusAnchorHeld : Fld := ⟨0x40040, 5, 1, 0⟩
/-- COMPASS_STATUS.CLOCK_DISAGREE (11, R316). -/
def compassStatusClockDisagree : Fld := ⟨0x40040, 6, 1, 0⟩
/-- COMPASS_STATUS.STEP_DUE (11, R316). -/
def compassStatusStepDue : Fld := ⟨0x40040, 7, 1, 0⟩
/-- COMPASS_STATUS.VALID_RUN (11, R316). -/
def compassStatusValidRun : Fld := ⟨0x40040, 8, 4, 0⟩
/-- COMPASS_STATUS.NOMINAL (11, R316). -/
def compassStatusNominal : Fld := ⟨0x40040, 12, 2, 1⟩
/-- COMPASS_STATUS.CHANGES (11, R316). -/
def compassStatusChanges : Fld := ⟨0x40040, 16, 3, 0⟩
/-- COMPASS_PERIOD.PERIOD (11, R316). -/
def compassPeriodPeriod : Fld := ⟨0x40044, 0, 32, 0⟩
/-- COMPASS_QUALITY.UNCERT (11, R316). -/
def compassQualityUncert : Fld := ⟨0x40048, 0, 12, 4095⟩
/-- COMPASS_QUALITY.PHASE_ERR (11, R316). -/
def compassQualityPhaseErr : Fld := ⟨0x40048, 16, 16, 0⟩
/-- COMPASS_EVENT.SEQ (11, R316). -/
def compassEventSeq : Fld := ⟨0x4004c, 0, 16, 0⟩
/-- COMPASS_EVENT.KIND (11, R316). -/
def compassEventKind : Fld := ⟨0x4004c, 16, 4, 0⟩
/-- COMPASS_EVENT.FROM (11, R316). -/
def compassEventFrom : Fld := ⟨0x4004c, 20, 3, 0⟩
/-- COMPASS_EVENT.TO (11, R316). -/
def compassEventTo : Fld := ⟨0x4004c, 23, 3, 0⟩
/-- COMPASS_EVENT.REASON (11, R316). -/
def compassEventReason : Fld := ⟨0x4004c, 26, 6, 0⟩
/-- COMPASS_COUNTS.MISSING (11, R316). -/
def compassCountsMissing : Fld := ⟨0x40050, 0, 16, 0⟩
/-- COMPASS_COUNTS.IMPLAUSIBLE (11, R316). -/
def compassCountsImplausible : Fld := ⟨0x40050, 16, 16, 0⟩
/-- COMPASS_SENSE_CFG.HYST (11, R316). -/
def compassSenseCfgHyst : Fld := ⟨0x40054, 0, 8, 60⟩
/-- COMPASS_SENSE_CFG.FILTER (11, R316). -/
def compassSenseCfgFilter : Fld := ⟨0x40054, 8, 8, 50⟩
/-- COMPASS_LAST_STEP.AMOUNT (11, R316). -/
def compassLastStepAmount : Fld := ⟨0x40058, 0, 48, 0⟩
/-- COMPASS_LAST_STEP.STEPS (11, R316). -/
def compassLastStepSteps : Fld := ⟨0x40058, 48, 16, 0⟩
/-- COMPASS_RUN_START.CYCLE (11, R316). -/
def compassRunStartCycle : Fld := ⟨0x40060, 0, 48, 0⟩
/-- COMPASS_HELD.CYCLE (11, R316). -/
def compassHeldCycle : Fld := ⟨0x40068, 0, 48, 0⟩
/-- COMPASS_ANCHOR_CYCLE.CYCLE (11, R316). -/
def compassAnchorCycleCycle : Fld := ⟨0x40070, 0, 48, 0⟩
/-- COMPASS_ANCHOR_UTC.UTC_NS (11, R316). -/
def compassAnchorUtcUtcNs : Fld := ⟨0x40078, 0, 64, 0⟩
/-- COMPASS_ANCHOR_SERIAL.SERIAL (11, R316). -/
def compassAnchorSerialSerial : Fld := ⟨0x40080, 0, 32, 0⟩
/-- COMPASS_WP_FIRE.SEQ (11, R316). -/
def compassWpFireSeq : Fld := ⟨0x40084, 0, 16, 0⟩
/-- COMPASS_WP_FIRE.NUMBER (11, R316). -/
def compassWpFireNumber : Fld := ⟨0x40084, 16, 8, 0⟩
/-- COMPASS_WP_FIRE.LATE (11, R316). -/
def compassWpFireLate : Fld := ⟨0x40084, 24, 1, 0⟩
/-- COMPASS_WP_FIRE.NOT_ALIGNED (11, R316). -/
def compassWpFireNotAligned : Fld := ⟨0x40084, 25, 1, 0⟩
/-- COMPASS_WP_FIRE.FAILED (11, R316). -/
def compassWpFireFailed : Fld := ⟨0x40084, 26, 1, 0⟩
/-- COMPASS_WP_COUNTS.FIRED (11, R316). -/
def compassWpCountsFired : Fld := ⟨0x40088, 0, 16, 0⟩
/-- COMPASS_WP_COUNTS.SKIPPED (11, R316). -/
def compassWpCountsSkipped : Fld := ⟨0x40088, 16, 16, 0⟩
/-- COMPASS_WP_ARMED.ARMED (11, R316). -/
def compassWpArmedArmed (i : Nat) : Fld := ⟨0x40100 + 0x4 * i, 0, 32, 0⟩
/-- MPC_WORLD_STATUS.PAIR_A (12, R348). -/
def mpcWorldStatusPairA : Fld := ⟨0xc0040, 0, 1, 0⟩
/-- MPC_WORLD_STATUS.PAIR_B (12, R348). -/
def mpcWorldStatusPairB : Fld := ⟨0xc0040, 1, 1, 0⟩
/-- MPC_WORLD_STATUS.CUSTODY_UP (12, R348). -/
def mpcWorldStatusCustodyUp : Fld := ⟨0xc0040, 2, 1, 0⟩
/-- MPC_WORLD_STATUS.RESTARTING (12, R348). -/
def mpcWorldStatusRestarting : Fld := ⟨0xc0040, 3, 1, 0⟩
/-- MPC_WORLD_STATUS.KEYS_LOCKED (12, R348). -/
def mpcWorldStatusKeysLocked : Fld := ⟨0xc0040, 4, 1, 1⟩
/-- MPC_WDOG_CFG.PERIOD_MS (12, R348). -/
def mpcWdogCfgPeriodMs : Fld := ⟨0xc0044, 0, 7, 10⟩
/-- MPC_WDOG_FEED.FEED (12, R348). -/
def mpcWdogFeedFeed : Fld := ⟨0xc0048, 0, 1, 0⟩
/-- MPC_LEASE_CFG.TIMEOUT_MS (12, R348). -/
def mpcLeaseCfgTimeoutMs : Fld := ⟨0xc004c, 0, 16, 100⟩
/-- MPC_VIOL.SEQ (12, R348). -/
def mpcViolSeq : Fld := ⟨0xc0050, 0, 16, 0⟩
/-- MPC_VIOL.CHECKER (12, R348). -/
def mpcViolChecker : Fld := ⟨0xc0050, 16, 3, 0⟩
/-- MPC_VIOL.TYPE (12, R348). -/
def mpcViolType : Fld := ⟨0xc0050, 19, 2, 0⟩
/-- MPC_VIOL.IMPRECISE (12, R348). -/
def mpcViolImprecise : Fld := ⟨0xc0050, 21, 1, 0⟩
/-- MPC_VIOL.DOUBLE_MATCH (12, R348). -/
def mpcViolDoubleMatch : Fld := ⟨0xc0050, 22, 1, 0⟩
/-- MPC_VIOL.SPLIT (12, R348). -/
def mpcViolSplit : Fld := ⟨0xc0050, 23, 1, 0⟩
/-- MPC_VIOL.MASTER (12, R348). -/
def mpcViolMaster : Fld := ⟨0xc0050, 24, 8, 0⟩
/-- MPC_VIOL_INFO.SUB_ID (12, R348). -/
def mpcViolInfoSubId : Fld := ⟨0xc0054, 0, 8, 0⟩
/-- MPC_VIOL_INFO.EPOCH (12, R348). -/
def mpcViolInfoEpoch : Fld := ⟨0xc0054, 16, 16, 0⟩
/-- MPC_VIOL_ADDR.ADDR (12, R348). -/
def mpcViolAddrAddr : Fld := ⟨0xc0058, 0, 40, 0⟩
/-- MPC_VIOL_COUNT.COUNT (12, R348). -/
def mpcViolCountCount : Fld := ⟨0xc0060, 0, 16, 0⟩
/-- MPC_VIOL_COUNT.DEBUG_DENIED (12, R348). -/
def mpcViolCountDebugDenied : Fld := ⟨0xc0060, 16, 16, 0⟩
/-- MPC_LEASE_EVENT.SEQ (12, R348). -/
def mpcLeaseEventSeq : Fld := ⟨0xc0064, 0, 16, 0⟩
/-- MPC_LEASE_EVENT.CLUSTER (12, R348). -/
def mpcLeaseEventCluster : Fld := ⟨0xc0064, 16, 5, 0⟩
/-- MPC_LEASE_EVENT.UNIT (12, R348). -/
def mpcLeaseEventUnit : Fld := ⟨0xc0064, 21, 3, 0⟩
/-- MPC_CROSS.INBOUND (12, R348). -/
def mpcCrossInbound : Fld := ⟨0xc0068, 0, 9, 0⟩
/-- MPC_CROSS.NOTICE (12, R348). -/
def mpcCrossNotice : Fld := ⟨0xc0068, 16, 9, 0⟩
/-- MPC_CROSS_DROPPED.COUNT (12, R348). -/
def mpcCrossDroppedCount : Fld := ⟨0xc006c, 0, 16, 0⟩
/-- MPC_LEASE_HOLD.PKE (12, R348). -/
def mpcLeaseHoldPke : Fld := ⟨0xc0070, 0, 16, 0⟩
/-- MPC_LEASE_HOLD.SKE (12, R348). -/
def mpcLeaseHoldSke : Fld := ⟨0xc0070, 16, 8, 0⟩
/-- MPC_NW_EVENTS.ENABLE (12, R348). -/
def mpcNwEventsEnable (i : Nat) : Fld := ⟨0xc0080 + 0x4 * i, 0, 32, 0⟩
/-- MPC_MBOX_ENABLE.ENABLED (12, R348). -/
def mpcMboxEnableEnabled (i : Nat) : Fld := ⟨0xc00c0 + 0x4 * i, 0, 32, 0⟩
/-- MPC_RULE_EPOCH.EPOCH (12, R348). -/
def mpcRuleEpochEpoch (i : Nat) : Fld := ⟨0xc0200 + 0x10 * i, 0, 16, 0⟩
/-- MPC_RULE_EPOCH.STATE (12, R348). -/
def mpcRuleEpochState (i : Nat) : Fld := ⟨0xc0200 + 0x10 * i, 16, 2, 0⟩
/-- MPC_RULE_EPOCH.OUTSTANDING (12, R348). -/
def mpcRuleEpochOutstanding (i : Nat) : Fld := ⟨0xc0200 + 0x10 * i, 24, 8, 0⟩
/-- MPC_RULE.BASE (12, R348). -/
def mpcRuleBase (i : Nat) : Fld := ⟨0xc1000 + 0x10 * i, 0, 28, 0⟩
/-- MPC_RULE.LIMIT (12, R348). -/
def mpcRuleLimit (i : Nat) : Fld := ⟨0xc1004 + 0x10 * i, 0, 28, 0⟩
/-- MPC_RULE.MATCH (12, R348). -/
def mpcRuleMatch (i : Nat) : Fld := ⟨0xc1008 + 0x10 * i, 0, 32, 0⟩
/-- MPC_RULE.RIGHTS (12, R348). -/
def mpcRuleRights (i : Nat) : Fld := ⟨0xc100c + 0x10 * i, 0, 7, 0⟩
/-- POT_COUNTS.SECURE (12, R348). -/
def potCountsSecure : Fld := ⟨0xc8040, 0, 13, 0⟩
/-- POT_COUNTS.NORMAL (12, R348). -/
def potCountsNormal : Fld := ⟨0xc8040, 16, 13, 0⟩
/-- POT_FREE.FREE (12, R348). -/
def potFreeFree : Fld := ⟨0xc8044, 0, 13, 4096⟩
/-- POT_ENTRY.ENTRY (12, R348). -/
def potEntryEntry (i : Nat) : Fld := ⟨0xc9000 + 0x4 * i, 0, 16, 0⟩
/-- KEEPER_TAMPER_STATE.LOCK_FLAG (13, R371). -/
def keeperTamperStateLockFlag : Fld := ⟨0xd0040, 0, 1, 0⟩
/-- KEEPER_TAMPER_STATE.PURGED (13, R371). -/
def keeperTamperStatePurged : Fld := ⟨0xd0040, 1, 1, 0⟩
/-- KEEPER_TAMPER_STATE.SHREDDED (13, R371). -/
def keeperTamperStateShredded : Fld := ⟨0xd0040, 2, 1, 0⟩
/-- KEEPER_TAMPER_STATE.DECIDING (13, R371). -/
def keeperTamperStateDeciding : Fld := ⟨0xd0040, 3, 1, 0⟩
/-- KEEPER_TAMPER_STATE.STRONGEST (13, R371). -/
def keeperTamperStateStrongest : Fld := ⟨0xd0040, 4, 3, 0⟩
/-- KEEPER_TAMPER.SEQ (13, R371). -/
def keeperTamperSeq : Fld := ⟨0xd0044, 0, 16, 0⟩
/-- KEEPER_TAMPER.SOURCE (13, R371). -/
def keeperTamperSource : Fld := ⟨0xd0044, 16, 5, 0⟩
/-- KEEPER_TAMPER.RESPONSE (13, R371). -/
def keeperTamperResponse : Fld := ⟨0xd0044, 21, 3, 0⟩
/-- KEEPER_TAMPER.MISMATCH (13, R371). -/
def keeperTamperMismatch : Fld := ⟨0xd0044, 24, 1, 0⟩
/-- KEEPER_TAMPER.ON_BATTERY (13, R371). -/
def keeperTamperOnBattery : Fld := ⟨0xd0044, 25, 1, 0⟩
/-- KEEPER_TAMPER_COUNT.ALARMS (13, R371). -/
def keeperTamperCountAlarms : Fld := ⟨0xd0048, 0, 16, 0⟩
/-- KEEPER_TAMPER_COUNT.MISMATCHES (13, R371). -/
def keeperTamperCountMismatches : Fld := ⟨0xd0048, 16, 16, 0⟩
/-- KEEPER_ALARMED.ALARMED (13, R371). -/
def keeperAlarmedAlarmed : Fld := ⟨0xd004c, 0, 27, 0⟩
/-- KEEPER_TEMP_LIMITS.LOW (13, R371). -/
def keeperTempLimitsLow : Fld := ⟨0xd0050, 0, 8, 206⟩
/-- KEEPER_TEMP_LIMITS.HIGH (13, R371). -/
def keeperTempLimitsHigh : Fld := ⟨0xd0050, 8, 8, 160⟩
/-- KEEPER_TEMP_K.K0 (13, R371). -/
def keeperTempKK0 : Fld := ⟨0xd0054, 0, 8, 0⟩
/-- KEEPER_TEMP_K.K1 (13, R371). -/
def keeperTempKK1 : Fld := ⟨0xd0054, 8, 8, 0⟩
/-- KEEPER_TEMP_M.M0–M3 (13, R371). -/
def keeperTempMM0M3 : Fld := ⟨0xd0058, 0, 32, 0⟩
/-- KEEPER_POWER.VBAT_A (13, R371). -/
def keeperPowerVbatA : Fld := ⟨0xd005c, 0, 12, 0⟩
/-- KEEPER_POWER.VBAT_B (13, R371). -/
def keeperPowerVbatB : Fld := ⟨0xd005c, 12, 12, 0⟩
/-- KEEPER_POWER.CELL_A (13, R371). -/
def keeperPowerCellA : Fld := ⟨0xd005c, 24, 2, 0⟩
/-- KEEPER_POWER.CELL_B (13, R371). -/
def keeperPowerCellB : Fld := ⟨0xd005c, 26, 2, 0⟩
/-- KEEPER_POWER.MAIN (13, R371). -/
def keeperPowerMain : Fld := ⟨0xd005c, 28, 1, 1⟩
/-- KEEPER_CAP.VKEEP_CAP (13, R371). -/
def keeperCapVkeepCap : Fld := ⟨0xd0060, 0, 12, 0⟩
/-- KEEPER_CAP.RESERVE_OK (13, R371). -/
def keeperCapReserveOk : Fld := ⟨0xd0060, 12, 1, 0⟩
/-- KEEPER_POCKET.HELD (13, R371). -/
def keeperPocketHeld : Fld := ⟨0xd0064, 0, 5, 0⟩
/-- KEEPER_POCKET.OVERFLOW (13, R371). -/
def keeperPocketOverflow : Fld := ⟨0xd0064, 8, 8, 0⟩
/-- KEEPER_THERMOS_CLOCK.TICKS (13, R371). -/
def keeperThermosClockTicks : Fld := ⟨0xd0068, 0, 48, 0⟩
/-- KEEPER_RESP.MAIN (13, R371). -/
def keeperRespMain (i : Nat) : Fld := ⟨0xd0200 + 0x4 * i, 0, 3, (shippedMainOf i)⟩
/-- KEEPER_RESP.MIN (13, R371). -/
def keeperRespMin (i : Nat) : Fld := ⟨0xd0200 + 0x4 * i, 4, 3, (shippedMain (tamperClass i))⟩
/-- KEEPER_RESP.THERMOS (13, R371). -/
def keeperRespThermos (i : Nat) : Fld := ⟨0xd0200 + 0x4 * i, 8, 1, (shippedThermosOf i)⟩
/-- KEEPER_RESP.FIXED (13, R371). -/
def keeperRespFixed (i : Nat) : Fld := ⟨0xd0200 + 0x4 * i, 9, 1, (if i = 9 ∨ i = 23 ∨ i = 25 ∨ i = 26 then 1 else 0)⟩
/-- FAULT_CAPTURE.SEQ (14, R392). -/
def faultCaptureSeq : Fld := ⟨0x20040, 0, 16, 0⟩
/-- FAULT_CAPTURE.CLASS (14, R392). -/
def faultCaptureClass : Fld := ⟨0x20040, 16, 3, 0⟩
/-- FAULT_CAPTURE.ESCALATED (14, R392). -/
def faultCaptureEscalated : Fld := ⟨0x20040, 19, 1, 0⟩
/-- FAULT_CAPTURE.BLOCK (14, R392). -/
def faultCaptureBlock : Fld := ⟨0x20040, 20, 8, 0⟩
/-- FAULT_CAPTURE_INFO.KIND (14, R392). -/
def faultCaptureInfoKind : Fld := ⟨0x20044, 0, 8, 0⟩
/-- FAULT_CAPTURE_INFO.MASTER (14, R392). -/
def faultCaptureInfoMaster : Fld := ⟨0x20044, 8, 8, 0⟩
/-- FAULT_CAPTURE_INFO.SUB_ID (14, R392). -/
def faultCaptureInfoSubId : Fld := ⟨0x20044, 16, 8, 0⟩
/-- FAULT_CAPTURE_INFO.ACCESS (14, R392). -/
def faultCaptureInfoAccess : Fld := ⟨0x20044, 24, 3, 0⟩
/-- FAULT_CAPTURE_LOC.DD (14, R392). -/
def faultCaptureLocDd : Fld := ⟨0x20048, 0, 6, 0⟩
/-- FAULT_CAPTURE_LOC.DIE (14, R392). -/
def faultCaptureLocDie : Fld := ⟨0x20048, 6, 1, 0⟩
/-- FAULT_CAPTURE_LOC.REGION (14, R392). -/
def faultCaptureLocRegion : Fld := ⟨0x20048, 8, 4, 0⟩
/-- FAULT_CAPTURE_LOC.CLUSTER (14, R392). -/
def faultCaptureLocCluster : Fld := ⟨0x20048, 12, 7, 0⟩
/-- FAULT_CAPTURE_LOC.UNIT (14, R392). -/
def faultCaptureLocUnit : Fld := ⟨0x20048, 19, 4, 0⟩
/-- FAULT_CAPTURE_ADDR.ADDR (14, R392). -/
def faultCaptureAddrAddr : Fld := ⟨0x20050, 0, 64, 0⟩
/-- FAULT_CAPTURE_STAMP.STAMP (14, R392). -/
def faultCaptureStampStamp : Fld := ⟨0x20058, 0, 96, 0⟩
/-- FAULT_CAPTURE_TICK.TICK (14, R392). -/
def faultCaptureTickTick : Fld := ⟨0x20068, 0, 64, 0⟩
/-- FAULT_TICK.TICK (14, R392). -/
def faultTickTick : Fld := ⟨0x20070, 0, 64, 0⟩
/-- FAULT_COUNT_A.NOTE (14, R392). -/
def faultCountANote : Fld := ⟨0x20078, 0, 16, 0⟩
/-- FAULT_COUNT_A.SOFT (14, R392). -/
def faultCountASoft : Fld := ⟨0x20078, 16, 16, 0⟩
/-- FAULT_COUNT_B.HARD (14, R392). -/
def faultCountBHard : Fld := ⟨0x2007c, 0, 16, 0⟩
/-- FAULT_COUNT_B.SEVERE (14, R392). -/
def faultCountBSevere : Fld := ⟨0x2007c, 16, 16, 0⟩
/-- FAULT_COUNT_C.ESCALATED (14, R392). -/
def faultCountCEscalated : Fld := ⟨0x20080, 0, 16, 0⟩
/-- FAULT_COUNT_C.FIFO_LOST (14, R392). -/
def faultCountCFifoLost : Fld := ⟨0x20080, 16, 16, 0⟩
/-- FAULT_ESC_CFG.US (14, R392). -/
def faultEscCfgUs : Fld := ⟨0x20084, 0, 20, 2000⟩
/-- FAULT_HARD.OPEN (14, R392). -/
def faultHardOpen : Fld := ⟨0x20088, 0, 16, 0⟩
/-- FAULT_ACK.SLOT (14, R392). -/
def faultAckSlot : Fld := ⟨0x2008c, 0, 4, 0⟩
/-- FAULT_ACK.HARD (14, R392). -/
def faultAckHard : Fld := ⟨0x2008c, 4, 1, 0⟩
/-- FAULT_ACK.MINOR (14, R392). -/
def faultAckMinor : Fld := ⟨0x2008c, 5, 1, 0⟩
/-- FAULT_ACK.SEVERE (14, R392). -/
def faultAckSevere : Fld := ⟨0x2008c, 6, 1, 0⟩
/-- FAULT_FIFO_BASE.ADDR (14, R392). -/
def faultFifoBaseAddr : Fld := ⟨0x20090, 0, 40, 0⟩
/-- FAULT_FIFO_IDX.PROD (14, R392). -/
def faultFifoIdxProd : Fld := ⟨0x20098, 0, 8, 0⟩
/-- FAULT_FIFO_IDX.CONS (14, R392). -/
def faultFifoIdxCons : Fld := ⟨0x20098, 8, 8, 0⟩
/-- FAULT_HARD_SLOT.LOC (14, R392). -/
def faultHardSlotLoc (i : Nat) : Fld := ⟨0x20100 + 0x8 * i, 0, 23, 0⟩
/-- FAULT_HARD_SLOT_T.REMAINING (14, R392). -/
def faultHardSlotTRemaining (i : Nat) : Fld := ⟨0x20104 + 0x8 * i, 0, 20, 0⟩
/-- FAULT_HARD_SLOT_T.BLOCK (14, R392). -/
def faultHardSlotTBlock (i : Nat) : Fld := ⟨0x20104 + 0x8 * i, 20, 8, 0⟩
/-- LOG_STATUS.HELD (14, R392). -/
def logStatusHeld : Fld := ⟨0x30040, 0, 14, 0⟩
/-- LOG_STATUS.FULL (14, R392). -/
def logStatusFull : Fld := ⟨0x30040, 14, 1, 0⟩
/-- LOG_STATUS.FROZEN (14, R392). -/
def logStatusFrozen : Fld := ⟨0x30040, 15, 1, 0⟩
/-- LOG_STATUS.BUFFERED (14, R392). -/
def logStatusBuffered : Fld := ⟨0x30040, 16, 9, 0⟩
/-- LOG_OVERFLOW.COUNT (14, R392). -/
def logOverflowCount : Fld := ⟨0x30044, 0, 32, 0⟩
/-- LOG_EPOCH.EPOCH (14, R392). -/
def logEpochEpoch : Fld := ⟨0x30048, 0, 16, 0⟩
/-- LOG_JOURNAL.NEXT_SEQ (14, R392). -/
def logJournalNextSeq : Fld := ⟨0x30050, 0, 64, 1⟩
/-- LOG_JOURNAL_CFG.LOG2_SIZE (14, R392). -/
def logJournalCfgLog2Size : Fld := ⟨0x30058, 0, 5, 0⟩
/-- LOG_JOURNAL_CFG.BUFFERED (14, R392). -/
def logJournalCfgBuffered : Fld := ⟨0x30058, 16, 11, 0⟩
/-- LOG_JOURNAL_LOST.COUNT (14, R392). -/
def logJournalLostCount : Fld := ⟨0x3005c, 0, 32, 0⟩
/-- LOG_RECORD.BYTES (14, R392). -/
def logRecordBytes (i : Nat) : Fld := ⟨0x30100 + 0x4 * i, 0, 32, 0⟩
/-- LOG_SUBMIT.TYPE (14, R392). -/
def logSubmitType : Fld := ⟨0x30120, 0, 16, 0⟩
/-- LIFE_STATE.STATE (15, R421). -/
def lifeStateState : Fld := ⟨0xe0040, 0, 3, 1⟩
/-- LIFE_STATE.TORN (15, R421). -/
def lifeStateTorn : Fld := ⟨0xe0040, 3, 1, 0⟩
/-- LIFE_STATE.ROWS (15, R421). -/
def lifeStateRows : Fld := ⟨0xe0040, 4, 4, 1⟩
/-- LIFE_STATE.INTENTS (15, R421). -/
def lifeStateIntents : Fld := ⟨0xe0040, 8, 5, 0⟩
/-- BOOT_STATUS.STAGE (15, R421). -/
def bootStatusStage : Fld := ⟨0xe0044, 0, 3, 0⟩
/-- BOOT_STATUS.BANK (15, R421). -/
def bootStatusBank : Fld := ⟨0xe0044, 3, 1, 0⟩
/-- BOOT_STATUS.FALLBACK (15, R421). -/
def bootStatusFallback : Fld := ⟨0xe0044, 4, 1, 0⟩
/-- BOOT_STATUS.TRIAL_FAILED (15, R421). -/
def bootStatusTrialFailed : Fld := ⟨0xe0044, 5, 1, 0⟩
/-- BOOT_STATUS.CFG_DEFAULTED (15, R421). -/
def bootStatusCfgDefaulted : Fld := ⟨0xe0044, 6, 1, 0⟩
/-- BOOT_STATUS.ROOTS_UNMATCHED (15, R421). -/
def bootStatusRootsUnmatched : Fld := ⟨0xe0044, 7, 1, 0⟩
/-- BOOT_STATUS.NW_HELD (15, R421). -/
def bootStatusNwHeld : Fld := ⟨0xe0044, 8, 1, 0⟩
/-- BOOT_STATUS.STOP (15, R421). -/
def bootStatusStop : Fld := ⟨0xe0044, 16, 8, 0⟩
/-- LIFE_SECURITY.RUNNING (15, R421). -/
def lifeSecurityRunning : Fld := ⟨0xe0048, 0, 16, 0⟩
/-- LIFE_SECURITY.FLOOR (15, R421). -/
def lifeSecurityFloor : Fld := ⟨0xe0048, 16, 16, 0⟩
/-- LIFE_LIMITS0.FLOOR (15, R421). -/
def lifeLimits0Floor : Fld := ⟨0xe0050, 0, 9, 0⟩
/-- LIFE_LIMITS0.NOMINAL (15, R421). -/
def lifeLimits0Nominal : Fld := ⟨0xe0050, 9, 3, 0⟩
/-- LIFE_LIMITS0.PASSWORD (15, R421). -/
def lifeLimits0Password : Fld := ⟨0xe0050, 12, 4, 0⟩
/-- LIFE_LIMITS0.DEBUG_KEY (15, R421). -/
def lifeLimits0DebugKey : Fld := ⟨0xe0050, 16, 3, 0⟩
/-- LIFE_LIMITS0.THERMOS (15, R421). -/
def lifeLimits0Thermos : Fld := ⟨0xe0050, 19, 5, 0⟩
/-- LIFE_LIMITS1.RETIRED (15, R421). -/
def lifeLimits1Retired : Fld := ⟨0xe0054, 0, 16, 0⟩
/-- LIFE_LIMITS1.RS_ROWS (15, R421). -/
def lifeLimits1RsRows : Fld := ⟨0xe0054, 16, 4, 0⟩
/-- LIFE_LIMITS1.EPOCH_ROWS (15, R421). -/
def lifeLimits1EpochRows : Fld := ⟨0xe0054, 20, 7, 0⟩
/-- LIFE_DEBUG.LEVEL (15, R421). -/
def lifeDebugLevel : Fld := ⟨0xe0058, 0, 2, 0⟩
/-- LIFE_DEBUG.PW_FAILS (15, R421). -/
def lifeDebugPwFails : Fld := ⟨0xe0058, 2, 5, 0⟩
/-- LIFE_DEBUG.TOKEN_FAILS (15, R421). -/
def lifeDebugTokenFails : Fld := ⟨0xe0058, 7, 5, 0⟩
/-- LIFE_DEBUG.CHALLENGE (15, R421). -/
def lifeDebugChallenge : Fld := ⟨0xe0058, 12, 1, 0⟩
/-- LIFE_BANKS.VERSION_A (15, R421). -/
def lifeBanksVersionA : Fld := ⟨0xe005c, 0, 16, 0⟩
/-- LIFE_BANKS.VERSION_B (15, R421). -/
def lifeBanksVersionB : Fld := ⟨0xe005c, 16, 16, 0⟩
/-- CFG_STATUS.DEFAULTED (15, R421). -/
def cfgStatusDefaulted : Fld := ⟨0xe8040, 0, 1, 0⟩
/-- CFG_STATUS.COPY (15, R421). -/
def cfgStatusCopy : Fld := ⟨0xe8040, 1, 1, 0⟩
/-- CFG_STATUS.PENDING (15, R421). -/
def cfgStatusPending : Fld := ⟨0xe8040, 2, 1, 0⟩
/-- CFG_STATUS.CHANGES (15, R421). -/
def cfgStatusChanges : Fld := ⟨0xe8040, 16, 16, 0⟩
/-- FERRY_STATUS.ROLE (16, R443). -/
def ferryStatusRole : Fld := ⟨0xf0040, 0, 2, 0⟩
/-- FERRY_STATUS.MODE (16, R443). -/
def ferryStatusMode : Fld := ⟨0xf0040, 2, 2, 0⟩
/-- FERRY_STATUS.SELF (16, R443). -/
def ferryStatusSelf : Fld := ⟨0xf0040, 4, 6, 0⟩
/-- FERRY_STATUS.PRESENT (16, R443). -/
def ferryStatusPresent : Fld := ⟨0xf0040, 16, 7, 0⟩
/-- FERRY_STATUS.RING_BROKEN (16, R443). -/
def ferryStatusRingBroken : Fld := ⟨0xf0040, 23, 1, 0⟩
/-- FERRY_PRESENT.PRESENT (16, R443). -/
def ferryPresentPresent : Fld := ⟨0xf0048, 0, 64, 0⟩
/-- FERRY_PORT.STATE (16, R443). -/
def ferryPortState (i : Nat) : Fld := ⟨0xf0050 + 0x4 * i, 0, 3, 0⟩
/-- FERRY_PORT.USE (16, R443). -/
def ferryPortUse (i : Nat) : Fld := ⟨0xf0050 + 0x4 * i, 3, 2, 0⟩
/-- FERRY_PORT.REASON (16, R443). -/
def ferryPortReason (i : Nat) : Fld := ⟨0xf0050 + 0x4 * i, 5, 3, 0⟩
/-- FERRY_PORT.CRC_ERRORS (16, R443). -/
def ferryPortCrcErrors (i : Nat) : Fld := ⟨0xf0050 + 0x4 * i, 8, 16, 0⟩
/-- FERRY_PORT.RETRAINS (16, R443). -/
def ferryPortRetrains (i : Nat) : Fld := ⟨0xf0050 + 0x4 * i, 24, 8, 0⟩
/-- FERRY_LINK_ERR.SEQ (16, R443). -/
def ferryLinkErrSeq : Fld := ⟨0xf0060, 0, 16, 0⟩
/-- FERRY_LINK_ERR.PORT (16, R443). -/
def ferryLinkErrPort : Fld := ⟨0xf0060, 16, 2, 0⟩
/-- FERRY_LINK_ERR.KIND (16, R443). -/
def ferryLinkErrKind : Fld := ⟨0xf0060, 18, 3, 0⟩
/-- FERRY_DOMAIN.INDEX (16, R443). -/
def ferryDomainIndex : Fld := ⟨0xf0070, 0, 14, 0⟩
/-- FERRY_DOMAIN.MEMBER (16, R443). -/
def ferryDomainMember : Fld := ⟨0xf0070, 14, 1, 0⟩
/-- FERRY_DOMAIN.REPLICAS (16, R443). -/
def ferryDomainReplicas : Fld := ⟨0xf0070, 16, 13, 0⟩
/-- FERRY_DOMAIN_ID.DOMAIN_ID (16, R443). -/
def ferryDomainIdDomainId : Fld := ⟨0xf0078, 0, 64, 0⟩
/-- FERRY_APERTURE.BLOCK (16, R443). -/
def ferryApertureBlock (i : Nat) : Fld := ⟨0xf0100 + 0x4 * i, 0, 8, 1⟩
/-- FERRY_FOLLOWER.STATE (16, R443). -/
def ferryFollowerState (i : Nat) : Fld := ⟨0xf0200 + 0x10 * i, 0, 3, 0⟩
/-- FERRY_FOLLOWER.PORT (16, R443). -/
def ferryFollowerPort (i : Nat) : Fld := ⟨0xf0200 + 0x10 * i, 3, 2, 0⟩
/-- FERRY_FOLLOWER.HOPS (16, R443). -/
def ferryFollowerHops (i : Nat) : Fld := ⟨0xf0200 + 0x10 * i, 5, 6, 0⟩
/-- FERRY_FOLLOWER.REPLACED (16, R443). -/
def ferryFollowerReplaced (i : Nat) : Fld := ⟨0xf0200 + 0x10 * i, 11, 1, 0⟩
/-- FERRY_FOLLOWER.LIFE (16, R443). -/
def ferryFollowerLife (i : Nat) : Fld := ⟨0xf0200 + 0x10 * i, 12, 3, 0⟩
/-- FERRY_FOLLOWER_OUT.OUTSTANDING (16, R443). -/
def ferryFollowerOutOutstanding (i : Nat) : Fld := ⟨0xf0204 + 0x10 * i, 0, 9, 0⟩
/-- FERRY_FOLLOWER_SER.SERIAL (16, R443). -/
def ferryFollowerSerSerial (i : Nat) : Fld := ⟨0xf0208 + 0x10 * i, 0, 64, 0⟩
/-- SYS_PINS.STRAP (18, R464). -/
def sysPinsStrap : Fld := ⟨0x10080, 0, 3, 0⟩
/-- SYS_PINS.GPIO (18, R464). -/
def sysPinsGpio : Fld := ⟨0x10080, 8, 8, 0⟩
/-- SYS_PINS.HOLDUP (18, R464). -/
def sysPinsHoldup : Fld := ⟨0x10080, 16, 1, 0⟩

end R

/-- The fields of the common block header, at the offsets of Table GI.6. -/
def headerRows : List Row :=
  [⟨(R.hdrIdBlock 0), .ro, .live, .keep, 1, 0, .nobody⟩,
   ⟨(R.hdrIdIssue 0), .ro, .live, .keep, 1, 0, .nobody⟩,
   ⟨(R.hdrCtrlQuiesce 0), .rwm, .live, .value, 1, 0, .pairs⟩,
   ⟨(R.hdrCtrlShadowView 0), .rwm, .live, .value, 1, 0, .pairs⟩,
   ⟨(R.hdrCtrlMask 0), .wo, .live, .value, 1, 0, .pairs⟩,
   ⟨(R.hdrStateIdle 0), .ro, .live, .value, 1, 0, .nobody⟩,
   ⟨(R.hdrStateOff 0), .ro, .live, .value, 1, 0, .nobody⟩,
   ⟨(R.hdrStateResetting 0), .ro, .live, .value, 1, 0, .nobody⟩,
   ⟨(R.hdrStateQuiesced 0), .ro, .live, .value, 1, 0, .nobody⟩,
   ⟨(R.hdrCommitRequest 0), .wo, .live, .value, 1, 0, .pairs⟩,
   ⟨(R.hdrCommitPending 0), .ro, .live, .value, 1, 0, .nobody⟩,
   ⟨(R.hdrCommitResult 0), .ro, .live, .value, 1, 0, .nobody⟩,
   ⟨(R.hdrCommitLastGroup 0), .ro, .live, .value, 1, 0, .nobody⟩,
   ⟨(R.hdrCommitReason 0), .ro, .live, .value, 1, 0, .nobody⟩,
   ⟨(R.hdrErrSeq 0), .sqc, .live, .value, 1, 0, .pairs⟩,
   ⟨(R.hdrErrWriteWhileBusy 0), .sqc, .live, .value, 1, 0, .pairs⟩,
   ⟨(R.hdrErrShadowFrozen 0), .sqc, .live, .value, 1, 0, .pairs⟩,
   ⟨(R.hdrErrDword 0), .sqc, .live, .value, 1, 0, .pairs⟩,
   ⟨(R.hdrErrCountCount 0), .ro, .live, .value, 1, 0, .nobody⟩]

/-- Rows of the register tables, part 0. -/
def layout0 : List Row :=
  [⟨R.devStatusLife, .ro, .live, .keep, 1, 0, .nobody⟩,
   ⟨R.devStatusBoot, .ro, .live, .value, 1, 0, .nobody⟩,
   ⟨R.devStatusCustodyUp, .ro, .live, .value, 1, 0, .nobody⟩,
   ⟨R.devStatusLocked, .ro, .live, .value, 1, 0, .nobody⟩,
   ⟨R.devStatusReduced, .ro, .live, .value, 1, 0, .nobody⟩,
   ⟨R.devStatusCompassState, .ro, .live, .value, 1, 0, .nobody⟩,
   ⟨R.devStatusMissing, .ro, .live, .value, 1, 0, .nobody⟩,
   ⟨R.compassNowCapture, .wo, .live, .value, 1, 0, .pfAndPairs⟩,
   ⟨R.compassNowCycleLo, .ro, .live, .value, 1, 0, .nobody⟩,
   ⟨R.compassNowCycleHi, .ro, .live, .value, 1, 0, .nobody⟩,
   ⟨R.compassNowPhase, .ro, .live, .value, 1, 0, .nobody⟩,
   ⟨R.compassNowState, .ro, .live, .value, 1, 0, .nobody⟩,
   ⟨R.compassNowUncert, .ro, .live, .value, 1, 0, .nobody⟩,
   ⟨R.compassNowSeq, .ro, .live, .value, 1, 0, .nobody⟩,
   ⟨R.lanternStatusLevel, .ro, .live, .value, 1, 0, .nobody⟩,
   ⟨R.lanternStatusRunning, .ro, .live, .value, 1, 0, .nobody⟩,
   ⟨R.lanternStatusFaultAsserted, .ro, .live, .value, 1, 0, .nobody⟩,
   ⟨R.lanternStatusWorst, .ro, .live, .value, 1, 0, .nobody⟩,
   ⟨R.lanternStatusWdogMisses, .ro, .live, .value, 1, 0, .nobody⟩,
   ⟨R.eventSummaryGroup, .ro, .live, .value, 1, 0, .nobody⟩,
   ⟨R.sysAccessErrSeq, .sqc, .live, .value, 1, 0, .pfAndPairs⟩,
   ⟨R.sysAccessErrKind, .sqc, .live, .value, 1, 0, .pfAndPairs⟩,
   ⟨R.sysAccessErrFunction, .sqc, .live, .value, 1, 0, .pfAndPairs⟩,
   ⟨R.sysAccessErrInternal, .sqc, .live, .value, 1, 0, .pfAndPairs⟩,
   ⟨R.sysAccessErrWrite, .sqc, .live, .value, 1, 0, .pfAndPairs⟩,
   ⟨R.sysAccessErrAddrOffset, .ro, .live, .value, 1, 0, .nobody⟩,
   ⟨R.sysAccessErrCountCount, .ro, .live, .value, 1, 0, .nobody⟩,
   ⟨R.keeperRsStatusPresent, .ro, .live, .keep, 1, 0, .nobody⟩,
   ⟨R.keeperRsStatusCopiesAgree, .ro, .live, .keep, 1, 0, .nobody⟩,
   ⟨R.keeperRsStatusWithheld, .ro, .live, .keep, 1, 0, .nobody⟩]

/-- Rows of the register tables, part 1. -/
def layout1 : List Row :=
  [⟨R.keeperRsStatusGenDeferred, .ro, .live, .value, 1, 0, .nobody⟩,
   ⟨R.keeperRsStatusChkRows, .ro, .live, .keep, 1, 0, .nobody⟩,
   ⟨R.keeperRsStatusRepairs, .ro, .live, .keep, 1, 0, .nobody⟩,
   ⟨R.keeperRsStatusGenerated, .ro, .live, .value, 1, 0, .nobody⟩,
   ⟨R.keeperDeriveStatusReleased, .ro, .live, .value, 1, 0, .nobody⟩,
   ⟨R.keeperDeriveStatusProspective, .ro, .live, .value, 1, 0, .nobody⟩,
   ⟨R.keeperDeriveStatusRefusal, .ro, .live, .value, 1, 0, .nobody⟩,
   ⟨R.skeSlotInuseLoaded, .ro, .live, .value, 1, 0, .nobody⟩,
   ⟨R.skeSlotLoadsCount, .ro, .live, .value, 1, 0, .nobody⟩,
   ⟨R.skeSlotEvictsCount, .ro, .live, .value, 1, 0, .nobody⟩,
   ⟨R.skeSlotCfgReservedBank, .ro, .live, .value, 1, 0, .nobody⟩,
   ⟨R.skeSlotCfgScrambleReady, .ro, .live, .value, 1, 0, .nobody⟩,
   ⟨R.skeSlotCfgMaskReady, .ro, .live, .value, 1, 0, .nobody⟩,
   ⟨R.storeStatusOpen, .ro, .live, .value, 1, 0, .nobody⟩,
   ⟨R.storeStatusRollback, .ro, .live, .value, 1, 0, .nobody⟩,
   ⟨R.storeStatusReopenWait, .ro, .live, .value, 1, 0, .nobody⟩,
   ⟨R.storeStatusPrefilled, .ro, .live, .value, 1, 0, .nobody⟩,
   ⟨R.storeStatusBatchOpen, .ro, .live, .value, 1, 0, .nobody⟩,
   ⟨R.storeStatusCommitting, .ro, .live, .value, 1, 0, .nobody⟩,
   ⟨R.storeVersionVersion, .ro, .live, .keep, 1, 0, .nobody⟩,
   ⟨R.storeEpochEpoch, .ro, .live, .keep, 1, 0, .nobody⟩,
   ⟨R.storeEpochPagesLog2, .ro, .live, .keep, 1, 0, .nobody⟩,
   ⟨R.storeReqBaseAddr, .ro, .live, .held, 1, 0, .nobody⟩,
   ⟨R.storeReqCfgLog2Size, .ro, .live, .held, 1, 0, .nobody⟩,
   ⟨R.storeReqCfgBuffers, .ro, .live, .held, 1, 0, .nobody⟩,
   ⟨R.storeReqProdIndex, .ro, .live, .held, 1, 0, .nobody⟩,
   ⟨R.storeReqConsIndex, .rw, .live, .held, 1, 0, .pfAndPairs⟩,
   ⟨R.storeRspBaseAddr, .ro, .live, .held, 1, 0, .nobody⟩,
   ⟨R.storeRspCfgLog2Size, .ro, .live, .held, 1, 0, .nobody⟩,
   ⟨R.storeRspProdIndex, .rw, .live, .held, 1, 0, .pfAndPairs⟩]

/-- Rows of the register tables, part 2. -/
def layout2 : List Row :=
  [⟨R.storeRspConsIndex, .ro, .live, .held, 1, 0, .nobody⟩,
   ⟨R.storeRspConsDropped, .ro, .live, .held, 1, 0, .nobody⟩,
   ⟨R.storePoolBaseAddr, .ro, .live, .held, 1, 0, .nobody⟩,
   ⟨R.storeBatchCfgWindow, .rws, (.group 0), .value, 1, 0, .pairs⟩,
   ⟨R.storeBatchCfgPages, .rws, (.group 0), .value, 1, 0, .pairs⟩,
   ⟨R.storeFetchTimeoutMs, .rw, .live, .value, 1, 0, .pairs⟩,
   ⟨R.storeIntegSeq, .sqc, .live, .value, 1, 0, .pairs⟩,
   ⟨R.storeIntegLevel, .sqc, .live, .value, 1, 0, .pairs⟩,
   ⟨R.storeIntegIndexIndex, .ro, .live, .value, 1, 0, .nobody⟩,
   ⟨R.storeIntegCountCount, .ro, .live, .value, 1, 0, .nobody⟩,
   ⟨R.storeIntegCountFailed, .ro, .live, .value, 1, 0, .nobody⟩,
   ⟨R.storeCachePinned, .ro, .live, .value, 1, 0, .nobody⟩,
   ⟨R.storeCacheDirty, .ro, .live, .value, 1, 0, .nobody⟩,
   ⟨R.keeperStoreAnchorAnchor, .ro, .live, .keep, 1, 0, .nobody⟩,
   ⟨R.keeperStoreEpochRows, .ro, .live, .keep, 1, 0, .nobody⟩,
   ⟨R.pkeSummaryReady, .ro, .live, .value, 1, 0, .nobody⟩,
   ⟨R.pkeSummaryBusy, .ro, .live, .value, 1, 0, .nobody⟩,
   ⟨R.pkeOutQuarantined, .ro, .live, .value, 1, 0, .nobody⟩,
   ⟨R.pkeOutOut, .ro, .live, .keep, 1, 0, .nobody⟩,
   ⟨R.pkeFaultSeq, .sqc, .live, .value, 1, 0, .pairs⟩,
   ⟨R.pkeFaultKind, .sqc, .live, .value, 1, 0, .pairs⟩,
   ⟨R.pkeFaultCluster, .sqc, .live, .value, 1, 0, .pairs⟩,
   ⟨R.pkeFaultLane, .sqc, .live, .value, 1, 0, .pairs⟩,
   ⟨R.pkeFaultInfoProgram, .ro, .live, .value, 1, 0, .nobody⟩,
   ⟨R.pkeFaultInfoSizeW, .ro, .live, .value, 1, 0, .nobody⟩,
   ⟨R.pkeFaultCountCount, .ro, .live, .value, 1, 0, .nobody⟩,
   ⟨R.pkeRejectsRejected, .ro, .live, .value, 1, 0, .nobody⟩,
   ⟨R.pkeRejectsAborts, .ro, .live, .value, 1, 0, .nobody⟩,
   ⟨R.pkeMaskCfgReseedJobs, .rws, (.group 0), .value, 1, 0, .pairs⟩,
   ⟨R.pkeMaskCfgReseedMc, .rws, (.group 0), .value, 1, 0, .pairs⟩]

/-- Rows of the register tables, part 3. -/
def layout3 : List Row :=
  [⟨R.pkeGateSeq, .sqc, .live, .value, 1, 0, .pairs⟩,
   ⟨R.pkeGatePackage, .sqc, .live, .value, 1, 0, .pairs⟩,
   ⟨R.pkeGateCluster, .sqc, .live, .value, 1, 0, .pairs⟩,
   ⟨R.pkeCurveMapLoaded, .ro, .live, .keep, 1, 0, .nobody⟩,
   ⟨R.pkeCurveRetiredRetired, .ro, .live, .keep, 1, 0, .nobody⟩,
   ⟨R.pkePackagesActive, .ro, .live, .keep, 1, 0, .nobody⟩,
   ⟨R.pkePackagesRolling, .ro, .live, .value, 1, 0, .nobody⟩,
   ⟨(R.pkeClusterStatusState 0), .ro, .live, .value, 16, 16, .nobody⟩,
   ⟨(R.pkeClusterStatusPackages 0), .ro, .live, .value, 16, 16, .nobody⟩,
   ⟨(R.pkeClusterStatusSeeded 0), .ro, .live, .value, 16, 16, .nobody⟩,
   ⟨(R.pkeClusterStatusLeased 0), .ro, .live, .value, 16, 16, .nobody⟩,
   ⟨(R.pkeClusterStatusGatePending 0), .ro, .live, .value, 16, 16, .nobody⟩,
   ⟨(R.pkeClusterStatusProgram 0), .ro, .live, .value, 16, 16, .nobody⟩,
   ⟨(R.pkeClusterJobsCount 0), .ro, .live, .value, 16, 16, .nobody⟩,
   ⟨(R.pkeClusterQuarQuarantines 0), .ro, .live, .value, 16, 16, .nobody⟩,
   ⟨(R.pkeClusterQuarSeedJobsLeft 0), .ro, .live, .value, 16, 16, .nobody⟩,
   ⟨(R.pkeClusterCtrlGateReq 0), .rwm, .live, .value, 16, 16, .pairsAndAps⟩,
   ⟨(R.pkeClusterCtrlFence 0), .rwm, .live, .value, 16, 16, .pairs⟩,
   ⟨(R.pkeClusterCtrlMask 0), .wo, .live, .value, 16, 16, .pairs⟩,
   ⟨R.skeLanesReady, .ro, .live, .value, 1, 0, .nobody⟩,
   ⟨R.skeLanesBusy, .ro, .live, .value, 1, 0, .nobody⟩,
   ⟨R.skeLanesIsolated, .ro, .live, .value, 1, 0, .nobody⟩,
   ⟨R.skeLanesOff, .ro, .live, .value, 1, 0, .nobody⟩,
   ⟨R.skeQueueDepth, .ro, .live, .value, 1, 0, .nobody⟩,
   ⟨R.skeQueueReservedDepth, .ro, .live, .value, 1, 0, .nobody⟩,
   ⟨R.skeCheckSeq, .sqc, .live, .value, 1, 0, .pairs⟩,
   ⟨R.skeCheckLane, .sqc, .live, .value, 1, 0, .pairs⟩,
   ⟨R.skeCheckIsolated, .sqc, .live, .value, 1, 0, .pairs⟩,
   ⟨R.skeCheckAlg, .sqc, .live, .value, 1, 0, .pairs⟩,
   ⟨R.skeCheckCountCount, .ro, .live, .value, 1, 0, .nobody⟩]

/-- Rows of the register tables, part 4. -/
def layout4 : List Row :=
  [⟨R.skeNonceCfgDevice, .rws, (.group 0), .value, 1, 0, .pairs⟩,
   ⟨R.skeNonceBaseNext, .ro, .live, .keep, 1, 0, .nobody⟩,
   ⟨R.skeNonceReservedH, .ro, .live, .keep, 1, 0, .nobody⟩,
   ⟨R.skeNonceEventSeq, .sqc, .live, .value, 1, 0, .pairs⟩,
   ⟨R.skeNonceEventLow, .sqc, .live, .value, 1, 0, .pairs⟩,
   ⟨R.skeNonceEventExhausted, .sqc, .live, .value, 1, 0, .pairs⟩,
   ⟨R.skeNonceEventRotated, .sqc, .live, .value, 1, 0, .pairs⟩,
   ⟨R.skeNonceEventRotateFailed, .sqc, .live, .value, 1, 0, .pairs⟩,
   ⟨R.skeNonceEventBaseLost, .sqc, .live, .value, 1, 0, .pairs⟩,
   ⟨R.skeNonceEventSlotSlot, .ro, .live, .value, 1, 0, .nobody⟩,
   ⟨R.skeNonceExhaustsCount, .ro, .live, .value, 1, 0, .nobody⟩,
   ⟨R.skeNonceExhaustsRotations, .ro, .live, .value, 1, 0, .nobody⟩,
   ⟨(R.skeLaneStatusState 0), .ro, .live, .value, 8, 16, .nobody⟩,
   ⟨(R.skeLaneStatusLeased 0), .ro, .live, .value, 8, 16, .nobody⟩,
   ⟨(R.skeLaneStatusGatePending 0), .ro, .live, .value, 8, 16, .nobody⟩,
   ⟨(R.skeLaneStatusAlg 0), .ro, .live, .value, 8, 16, .nobody⟩,
   ⟨(R.skeLaneStatusMismatches 0), .ro, .live, .value, 8, 16, .nobody⟩,
   ⟨(R.skeLaneReqsCount 0), .ro, .live, .value, 8, 16, .nobody⟩,
   ⟨(R.skeLaneBytesKib4 0), .ro, .live, .value, 8, 16, .nobody⟩,
   ⟨(R.skeLaneCtrlGateReq 0), .rwm, .live, .value, 8, 16, .pairsAndAps⟩,
   ⟨(R.skeLaneCtrlFence 0), .rwm, .live, .value, 8, 16, .pairs⟩,
   ⟨(R.skeLaneCtrlRejoin 0), .rwm, .live, .value, 8, 16, .pairs⟩,
   ⟨(R.skeLaneCtrlMask 0), .wo, .live, .value, 8, 16, .pairs⟩,
   ⟨R.trngStateDrbg, .ro, .live, .value, 1, 0, .nobody⟩,
   ⟨R.trngStateHealthy, .ro, .live, .value, 1, 0, .nobody⟩,
   ⟨R.trngStatePool, .ro, .live, .value, 1, 0, .nobody⟩,
   ⟨R.trngHealthSeq, .sqc, .live, .value, 1, 0, .pairs⟩,
   ⟨R.trngHealthSource, .sqc, .live, .value, 1, 0, .pairs⟩,
   ⟨R.trngHealthTest, .sqc, .live, .value, 1, 0, .pairs⟩,
   ⟨R.trngHealthLag, .sqc, .live, .value, 1, 0, .pairs⟩]

/-- Rows of the register tables, part 5. -/
def layout5 : List Row :=
  [⟨R.trngHealthStatStat, .ro, .live, .value, 1, 0, .nobody⟩,
   ⟨R.trngFailCountFails, .ro, .live, .value, 1, 0, .nobody⟩,
   ⟨R.trngFailCountStops, .ro, .live, .value, 1, 0, .nobody⟩,
   ⟨R.trngReseedsCount, .ro, .live, .value, 1, 0, .nobody⟩,
   ⟨R.trngCallsSinceReseed, .ro, .live, .value, 1, 0, .nobody⟩,
   ⟨R.trngReseedCfgCallsLog2, .rws, (.group 0), .value, 1, 0, .pairs⟩,
   ⟨R.trngReseedCfgMc, .rws, (.group 0), .value, 1, 0, .pairs⟩,
   ⟨R.trngDataData, .ro, .live, .value, 1, 0, .nobody⟩,
   ⟨R.trngDataValidValid, .ro, .live, .value, 1, 0, .nobody⟩,
   ⟨R.trngHostErrSeq, .sqc, .live, .value, 1, 0, .pairs⟩,
   ⟨R.trngHostErrEmptyRead, .sqc, .live, .value, 1, 0, .pairs⟩,
   ⟨R.trngHostErrNotInstantiated, .sqc, .live, .value, 1, 0, .pairs⟩,
   ⟨R.trngHostErrFunction, .sqc, .live, .value, 1, 0, .pairs⟩,
   ⟨R.trngEmptyCountCount, .ro, .live, .value, 1, 0, .nobody⟩,
   ⟨R.trngEmptyCountFifo, .ro, .live, .value, 1, 0, .nobody⟩,
   ⟨(R.trngSrcStatusState 0), .ro, .live, .value, 5, 16, .nobody⟩,
   ⟨(R.trngSrcStatusTrim 0), .ro, .live, .keep, 5, 16, .nobody⟩,
   ⟨(R.trngSrcStatusEstimate 0), .ro, .live, .keep, 5, 16, .nobody⟩,
   ⟨(R.trngSrcStatusIsolations 0), .ro, .live, .value, 5, 16, .nobody⟩,
   ⟨(R.trngSrcBlocksCount 0), .ro, .live, .value, 5, 16, .nobody⟩,
   ⟨(R.trngSrcCtrlRecal 0), .rwm, .live, .value, 5, 16, .pairs⟩,
   ⟨(R.trngSrcCtrlIsolate 0), .rwm, .live, .value, 5, 16, .pairs⟩,
   ⟨(R.trngSrcCtrlMask 0), .wo, .live, .value, 5, 16, .pairs⟩,
   ⟨(R.mboxDoorbellGo 0), .wo, .live, .value, 32, 8, .pfAndPairs⟩,
   ⟨(R.mboxDoorbellAck 0), .wo, .live, .value, 32, 8, .pfAndPairs⟩,
   ⟨(R.mboxDoorbellAbort 0), .wo, .live, .value, 32, 8, .pfAndPairs⟩,
   ⟨(R.mboxStatusState 0), .ro, .live, .value, 32, 8, .nobody⟩,
   ⟨(R.mboxStatusOverrun 0), .ro, .live, .value, 32, 8, .nobody⟩,
   ⟨(R.mboxStatusCount 0), .ro, .live, .value, 32, 8, .nobody⟩,
   ⟨R.quorumStatusPending, .ro, .live, .held, 1, 0, .nobody⟩]

/-- Rows of the register tables, part 6. -/
def layout6 : List Row :=
  [⟨R.quorumStatusPortA, .ro, .live, .value, 1, 0, .nobody⟩,
   ⟨R.quorumStatusPortB, .ro, .live, .value, 1, 0, .nobody⟩,
   ⟨R.quorumSlotsPending, .ro, .live, .held, 1, 0, .nobody⟩,
   ⟨R.quorumEventSeq, .sqc, .live, .value, 1, 0, .pairs⟩,
   ⟨R.quorumEventKind, .sqc, .live, .value, 1, 0, .pairs⟩,
   ⟨R.quorumEventSlot, .sqc, .live, .value, 1, 0, .pairs⟩,
   ⟨R.quorumPortCfgCkDiv, .rws, (.group 0), .value, 1, 0, .pairs⟩,
   ⟨R.quorumPortCfgPollMs, .rws, (.group 0), .value, 1, 0, .pairs⟩,
   ⟨R.quorumPortCfgVio3v3, .ro, .live, .keep, 1, 0, .nobody⟩,
   ⟨R.quorumPortErrDiscardA, .ro, .live, .value, 1, 0, .nobody⟩,
   ⟨R.quorumPortErrDiscardB, .ro, .live, .value, 1, 0, .nobody⟩,
   ⟨R.quorumTokenRefusedCount, .ro, .live, .value, 1, 0, .nobody⟩,
   ⟨R.quorumTokenRefusedPinFails, .ro, .live, .value, 1, 0, .nobody⟩,
   ⟨(R.quorumSlotIdOperationId 0), .ro, .live, .held, 32, 32, .nobody⟩,
   ⟨(R.quorumSlotClassClass 0), .ro, .live, .held, 32, 32, .nobody⟩,
   ⟨(R.quorumSlotClassTenantKind 0), .ro, .live, .held, 32, 32, .nobody⟩,
   ⟨(R.quorumSlotClassPp 0), .ro, .live, .held, 32, 32, .nobody⟩,
   ⟨(R.quorumSlotClassPortSeen 0), .ro, .live, .held, 32, 32, .nobody⟩,
   ⟨(R.quorumSlotClassM 0), .ro, .live, .held, 32, 32, .nobody⟩,
   ⟨(R.quorumSlotClassState 0), .ro, .live, .held, 32, 32, .nobody⟩,
   ⟨(R.quorumSlotClassTenant 0), .ro, .live, .held, 32, 32, .nobody⟩,
   ⟨(R.quorumSlotApprovalsApproved 0), .ro, .live, .held, 32, 32, .nobody⟩,
   ⟨(R.quorumSlotApprovalsEligible 0), .ro, .live, .held, 32, 32, .nobody⟩,
   ⟨(R.quorumSlotDeadlineCycle 0), .ro, .live, .held, 32, 32, .nobody⟩,
   ⟨R.qengStatusSqs, .ro, .live, .value, 1, 0, .nobody⟩,
   ⟨R.qengStatusCqs, .ro, .live, .value, 1, 0, .nobody⟩,
   ⟨R.qengStatusFunctions, .ro, .live, .value, 1, 0, .nobody⟩,
   ⟨R.qengStatusCfgSet, .ro, .live, .value, 1, 0, .nobody⟩,
   ⟨R.qengCfgBaseAddr, .rw, .live, .value, 1, 0, .pfAndPairs⟩,
   ⟨R.qengLoadIndex, .wo, .live, .value, 1, 0, .pfAndPairs⟩]

/-- Rows of the register tables, part 7. -/
def layout7 : List Row :=
  [⟨R.qengLoadObject, .wo, .live, .value, 1, 0, .pfAndPairs⟩,
   ⟨R.qengLoadAction, .wo, .live, .value, 1, 0, .pfAndPairs⟩,
   ⟨R.qengLoadStatusRunning, .ro, .live, .value, 1, 0, .nobody⟩,
   ⟨R.qengLoadStatusResult, .ro, .live, .value, 1, 0, .nobody⟩,
   ⟨R.qengLoadStatusReason, .ro, .live, .value, 1, 0, .nobody⟩,
   ⟨R.qengLoadStatusLoads, .ro, .live, .value, 1, 0, .nobody⟩,
   ⟨R.qengQerrSeq, .sqc, .live, .value, 1, 0, .pfAndPairs⟩,
   ⟨R.qengQerrCq, .sqc, .live, .value, 1, 0, .pfAndPairs⟩,
   ⟨R.qengQerrQueue, .sqc, .live, .value, 1, 0, .pfAndPairs⟩,
   ⟨R.qengQerrKind, .sqc, .live, .value, 1, 0, .pfAndPairs⟩,
   ⟨R.qengQerrCountCount, .ro, .live, .value, 1, 0, .nobody⟩,
   ⟨R.qengRoundsCount, .ro, .live, .value, 1, 0, .nobody⟩,
   ⟨R.qengInflightTaken, .ro, .live, .value, 1, 0, .nobody⟩,
   ⟨R.qengInflightPrefetched, .ro, .live, .value, 1, 0, .nobody⟩,
   ⟨R.qengNoticeDroppedCount, .ro, .live, .value, 1, 0, .nobody⟩,
   ⟨(R.qengEventPendingPending 0), .ro, .live, .value, 16, 4, .nobody⟩,
   ⟨R.qengEventAckSource, .wo, .live, .value, 1, 0, .pfAndPairs⟩,
   ⟨(R.qengSqArbWeight 0), .rws, (.group 1), .value, 1024, 4, .pfAndPairs⟩,
   ⟨(R.qengSqArbBurst 0), .rws, (.group 1), .value, 1024, 4, .pfAndPairs⟩,
   ⟨(R.qengEventRouteFunction 0), .rw, .live, .value, 512, 4, .pfAndPairs⟩,
   ⟨(R.qengEventRouteVector 0), .rw, .live, .value, 512, 4, .pfAndPairs⟩,
   ⟨(R.qengEventRouteEnable 0), .rw, .live, .value, 512, 4, .pfAndPairs⟩,
   ⟨(R.qengSqStateState 0), .ro, .live, .value, 1024, 4, .nobody⟩,
   ⟨(R.qengSqStatePrefetched 0), .ro, .live, .value, 1024, 4, .nobody⟩,
   ⟨(R.qengSqStateTaken 0), .ro, .live, .value, 1024, 4, .nobody⟩,
   ⟨(R.qengCqStateState 0), .ro, .live, .value, 1024, 4, .nobody⟩,
   ⟨(R.qengCqStateFull 0), .ro, .live, .value, 1024, 4, .nobody⟩,
   ⟨(R.qengCqStateHeld 0), .ro, .live, .value, 1024, 4, .nobody⟩,
   ⟨(R.qengFnStateEnabled 0), .ro, .live, .value, 256, 4, .nobody⟩,
   ⟨(R.qengFnStateInflight 0), .ro, .live, .value, 256, 4, .nobody⟩]

/-- Rows of the register tables, part 8. -/
def layout8 : List Row :=
  [⟨(R.qengFnStateNoticesHeld 0), .ro, .live, .value, 256, 4, .nobody⟩,
   ⟨R.ituStatusValid, .ro, .live, .value, 1, 0, .nobody⟩,
   ⟨R.ituFaultSeq, .sqc, .live, .value, 1, 0, .pairs⟩,
   ⟨R.ituFaultFunction, .sqc, .live, .value, 1, 0, .pairs⟩,
   ⟨R.ituFaultKind, .sqc, .live, .value, 1, 0, .pairs⟩,
   ⟨R.ituFaultWrite, .sqc, .live, .value, 1, 0, .pairs⟩,
   ⟨R.ituFaultAddrAddr, .ro, .live, .value, 1, 0, .nobody⟩,
   ⟨R.ituMissesCount, .ro, .live, .value, 1, 0, .nobody⟩,
   ⟨R.ituFaultCountCount, .ro, .live, .value, 1, 0, .nobody⟩,
   ⟨R.compassStatusState, .ro, .live, .value, 1, 0, .nobody⟩,
   ⟨R.compassStatusAligned, .ro, .live, .keep, 1, 0, .nobody⟩,
   ⟨R.compassStatusAnchorHeld, .ro, .live, .keep, 1, 0, .nobody⟩,
   ⟨R.compassStatusClockDisagree, .ro, .live, .value, 1, 0, .nobody⟩,
   ⟨R.compassStatusStepDue, .ro, .live, .value, 1, 0, .nobody⟩,
   ⟨R.compassStatusValidRun, .ro, .live, .value, 1, 0, .nobody⟩,
   ⟨R.compassStatusNominal, .ro, .live, .keep, 1, 0, .nobody⟩,
   ⟨R.compassStatusChanges, .ro, .live, .keep, 1, 0, .nobody⟩,
   ⟨R.compassPeriodPeriod, .ro, .live, .value, 1, 0, .nobody⟩,
   ⟨R.compassQualityUncert, .ro, .live, .value, 1, 0, .nobody⟩,
   ⟨R.compassQualityPhaseErr, .ro, .live, .value, 1, 0, .nobody⟩,
   ⟨R.compassEventSeq, .sqc, .live, .value, 1, 0, .pairs⟩,
   ⟨R.compassEventKind, .sqc, .live, .value, 1, 0, .pairs⟩,
   ⟨R.compassEventFrom, .sqc, .live, .value, 1, 0, .pairs⟩,
   ⟨R.compassEventTo, .sqc, .live, .value, 1, 0, .pairs⟩,
   ⟨R.compassEventReason, .sqc, .live, .value, 1, 0, .pairs⟩,
   ⟨R.compassCountsMissing, .ro, .live, .value, 1, 0, .nobody⟩,
   ⟨R.compassCountsImplausible, .ro, .live, .value, 1, 0, .nobody⟩,
   ⟨R.compassSenseCfgHyst, .rws, (.group 0), .value, 1, 0, .pairs⟩,
   ⟨R.compassSenseCfgFilter, .rws, (.group 0), .value, 1, 0, .pairs⟩,
   ⟨R.compassLastStepAmount, .ro, .live, .value, 1, 0, .nobody⟩]

/-- Rows of the register tables, part 9. -/
def layout9 : List Row :=
  [⟨R.compassLastStepSteps, .ro, .live, .value, 1, 0, .nobody⟩,
   ⟨R.compassRunStartCycle, .ro, .live, .keep, 1, 0, .nobody⟩,
   ⟨R.compassHeldCycle, .ro, .live, .keep, 1, 0, .nobody⟩,
   ⟨R.compassAnchorCycleCycle, .ro, .live, .keep, 1, 0, .nobody⟩,
   ⟨R.compassAnchorUtcUtcNs, .ro, .live, .keep, 1, 0, .nobody⟩,
   ⟨R.compassAnchorSerialSerial, .ro, .live, .keep, 1, 0, .nobody⟩,
   ⟨R.compassWpFireSeq, .sqc, .live, .value, 1, 0, .pairs⟩,
   ⟨R.compassWpFireNumber, .sqc, .live, .value, 1, 0, .pairs⟩,
   ⟨R.compassWpFireLate, .sqc, .live, .value, 1, 0, .pairs⟩,
   ⟨R.compassWpFireNotAligned, .sqc, .live, .value, 1, 0, .pairs⟩,
   ⟨R.compassWpFireFailed, .sqc, .live, .value, 1, 0, .pairs⟩,
   ⟨R.compassWpCountsFired, .ro, .live, .value, 1, 0, .nobody⟩,
   ⟨R.compassWpCountsSkipped, .ro, .live, .value, 1, 0, .nobody⟩,
   ⟨(R.compassWpArmedArmed 0), .ro, .live, .value, 8, 4, .nobody⟩,
   ⟨R.mpcWorldStatusPairA, .ro, .live, .value, 1, 0, .nobody⟩,
   ⟨R.mpcWorldStatusPairB, .ro, .live, .value, 1, 0, .nobody⟩,
   ⟨R.mpcWorldStatusCustodyUp, .ro, .live, .value, 1, 0, .nobody⟩,
   ⟨R.mpcWorldStatusRestarting, .ro, .live, .value, 1, 0, .nobody⟩,
   ⟨R.mpcWorldStatusKeysLocked, .ro, .live, .value, 1, 0, .nobody⟩,
   ⟨R.mpcWdogCfgPeriodMs, .rw, .live, .value, 1, 0, .pairs⟩,
   ⟨R.mpcWdogFeedFeed, .wo, .live, .value, 1, 0, .pairs⟩,
   ⟨R.mpcLeaseCfgTimeoutMs, .rw, .live, .value, 1, 0, .pairs⟩,
   ⟨R.mpcViolSeq, .sqc, .live, .value, 1, 0, .pairs⟩,
   ⟨R.mpcViolChecker, .sqc, .live, .value, 1, 0, .pairs⟩,
   ⟨R.mpcViolType, .sqc, .live, .value, 1, 0, .pairs⟩,
   ⟨R.mpcViolImprecise, .sqc, .live, .value, 1, 0, .pairs⟩,
   ⟨R.mpcViolDoubleMatch, .sqc, .live, .value, 1, 0, .pairs⟩,
   ⟨R.mpcViolSplit, .sqc, .live, .value, 1, 0, .pairs⟩,
   ⟨R.mpcViolMaster, .sqc, .live, .value, 1, 0, .pairs⟩,
   ⟨R.mpcViolInfoSubId, .ro, .live, .value, 1, 0, .nobody⟩]

/-- Rows of the register tables, part 10. -/
def layout10 : List Row :=
  [⟨R.mpcViolInfoEpoch, .ro, .live, .value, 1, 0, .nobody⟩,
   ⟨R.mpcViolAddrAddr, .ro, .live, .value, 1, 0, .nobody⟩,
   ⟨R.mpcViolCountCount, .ro, .live, .value, 1, 0, .nobody⟩,
   ⟨R.mpcViolCountDebugDenied, .ro, .live, .value, 1, 0, .nobody⟩,
   ⟨R.mpcLeaseEventSeq, .sqc, .live, .value, 1, 0, .pairs⟩,
   ⟨R.mpcLeaseEventCluster, .sqc, .live, .value, 1, 0, .pairs⟩,
   ⟨R.mpcLeaseEventUnit, .sqc, .live, .value, 1, 0, .pairs⟩,
   ⟨R.mpcCrossInbound, .ro, .live, .value, 1, 0, .nobody⟩,
   ⟨R.mpcCrossNotice, .ro, .live, .value, 1, 0, .nobody⟩,
   ⟨R.mpcCrossDroppedCount, .ro, .live, .value, 1, 0, .nobody⟩,
   ⟨R.mpcLeaseHoldPke, .rw, .live, .value, 1, 0, .pairs⟩,
   ⟨R.mpcLeaseHoldSke, .rw, .live, .value, 1, 0, .pairs⟩,
   ⟨(R.mpcNwEventsEnable 0), .rw, .live, .value, 16, 4, .pairs⟩,
   ⟨(R.mpcMboxEnableEnabled 0), .ro, .live, .value, 8, 4, .nobody⟩,
   ⟨(R.mpcRuleEpochEpoch 0), .ro, .live, .value, 7, 16, .nobody⟩,
   ⟨(R.mpcRuleEpochState 0), .ro, .live, .value, 7, 16, .nobody⟩,
   ⟨(R.mpcRuleEpochOutstanding 0), .ro, .live, .value, 7, 16, .nobody⟩,
   ⟨(R.mpcRuleBase 0), .rws, .groupOfChecker, .value, 224, 16, .pairs⟩,
   ⟨(R.mpcRuleLimit 0), .rws, .groupOfChecker, .value, 224, 16, .pairs⟩,
   ⟨(R.mpcRuleMatch 0), .rws, .groupOfChecker, .value, 224, 16, .pairs⟩,
   ⟨(R.mpcRuleRights 0), .rws, .groupOfChecker, .value, 224, 16, .pairs⟩,
   ⟨R.potCountsSecure, .ro, .live, .value, 1, 0, .nobody⟩,
   ⟨R.potCountsNormal, .ro, .live, .value, 1, 0, .nobody⟩,
   ⟨R.potFreeFree, .ro, .live, .value, 1, 0, .nobody⟩,
   ⟨(R.potEntryEntry 0), .rws, (.group 0), .value, 4096, 4, .pairs⟩,
   ⟨R.keeperTamperStateLockFlag, .ro, .live, .keep, 1, 0, .nobody⟩,
   ⟨R.keeperTamperStatePurged, .ro, .live, .value, 1, 0, .nobody⟩,
   ⟨R.keeperTamperStateShredded, .ro, .live, .keep, 1, 0, .nobody⟩,
   ⟨R.keeperTamperStateDeciding, .ro, .live, .value, 1, 0, .nobody⟩,
   ⟨R.keeperTamperStateStrongest, .ro, .live, .keep, 1, 0, .nobody⟩]

/-- Rows of the register tables, part 11. -/
def layout11 : List Row :=
  [⟨R.keeperTamperSeq, .sqc, .live, .value, 1, 0, .nobody⟩,
   ⟨R.keeperTamperSource, .sqc, .live, .value, 1, 0, .nobody⟩,
   ⟨R.keeperTamperResponse, .sqc, .live, .value, 1, 0, .nobody⟩,
   ⟨R.keeperTamperMismatch, .sqc, .live, .value, 1, 0, .nobody⟩,
   ⟨R.keeperTamperOnBattery, .sqc, .live, .value, 1, 0, .nobody⟩,
   ⟨R.keeperTamperCountAlarms, .ro, .live, .keep, 1, 0, .nobody⟩,
   ⟨R.keeperTamperCountMismatches, .ro, .live, .keep, 1, 0, .nobody⟩,
   ⟨R.keeperAlarmedAlarmed, .ro, .live, .value, 1, 0, .nobody⟩,
   ⟨R.keeperTempLimitsLow, .ro, .live, .keep, 1, 0, .nobody⟩,
   ⟨R.keeperTempLimitsHigh, .ro, .live, .keep, 1, 0, .nobody⟩,
   ⟨R.keeperTempKK0, .ro, .live, .value, 1, 0, .nobody⟩,
   ⟨R.keeperTempKK1, .ro, .live, .value, 1, 0, .nobody⟩,
   ⟨R.keeperTempMM0M3, .ro, .live, .value, 1, 0, .nobody⟩,
   ⟨R.keeperPowerVbatA, .ro, .live, .value, 1, 0, .nobody⟩,
   ⟨R.keeperPowerVbatB, .ro, .live, .value, 1, 0, .nobody⟩,
   ⟨R.keeperPowerCellA, .ro, .live, .value, 1, 0, .nobody⟩,
   ⟨R.keeperPowerCellB, .ro, .live, .value, 1, 0, .nobody⟩,
   ⟨R.keeperPowerMain, .ro, .live, .value, 1, 0, .nobody⟩,
   ⟨R.keeperCapVkeepCap, .ro, .live, .value, 1, 0, .nobody⟩,
   ⟨R.keeperCapReserveOk, .ro, .live, .value, 1, 0, .nobody⟩,
   ⟨R.keeperPocketHeld, .ro, .live, .keep, 1, 0, .nobody⟩,
   ⟨R.keeperPocketOverflow, .ro, .live, .keep, 1, 0, .nobody⟩,
   ⟨R.keeperThermosClockTicks, .ro, .live, .keep, 1, 0, .nobody⟩,
   ⟨R.faultCaptureSeq, .sqc, .live, .value, 1, 0, .pfAndPairs⟩,
   ⟨R.faultCaptureClass, .sqc, .live, .value, 1, 0, .pfAndPairs⟩,
   ⟨R.faultCaptureEscalated, .sqc, .live, .value, 1, 0, .pfAndPairs⟩]

/-- Rows of the register tables, part 12. -/
def layout12 : List Row :=
  [⟨R.faultCaptureBlock, .sqc, .live, .value, 1, 0, .pfAndPairs⟩,
   ⟨R.faultCaptureInfoKind, .ro, .live, .value, 1, 0, .nobody⟩,
   ⟨R.faultCaptureInfoMaster, .ro, .live, .value, 1, 0, .nobody⟩,
   ⟨R.faultCaptureInfoSubId, .ro, .live, .value, 1, 0, .nobody⟩,
   ⟨R.faultCaptureInfoAccess, .ro, .live, .value, 1, 0, .nobody⟩,
   ⟨R.faultCaptureLocDd, .ro, .live, .value, 1, 0, .nobody⟩,
   ⟨R.faultCaptureLocDie, .ro, .live, .value, 1, 0, .nobody⟩,
   ⟨R.faultCaptureLocRegion, .ro, .live, .value, 1, 0, .nobody⟩,
   ⟨R.faultCaptureLocCluster, .ro, .live, .value, 1, 0, .nobody⟩,
   ⟨R.faultCaptureLocUnit, .ro, .live, .value, 1, 0, .nobody⟩,
   ⟨R.faultCaptureAddrAddr, .ro, .live, .value, 1, 0, .nobody⟩,
   ⟨R.faultCaptureStampStamp, .ro, .live, .value, 1, 0, .nobody⟩,
   ⟨R.faultCaptureTickTick, .ro, .live, .value, 1, 0, .nobody⟩,
   ⟨R.faultTickTick, .ro, .live, .value, 1, 0, .nobody⟩,
   ⟨R.faultCountANote, .ro, .live, .value, 1, 0, .nobody⟩,
   ⟨R.faultCountASoft, .ro, .live, .value, 1, 0, .nobody⟩,
   ⟨R.faultCountBHard, .ro, .live, .value, 1, 0, .nobody⟩,
   ⟨R.faultCountBSevere, .ro, .live, .value, 1, 0, .nobody⟩,
   ⟨R.faultCountCEscalated, .ro, .live, .value, 1, 0, .nobody⟩,
   ⟨R.faultCountCFifoLost, .ro, .live, .value, 1, 0, .nobody⟩,
   ⟨R.faultEscCfgUs, .rw, .live, .value, 1, 0, .pairs⟩,
   ⟨R.faultHardOpen, .ro, .live, .value, 1, 0, .nobody⟩,
   ⟨R.faultAckSlot, .wo, .live, .value, 1, 0, .pfAndPairs⟩,
   ⟨R.faultAckHard, .wo, .live, .value, 1, 0, .pfAndPairs⟩,
   ⟨R.faultAckMinor, .wo, .live, .value, 1, 0, .pfAndPairs⟩,
   ⟨R.faultAckSevere, .wo, .live, .value, 1, 0, .pfAndPairs⟩,
   ⟨R.faultFifoBaseAddr, .rw, .idleOnly, .value, 1, 0, .pairs⟩,
   ⟨R.faultFifoIdxProd, .ro, .live, .value, 1, 0, .nobody⟩,
   ⟨R.faultFifoIdxCons, .rw, .live, .value, 1, 0, .pairs⟩,
   ⟨(R.faultHardSlotLoc 0), .ro, .live, .value, 16, 8, .nobody⟩]

/-- Rows of the register tables, part 13. -/
def layout13 : List Row :=
  [⟨(R.faultHardSlotTRemaining 0), .ro, .live, .value, 16, 8, .nobody⟩,
   ⟨(R.faultHardSlotTBlock 0), .ro, .live, .value, 16, 8, .nobody⟩,
   ⟨R.logStatusHeld, .ro, .live, .keep, 1, 0, .nobody⟩,
   ⟨R.logStatusFull, .ro, .live, .keep, 1, 0, .nobody⟩,
   ⟨R.logStatusFrozen, .ro, .live, .value, 1, 0, .nobody⟩,
   ⟨R.logStatusBuffered, .ro, .live, .value, 1, 0, .nobody⟩,
   ⟨R.logOverflowCount, .ro, .live, .keep, 1, 0, .nobody⟩,
   ⟨R.logEpochEpoch, .ro, .live, .keep, 1, 0, .nobody⟩,
   ⟨R.logJournalNextSeq, .ro, .live, .value, 1, 0, .nobody⟩,
   ⟨R.logJournalCfgLog2Size, .ro, .live, .value, 1, 0, .nobody⟩,
   ⟨R.logJournalCfgBuffered, .ro, .live, .value, 1, 0, .nobody⟩,
   ⟨R.logJournalLostCount, .ro, .live, .value, 1, 0, .nobody⟩,
   ⟨(R.logRecordBytes 0), .wo, .live, .value, 8, 4, .pairs⟩,
   ⟨R.logSubmitType, .wo, .live, .value, 1, 0, .pairs⟩,
   ⟨R.lifeStateState, .ro, .live, .keep, 1, 0, .nobody⟩,
   ⟨R.lifeStateTorn, .ro, .live, .keep, 1, 0, .nobody⟩,
   ⟨R.lifeStateRows, .ro, .live, .keep, 1, 0, .nobody⟩,
   ⟨R.lifeStateIntents, .ro, .live, .keep, 1, 0, .nobody⟩,
   ⟨R.bootStatusStage, .ro, .live, .value, 1, 0, .nobody⟩,
   ⟨R.bootStatusBank, .ro, .live, .value, 1, 0, .nobody⟩,
   ⟨R.bootStatusFallback, .ro, .live, .value, 1, 0, .nobody⟩,
   ⟨R.bootStatusTrialFailed, .ro, .live, .value, 1, 0, .nobody⟩,
   ⟨R.bootStatusCfgDefaulted, .ro, .live, .value, 1, 0, .nobody⟩,
   ⟨R.bootStatusRootsUnmatched, .ro, .live, .value, 1, 0, .nobody⟩,
   ⟨R.bootStatusNwHeld, .ro, .live, .value, 1, 0, .nobody⟩,
   ⟨R.bootStatusStop, .ro, .live, .value, 1, 0, .nobody⟩,
   ⟨R.lifeSecurityRunning, .ro, .live, .keep, 1, 0, .nobody⟩,
   ⟨R.lifeSecurityFloor, .ro, .live, .keep, 1, 0, .nobody⟩,
   ⟨R.lifeLimits0Floor, .ro, .live, .keep, 1, 0, .nobody⟩,
   ⟨R.lifeLimits0Nominal, .ro, .live, .keep, 1, 0, .nobody⟩]

/-- Rows of the register tables, part 14. -/
def layout14 : List Row :=
  [⟨R.lifeLimits0Password, .ro, .live, .keep, 1, 0, .nobody⟩,
   ⟨R.lifeLimits0DebugKey, .ro, .live, .keep, 1, 0, .nobody⟩,
   ⟨R.lifeLimits0Thermos, .ro, .live, .keep, 1, 0, .nobody⟩,
   ⟨R.lifeLimits1Retired, .ro, .live, .keep, 1, 0, .nobody⟩,
   ⟨R.lifeLimits1RsRows, .ro, .live, .keep, 1, 0, .nobody⟩,
   ⟨R.lifeLimits1EpochRows, .ro, .live, .keep, 1, 0, .nobody⟩,
   ⟨R.lifeDebugLevel, .ro, .live, .value, 1, 0, .nobody⟩,
   ⟨R.lifeDebugPwFails, .ro, .live, .held, 1, 0, .nobody⟩,
   ⟨R.lifeDebugTokenFails, .ro, .live, .held, 1, 0, .nobody⟩,
   ⟨R.lifeDebugChallenge, .ro, .live, .value, 1, 0, .nobody⟩,
   ⟨R.lifeBanksVersionA, .ro, .live, .keep, 1, 0, .nobody⟩,
   ⟨R.lifeBanksVersionB, .ro, .live, .keep, 1, 0, .nobody⟩,
   ⟨R.cfgStatusDefaulted, .ro, .live, .value, 1, 0, .nobody⟩,
   ⟨R.cfgStatusCopy, .ro, .live, .value, 1, 0, .nobody⟩,
   ⟨R.cfgStatusPending, .ro, .live, .value, 1, 0, .nobody⟩,
   ⟨R.cfgStatusChanges, .ro, .live, .value, 1, 0, .nobody⟩,
   ⟨R.ferryStatusRole, .ro, .live, .value, 1, 0, .nobody⟩,
   ⟨R.ferryStatusMode, .ro, .live, .keep, 1, 0, .nobody⟩,
   ⟨R.ferryStatusSelf, .ro, .live, .value, 1, 0, .nobody⟩,
   ⟨R.ferryStatusPresent, .ro, .live, .value, 1, 0, .nobody⟩,
   ⟨R.ferryStatusRingBroken, .ro, .live, .value, 1, 0, .nobody⟩,
   ⟨R.ferryPresentPresent, .ro, .live, .value, 1, 0, .nobody⟩,
   ⟨(R.ferryPortState 0), .ro, .live, .value, 4, 4, .nobody⟩,
   ⟨(R.ferryPortUse 0), .ro, .live, .value, 4, 4, .nobody⟩,
   ⟨(R.ferryPortReason 0), .ro, .live, .value, 4, 4, .nobody⟩,
   ⟨(R.ferryPortCrcErrors 0), .ro, .live, .value, 4, 4, .nobody⟩,
   ⟨(R.ferryPortRetrains 0), .ro, .live, .value, 4, 4, .nobody⟩,
   ⟨R.ferryLinkErrSeq, .sqc, .live, .value, 1, 0, .nobody⟩,
   ⟨R.ferryLinkErrPort, .sqc, .live, .value, 1, 0, .nobody⟩,
   ⟨R.ferryLinkErrKind, .sqc, .live, .value, 1, 0, .nobody⟩]

/-- Rows of the register tables, part 15. -/
def layout15 : List Row :=
  [⟨R.ferryDomainIndex, .ro, .live, .keep, 1, 0, .nobody⟩,
   ⟨R.ferryDomainMember, .ro, .live, .keep, 1, 0, .nobody⟩,
   ⟨R.ferryDomainReplicas, .ro, .live, .keep, 1, 0, .nobody⟩,
   ⟨R.ferryDomainIdDomainId, .ro, .live, .keep, 1, 0, .nobody⟩,
   ⟨(R.ferryApertureBlock 1), .rw, .live, .value, 63, 4, .pfAndPairs⟩,
   ⟨(R.ferryFollowerState 1), .ro, .live, .value, 63, 16, .nobody⟩,
   ⟨(R.ferryFollowerPort 1), .ro, .live, .keep, 63, 16, .nobody⟩,
   ⟨(R.ferryFollowerHops 1), .ro, .live, .value, 63, 16, .nobody⟩,
   ⟨(R.ferryFollowerReplaced 1), .ro, .live, .value, 63, 16, .nobody⟩,
   ⟨(R.ferryFollowerLife 1), .ro, .live, .value, 63, 16, .nobody⟩,
   ⟨(R.ferryFollowerOutOutstanding 1), .ro, .live, .value, 63, 16, .nobody⟩,
   ⟨(R.ferryFollowerSerSerial 1), .ro, .live, .keep, 63, 16, .nobody⟩,
   ⟨R.sysPinsStrap, .ro, .live, .keep, 1, 0, .nobody⟩,
   ⟨R.sysPinsGpio, .ro, .live, .keep, 1, 0, .nobody⟩,
   ⟨R.sysPinsHoldup, .ro, .live, .keep, 1, 0, .nobody⟩]

/-- QENG_TENANT_SHARE: four SHARE bytes a register (Table HQ.13). -/
def shareRows : List Row :=
  [0, 1, 2, 3].map (fun j => ⟨R.qengTenantShareShare j, .rws, .group 2, .value, 1024, 4, .pfAndPairs⟩)

/-- KEEPER_RESP (Table TK.12): each source has its own value as shipped (Table TK.4). -/
def respRows : List Row :=
  (List.range 27).flatMap (fun i =>
    [⟨R.keeperRespMain i, .ro, .live, .keep, 1, 0, .nobody⟩, ⟨R.keeperRespMin i, .ro, .live, .keep, 1, 0, .nobody⟩,
      ⟨R.keeperRespThermos i, .ro, .live, .keep, 1, 0, .nobody⟩, ⟨R.keeperRespFixed i, .ro, .live, .keep, 1, 0, .nobody⟩])

/-- Every row of the register tables but the headers. -/
def layout : List Row :=
  layout0 ++ layout1 ++ layout2 ++ layout3 ++ layout4 ++ layout5 ++ layout6 ++ layout7 ++ layout8 ++ layout9 ++ layout10 ++ layout11 ++ layout12 ++ layout13 ++ layout14 ++ layout15 ++ shareRows ++ respRows

end Sys2Proof.Machine
end

