-- ==== Sys2Proof/Machine/Ops.lean ====
section
/-! DEFINITION. The named operations over tables, registers, memory, time stamps and outputs. -/

namespace Sys2Proof.Machine

/-! ### Tables -/

/-- The value under key `k`. -/
def look {α : Type} : Amap α → Nat → Option α
  | [], _ => none
  | (j, v) :: m, k => if j = k then some v else look m k

/-- The table without key `k`. -/
def drop {α : Type} : Amap α → Nat → Amap α
  | [], _ => []
  | (j, v) :: m, k => if j = k then drop m k else (j, v) :: drop m k

/-- The entry (k, v) in front of the first larger key. -/
def insert {α : Type} : Amap α → Nat → α → Amap α
  | [], k, v => [(k, v)]
  | (j, w) :: m, k, v => if k < j then (k, v) :: (j, w) :: m else (j, w) :: insert m k v

/-- The table with `v` under key `k`. -/
def store {α : Type} (m : Amap α) (k : Nat) (v : α) : Amap α := insert (drop m k) k v

/-- The table with `f` of the value under `k`, where there is one. -/
def adjust {α : Type} (m : Amap α) (k : Nat) (f : α → α) : Amap α :=
  match look m k with
  | some v => store m k (f v)
  | none => m

/-- A table of naturals whose absent keys read `d`. -/
def lookD (m : Amap Nat) (k d : Nat) : Nat := (look m k).getD d

/-- Such a table with `v` under `k`, in its one form: no entry equal to `d`. -/
def storeD (m : Amap Nat) (k d v : Nat) : Amap Nat := if v = d then drop m k else store m k v

/-! ### Numbers and bytes -/

/-- Bit `i` of `n`. -/
def bitOf (n i : Nat) : Bool := n.testBit i

/-- Bits [lo + w − 1 : lo] of `n`. -/
def field (n lo w : Nat) : Nat := (n >>> lo) % 2 ^ w

/-- `n` with bit `i` set to `b`. -/
def setBit (n i : Nat) (b : Bool) : Nat :=
  if n.testBit i = b then n else if b then n + 2 ^ i else n - 2 ^ i

/-- 1 for true. -/
def ofBool (b : Bool) : Nat := if b then 1 else 0

/-- The little-endian bytes of `v`, `n` of them (R15). -/
def leBytes : Nat → Nat → Bytes
  | 0, _ => []
  | n + 1, v => BitVec.ofNat 8 v :: leBytes n (v / 256)

/-- The number that little-endian bytes spell (R15). -/
def ofLe : Bytes → Nat
  | [] => 0
  | b :: bs => b.toNat + 256 * ofLe bs

/-- The big-endian bytes of `v`, `n` of them. -/
def beBytes (n v : Nat) : Bytes := (leBytes n v).reverse

/-- The number that big-endian bytes spell. -/
def ofBe (bs : Bytes) : Nat := ofLe bs.reverse

/-- `n` bytes of `bs` from offset `off`; past its end, zeros. -/
def slice (bs : Bytes) (off n : Nat) : Bytes :=
  let c := (bs.drop off).take n
  c ++ List.replicate (n - c.length) 0

/-- The little-endian number in the `n` bytes at `off`. -/
def le (bs : Bytes) (off n : Nat) : Nat := ofLe ((bs.drop off).take n)

/-- `bs` cut or zero-filled to `n` bytes. -/
def padTo (n : Nat) (bs : Bytes) : Bytes := slice bs 0 n

/-- Whether every byte is zero. -/
def allZero (bs : Bytes) : Bool := bs.all (· == 0)

/-- Bitwise sum and complement of byte strings. -/
def xorBytes (a b : Bytes) : Bytes := List.zipWith (fun x y => x ^^^ y) a b
def notBytes (a : Bytes) : Bytes := a.map (fun x => ~~~x)

/-- The least of `v` and `m`: a count that saturates at `m`. -/
def saturate (m v : Nat) : Nat := if v ≤ m then v else m

/-- The ASCII bytes of a label. -/
def ascii (t : String) : Bytes := t.toList.map (fun c => BitVec.ofNat 8 c.toNat)

/-- SP 800-108r1 in counter mode over a PRF of `h` bytes, in the form of R71. -/
def counterKdf (prf : Bytes → Bytes → Bytes) (h : Nat) (k label context : Bytes) (bits : Nat) : Bytes :=
  let n := bits / 8
  let blocks := (List.range ((n + h - 1) / h)).map (fun i =>
    prf k (beBytes 4 (i + 1) ++ label ++ [0] ++ context ++ beBytes 4 bits))
  blocks.flatten.take n

/-- KDF(K, label, context, L) of R71, with HMAC-SHA-384; `bits` is a multiple of 8. -/
def kdf (k : Bytes) (label : String) (context : Bytes) (bits : Nat) : Bytes :=
  counterKdf Config.hmac384 48 k (ascii label) context bits

/-- The bits set among the low `w` of `n`. -/
def popcount (w n : Nat) : Nat := (List.range w).countP (fun i => n.testBit i)

/-! ### Registers -/

/-- The key of a field in the register file. -/
def Fld.key (f : Fld) : Nat := f.off * 64 + f.lsb

/-- The field of a VF's register: at the pseudo-offset of that function's BAR. -/
def vfOff (fn off : Nat) : Nat := 0x2000000 + 0x10000 * fn + off

/-- The value of a field. -/
def State.get (s : State) (f : Fld) : Nat := lookD s.regs f.key f.cold

/-- The state with `v`, cut to the field's width, in the field. -/
def State.put (s : State) (f : Fld) (v : Nat) : State :=
  { s with regs := storeD s.regs f.key f.cold (v % 2 ^ f.width) }

/-- Whether a one-bit field reads 1. -/
def State.is (s : State) (f : Fld) : Bool := s.get f == 1

/-- The state with a one-bit field set from a truth value. -/
def State.putB (s : State) (f : Fld) (b : Bool) : State := s.put f (ofBool b)

/-- The field with 1 added, saturating at its width's largest value. -/
def State.incSat (s : State) (f : Fld) : State := s.put f (saturate (2 ^ f.width - 1) (s.get f + 1))

/-- The field with `n` added, modulo its width. -/
def State.incMod (s : State) (f : Fld) (n : Nat) : State := s.put f (s.get f + n)

/-- The field with bit `i` set to `b`. -/
def State.putBit (s : State) (f : Fld) (i : Nat) (b : Bool) : State := s.put f (setBit (s.get f) i b)

/-- The shadow of a field, where a write has left one; else its active value (Table SC.6, RWS). -/
def State.shadowOf (s : State) (f : Fld) : Nat := (look s.iface.shadows f.key).getD (s.get f)

/-! ### Memory -/

/-- The byte at a fabric address; an unlisted address reads 0 (log entry 2). -/
def readByte : List Host.Cell → Nat → Byte
  | [], _ => 0
  | (b, v) :: m, a => if b = a then v else readByte m a

/-- The memory without an entry for `a`. -/
def dropByte : List Host.Cell → Nat → List Host.Cell
  | [], _ => []
  | (b, v) :: m, a => if b = a then dropByte m a else (b, v) :: dropByte m a

/-- The entry (a, v) in front of the first larger address. -/
def insertByte : List Host.Cell → Nat → Byte → List Host.Cell
  | [], a, v => [(a, v)]
  | (b, w) :: m, a, v => if a < b then (a, v) :: (b, w) :: m else (b, w) :: insertByte m a v

/-- The memory with `v` at `a`, in its one form: a zero byte is not listed. -/
def writeByte (m : List Host.Cell) (a : Nat) (v : Byte) : List Host.Cell :=
  if v = 0 then dropByte m a else insertByte (dropByte m a) a v

/-- `n` bytes from `a`. -/
def readBytes (m : List Host.Cell) : Nat → Nat → Bytes
  | _, 0 => []
  | a, n + 1 => readByte m a :: readBytes m (a + 1) n

/-- The memory with `bs` from `a` on. -/
def writeBytes (m : List Host.Cell) : Nat → Bytes → List Host.Cell
  | _, [] => m
  | a, b :: bs => writeBytes (writeByte m a b) (a + 1) bs

/-- The memory without the addresses from `a`, `n` of them: each reads 0 again. -/
def clearRange (m : List Host.Cell) (a n : Nat) : List Host.Cell :=
  m.filter (fun c => !(a ≤ c.1 && c.1 < a + n))

/-- The state with `bs` in memory from `a` on. -/
def State.writeMem (s : State) (a : Nat) (bs : Bytes) : State := { s with mem := writeBytes s.mem a bs }

/-- The state with `n` bytes of memory from `a` on zero again. -/
def State.clearMem (s : State) (a n : Nat) : State := { s with mem := clearRange s.mem a n }

/-- The state with no memory but the `n` bytes from `a` on. -/
def State.keepMem (s : State) (a n : Nat) : State := { s with mem := s.mem.filter (fun c => decide (a ≤ c.1) && decide (c.1 < a + n)) }

/-- The canonical form: addresses strictly rising and no listed zero. -/
def Memory.wf (m : List Host.Cell) : Bool :=
  match m with
  | [] => true
  | (_, v) :: rest => (v != 0) && (rest.all (fun c => (m.headD (0, 0)).1 < c.1)) && Memory.wf rest

/-! ### Outputs, draws, time -/

/-- The state with one more output. -/
def State.emit (s : State) (o : Out) : State := { s with out := o :: s.out }

/-- The state after a draw: the draw's index is `s.fresh`. -/
def State.drawn (s : State) : State := { s with fresh := s.fresh + 1 }

/-- The local tick (R374). -/
def State.tick (s : State) : Nat := s.get R.faultTickTick

/-- The PHASE of the stamp issued now: where the tick stands within its 65,536 ph is time the model does not hold, so it is
a free value, no less than the last one issued in this tick (R298, R299). -/
def State.phaseNow (s : State) : Nat := max s.compass.lastPhase (Config.freeNat s.fresh % 65536)

/-- The 96-bit stamp issued now (Table CT.1). -/
def State.stamp (s : State) : Nat :=
  s.compass.count % 2 ^ 48 + 2 ^ 48 * s.phaseNow + 2 ^ 64 * s.get R.compassStatusState
    + 2 ^ 68 * s.get R.compassQualityUncert + 2 ^ 80 * (s.compass.seq % 2 ^ 16)

/-- The state after a stamp is issued: SEQ rises by 1 and PHASE does not fall in this tick (R299). -/
def State.stamped (s : State) : State :=
  { s with compass.lastPhase := s.phaseNow, compass.seq := (s.compass.seq + 1) % 2 ^ 16, fresh := s.fresh + 1 }

end Sys2Proof.Machine
end

