-- ==== Sys2Proof/Machine/Curves.lean ====
section
/-! DEFINITION. The mathematics under the public-key programs (chapter 5): modular arithmetic, the primality tests of R155, curves
in the three forms that Table PK.4 names, with the blinding of R166, and the padding of RFC 8017. Hash functions and the lattice
standards stay opaque (Config). -/

namespace Sys2Proof.Machine

/-! ### Modular arithmetic -/

/-- b^e mod m, over at most `fuel` bits of e. -/
def powGo (m : Nat) : Nat → Nat → Nat → Nat → Nat
  | 0, _, _, acc => acc
  | fuel + 1, b, e, acc => powGo m fuel (b * b % m) (e / 2) (if e % 2 = 1 then acc * b % m else acc)

/-- b^e mod m. -/
def powMod (m b e : Nat) : Nat := powGo m (e.log2 + 1) (b % m) e (1 % m)

/-- Extended Euclid: (g, x) with g the common divisor and x·a ≡ g mod m. -/
def euclid : Nat → Nat → Nat → Int → Int → Nat × Int
  | 0, r, _, x, _ => (r, x)
  | fuel + 1, r, r1, x, x1 => if r1 = 0 then (r, x) else euclid fuel r1 (r % r1) x1 (x - (r / r1 : Nat) * x1)

/-- a^−1 mod m, where a has an inverse. -/
def invMod (m a : Nat) : Option Nat :=
  let g := euclid (2 * m.log2 + 4) (a % m) m 1 0
  if g.1 = 1 then some ((g.2 % (m : Int)).toNat % m) else none

/-- The number of bytes of a bit length, and the bit length of a number. -/
def bytesOf (bits : Nat) : Nat := (bits + 7) / 8
def bitLen (n : Nat) : Nat := if n = 0 then 0 else n.log2 + 1

/-- a − b mod m. -/
def subMod (m a b : Nat) : Nat := (a % m + m - b % m) % m

/-- n = 2^k · d with d odd: (k, d), over at most `fuel` halvings. -/
def oddPart : Nat → Nat → Nat × Nat
  | 0, n => (0, n)
  | fuel + 1, n => if n = 0 ∨ n % 2 = 1 then (0, n) else let r := oddPart fuel (n / 2); (r.1 + 1, r.2)

/-- Whether a is a square modulo an odd prime. -/
def isSquareMod (p a : Nat) : Bool := a % p == 0 || powMod p a ((p - 1) / 2) == 1

/-- The least non-square modulo an odd prime, from `z` on. -/
def nonSquare (p : Nat) : Nat → Nat → Nat
  | 0, z => z
  | fuel + 1, z => if isSquareMod p z then nonSquare p fuel (z + 1) else z

/-- The least i with t^(2^i) = 1 mod p, over at most `fuel`. -/
def orderTwo (p : Nat) : Nat → Nat → Nat
  | 0, _ => 0
  | fuel + 1, t => if t = 1 then 0 else orderTwo p fuel (t * t % p) + 1

/-- The loop of Tonelli and Shanks: m, c, t, r. -/
def shanks (p : Nat) : Nat → Nat → Nat → Nat → Nat → Nat
  | 0, _, _, _, r => r
  | fuel + 1, m, c, t, r =>
    if t = 1 then r
    else
      let i := orderTwo p m t
      let b := powMod p c (2 ^ (m - i - 1))
      let b2 := b * b % p
      shanks p fuel i b2 (t * b2 % p) (r * b % p)

/-- A square root of a square modulo an odd prime. -/
def sqrtMod (p v : Nat) : Nat :=
  if v % p = 0 then 0
  else if p % 4 = 3 then powMod p v ((p + 1) / 4)
  else
    let (k, d) := oddPart (p.log2 + 1) (p - 1)
    shanks p (k + 1) k (powMod p (nonSquare p 1000 2) d) (powMod p v d) (powMod p v ((d + 1) / 2))

/-! ### Primality (R155, FIPS 186-5 appendix B) -/

/-- Whether one of x, x², x⁴, … (`k` of them) is n − 1. -/
def reachesMinusOne (n : Nat) : Nat → Nat → Bool
  | 0, _ => false
  | k + 1, x => x == n - 1 || reachesMinusOne n k (x * x % n)

/-- One Miller–Rabin round with a base. -/
def millerRabin (n base : Nat) : Bool :=
  let (k, d) := oddPart (n.log2 + 1) (n - 1)
  let x := powMod n base d
  x == 1 || reachesMinusOne n k x

/-- A Miller–Rabin base in 2 to n − 2 from random bytes. -/
def mrBase (n : Nat) (r : Bytes) : Nat := ofBe r % (n - 3) + 2

/-- Rounds with the bases that `size` bytes of `r` each give. -/
def millerRabins (n size : Nat) : Nat → Bytes → Bool
  | 0, _ => true
  | k + 1, r => millerRabin n (mrBase n (r.take size)) && millerRabins n size k (r.drop size)

/-- The Jacobi symbol (a/n) of an odd n, over at most `fuel` steps. -/
def jacobiGo : Nat → Nat → Nat → Int → Int
  | 0, _, _, _ => 0
  | fuel + 1, a, n, s =>
    if n = 1 then s
    else if a = 0 then 0
    else
      let (k, d) := oddPart (a.log2 + 1) a
      let s1 := if k % 2 = 1 ∧ (n % 8 = 3 ∨ n % 8 = 5) then -s else s
      let s2 := if d % 4 = 3 ∧ n % 4 = 3 then -s1 else s1
      jacobiGo fuel (n % d) d s2
def jacobi (a : Int) (n : Nat) : Int := jacobiGo (2 * n.log2 + 4) (a % n).toNat n 1

/-- The integer square root: the largest r with r² ≤ n, from `bit` powers of two down. -/
def isqrtGo (n : Nat) : Nat → Nat → Nat
  | 0, r => r
  | b + 1, r => isqrtGo n b (if (r + 2 ^ b) * (r + 2 ^ b) ≤ n then r + 2 ^ b else r)

def isqrt (n : Nat) : Nat := isqrtGo n (n.log2 / 2 + 1) 0

def isPerfectSquare (n : Nat) : Bool := isqrt n * isqrt n == n

/-- D of the Lucas test: the first of 5, −7, 9, … with Jacobi symbol −1; `none` where one of them shares a factor with n. -/
def lucasD (n : Nat) : Nat → Int → Option Int
  | 0, _ => none
  | fuel + 1, d =>
    let j := jacobi d n
    if j = -1 then some d
    else if j = 0 ∧ d.natAbs % n ≠ 0 then none
    else lucasD n fuel (if d > 0 then -(d + 2) else 2 - d)

/-- Half of a residue of an odd modulus. -/
def halfMod (n a : Nat) : Nat := if a % 2 = 0 then a / 2 else (a + n) / 2

/-- (U_k, V_k, Q^k) for P = 1 over the bits of k below bit `i`, from those of the bits above. -/
def lucasGo (n d q k : Nat) : Nat → Nat × Nat × Nat → Nat × Nat × Nat
  | 0, x => x
  | i + 1, (u, v, qk) =>
    let u2 := u * v % n
    let v2 := subMod n (v * v) (2 * qk)
    let q2 := qk * qk % n
    lucasGo n d q k i
      (if bitOf k i then (halfMod n ((u2 + v2) % n), halfMod n ((d * u2 + v2) % n), q2 * q % n) else (u2, v2, q2))

/-- Whether one of V, V_2, V_4, … (`k` of them) is 0. -/
def lucasZero (n : Nat) : Nat → Nat → Nat → Bool
  | 0, _, _ => false
  | k + 1, v, qk => v == 0 || lucasZero n k (subMod n (v * v) (2 * qk)) (qk * qk % n)

/-- The strong Lucas test of an odd number. -/
def strongLucas (n : Nat) : Bool :=
  if isPerfectSquare n then false
  else match lucasD n 1000 5 with
    | none => false
    | some d =>
      let dn := (d % n).toNat
      let q := ((1 - d) / 4 % n).toNat
      let (k, m) := oddPart (n.log2 + 2) (n + 1)
      let (u, v, qm) := lucasGo n dn q m (m.log2) (1 % n, 1 % n, q)
      u == 0 || lucasZero n k v qm

/-- The tests of R155 on p or n: 64 Miller–Rabin rounds with `size` bytes of `r` for each base, and a strong Lucas test. -/
def probablePrime (n size : Nat) (r : Bytes) : Bool :=
  if n < 4 then n == 2 || n == 3 else n % 2 == 1 && millerRabins n size 64 r && strongLucas n

/-! ### Blinding (R166) -/

/-- The blinding values of one run: r of the scalar, and the factor that randomises the coordinates. -/
structure Blind where
  r   : Nat
  lam : Nat
  deriving DecidableEq, Repr

/-- No blinding: what the firmware's own arithmetic uses. -/
def Blind.none : Blind := ⟨0, 1⟩

/-- A scalar k blinded as k + r·n. -/
def Blind.scalar (b : Blind) (k n : Nat) : Nat := k + b.r * n

/-- The factor of the coordinates, never 0. -/
def Blind.factor (b : Blind) (p : Nat) : Nat := if b.lam % p = 0 then 1 else b.lam % p

/-! ### Short-Weierstrass curves -/

/-- p256 (handle 0, Table PK.8). -/
def p256 : CurveP :=
  ⟨256, 1,
    0xffffffff00000001000000000000000000000000ffffffffffffffffffffffff,
    0xffffffff00000001000000000000000000000000fffffffffffffffffffffffc,
    0x5ac635d8aa3a93e7b3ebbd55769886bc651d06b0cc53b0f63bce3c3e27d2604b,
    0x6b17d1f2e12c4247f8bce6e563a440f277037d812deb33a0f4a13945d898c296,
    0x4fe342e2fe1a7f9b8ee7eb4a7c0f9e162bce33576b315ececbb6406837bf51f5,
    0xffffffff00000000ffffffffffffffffbce6faada7179e84f3b9cac2fc632551⟩

/-- p384 (handle 1, Table PK.8). -/
def p384 : CurveP :=
  ⟨384, 1,
    0xfffffffffffffffffffffffffffffffffffffffffffffffffffffffffffffffeffffffff0000000000000000ffffffff,
    0xfffffffffffffffffffffffffffffffffffffffffffffffffffffffffffffffeffffffff0000000000000000fffffffc,
    0xb3312fa7e23ee7e4988e056be3f82d19181d9c6efe8141120314088f5013875ac656398d8a2ed19d2a85c8edd3ec2aef,
    0xaa87ca22be8b05378eb1c71ef320ad746e1d3b628ba79b9859f741e082542a385502f25dbf55296c3a545e3872760ab7,
    0x3617de4a96262c6f5d9e98bf9292dc29f8f41dbd289a147ce9da3113b5f0b8c00a60b1ce1d7e819d7a431d7c90ea0e5f,
    0xffffffffffffffffffffffffffffffffffffffffffffffffc7634d81f4372ddf581a0db248b0a77aecec196accc52973⟩

/-- p521 (handle 2, Table PK.8). -/
def p521 : CurveP :=
  ⟨521, 1,
    0x1ffffffffffffffffffffffffffffffffffffffffffffffffffffffffffffffffffffffffffffffffffffffffffffffffffffffffffffffffffffffffffffffffff,
    0x1fffffffffffffffffffffffffffffffffffffffffffffffffffffffffffffffffffffffffffffffffffffffffffffffffffffffffffffffffffffffffffffffffc,
    0x51953eb9618e1c9a1f929a21a0b68540eea2da725b99b315f3b8b489918ef109e156193951ec7e937b1652c0bd3bb1bf073573df883d2c34f1ef451fd46b503f00,
    0xc6858e06b70404e9cd9e3ecb662395b4429c648139053fb521f828af606b4d3dbaa14b5e77efe75928fe1dc127a2ffa8de3348b3c1856a429bf97e7e31c2e5bd66,
    0x11839296a789a3bc0045c8a5fb42c7d1bd998f54449579b446817afbd17273e662c97ee72995ef42640c550b9013fad0761353c7086a272c24088be94769fd16650,
    0x1fffffffffffffffffffffffffffffffffffffffffffffffffffffffffffffffffa51868783bf2f966b7fcc0148f709a5d03bb5c9b8899c47aebb6fb71e91386409⟩

/-- secp256k1 (handle 3, Table PK.8). -/
def secp256k1 : CurveP :=
  ⟨256, 1,
    0xfffffffffffffffffffffffffffffffffffffffffffffffffffffffefffffc2f,
    0x0,
    0x7,
    0x79be667ef9dcbbac55a06295ce870b07029bfcdb2dce28d959f2815b16f81798,
    0x483ada7726a3c4655da4fbfc0e1108a8fd17b448a68554199c47d08ffb10d4b8,
    0xfffffffffffffffffffffffffffffffebaaedce6af48a03bbfd25e8cd0364141⟩

/-- brainpool256 (handle 4, Table PK.8). -/
def brainpool256 : CurveP :=
  ⟨256, 1,
    0xa9fb57dba1eea9bc3e660a909d838d726e3bf623d52620282013481d1f6e5377,
    0x7d5a0975fc2c3057eef67530417affe7fb8055c126dc5c6ce94a4b44f330b5d9,
    0x26dc5c6ce94a4b44f330b5d9bbd77cbf958416295cf7e1ce6bccdc18ff8c07b6,
    0x8bd2aeb9cb7e57cb2c4b482ffc81b7afb9de27e1e3bd23c23a4453bd9ace3262,
    0x547ef835c3dac4fd97f8461a14611dc9c27745132ded8e545c1d54c72f046997,
    0xa9fb57dba1eea9bc3e660a909d838d718c397aa3b561a6f7901e0e82974856a7⟩

/-- brainpool384 (handle 5, Table PK.8). -/
def brainpool384 : CurveP :=
  ⟨384, 1,
    0x8cb91e82a3386d280f5d6f7e50e641df152f7109ed5456b412b1da197fb71123acd3a729901d1a71874700133107ec53,
    0x7bc382c63d8c150c3c72080ace05afa0c2bea28e4fb22787139165efba91f90f8aa5814a503ad4eb04a8c7dd22ce2826,
    0x4a8c7dd22ce28268b39b55416f0447c2fb77de107dcd2a62e880ea53eeb62d57cb4390295dbc9943ab78696fa504c11,
    0x1d1c64f068cf45ffa2a63a81b7c13f6b8847a3e77ef14fe3db7fcafe0cbd10e8e826e03436d646aaef87b2e247d4af1e,
    0x8abe1d7520f9c2a45cb1eb8e95cfd55262b70b29feec5864e19c054ff99129280e4646217791811142820341263c5315,
    0x8cb91e82a3386d280f5d6f7e50e641df152f7109ed5456b31f166e6cac0425a7cf3ab6af6b7fc3103b883202e9046565⟩

/-- The built-in curve of a handle (Table PK.8). -/
def builtinCurve : Nat → Option CurveP
  | 0 => some p256
  | 1 => some p384
  | 2 => some p521
  | 3 => some secp256k1
  | 4 => some brainpool256
  | 5 => some brainpool384
  | _ => none

def CurveP.plen (c : CurveP) : Nat := bytesOf c.pbits
def CurveP.nlen (c : CurveP) : Nat := bytesOf (bitLen c.n)

/-- The right side x³ + ax + b. -/
def CurveP.rhs (c : CurveP) (x : Nat) : Nat := (x * x % c.p * x + c.a * x + c.b) % c.p

/-- Whether (x, y) satisfies the curve equation. -/
def CurveP.onCurve (c : CurveP) (x y : Nat) : Bool := y * y % c.p == c.rhs x

/-- A point: `none` is infinity. -/
abbrev Point := Option (Nat × Nat)

/-- A point in projective coordinates (X, Y, Z): x = X/Z², y = Y/Z³; infinity has Z = 0. -/
abbrev Proj := Nat × Nat × Nat

/-- A point's projective coordinates, randomised by a factor (R166). -/
def CurveP.spread (c : CurveP) (l : Nat) : Point → Proj
  | none => (1, 1, 0)
  | some (x, y) => (x * (l * l % c.p) % c.p, y * (l * l % c.p * l % c.p) % c.p, l)

/-- Back to the plain coordinates. -/
def CurveP.affine (c : CurveP) (q : Proj) : Point :=
  match invMod c.p q.2.2 with
  | none => none
  | some i => some (q.1 * (i * i % c.p) % c.p, q.2.1 * (i * i % c.p * i % c.p) % c.p)

/-- 2P. -/
def CurveP.double (c : CurveP) : Proj → Proj
  | (x, y, z) =>
    let y2 := y * y % c.p
    let s := 4 * x * y2 % c.p
    let z2 := z * z % c.p
    let m := (3 * x * x + c.a * (z2 * z2 % c.p)) % c.p
    let x3 := subMod c.p (m * m) (2 * s)
    (x3, subMod c.p (m * subMod c.p s x3) (8 * (y2 * y2)), 2 * y * z % c.p)

/-- P + Q. -/
def CurveP.sum (c : CurveP) (a b : Proj) : Proj :=
  let (x1, y1, z1) := a
  let (x2, y2, z2) := b
  if z1 = 0 then b
  else if z2 = 0 then a
  else
    let w1 := z1 * z1 % c.p
    let w2 := z2 * z2 % c.p
    let u1 := x1 * w2 % c.p
    let u2 := x2 * w1 % c.p
    let s1 := y1 * (w2 * z2 % c.p) % c.p
    let s2 := y2 * (w1 * z1 % c.p) % c.p
    if u1 = u2 then (if s1 = s2 then c.double a else (1, 1, 0))
    else
      let h := subMod c.p u2 u1
      let r := subMod c.p s2 s1
      let h2 := h * h % c.p
      let h3 := h2 * h % c.p
      let v := u1 * h2 % c.p
      let x3 := subMod c.p (r * r) (h3 + 2 * v)
      (x3, subMod c.p (r * subMod c.p v x3) (s1 * h3), h * z1 % c.p * z2 % c.p)

/-- k·P over at most `fuel` bits of k. -/
def CurveP.mulGo (c : CurveP) : Nat → Nat → Proj → Proj → Proj
  | 0, _, _, acc => acc
  | fuel + 1, k, q, acc => c.mulGo fuel (k / 2) (c.double q) (if k % 2 = 1 then c.sum acc q else acc)

/-- k·P, the coordinates randomised by `l`. -/
def CurveP.mulBy (c : CurveP) (l k : Nat) (q : Point) : Point := c.affine (c.mulGo (bitLen k) k (c.spread l q) (1, 1, 0))

/-- k·P and the sum of two points, of public values. -/
def CurveP.mul (c : CurveP) (k : Nat) (q : Point) : Point := c.mulBy 1 k q
def CurveP.add (c : CurveP) (a b : Point) : Point := c.affine (c.sum (c.spread 1 a) (c.spread 1 b))

/-- k·P of a secret k, blinded as k + r·n (R166). -/
def CurveP.mulSecret (c : CurveP) (b : Blind) (k : Nat) (q : Point) : Point := c.mulBy (b.factor c.p) (b.scalar k c.n) q

/-- The base point. -/
def CurveP.g (c : CurveP) : Point := some (c.gx, c.gy)

/-- An uncompressed point field (R148). -/
def CurveP.encode (c : CurveP) : Point → Bytes
  | none => List.replicate (1 + 2 * c.plen) 0
  | some (x, y) => [4] ++ beBytes c.plen x ++ beBytes c.plen y

/-- A point field decoded, or the reason of Table PK.11 that comes first in R472 group 1. -/
def CurveP.decode (c : CurveP) (b : Bytes) : Except Nat Point :=
  let first := le b 0 1
  let x := ofBe (slice b 1 c.plen)
  let yb := slice b (1 + c.plen) c.plen
  let y := ofBe yb
  if first ≠ 0 ∧ first ≠ 2 ∧ first ≠ 3 ∧ first ≠ 4 then .error 7
  else if (first = 0 ∧ !allZero (b.drop 1)) ∨ ((first = 2 ∨ first = 3) ∧ !allZero yb) then .error 7
  else if first = 0 then .error 4
  else if x ≥ c.p ∨ (first = 4 ∧ y ≥ c.p) then .error 5
  else if first = 4 then (if c.onCurve x y then .ok (some (x, y)) else .error 3)
  else
    let v := c.rhs x
    if !isSquareMod c.p v then .error 3
    else
      let r := sqrtMod c.p v
      .ok (some (x, if r % 2 = first % 2 then r else (c.p - r) % c.p))

/-- A scalar from random bytes by the extra-random-bits method (FIPS 186-5): 1 to n − 1. -/
def CurveP.scalarOf (c : CurveP) (r : Bytes) : Nat := ofBe r % (c.n - 1) + 1

/-- The bytes that method takes: 64 bits beyond those of n. -/
def CurveP.randLen (c : CurveP) : Nat := c.nlen + 8

/-- The number that ECDSA takes from a digest: its leftmost bits, as many as n has. -/
def CurveP.hashInt (c : CurveP) (d : Bytes) : Nat := ofBe d / 2 ^ (8 * d.length - bitLen c.n)

/-- ECDSA signing of a digest with secret `k` of this signature: r ‖ s (R148). -/
def CurveP.sign (c : CurveP) (b : Blind) (key digest : Bytes) (k : Nat) : Bytes :=
  let r := (match c.mulSecret b k c.g with | some (x, _) => x | none => 0) % c.n
  let s := ((invMod c.n k).getD 0) * (c.hashInt digest + r * ofBe key) % c.n
  beBytes c.nlen r ++ beBytes c.nlen s

/-- ECDSA verification once every check of Table PK.11 has passed. -/
def CurveP.verify (c : CurveP) (q : Point) (digest : Bytes) (r s : Nat) : Bool :=
  let w := (invMod c.n s).getD 0
  match c.add (c.mul (c.hashInt digest * w % c.n) c.g) (c.mul (r * w % c.n) q) with
  | some (x, _) => x % c.n == r
  | none => false

/-- The first failing check of an ECDSA signature field (R472 group 2). -/
def CurveP.sigReason (c : CurveP) (sig : Bytes) : Option Nat :=
  let r := ofBe (slice sig 0 c.nlen)
  let s := ofBe (slice sig c.nlen c.nlen)
  if r = 0 ∨ s = 0 then some 1 else if r ≥ c.n ∨ s ≥ c.n then some 2 else none

/-- Whether an ECDSA P-384 signature over a digest verifies under a public point that the custody firmware holds itself. -/
def ecOk (pub digest sig : Bytes) : Bool :=
  match p384.decode pub with
  | .error _ => false
  | .ok q => sig.length == 96 && (p384.sigReason sig).isNone && p384.verify q digest (ofBe (sig.take 48)) (ofBe (sig.drop 48))

/-- Whether an ML-DSA-65 signature in the pure form with a context verifies (FIPS 204; PARAM 4 is set 65). -/
def mlOk (pub context msg sig : Bytes) : Bool := Config.mldsaOk 4 pub (leBytes 2 context.length ++ context ++ msg) sig

/-- The public point of a scalar. -/
def CurveP.public (c : CurveP) (b : Blind) (key : Bytes) : Bytes := c.encode (c.mulSecret b (ofBe key) c.g)

/-- ECC CDH in its cofactor form with a decoded peer point: the x coordinate, or POINT_INFINITY (R472 group 3). -/
def CurveP.agreeWith (c : CurveP) (b : Blind) (key : Bytes) (q : Point) : Except Nat Bytes :=
  match c.mulBy (b.factor c.p) (c.h * b.scalar (ofBe key) c.n) q with
  | some (x, _) => .ok (beBytes c.plen x)
  | none => .error 4

/-- ECC CDH with a peer's point field (R472 groups 1 and 3). -/
def CurveP.agree (c : CurveP) (b : Blind) (key peer : Bytes) : Except Nat Bytes :=
  match c.decode peer with
  | .error e => .error e
  | .ok q => c.agreeWith b key q

/-! ### Edwards curves (RFC 8032) -/

/-- An Edwards curve ax² + y² = 1 + dx²y²: its field, the order of its base point, the bits of its cofactor, the base point, and
the bytes of a point field. -/
structure EdCurve where
  p : Nat
  a : Nat
  d : Nat
  l : Nat
  cof : Nat
  bx : Nat
  by_ : Nat
  len : Nat
  deriving DecidableEq, Repr

def ed25519 : EdCurve :=
  ⟨2 ^ 255 - 19, 2 ^ 255 - 20, 0x52036cee2b6ffe738cc740797779e89800700a4d4141d8ab75eb4dca135978a3,
    2 ^ 252 + 27742317777372353535851937790883648493, 3,
    0x216936d3cd6e53fec0a4e231fdd6dc5c692cc7609525a7b2c9562d608f25d51a,
    0x6666666666666666666666666666666666666666666666666666666666666658, 32⟩

def ed448 : EdCurve :=
  ⟨2 ^ 448 - 2 ^ 224 - 1, 1, 2 ^ 448 - 2 ^ 224 - 1 - 39081,
    2 ^ 446 - 13818066809895115352007386748515426880336692474882178609894547503885, 2,
    0x4f1970c66bed0ded221d15a622bf36da9e146570470f1767ea6de324a3d3a46412ae1af72ab66511433b80e18b00938e2626a82bc70cc05e,
    0x693f46716eb6bc248876203756c9c7624bea73736ca3984087789c1e05a0c2d73ad3ff1ce67c39c4fdbd132c4ed7c8ad9808795bf230fa14, 57⟩

/-- P + Q in projective coordinates (x = X/Z, y = Y/Z); the law is complete. -/
def EdCurve.sum (c : EdCurve) (u v : Proj) : Proj :=
  let (x1, y1, z1) := u
  let (x2, y2, z2) := v
  let m := z1 * z2 % c.p
  let m2 := m * m % c.p
  let xx := x1 * x2 % c.p
  let yy := y1 * y2 % c.p
  let e := c.d * xx % c.p * yy % c.p
  let f := subMod c.p m2 e
  let g := (m2 + e) % c.p
  (m * f % c.p * subMod c.p ((x1 + y1) * (x2 + y2)) (xx + yy) % c.p, m * g % c.p * subMod c.p yy (c.a * xx) % c.p, f * g % c.p)

/-- k·P over at most `fuel` bits of k. -/
def EdCurve.mulGo (c : EdCurve) : Nat → Nat → Proj → Proj → Proj
  | 0, _, _, acc => acc
  | fuel + 1, k, q, acc => c.mulGo fuel (k / 2) (c.sum q q) (if k % 2 = 1 then c.sum acc q else acc)
def EdCurve.mul (c : EdCurve) (k : Nat) (q : Proj) : Proj := c.mulGo (bitLen k) k q (0, 1, 1)

/-- The base point, its coordinates randomised by a factor (R166). -/
def EdCurve.base (c : EdCurve) (l : Nat) : Proj := (c.bx * l % c.p, c.by_ * l % c.p, l)

/-- k·B of a secret k, blinded (R166). -/
def EdCurve.mulSecret (c : EdCurve) (b : Blind) (k : Nat) : Proj := c.mul (b.scalar k c.l) (c.base (b.factor c.p))

/-- A point field: y, and the lowest bit of x in the top bit. -/
def EdCurve.encode (c : EdCurve) (q : Proj) : Bytes :=
  let i := (invMod c.p q.2.2).getD 0
  leBytes c.len (q.2.1 * i % c.p + q.1 * i % c.p % 2 * 2 ^ (8 * c.len - 1))

/-- A point field decoded: `none` where it is not canonical or is no point. -/
def EdCurve.decode (c : EdCurve) (b : Bytes) : Option Proj :=
  let v := ofLe b
  let y := v % 2 ^ (8 * c.len - 1)
  let sign := v / 2 ^ (8 * c.len - 1)
  let num := subMod c.p (y * y) 1
  let x2 := num * ((invMod c.p (subMod c.p (c.d * (y * y % c.p)) c.a)).getD 0) % c.p
  let x := sqrtMod c.p x2
  if b.length ≠ c.len ∨ y ≥ c.p ∨ !isSquareMod c.p x2 ∨ (x = 0 ∧ sign = 1) then none
  else some (if x % 2 = sign then x else c.p - x, y, 1)

/-- The hash of each curve: SHA-512, and SHAKE256 with 114 bytes. -/
def EdCurve.hash (c : EdCurve) (m : Bytes) : Bytes := if c.len = 32 then Config.sha512 m else Config.shake256 114 m

/-- The prefix of Ed448 with its context; plain Ed25519 has none. -/
def EdCurve.dom (c : EdCurve) (context : Bytes) : Bytes :=
  if c.len = 32 then [] else ascii "SigEd448" ++ [0] ++ leBytes 1 context.length ++ context

/-- The secret scalar of a private key, pruned, and the prefix of its nonces. -/
def EdCurve.expand (c : EdCurve) (key : Bytes) : Nat × Bytes :=
  let h := c.hash key
  let v := ofLe (h.take c.len)
  (if c.len = 32 then v % 2 ^ 254 / 8 * 8 + 2 ^ 254 else v % 2 ^ 447 / 4 * 4 + 2 ^ 447, h.drop c.len)

/-- The public key of a private key. -/
def EdCurve.public (c : EdCurve) (b : Blind) (key : Bytes) : Bytes := c.encode (c.mulSecret b (c.expand key).1)

/-- R ‖ S. -/
def EdCurve.sign (c : EdCurve) (b : Blind) (key context msg : Bytes) : Bytes :=
  let (s, pre) := c.expand key
  let r := ofLe (c.hash (c.dom context ++ pre ++ msg)) % c.l
  let rb := c.encode (c.mulSecret b r)
  let k := ofLe (c.hash (c.dom context ++ rb ++ c.public b key ++ msg)) % c.l
  rb ++ leBytes c.len ((r + k * s) % c.l)

/-- Whether two points are the same. -/
def EdCurve.same (c : EdCurve) (u v : Proj) : Bool :=
  subMod c.p (u.1 * v.2.2) (v.1 * u.2.2) == 0 && subMod c.p (u.2.1 * v.2.2) (v.2.1 * u.2.2) == 0

/-- The cofactored equation (R147): [2^c·S]B = [2^c]R + [2^c·k]A. -/
def EdCurve.verify (c : EdCurve) (a r : Proj) (pub sig context msg : Bytes) : Bool :=
  let k := ofLe (c.hash (c.dom context ++ sig.take c.len ++ pub ++ msg)) % c.l
  let s := ofLe (sig.drop c.len)
  let h := 2 ^ c.cof
  c.same (c.mul (h * s) (c.base 1)) (c.sum (c.mul h r) (c.mul (h * k) a))

/-! ### Montgomery curves (RFC 7748) -/

/-- A Montgomery curve: its field, the constant of its ladder, its bits, and the number of its points. -/
structure MontCurve where
  p : Nat
  a24 : Nat
  bits : Nat
  points : Nat
  deriving DecidableEq, Repr

def x25519 : MontCurve := ⟨2 ^ 255 - 19, 121665, 255, 8 * ed25519.l⟩
def x448 : MontCurve := ⟨2 ^ 448 - 2 ^ 224 - 1, 39081, 448, 4 * ed448.l⟩

/-- The bytes of a key or coordinate. -/
def MontCurve.len (c : MontCurve) : Nat := bytesOf c.bits

/-- The pruned scalar of a key. -/
def MontCurve.scalar (c : MontCurve) (key : Bytes) : Nat :=
  let v := ofLe key
  if c.bits = 255 then v % 2 ^ 254 / 8 * 8 + 2 ^ 254 else v % 2 ^ 447 / 4 * 4 + 2 ^ 447

/-- The ladder over the bits of k below bit `i`: (X2 : Z2) and (X3 : Z3). -/
def MontCurve.ladder (c : MontCurve) (u k : Nat) : Nat → (Nat × Nat) × (Nat × Nat) → (Nat × Nat) × (Nat × Nat)
  | 0, q => q
  | i + 1, q =>
    let swap := bitOf k i
    let (x2, z2) := if swap then q.2 else q.1
    let (x3, z3) := if swap then q.1 else q.2
    let a := (x2 + z2) % c.p
    let b := subMod c.p x2 z2
    let aa := a * a % c.p
    let bb := b * b % c.p
    let e := subMod c.p aa bb
    let da := subMod c.p x3 z3 * a % c.p
    let cb := (x3 + z3) % c.p * b % c.p
    let s := (da + cb) % c.p
    let t := subMod c.p da cb
    let r2 := (aa * bb % c.p, e * (aa + c.a24 * e) % c.p)
    let r3 := (s * s % c.p, u * (t * t % c.p) % c.p)
    c.ladder u k i (if swap then (r3, r2) else (r2, r3))

/-- X25519 or X448 of a key and a coordinate. The scalar is blinded by a multiple of the number of points of the curve, or of its
twist, that the coordinate lies on, which leaves RFC 7748's result as it is (R166). -/
def MontCurve.agree (c : MontCurve) (b : Blind) (key peer : Bytes) : Bytes :=
  let u := ofLe peer % 2 ^ c.bits % c.p
  let on := isSquareMod c.p (u * ((u * u + (4 * c.a24 + 2) * u + 1) % c.p))
  let k := b.scalar (c.scalar key) (if on then c.points else 2 * c.p + 2 - c.points)
  let l := b.factor c.p
  let (x, z) := (c.ladder u k (bitLen k) ((1, 0), (u * l % c.p, l))).1
  leBytes c.len (x * ((invMod c.p z).getD 0) % c.p)

/-- The public key of a key. -/
def MontCurve.public (c : MontCurve) (b : Blind) (key : Bytes) : Bytes :=
  c.agree b key (leBytes c.len (if c.bits = 255 then 9 else 5))

/-! ### RFC 8017 -/

/-- A hash by its code in PARAM[1:0]: SHA-256, SHA-384, SHA-512. -/
def rsaDigest (code : Nat) (m : Bytes) : Bytes :=
  if code = 0 then Config.sha256 m else if code = 1 then Config.sha384 m else Config.sha512 m

/-- The digest length of that hash; 0 for code 3. -/
def rsaHash (param : Nat) : Nat := [32, 48, 64].getD (param % 4) 0

/-- MGF1: `n` bytes from a seed. -/
def mgf1 (code : Nat) (seed : Bytes) (n : Nat) : Bytes :=
  (((List.range (n / rsaHash code + 1)).map (fun i => rsaDigest code (seed ++ beBytes 4 i))).flatten).take n

/-- EMSA-PKCS1-v1_5 of a digest in `n` bytes. -/
def pkcs1Encode (code n : Nat) (digest : Bytes) : Bytes :=
  let info := [0x30, 0x31 + 16 * BitVec.ofNat 8 code, 0x30, 0x0d, 0x06, 0x09, 0x60, 0x86, 0x48, 0x01, 0x65, 0x03, 0x04, 0x02,
    1 + BitVec.ofNat 8 code, 0x05, 0x00, 0x04, BitVec.ofNat 8 (rsaHash code)] ++ digest
  [0, 1] ++ List.replicate (n - 3 - info.length) 0xFF ++ [0] ++ info

/-- EMSA-PSS of a digest with a salt, in the bytes of `bits` bits. -/
def pssEncode (code bits : Nat) (digest salt : Bytes) : Bytes :=
  let n := bytesOf bits
  let h := rsaDigest code (List.replicate 8 0 ++ digest ++ salt)
  let db := List.replicate (n - salt.length - h.length - 2) 0 ++ [1] ++ salt
  let masked := xorBytes db (mgf1 code h db.length)
  beBytes db.length (ofBe masked % 2 ^ (8 * db.length - (8 * n - bits))) ++ h ++ [0xBC]

/-- Whether an encoded message is the PSS encoding of a digest with a salt of a length. -/
def pssVerify (code bits : Nat) (digest : Bytes) (saltLen : Nat) (em : Bytes) : Bool :=
  let n := bytesOf bits
  let h := slice em (n - rsaHash code - 1) (rsaHash code)
  let db := xorBytes (em.take (n - rsaHash code - 1)) (mgf1 code h (n - rsaHash code - 1))
  pssEncode code bits digest (db.drop (db.length - saltLen)) == em

/-- EME-OAEP of a message with a label and a seed, in `n` bytes. -/
def oaepEncode (code n : Nat) (label seed msg : Bytes) : Bytes :=
  let h := rsaDigest code label
  let db := h ++ List.replicate (n - msg.length - 2 * h.length - 2) 0 ++ [1] ++ msg
  let masked := xorBytes db (mgf1 code seed db.length)
  [0] ++ xorBytes seed (mgf1 code masked h.length) ++ masked

/-- The message in a data block behind its zero bytes and the byte 1. -/
def oaepTail : Bytes → Option Bytes
  | [] => none
  | b :: rest => if b = 0 then oaepTail rest else if b = 1 then some rest else none

/-- EME-OAEP decoding: `none` for every cause of failure. -/
def oaepDecode (code : Nat) (label em : Bytes) : Option Bytes :=
  let h := rsaHash code
  let masked := em.drop (h + 1)
  let seed := xorBytes (slice em 1 h) (mgf1 code masked h)
  let db := xorBytes masked (mgf1 code seed masked.length)
  if em.take 1 ≠ [0] ∨ db.take h ≠ rsaDigest code label then none else oaepTail (db.drop h)

end Sys2Proof.Machine
end

