-- ==== Sys2Proof/Machine/Flags.lean ====
section
/-! DEFINITION. Flags and events: statuses with a sequence number (R58, R59), event sources and MSI-X (R289, R290), the two
records (R382 to R390), the first-error capture and the counts of a fault report (R373 to R375), and the health that
LANTERN and FAULT_N show (R380, R381). -/

namespace Sys2Proof.Machine

/-! ### Statuses with a sequence number -/

/-- The sequence number after `n`: it wraps from 0xFFFF to 0x0001 (R58). -/
def nextSeq (n : Nat) : Nat := if n ≥ 0xFFFF then 1 else n + 1

/-- An event on the SQC status whose sequence field is `f`: the number advances, and the fields are set by `g` only where
no earlier event is held (R59). -/
def State.sqcEvent (s : State) (f : Fld) (g : State → State) : State :=
  let s1 := s.put f (nextSeq (s.get f))
  if f.off ∈ s1.iface.sqcHeld then s1
  else g { s1 with iface.sqcHeld := f.off :: s1.iface.sqcHeld }

/-! ### MSI-X and event sources -/

/-- Vectors in a function's MSI-X table (Table HQ.1). -/
def vectorsOf (fn : Nat) : Nat := if fn = 0 then 2048 else 4

/-- A word of a function's MSI-X table; the vector-control word resets to masked, as PCIe Base defines. -/
def State.msixWord (s : State) (fn off : Nat) : Nat :=
  lookD s.host.msixTable (fn * 0x10000 + off) (if off % 16 = 12 then 1 else 0)

/-- Whether function `fn` can send vector `vec`: in D0, MSI-X enabled, unmasked (R289). -/
def State.canSend (s : State) (fn vec : Nat) : Bool :=
  s.host.msixOn.contains fn && !s.host.d3hot.contains fn && !bitOf (s.msixWord fn (16 * vec + 12)) 0

/-- A message on a vector: sent, or held in the PBA (R289); none on a vector outside the table (R290). -/
def State.msix (s : State) (fn vec : Nat) : State :=
  if vec < vectorsOf fn then
    if s.canSend fn vec then s.emit (.msix fn vec)
    else if s.host.pba.contains (fn * 2048 + vec) then s
    else { s with host.pba := s.host.pba ++ [fn * 2048 + vec] }
  else s

/-- Whether event source `n` is pending (R290). -/
def State.eventPending (s : State) (n : Nat) : Bool := bitOf (s.get (R.qengEventPendingPending (n / 32))) (n % 32)

/-! ### Ferry frames (R427, R428) -/

/-- A port beside FERRY_PORT; one that has sent and received nothing yet. -/
def FerryPort.new : FerryPort := ⟨0, 0, 0, [], []⟩
def State.ferryPort (s : State) (p : Nat) : FerryPort := (look s.ferry.ports p).getD FerryPort.new
def State.setFerryPort (s : State) (p : Nat) (x : FerryPort) : State := { s with ferry.ports := store s.ferry.ports p x }

/-- A link error (Table FY.8): FERRY_LINK_ERR under R59. -/
def State.linkError (s : State) (port kind : Nat) : State :=
  s.sqcEvent R.ferryLinkErrSeq (fun t => (t.put R.ferryLinkErrPort port).put R.ferryLinkErrKind kind)

/-- A sequenced frame goes out on port `p` and joins the replay buffer of 64; a frame that the full buffer loses is a replay
overflow (log entry 44). -/
def State.ferryOut (s : State) (p : Nat) (f : FerryFrame) : State :=
  let x := s.ferryPort p
  let full := x.unacked.length ≥ 64
  let s1 := s.setFerryPort p { x with txSeq := f.lseq, unacked := (if full then x.unacked.drop 1 else x.unacked) ++ [f] }
  (if full then s1.linkError p 3 else s1).emit (.ferryFrame p f)

/-- The device's own frame, with the next LSEQ and the ACK in force, TTL 64. -/
def State.ferrySend (s : State) (p kind dest xtag : Nat) (first last : Bool) (data : Bytes) : State :=
  let x := s.ferryPort p
  let seq := (x.txSeq + 1) % 65536
  s.ferryOut p ⟨kind, dest, s.get R.ferryStatusSelf, 64, xtag, seq, x.rxSeq, first, last, false, data⟩

/-- The pieces of at most 256 bytes that a message travels in, at most `fuel` and one more of them. -/
def pieces : Nat → Bytes → List Bytes
  | 0, bs => [bs]
  | fuel + 1, bs => if bs.length ≤ 256 then [bs] else bs.take 256 :: pieces fuel (bs.drop 256)

/-- A message travels in consecutive frames from FIRST to LAST, all with one XTAG (R427). -/
def State.sendMessage (s : State) (p kind dest xtag : Nat) (data : Bytes) : State :=
  let parts := pieces (data.length / 256) data
  (parts.zipIdx).foldl (fun t x => t.ferrySend p kind dest xtag (x.2 == 0) (x.2 + 1 == parts.length) x.1) s

/-- The follower's upstream port (R424). -/
def State.upstream (s : State) : Nat := ([0, 1, 2, 3].find? (fun p => s.get (R.ferryPortUse p) == 1)).getD 0

/-- A follower's host read: HOST_READ under a fresh XTAG, address (8) and length (4) in its payload (R433; the payload is the
model's, log entry 48). The wait keeps what the read is for: 0 the next store response, 0x10000 + TAG the page of a fetch. -/
def State.hostAsk (s : State) (addr len use : Nat) : State :=
  let tag := s.ferry.nextTag
  let s1 := { s with ferry.waits := store s.ferry.waits tag ⟨0, none, ⟨0x40, 0⟩, use⟩, ferry.nextTag := (tag + 1) % 2 ^ 32 }
  s1.sendMessage s1.upstream 9 0 tag (leBytes 8 addr ++ leBytes 4 len)

/-- A follower's host write goes to the front device as HOST_WRITE; the front device itself writes elsewhere (R433). -/
def State.hostTell (s : State) (addr : Nat) (data : Bytes) : State :=
  if s.get R.ferryStatusRole = 2 then s.sendMessage s.upstream 10 0 0 (leBytes 8 addr ++ data) else s

/-! ### Events (R290) -/

/-- Event source `n` occurs: it becomes pending, and its route sends one message (R290). A source already pending sends
nothing more. Sources that MPC_NW_EVENTS enables reach the normal world (R320). A follower's sources go to the front device as
EVENT frames too (R435). -/
def State.raise (s : State) (n : Nat) : State :=
  if s.eventPending n then s
  else
    let s0 := s.putBit (R.qengEventPendingPending (n / 32)) (n % 32) true
    let s2 := if bitOf (s.get (R.mpcNwEventsEnable (n / 32))) (n % 32) then s0.emit (.normalWorldIrq n) else s0
    let s1 := if s.get R.ferryStatusRole = 2 then s2.sendMessage s.upstream 12 0 0 (leBytes 2 n) else s2
    if s1.is (R.qengEventRouteEnable n) then
      s1.msix (s1.get (R.qengEventRouteFunction n)) (s1.get (R.qengEventRouteVector n))
    else s1

/-- A DEV_STATUS field set; a change raises event source 0 (Table HQ.9). -/
def State.setDev (s : State) (f : Fld) (v : Nat) : State :=
  if s.get f = v % 2 ^ f.width then s else (s.put f v).raise 0

/-- A bit of DEV_STATUS.MISSING, numbered as in Table GI.4 (16 to 31). -/
def State.setMissing (s : State) (bit : Nat) (b : Bool) : State :=
  s.setDev R.devStatusMissing (setBit (s.get R.devStatusMissing) (bit - 16) b)

/-! ### The operations journal -/

/-- A journal entry joins the 1,024-entry buffer; the oldest is dropped where it is full (R390). -/
def State.journal (s : State) (typ inst : Nat) (body : Bytes) : State :=
  let e : JournalEntry := ⟨0, typ, inst, s.stamp, padTo 32 body⟩
  let s1 := s.stamped
  let (kept, lost) := if s1.log.journal.length < 1024 then (s1.log.journal, 0) else (s1.log.journal.drop 1, 1)
  let s2 := { s1 with log.journal := kept ++ [e], log.gap := s1.log.gap + lost }
  (s2.incMod R.logJournalLostCount lost).put R.logJournalCfgBuffered s2.log.journal.length

/-- An event on an SQC status that the custody firmware copies to the operations journal once it is recorded (R63, R218, R274, R336):
entry type, instance and body. The firmware's clear of the status is a SQC_CLEAR of its own. -/
def State.sqcJournal (s : State) (f : Fld) (g : State → State) (typ inst : Nat) (body : State → Bytes) : State :=
  let s1 := s.sqcEvent f g
  if f.off ∈ s.iface.sqcHeld then s1 else s1.journal typ inst (body s1)

/-! ### The security log -/

/-- ACT_INTENT and ACT_COMPLETE: the two types that a full or a frozen log still takes (R384, R385). -/
def isActRecord (typ : Nat) : Bool := typ == 0x20 || typ == 0x21

/-- A record that is not kept: LOG_OVERFLOW rises (R384). -/
def State.logLost (s : State) (n : Nat) : State :=
  s.put R.logOverflowCount (saturate 0xFFFFFFFF (s.get R.logOverflowCount + n))

/-- A record written at position HELD, in both banks (R382); R384 while the log is FULL; the journal notes it (Table
FL.5). -/
def State.logWrite (s : State) (r : LogRec) : State :=
  let held := s.get R.logStatusHeld
  if held ≥ 8192 ∨ (s.is R.logStatusFull ∧ isActRecord r.typ = false) then s.logLost 1
  else
    let s1 := { s with log.recs := s.log.recs ++ [r] }
    let s2 := s1.put R.logStatusHeld (held + 1)
    let s3 := if held + 1 = 7936 then (s2.put R.logStatusFull 1).raise 6 else s2
    let s4 := if held + 1 = 6944 then s3.raise 6 else s3
    s4.journal 0x30 0xFFFF (leBytes 2 held ++ leBytes 2 r.typ)

/-- LOG_SUBMIT: the LOG block fills EPOCH, TYPE, STAMP and TICK and writes the record, or holds it during a freeze (R382,
R385). -/
def State.logAdd (s : State) (typ inst tenant : Nat) (body : Bytes) : State :=
  let r : LogRec := ⟨s.get R.logEpochEpoch, typ, s.stamp, s.tick, inst, tenant, padTo 28 body⟩
  let s1 := s.stamped
  if s1.is R.logStatusFrozen && !isActRecord typ then
    if s1.log.buffer.length < 256 then
      let s2 := { s1 with log.buffer := s1.log.buffer ++ [r] }
      s2.put R.logStatusBuffered s2.log.buffer.length
    else s1.logLost 1
  else s1.logWrite r

/-- The thaw: the log runs again and the held records are written in order (R385). -/
def State.logThaw (s : State) : State :=
  if s.is R.logStatusFrozen then
    let held := s.log.buffer
    let s1 := ({ s with log.buffer := [] }.put R.logStatusFrozen 0).put R.logStatusBuffered 0
    held.foldl (fun t r => t.logWrite r) s1
  else s

/-! ### Fault reports: what every class does -/

/-- A part, with a die-M or die-K location (R7, R22). -/
def locM (region cluster unit : Nat) : Loc := ⟨0, region, cluster, unit⟩
def locK (cluster unit : Nat) : Loc := ⟨1, 0xF, cluster, unit⟩

/-- The 23-bit LOC field of FAULT_CAPTURE_LOC, with the device's own number. -/
def State.locCode (s : State) (l : Loc) : Nat :=
  s.get R.ferryStatusSelf + 2 ^ 6 * l.die + 2 ^ 8 * l.region + 2 ^ 12 * l.cluster + 2 ^ 19 * l.unit

/-- The 5-byte location field of a record (Table FL.3). -/
def State.locBytes (s : State) (l : Loc) : Bytes :=
  leBytes 1 (s.get R.ferryStatusSelf) ++ leBytes 1 l.die ++ leBytes 1 (if l.region = 0xF then 0xFF else l.region)
    ++ leBytes 1 (if l.cluster = 0x7F then 0xFF else l.cluster) ++ leBytes 1 (if l.unit = 0xF then 0xFF else l.unit)

/-- The count field of a class (R373). -/
def countFld (cls : Nat) : Fld :=
  if cls = 1 then R.faultCountANote else if cls = 2 then R.faultCountASoft else if cls = 3 then R.faultCountBHard
  else R.faultCountBSevere

/-- The count of the report's class, saturating (R373). A GRAVE report has no count register of its own. -/
def State.countFault (s : State) (cls : Nat) : State := if cls ≥ 5 then s else s.incSat (countFld cls)

/-- The capture takes the report (R374). -/
def State.capture (s : State) (r : FaultRec) : State :=
  ((((((((((((s.put R.faultCaptureClass r.cls).putB R.faultCaptureEscalated r.escalated).put R.faultCaptureBlock r.block).put
    R.faultCaptureInfoKind r.kind).put R.faultCaptureInfoMaster r.master).put R.faultCaptureInfoSubId r.sub).put
    R.faultCaptureInfoAccess r.access).put R.faultCaptureLocDd (s.get R.ferryStatusSelf)).put R.faultCaptureLocDie
    r.loc.die).put R.faultCaptureLocRegion r.loc.region).put R.faultCaptureLocCluster r.loc.cluster).put
    R.faultCaptureLocUnit r.loc.unit).put R.faultCaptureAddrAddr r.addr
  |>.put R.faultCaptureStampStamp s.stamp |>.put R.faultCaptureTickTick s.tick |>.stamped

/-- The first fault since the last clear is held; a strictly higher class replaces it; any other only advances SEQ (R374). -/
def State.captureFault (s : State) (r : FaultRec) : State :=
  if R.faultCaptureSeq.off ∈ s.iface.sqcHeld ∧ s.get R.faultCaptureClass < r.cls then
    (s.put R.faultCaptureSeq (nextSeq (s.get R.faultCaptureSeq))).capture r
  else s.sqcEvent R.faultCaptureSeq (fun t => t.capture r)

/-- The fault journal entry of a ring entry (Table FL.5). -/
def State.faultBody (s : State) (r : FaultRec) : Bytes :=
  leBytes 1 r.cls ++ leBytes 1 r.block ++ leBytes 1 r.kind ++ s.locBytes r.loc ++ leBytes 1 r.master ++ leBytes 1 r.sub
    ++ leBytes 1 r.access ++ leBytes 1 (ofBool r.escalated) ++ leBytes 8 r.addr

/-- An entry of the ring stands in secure SRAM bank 0, where FAULT_FIFO_BASE points into it (R373); its bytes are those of Table FL.5. -/
def State.ringStore (s : State) (r : FaultRec) : State :=
  let base := s.get R.faultFifoBaseAddr
  if 0x10000000 ≤ base ∧ base + 0x2000 ≤ 0x10200000 then
    s.writeMem (base + 32 * s.get R.faultFifoIdxProd) (padTo 32 (s.faultBody r))
  else s

/-- The report's entry in the 256-entry fault ring, or FIFO_LOST where it is full (R373). -/
def State.ringFault (s : State) (r : FaultRec) : State :=
  if s.fault.ring.length < 256 then
    ({ s with fault.ring := s.fault.ring ++ [r] }.ringStore r).incMod R.faultFifoIdxProd 1
  else s.incSat R.faultCountCFifoLost

/-- What is unacknowledged after the report (R379); a HARD report is unacknowledged by its open slot. -/
def State.unacked (s : State) (cls : Nat) : State :=
  if cls = 1 then { s with fault.unackNote := true }
  else if cls = 2 then { s with fault.unackSoft := true }
  else if cls = 4 then { s with fault.unackSevere := true }
  else s

/-- What a report of any class does (R373, R374): count, capture, ring, unacknowledged, event source 1 or 2. After a GRAVE
halt a report is only counted (R378). -/
def State.reportBase (s : State) (r : FaultRec) : State :=
  if s.pwr.halted then s.countFault r.cls
  else
    let s1 := ((s.countFault r.cls).captureFault r).ringFault r
    (s1.unacked r.cls).raise (if r.cls ≥ 3 then 1 else 2)

/-- A report not raised by an access. -/
def plainFault (cls : Nat) (loc : Loc) (block kind : Nat) : FaultRec := ⟨cls, loc, block, kind, 0, 0, 0, 0, false⟩

/-- A NOTE or SOFT fault of a part, not raised by an access. -/
def State.note (s : State) (loc : Loc) (block kind : Nat) : State := s.reportBase (plainFault 1 loc block kind)
def State.soft (s : State) (loc : Loc) (block kind : Nat) : State := s.reportBase (plainFault 2 loc block kind)

/-- The lowest HARD slot that is free (R375; which one is the model's choice, log entry 8). -/
def State.freeHardSlot (s : State) : Option Nat :=
  (List.range 16).find? (fun i => !bitOf (s.get R.faultHardOpen) i)

/-- HARD slot `i` opens for the part with the timer at FAULT_ESC_CFG.US (R375). -/
def State.openHard (s : State) (i : Nat) (r : FaultRec) : State :=
  let t := { s with fault.hard := store s.fault.hard i r }
  (((t.putBit R.faultHardOpen i true).put (R.faultHardSlotLoc i) (s.locCode r.loc)).put (R.faultHardSlotTRemaining i)
    (s.get R.faultEscCfgUs)).put (R.faultHardSlotTBlock i) r.block

/-- HARD slot `i` closes. -/
def State.closeHard (s : State) (i : Nat) : State :=
  { s with fault.hard := drop s.fault.hard i }.putBit R.faultHardOpen i false

/-! ### LANTERN and FAULT_N -/

/-- The worst class that is unacknowledged: LANTERN_STATUS.WORST (R379). -/
def State.worst (s : State) : Nat :=
  if s.pwr.halted then 5
  else if s.fault.unackSevere then 4
  else if s.get R.faultHardOpen ≠ 0 then 3
  else if s.fault.unackSoft then 2
  else if s.fault.unackNote then 1
  else 0

/-- FAULT_N is driven low (R381): an unacknowledged fault of HARD or worse, a halt, PURGED, die M in reset, or a Trailhead that
stopped in a state other than SCRAPPED (Table CO.2). With the main supplies absent it is not driven. -/
def State.faultAsserted (s : State) : Bool :=
  s.pwr.main && (decide (s.worst ≥ 3) || s.is R.keeperTamperStatePurged || !s.pwr.porstN
    || (s.get R.bootStatusStage == 4 && s.get R.devStatusLife != 4))

/-- Whether the device is healthy (R380). A pair in service that has missed its watchdog is not fed. -/
def State.healthy (s : State) : Bool :=
  (s.get R.devStatusBoot == 1 || s.get R.devStatusBoot == 2) && s.is R.devStatusCustodyUp && decide (s.worst < 3)
    && !s.is R.keeperTamperStatePurged && !(s.is R.mpcWorldStatusPairA && s.worlds.missedA)
    && !(s.is R.mpcWorldStatusPairB && s.worlds.missedB)

/-- The tick at which the device became healthy is kept while it is healthy (R380). -/
def State.noteHealth (s : State) : State :=
  if s.healthy then
    if s.fault.healthySince.isSome then s else { s with fault.healthySince := some s.tick }
  else { s with fault.healthySince := none }

/-- Engine cycles of 1 ms, 0.5 ms and 4 ms of local tick (R374, R380). -/
def cyclesPerMs : Nat := 1500000

/-- The levels of the input pins as they stand: GPIO7–0, and HOLDUP_SENSE in bit 8 (R463, R464; log entry 115). -/
def State.setPins (s : State) (pins : Nat) : State := (s.put R.sysPinsGpio (field pins 0 8)).putB R.sysPinsHoldup (bitOf pins 8)

/-- A scheduled LANTERN edge of the local tick (R380): rising at each whole millisecond, falling half a millisecond later, while
the device has been healthy for 4 ms; low at the first edge after it was not, even where it is healthy again by then. -/
def State.lanternEdge (s0 : State) : State :=
  let s := s0.noteHealth
  let part := s.tick % cyclesPerMs
  if part ≠ 0 ∧ part ≠ cyclesPerMs / 2 then s
  else
    match s.fault.healthySince with
    | none => (s.put R.lanternStatusLevel 0).put R.lanternStatusRunning 0
    | some t0 =>
      if s.tick < t0 + 4 * cyclesPerMs then (s.put R.lanternStatusLevel 0).put R.lanternStatusRunning 0
      else if part ≠ 0 then s.put R.lanternStatusLevel 0
      else (s.put R.lanternStatusLevel 1).put R.lanternStatusRunning 1

/-! ### Accesses turned away -/

/-- Whether the requester is a custody pair, the host's PF, an application core (Table AH.7). -/
def reqIsPair (r : Requester) : Bool := r.master == 1 || r.master == 2
def reqIsPf (r : Requester) : Bool := r.master == 0x50 && r.sub == 0
def reqIsHost (r : Requester) : Bool := r.master == 0x50
def reqIsAp (r : Requester) : Bool := r.master == 0x10 || r.master == 0x11

/-- The key of what a requester's half accesses leave behind (R43). -/
def halfKey (r : Requester) : Nat := r.master * 256 + r.sub

/-- What the requester's last half access left behind; whatever it does now discards it (R43). -/
def State.takeHalf (s : State) (r : Requester) : State × Option Half :=
  ({ s with iface.halves := drop s.iface.halves (halfKey r) }, look s.iface.halves (halfKey r))

/-- An access that is no half of a 64-bit register discards what the requester's last half access left (R43). -/
def State.noHalf (s : State) (r : Requester) : State := (s.takeHalf r).1

/-- An access turned away (R63): SYS_ACCESS_ERR under R59, its count, event source 3, the journal entry and a NOTE fault. -/
def State.accessErr (s : State) (r : Requester) (kind off : Nat) (write : Bool) : State :=
  let fn := if reqIsHost r then r.sub else 0
  let s1 := s.sqcJournal R.sysAccessErrSeq (fun t => ((((t.put R.sysAccessErrKind kind).put R.sysAccessErrFunction fn).putB
    R.sysAccessErrInternal (!(reqIsHost r))).putB R.sysAccessErrWrite write).put R.sysAccessErrAddrOffset off)
    0x2 (if reqIsHost r then r.sub else 0xFFFF) (fun t =>
      leBytes 4 (t.get R.sysAccessErrSeq + kind * 2 ^ 16 + fn * 2 ^ 20 + ofBool (!(reqIsHost r)) * 2 ^ 28 + ofBool write * 2 ^ 29)
        ++ leBytes 4 off)
  ((s1.incSat R.sysAccessErrCountCount).raise 3).reportBase ⟨1, locM 0xF 37 0xF, 1, kind, off, r.master, r.sub, if write then 2 else 1, false⟩

/-- A refused write, recorded in its block's _ERR (R11, R55, R61): WRITE_WHILE_BUSY, or SHADOW_FROZEN where `frozen`. -/
def State.blockErr (s : State) (base off : Nat) (frozen : Bool) : State :=
  (s.sqcEvent (R.hdrErrSeq base) (fun t => ((t.putB (R.hdrErrWriteWhileBusy base) (!frozen)).putB (R.hdrErrShadowFrozen base)
    frozen).put (R.hdrErrDword base) ((off - base) / 4))).incSat (R.hdrErrCountCount base)

end Sys2Proof.Machine
end

