-- ==== Sys2Proof/Machine/Operands.lean ====
section
/-! DEFINITION. The forms in which a command carries its operands: the command header (Table CM.1), the response header
(Table CM.2), the payload header with its AUX items (Table CM.3, R232), the key-attribute block (Table CM.4), and the opcode
catalogue (Table CM.6). -/

namespace Sys2Proof.Machine

/-! ### Status codes (Table CM.7) -/

namespace St
def ok := 0x0000
def quorumPending := 0x0001
def verifyFailed := 0x0002
def authFailed := 0x0003
def inputRejected := 0x0004
def notInvertible := 0x0005
def operandRange := 0x0006
def headerInvalid := 0x0100
def opcodeUnknown := 0x0101
def lengthInvalid := 0x0102
def resultTooSmall := 0x0103
def nonceSupplied := 0x0104
def programAbsent := 0x0105
def modulusInvalid := 0x0106
def curveUnknown := 0x0107
def curveRetired := 0x0108
def keyAttributes := 0x0109
def notPermitted := 0x0200
def tenantDenied := 0x0201
def deviceLocked := 0x0202
def lifecycleForbidden := 0x0203
def tenantLocked := 0x0204
def tenantAbsent := 0x0205
def tenantDeleted := 0x0206
def generationRetired := 0x0207
def tenantExhausted := 0x0208
def generationFull := 0x0209
def slotStale := 0x0300
def keyUsage := 0x0301
def slotFull := 0x0302
def slotQuota := 0x0303
def keyInvalid := 0x0304
def imageSealStale := 0x0305
def nonceExhausted := 0x0306
def attestationKeyAbsent := 0x0307
def hamperAddress := 0x0400
def hamperStale := 0x0401
def hamperLive := 0x0402
def storeIntegrity := 0x0403
def storeUnavailable := 0x0404
def engineFault := 0x0500
def engineReset := 0x0501
def entropyFailed := 0x0502
def curveRejected := 0x0503
def packageInvalid := 0x0504
def versionTooLow := 0x0505
def resourceLast := 0x0506
def limitReached := 0x0507
def quorumFull := 0x0600
def quorumTimeout := 0x0601
def quorumCancelled := 0x0602
def tokenInvalid := 0x0603
def operationUnknown := 0x0604
def custodyUnavailable := 0x0700
def deviceUnreachable := 0x0701
def tamperAborted := 0x0702
def cancelled := 0x0703
end St

/-- A response that carries a status and nothing else. -/
def Resp.of (status : Nat) : Resp := ⟨status, 0, 0, 0, 0, 0, []⟩

/-- The same with a REASON. -/
def Resp.why (status reason : Nat) : Resp := ⟨status, reason, 0, 0, 0, 0, []⟩

/-- A response OK with a result. -/
def Resp.okay (result : Bytes) : Resp := ⟨St.ok, 0, 0, 0, 0, 0, result⟩

/-! ### The command header -/

/-- The command that 64 header bytes spell (Table CM.1), with the true requester, the door and the payload snapshot. `zeros`
is 0 exactly when every bit that the table requires to be zero is zero; the ring form carries its addresses. -/
def parseHeader (h : Bytes) (ring : Bool) (inst : Nat) (origin : Origin) (payload : Bytes) : Msg :=
  { opcode := le h 0 2, flags := le h 2 2, tenant := le h 4 2 % 4096, inst := inst, tag := le h 8 2
    target := le h 10 1, version := le h 11 1, payloadLen := le h 12 4, payloadAddr := le h 16 8
    resultAddr := le h 24 8, resultLen := le h 32 4, key := le h 36 4, hamper := le h 40 8, alg := le h 48 2
    param := le h 50 2, key2 := le h 52 4
    zeros := le h 4 2 / 4096 + le h 6 2 + le h 56 8 + (if ring then 0 else le h 16 8 + le h 24 8 + le h 32 4)
    payload := payload, origin := origin, cid := 0 }

/-- The 64 header bytes of a command (Table CM.1). -/
def headerBytes (m : Msg) : Bytes :=
  leBytes 2 m.opcode ++ leBytes 2 m.flags ++ leBytes 2 m.tenant ++ leBytes 2 m.inst ++ leBytes 2 m.tag ++ leBytes 1 m.target
    ++ leBytes 1 m.version ++ leBytes 4 m.payloadLen ++ leBytes 8 m.payloadAddr ++ leBytes 8 m.resultAddr
    ++ leBytes 4 m.resultLen ++ leBytes 4 m.key ++ leBytes 8 m.hamper ++ leBytes 2 m.alg ++ leBytes 2 m.param
    ++ leBytes 4 m.key2 ++ leBytes 8 0

/-- The 64 response-header bytes (Table CM.2), with the answering device, the result length it names and the stamp. -/
def responseBytes (m : Msg) (device : Nat) (r : Resp) (len stamp : Nat) : Bytes :=
  leBytes 2 m.opcode ++ leBytes 2 m.flags ++ leBytes 2 m.tenant ++ leBytes 2 m.inst ++ leBytes 2 m.tag ++ leBytes 1 device
    ++ leBytes 1 1 ++ leBytes 4 len ++ leBytes 2 r.status ++ leBytes 1 r.reason ++ leBytes 1 r.route ++ leBytes 4 r.info
    ++ leBytes 8 r.hamper ++ leBytes 4 r.key ++ leBytes 12 stamp ++ leBytes 16 0

end Sys2Proof.Machine

namespace Sys2Proof

/-- FLAGS bits (Table CM.1). -/
def Msg.first (m : Msg) : Bool := Machine.bitOf m.flags 0
def Msg.last (m : Msg) : Bool := Machine.bitOf m.flags 1
def Msg.deterministic (m : Msg) : Bool := Machine.bitOf m.flags 2
def Msg.externalMu (m : Msg) : Bool := Machine.bitOf m.flags 3
def Msg.noEvent (m : Msg) : Bool := Machine.bitOf m.flags 4
def Msg.autoload (m : Msg) : Bool := Machine.bitOf m.flags 5

/-- The page size of a window (Table HQ.6). -/
def Window.size (w : Window) : Nat := if w.page2M then 0x200000 else 0x1000

/-- Whether an access of `n` bytes at `a` lies within the window (R273). -/
def Window.covers (w : Window) (a n : Nat) : Bool :=
  w.valid && decide (w.ibase ≤ a) && decide (a + n ≤ w.ibase + w.pages * w.size)

/-- The SQ a command came from. -/
def Msg.sq? (m : Msg) : Option Nat := match m.origin with | .ring q => some q | _ => none

end Sys2Proof

namespace Sys2Proof.Machine

/-! ### The payload of groups 0x02 and 0x03 -/

/-- A payload read apart (R232): the AUX items, the IN data and OUT_LEN. -/
structure Parts where
  aux : List Bytes
  inp : Bytes
  outLen : Nat
  deriving DecidableEq, Repr

/-- The AUX items in `bs`, at most `fuel` of them: the items, or the position (from 1) of the one that does not fit. -/
def auxItems : Nat → Nat → Bytes → Except Nat (List Bytes)
  | 0, pos, bs => if bs.isEmpty then .ok [] else .error pos
  | fuel + 1, pos, bs =>
    if bs.isEmpty then .ok []
    else if bs.length < 4 then .error pos
    else
      let n := le bs 0 4
      if bs.length < 4 + n then .error pos
      else match auxItems fuel (pos + 1) (bs.drop (4 + n)) with
        | .ok rest => .ok ((bs.drop 4).take n :: rest)
        | .error e => .error e

/-- The parts of a payload, or the REASON of LENGTH_INVALID: 0 the payload header, 1–7 an AUX item (R230 step 7, R232). -/
def partsOf (m : Msg) : Except Nat Parts :=
  let p := m.payload
  if m.payloadLen < 16 ∨ p.length < m.payloadLen then .error 0
  else
    let inLen := le p 0 4
    let auxLen := le p 4 4
    let start := 16 + 8 * ((auxLen + 7) / 8)
    if le p 12 4 ≠ 0 ∨ m.payloadLen ≠ start + inLen then .error 0
    else match auxItems 7 1 ((p.drop 16).take auxLen) with
      | .ok items => .ok ⟨items, (p.drop start).take inLen, le p 8 4⟩
      | .error e => .error e

/-- The i-th AUX item, empty where it is absent. -/
def Parts.item (p : Parts) (i : Nat) : Bytes := p.aux.getD i []

/-- A key-attribute block (Table CM.4). -/
structure Attr where
  typ : Nat
  curve : Nat
  usage : Nat
  size : Nat
  flags : Nat
  label : Nat
  exponent : Nat
  zeros : Nat
  deriving DecidableEq, Repr

/-- The block that 32 bytes spell. -/
def attrOf (b : Bytes) : Attr :=
  ⟨le b 0 1, le b 1 1, le b 2 2, le b 4 2, le b 6 1, le b 8 4, le b 12 4, le b 7 1 + le b 16 16⟩

/-- The bytes of a block. -/
def Attr.bytes (a : Attr) : Bytes :=
  leBytes 1 a.typ ++ leBytes 1 a.curve ++ leBytes 2 a.usage ++ leBytes 2 a.size ++ leBytes 1 a.flags ++ leBytes 1 0
    ++ leBytes 4 a.label ++ leBytes 4 a.exponent ++ leBytes 16 0

def Attr.sealed (a : Attr) : Bool := bitOf a.flags 0
def Attr.pin (a : Attr) : Bool := bitOf a.flags 1
def Attr.load (a : Attr) : Bool := bitOf a.flags 2

/-! ### The opcode catalogue -/

/-- The three routes of R36. -/
inductive Route where
  | direct | store | custody
  deriving DecidableEq, Repr

/-- A row of Table CM.6: the route, whether the PF alone may issue it, and the act class of its quorum, as numbered in Table
DC.3 (`none` where it needs none; an act whose class depends on its payload is judged in Quorum). -/
structure OpInfo where
  route : Route
  pfOnly : Bool
  cls : Option Nat
  deriving DecidableEq, Repr

/-- The opcode catalogue (Table CM.6): `none` for an opcode the device does not implement (R239). -/
def opInfo : Nat → Option OpInfo
  | 0x0101 => some ⟨.custody, false, none⟩
  | 0x0102 => some ⟨.custody, false, none⟩
  | 0x0103 => some ⟨.custody, false, none⟩
  | 0x0104 => some ⟨.custody, false, none⟩
  | 0x0201 => some ⟨.custody, false, some 16⟩
  | 0x0202 => some ⟨.custody, false, some 16⟩
  | 0x0203 => some ⟨.custody, false, some 16⟩
  | 0x0204 => some ⟨.direct, false, none⟩
  | 0x0205 => some ⟨.direct, false, none⟩
  | 0x0206 => some ⟨.store, false, none⟩
  | 0x0207 => some ⟨.store, false, none⟩
  | 0x0208 => some ⟨.custody, false, none⟩
  | 0x0209 => some ⟨.custody, false, none⟩
  | 0x020A => some ⟨.custody, false, none⟩
  | 0x020B => some ⟨.custody, false, none⟩
  | 0x0301 => some ⟨.direct, false, none⟩
  | 0x0302 => some ⟨.direct, false, none⟩
  | 0x0303 => some ⟨.direct, false, none⟩
  | 0x0304 => some ⟨.direct, false, none⟩
  | 0x0305 => some ⟨.direct, false, none⟩
  | 0x0306 => some ⟨.direct, false, none⟩
  | 0x0307 => some ⟨.direct, false, none⟩
  | 0x0308 => some ⟨.direct, false, none⟩
  | 0x0309 => some ⟨.direct, false, none⟩
  | 0x030A => some ⟨.direct, false, none⟩
  | 0x030B => some ⟨.direct, false, none⟩
  | 0x030C => some ⟨.direct, false, none⟩
  | 0x030D => some ⟨.direct, false, none⟩
  | 0x030E => some ⟨.direct, false, none⟩
  | 0x0401 => some ⟨.custody, true, some 1⟩
  | 0x0402 => some ⟨.custody, true, some 1⟩
  | 0x0403 => some ⟨.custody, true, none⟩
  | 0x0404 => some ⟨.custody, true, none⟩
  | 0x0405 => some ⟨.custody, false, none⟩
  | 0x0406 => some ⟨.custody, false, some 17⟩
  | 0x0407 => some ⟨.custody, true, none⟩
  | 0x0408 => some ⟨.custody, true, some 1⟩
  | 0x0409 => some ⟨.custody, false, none⟩
  | 0x0501 => some ⟨.custody, true, some 2⟩
  | 0x0502 => some ⟨.custody, true, some 2⟩
  | 0x0503 => some ⟨.custody, true, some 2⟩
  | 0x0504 => some ⟨.custody, true, none⟩
  | 0x0505 => some ⟨.custody, false, none⟩
  | 0x0506 => some ⟨.custody, false, none⟩
  | 0x0507 => some ⟨.custody, false, none⟩
  | 0x0601 => some ⟨.custody, false, none⟩
  | 0x0602 => some ⟨.custody, true, none⟩
  | 0x0603 => some ⟨.custody, true, none⟩
  | 0x0604 => some ⟨.custody, true, none⟩
  | 0x0605 => some ⟨.custody, true, some 9⟩
  | 0x0701 => some ⟨.custody, true, none⟩
  | 0x0702 => some ⟨.custody, true, some 3⟩
  | 0x0703 => some ⟨.store, false, none⟩
  | 0x0704 => some ⟨.custody, true, some 3⟩
  | 0x0705 => some ⟨.custody, true, none⟩
  | 0x0706 => some ⟨.custody, true, some 4⟩
  | 0x0707 => some ⟨.custody, true, some 4⟩
  | 0x0708 => some ⟨.custody, true, some 5⟩
  | 0x0709 => some ⟨.custody, true, none⟩
  | 0x070A => some ⟨.custody, true, some 5⟩
  | 0x070B => some ⟨.custody, true, some 6⟩
  | 0x070C => some ⟨.custody, true, some 7⟩
  | 0x070D => some ⟨.custody, true, some 8⟩
  | 0x070E => some ⟨.custody, true, none⟩
  | 0x070F => some ⟨.custody, true, none⟩
  | 0x0710 => some ⟨.custody, true, some 9⟩
  | 0x0711 => some ⟨.custody, true, some 10⟩
  | 0x0712 => some ⟨.custody, true, some 9⟩
  | 0x0713 => some ⟨.custody, true, some 11⟩
  | 0x0714 => some ⟨.custody, true, some 11⟩
  | 0x0801 => some ⟨.custody, true, none⟩
  | 0x0802 => some ⟨.custody, true, none⟩
  | 0x0803 => some ⟨.custody, true, none⟩
  | 0x0804 => some ⟨.custody, true, some 12⟩
  | 0x0805 => some ⟨.custody, true, none⟩
  | 0x0901 => some ⟨.custody, true, some 13⟩
  | 0x0902 => some ⟨.custody, true, none⟩
  | 0x0903 => some ⟨.custody, true, some 14⟩
  | 0x0904 => some ⟨.custody, true, some 9⟩
  | 0x0905 => some ⟨.custody, true, some 9⟩
  | _ => none

/-- The ROUTE byte of a response (Table CM.2). KEY_DERIVE with DEST 1 goes by custody (Table CM.6). -/
def routeOf (m : Msg) : Nat :=
  if m.opcode = 0x0204 ∧ m.param % 4 = 1 then 2
  else match opInfo m.opcode with
    | some ⟨.direct, _, _⟩ => 0
    | some ⟨.store, _, _⟩ => 1
    | _ => 2

end Sys2Proof.Machine
end

