-- ==== Sys2Proof/Machine/Deliver.lean ====
section
/-! DEFINITION. Commands taken, translated, answered and delivered: the mailboxes (R225 to R228), the ITU (R272 to R275), the
completion queues (R281 to R283, R291, R292), the end of a quorum operation (R237) and `complete`, the one way a command
ends. -/

namespace Sys2Proof.Machine

/-! ### Mailboxes -/

/-- The normal-world image's instance number (R267). -/
def nwInst : Nat := 0x100

/-- MBOX_STATUS of mailbox `box` of function `fn` (R224, R242): a VF and the normal-world image have one each. -/
def mboxState (fn box : Nat) : Fld := if fn = 0 then R.mboxStatusState box else ⟨vfOff fn 0x5004, 0, 2, 3⟩
def mboxOverrun (fn box : Nat) : Fld := if fn = 0 then R.mboxStatusOverrun box else ⟨vfOff fn 0x5004, 2, 1, 0⟩
def mboxCount (fn box : Nat) : Fld := if fn = 0 then R.mboxStatusCount box else ⟨vfOff fn 0x5004, 16, 16, 0⟩

/-- The fabric address of a mailbox's 4 KiB message area (Table WP.2). -/
def mboxArea (fn box : Nat) : Nat :=
  if fn = 0 then 0x30100000 + 0x1000 * box else if fn = nwInst then 0x30220000 else 0x30120000 + 0x1000 * (fn - 1)

/-- The door of a mailbox. -/
def mboxOrigin (fn box : Nat) : Origin := if fn = nwInst then .internal else .mbox fn box

/-! ### Translation (R273) -/

/-- What translating one access comes to: a fault of ITU_FAULT's KIND, a page-list entry that must be read, or the bus
address of each page's part with its length. -/
inductive Translated where
  | fault (kind : Nat)
  | miss (win page list : Nat)
  | bus (parts : List (Nat × Nat))
  deriving DecidableEq, Repr

/-- The cached page-list entry. -/
def tlbLook (tlb : List TlbEntry) (fn win page : Nat) : Option Nat :=
  (tlb.find? (fun e => e.fn == fn && e.win == win && e.page == page)).map (·.entry)

/-- Pages `i`, then the next, over the `n` bytes at `a` that remain. -/
def translatePages (tlb : List TlbEntry) (fn win : Nat) (w : Window) : Nat → Nat → Nat → Translated
  | 0, _, _ => .bus []
  | fuel + 1, a, n =>
    if n = 0 then .bus []
    else
      let i := (a - w.ibase) / w.size
      match tlbLook tlb fn win i with
      | none => .miss win i (w.list + 8 * i)
      | some e =>
        if !bitOf e 0 then .fault 3
        else
          let off := (a - w.ibase) % w.size
          let here := min n (w.size - off)
          let base := e / 0x1000 * 0x1000
          match translatePages tlb fn win w fuel (a + here) (n - here) with
          | .bus ps => .bus ((base + off, here) :: ps)
          | other => other

/-- `translate(f, a, n, write)` of R273. -/
def State.translate (s : State) (fn a n : Nat) (write : Bool) : Translated :=
  let table := (look s.host.windows fn).getD []
  match table.findIdx? (fun w => w.covers a n) with
  | none => .fault 1
  | some i =>
    match table[i]? with
    | none => .fault 1
    | some w =>
      if (write && !w.write) || (!write && !w.read) then .fault 2
      else translatePages s.host.tlb fn i w (n / w.size + 2) a n

/-- The ITU records a fault (R274): ITU_FAULT under R59, its count, event source 81, and the journal entry. -/
def State.ituFault (s : State) (fn addr kind : Nat) (write : Bool) : State :=
  let s1 := s.sqcJournal R.ituFaultSeq (fun t => ((((t.put R.ituFaultFunction fn).put R.ituFaultKind kind).putB
    R.ituFaultWrite write).put R.ituFaultAddrAddr addr)) 0x3 fn (fun t =>
      leBytes 4 (t.get R.ituFaultSeq + fn * 2 ^ 16 + kind * 2 ^ 24 + ofBool write * 2 ^ 27) ++ leBytes 8 addr)
  (s1.incSat R.ituFaultCountCount).raise 81

/-- The translations that an access used are the cache's newest: it is replaced least-recently-used (R273). -/
def State.touch (s : State) (fn a n : Nat) : State :=
  match (((look s.host.windows fn).getD []).zipIdx).find? (fun w => w.1.covers a n) with
  | none => s
  | some (w, i) =>
    let used (e : TlbEntry) : Bool :=
      e.fn == fn && e.win == i && decide ((a - w.ibase) / w.size ≤ e.page) && decide (e.page ≤ (a + n - 1 - w.ibase) / w.size)
    { s with host.tlb := s.host.tlb.filter used ++ s.host.tlb.filter (fun e => !used e) }

/-- The outcome of starting a host access: it faulted, it waits for a page-list entry or for data, or it is a write that
has been issued. -/
inductive Started where
  | faulted (kind : Nat)
  | waits
  | done
  deriving DecidableEq, Repr

/-- An access starts or starts again: translated; a list entry or the data is asked for, or the write goes out in parts. -/
def State.access (s0 : State) (fn addr len : Nat) (data : Option Bytes) (p : Purpose) : State × Started :=
  let s := s0.touch fn addr len
  match s.translate fn addr len data.isSome with
  | .fault k => (s.ituFault fn addr k data.isSome, .faulted k)
  | .miss win page list =>
    let id := s.host.nextId
    let s1 := { s with host.nextId := id + 1, host.accesses := ⟨id, fn, addr, len, data, some (win, page), p⟩ :: s.host.accesses }
    ((s1.incMod R.ituMissesCount 1).emit (.hostRead id 0 list 8), .waits)
  | .bus parts =>
    match data with
    | none =>
      let id := s.host.nextId
      let s1 := { s with host.nextId := id + 1, host.accesses := ⟨id, fn, addr, len, none, none, p⟩ :: s.host.accesses }
      (parts.foldl (fun t q => t.emit (.hostRead id fn q.1 q.2)) s1, .waits)
    | some bs =>
      let (s1, _) := parts.foldl (fun (t : State × Bytes) q => (t.1.emit (.hostWrite fn q.1 (t.2.take q.2)), t.2.drop q.2)) (s, bs)
      (s1, .done)

/-! ### Counting commands -/

/-- A command is taken: it gets the device's number and stands among the commands in progress. -/
def State.take (s : State) (m : Msg) : State × Nat :=
  let cid := s.host.nextId
  ({ s with host.nextId := cid + 1, host.cmds := store s.host.cmds cid ⟨{ m with cid := cid }, .route, none, none, none, [], none, []⟩ }, cid)

/-- The command moves to a stage. -/
def State.setStage (s : State) (cid : Nat) (g : Stage) : State :=
  { s with host.cmds := adjust s.host.cmds cid (fun c => { c with stage := g }) }

/-- The counts of commands taken, `d` up or down (QENG_SQ_STATE.TAKEN, QENG_FN_STATE.INFLIGHT, QENG_INFLIGHT.TAKEN). -/
def State.takenUp (s : State) (sq fn : Nat) : State :=
  ((s.put (R.qengSqStateTaken sq) (s.get (R.qengSqStateTaken sq) + 1)).put (R.qengFnStateInflight fn)
    (s.get (R.qengFnStateInflight fn) + 1)).put R.qengInflightTaken (s.get R.qengInflightTaken + 1)

def State.takenDown (s : State) (sq fn : Nat) : State :=
  ((s.put (R.qengSqStateTaken sq) (s.get (R.qengSqStateTaken sq) - 1)).put (R.qengFnStateInflight fn)
    (s.get (R.qengFnStateInflight fn) - 1)).put R.qengInflightTaken (s.get R.qengInflightTaken - 1)

/-! ### Completion queues -/

/-- The body of a COMMAND_UNREPORTED journal entry (Table FL.5). -/
def State.unreported (s : State) (inst tag opcode status reason cause : Nat) : State :=
  s.journal 0x10 inst (leBytes 2 tag ++ leBytes 2 opcode ++ leBytes 2 status ++ leBytes 1 reason ++ leBytes 1 cause)

/-- A queue enters ERROR (R283): QENG_QERR, its count and event source 80. -/
def State.queueError (s : State) (isCq : Bool) (q kind : Nat) : State :=
  let s1 := if isCq then s.put (R.qengCqStateState q) 2 else s.put (R.qengSqStateState q) 2
  let s2 := s1.sqcEvent R.qengQerrSeq (fun t => ((t.putB R.qengQerrCq isCq).put R.qengQerrQueue q).put R.qengQerrKind kind)
  (s2.incSat R.qengQerrCountCount).raise 80

/-- A CQ in ERROR writes none of its pending completions: each goes to the journal (R283). -/
def State.cqError (s : State) (q kind : Nat) : State :=
  let held := ((look s.host.cqs q).map (·.held)).getD []
  let s1 := s.queueError true q kind
  let s2 := held.foldl (fun t e => if e.notice then t else t.unreported e.inst e.tag e.opcode e.status e.reason 3) s1
  let s3 := { s2 with host.cqs := adjust s2.host.cqs q (fun c => { c with held := [] }) }
  (s3.put (R.qengCqStateHeld q) 0).put (R.qengCqStateFull q) 0

/-- The 32 bytes of a CQ entry at free-running index `i` (Table HQ.7). -/
def CqEntry.bytes (e : CqEntry) (i log2 : Nat) : Bytes :=
  let phase := 1 - (i / 2 ^ log2) % 2
  leBytes 2 e.tag ++ leBytes 2 e.status ++ leBytes 2 e.sq ++ leBytes 1 e.reason
    ++ leBytes 1 (phase + 2 * ofBool e.resultWritten + 4 * ofBool e.chain + 8 * ofBool e.notice)
    ++ leBytes 4 e.info ++ leBytes 4 e.key ++ leBytes 4 e.resultLen ++ leBytes 2 e.chainRan ++ leBytes 2 0
    ++ leBytes 8 e.hamper

/-- A message for the CQ's completions so far (R292). -/
def State.cqSignal (s : State) (q : Nat) (c : Cq) : State :=
  let s1 := { s with host.cqs := store s.host.cqs q { c with unsignalled := 0, timer := false } }
  if c.desc.vector = 0xFFFF then s1 else s1.msix c.desc.fn c.desc.vector

/-- A completion is written: it counts towards a message unless NO_EVENT; the first starts the COALESCE_US timer (R292). -/
def State.cqCount (s : State) (q : Nat) (e : CqEntry) : State :=
  match look s.host.cqs q with
  | none => s
  | some c =>
    if e.noEvent && !e.notice then s
    else
      let c1 := { c with unsignalled := c.unsignalled + 1, timer := c.timer || decide (c.desc.coalUs ≠ 0) }
      if c1.unsignalled ≥ max c1.desc.coalCount 1 then s.cqSignal q c1
      else { s with host.cqs := store s.host.cqs q c1 }

/-- The producer index of a CQ is written to its ring header (R276, R281). -/
def State.cqProd (s : State) (q : Nat) : State :=
  match look s.host.cqs q with
  | none => s
  | some c =>
    match s.access c.desc.fn c.desc.header 4 (some (leBytes 4 c.prod)) (.cqProd q) with
    | (s1, .faulted _) => s1.cqError q 3
    | (s1, _) => s1


/-- Whether the CQ has room for an entry (R282). -/
def Cq.room (c : Cq) : Bool := (c.prod + 2 ^ 32 - c.cons) % 2 ^ 32 < 2 ^ c.desc.log2

/-- HELD and FULL of QENG_CQ_STATE follow the held list: FULL while completions wait for room. -/
def State.cqHeld (s : State) (q : Nat) : State :=
  let held := ((look s.host.cqs q).map (·.held)).getD []
  let room := ((look s.host.cqs q).map Cq.room).getD true
  (s.put (R.qengCqStateHeld q) (saturate 0xFFFF held.length)).putB (R.qengCqStateFull q) (!held.isEmpty && !room)

/-- The entry was written at the producer index: the index advances, the header and the message follow (R281). -/
def State.cqWritten (s : State) (q : Nat) (e : CqEntry) : State :=
  match look s.host.cqs q with
  | none => s
  | some c =>
    let s1 := { s with host.cqs := store s.host.cqs q { c with prod := (c.prod + 1) % 2 ^ 32, held := c.held.drop 1 } }
    let s2 := if e.notice then
        s1.put (R.qengFnStateNoticesHeld c.desc.fn) (s1.get (R.qengFnStateNoticesHeld c.desc.fn) - 1) else s1
    ((s2.cqHeld q).cqProd q).cqCount q e

/-- Held completions are written in order while there is room (R282), at most `fuel` of them. -/
def State.cqDrain (s : State) (q : Nat) : Nat → State
  | 0 => s
  | fuel + 1 =>
    match look s.host.cqs q with
    | none => s
    | some c =>
      match c.held with
      | [] => s
      | e :: _ =>
        if s.get (R.qengCqStateState q) ≠ 1 ∨ !c.room
            ∨ s.host.accesses.any (fun a => match a.purpose with | .cqEntry p _ => p == q | _ => false) then s
        else
          let at_ := c.desc.base + 32 * (c.prod % 2 ^ c.desc.log2)
          match s.access c.desc.fn at_ 32 (some (e.bytes c.prod c.desc.log2)) (.cqEntry q e) with
          | (s1, .faulted _) => s1.cqError q 3
          | (s1, .waits) => s1
          | (s1, .done) => (s1.cqWritten q e).cqDrain q fuel

/-- A completion joins its CQ: held, and written if there is room; journalled where the CQ is in ERROR (R283); without an
enabled CQ nothing is written. -/
def State.cqPost (s : State) (q : Nat) (e : CqEntry) : State :=
  match look s.host.cqs q with
  | none => s
  | some c =>
    if s.get (R.qengCqStateState q) = 2 then s.unreported e.inst e.tag e.opcode e.status e.reason 3
    else if s.get (R.qengCqStateState q) = 1 then
      let s1 := ({ s with host.cqs := store s.host.cqs q { c with held := c.held ++ [e] } }).cqHeld q
      s1.cqDrain q (c.held.length + 1)
    else s

/-- A notice to an instance (R291): to its NOTICE_CQ; dropped, counted and raised on source 82 where it has none or 64 wait.
Instance 0x100 receives none. -/
def State.notice (s : State) (inst code info key hamper status : Nat) : State :=
  if inst ≥ nwInst then s
  else
    match look s.host.fns inst with
    | some d =>
      if d.noticeValid ∧ s.is (R.qengFnStateEnabled inst) ∧ s.get (R.qengFnStateNoticesHeld inst) < 64
          ∧ s.get (R.qengCqStateState d.noticeCq) = 1 then
        (s.put (R.qengFnStateNoticesHeld inst) (s.get (R.qengFnStateNoticesHeld inst) + 1)).cqPost d.noticeCq
          ⟨0, status, code, 0, false, false, true, false, info, key, 0, 0, hamper, inst, 0⟩
      else (s.incSat R.qengNoticeDroppedCount).raise 82
    | none => (s.incSat R.qengNoticeDroppedCount).raise 82

/-! ### The end of a quorum operation (R237) -/

/-- A frame waits to be sent at a custodian port (R258). -/
def Port.send (p : Port) (kind : Nat) (body : Bytes) : Port := if p.paired then { p with queue := p.queue ++ [(kind, body)] } else p

/-- A frame for both ports. -/
def State.portsSend (s : State) (kind : Nat) (body : Bytes) : State :=
  { s with quorum.portA := s.quorum.portA.send kind body, quorum.portB := s.quorum.portB.send kind body }

/-- A quorum event: QUORUM_EVENT under R59 and event source 64. -/
def State.quorumEvent (s : State) (kind slot : Nat) : State :=
  (s.sqcEvent R.quorumEventSeq (fun t => (t.put R.quorumEventKind kind).put R.quorumEventSlot slot)).raise 64

/-- The slot's operation ends with an outcome: the record, the table of 256, the QUORUM_CLOSED notice, WITHDRAW at both
ports, and the slot is free (R237, R260). -/
def State.closeSlot (s : State) (slot status : Nat) : State :=
  match look s.quorum.acts slot with
  | none => s
  | some a =>
    let cls := s.get (R.quorumSlotClassClass slot)
    let s1 := s.logAdd 0x30 a.m.inst a.m.tenant (leBytes 4 a.opId ++ leBytes 2 a.m.opcode ++ leBytes 1 cls ++ leBytes 2 status)
    let s2 := { s1 with quorum.acts := drop s1.quorum.acts slot, quorum.outcomes := ((a.opId, status) :: s1.quorum.outcomes).take 256 }
    let was := bitOf (s2.get R.quorumSlotsPending) slot
    let s3 := if was then (s2.putBit R.quorumSlotsPending slot false).put R.quorumStatusPending (s2.get R.quorumStatusPending - 1) else s2
    let s4 := (((s3.put (R.quorumSlotClassState slot) 0).put (R.quorumSlotApprovalsApproved slot) 0).put
      (R.quorumSlotApprovalsEligible slot) 0).put (R.quorumSlotClassPortSeen slot) 0
    let s5 := if a.shown then s4.portsSend 0x13 (leBytes 4 a.opId ++ leBytes 2 status) else s4
    s5.notice a.m.inst 6 a.opId 0 0 status

/-! ### Completing a command -/

/-- The device that answers and its stamp: a follower's where it gave the answer, else this device's (Table CM.2). -/
def State.answerer (s : State) (far : Option (Nat × Nat)) : Nat × Nat := far.getD (s.get R.ferryStatusSelf, s.stamp)

/-- The response is written into a mailbox's message area, STATE becomes DONE, COUNT rises and the mailbox's event is sent on
MBOX_VECTOR (R225 step 4, R292). A result above the 4,032 bytes of the area gives RESULT_TOO_SMALL and the header alone. -/
def State.answerMbox (s : State) (fn box : Nat) (m : Msg) (r : Resp) (far : Option (Nat × Nat)) : State :=
  let big := r.result.length > 4032
  let r1 := if big then { r with status := St.resultTooSmall, result := [] } else r
  let by_ := s.answerer far
  let bytes := responseBytes m by_.1 r1 r.result.length by_.2 ++ r1.result
  let s1 := s.stamped.writeMem (mboxArea fn box) bytes
  let s2 := (s1.put (mboxState fn box) 2).incMod (mboxCount fn box) 1
  match look s2.host.fns fn with
  | some d => if d.mboxVector = 0xFFFF then s2 else s2.msix fn d.mboxVector
  | none => s2

/-- The function whose SQ a command came from, and the queue's number as that function knows it (Table HQ.7). -/
def Sq.localNo (q : Sq) (n : Nat) : Nat := if q.desc.fn = 0 then n else q.desc.loc

/-- The CQ entry of a completion (Table HQ.7, R280). -/
def cqeOf (q : Sq) (n : Nat) (m : Msg) (r : Resp) (written chain : Bool) (ran : Nat) : CqEntry :=
  ⟨m.tag, r.status, q.localNo n, r.reason, written, chain, false, m.noEvent, r.info, r.key, r.result.length, ran, r.hamper,
    m.inst, m.opcode⟩

/-- The chain of SQ `sq` whose entry runs as command `cid`, with what `f` makes of it; one that `f` ends leaves the list. -/
def State.onChain (s : State) (sq cid : Nat) (f : Chain → Option Chain) : State :=
  { s with host.sqs := adjust s.host.sqs sq (fun q =>
      { q with chains := q.chains.filterMap (fun ch => if ch.cur = some cid then f ch else some ch) }) }

/-- What an entry's end makes of its chain (R280): a status other than OK stops it; an entry that a stopped or malformed
chain ends did not run. -/
def Chain.after (ch : Chain) (m : Msg) (r : Resp) (written : Bool) : Chain :=
  { ch with
    cur := none
    ran := if ch.bad || ch.stopped.isSome then ch.ran else ch.ran + 1
    stopped := match ch.stopped with
      | some x => some x
      | none => if r.status = St.ok then none else some (m, r, written) }

/-- A taken ring command ends: the counts fall, and its chain goes on or ends. Answers the chain as it then stands. -/
def State.leaveSq (s : State) (sq cid : Nat) (m : Msg) (r : Resp) (written : Bool) : State × Option Chain :=
  let s1 := ({ s with host.cmds := drop s.host.cmds cid }).takenDown sq m.inst
  let ch := (((look s.host.sqs sq).map (·.chains)).getD []).find? (fun c => c.cur == some cid)
  (s1.onChain sq cid (fun c => if c.waiting.isEmpty then none else some (c.after m r written)), ch.map (·.after m r written))

/-- A ring command's result stands in the host's buffer, or could not be written: a single command posts its CQ entry; in a
chain a status other than OK stops the chain, and the last entry posts for it (R280). The next entry of a chain starts
after it. -/
def State.ringDone (s : State) (sq cid : Nat) (m : Msg) (r : Resp) (written : Bool) : State :=
  let (s1, ch) := s.leaveSq sq cid m r written
  match look s1.host.sqs sq with
  | none => s1
  | some q =>
    match ch with
    | none => s1.cqPost q.desc.cq (cqeOf q sq m r written false 1)
    | some ch =>
      if ch.waiting.isEmpty ∧ ch.silent.isNone then
        let (em, er, ew) := ch.stopped.getD (m, r, written)
        s1.cqPost q.desc.cq (cqeOf q sq em er ew true ch.ran)
      else s1

/-- The next entry of the first chain of SQ `sq` that has none running becomes a command (R280). -/
def State.nextEntry (s : State) (sq : Nat) : State × Option (Nat × Chain) :=
  match look s.host.sqs sq with
  | none => (s, none)
  | some q =>
    match q.chains.findIdx? (fun c => c.cur.isNone && !c.waiting.isEmpty) with
    | none => (s, none)
    | some i =>
      match q.chains[i]? with
      | none => (s, none)
      | some ch =>
        match ch.waiting with
        | [] => (s, none)
        | m :: rest =>
          let (s1, cid) := s.take m
          let s2 := { s1 with
            host.sqs := store s1.host.sqs sq { q with chains := q.chains.set i { ch with waiting := rest, cur := some cid } }
            host.cmds := adjust s1.host.cmds cid (fun c => { c with silent := ch.silent }) }
          (s2, some (cid, ch))

/-- The bytes written to RESULT_ADDR: the response header, then the result, which RESULT_TOO_SMALL leaves out (R230 step
8). -/
def State.ringBytes (s : State) (m : Msg) (r : Resp) (far : Option (Nat × Nat)) : Bytes :=
  let len := r.result.length
  let by_ := s.answerer far
  if 64 + len > m.resultLen then responseBytes m by_.1 { r with status := St.resultTooSmall } len by_.2
  else responseBytes m by_.1 r len by_.2 ++ r.result

/-- The answer as the host sees it once the result's length is held against the buffer (R230 step 8). -/
def fitted (m : Msg) (r : Resp) : Resp :=
  if 64 + r.result.length > m.resultLen then { r with status := St.resultTooSmall } else r

/-- A ring command is answered: its result is written through the ITU; a translation fault completes it with NOT_PERMITTED,
REASON 0x11, and the CQ entry alone (R274). -/
def State.answerRing (s : State) (sq cid : Nat) (m : Msg) (r : Resp) : State :=
  let bytes := s.ringBytes m r ((look s.host.cmds cid).bind Cmd.far)
  let s1 := { s.stamped with host.cmds := adjust s.host.cmds cid (fun c => { c with stage := .answered, resp := some r }) }
  match s1.access m.inst m.resultAddr bytes.length (some bytes) (.result cid) with
  | (s2, .done) => s2.ringDone sq cid m (fitted m r) true
  | (s2, .faulted _) => s2.ringDone sq cid m (Resp.why St.notPermitted 0x11) false
  | (s2, .waits) => s2

/-- The GENERATION_ROLL of EPOCH waypoint `n` has ended (Table CT.7, R311): the outcome goes to the journal, and a refused one
marks its firing FAILED where COMPASS_WP_FIRE still holds it. -/
def State.rolled (s : State) (n : Nat) (late : Bool) (status : Nat) : State :=
  let bad := status != St.ok
  let s1 := if bad ∧ s.get R.compassWpFireNumber = n ∧ R.compassWpFireSeq.off ∈ s.iface.sqcHeld then s.put R.compassWpFireFailed 1 else s
  s1.journal 0x20 0xFFFF (leBytes 1 n ++ leBytes 1 3 ++ leBytes 1 (ofBool late) ++ leBytes 1 0 ++ leBytes 1 (ofBool bad)
    ++ leBytes 2 status)

/-- Command `cid` ends with `r`: the answer goes out by the door it came through; a silent command goes to the journal
(R228, R268); a released act ends its slot with the status (R237). -/
def State.complete (s : State) (cid : Nat) (r0 : Resp) : State :=
  match look s.host.cmds cid with
  | none => s
  | some c =>
    let r := { r0 with route := routeOf c.m }
    let s0 := if c.m.origin = .firmware then s else s.emit (.response c.m.origin cid c.m.tag c.m.opcode c.m.inst r)
    match c.silent with
    | some cause =>
      let s1 := match c.m.origin with
        | .ring q => (s0.leaveSq q cid c.m r false).1
        | _ => { s0 with host.cmds := drop s0.host.cmds cid }
      s1.unreported c.m.inst c.m.tag c.m.opcode r.status r.reason cause
    | none =>
      match c.m.origin with
      | .mbox fn box => { s0 with host.cmds := drop s0.host.cmds cid }.answerMbox fn box c.m r c.far
      | .internal => { s0 with host.cmds := drop s0.host.cmds cid }.answerMbox nwInst 0 c.m r c.far
      | .ring q => s0.answerRing q cid c.m r
      | .ferry xtag =>
        let bytes := responseBytes c.m (s.get R.ferryStatusSelf) r r.result.length s0.stamp ++ r.result
        ({ s0.stamped with host.cmds := drop s0.host.cmds cid }).sendMessage s0.upstream 5 0 xtag bytes
      | .firmware =>
        let s1 := { s0 with host.cmds := drop s0.host.cmds cid }
        match look s1.quorum.acting cid with
        | some slot => ({ s1 with quorum.acting := drop s1.quorum.acting cid }).closeSlot slot r.status
        | none => if c.m.opcode = 0x0405 then s1.rolled c.m.tag (bitOf c.m.flags 0) r.status else s1

/-- Every command that `p` picks ends with the status. -/
def State.completeAll (s : State) (p : Cmd → Bool) (status : Nat) : State :=
  (s.host.cmds.filter (fun c => p c.2)).foldl (fun t c => t.complete c.1 (Resp.of status)) s

end Sys2Proof.Machine
end

