-- ==== Sys2Proof/Machine/Quorum.lean ====
section
/-! DEFINITION. Custodians and the quorum unit (chapter 9): records, policies, slots, approvals by token and by pad. -/

namespace Sys2Proof.Machine

/-! ### Custodians and policies -/

/-- The custodian key (R246). -/
def State.custodianKey (s : State) : Bytes := kdf s.keys.idSeeds "CUST" s.life.serial 256

/-- The table key of a custodian: a device position, or a tenant's. -/
def custKey (tenant : Option Nat) (pos : Nat) : Nat :=
  match tenant with | none => pos | some t => 0x1000 + 8 * t + pos

/-- The positions of a kind (R245). -/
def positions (tenant : Option Nat) : Nat := if tenant.isNone then 16 else 8

/-- The custodian enrolled at a position; none in a table whose CMAC fails (R246). -/
def State.custodian (s : State) (tenant : Option Nat) (pos : Nat) : Option Custodian :=
  if s.quorum.tablesFailed then none else look s.quorum.custodians (custKey tenant pos)

/-- A device custodian's entry replaced. -/
def State.setCustodian (s : State) (pos : Nat) (c : Custodian) : State :=
  { s with quorum.custodians := store s.quorum.custodians (custKey none pos) c }

/-- The mask of enrolled custodians. -/
def State.enrolled (s : State) (tenant : Option Nat) : Nat :=
  ((List.range (positions tenant)).filter (fun p => (s.custodian tenant p).isSome)).foldl (fun a p => a + 2 ^ p) 0

/-- The +P classes of Table DC.3; TAMPER_RESPONSE_SET is +P when loosening (R248). -/
def isPpClass (cls : Nat) : Bool := cls == 10 || cls == 12 || cls == 13

/-- The device classes of Table DC.3. -/
def deviceClasses : List Nat := [1, 2, 3, 4, 5, 6, 7, 8, 9, 10, 11, 12, 13, 14]

/-- The policy table's key of a class (for a tenant class, of the tenant). -/
def policyKey (cls tenant : Nat) : Nat := if cls < 16 then cls else cls * 0x1000 + tenant

/-- The policy in force, else the factory default of Table DC.3. -/
def State.policy (s : State) (cls tenant : Nat) : Policy :=
  (look s.quorum.policies (policyKey cls tenant)).getD ⟨none, if cls = 13 ∨ cls = 14 then 3 else 2, 180000⟩

/-- Whether a class of that code is a tenant class. -/
def tenantOf (cls tenant : Nat) : Option Nat := if cls < 16 then none else some tenant

/-- The enrolled custodians that a class's mask makes eligible (R248). -/
def State.eligible (s : State) (cls tenant : Nat) : Nat :=
  let all := s.enrolled (tenantOf cls tenant)
  match (s.policy cls tenant).mask with
  | none => all
  | some k => all &&& k

/-- Whether some device custodian in `mask` has PORT set and no PIN_PENDING. -/
def State.hasPad (s : State) (mask : Nat) : Bool :=
  (List.range 16).any (fun p => bitOf mask p &&
    match s.custodian none p with | some c => c.port && !c.pinPending | none => false)

/-- Whether some device custodian in `mask` has PORT set. -/
def State.hasPort (s : State) (mask : Nat) : Bool :=
  (List.range 16).any (fun p => bitOf mask p && match s.custodian none p with | some c => c.port | none => false)

/-! ### Whether an act needs its quorum (R250) -/

/-- What R250 makes of an act of a class. -/
inductive QuorumPath where
  | runNow
  | refused (status : Nat)
  /-- A slot of this class code, for tenant custodians of `tenant` where it is a tenant class. -/
  | slot (cls tenant : Nat)
  deriving DecidableEq, Repr

/-- R250: MAKER and RETURNED apply no quorum; a tenant without custodians is approved under the TENANT class; in INTEGRATOR a
class short of custodians runs at once, a +P act is refused. -/
def State.quorumPath (s : State) (cls tenant : Nat) (pp : Bool) : QuorumPath :=
  let life := s.get R.devStatusLife
  if life = 0 ∨ life = 3 then .runNow
  else
    let c := if cls ≥ 16 ∧ s.enrolled (some tenant) = 0 then 1 else cls
    let mask := s.eligible c tenant
    let short := popcount 16 mask < (s.policy c tenant).m
    if life = 1 ∧ c < 16 then
      if pp then
        if short ∨ !s.hasPad mask then .refused St.notPermitted else .slot c tenant
      else if short then .runNow else .slot c tenant
    else .slot c tenant

/-! ### Slots (R236, R251) -/

/-- The lowest free slot of the quorum unit; which one is the model's choice (log entry 8). -/
def State.freeSlot (s : State) : Option Nat := (List.range 32).find? (fun i => s.get (R.quorumSlotClassState i) == 0)

/-- The operation digest (R236). -/
def State.opDigest (s : State) (m : Msg) (opId : Nat) : Bytes :=
  Config.sha384 (headerBytes { m with inst := 0, tag := 0, payloadAddr := 0, resultAddr := 0, resultLen := 0 }
    ++ m.payload.take m.payloadLen ++ s.life.serial ++ leBytes 4 opId)

/-- The SHOW payload of a slot (Table DC.7). -/
def State.showBody (s : State) (slot : Nat) (a : Act) : Bytes :=
  leBytes 4 a.opId ++ leBytes 2 a.m.opcode ++ leBytes 1 (s.get (R.quorumSlotClassClass slot))
    ++ leBytes 2 (s.get (R.quorumSlotClassTenant slot)) ++ a.digest.take 8 ++ leBytes 6 (s.get (R.quorumSlotDeadlineCycle slot))
    ++ leBytes 1 (popcount 16 (s.get (R.quorumSlotApprovalsApproved slot))) ++ leBytes 1 (s.get (R.quorumSlotClassM slot))

/-- A slot opens for the act: class, tenant, digest, mask and M in force, and the deadline (R251); SHOW where R260 says so.
Answers the response QUORUM_PENDING or QUORUM_FULL. -/
def State.openSlot (s : State) (m : Msg) (cls tenant : Nat) (pp : Bool) : State × Resp :=
  match s.freeSlot with
  | none => (s, Resp.of St.quorumFull)
  | some n =>
    let opId := (s.quorum.serial % 2 ^ 27) * 32 + n
    let digest := s.opDigest m opId
    let mask := s.eligible cls tenant
    let p := s.policy cls tenant
    let showIt := pp || (decide (cls < 16) && s.hasPort mask)
    let s1 := { s with quorum.serial := s.quorum.serial + 1, quorum.acts := store s.quorum.acts n ⟨m, digest, opId, showIt⟩ }
    let s2 := ((((((((s1.put (R.quorumSlotIdOperationId n) opId).put (R.quorumSlotClassClass n) cls).putB
      (R.quorumSlotClassTenantKind n) (decide (cls ≥ 16))).putB (R.quorumSlotClassPp n) pp).put (R.quorumSlotClassPortSeen n)
      0).put (R.quorumSlotClassM n) p.m).put (R.quorumSlotClassState n) 1).put (R.quorumSlotClassTenant n)
      (if cls ≥ 16 then tenant else 0)).put (R.quorumSlotApprovalsApproved n) 0
    let s3 := ((s2.put (R.quorumSlotApprovalsEligible n) mask).put (R.quorumSlotDeadlineCycle n)
      (s.compass.count + p.timeout)).putBit R.quorumSlotsPending n true
    let s4 := s3.put R.quorumStatusPending (s3.get R.quorumStatusPending + 1)
    let s5 := if showIt then s4.portsSend 0x10 (s4.showBody n ⟨m, digest, opId, showIt⟩) else s4
    (s5, { Resp.of St.quorumPending with info := opId, result := digest })

/-- Whether slot `n` pends for operation `op`. -/
def State.slotPends (s : State) (op : Nat) : Bool :=
  s.get (R.quorumSlotClassState (op % 32)) == 1 && s.get (R.quorumSlotIdOperationId (op % 32)) == op

/-- An approval bit is set; the slot completes once it has M approvals and, for a +P act, one that came through a port
(R253): it is then released to the custody firmware once. -/
def State.approveBit (s : State) (n pos : Nat) (byPort : Bool) : State :=
  let s1 := s.putBit (R.quorumSlotApprovalsApproved n) pos true
  let s2 := if byPort then s1.put (R.quorumSlotClassPortSeen n) 1 else s1
  if popcount 16 (s2.get (R.quorumSlotApprovalsApproved n)) ≥ s2.get (R.quorumSlotClassM n)
      ∧ (s2.is (R.quorumSlotClassPp n) = false ∨ s2.is (R.quorumSlotClassPortSeen n)) then
    (((s2.put (R.quorumSlotClassState n) 2).putBit R.quorumSlotsPending n false).put R.quorumStatusPending
      (s2.get R.quorumStatusPending - 1)).quorumEvent 1 n
  else s2

/-- A pending slot ends early: its event (2 timeout, 3 cancelled) and its outcome. -/
def State.endSlot (s : State) (n kind status : Nat) : State := (s.quorumEvent kind n).closeSlot n status

/-- Every pending slot that `p` picks ends with QUORUM_CANCELLED. -/
def State.cancelSlots (s : State) (p : State → Nat → Bool) : State :=
  (List.range 32).foldl (fun t n => if t.get (R.quorumSlotClassState n) = 1 ∧ p t n then t.endSlot n 3 St.quorumCancelled else t) s

/-- Deadlines are compared at a counted crossing (R254): slot `n` ends with QUORUM_TIMEOUT once the count has reached its
deadline. -/
def State.deadline (s : State) (n : Nat) : State :=
  if s.get (R.quorumSlotClassState n) = 1 ∧ s.compass.count ≥ s.get (R.quorumSlotDeadlineCycle n) then
    s.endSlot n 2 St.quorumTimeout
  else s

/-- Every slot's deadline is compared. -/
def State.deadlines (s : State) : State := (List.range 32).foldl (fun t n => t.deadline n) s

/-! ### Acts on custodians (R247, R249) -/

/-- A custodian act's target: the tenant for CLASS 1. -/
def custTarget (p : Bytes) : Option Nat := if le p 0 1 = 0 then none else some (le p 2 2)

/-- The layout of Table DC.2, with the length of the key an enrolment carries. -/
def custPayloadOk (p : Bytes) (len : Nat) (enrol : Bool) : Bool :=
  let cls := le p 0 1
  let keyLen := if le p 4 1 = 1 then 97 else 1952
  decide (cls ≤ 1) && decide (le p 1 1 < (if cls = 0 then 16 else 8)) && decide (if cls = 0 then le p 2 2 = 0 else le p 2 2 < 4096)
    && decide (le p 7 1 = 0)
    && (if enrol then decide (le p 4 1 = 1 ∨ le p 4 1 = 2) && decide (le p 5 1 ≤ 1) && decide (le p 6 1 ≤ 1) && decide (len = 8 + keyLen)
        else decide (le p 4 3 = 0) && decide (len = 8))

/-- CUSTODIAN_ENROL (R247): an occupied position, or a tenant custodian with PORT, is refused. -/
def custodianEnrol (m : Msg) (s : State) : State × Resp :=
  let p := m.payload
  if !custPayloadOk p m.payloadLen true then (s, Resp.of St.lengthInvalid)
  else
    let t := custTarget p
    let pos := le p 1 1
    let port := bitOf (le p 5 1) 0
    if (s.custodian t pos).isSome ∨ (t.isSome ∧ port) then (s, Resp.of St.notPermitted)
    else
      let key := (p.drop 8).take (m.payloadLen - 8)
      let c : Custodian := ⟨(Config.sha384 key).take 16, le p 4 1, port, port, 0, [], 0, le p 6 1⟩
      ({ s with quorum.custodians := store s.quorum.custodians (custKey t pos) c, quorum.tablesFailed := false }, Resp.of St.ok)

/-- The classes whose eligible custodians a removal may touch. -/
def classesOf (t : Option Nat) : List Nat := if t.isNone then deviceClasses else [16, 17]

/-- CUSTODIAN_REMOVE (R247): refused where a class would be left with fewer eligible custodians than its M, or a +P class
without its pad; else its approvals go and slots that can no longer complete are cancelled. -/
def custodianRemove (m : Msg) (s : State) : State × Resp :=
  let p := m.payload
  if !custPayloadOk p m.payloadLen false then (s, Resp.of St.lengthInvalid)
  else
    let t := custTarget p
    let pos := le p 1 1
    if (s.custodian t pos).isNone then (s, Resp.of St.notPermitted)
    else
      let s1 := { s with quorum.custodians := drop s.quorum.custodians (custKey t pos) }
      let ten := t.getD 0
      let short := (classesOf t).any (fun c => decide (popcount 16 (s1.eligible c ten) < (s1.policy c ten).m))
      let noPad := t.isNone && [7, 10, 12, 13].any (fun c => s.hasPad (s.eligible c 0) && !s1.hasPad (s1.eligible c 0))
      if short || noPad then (s, Resp.of St.notPermitted)
      else
        let mine : State → Nat → Bool := fun u n => match t with
          | none => !u.is (R.quorumSlotClassTenantKind n)
          | some k => u.is (R.quorumSlotClassTenantKind n) && u.get (R.quorumSlotClassTenant n) == k
        let s2 := (List.range 32).foldl (fun u n =>
          if u.get (R.quorumSlotClassState n) = 1 ∧ mine u n then u.putBit (R.quorumSlotApprovalsApproved n) pos false else u) s1
        let s3 := s2.cancelSlots (fun u n => mine u n &&
          decide (popcount 16 (u.get (R.quorumSlotApprovalsEligible n) &&& u.enrolled t) < u.get (R.quorumSlotClassM n)))
        (s3, Resp.of St.ok)

/-- QUORUM_POLICY_SET (R249). -/
def quorumPolicySet (m : Msg) (s : State) : State × Resp :=
  let p := m.payload
  let cls := le p 0 1
  let ten := le p 8 2
  let known := deviceClasses.contains cls || cls == 16 || cls == 17
  if m.payloadLen ≠ 16 ∨ !known ∨ le p 10 6 ≠ 0 ∨ (cls < 16 ∧ ten ≠ 0) ∨ ten ≥ 4096 then (s, Resp.of St.lengthInvalid)
  else
    let needed := le p 1 1
    let mask := le p 2 2
    let timeout := le p 4 4
    let among := s.enrolled (tenantOf cls ten) &&& mask
    let pp := isPpClass cls || cls == 7
    if needed = 0 ∨ needed > popcount 16 among ∨ timeout < 1000 ∨ timeout > 4000000 ∨ (pp ∧ !s.hasPort among)
        ∨ (s.get R.devStatusLife = 2 ∧ cls < 16 ∧ needed < 2) then (s, Resp.of St.keyAttributes)
    else
      let s1 := { s with quorum.policies := store s.quorum.policies (policyKey cls ten) ⟨some mask, needed, timeout⟩ }
      let s2 := s1.cancelSlots (fun u n => u.get (R.quorumSlotClassClass n) == cls
        && (decide (cls < 16) || u.get (R.quorumSlotClassTenant n) == ten))
      (s2, Resp.of St.ok)

/-! ### Approval tokens (R252, R256) -/

/-- The layout of a token (Table DC.5). -/
def tokenLayoutOk (p : Bytes) (len : Nat) : Bool :=
  let kind := le p 1 1
  let pk := le p 72 2
  let sg := le p 74 2
  decide (80 ≤ len) && decide (le p 0 1 = 1) && decide ((kind = 1 ∧ pk = 97 ∧ sg = 96) ∨ (kind = 2 ∧ pk = 1952 ∧ sg = 3309))
    && decide (len = 80 + pk + sg) && decide (le p 4 2 < 4096) && decide (le p 6 2 = 0) && decide (le p 12 4 = 0)
    && decide (le p 22 2 = 0) && decide (le p 76 4 = 0)

/-- The first refusal of a token before its signature is looked at (R252 checks 1 to 6): status and REASON. -/
def State.tokenRefusal (s : State) (p : Bytes) (len : Nat) : Option (Nat × Nat) :=
  let op := le p 8 4
  let n := op % 32
  let pos := le p 2 1
  let notAfter := le p 16 8
  let tk := if s.is (R.quorumSlotClassTenantKind n) then some (s.get (R.quorumSlotClassTenant n)) else none
  let pk := (p.drop 80).take (le p 72 2)
  let state := s.get R.compassStatusState
  if !tokenLayoutOk p len then some (St.lengthInvalid, 0)
  else if !s.slotPends op then some (St.operationUnknown, 0)
  else if le p 3 1 ≠ s.get (R.quorumSlotClassClass n) ∨ le p 4 2 ≠ s.get (R.quorumSlotClassTenant n) then some (St.tokenInvalid, 1)
  else if some (slice p 24 48) ≠ (look s.quorum.acts n).map (·.digest) then some (St.tokenInvalid, 2)
  else if !(match s.custodian tk pos with
      | some c => (c.digest == (Config.sha384 pk).take 16) && bitOf (s.get (R.quorumSlotApprovalsEligible n)) pos
      | none => false) then some (St.tokenInvalid, 3)
  else if notAfter ≠ 0 ∧ (state = 0 ∨ state = 1) then some (St.tokenInvalid, 5)
  else if notAfter ≠ 0 ∧ notAfter < s.compass.count then some (St.tokenInvalid, 4)
  else none

/-- The 3 result bytes of an accepted approval (R252). -/
def State.approvalResult (s : State) (n : Nat) : Bytes :=
  leBytes 1 (popcount 16 (s.get (R.quorumSlotApprovalsApproved n))) ++ leBytes 1 (s.get (R.quorumSlotClassM n))
    ++ leBytes 1 (s.get (R.quorumSlotClassPortSeen n))

/-- A refused token is counted and changes nothing else (R252). -/
def State.tokenRefused (s : State) (m : Msg) : State :=
  (s.incSat R.quorumTokenRefusedCount).quorumEvent 4 (if s.slotPends (le m.payload 8 4) then le m.payload 8 4 % 32 else 0)

/-- An accepted token (R252): its custodian's bit is set, where it is not set yet. -/
def State.tokenTaken (s : State) (m : Msg) : State :=
  let n := le m.payload 8 4 % 32
  let pos := le m.payload 2 1
  if bitOf (s.get (R.quorumSlotApprovalsApproved n)) pos then s else s.approveBit n pos false

/-- OPERATION_STATUS_GET (R237): state (1 pending, 2 complete, 3 released, 4 ended) and status; the layout is the model's
choice (log entry 9). -/
def operationStatusGet (m : Msg) (s : State) : State × Resp :=
  let op := le m.payload 0 4
  if m.payloadLen ≠ 4 then (s, Resp.of St.lengthInvalid)
  else
    let n := op % 32
    if s.get (R.quorumSlotClassState n) ≠ 0 ∧ s.get (R.quorumSlotIdOperationId n) = op then
      (s, Resp.okay (leBytes 1 (s.get (R.quorumSlotClassState n)) ++ leBytes 2 St.quorumPending))
    else match s.quorum.outcomes.find? (fun o => o.1 == op) with
      | some (_, st) => (s, Resp.okay (leBytes 1 4 ++ leBytes 2 st))
      | none => (s, Resp.of St.operationUnknown)

/-- OPERATION_CANCEL (R237, Table CM.6): from the starting instance or the PF. -/
def operationCancel (m : Msg) (s : State) : State × Resp :=
  let op := le m.payload 0 4
  if m.payloadLen ≠ 4 then (s, Resp.of St.lengthInvalid)
  else if !s.slotPends op then (s, Resp.of St.operationUnknown)
  else match look s.quorum.acts (op % 32) with
    | some a =>
      if m.inst = 0 ∨ m.inst = a.m.inst then (s.endSlot (op % 32) 3 St.quorumCancelled, Resp.of St.ok)
      else (s, Resp.of St.notPermitted)
    | none => (s, Resp.of St.operationUnknown)

/-! ### Custodian ports (R257 to R262) -/

/-- Port `p` (0 CUST_A, 1 CUST_B), and the state with it replaced. -/
def State.port (s : State) (p : Nat) : Port := if p = 0 then s.quorum.portA else s.quorum.portB
def State.setPort (s : State) (p : Nat) (x : Port) : State :=
  if p = 0 then { s with quorum.portA := x } else { s with quorum.portB := x }

/-- QUORUM_STATUS.PORT_A or PORT_B, and the change that raises source 65 or 66. -/
def portFld (p : Nat) : Fld := if p = 0 then R.quorumStatusPortA else R.quorumStatusPortB
def State.setPortState (s : State) (p v : Nat) : State := if s.get (portFld p) = v then s else (s.put (portFld p) v).raise (65 + p)

/-- The session ends and the port goes DOWN (R259). -/
def State.portDown (s : State) (p : Nat) : State :=
  ((s.setPort p { s.port p with session := [], discards := 0, silent := 0, queue := [] }).setPortState p 1).quorumEvent 7 0

/-- A frame from the pad is judged (R259): `true` where it is accepted. Discards are counted; three in a row, or 100
transactions without a valid frame, take the port DOWN. -/
def State.judgeFrame (s : State) (p : Nat) (f : PadFrame) : State × Bool :=
  let x := s.port p
  if f.empty then
    let s1 := s.setPort p { x with silent := x.silent + 1 }
    (if x.silent + 1 ≥ 100 then s1.portDown p else s1, false)
  else if f.tagOk && f.seq == x.rxSeq + 1 then
    (s.setPort p { x with rxSeq := f.seq, discards := 0, silent := 0 }, true)
  else
    let s1 := s.incSat (if p = 0 then R.quorumPortErrDiscardA else R.quorumPortErrDiscardB)
    let s2 := s1.setPort p { x with discards := x.discards + 1, silent := x.silent + 1 }
    (if x.discards + 1 ≥ 3 ∨ x.silent + 1 ≥ 100 then s2.portDown p else s2, false)

/-- The device sends a frame at a port: its number is one above the last (Table DC.6). -/
def State.sendFrame (s : State) (p kind : Nat) (body : Bytes) : State :=
  let x := s.port p
  (s.setPort p { x with txSeq := x.txSeq + 1 }).emit (.portFrame p kind (padTo 104 body))

/-- The device custodian whose PIN is pending at a port, the lowest first (R261). -/
def State.pinPendingAt (s : State) (p : Nat) : Option Nat :=
  (List.range 16).find? (fun i => match s.custodian none i with | some c => c.pinPending && c.enrolPort == p | none => false)

/-- One transaction at a paired port (R258): the frame that waits goes out, else PIN_SET_REQ while a PIN is pending, else 128
zero bytes; the frame that came in is judged. -/
def State.portExchange (s : State) (p : Nat) (f : PadFrame) : State :=
  if !(s.port p).paired ∨ s.get (portFld p) < 2 then s
  else
    let x := s.port p
    let s1 := match x.queue with
      | (k, b) :: rest => (s.setPort p { x with queue := rest }).sendFrame p k b
      | [] =>
        match (if s.get (portFld p) = 3 then s.pinPendingAt p else none) with
        | some pos => s.sendFrame p 0x20 (leBytes 1 pos)
        | none => s
    (s1.judgeFrame p f).1

/-- HELLO_ACK (R259): while the session opens, the pad's nonce sets the session key and the port is UP. -/
def State.helloAck (s : State) (p : Nat) (f : PadFrame) (padNonce : Bytes) : State :=
  if s.get (portFld p) ≠ 2 then s
  else
    let (s1, ok) := s.judgeFrame p f
    if ok then
      let x := s1.port p
      let key := kdf x.key "PORT" (x.nonce ++ padNonce ++ leBytes 1 p) 256
      (s1.setPort p { x with session := key }).setPortState p 3
    else s1

/-- The PIN verifier (Table DC.1). -/
def State.pinVerifier (s : State) (pos : Nat) (pin : Bytes) : Bytes :=
  (Config.hmac384 s.custodianKey (ascii "PIN" ++ leBytes 1 pos ++ pin)).take 16

/-- A PIN of 6–12 ASCII digits (R260). -/
def pinOk (pin : Bytes) : Bool :=
  decide (6 ≤ pin.length) && decide (pin.length ≤ 12) && pin.all (fun b => decide (0x30 ≤ b.toNat) && decide (b.toNat ≤ 0x39))

/-- The RESULT frame of an APPROVE or PIN_SET (Table DC.7). -/
def State.padResult (s : State) (p op code : Nat) : State :=
  let n := op % 32
  s.setPort p ((s.port p).send 0x12 (leBytes 4 op ++ leBytes 1 code
    ++ leBytes 1 (popcount 16 (s.get (R.quorumSlotApprovalsApproved n))) ++ leBytes 1 (s.get (R.quorumSlotClassM n))))

/-- A wrong PIN (R260): PIN_FAILS rises; the fifth in a row suspends the custodian's port approvals for 180,000 mc. -/
def State.wrongPin (s : State) (p n pos : Nat) (c : Custodian) : State :=
  let before := if c.suspendUntil ≠ 0 then 0 else c.pinFails
  let fails := before + 1
  let s1 := (s.incSat R.quorumTokenRefusedPinFails).quorumEvent 5 n
  if fails ≥ 5 then
    let s2 := s1.setCustodian pos { c with pinFails := 5, suspendUntil := s.compass.count + 180000 }
    (s2.quorumEvent 6 n).logAdd 0x31 0xFFFF 0xFFFF (leBytes 1 pos ++ leBytes 1 p)
  else s1.setCustodian pos { c with pinFails := fails, suspendUntil := 0 }

/-- APPROVE (R260): the RESULT code, and the approval where it counts. -/
def State.padApprove (s : State) (p op pos : Nat) (pin digest : Bytes) : State :=
  let n := op % 32
  if !s.slotPends op ∨ some (digest.take 8) ≠ (look s.quorum.acts n).map (fun a => a.digest.take 8) then s.padResult p op 3
  else match (if s.is (R.quorumSlotClassTenantKind n) then none else s.custodian none pos) with
    | none => s.padResult p op 2
    | some c =>
      if !bitOf (s.get (R.quorumSlotApprovalsEligible n)) pos ∨ !c.port then s.padResult p op 2
      else if c.pinPending then s.padResult p op 6
      else if s.compass.count < c.suspendUntil then s.padResult p op 4
      else if !(pinOk pin && c.verifier == s.pinVerifier pos pin) then (s.wrongPin p n pos c).padResult p op 1
      else
        let s1 := s.setCustodian pos { c with pinFails := 0, suspendUntil := 0 }
        if bitOf (s1.get (R.quorumSlotApprovalsApproved n)) pos then
          s1.padResult p op 5
        else (s1.approveBit n pos true).padResult p op 0

/-- PIN_SET (R261): two PINs that agree and are 6–12 digits set the verifier of a pending custodian. -/
def State.padPinSet (s : State) (p pos : Nat) (pin pin2 : Bytes) : State :=
  match s.custodian none pos with
  | some c =>
    if c.pinPending ∧ c.enrolPort = p ∧ pin = pin2 ∧ pinOk pin then
      (s.setCustodian pos { c with pinPending := false, verifier := s.pinVerifier pos pin, pinFails := 0 }).padResult p 0 0
    else s.padResult p 0 6
  | none => s.padResult p 0 6

/-! ### The meanings of this chapter's rows -/

/-- QUORUM_TIMEOUT: the deadline of slot `slot` is compared (R254). -/
def execQuorumTimeout (slot : Nat) (s : State) : Host.Outcome State Fault Refusal := .next (s.deadline slot)

/-- PORT_TRANSACTION (R258). -/
def execPortTransaction (port : Nat) (f : PadFrame) (s : State) : Host.Outcome State Fault Refusal := .next (s.portExchange port f)

/-- HELLO_ACK (R259). -/
def execHelloAck (port : Nat) (f : PadFrame) (nonce : Bytes) (s : State) : Host.Outcome State Fault Refusal :=
  .next (s.helloAck port f nonce)

/-- APPROVE (R260): a frame that is accepted on a port that is UP. -/
def execApprove (port : Nat) (f : PadFrame) (op pos : Nat) (pin digest : Bytes) (s : State) : Host.Outcome State Fault Refusal :=
  .next (if s.get (portFld port) = 3 then
    let (s1, ok) := s.judgeFrame port f
    if ok then s1.padApprove port op pos pin digest else s1
  else s)

/-- PIN_SET (R261). -/
def execPinSet (port : Nat) (f : PadFrame) (pos : Nat) (pin pin2 : Bytes) (s : State) : Host.Outcome State Fault Refusal :=
  .next (if s.get (portFld port) = 3 then
    let (s1, ok) := s.judgeFrame port f
    if ok then s1.padPinSet port pos pin pin2 else s1
  else s)

/-- KEEPALIVE (R259). -/
def execKeepalive (port : Nat) (f : PadFrame) (s : State) : Host.Outcome State Fault Refusal :=
  .next (if s.get (portFld port) ≥ 2 then (s.judgeFrame port f).1 else s)

end Sys2Proof.Machine
end

