-- ==== Sys2Proof/Machine/Draws.lean ====
section
/-! DEFINITION. Draws from the DRBG (R208, R210, R212, R215) and what a command's meaning answers. -/

namespace Sys2Proof.Machine

/-- What a command's meaning comes to: an answer; a wait for store pages, for entropy or for a slot, after which it is run
again; or the command has been handed to an engine or lies in a batch, and ends there. -/
inductive Answer where
  | resp (r : Resp)
  | wait (needs : List Nat)
  | engine
  | staged
  deriving DecidableEq, Repr

/-- The `needs` of a command that waits for the DRBG (R165, R216), for SCRAMBLE_READY and MASK_READY (R102), or for the
store to reopen or a format to end (R115, R478). Every other number is a page key. -/
def needEntropy : Nat := 2 ^ 64
def needSlots : Nat := 2 ^ 64 + 1
def needStore : Nat := 2 ^ 64 + 2

/-- The `needs` of a command that is held until a live update has switched (R87), and of an act of R82 that waits for the jobs it
aborted to leave their slots. -/
def needSwitch : Nat := 2 ^ 64 + 3
def needWipe : Nat := 2 ^ 64 + 4

/-- The `needs` of a command that waits for an entry of the SKE queue (R187). -/
def needRoom : Nat := 2 ^ 64 + 5

/-- The answer with a status alone, and with a REASON. -/
def Answer.of (st : Nat) : Answer := .resp (Resp.of st)
def Answer.why (st reason : Nat) : Answer := .resp (Resp.why st reason)
def Answer.okay (b : Bytes) : Answer := .resp (Resp.okay b)

/-- The mc that have passed since the last reseed. -/
def State.mcSinceReseed (s : State) : Nat := s.compass.mc - s.trng.reseedMc

/-- A reseed is due (R212): a limit of TRNG_RESEED_CFG is reached. -/
def State.reseedDue (s : State) : Bool :=
  decide (s.get R.trngCallsSinceReseed ≥ 2 ^ s.get R.trngReseedCfgCallsLog2) || decide (s.mcSinceReseed ≥ s.get R.trngReseedCfgMc)

/-- The DRBG serves: FULL or REDUCED (Table EN.3). -/
def State.drbgUp (s : State) : Bool := s.get R.trngStateDrbg == 2 || s.get R.trngStateDrbg == 3

/-- A generate call runs now: the DRBG serves, no reseed holds it (R212) and the TRNG is not quiesced (R55). -/
def State.canDraw (s : State) : Bool := s.drbgUp && !s.reseedDue && !s.is (R.hdrCtrlQuiesce 0x90000)

/-! ### The AES-256 CTR_DRBG (R210, SP 800-90A) -/

/-- V advanced by `n` (16 bytes, big-endian). -/
def vPlus (v : Bytes) (n : Nat) : Bytes := beBytes 16 ((ofBe v + n) % 2 ^ 128)

/-- Byte `i` of the output of a generate call under Key and V. -/
def ctrByte (k v : Bytes) (i : Nat) : BitVec 8 := Config.aesByte k (vPlus v (i / 16 + 1)) (i % 16)

/-- CTR_DRBG_Update with 48 bytes of provided data, V standing `n` blocks on: the new Key and V. -/
def drbgUpdate (k v : Bytes) (n : Nat) (data : Bytes) : Bytes × Bytes :=
  let t := xorBytes ((List.range 48).map (ctrByte k (vPlus v n))) data
  (t.take 32, t.drop 32)

/-- BCC of SP 800-90A: the chain over blocks of 16 bytes, at most `fuel` of them. -/
def drbgBcc (k : Bytes) : Nat → Bytes → Bytes → Bytes
  | 0, chain, _ => chain
  | fuel + 1, chain, d => if d.isEmpty then chain else drbgBcc k fuel (Config.aes256 k (xorBytes chain (d.take 16))) (d.drop 16)

/-- Block_Cipher_df of SP 800-90A with AES-256: 48 bytes of seed material from the input. -/
def drbgDf (input : Bytes) : Bytes :=
  let raw := beBytes 4 input.length ++ beBytes 4 48 ++ input ++ [0x80]
  let text := raw ++ List.replicate ((16 - raw.length % 16) % 16) 0
  let k0 : Bytes := (List.range 32).map (BitVec.ofNat 8)
  let part (i : Nat) : Bytes := drbgBcc k0 (text.length + 2) (List.replicate 16 0) (beBytes 4 i ++ List.replicate 12 0 ++ text)
  let temp := part 0 ++ part 1 ++ part 2
  let k := temp.take 32
  let x1 := Config.aes256 k (slice temp 32 16)
  let x2 := Config.aes256 k x1
  x1 ++ x2 ++ Config.aes256 k x2

/-- Key and V of an instantiation from the input of the derivation function, and of a reseed. -/
def drbgFresh (input : Bytes) : Bytes × Bytes := drbgUpdate (List.replicate 32 0) (List.replicate 16 0) 0 (drbgDf input)
def drbgReseeded (g : Bytes × Bytes) (input : Bytes) : Bytes × Bytes := drbgUpdate g.1 g.2 0 (drbgDf input)

/-- Key and V after a generate call of `n` bytes without additional input. -/
def drbgAfter (g : Bytes × Bytes) (n : Nat) : Bytes × Bytes := drbgUpdate g.1 g.2 ((n + 15) / 16) (List.replicate 48 0)

/-- The longest output of one generate call (R210). -/
def drawLimit : Nat := 4096

/-- Key and V after `calls` generate calls of the longest output. -/
def drbgCalls (g : Bytes × Bytes) : Nat → Bytes × Bytes
  | 0 => g
  | c + 1 => drbgCalls (drbgAfter g drawLimit) c

/-- Byte `i` of what calls of the longest output give from Key and V on. -/
def drbgByte (g : Bytes × Bytes) (i : Nat) : BitVec 8 :=
  let h := drbgCalls g (i / drawLimit)
  ctrByte h.1 h.2 (i % drawLimit)

/-- One generate call: it is counted, and Key and V advance. -/
def State.generate (s : State) (n : Nat) : State :=
  let g := drbgAfter (s.trng.key, s.trng.v) n
  { s.put R.trngCallsSinceReseed (saturate 0x1FFFFF (s.get R.trngCallsSinceReseed + 1)) with trng.key := g.1, trng.v := g.2 }

/-- `calls` generate calls of the longest output, whose bytes are read later by `drbgByte`. -/
def State.generateMany (s : State) : Nat → State
  | 0 => s
  | c + 1 => (s.generate drawLimit).generateMany c

/-- A draw of `n` bytes: one generate call for every `drawLimit` of them, and one for the rest. -/
def State.draw (s : State) (n : Nat) : State × Bytes :=
  let s1 := s.generateMany (n / drawLimit)
  (if n % drawLimit = 0 then s1 else s1.generate (n % drawLimit), (List.range n).map (drbgByte (s.trng.key, s.trng.v)))

/-- Key and V after a draw of `n` bytes, the calls it took, and its bytes. -/
def drbgDraw (g : Bytes × Bytes) (n : Nat) : (Bytes × Bytes) × Nat × Bytes :=
  let h := drbgCalls g (n / drawLimit)
  (if n % drawLimit = 0 then h else drbgAfter h (n % drawLimit), (n + drawLimit - 1) / drawLimit, (List.range n).map (drbgByte g))

/-! ### HELLO of a custodian port -/

/-- A new session opens with HELLO (R259): a fresh nonce from the DRBG, both directions' numbers start again. -/
def State.openSession (s : State) (p : Nat) : State :=
  let (s1, nonce) := s.draw 16
  let y := { s1.port p with
    nonce := nonce, session := [], txSeq := 0, rxSeq := 0, discards := 0, silent := 0, queue := [(0x01, nonce)] }
  (s1.setPort p y).setPortState p 2

/-- PORT_SESSION_OPEN: a port that is paired and DOWN opens a new session (R259), once the DRBG serves its nonce (Table DC.7). -/
def execPortSessionOpen (port : Nat) (s : State) : Host.Outcome State Fault Refusal :=
  .next (if (s.port port).paired ∧ s.get (portFld port) = 1 ∧ s.canDraw then s.openSession port else s)

/-! ### The primes of RSA_KEYGEN (FIPS 186-5 appendix A.1.3) -/

/-- A candidate of `bits` bits is taken: odd, at least √2 · 2^(bits − 1), its predecessor prime to e, and far from `other`. -/
def rsaCandidateOk (bits e other c : Nat) : Bool :=
  c % 2 == 1 && decide (2 ^ (2 * bits - 1) ≤ c * c) && (c - 1).gcd e == 1
    && (other == 0 || decide (2 ^ (bits - 100) < (if c < other then other - c else c - other)))

/-- The search for a prime, at most `fuel` candidates from the DRBG: Key and V after it, the calls it took, and the prime, or 0. The
tests are those of R155, their bases drawn. -/
def rsaPrime (bits e other : Nat) : Nat → Bytes × Bytes → Nat → (Bytes × Bytes) × Nat × Nat
  | 0, g, calls => (g, calls, 0)
  | fuel + 1, g, calls =>
    let (g1, k, b) := drbgDraw g (bits / 8)
    let c := ofBe b / 2 * 2 + 1
    if rsaCandidateOk bits e other c then
      let (g2, k2, r) := drbgDraw g1 (64 * (bits / 8))
      if probablePrime c (bits / 8) r then (g2, calls + k + k2, c) else rsaPrime bits e other fuel g2 (calls + k + k2)
    else rsaPrime bits e other fuel g1 (calls + k)

/-- The two primes of a modulus of `bits` bits, p then q, each with half of its bytes; the draws they take are made. -/
def State.rsaPrimes (s : State) (bits e : Nat) : State × Bytes :=
  let h := bits / 2
  let (g1, k1, p) := rsaPrime h e 0 (5 * h) (s.trng.key, s.trng.v) 0
  let (g2, k2, q) := rsaPrime h e p (10 * h) g1 0
  ({ s.put R.trngCallsSinceReseed (saturate 0x1FFFFF (s.get R.trngCallsSinceReseed + k1 + k2)) with trng.key := g2.1, trng.v := g2.2 },
    beBytes (h / 8) p ++ beBytes (h / 8) q)

end Sys2Proof.Machine
end

