-- ==== Sys2Proof/Machine/Keys.lean ====
section
/-! DEFINITION. Keys and key slots (chapter 3): bound wraps, tenant-root entries, the slot map and its scramble, handles, loads
and wipes, and the marks of R82. -/

namespace Sys2Proof.Machine

/-! ### What the keeper holds twice (R67, R68, R111) -/

/-- The 64-bit words of a copy, its check bytes, and what it decodes to through them (R67, R68). -/
def eccWords (b : Bytes) : List Bytes := (List.range (b.length / 8)).map (fun i => slice b (8 * i) 8)
def eccOf (b : Bytes) : Bytes := (eccWords b).map Config.eccByte
def eccDecode (b e : Bytes) : Bytes :=
  (List.zipWith (fun w c => if Config.eccByte w = c then w else Config.eccFix w c) (eccWords b) e).flatten

/-- Both copies and the mask written for `v` under `mask`, each copy with its check bits (R67). -/
def Twin.of (v mask : Bytes) : Twin :=
  let a := xorBytes v mask
  let b := notBytes a
  ⟨a, b, eccOf a, eccOf b, mask⟩

/-- What each copy decodes to (R68). -/
def Twin.first (t : Twin) : Bytes := xorBytes (eccDecode t.copy0 t.ecc0) t.mask
def Twin.second (t : Twin) : Bytes := xorBytes (notBytes (eccDecode t.copy1 t.ecc1)) t.mask

/-- Whether a copy's check bits hold as they stand. -/
def Twin.clean0 (t : Twin) : Bool := eccOf t.copy0 == t.ecc0
def Twin.clean1 (t : Twin) : Bool := eccOf t.copy1 == t.ecc1

/-- A value without a check word of its own (R111): what both copies decode to, or where they disagree the one copy whose check bits
hold (DEDUCED, log entry 102). -/
def Twin.read (t : Twin) : Option Bytes :=
  if t.first = t.second then some t.first
  else if t.clean0 ∧ !t.clean1 then some t.first
  else if t.clean1 ∧ !t.clean0 then some t.second
  else none

/-! ### Bound wraps and tenant entries -/

/-- The bound wrap of R76 of secret `sec` under `w`, for parent `p` and header `h`. -/
def boundWrap (w p h sec : Bytes) : Bytes := Config.kwpWrap w ((Config.sha384 (p ++ h)).take 16 ++ sec)

/-- Unwrapping recomputes BIND; a mismatch and an integrity failure give the same refusal (R76). -/
def boundUnwrap (w p h b : Bytes) : Option Bytes :=
  match Config.kwpUnwrap w b with
  | none => none
  | some x => if x.take 16 = (Config.sha384 (p ++ h)).take 16 then some (x.drop 16) else none

/-- Header bytes 0–19 of a tenant-root entry (Table KH.5). -/
def entryHead (tenant state live tg : Nat) (wgs : List Nat) : Bytes :=
  leBytes 2 (tenant % 4096 + 4096 * state) ++ leBytes 2 live ++ leBytes 4 tg ++ leBytes 4 (wgs.getD 0 0)
    ++ leBytes 4 (wgs.getD 1 0) ++ leBytes 4 (wgs.getD 2 0)

/-- The 80-byte tenant root record (Table KH.1). -/
def Tenant.root (t : Tenant) : Bytes := t.trk ++ (t.salts.getD 0 []) ++ (t.salts.getD 1 []) ++ (t.salts.getD 2 [])

/-- A tenant's entry wrapped under `w` for the table with `tag`; an ERASED entry holds no wrap. An entry that failed its unwrap has
no secret to wrap: its WRAPPED field is carried over as it stands, so that it fails again (R86 says nothing of it; DESIGN CHOICE, log
entry 96). -/
def Tenant.entry (t : Tenant) (w tag : Bytes) (n : Nat) : TableEntry :=
  ⟨t.state, t.live, t.tg, t.wgs,
    if t.failed then t.raw else if t.state = 1 ∨ t.state = 2 then boundWrap w tag (entryHead n t.state t.live t.tg t.wgs) t.root else []⟩

/-- A table's tag (Table KH.2). -/
def tableTag (w : Bytes) (seq : Nat) : Bytes := kdf w "TAG" (beBytes 8 seq) 128

/-- The header bytes that the CRC-32C covers (Table KH.4), and whether it verifies. -/
def TableSet.head (x : TableSet) : Bytes := leBytes 8 x.seq ++ padTo 16 x.tagP ++ padTo 16 x.tagF ++ padTo 48 x.image
def TableSet.valid (x : TableSet) : Bool := x.crc == Config.crc32c x.head

/-- The copy of table set `n` in MRAM bank 0 and in bank 1. -/
def State.setCopy (s : State) (bank n : Nat) : TableSet :=
  if bank = 0 then (if n = 0 then s.keys.set0 else s.keys.set1) else if n = 0 then s.keys.copySet0 else s.keys.copySet1

/-- Table set `n`: bank 0's copy where its header verifies, else bank 1's (R20, R75). -/
def State.tableSet (s : State) (n : Nat) : TableSet :=
  if (s.setCopy 0 n).valid && !bitOf s.pwr.parts.mram 0 then s.setCopy 0 n else s.setCopy 1 n

/-- Table set `n` written to both banks (R75). -/
def State.setTableSet (s : State) (n : Nat) (t : TableSet) : State :=
  if n = 0 then { s with keys.set0 := t, keys.copySet0 := t } else { s with keys.set1 := t, keys.copySet1 := t }

/-- A set one of whose copies has a bad header is written again from the other, with a SOFT fault of that bank (R20). -/
def State.mendSet (s : State) (n : Nat) : State :=
  let a := (s.setCopy 0 n).valid
  let b := (s.setCopy 1 n).valid
  if a = b ∨ s.pwr.parts.mram ≠ 0 then s else (s.setTableSet n (s.tableSet n)).soft (locM 0xF 30 (if a then 1 else 0)) 0x0E 0

/-- The key of a set's table P among the two that the device holds: the one under which its tag matches. A fresh area that found
no valid check word has table P under DMKD (R77). -/
def TableSet.keyP (x : TableSet) (dmk dmkd : Bytes) : Option Bytes :=
  if x.tagP = tableTag dmk x.seq then some dmk else if x.tagP = tableTag dmkd x.seq then some dmkd else none

/-- A tenant's entry in one set, under that set's keys; table P holds no entry for the tenant where its key is not held (R77
step 3, R82 step 5). -/
def TableSet.rewrite (x : TableSet) (n : Nat) (t : Tenant) (keyP : Option Bytes) (keyF : Bytes) : TableSet :=
  { x with
    p := match keyP with
      | some k => store x.p n (t.entry k x.tagP n)
      | none => drop x.p n
    f := store x.f n (t.entry keyF x.tagF n) }

/-- The tenant stands with the entry `t`: its reserved slot, and the active set and, during a handover, the staged set
(R82 step 5, R87). -/
def State.writeTenant (s : State) (n : Nat) (t : Tenant) : State :=
  let s1 := { s with keys.tenants := store s.keys.tenants n t }
  let s2 := match s1.keys.active with
    | some a =>
      let x := s1.tableSet a
      s1.setTableSet a (x.rewrite n t (x.keyP s1.keys.dmk s1.keys.dmkd) s1.keys.dmkd)
    | none => s1
  match s2.keys.staged with
  | some a => s2.setTableSet a ((s2.tableSet a).rewrite n t (some s2.keys.nextDmk) s2.keys.nextDmkd)
  | none => s2

/-- The whole entry of a tenant is zeroed in every set no key is held for, in both banks (R82 step 5, R84). -/
def State.clearEntry (s : State) (n : Nat) : State :=
  [0, 1].foldl (fun u a =>
    if u.keys.active = some a ∨ u.keys.staged = some a then u
    else u.setTableSet a { u.tableSet a with p := drop (u.tableSet a).p n, f := drop (u.tableSet a).f n }) s

/-- R82 step 5: the entry in every table a key is held for; the whole entry of any other set is zeroed. -/
def State.destroyTenantEntry (s : State) (n : Nat) (t : Tenant) : State := (s.writeTenant n t).clearEntry n

/-- The tenant's entry; `none` where it is EMPTY. -/
def State.tenant (s : State) (n : Nat) : Option Tenant := look s.keys.tenants n

/-- The live wrap generations of an entry, and the position of one. -/
def Tenant.liveWgs (t : Tenant) : List Nat :=
  ((List.range 3).filter (fun i => bitOf t.live i)).map (fun i => t.wgs.getD i 0)

/-- The position at which `wg` is live. -/
def Tenant.position (t : Tenant) (wg : Nat) : Option Nat := (List.range 3).find? (fun i => bitOf t.live i && t.wgs.getD i 0 == wg)

/-- The highest live WG, under which new hampers are wrapped (R79). -/
def Tenant.topWg (t : Tenant) : Option Nat := t.liveWgs.foldl (fun a w => some (match a with | none => w | some b => max b w)) none

/-- The highest WG ever issued in this TG: a retired position keeps its number until a roll takes it. -/
def Tenant.issued (t : Tenant) : Nat := t.wgs.foldl max 0

/-- The KWK of tenant, TG, WG and salt (Table KH.2, R80). -/
def kwkOf (trk : Bytes) (tenant tg wg : Nat) (salt : Bytes) : Bytes :=
  kdf trk "KWK" (beBytes 2 tenant ++ beBytes 4 tg ++ beBytes 4 wg ++ salt) 256

/-- The KWK of a live wrap generation of a tenant. -/
def Tenant.kwk (t : Tenant) (n wg : Nat) : Option Bytes :=
  (t.position wg).map (fun i => kwkOf t.trk n t.tg wg (t.salts.getD i []))

/-- The sealed KWK (Table KH.2). -/
def State.sealedKwk (s : State) (tenant tg : Nat) : Bytes := kdf s.keys.sealRoot "SKWK" (beBytes 2 tenant ++ beBytes 4 tg) 256

/-! ### The tenant check (R37) and the marks of R82 -/

/-- Whether the binding of an instance covers a tenant (R37, R268). -/
def State.bound (s : State) (inst tenant : Nat) : Bool := ((look s.host.bindings inst).getD []).contains tenant

/-- The refusal of a command that names a tenant or a WG marked dying (R82 step 2). -/
def State.dying (s : State) (tenant wg : Nat) : Option Nat :=
  if s.keys.dyingTenants.contains tenant then some St.tenantDeleted
  else if s.keys.dyingWgs.contains (tenant, wg) then some St.generationRetired
  else none

/-! ### The slot map (R90, R91) -/

/-- The highest working key-slot bank. -/
def State.topBank (s : State) : Option Nat := [3, 2, 1, 0].find? (fun b => !bitOf s.pwr.parts.keySlot b)

/-- The first index of the reserved area: the top 4,352 slots of the highest working bank; with no bank working, the 256
keys of the reserve of R39. -/
def State.reservedBase (s : State) : Nat :=
  match s.topBank with
  | some b => 0x4000 * (b + 1) - 4352
  | none => 256

/-- Whether index `i` is a working slot. -/
def State.workingSlot (s : State) (i : Nat) : Bool :=
  decide (i < s.reservedBase) && (s.topBank.isNone || !bitOf s.pwr.parts.keySlot (i / 0x4000))

/-- The first index from `i` on that lies in a working bank. -/
def State.skipBanks (s : State) : Nat → Nat → Nat
  | 0, i => i
  | fuel + 1, i =>
    if s.topBank.isSome ∧ bitOf s.pwr.parts.keySlot (i / 0x4000) ∧ i < 0x10000 then s.skipBanks fuel ((i / 0x4000 + 1) * 0x4000)
    else i

/-- The lowest FREE index from `i` on, over the loaded slots in rising order. -/
def State.freeFrom (s : State) : Amap Slot → Nat → Nat
  | [], i => i
  | (k, _) :: m, i => if k < i then s.freeFrom m i else if k = i then s.freeFrom m (s.skipBanks 4 (i + 1)) else i

/-- The lowest FREE working slot (which one a load takes is the model's choice, log entry 8). -/
def State.freeWorking (s : State) : Option Nat :=
  let i := s.freeFrom s.keys.slots (s.skipBanks 4 0)
  if i < s.reservedBase ∧ (s.topBank.isSome ∨ s.keys.slots.length + s.keys.reserve.length < 256) then some i else none

/-- The slots a tenant holds. -/
def State.holding (s : State) (tenant : Nat) : Nat := s.keys.slots.countP (fun x => x.2.tenant == tenant)

/-- The tenant's quota (R94). -/
def State.quota (s : State) (tenant : Nat) : Nat := lookD s.keys.quotas tenant 64

/-- The slot to evict among those that `p` picks: neither PINNED nor in use, highest AGE first, then lowest index (R94). -/
def State.evictable (s : State) (p : Slot → Bool) : Option Nat :=
  (s.keys.slots.foldl (fun (a : Option (Nat × Nat)) x =>
    if p x.2 && !x.2.pinned && x.2.inuse == 0 then
      match a with
      | none => some (x.1, x.2.age)
      | some (_, age) => if age < x.2.age then some (x.1, x.2.age) else a
    else a) none).map (·.1)

/-- The tenant root record used longest ago leaves the key reserve where the reserve is full and no working key has been idle for an
AGE step (R91; which of a root and a key was used last the manual's clock does not tell below that, DESIGN CHOICE, log entry 98). -/
def State.rootOut (s : State) : State :=
  if s.topBank.isSome ∨ s.keys.slots.length + s.keys.reserve.length < 256 ∨ (s.evictable (fun x => decide (0 < x.age))).isSome then s
  else { s with keys.reserve := s.keys.reserve.dropLast }

/-! ### Handles (R93) -/

/-- The handle of slot `i` at an epoch. -/
def handleOf (i epoch : Nat) : Nat := i % 0x10000 + 0x10000 * epoch

/-- EPOCH of a slot not loaded since the start of G5: its starting value, drawn from 0x0001–0xFFFF. -/
def State.epochOf (s : State) (i : Nat) : Nat :=
  lookD s.keys.epochs i (1 + ofLe [drbgByte s.keys.epochGen (2 * i), drbgByte s.keys.epochGen (2 * i + 1)] % 0xFFFF)

/-- The usage bits of Table KH.9. -/
def uEncrypt : Nat := 0
def uDecrypt : Nat := 1
def uSign : Nat := 2
def uVerify : Nat := 3
def uMacGen : Nat := 4
def uMacVer : Nat := 5
def uWrap : Nat := 6
def uUnwrap : Nat := 7
def uDerive : Nat := 8
def uAgree : Nat := 9
def uEncaps : Nat := 10
def uDecaps : Nat := 11
def uExport : Nat := 12

/-- The four checks of R93, in their order: the refusal, or the slot's index and tag. -/
def State.handleCheck (s : State) (inst handle usage : Nat) : Except Nat (Nat × Slot) :=
  let i := handle % 0x10000
  match look s.keys.slots i with
  | none => .error St.slotStale
  | some x =>
    if x.doomed ∨ x.epoch ≠ handle / 0x10000 then .error St.slotStale
    else if !s.bound inst x.tenant then .error St.tenantDenied
    else match s.dying x.tenant x.wg with
      | some st => .error st
      | none => if bitOf x.usage usage then .ok (i, x) else .error St.keyUsage

/-! ### The scramble (R96) -/

/-- t[i][r] of the scramble tables of this boot. -/
def State.scrambleTable (s : State) (i r : Nat) : Nat := (s.keys.scramble.getD (128 * i + r) 0).toNat % 128

/-- Four Feistel rounds over a 14-bit in-bank index, with the tables `t` (R96): the physical row. -/
def feistel (t : Nat → Nat → Nat) (idx : Nat) : Nat :=
  let round (x : Nat × Nat) (i : Nat) : Nat × Nat := (x.2, x.1 ^^^ t i x.2)
  let y := [0, 1, 2, 3].foldl round (idx / 128 % 128, idx % 128)
  y.1 * 128 + y.2

/-- The physical row of a slot in its bank this boot. -/
def State.slotRow (s : State) (slot : Nat) : Nat := feistel s.scrambleTable (slot % 0x4000)

/-! ### The slot mask (R97, R98) -/

/-- Block `j` of slot `i`'s mask: AES-256 under the mask key of (i ‖ j), zero-padded to 16 bytes. -/
def State.maskBlock (s : State) (i j : Nat) : Bytes := Config.aes256 s.keys.maskKey (padTo 16 (leBytes 2 i ++ leBytes 1 j))

/-- The mask of slot `i`: 128 bytes. -/
def State.slotMask (s : State) (i : Nat) : Bytes := ((List.range 8).map (s.maskBlock i)).flatten

/-- What a slot's cells hold for a key: the key XOR the mask. -/
def State.underMask (s : State) (i : Nat) (key : Bytes) : Bytes := xorBytes key (s.slotMask i)

/-- The length of the key in a slot: LEN is one less (Table KH.9). -/
def Slot.keyLen (x : Slot) : Nat := x.len + 1

/-- The two shares in which a key leaves slot `i`: the stored bytes and the mask, each as long as the key. -/
def State.shares (s : State) (i : Nat) : Bytes × Bytes :=
  match look s.keys.slots i with
  | some x => (x.cells, (s.slotMask i).take x.cells.length)
  | none => ([], [])

/-- The key of slot `i`, as its two shares meet in an engine. -/
def State.slotKey (s : State) (i : Nat) : Bytes := xorBytes (s.shares i).1 (s.shares i).2

/-! ### The tag (R92) -/

/-- The 128-bit tag of Table KH.9. -/
def tagWord (tenant state epoch : Nat) (typ len curve : Nat) (pin sealed : Bool) (usage wg inuse age : Nat) : Nat :=
  tenant % 4096 + 2 ^ 12 * state + 2 ^ 16 * epoch + 2 ^ 32 * typ + 2 ^ 40 * len + 2 ^ 48 * curve + 2 ^ 54 * ofBool pin + 2 ^ 55 * ofBool sealed
    + 2 ^ 56 * usage + 2 ^ 72 * wg + 2 ^ 104 * inuse + 2 ^ 112 * age

/-- The device key in place `j` of the reserved area, from 0xFF00 of the full map on (Table KH.8). -/
def State.deviceKey (s : State) (j : Nat) : Bytes :=
  if j = 0 then s.keys.dmk else if j = 1 then s.keys.dmkd else if j = 2 then s.keys.nextDmk else if j = 3 then s.keys.nextDmkd
  else if j = 4 then s.keys.sealRoot else if j = 5 then s.keys.idSeeds.take 32 else if j = 6 then s.keys.idSeeds.drop 32
  else if j = 7 then s.keys.attKey else if j = 8 then s.keys.stk else []

/-- The tag of slot `i` (R92): STATE is RESERVED 4 in the reserved area where it holds a record or a key, LOADED 2 for a working
key, else FREE 0. LOADING and WIPING end within the step that begins them (log entry 97). -/
def State.slotTag (s : State) (i : Nat) : Nat :=
  if s.reservedBase ≤ i ∧ i < s.reservedBase + 4352 then
    let j := i - s.reservedBase
    if j < 4096 then
      match look s.keys.tenants j with
      | some t => if t.trk.isEmpty then 0 else tagWord j 4 0 0x30 91 0 false false 0 0 0 0
      | none => 0
    else
      let k := s.deviceKey (j - 4096)
      if k.isEmpty then 0 else tagWord 0 4 0 0x31 (k.length - 1) 0 false false 0 0 0 0
  else match look s.keys.slots i with
    | some x => tagWord x.tenant 2 x.epoch x.typ x.len x.curve x.pinned x.isSealed x.usage x.wg x.inuse x.age
    | none => tagWord 0 0 (s.epochOf i) 0 0 0 false false 0 0 0 0

/-! ### Wiping and loading -/

/-- A slot leaves LOADED: zeros in its cells, STATE FREE (R95). `tell` sends SLOT_EVICTED to the instance that loaded it. -/
def State.wipeSlot (s : State) (i : Nat) (tell : Bool) : State :=
  match look s.keys.slots i with
  | none => s
  | some x =>
    let s1 := { s with keys.slots := drop s.keys.slots i }
    if tell then s1.notice x.loader 1 0 (handleOf i x.epoch) x.ref St.ok else s1

/-- The slot is wiped now, or once its jobs have ended (R95). -/
def State.freeOrDoom (s : State) (i : Nat) (tell : Bool) : State :=
  match look s.keys.slots i with
  | none => s
  | some x =>
    if x.inuse = 0 then s.wipeSlot i tell
    else { s with keys.slots := store s.keys.slots i { x with doomed := true, loader := if tell then x.loader else nwInst } }

/-- A job takes a slot (INUSE, AGE), and leaves it: a doomed slot is wiped with its last job. -/
def State.useSlot (s : State) (i : Nat) : State :=
  { s with keys.slots := adjust s.keys.slots i (fun x => { x with inuse := saturate 255 (x.inuse + 1), age := 0 }) }

def State.leaveSlot (s : State) (i : Nat) : State :=
  let s1 := { s with keys.slots := adjust s.keys.slots i (fun x => { x with inuse := x.inuse - 1 }) }
  match look s1.keys.slots i with
  | some x => if x.doomed ∧ x.inuse = 0 then s1.wipeSlot i true else s1
  | none => s1

/-- Every slot that `p` picks is wiped at once (R82, R85, R126, R156). -/
def State.wipeSlots (s : State) (p : Slot → Bool) : State :=
  (s.keys.slots.filter (fun x => p x.2)).foldl (fun t x => t.wipeSlot x.1 true) s

/-- Every such slot is wiped once its jobs have ended. -/
def State.freeSlots (s : State) (p : Slot → Bool) : State :=
  (s.keys.slots.filter (fun x => p x.2)).foldl (fun t x => t.freeOrDoom x.1 true) s

/-- Every slot is emptied without a word (a start or loss of G5). -/
def State.loseSlots (s : State) : State := { s with keys.slots := [], keys.epochs := [], keys.reserve := [] }

/-- Whether the tenant's pinned quarter has room for one more (R94, R122 step 8). -/
def State.pinRoom (s : State) (tenant : Nat) : Bool :=
  decide (s.keys.slots.countP (fun x => x.2.tenant == tenant && x.2.pinned) < s.quota tenant / 4)

/-- The slot that a load for the tenant takes, and whether it evicts (R94): SLOT_FULL or SLOT_QUOTA where none qualifies. -/
def State.chooseSlot (s : State) (tenant : Nat) : Except Nat (Nat × Bool) :=
  if s.holding tenant < s.quota tenant then
    match s.freeWorking with
    | some i => .ok (i, false)
    | none =>
      match s.evictable (fun _ => true) with
      | some i => .ok (i, true)
      | none => .error St.slotFull
  else
    match s.evictable (fun x => x.tenant == tenant) with
    | some i => .ok (i, true)
    | none => .error St.slotQuota

/-- Evictions until the tenant's holding is below its quota; a quota lowered below the holding makes later loads evict
(R94). At most `fuel` of them. -/
def State.trim (s : State) (tenant : Nat) : Nat → State
  | 0 => s
  | fuel + 1 =>
    if s.holding tenant > s.quota tenant then
      match s.evictable (fun x => x.tenant == tenant) with
      | some i => ((s.incMod R.skeSlotEvictsCount 1).wipeSlot i true).trim tenant fuel
      | none => s
    else s

/-- A tenant root record is used: with no key-slot bank working it takes a place in the key reserve, which it shares with the working
keys, and is unwrapped into it again where it had none (R91). -/
def State.touchRoot (s : State) (n : Nat) : State :=
  if s.topBank.isSome then s
  else
    let s1 := if s.keys.reserve.contains n then s else s.rootOut
    let s2 := if s.keys.reserve.contains n ∨ s1.keys.slots.length + s1.keys.reserve.length < 256 then s1
      else match s1.evictable (fun _ => true) with
        | some i => (s1.incMod R.skeSlotEvictsCount 1).wipeSlot i true
        | none => s1
    { s2 with keys.reserve := n :: s2.keys.reserve.filter (· != n) }

/-- A load (R93, R94, R122 step 8): the handle, or the refusal. Slots taken are counted; EPOCH advances. A load that is refused leaves
nothing behind: the evictions that a lowered quota made for it do not stand (R94 does not say; DESIGN CHOICE, log entry 98). -/
def State.loadSlot (s : State) (inst : Nat) (c : Cargo) : Except Nat (State × Nat) :=
  if c.pin ∧ !s.pinRoom c.tenant then .error St.slotQuota
  else
    let s0 := (s.trim c.tenant s.keys.slots.length).rootOut
    match s0.chooseSlot c.tenant with
    | .error e => .error e
    | .ok (i, evict) =>
      let s1 := if evict then (s0.incMod R.skeSlotEvictsCount 1).wipeSlot i true else s0
      let epoch := nextSeq (s1.epochOf i)
      let x : Slot := {
        tenant := c.tenant, epoch := epoch, typ := c.typ, len := c.key.length - 1, curve := c.curve, pinned := c.pin
        isSealed := c.isSealed, usage := c.usage, wg := c.wg, inuse := 0, age := 0, cells := s.underMask i c.key, ref := c.ref
        serial := c.serial, label := c.label, used := 0, limit := lookD s.keys.limits c.tenant (2 ^ 32), lowSeen := false
        rotateDue := false, exhaustSeen := false, rotation := c.rotation, successor := none, loader := inst, doomed := false }
      .ok (({ s1 with keys.slots := store s1.keys.slots i x, keys.epochs := store s1.keys.epochs i epoch }).incMod
        R.skeSlotLoadsCount 1, handleOf i epoch)

/-- Slot loads run once the scramble tables and the mask key are there (R102). -/
def State.slotsReady (s : State) : Bool := s.is R.skeSlotCfgScrambleReady && s.is R.skeSlotCfgMaskReady

/-- SKE_SLOT_INUSE.LOADED: LOADED working slots, the tenants' roots and the device keys held. -/
def State.slotsLoaded (s : State) : Nat :=
  let held (b : Bytes) : Nat := if b.isEmpty then 0 else 1
  s.keys.slots.length + s.keys.tenants.countP (fun t => !t.2.trk.isEmpty) + held s.keys.dmk + held s.keys.dmkd
    + held s.keys.nextDmk + held s.keys.nextDmkd + held s.keys.sealRoot + 2 * held s.keys.idSeeds + held s.keys.attKey
    + held s.keys.stk

/-- The slot of the load map that holds a reference for a tenant (R231). -/
def State.loadedAs (s : State) (tenant ref : Nat) : Option Nat :=
  (s.keys.slots.find? (fun x => x.2.tenant == tenant && x.2.ref == ref && !x.2.doomed)).map (fun x => handleOf x.1 x.2.epoch)

/-- AGE of every LOADED slot rises by 1, saturating at 0xFFFF (Table KH.9). -/
def State.ageSlots (s : State) : State :=
  { s with keys.slots := s.keys.slots.map (fun x => (x.1, { x.2 with age := saturate 0xFFFF (x.2.age + 1) })) }

/-- SLOT_AGE_TICK (R92, Table KH.9). -/
def execSlotAgeTick (s : State) : Host.Outcome State Fault Refusal := .next s.ageSlots

end Sys2Proof.Machine
end

