-- ==== Sys2Proof/Machine/Store.lean ====
section
/-! DEFINITION. The store engine (chapter 4): the tree and its node cache, requests and the page-buffer pool, batches and
their commit, opening, formatting and integrity failures. -/

namespace Sys2Proof.Machine

/-! ### The tree (R107, R108) -/

/-- NODE_BASE of a level (Table HS.3). -/
def nodeBase (k : Nat) : Nat :=
  [0, 0, 4194304, 4718592, 4784128, 4792320, 4793344, 4793472, 4793488, 4793490].getD k 0

/-- The node page that holds node (k, i), and the node's offset in it (R107). -/
def nodePage (k i : Nat) : Nat := nodeBase k + i / 32
def nodeOffset (i : Nat) : Nat := 128 * (i % 32)

/-- The number of node (k, i) in the tables of the model. -/
def nodeId (k i : Nat) : Nat := k * 2 ^ 27 + i

/-- The page keys of a data page and of a node page. -/
def dataKey (page : Nat) : Nat := 2 * page
def nodeKey (page : Nat) : Nat := 2 * page + 1

/-- The tag of an empty child (R108). -/
def emptyTag : Bytes := List.replicate 16 0

/-- An empty data page (R106) and an empty node. -/
def emptyPage : Bytes := List.replicate 4096 0
def emptyNode : Bytes := List.replicate 128 0

/-- tag(k, i, body) under STK (R108): bit 0 of byte 0 is forced to 1. -/
def treeTag (stk : Bytes) (k i : Nat) (body : Bytes) : Bytes :=
  match Config.cmac stk (leBytes 1 k ++ [0, 0, 0] ++ leBytes 4 i ++ body) with
  | [] => []
  | b :: bs => (b ||| 1) :: bs

/-- The tag of child j in a node, and the node with it replaced. -/
def childTag (node : Bytes) (j : Nat) : Bytes := slice node (16 * j) 16
def setChild (node : Bytes) (j : Nat) (tag : Bytes) : Bytes := node.take (16 * j) ++ tag ++ node.drop (16 * j + 16)

/-- The tag that stands for a body: the empty tag for a body of zeros (R108). -/
def tagFor (stk : Bytes) (k i : Nat) (body : Bytes) : Bytes := if allZero body then emptyTag else treeTag stk k i body

/-- The store size (R107). -/
def State.storePages (s : State) : Nat := 2 ^ s.get R.storeEpochPagesLog2

/-! ### The node cache (R120) -/

/-- Node-cache banks that work. -/
def State.cacheBanks (s : State) : Nat := 4 - popcount 4 s.pwr.parts.cache

/-- Positions of levels `k` to 10. -/
def pinnedFrom (k : Nat) : Nat := ((List.range 11).filter (fun j => j ≥ k)).foldl (fun a j => a + 8 ^ (10 - j)) 0

/-- The lowest pinned level: 5, or with banks withdrawn the lowest at which the pinned nodes fill no more than three-quarters
of the remaining positions (R120). -/
def State.pinLevel (s : State) : Nat :=
  if s.pwr.parts.cache = 0 then 5
  else (([5, 6, 7, 8, 9, 10].find? (fun k => decide (4 * pinnedFrom k ≤ 3 * (16384 * s.cacheBanks)))).getD 10)

/-- Positions outside the pinned area. -/
def State.otherRoom (s : State) : Nat := 16384 * s.cacheBanks - pinnedFrom s.pinLevel

/-- Whether a node is dirty, and whether a node must stay: dirty or beside a dirty node of its node page, which is written with
all 32 (R121), or a cached child of it is dirty (R120). -/
def State.nodeDirty (s : State) (id : Nat) : Bool := s.hs.batches.any (fun b => b.nodes.contains id)
def State.nodeHeld (s : State) (id : Nat) : Bool :=
  (List.range 32).any (fun j => s.nodeDirty (id / 32 * 32 + j)) || (List.range 8).any (fun j => s.nodeDirty (nodeId (id / 2 ^ 27 - 1) (8 * (id % 2 ^ 27) + j)))

/-- The node (k, i), where the engine holds it. -/
def State.node (s : State) (k i : Nat) : Option Bytes :=
  if k = 10 then some s.hs.root
  else match look s.hs.pinned (nodeId k i) with
    | some b => some b
    | none => (s.hs.others.find? (fun e => e.1 == nodeId k i)).map (·.2)

/-- A node that is used is the most recently used (R120). -/
def State.useNode (s : State) (k i : Nat) : State :=
  match s.hs.others.find? (fun e => e.1 == nodeId k i) with
  | some e => { s with hs.others := e :: s.hs.others.filter (fun x => x.1 != nodeId k i) }
  | none => s

/-- The cache without its least recently used entry that may go, if it is over its room. -/
def State.evictNode (s : State) : State :=
  if s.cacheBanks ≠ 0 ∧ s.hs.others.length > s.otherRoom then
    match s.hs.others.reverse.find? (fun e => !s.nodeHeld e.1) with
    | some e => { s with hs.others := s.hs.others.filter (fun x => x.1 != e.1) }
    | none => s
  else s

/-- A verified or changed node enters the cache. -/
def State.putNode (s : State) (k i : Nat) (b : Bytes) : State :=
  let id := nodeId k i
  if k = 10 then { s with hs.root := b }
  else if k ≥ s.pinLevel then
    let fresh := (look s.hs.pinned id).isNone
    let s1 := { s with hs.pinned := store s.hs.pinned id b }
    if fresh then s1.put R.storeCachePinned (s1.get R.storeCachePinned + 1) else s1
  else { s with hs.others := (id, b) :: s.hs.others.filter (fun x => x.1 != id) }.evictNode

/-- Every position outside the pinned area is dirty or held: fetches wait and the open batch closes early (R120). -/
def State.cacheFull (s : State) : Bool :=
  s.cacheBanks != 0 && decide (s.hs.others.length ≥ s.otherRoom) && s.hs.others.all (fun e => s.nodeHeld e.1)

/-! ### Requests (R116, R117) -/

/-- Whether a request takes a buffer (R117). -/
def Req.buffered (r : Req) : Bool := decide (1 ≤ r.op ∧ r.op ≤ 4)

/-- The class of a waiting request: URGENT fetches, writes, other fetches (R117); the rest take no buffer and stand in no class. -/
def Req.class (r : Req) : Nat :=
  if r.op ≤ 2 ∧ r.urgent then 0 else if r.op = 3 ∨ r.op = 4 then 1 else if r.op ≤ 2 then 2 else 0

/-- Buffers in use, and the reserved quarter, at least 4 (R117). -/
def State.buffersUsed (s : State) : Nat := s.hs.reqs.countP (fun r => r.2.buffer.isSome)
def State.buffersReserved (s : State) : Nat := max 4 (s.get R.storeReqCfgBuffers / 4)

/-- The lowest free buffer. -/
def State.freeBuffer (s : State) : Option Nat :=
  (List.range (s.get R.storeReqCfgBuffers)).find? (fun b => s.hs.reqs.all (fun r => r.2.buffer != some b))

/-- A request can be posted now: room in the request ring, a buffer it may take, and no REOPEN outstanding before it (R116 to
R118). -/
def State.postable (s : State) (r : Req) : Bool :=
  s.hs.attached && decide (s.hs.reqs.length < 2 ^ s.get R.storeReqCfgLog2Size)
    && decide ((s.get R.storeReqProdIndex + 0x10000 - s.get R.storeReqConsIndex) % 0x10000 < 2 ^ s.get R.storeReqCfgLog2Size)
    && s.hs.posting.isNone && (r.op == 8 || !s.is R.storeStatusReopenWait)
    && (!r.buffered ||
      (s.freeBuffer.isSome && (r.class == 0
        || decide (s.buffersUsed + s.buffersReserved < s.get R.storeReqCfgBuffers))))
    && !(decide (r.op ≤ 2) && s.cacheFull)

/-- The lowest TAG from `t` on that no outstanding request has. -/
def State.freeTag (s : State) : Nat → Nat → Nat
  | 0, t => t
  | fuel + 1, t => if (look s.hs.reqs t).isSome then s.freeTag fuel ((t + 1) % 0x10000) else t

/-- The 32 bytes of a request entry (Table HS.7). -/
def Req.bytes (r : Req) (tag : Nat) (buffer : Option Nat) : Bytes :=
  leBytes 2 tag ++ leBytes 1 r.op ++ leBytes 1 (ofBool r.urgent) ++ leBytes 2 (buffer.getD 0) ++ leBytes 2 0
    ++ leBytes 8 r.page ++ leBytes 8 r.version ++ leBytes 8 0

/-- The KIND of the fault that function 0 meets at the `n` bytes at `a` (R273, R475). -/
def State.storeReach (s : State) (a n : Nat) (write : Bool) : Option Nat :=
  match s.translate 0 a n write with
  | .fault k => some k
  | _ => none

/-- The page-list entry that must be read before function 0 can access the bytes: window, page and where the entry stands. -/
def State.storeMiss (s : State) (a n : Nat) : Option (Nat × Nat × Nat) :=
  match s.translate 0 a n true with
  | .miss win page list => some (win, page, list)
  | _ => none

/-- The page-list entry for `a` is read (R273); the request waits for it. -/
def State.readStoreList (s : State) (a : Nat) (e : Nat × Nat × Nat) : State :=
  let id := s.host.nextId
  let s1 := { s with
    host.nextId := id + 1
    host.accesses := ⟨id, 0, a, 0, some [], some (e.1, e.2.1), .storeRing 0⟩ :: s.host.accesses }
  (s1.incMod R.ituMissesCount 1).emit (.hostRead id 0 e.2.2 8)

/-- A follower's request goes out through the front device (R433): the data of a write into its buffer, then the entry. -/
def State.tellRequest (s : State) (r : Req) (tag : Nat) (buffer : Option Nat) (bufAt at_ : Nat) : State :=
  (if r.op = 3 ∨ r.op = 4 then s.hostTell bufAt r.data else s).hostTell at_ (r.bytes tag buffer)

/-- The places a request is written to: its buffer where it carries data, then its ring entry. -/
def State.postPlaces (s : State) (r : Req) : List (Nat × Nat) :=
  let at_ := s.get R.storeReqBaseAddr + 32 * (s.get R.storeReqProdIndex % 2 ^ s.get R.storeReqCfgLog2Size)
  (if r.op = 3 ∨ r.op = 4 then [(s.get R.storePoolBaseAddr + 4096 * s.freeBuffer.getD 0, 4096)] else []) ++ [(at_, 32)]

/-- A request is posted: TAG, buffer, the data of a write into the buffer, the entry, the index and the STORE_REQUEST event;
one whose entry or buffer cannot be written counts as answered with MEDIUM_ERROR (R116, R475), and one whose page-list entry is not
cached waits for it (R273). -/
def State.postNow (s : State) (r : Req) : State :=
  let prod := s.get R.storeReqProdIndex
  let places := s.postPlaces r
  let at_ := (places.getLastD (0, 0)).1
  let buffer := if r.buffered then s.freeBuffer else none
  let bufAt := s.get R.storePoolBaseAddr + 4096 * buffer.getD 0
  match places.findSome? (fun p => (s.storeReach p.1 p.2 true).map (fun k => (p.1, k))) with
  | some (a, k) =>
    let s1 := s.ituFault 0 a k true
    { s1 with hs.unposted := s1.hs.unposted ++ [r] }
  | none =>
    match places.findSome? (fun p => (s.storeMiss p.1 p.2).map (fun e => (p.1, e))) with
    | some (a, e) => { s with hs.posting := some r }.readStoreList a e
    | none =>
      let tag := s.freeTag 4097 s.hs.nextTag
      let s1 := { s with hs.reqs := store s.hs.reqs tag { r with buffer := buffer }, hs.nextTag := (tag + 1) % 0x10000 }
      ((s1.put R.storeReqProdIndex (prod + 1)).emit (.storeRequest r.op tag prod (r.bytes tag buffer ++ r.data)) |>.tellRequest r tag buffer bufAt at_).raise 16

/-- A request joins: posted, or waiting behind those of its class and the classes before it; one that takes no buffer waits behind
its like alone (R117). -/
def State.post (s : State) (r : Req) : State :=
  if s.postable r ∧ !s.hs.waiting.any (fun w => w.buffered == r.buffered && w.class ≤ r.class) then s.postNow r
  else { s with hs.waiting := s.hs.waiting ++ [r] }

/-- The list without its first entry that `p` picks. -/
def removeFirst {α : Type} (p : α → Bool) : List α → List α
  | [] => []
  | x :: xs => if p x then xs else x :: removeFirst p xs

/-- The waiting request that goes out next (R117): the oldest that takes no buffer, else the oldest of the first class that can be
posted. -/
def State.nextPost (s : State) : Option Req :=
  let pick (p : Req → Bool) : Option Req := (s.hs.waiting.find? p).bind (fun w => if s.postable w then some w else none)
  match pick (fun w => !w.buffered) with
  | some r => some r
  | none => [0, 1, 2].findSome? (fun c => pick (fun w => w.buffered && w.class == c))

/-- It is posted. -/
def State.postOne (s : State) : State :=
  match s.nextPost with
  | none => s
  | some r => ({ s with hs.waiting := removeFirst (· == r) s.hs.waiting }).postNow r

/-- Those that take no buffer go out as soon as they can; at most `fuel` of them. -/
def State.postPlain (s : State) : Nat → State
  | 0 => s
  | fuel + 1 =>
    match s.nextPost with
    | none => s
    | some r => if r.buffered then s else s.postOne.postPlain fuel

/-- The page-list entry a request waited for is here: the request is posted, and those that waited behind it. -/
def State.postOn (s : State) : State :=
  match s.hs.posting with
  | none => s
  | some r =>
    let s1 := { s with hs.posting := none }.postNow r
    (List.range s1.hs.waiting.length).foldl (fun t _ => t.postOne) s1

/-- The entry could not be read: the request counts as answered with MEDIUM_ERROR (R475). -/
def State.postFailed (s : State) : State :=
  match s.hs.posting with
  | none => s
  | some r => { s with hs.posting := none, hs.unposted := s.hs.unposted ++ [r] }

/-- A request of an OP without data. -/
def plainReq (op page version : Nat) (urgent : Bool) : Req := ⟨op, page, version, urgent, [], none, false, false, false⟩

/-- A fetch of a page key, unless one is outstanding or waiting or its page is here. -/
def State.fetchKey (s : State) (key : Nat) (urgent second : Bool) : State :=
  let op := if key % 2 = 1 then 2 else 1
  let same (r : Req) : Bool := r.op == op && r.page == key / 2 && !r.stale
  if (look s.hs.fetched key).isSome || s.hs.reqs.any (fun r => same r.2) || s.hs.waiting.any same || s.hs.posting.any same then s
  else s.post { plainReq op (key / 2) 0 urgent with second := second }

/-! ### Failed subtrees (R129) -/

/-- Whether child (k, i) lies in a subtree marked failed. -/
def State.subtreeFailed (s : State) (k i : Nat) : Bool :=
  s.hs.failed.any (fun f => decide (k ≤ f.1) && decide (i / 8 ^ (f.1 - k) = f.2))
    || (decide (k ≤ 5) && s.hs.failed5.contains (i / 8 ^ (5 - k)))

/-- The marks are counted: FAILED reads at most 256. -/
def State.countFailed (s : State) : State := s.put R.storeIntegCountFailed (saturate 256 s.hs.failed.length)

/-- The subtree under child (k, i) is marked failed, with STORE_INTEG and event 17; the security log has the first failure of each
subtree (R129). With the list full the level-5 ancestor is marked instead; a child above level 5 has none and joins the list (log
entry 15). -/
def State.markFailed (s : State) (k i : Nat) : State :=
  let known := s.subtreeFailed k i
  let s1 := if known then s
    else if s.hs.failed.length < 256 ∨ k > 5 then { s with hs.failed := s.hs.failed ++ [(k, i)] }
    else { s with hs.failed5 := s.hs.failed5 ++ [i / 8 ^ (5 - k)] }
  let s2 := (s1.countFailed).sqcEvent R.storeIntegSeq (fun t => (t.put R.storeIntegLevel k).put R.storeIntegIndexIndex i)
  let s3 := (s2.incSat R.storeIntegCountCount).raise 17
  if known then s3 else s3.logAdd 0x51 0xFFFF 0xFFFF (leBytes 1 k ++ leBytes 4 i)

/-- Marks that cover data page `page` go (STORE_RECHECK, R129). -/
def State.clearMarks (s : State) (page : Nat) : State :=
  { s with
    hs.failed := s.hs.failed.filter (fun f => decide (page / 8 ^ f.1 ≠ f.2))
    hs.failed5 := s.hs.failed5.filter (fun i => decide (page / 8 ^ 5 ≠ i)) }.countFailed

/-! ### Walking a path (R122 step 2, R129) -/

/-- Where a walk from the root ended: at a leaf with its tag; at the node asked for; above an empty tag; at a missing node page of
level k; at a mismatch of child (k, i) whose page has `key`; in a failed subtree; at a page the host could not deliver. -/
inductive Descent where
  | leaf (tag : Bytes)
  | held
  | empty
  | missing (k : Nat)
  | mismatch (k i key : Nat) (second : Bool)
  | failed
  | unavailable
  deriving DecidableEq, Repr

/-- From node (k, ·) with contents `node` down towards data page `page`, as far as level `stop` (0 for the page's own tag);
`marks` is false for STORE_RECHECK, which looks past the marks. Nodes that verify enter the cache. -/
def State.descend (s : State) (page stop : Nat) (marks : Bool) : Nat → Bytes → State × Descent
  | 0, _ => (s, .empty)
  | k + 1, node =>
    let i := page / 8 ^ k
    let tag := childTag node (i % 8)
    if marks && s.subtreeFailed k i then (s, .failed)
    else if tag = emptyTag then (s, .empty)
    else if k = 0 then (s, .leaf tag)
    else match s.node k i with
      | some b => if k = stop then (s.useNode k i, .held) else (s.useNode k i).descend page stop marks k b
      | none =>
        let key := nodeKey (nodePage k i)
        match look s.hs.fetched key with
        | none => (s, .missing k)
        | some f =>
          if f.failed then (s, .unavailable)
          else match f.bytes with
            | none => (s, .mismatch k i key f.second)
            | some b =>
              let n := slice b (nodeOffset i) 128
              if treeTag s.keys.stk k i n = tag then
                if k = stop then (s.putNode k i n, .held) else (s.putNode k i n).descend page stop marks k n
              else (s, .mismatch k i key f.second)

/-- What reading a page comes to: its bytes, a wait for page keys, or a refusal. -/
inductive Read where
  | page (b : Bytes)
  | wait (keys : List Nat)
  | refused (status : Nat)
  deriving DecidableEq, Repr

/-- The page as an uncommitted change left it: visible at once (R124). -/
def State.dirtyPage (s : State) (page : Nat) : Option Bytes := s.hs.batches.reverse.findSome? (fun b => look b.pages page)

/-- The keys of the path of a page that are not here, from level `k` down to level `low`, and of the data page (R122 step 2); none
below a node that is here and holds the empty tag (R108). -/
def State.pathKeys (s : State) (page low : Nat) (data : Bool) : Nat → List Nat
  | 0 => if data && (s.dirtyPage page).isNone then [dataKey page] else []
  | k + 1 =>
    let i := page / 8 ^ (k + 1)
    if k + 1 < low then []
    else match s.node (k + 1) i with
      | none => nodeKey (nodePage (k + 1) i) :: s.pathKeys page low data k
      | some b => if childTag b (page / 8 ^ k % 8) = emptyTag then [] else s.pathKeys page low data k

/-- Fetches for the keys (R122 step 2: all at once). -/
def State.fetchKeys (s : State) (keys : List Nat) (urgent : Bool) : State := keys.foldl (fun t k => t.fetchKey k urgent false) s

/-- A mismatch: the page is fetched once more, or its subtree is marked failed (R129). -/
def State.mismatched (s : State) (k i key : Nat) (second : Bool) : State × Read :=
  if second then ({ s with hs.fetched := drop s.hs.fetched key }.markFailed k i, .refused St.storeIntegrity)
  else ({ s with hs.fetched := drop s.hs.fetched key }.fetchKey key true true, .wait [key])

/-- A data page read through its verified path (R108, R122 step 2, R129). A page in a failed subtree is refused without a fetch. -/
def State.readPage (s : State) (page : Nat) (marks : Bool) : State × Read :=
  if marks && s.subtreeFailed 0 page then (s, .refused St.storeIntegrity)
  else match s.descend page 0 marks 10 s.hs.root with
  | (s1, .empty) => (s1, .page emptyPage)
  | (s1, .held) => (s1, .page emptyPage)
  | (s1, .failed) => (s1, .refused St.storeIntegrity)
  | (s1, .unavailable) => (s1, .refused St.storeUnavailable)
  | (s1, .mismatch k i key second) => s1.mismatched k i key second
  | (s1, .missing k) =>
    let keys := s1.pathKeys page 1 true k
    (s1.fetchKeys keys true, .wait keys)
  | (s1, .leaf tag) =>
    match s1.dirtyPage page with
    | some b => (s1, .page b)
    | none =>
      let key := dataKey page
      match look s1.hs.fetched key with
      | none => (s1.fetchKey key true false, .wait [key])
      | some f =>
        if f.failed then (s1, .refused St.storeUnavailable)
        else match f.bytes with
          | none => s1.mismatched 0 page key f.second
          | some b => if treeTag s1.keys.stk 0 page b = tag then (s1, .page b) else s1.mismatched 0 page key f.second

/-- Node (k, i) held and verified, or known to be empty (R121). -/
def State.readNode (s : State) (k i : Nat) : State × Read :=
  if s.subtreeFailed k i then (s, .refused St.storeIntegrity)
  else match s.descend (i * 8 ^ k) k true 10 s.hs.root with
  | (s1, .failed) => (s1, .refused St.storeIntegrity)
  | (s1, .unavailable) => (s1, .refused St.storeUnavailable)
  | (s1, .mismatch j x key second) => s1.mismatched j x key second
  | (s1, .missing j) =>
    let keys := s1.pathKeys (i * 8 ^ k) k false j
    (s1.fetchKeys keys true, .wait keys)
  | (s1, _) => (s1, .page [])

/-- The nodes above child (`low`, ·) that share a node page with the path of `page` (R121): all 32 of each level, 8 at
level 9. -/
def pathNodes (page low : Nat) : List (Nat × Nat) :=
  (([9, 8, 7, 6, 5, 4, 3, 2, 1].filter (fun k => decide (low < k))).map (fun k =>
    (List.range (if k = 9 then 8 else 32)).map (fun j => (k, page / 8 ^ k / 32 * 32 + j)))).flatten

/-- The nodes of a list held, beside an earlier reading `r`: its refusals and waits join. -/
def State.readNodes (s : State) (r : Read) (l : List (Nat × Nat)) : State × Read :=
  l.foldl (fun (a : State × Read) n =>
    match a.2 with
    | .refused _ => a
    | _ =>
      match a.1.readNode n.1 n.2, a.2 with
      | (t, .page _), r => (t, r)
      | (t, .refused e), _ => (t, .refused e)
      | (t, .wait ks), .wait js => (t, .wait (js ++ ks.filter (fun x => !js.contains x)))
      | (t, .wait ks), _ => (t, .wait ks)) (s, r)

/-! ### Batches (R112, R124) -/

/-- An empty open batch. -/
def Batch.new : Batch := ⟨[], [], [], [], 0, [], [], 0⟩

/-- Whether a batch is open, and the state with one. -/
def State.batchOpen (s : State) : Bool := match s.hs.batches.getLast? with | some b => b.phase == 0 | none => false
def State.openBatch (s : State) : State :=
  if s.batchOpen then s
  else ({ s with hs.batches := s.hs.batches ++ [Batch.new] }).put R.storeStatusBatchOpen 1

/-- The open batch changed by `f`. -/
def State.onOpen (s : State) (f : Batch → Batch) : State :=
  match s.hs.batches.reverse with
  | b :: rest => { s with hs.batches := (f b :: rest).reverse }
  | [] => s

/-- STORE_CACHE.DIRTY: the nodes of batches that have not committed. -/
def State.countDirty (s : State) : State :=
  s.put R.storeCacheDirty ((s.hs.batches.map (fun b => b.nodes)).flatten.eraseDups.length)

/-- `x` joins a list that does not hold it. -/
def addNew (l : List Nat) (x : Nat) : List Nat := if l.contains x then l else l ++ [x]

/-- The path above child (`low`, ·) towards data page `page` takes new tags up to the root, from that child's `tag` on (R108,
R124). -/
def State.retagFrom (s : State) (page low : Nat) (tag : Bytes) : State :=
  let up := ([1, 2, 3, 4, 5, 6, 7, 8, 9].filter (fun k => decide (low < k))).foldl (fun (a : State × Bytes) k =>
    let i := page / 8 ^ k
    let n := setChild ((a.1.node k i).getD emptyNode) (page / 8 ^ (k - 1) % 8) a.2
    ((a.1.putNode k i n).onOpen (fun x => { x with nodes := addNew x.nodes (nodeId k i) }), tagFor s.keys.stk k i n))
    (s, tag)
  { up.1 with hs.root := setChild up.1.hs.root (page / 8 ^ 9 % 8) up.2 }

/-- The path of a changed page. -/
def State.retag (s : State) (page : Nat) (b : Bytes) : State := s.retagFrom page 0 (tagFor s.keys.stk 0 page b)

/-- The writes of a closing batch (R112 step 1, R128): its data pages, TRIM for those left empty, and every node page it
changed, with all its 32 nodes (R121). -/
def State.batchWrites (s : State) (b : Batch) : List (Nat × Nat × Bytes) :=
  let datas := b.pages.map (fun p => if allZero p.2 then (7, p.1, []) else (3, p.1, p.2))
  let nps := b.nodes.foldl (fun (a : List (Nat × Nat × Nat)) id =>
    let e := (nodePage (id / 2 ^ 27) (id % 2 ^ 27), id / 2 ^ 27, id % 2 ^ 27 / 32 * 32)
    if a.contains e then a else a ++ [e]) []
  datas ++ nps.map (fun e => (4, e.1,
    ((List.range 32).map (fun j => if e.2.1 = 9 ∧ j ≥ 8 then emptyNode else (s.node e.2.1 (e.2.2 + j)).getD emptyNode)).flatten))

/-- The first closed batch posts its writes once no batch before it is committing (R112 step 1, R124). -/
def State.startCommit (s : State) : State :=
  match s.hs.batches with
  | b :: rest =>
    if b.phase = 1 ∧ s.is R.storeStatusOpen ∧ !s.is R.storeStatusReopenWait then
      let v := s.get R.storeVersionVersion + 1
      b.writes.foldl (fun t w => t.post { plainReq w.1 w.2.1 v false with data := w.2.2 }) { s with hs.batches := { b with phase := 2 } :: rest }
    else s
  | [] => s

/-- Whether a write of the committing batch is still to be posted. -/
def State.writesLeft (s : State) : Bool :=
  let write (r : Req) : Bool := r.op == 3 || r.op == 4
  s.hs.waiting.any write || s.hs.unposted.any write || s.hs.posting.any write

/-- Once the last write is posted, the BARRIER is (R112 step 2, R117). -/
def State.barrier (s : State) : State :=
  match s.hs.batches with
  | b :: rest =>
    if b.phase = 2 ∧ !s.writesLeft then
      let s1 := ({ s with hs.batches := { b with phase := 3 } :: rest }).put R.storeStatusCommitting 1
      s1.post (plainReq 5 0 (s.get R.storeVersionVersion + 1) false)
    else s
  | [] => s

/-- The oldest waiting request of the first class that can be posted goes out, and after the last write the BARRIER (R117). -/
def State.postWaiting (s : State) : State := s.postOne.barrier

/-- The open batch closes (R124): its writes, root and NEXT_SERIAL are fixed, and its commit begins. -/
def State.closeBatch (s : State) : State :=
  if s.batchOpen then
    let s1 := (s.onOpen (fun b => { b with phase := 1, writes := s.batchWrites b, root := s.hs.root, serial := s.hs.nextSerial })).put
      R.storeStatusBatchOpen 0
    s1.startCommit.barrier
  else s

/-- Whether node (k, i) is held, or known to be empty. -/
def State.nodeKnown (s : State) (k i : Nat) : Bool :=
  match (s.descend (i * 8 ^ k) k true 10 s.hs.root).2 with
  | .held => true
  | .empty => true
  | _ => false

/-- A data page that is to be changed: read, with every node held that its write will need (R121). Where the cache has no room for
them all, the open batch closes early and the change waits for its commit (R120). -/
def State.readForChange (s : State) (page : Nat) : State × Read :=
  match s.readPage page true with
  | (s1, .page b) =>
    match s1.readNodes (.page b) (pathNodes page 0) with
    | (s2, .page x) =>
      if s2.batchOpen ∧ !(pathNodes page 0).all (fun n => s2.nodeKnown n.1 n.2) then (s2.closeBatch, .wait [needStore]) else (s2, .page x)
    | other => other
  | other => other

/-- A data page changes in the open batch (R124): merged per page, visible at once; the batch closes when PAGES data pages
are dirty, or when the cache has no room left (R120). -/
def State.changePage (s : State) (page : Nat) (b : Bytes) : State :=
  let s1 := s.openBatch.onOpen (fun x => { x with pages := store x.pages page b })
  ({ s1.retag page b with hs.fetched := drop s1.hs.fetched (dataKey page) }).countDirty

/-- The bound on a batch's data pages, judged once a command's changes are made. -/
def State.closeIfFull (s : State) : State :=
  match s.hs.batches.getLast? with
  | some b => if b.phase = 0 ∧ (b.pages.length ≥ s.get R.storeBatchCfgPages ∨ s.cacheFull) then s.closeBatch else s
  | none => s

/-- A command's completion is staged with the batch that holds its change (R124, R125). -/
def State.stageDone (s : State) (h : Held) : State :=
  ((s.openBatch.onOpen (fun b => { b with cmds := b.cmds ++ [h] })).setStage h.cid .committed).closeIfFull

/-- The same for a command that may have filled a batch by now: its completion waits for the newest batch. -/
def State.stageLast (s : State) (h : Held) : State :=
  match s.hs.batches.reverse with
  | b :: rest => { s with hs.batches := ({ b with cmds := b.cmds ++ [h] } :: rest).reverse }.setStage h.cid .committed
  | [] => s.complete h.cid h.resp

/-! ### The curve table (R154, R156) -/

/-- The record of Table PK.9a under a handle. -/
def Curve.bytes (c : Curve) (handle : Nat) : Bytes :=
  let n := (c.pbits + 7) / 8
  [1] ++ leBytes 1 handle ++ leBytes 2 c.pbits ++ leBytes 1 c.h ++ leBytes 3 0 ++ leBytes 8 c.label ++ beBytes n c.p ++ beBytes n c.a
    ++ beBytes n c.b ++ beBytes n c.gx ++ beBytes n c.gy ++ beBytes (n + 1) c.n

/-- A record that fails its CMAC at a store open is not loaded, and its handle is gone for this epoch (R156). -/
def State.checkCurves (s : State) : State :=
  (s.eng.curves.filter (fun x => Config.cmac s.keys.stk (x.2.bytes x.1) != x.2.mac)).foldl (fun t x =>
    ((({ t with eng.curves := drop t.eng.curves x.1 }.putBit R.pkeCurveMapLoaded x.1 false).putBit R.pkeCurveRetiredRetired x.1
      true).logAdd 0x52 0xFFFF 0xFFFF (leBytes 1 x.1))) s

/-! ### Root records and the anchor (R110 to R114) -/

/-- Bytes 0–159 of a root record (Table HS.5). -/
def RootRec.body (r : RootRec) : Bytes :=
  leBytes 8 r.version ++ leBytes 1 r.epoch ++ leBytes 3 0 ++ leBytes 1 r.log2 ++ leBytes 3 0 ++ r.root ++ leBytes 8 r.serial
    ++ leBytes 8 r.cycle

/-- Bytes 0–251, which the CRC covers. -/
def RootRec.covered (r : RootRec) : Bytes := padTo 252 (padTo 160 r.body ++ padTo 16 r.tag)

/-- A record for the version, with ROOT_TAG under STK and its CRC. -/
def State.makeRecord (s : State) (v epoch log2 : Nat) (root : Bytes) (serial : Nat) : RootRec :=
  let r : RootRec := ⟨v, epoch, log2, root, serial, s.compass.count % 2 ^ 48, [], 0⟩
  let r1 := { r with tag := treeTag s.keys.stk 10 0 r.body }
  { r1 with crc := Config.crc32c r1.covered }

/-- A record is written at position v mod 1,024 of bank 0 and then bank 1 (R110, R112 step 4). -/
def State.writeRecord (s : State) (r : RootRec) : State :=
  { s with hs.bank0 := store s.hs.bank0 (r.version % 1024) r, hs.bank1 := store s.hs.bank1 (r.version % 1024) r }

/-- Whether a record verifies for the epoch (R113). -/
def State.recordOk (s : State) (epoch : Nat) (r : RootRec) : Bool :=
  r.epoch == epoch && r.crc == Config.crc32c r.covered && r.tag == treeTag s.keys.stk 10 0 r.body

/-- The records that verify in one bank only are copied to the other (R113). -/
def State.copyRecords1 (s : State) (epoch : Nat) : State :=
  let fill (into_ from_ : Amap RootRec) : Amap RootRec :=
    from_.foldl (fun a e =>
      if s.recordOk epoch e.2 ∧ !((look into_ e.1).any (fun r => s.recordOk epoch r)) then store a e.1 e.2 else a) into_
  { s with hs.bank0 := fill s.hs.bank0 s.hs.bank1, hs.bank1 := fill s.hs.bank1 s.hs.bank0 }

/-- The record of a version that verifies in one bank at least. -/
def State.record (s : State) (epoch v : Nat) : Option RootRec :=
  let good (b : Amap RootRec) : Option RootRec :=
    (look b (v % 1024)).bind (fun r => if r.version = v ∧ s.recordOk epoch r then some r else none)
  match good s.hs.bank0 with
  | some r => some r
  | none => good s.hs.bank1

/-- The newest version of a record that verifies, 0 where none does. -/
def State.newestRecord (s : State) (epoch : Nat) : Nat :=
  (s.hs.bank0 ++ s.hs.bank1).foldl (fun a e => if s.recordOk epoch e.2 then max a e.2.version else a) 0

/-- The store anchor, `none` where its copies disagree beyond what they decode to (R111). -/
def State.anchor (s : State) : Option Nat := s.keys.anchor.read.map (fun b => le b 0 8)

/-- The keeper accepts one change to the store anchor: an increase by exactly 1 (R111); both copies are written. -/
def State.raiseAnchor (s : State) (v : Nat) : State :=
  if s.anchor = some (v - 1) ∧ v ≠ 0 then
    { s with keys.anchor := Twin.of (leBytes 8 v) (padTo 8 s.keys.anchor.mask) }.put R.keeperStoreAnchorAnchor v
  else s

/-- The caches and marks of a store that closes or reopens: every mark clears at the next open (R129), and nodes and pages
are read again. -/
def State.clearStore (s : State) : State :=
  let s1 := { s with
    hs.pinned := [], hs.others := [], hs.fetched := [], hs.failed := [], hs.failed5 := [], hs.large := [], hs.prefill := none }
  ((((s1.put R.storeCachePinned 0).put R.storeCacheDirty 0).put R.storeStatusPrefilled 0).put R.storeStatusOpen 0).countFailed

/-- STK of the present epoch (R109), in reserved slot 0xFF08. -/
def State.setStk (s : State) : State :=
  { s with keys.stk := if s.keys.idSeeds.isEmpty then []
      else kdf s.keys.idSeeds "STORE" (s.life.serial ++ leBytes 1 (s.get R.keeperStoreEpochRows)) 256 }

/-- Steps 3 and 4 of R115: root record a + 1 of the new epoch, empty, and the anchor; the curve table is cleared (R156). -/
def State.formatRecord (s : State) (log2 : Nat) : State :=
  let v := s.anchor.getD 0 + 1
  let epoch := s.get R.keeperStoreEpochRows
  let s1 := ((s.writeRecord (s.makeRecord v epoch log2 emptyNode 1)).raiseAnchor v).put R.storeStatusRollback 0
  (({ s1 with eng.curves := [] }.put R.pkeCurveMapLoaded 63).put R.pkeCurveRetiredRetired 0).logAdd 0x53 0xFFFF 0xFFFF
    (leBytes 1 epoch ++ leBytes 1 log2)

/-- A format record with its CRC, and whether it holds. -/
def FormatRec.body (f : FormatRec) : Bytes := leBytes 1 f.target ++ leBytes 1 f.log2 ++ [0, 0] ++ leBytes 4 f.opId ++ leBytes 4 0
def FormatRec.ok (f : FormatRec) : Bool := f.crc == Config.crc32c f.body

/-- It is written to bank 0 and then bank 1, and zeroed in both (R115). -/
def State.writeFormat (s : State) (target log2 opId : Nat) : State :=
  let f : FormatRec := ⟨target, log2, opId, 0⟩
  let r := { f with crc := Config.crc32c f.body }
  { s with hs.format := some r, hs.formatCopy := some r }
def State.zeroFormat (s : State) : State := { s with hs.format := none, hs.formatCopy := none }

/-- The record that holds: bank 0's copy, else bank 1's. -/
def State.formatHeld (s : State) : Option FormatRec :=
  match s.hs.format.filter FormatRec.ok with
  | some f => some f
  | none => s.hs.formatCopy.filter FormatRec.ok

/-- The format record at an open (R115): an interrupted format is completed, one that never burned its row is zeroed. -/
def State.resumeFormat (s : State) : State :=
  match s.formatHeld with
  | none => s
  | some f =>
    let epoch := s.get R.keeperStoreEpochRows
    let a := s.anchor.getD 0
    let s1 := s.zeroFormat
    if f.target = epoch ∧ (s.record epoch a).isNone ∧ (s.record epoch (a + 1)).isNone then s1.formatRecord f.log2 else s1

/-- R114: the store stays closed. -/
def State.rollback (s : State) : State :=
  ((s.put R.storeStatusRollback 1).logAdd 0x50 0xFFFF 0xFFFF (leBytes 8 (s.get R.keeperStoreAnchorAnchor)
    ++ leBytes 8 (s.newestRecord (s.get R.keeperStoreEpochRows)))).raise 18

/-- The version a store opens at is chosen against the anchor (R113), or the store stays closed (R114). OPEN follows with the
answer to REOPEN. -/
def State.selectRoot (s0 : State) : State :=
  let s1 := (s0.clearStore.setStk).put R.storeEpochEpoch (s0.get R.keeperStoreEpochRows)
  if s1.keys.stk.isEmpty then s1
  else
    let epoch := s1.get R.keeperStoreEpochRows
    let s := (s1.resumeFormat.checkCurves).copyRecords1 epoch
    let a := s.anchor.getD 0
    let v := if s.anchor.isNone then none else match s.record epoch (a + 1) with
      | some r => some r
      | none => s.record epoch a
    match v with
    | some r =>
      if s.newestRecord epoch > a + 1 then s.rollback
      else
        let s2 := (s.raiseAnchor r.version).put R.storeVersionVersion r.version
        { s2.put R.storeEpochPagesLog2 r.log2 with hs.root := r.root, hs.nextSerial := r.serial }
    | none => s.rollback

/-! ### Commit, failure and reopening -/

/-- A staged completion is released: its key is loaded first where LOAD asked for it (R233, log entry 16), and the command
completes; with no slot ready it waits. -/
def State.finishHeld (s : State) (h : Held) : State :=
  match h.load with
  | none => s.complete h.cid h.resp
  | some (inst, c) =>
    if !s.slotsReady then { s with hs.stagedDone := s.hs.stagedDone ++ [(0, h)] }
    else match s.loadSlot inst c with
      | .ok (s1, handle) => s1.complete h.cid { h.resp with key := handle }
      | .error st => s.complete h.cid { h.resp with status := st }

/-- Completions staged at a G5 reset: OK at or below the version reopened at, else ENGINE_RESET (R125). -/
def State.releaseStaged (s : State) : State :=
  let held := s.hs.stagedDone
  held.foldl (fun t x => if x.1 ≤ s.get R.storeVersionVersion then t.finishHeld x.2 else t.complete x.2.cid (Resp.of St.engineReset))
    { s with hs.stagedDone := [] }

/-- A rotation link is made once the successor's batch has committed (R195 step 3). -/
def State.linkSuccessor (s : State) (l : Nat × Nat × Nat × Nat) : State :=
  match look s.keys.slots l.1 with
  | some x =>
    if x.epoch = l.2.1 then
      let s1 := { s with keys.slots := store s.keys.slots l.1 { x with successor := some l.2.2.1 } }
      let s2 := s1.sqcEvent R.skeNonceEventSeq (fun t => ((((((t.put R.skeNonceEventLow 0).put R.skeNonceEventExhausted 0).put
        R.skeNonceEventRotated 1).put R.skeNonceEventRotateFailed 0).put R.skeNonceEventBaseLost 0).put
        R.skeNonceEventSlotSlot l.1))
      let ref := ((look s2.keys.slots (l.2.2.1 % 0x10000)).map (·.ref)).getD 0
      (((s2.incSat R.skeNonceExhaustsRotations).raise 34).notice x.loader 4 l.2.2.2 l.2.2.1 ref St.ok)
    else s
  | none => s

/-- Steps 4 to 6 of R112: the root record in both banks, the anchor, COMMITTED, and every command whose change lies in the
batch. -/
def State.commitBatch (s : State) : State :=
  match s.hs.batches with
  | b :: rest =>
    let v := s.get R.storeVersionVersion + 1
    let r := s.makeRecord v (s.get R.storeEpochEpoch) (s.get R.storeEpochPagesLog2) b.root b.serial
    let s1 := (((s.writeRecord r).raiseAnchor v).put R.storeVersionVersion v).put R.storeStatusCommitting 0
    let s2 := ({ s1 with hs.batches := rest }.countDirty).post (plainReq 6 0 v false)
    let s3 := b.cmds.foldl (fun t h => t.finishHeld h) s2
    (b.links.foldl (fun t l => t.linkSuccessor l) s3).startCommit.barrier
  | [] => s

/-- Every batch short of step 4 is abandoned; its commands complete with the status (R476, R478). -/
def State.abandon (s : State) (status : Nat) : State :=
  let cmds := (s.hs.batches.map (fun b => b.cmds)).flatten
  let aged := s.hs.reqs.map (fun (r : Nat × Req) => (r.1, if r.2.op ≥ 3 then { r.2 with stale := true } else r.2))
  let s1 := { s with hs.batches := [], hs.waiting := [], hs.unposted := [], hs.posting := none, hs.reqs := aged }
  let s2 := (s1.put R.storeStatusBatchOpen 0).put R.storeStatusCommitting 0
  cmds.foldl (fun t h => t.complete h.cid (Resp.of status)) s2

/-- The store reopens (R113, R118): the root is chosen, and REOPEN is the first new request; nothing else is posted until it is
answered. -/
def State.reopen (s : State) : State :=
  let s1 := s.selectRoot
  if s1.is R.storeStatusRollback ∨ s1.keys.stk.isEmpty ∨ !s1.hs.attached then s1.put R.storeStatusReopenWait 0
  else (s1.put R.storeStatusReopenWait 1).post (plainReq 8 0 (s1.get R.storeVersionVersion) false)

/-- A batch fails (R476): it and every later one are abandoned, and the store reopens. -/
def State.failBatch (s : State) : State := (s.abandon St.storeUnavailable).reopen

/-- REOPEN is answered (R113, R118, R120, R125): the store is open, the prefill begins and staged completions are released. -/
def State.reopened (s : State) : State :=
  let s1 := { (s.put R.storeStatusReopenWait 0).put R.storeStatusOpen 1 with hs.prefill := some (9, 0) }
  s1.releaseStaged

/-- The answer to a request (R119, R476): RESULT, and the page a fetch brought. -/
def State.answer (s : State) (r : Req) (result : Nat) (page : Option Bytes) : State :=
  let key := 2 * r.page + (if r.op = 2 then 1 else 0)
  let again := { r with again := true, buffer := none }
  if r.op = 1 ∨ r.op = 2 then
    match result, page with
    | 0, some b => { s with hs.fetched := store s.hs.fetched key ⟨some b, r.second, false⟩ }
    | 2, _ => { s with hs.fetched := store s.hs.fetched key ⟨none, r.second, false⟩ }
    | _, _ =>
      if r.again then { s with hs.fetched := store s.hs.fetched key ⟨none, r.second, true⟩ } else s.post again
  else if r.op = 3 ∨ r.op = 4 then
    if result = 0 then s
    else if r.again then s.failBatch
    else s.post again
  else if r.op = 5 then (if result = 0 then s.commitBatch else s.failBatch)
  else if r.op = 8 then s.reopened
  else s

/-- The device takes the response entry at STORE_RSP_CONS, if the host has written one (R116, R119, R475). -/
def State.takeResponse (s : State) (rsp : StoreRsp) : State :=
  let cons := s.get R.storeRspConsIndex
  if !s.hs.attached ∨ cons = s.get R.storeRspProdIndex then s
  else match rsp.entry with
    | none =>
      let a := s.get R.storeRspBaseAddr + 16 * (cons % 2 ^ s.get R.storeRspCfgLog2Size)
      { s.ituFault 0 a ((s.storeReach a 16 false).getD 4) false with hs.stuck := true }
    | some (tag, result) =>
      let s1 := { s with hs.stuck := false }.put R.storeRspConsIndex (cons + 1)
      match look s1.hs.reqs tag with
      | none => s1.incSat R.storeRspConsDropped
      | some r =>
        let s2 := { s1 with hs.reqs := drop s1.hs.reqs tag }
        if r.stale then s2
        else if (r.op = 1 ∨ r.op = 2) ∧ result = 0 ∧ rsp.page.isNone then
          let a := s.get R.storePoolBaseAddr + 4096 * r.buffer.getD 0
          (s2.ituFault 0 a ((s.storeReach a 4096 false).getD 4) false).answer r 1 none
        else s2.answer r result (rsp.page.map (padTo 4096))

/-- Requests that could not be posted count as answered with MEDIUM_ERROR (R475); at most `fuel` of them. -/
def State.serveUnposted (s : State) : Nat → State
  | 0 => s
  | fuel + 1 =>
    match s.hs.unposted with
    | [] => s
    | r :: rest => ({ s with hs.unposted := rest }.answer r 1 none).serveUnposted fuel

/-- The prefill (R120): the non-empty pinned nodes, level by level, one node page at a time; a node that fails its tag twice
is marked failed and the prefill goes on. -/
def State.prefillStep (s : State) : Nat → State
  | 0 => s
  | fuel + 1 =>
    match s.hs.prefill with
    | none => s
    | some (k, p) =>
      let nodes := max 1 (s.storePages / 8 ^ k)
      let next := { s with hs.prefill := some (k, p + 1) }
      if k < s.pinLevel then { s.put R.storeStatusPrefilled 1 with hs.prefill := none }
      else if 32 * p ≥ nodes then { s with hs.prefill := some (k - 1, 0) }.prefillStep fuel
      else
        let tagOf (i : Nat) : Bytes := childTag ((s.node (k + 1) (i / 8)).getD emptyNode) (i % 8)
        let want := ((List.range 32).map (fun j => 32 * p + j)).filter (fun i =>
          decide (i < nodes) && (s.node k i).isNone && tagOf i != emptyTag && !s.subtreeFailed k i)
        let key := nodeKey (nodeBase k + p)
        if want.isEmpty then next.prefillStep fuel
        else match look s.hs.fetched key with
          | none => s.fetchKey key false false
          | some f =>
            let body (i : Nat) : Bytes := slice (f.bytes.getD []) (nodeOffset i) 128
            let good (i : Nat) : Bool := f.bytes.isSome && treeTag s.keys.stk k i (body i) == tagOf i
            let s1 := { (want.filter good).foldl (fun t i => t.putNode k i (body i)) s with hs.fetched := drop s.hs.fetched key }
            let bad := want.filter (fun i => !good i)
            if f.failed ∨ bad.isEmpty then { s1 with hs.prefill := some (k, p + 1) }.prefillStep fuel
            else if f.second then
              { bad.foldl (fun (t : State) i => t.markFailed k i) s1 with hs.prefill := some (k, p + 1) }.prefillStep fuel
            else s1.fetchKey key false true

/-- A G5 reset and the store (R125, R478): batches short of step 4 are abandoned with their completions staged, outstanding
requests keep TAG and buffer until they are answered, and the store is closed. -/
def State.storeReset (s : State) : State :=
  let v := s.get R.storeVersionVersion
  let stagedNow := (s.hs.batches.mapIdx (fun i b => b.cmds.map (fun h => (v + 1 + i, h)))).flatten
  let aged := s.hs.reqs.map (fun (r : Nat × Req) => (r.1, { r.2 with stale := true }))
  let s1 := { s with
    hs.batches := [], hs.waiting := [], hs.unposted := [], hs.posting := none, hs.formatting := none
    hs.stagedDone := s.hs.stagedDone ++ stagedNow, hs.reqs := aged }
  (((s1.clearStore.put R.storeStatusBatchOpen 0).put R.storeStatusCommitting 0).put R.storeStatusReopenWait 0)

/-! ### The gate of a store command (R114, R115, R478) -/

/-- Whether a command that needs the store runs now: STORE_UNAVAILABLE before the first STORE_ATTACH, held while REOPEN_WAIT or the
block's QUIESCE is 1 (R55), STORE_INTEGRITY while the store is closed; one that changes the store is held while a format waits or runs. -/
def State.storeGate (s : State) (changes : Bool) : Option Answer :=
  if !s.hs.attached then some (.of St.storeUnavailable)
  else if s.is R.storeStatusReopenWait ∨ s.is (R.hdrCtrlQuiesce 0xA0000) then some (.wait [needStore])
  else if !s.is R.storeStatusOpen then some (.of St.storeIntegrity)
  else if changes ∧ s.hs.formatting.isSome then some (.wait [needStore])
  else none

end Sys2Proof.Machine
end

