-- ==== Sys2Proof/Machine/Crypto.lean ====
section
/-! DEFINITION. The public-key engine's values (chapter 5): arithmetic mode (R157, R158), curve handles, the key encodings of R149 to
R152, private operations under the blinding of R166, and run times (Table PK.9). -/

namespace Sys2Proof.Machine

/-- The key and the second key of a job, where the shares meet inside the engine (R98). -/
def Job.secret (j : Job) : Bytes := if j.mask.isEmpty then j.key else xorBytes j.key j.mask
def Job.secret2 (j : Job) : Bytes := if j.mask2.isEmpty then j.key2 else xorBytes j.key2 j.mask2

/-! ### Arithmetic mode (R157, R158) -/

/-- Whether a modulus fits the declared size L = 64w (R157). -/
def modulusOk (w m : Nat) : Bool := decide (2 ≤ w ∧ w ≤ 128) && m % 2 == 1 && decide (2 ^ (64 * w - 64) ≤ m) && decide (m < 2 ^ (64 * w))

/-- An arithmetic-mode operation (Table PK.10): status and value; the result is zero unless the status is OK (R158). -/
def arith (op m a b : Nat) : Nat × Nat :=
  if op = 0x44 then (if a ≥ m then (St.operandRange, 0) else (St.ok, powMod m a b))
  else if op = 0x43 then
    if a ≥ m then (St.operandRange, 0)
    else match invMod m a with
      | some x => (St.ok, x)
      | none => (St.notInvertible, 0)
  else if a ≥ m ∨ b ≥ m then (St.operandRange, 0)
  else if op = 0x40 then (St.ok, (a + b) % m)
  else if op = 0x41 then (St.ok, (a + m - b) % m)
  else (St.ok, a * b % m)

/-! ### Curve handles -/

/-- The curve of a handle, built in or loaded; CURVE_RETIRED and CURVE_UNKNOWN otherwise (R153, R156, R161). -/
def State.curve (s : State) (h : Nat) : Except Nat CurveP :=
  match builtinCurve h with
  | some c => .ok c
  | none =>
    if h < 64 ∧ bitOf (s.get R.pkeCurveRetiredRetired) h then .error St.curveRetired
    else match look s.eng.curves h with
      | some c => if bitOf (s.get R.pkeCurveMapLoaded) h then .ok ⟨c.pbits, c.h, c.p, c.a, c.b, c.gx, c.gy, c.n⟩ else .error St.curveUnknown
      | none => .error St.curveUnknown

/-- A job whose curve handles are these takes their curves along (R161, R170). -/
def State.withCurves (s : State) (j : Job) (hs : List Nat) : Job :=
  { j with curves := hs.filterMap (fun h => match s.curve h with | .ok c => some (h, c) | .error _ => none) }

/-- The curve of a handle of a job, as its dispatch found it. -/
def Job.curveAt (j : Job) (h : Nat) : Option CurveP := look j.curves h

/-! ### Key encodings (Table KH.10, R149 to R152) -/

/-- The byte lengths a small key of a TYPE may have (Table KH.10); of TYPE 0x10, on the curve given. -/
def lenOk (typ : Nat) (c : Option CurveP) (len : Nat) : Bool :=
  if typ = 1 then len == 16 else if typ = 2 then len == 24
  else if typ = 3 ∨ typ = 4 ∨ typ = 6 ∨ typ = 0x11 ∨ typ = 0x13 ∨ typ = 0x21 then len == 32
  else if typ = 5 then decide (1 ≤ len ∧ len ≤ 128)
  else if typ = 0x10 then (match c with | some c => len == c.nlen | none => false)
  else if typ = 0x12 then len == 57 else if typ = 0x14 then len == 56 else if typ = 0x20 then len == 64
  else false

/-- The curve of a handle, where it is usable. -/
def State.curve? (s : State) (h : Nat) : Option CurveP := match s.curve h with | .ok c => some c | .error _ => none

/-- The lengths with the curves as they stand. -/
def keyLenOk (s : State) (typ curve len : Nat) : Bool := lenOk typ (s.curve? curve) len

/-- The fields of an RSA private key (Table PK.5). -/
structure RsaKey where
  bits : Nat
  elen : Nat
  n : Nat
  e : Nat
  p : Nat
  q : Nat
  dp : Nat
  dq : Nat
  qinv : Nat
  deriving DecidableEq, Repr

/-- The key that bytes spell, where the layout of R149 holds. -/
def rsaOf (b : Bytes) : Option RsaKey :=
  let bits := le b 0 2
  let elen := le b 2 2
  let nb := bits / 8
  let hb := bits / 16
  let k : RsaKey := ⟨bits, elen, ofBe (slice b 8 nb), ofBe (slice b (8 + nb) elen), ofBe (slice b (8 + nb + elen) hb),
    ofBe (slice b (8 + nb + elen + hb) hb), ofBe (slice b (8 + nb + elen + 2 * hb) hb),
    ofBe (slice b (8 + nb + elen + 3 * hb) hb), ofBe (slice b (8 + nb + elen + 4 * hb) hb)⟩
  if bits % 64 = 0 ∧ 2048 ≤ bits ∧ bits ≤ 8192 ∧ 1 ≤ elen ∧ elen ≤ 32 ∧ le b 4 4 = 0 ∧ b.length = 8 + nb + elen + 5 * hb
      ∧ bitLen k.n = bits ∧ bitLen k.p = bits / 2 ∧ bitLen k.q = bits / 2 ∧ k.e % 2 = 1 ∧ 3 ≤ k.e then some k else none

/-- The checks of R152 on an RSA key. -/
def RsaKey.valid (k : RsaKey) : Bool :=
  k.n == k.p * k.q && k.e * k.dp % (k.p - 1) == 1 && k.e * k.dq % (k.q - 1) == 1 && k.qinv * k.q % k.p == 1

/-- The public key of an RSA key: n, then e (R148). -/
def RsaKey.public (k : RsaKey) : Bytes := beBytes (k.bits / 8) k.n ++ beBytes k.elen k.e

/-- The fields of an FFDH private key (Table PK.6). -/
structure FfdhKey where
  pbits : Nat
  qbits : Nat
  xbits : Nat
  p : Nat
  g : Nat
  q : Nat
  x : Nat
  y : Nat
  deriving DecidableEq, Repr

/-- The limits of R150 on the sizes. -/
def ffdhSizesOk (pbits qbits xbits : Nat) : Bool :=
  pbits % 64 == 0 && decide (2048 ≤ pbits ∧ pbits ≤ 8192) && (qbits == 0 || (qbits % 32 == 0 && decide (160 ≤ qbits ∧ qbits ≤ 1024)))
    && xbits % 64 == 0 && decide (192 ≤ xbits ∧ xbits ≤ pbits) && (qbits == 0 || xbits == 64 * ((qbits + 63) / 64))

/-- The key that bytes spell. -/
def ffdhOf (b : Bytes) : Option FfdhKey :=
  let pb := le b 0 2 / 8
  let qb := le b 2 2 / 8
  let xb := le b 4 2 / 8
  if ffdhSizesOk (le b 0 2) (le b 2 2) (le b 4 2) ∧ le b 6 2 = 0 ∧ b.length = 8 + 3 * pb + qb + xb then
    some ⟨le b 0 2, le b 2 2, le b 4 2, ofBe (slice b 8 pb), ofBe (slice b (8 + pb) pb), ofBe (slice b (8 + 2 * pb) qb),
      ofBe (slice b (8 + 2 * pb + qb) xb), ofBe (slice b (8 + 2 * pb + qb + xb) pb)⟩
  else none

/-- The checks of R152 on an FFDH key. -/
def FfdhKey.valid (k : FfdhKey) : Bool :=
  decide (0 < k.x) && (k.qbits == 0 || decide (k.x < k.q)) && decide (k.x < k.p) && k.y == powMod k.p k.g k.x

/-- A component of a composite key: TYPE, CURVE, KEY (Table PK.7). -/
abbrev Component := Nat × Nat × Bytes

/-- The components in bytes, `count` of them. -/
def componentsGo : Nat → Bytes → Option (List Component)
  | 0, b => if b.isEmpty then some [] else none
  | n + 1, b =>
    let len := le b 2 2
    let pad := 8 * ((len + 7) / 8)
    if b.length < 8 + pad ∨ le b 4 4 ≠ 0 ∨ (le b 0 1 ≠ 0x10 ∧ le b 1 1 ≠ 0) then none
    else (componentsGo n (b.drop (8 + pad))).map (fun rest => (le b 0 1, le b 1 1, (b.drop 8).take len) :: rest)

/-- The components of a composite key (R151). -/
def componentsOf (b : Bytes) : Option (List Component) :=
  if (le b 0 1 = 2 ∨ le b 0 1 = 3) ∧ le b 1 7 = 0 ∧ b.length ≤ 4024 then componentsGo (le b 0 1) (b.drop 8) else none

/-- A component of a signing composite, and one of an agreement composite (R151). -/
def signComponent (c : Component) : Bool :=
  c.1 == 0x10 || c.1 == 0x11 || c.1 == 0x12 || c.1 == 0x21 || (c.1 == 0x40 && decide (le c.2.2 0 2 ≤ 4096))
def kemComponent (c : Component) : Bool := c.1 == 0x10 || c.1 == 0x13 || c.1 == 0x14 || c.1 == 0x20

/-- Whether a key of a single TYPE is valid (R152), on the curve given. -/
def simpleKeyValid (typ : Nat) (c : Option CurveP) (key : Bytes) : Bool :=
  if typ = 0x10 then (match c with | some c => decide (0 < ofBe key) && decide (ofBe key < c.n) && key.length == c.nlen | none => false)
  else if typ = 0x40 then ((rsaOf key).map RsaKey.valid).getD false
  else if typ = 0x41 then ((ffdhOf key).map FfdhKey.valid).getD false
  else lenOk typ c key.length

/-- Whether a key is valid (R152), with the curves that `cv` gives. -/
def keyValidWith (cv : Nat → Option CurveP) (typ curve : Nat) (key : Bytes) : Bool :=
  if typ = 0x42 then
    match componentsOf key with
    | some cs => (cs.all signComponent || cs.all kemComponent) && cs.all (fun c => simpleKeyValid c.1 (cv c.2.1) c.2.2)
    | none => false
  else simpleKeyValid typ (cv curve) key

/-- Whether a key is valid with the curves as they stand. -/
def keyValid (s : State) (typ curve : Nat) (key : Bytes) : Bool := keyValidWith s.curve? typ curve key

/-- The curve handles of a key: its own, or those of its components of TYPE 0x10. -/
def handlesOf (typ curve : Nat) (key : Bytes) : List Nat :=
  if typ = 0x10 then [curve]
  else if typ = 0x42 then (((componentsOf key).getD []).filter (fun c => c.1 == 0x10)).map (fun c => c.2.1)
  else []

/-- The refusal of a key whose components name a curve that is retired or unknown (R161). -/
def State.handleRefusal (s : State) (hs : List Nat) : Option Nat :=
  hs.findSome? (fun h => match s.curve h with | .ok _ => none | .error st => some st)

/-- The ML-KEM modulus check of FIPS 203: every 12-bit coefficient of the key's first bytes lies below 3,329. -/
def kemKeyOk (ek : Bytes) (n : Nat) : Bool :=
  (List.range (n / 3)).all (fun i =>
    let v := le ek (3 * i) 3
    decide (v % 4096 < 3329) && decide (v / 4096 < 3329))

/-! ### Private operations -/

/-- Byte `i` of the masking generator's part for a run (R164). -/
def Masks.byte (g : Masks) (i : Nat) : BitVec 8 := Config.chachaByte g.seed (g.start + i / 64) g.nonce (i % 64)

/-- `n` bytes of it from `off` on; none for a run without one. -/
def Job.maskBytes (j : Job) (off n : Nat) : Bytes :=
  match j.gen with
  | some g => (List.range n).map (fun i => g.byte (off + i))
  | none => []

/-- The blinding of a run's scalars and coordinates (R166): r of 64 bits, then the factor. -/
def Job.blind (j : Job) : Blind := ⟨ofLe (j.maskBytes 0 8), ofLe (j.maskBytes 64 128)⟩

/-- The RSA private operation by CRT: the exponents blinded as dP + r·(p − 1) and dQ + r·(q − 1), the base by a random factor to
the power e (R166). `r` has 16 bytes, `u` the factor. -/
def RsaKey.privateOp (k : RsaKey) (r : Bytes) (u m : Nat) : Nat :=
  let (u1, back) := match invMod k.n u with | some i => (u, i) | none => (1, 1)
  let b := m * powMod k.n u1 k.e % k.n
  let s1 := powMod k.p (b % k.p) (k.dp + ofLe (r.take 8) * (k.p - 1))
  let s2 := powMod k.q (b % k.q) (k.dq + ofLe (r.drop 8) * (k.q - 1))
  (s2 + k.q * (k.qinv * subMod k.p s1 s2 % k.p)) * back % k.n

/-- That operation as a job makes it. -/
def Job.rsa (j : Job) (k : RsaKey) (m : Nat) : Nat := k.privateOp (j.maskBytes 192 16) (ofLe (j.maskBytes 256 (k.bits / 8))) m

/-- The field of a lattice secret, and how many coefficients it has, by parameter set (FIPS 203, FIPS 204). -/
def latticeField (kem : Bool) : Nat := if kem then 3329 else 8380417
def latticeSize (kem : Bool) (set : Nat) : Nat := 256 * (if kem then [2, 3, 4].getD set 0 else [8, 11, 15].getD set 0)

/-- The secret coefficients of a seed. -/
def latticeSecret (kem : Bool) (set : Nat) (seed : Bytes) : List Nat :=
  (List.range (latticeSize kem set)).map (fun i => Config.latticeCoeff kem set seed i % latticeField kem)

/-- A job's lattice secret as its operand memory holds it: two arithmetic shares of each coefficient (R166). -/
def Job.latticeShares (j : Job) (kem : Bool) (set : Nat) (seed : Bytes) : List (Nat × Nat) :=
  let q := latticeField kem
  (latticeSecret kem set seed).zipIdx.map (fun x =>
    let m := ofLe (j.maskBytes (4096 + 4 * x.2) 4) % q
    (subMod q x.1 m, m))

/-- What a lattice program gives under the two shares of its secret. -/
def Job.lattice (j : Job) (prog set n : Nat) (kem : Bool) (seed inp draw : Bytes) : Bytes :=
  let secret := (j.latticeShares kem set seed).map (fun x => (x.1 + x.2) % latticeField kem)
  (List.range n).map (Config.latticeByte prog set secret seed inp draw)

/-- The same where the custody firmware makes it outside a job. -/
def latticeOut (prog set n : Nat) (kem : Bool) (seed inp draw : Bytes) : Bytes :=
  (List.range n).map (Config.latticeByte prog set (latticeSecret kem set seed) seed inp draw)

/-! ### Run times (Table PK.9, R171) -/

/-- The first listed size at or above `x`, with its times. -/
def sized (x : Nat) : List (Nat × Nat × Nat) → Nat × Nat
  | [] => (0, 0)
  | [(_, t)] => t
  | (n, t) :: rest => if x ≤ n then t else sized x rest

/-- ECDSA sign and verify, ECDH and key generation, in engine cycles, by handle; the curves without a row of their own in a
column take that of the listed curve of their size (log entry 17). -/
def ecTimes (s : State) (h : Nat) : Nat × Nat × Nat × Nat :=
  if h = 0 then (72000, 210000, 78000, 82500)
  else if h = 1 then (192000, 540000, 207000, 219000)
  else if h = 2 then (495000, 1395000, 540000, 570000)
  else if h = 3 then (78000, 225000, 78000, 82500)
  else if h = 4 then (84000, 247500, 78000, 82500)
  else if h = 5 then (225000, 630000, 207000, 219000)
  else
    let bits := match s.curve h with | .ok c => c.pbits | .error _ => 0
    if bits ≤ 256 then (90000, 262500, 97500, 97500)
    else if bits ≤ 384 then (240000, 696000, 259500, 259500)
    else if bits ≤ 512 then (480000, 1392000, 519000, 519000)
    else if bits ≤ 576 then (600000, 1740000, 648000, 648000)
    else if bits ≤ 768 then (1260000, 3654000, 1362000, 1362000)
    else (2700000, 7830000, 2916000, 2916000)

/-- Started blocks of `n` bytes beyond 64. -/
def beyond (len n : Nat) : Nat := (len - 64 + n - 1) / n

/-- RSA private and public run times at a modulus size. -/
def rsaTimes (bits : Nat) : Nat × Nat :=
  sized bits [(2048, 564000, 18660), (3072, 1740000, 39000), (4096, 3992000, 66000), (6144, 13200000, 144000),
    (8192, 30750000, 255000)]

/-- The run time of a program in engine cycles (Table PK.9, R171): ML-DSA signing at six attempts and RSA_KEYGEN at its mean,
as the cost of R286 takes them. `size` is the modulus or field size in bits, the parameter set, or w; `len` the message length, of
FFDH_AGREE XBITS; `ebits` the bits of e or E, of FFDH_AGREE QBITS. Table PK.9 has no row for EC_PUBLIC and FFDH_KEYGEN, which take the
time of EC_KEYGEN and of FFDH_AGREE without q, nor for FFDH_AGREE at an XBITS that it does not list, which takes that of its PBITS
(DESIGN CHOICE, log entry 17). -/
def runTime (s : State) (prog curve size len ebits : Nat) : Nat :=
  let ec := ecTimes s curve
  if prog = 0x01 then ec.1 else if prog = 0x02 then ec.2.1 else if prog = 0x03 then ec.2.2.2
  else if prog = 0x04 then ec.2.2.1 else if prog = 0x05 then ec.2.2.2
  else if prog = 0x08 then 55200 + 200 * beyond len 128 else if prog = 0x09 then 147000 + 70 * beyond len 128
  else if prog = 0x0A then 60000
  else if prog = 0x0C then 165000 + 200 * beyond len 128 else if prog = 0x0D then 435000 + 70 * beyond len 128
  else if prog = 0x0E then 180000
  else if prog = 0x10 then 46500 else if prog = 0x11 then 142500
  else if prog = 0x18 ∨ prog = 0x1A then (rsaTimes size).1
  else if prog = 0x19 ∨ prog = 0x1B then
    let w := size / 64
    (rsaTimes size).2 + (ebits - 17) * (2 * ((w * w + 1) / 2) + 48)
  else if prog = 0x1C then
    (sized size [(2048, 90000000, 0), (3072, 360000000, 0), (4096, 1080000000, 0), (8192, 14400000000, 0)]).1
  else if prog = 0x20 ∨ prog = 0x21 then
    let t := (sized size [(2048, 285000, 0), (3072, 630000, 0), (4096, 1110000, 0), (8192, 4350000, 0)]).1
    t + (if prog = 0x20 ∧ ebits ≠ 0 then t * ebits / len else 0)
  else if prog = 0x28 then [18000, 27000, 39000].getD size 0
  else if prog = 0x29 then [21000, 32000, 46500].getD size 0
  else if prog = 0x2A then [27000, 40000, 57000].getD size 0
  else if prog = 0x30 then [45000, 82500, 135000].getD size 0
  else if prog = 0x31 then [18000, 29250, 42000].getD size 0 + 6 * [33000, 45000, 63000].getD size 0 + 40 * beyond len 136
  else if prog = 0x32 then [63000, 101100, 168000].getD size 0 + 40 * beyond len 136
  else if prog = 0x3C then (sized size [(256, 3000000, 0), (384, 7500000, 0), (576, 16500000, 0), (768, 31500000, 0), (1024, 60000000, 0)]).1
  else if prog = 0x40 ∨ prog = 0x41 then 120 + 2 * size
  else if prog = 0x42 then 160 + (size * size + 1) / 2
  else if prog = 0x43 then 600 + 24 * (64 * size)
  else if prog = 0x44 then 400 + ebits * (2 * ((size * size + 1) / 2) + 48)
  else 1800000

end Sys2Proof.Machine
end

