-- ==== Sys2Proof/Machine/Pke.lean ====
section
/-! DEFINITION. The public-key engine (chapter 5): what each program yields, the job queues of both engines and their
arbitration (R188, R286), clusters, their states, seeds and wipes. -/

namespace Sys2Proof.Machine

/-! ### What a program yields (Table PK.4) -/

/-- A yield of a status, of a public result, of a rejection with `n` zero bytes (R162). -/
def Yield.of (st : Nat) : Yield := ⟨st, 0, 0, [], [], 0⟩
def Yield.give (b : Bytes) : Yield := ⟨St.ok, 0, 0, b, [], 0⟩
def Yield.keep (pub sec : Bytes) : Yield := ⟨St.ok, 0, 0, pub, sec, 0⟩
def Yield.rejected (reason n : Nat) : Yield := ⟨St.inputRejected, reason, 0, List.replicate n 0, [], 0⟩

/-- A rejection by a program whose secret has `n` bytes, beside `pub` public ones. -/
def Yield.noSecret (reason pub n : Nat) : Yield := { Yield.rejected reason pub with secret := List.replicate n 0 }

/-- OK, or VERIFY_FAILED. -/
def verdict (b : Bool) : Yield := Yield.of (if b then St.ok else St.verifyFailed)

/-- The message input of a signing or verifying program: the context, its length before it, then the message. -/
def Job.message (j : Job) : Bytes := leBytes 2 j.extra.length ++ j.extra ++ j.data

/-- Lengths of ML-KEM encapsulation keys and ciphertexts, and of ML-DSA public keys and signatures, by set. -/
def kemEk (set : Nat) : Nat := [800, 1184, 1568].getD set 0
def kemCt (set : Nat) : Nat := [768, 1088, 1568].getD set 0
def dsaPk (set : Nat) : Nat := [1312, 1952, 2592].getD set 0
def dsaSig (set : Nat) : Nat := [2420, 3309, 4627].getD set 0

/-- The parameter set in PARAM[3:2]. -/
def setOf (param : Nat) : Nat := field param 2 2

/-- The public key of a private key of a TYPE (KEY_PUBLIC_GET, Table CM.5), on the curve given: none for symmetric types. `lat` gives
the lattice programs' output. -/
def publicWith (b : Blind) (lat : Nat → Nat → Nat → Bool → Bytes → Bytes) (c : Option CurveP) (typ param : Nat) (key : Bytes) : Bytes :=
  if typ = 0x10 then (match c with | some c => c.public b key | none => [])
  else if typ = 0x11 then ed25519.public b key else if typ = 0x12 then ed448.public b key
  else if typ = 0x13 then x25519.public b key else if typ = 0x14 then x448.public b key
  else if typ = 0x20 then lat 0x28 (setOf param) (kemEk (setOf param)) true key
  else if typ = 0x21 then lat 0x30 (setOf param) (dsaPk (setOf param)) false key
  else if typ = 0x40 then ((rsaOf key).map RsaKey.public).getD []
  else if typ = 0x41 then ((ffdhOf key).map (fun k => beBytes (k.pbits / 8) k.y)).getD []
  else []

/-- The public key that the custody firmware makes outside a job. -/
def publicOf (s : State) (typ curve param : Nat) (key : Bytes) : Bytes :=
  publicWith Blind.none (fun prog set n kem seed => latticeOut prog set n kem seed [] []) (s.curve? curve) typ param key

/-- The public key that a job makes. -/
def Job.publicKey (j : Job) (typ : Nat) (key : Bytes) : Bytes :=
  publicWith j.blind (fun prog set n kem seed => j.lattice prog set n kem seed [] []) (j.curveAt j.curve) typ j.param key

/-- The public key of a composite key: each component's, preceded by its 2-byte length. -/
def publicKey (s : State) (typ curve param : Nat) (key : Bytes) : Bytes :=
  if typ = 0x42 then
    (((componentsOf key).getD []).map (fun c =>
      let p := publicOf s c.1 c.2.1 param c.2.2
      leBytes 2 p.length ++ p)).flatten
  else publicOf s typ curve param key

/-- An EdDSA verification: the public key and R must decode, S must lie below the order (Table PK.11, R472). -/
def edVerify (c : EdCurve) (pub sig context msg : Bytes) : Yield :=
  match c.decode pub, c.decode (sig.take c.len) with
  | none, _ => Yield.rejected 7 0
  | some _, none => Yield.rejected 7 0
  | some a, some r => if ofLe (sig.drop c.len) ≥ c.l then Yield.rejected 2 0 else verdict (c.verify a r pub sig context msg)

/-! ### RSA (Table PK.4) -/

/-- PSS in PARAM[2], the salt length in PARAM[10:3]. -/
def saltOf (param : Nat) : Nat := param / 8 % 256

/-- The RSA signature of a digest. The salt of PSS comes from the masking generator: RSA_SIGN does not draw from the DRBG (R165; DESIGN
CHOICE, log entry 105). -/
def Job.rsaSign (j : Job) (k : RsaKey) : Bytes :=
  let n := k.bits / 8
  let em := if bitOf j.param 2 then pssEncode (j.param % 4) (k.bits - 1) j.data (j.maskBytes 2048 (saltOf j.param))
    else pkcs1Encode (j.param % 4) n j.data
  beBytes n (j.rsa k (ofBe em))

/-- RSA_VERIFY: n in the first `tag.length` bytes of the public key, then e. -/
def Job.rsaVerify (j : Job) : Yield :=
  let size := j.tag.length
  let n := ofBe (j.aad.take size)
  let m := powMod n (ofBe j.tag) (ofBe (j.aad.drop size))
  let bits := bitLen n - 1
  if ofBe j.tag ≥ n then Yield.rejected 5 0
  else if bitOf j.param 2 then
    verdict (decide (bitLen m ≤ 8 * bytesOf bits) && pssVerify (j.param % 4) bits j.data (saltOf j.param) (beBytes (bytesOf bits) m))
  else verdict (beBytes size m == pkcs1Encode (j.param % 4) size j.data)

/-- Maximum OAEP message length of a modulus of `n` bytes and the hash of PARAM[1:0]. -/
def oaepMax (n param : Nat) : Nat := n - 2 * [32, 48, 64].getD (param % 4) 64 - 2

/-- RSA_DECRYPT. The full output length of a rejected ciphertext is not stated; the model takes the longest message (DESIGN CHOICE, log
entry 106). -/
def Job.rsaDecrypt (j : Job) (k : RsaKey) : Yield :=
  let zeros := oaepMax (k.bits / 8) j.param
  if ofBe j.data ≥ k.n then Yield.rejected 5 zeros
  else match oaepDecode (j.param % 4) j.extra (beBytes (k.bits / 8) (j.rsa k (ofBe j.data))) with
    | some b => Yield.give b
    | none => Yield.rejected 10 zeros

/-- RSA_ENCRYPT: the public key n ‖ e of a modulus of `outLen` bytes. -/
def Job.rsaEncrypt (j : Job) : Yield :=
  let n := ofBe (j.aad.take j.outLen)
  let em := oaepEncode (j.param % 4) j.outLen j.extra (j.iv.take (rsaHash j.param)) j.data
  Yield.give (beBytes j.outLen (powMod n (ofBe em) (ofBe (j.aad.drop j.outLen))))

/-- RSA_KEYGEN from its primes: the key of Table PK.5, and n ‖ e. A search that FIPS 186-5 ends without primes ends with
ENTROPY_FAILED (DESIGN CHOICE, log entry 105). -/
def Job.rsaKeygen (j : Job) : Yield :=
  let hb := j.param / 16
  let p := ofBe (j.iv.take hb)
  let q := ofBe (slice j.iv hb hb)
  let e := if j.outLen = 0 then 65537 else j.outLen
  match invMod (p - 1) e, invMod (q - 1) e, invMod p q with
  | some dp, some dq, some qi =>
    let elen := bytesOf (bitLen e)
    let pub := beBytes (2 * hb) (p * q) ++ beBytes elen e
    Yield.keep pub (leBytes 2 j.param ++ leBytes 2 elen ++ leBytes 4 0 ++ pub ++ beBytes hb p ++ beBytes hb q ++ beBytes hb dp
      ++ beBytes hb dq ++ beBytes hb qi)
  | _, _, _ => Yield.of St.entropyFailed

/-! ### FFDH -/

/-- FFDH_AGREE with its checks in the order of R472. -/
def Job.ffdhAgree (j : Job) (k : FfdhKey) : Yield :=
  let y := ofBe j.aad
  if y ≤ 1 ∨ y ≥ k.p - 1 then Yield.noSecret 5 0 (k.pbits / 8)
  else if k.qbits ≠ 0 ∧ powMod k.p y k.q ≠ 1 then Yield.noSecret 8 0 (k.pbits / 8)
  else Yield.keep [] (beBytes (k.pbits / 8) (powMod k.p y k.x))

/-- FFDH_KEYGEN: the head of Table PK.6 with its group in `data`; x and y follow it. -/
def Job.ffdhKeygen (j : Job) : Yield :=
  let pb := le j.data 0 2 / 8
  let qb := le j.data 2 2 / 8
  let xb := le j.data 4 2 / 8
  let p := ofBe (slice j.data 8 pb)
  let q := ofBe (slice j.data (8 + 2 * pb) qb)
  let top := if qb = 0 then min p (2 ^ (8 * xb)) else q
  let x := ofBe j.iv % (top - 1) + 1
  let y := beBytes pb (powMod p (ofBe (slice j.data (8 + pb) pb)) x)
  Yield.keep y (j.data ++ beBytes xb x ++ y)

/-! ### Lattice programs -/

/-- ML-DSA signing: the signature and the attempts it took (R160). -/
def Job.mldsaSign (j : Job) (key draw : Bytes) : Bytes := j.lattice 0x31 j.param (dsaSig (setOf j.param)) false key j.message draw

/-- ML-KEM encapsulation (FIPS 203). -/
def Job.kemEncaps (j : Job) : Yield :=
  let set := setOf j.param
  if !kemKeyOk j.aad (kemEk set - 32) then Yield.noSecret 9 (kemCt set) 32
  else Yield.keep ((List.range (kemCt set)).map (Config.kemCtByte set j.aad (j.iv.take 32)))
    ((List.range 32).map (Config.kemKeyByte set j.aad (j.iv.take 32)))

/-! ### Composite keys (R151) -/

/-- The random bytes that a component of COMPOSITE_SIGN draws. -/
def Job.componentDraw (j : Job) (c : Component) : Nat :=
  if c.1 = 0x10 then (match j.curveAt c.2.1 with | some k => k.randLen | none => 0) else if c.1 = 0x21 then 32 else 0

/-- One component's signature, with its own random bytes. -/
def Job.signWith (j : Job) (c : Component) (r : Bytes) : Bytes :=
  if c.1 = 0x10 then (match j.curveAt c.2.1 with | some k => k.sign j.blind c.2.2 j.data (k.scalarOf r) | none => [])
  else if c.1 = 0x11 then ed25519.sign j.blind c.2.2 [] j.data
  else if c.1 = 0x12 then ed448.sign j.blind c.2.2 j.extra j.data
  else if c.1 = 0x21 then j.mldsaSign c.2.2 r
  else match rsaOf c.2.2 with
    | some k => j.rsaSign k
    | none => []

/-- COMPOSITE_SIGN: every component's signature in order, each behind its length. -/
def Job.compositeSign (j : Job) : List Component → Bytes → Bytes
  | [], _ => []
  | c :: rest, r =>
    let x := j.signWith c (r.take (j.componentDraw c))
    leBytes 2 x.length ++ x ++ j.compositeSign rest (r.drop (j.componentDraw c))

/-- A component's peer value or ciphertext: the reason of R472 group 1 that refuses it. -/
def Job.peerReason (j : Job) (c : Component) (peer : Bytes) : Option Nat :=
  if c.1 = 0x10 then
    match j.curveAt c.2.1 with
    | some k => (match k.decode peer with | .ok _ => none | .error e => some e)
    | none => none
  else none

/-- The secret of one component, or the reason of R472 group 3. -/
def Job.agreeWith (j : Job) (c : Component) (peer : Bytes) : Except Nat Bytes :=
  if c.1 = 0x10 then (match j.curveAt c.2.1 with | some k => k.agree j.blind c.2.2 peer | none => .ok [])
  else if c.1 = 0x13 ∨ c.1 = 0x14 then
    let r := (if c.1 = 0x13 then x25519 else x448).agree j.blind c.2.2 peer
    if allZero r then .error 6 else .ok r
  else .ok (j.lattice 0x2A (setOf j.param) 32 true c.2.2 peer [])

/-- The length-prefixed values in bytes, at most `fuel`. -/
def prefixed : Nat → Bytes → List Bytes
  | 0, _ => []
  | fuel + 1, b => if b.length < 2 then [] else (b.drop 2).take (le b 0 2) :: prefixed fuel (b.drop (2 + le b 0 2))

/-- The length of the secret that a component gives. -/
def Job.secretLen (j : Job) (c : Component) : Nat :=
  if c.1 = 0x10 then (match j.curveAt c.2.1 with | some k => k.plen | none => 0) else if c.1 = 0x14 then 56 else 32

/-- COMPOSITE_DECAPS (R151): every component's secret, concatenated; a rejection is the first of group 1 in component order, then the
first of group 3 (R472). -/
def Job.compositeDecaps (j : Job) (cs : List Component) : Yield :=
  let peers := cs.zip (prefixed 3 j.aad)
  let no (e : Nat) : Yield := Yield.noSecret e 0 (cs.foldl (fun a c => a + j.secretLen c) 0)
  match peers.findSome? (fun x => j.peerReason x.1 x.2) with
  | some e => no e
  | none =>
    let parts := peers.map (fun x => j.agreeWith x.1 x.2)
    match parts.findSome? (fun x => match x with | .error e => some e | .ok _ => none) with
    | some e => no e
    | none => Yield.keep [] (parts.map (fun x => match x with | .ok b => b | .error _ => [])).flatten

/-! ### CURVE_CHECK (R155) -/

/-- p^k mod n ≠ 1 for every k from 1 to 20 (R155). -/
def embeddingOk (p n : Nat) : Bool :=
  ((List.range 20).foldl (fun (a : Nat × Bool) _ => (a.1 * (p % n) % n, a.2 && a.1 * (p % n) % n != 1)) (1, true)).2

/-- The parameters in a curve record (Table PK.9a). -/
def curveParams (b : Bytes) : CurveP :=
  let pb := le b 2 2
  let n := (pb + 7) / 8
  let num (i : Nat) : Nat := ofBe (slice b (16 + i * n) n)
  ⟨pb, le b 4 1, num 0, num 1, num 2, num 3, num 4, ofBe (slice b (16 + 5 * n) (n + 1))⟩

/-- The bytes of one Miller–Rabin base of a curve's p or n. -/
def CurveP.baseLen (c : CurveP) : Nat := c.plen + 9

/-- The reason code of the first of the conditions 1 to 9 that fails; `r` holds the Miller–Rabin bases of p, then of n. -/
def CurveP.checkReason (c : CurveP) (r : Bytes) : Option Nat :=
  let t : Int := (c.h * c.n : Int) - c.p - 1
  if bitLen c.p ≠ c.pbits ∨ c.h = 0 ∨ c.h > 8 ∨ c.a ≥ c.p ∨ c.b ≥ c.p ∨ c.gx ≥ c.p ∨ c.gy ≥ c.p then some 1
  else if !probablePrime c.p c.baseLen r then some 2
  else if !probablePrime c.n c.baseLen (r.drop (64 * c.baseLen)) then some 3
  else if (4 * c.a ^ 3 + 27 * c.b ^ 2) % c.p = 0 then some 4
  else if !c.onCurve c.gx c.gy then some 5
  else if (c.mul c.n c.g).isSome then some 6
  else if t * t > 4 * c.p then some 7
  else if c.n = c.p then some 8
  else if !embeddingOk c.p c.n then some 9
  else none

/-! ### A run -/

/-- A run on a curve that the job names (programs 0x01 to 0x05). -/
def Job.runCurve (j : Job) (c : CurveP) : Yield :=
  if j.prog = 0x01 then Yield.give (c.sign j.blind j.secret j.data (c.scalarOf j.iv))
  else if j.prog = 0x02 then
    match c.decode j.aad with
    | .error e => Yield.rejected e 0
    | .ok q =>
      match c.sigReason j.tag with
      | some e => Yield.rejected e 0
      | none => verdict (c.verify q j.data (ofBe (slice j.tag 0 c.nlen)) (ofBe (slice j.tag c.nlen c.nlen)))
  else if j.prog = 0x03 then
    let d := beBytes c.nlen (c.scalarOf j.iv)
    Yield.keep (c.public j.blind d) d
  else if j.prog = 0x04 then
    match c.agree j.blind j.secret j.aad with
    | .ok b => Yield.keep [] b
    | .error e => Yield.noSecret e 0 c.plen
  else Yield.give (c.public j.blind j.secret)

/-- A key generation from `n` random bytes; under a key that the job brings, its public key alone. -/
def Job.runKeygen (j : Job) (typ n : Nat) : Yield :=
  if j.secret.isEmpty then Yield.keep (j.publicKey typ (j.iv.take n)) (j.iv.take n) else Yield.give (j.publicKey typ j.secret)

/-- X25519 or X448: with a peer value an agreement, without one a key generation. -/
def Job.runMont (j : Job) (c : MontCurve) (typ : Nat) : Yield :=
  if j.aad.isEmpty then j.runKeygen typ c.len
  else
    let r := c.agree j.blind j.secret j.aad
    if allZero r then Yield.noSecret 6 0 c.len else Yield.keep [] r

/-- What a program run yields on its inputs (Table PK.4, Table PK.11, R151, R158, R162, R163). -/
def Job.run (j : Job) : Yield :=
  let key := j.secret
  if j.validate then Yield.of (if keyValidWith j.curveAt j.param j.curve key then St.ok else St.keyInvalid)
  else if j.prog ≤ 0x05 then (match j.curveAt j.curve with | some c => j.runCurve c | none => Yield.of St.curveUnknown)
  else if j.prog = 0x08 then Yield.give (ed25519.sign j.blind key [] j.data)
  else if j.prog = 0x0C then Yield.give (ed448.sign j.blind key j.extra j.data)
  else if j.prog = 0x09 then edVerify ed25519 j.aad j.tag [] j.data
  else if j.prog = 0x0D then edVerify ed448 j.aad j.tag j.extra j.data
  else if j.prog = 0x0A then j.runKeygen 0x11 32
  else if j.prog = 0x0E then j.runKeygen 0x12 57
  else if j.prog = 0x10 then j.runMont x25519 0x13
  else if j.prog = 0x11 then j.runMont x448 0x14
  else if j.prog = 0x18 then (match rsaOf key with | some k => Yield.give (j.rsaSign k) | none => Yield.of St.keyInvalid)
  else if j.prog = 0x19 then j.rsaVerify
  else if j.prog = 0x1A then (match rsaOf key with | some k => j.rsaDecrypt k | none => Yield.of St.keyInvalid)
  else if j.prog = 0x1B then j.rsaEncrypt
  else if j.prog = 0x1C then j.rsaKeygen
  else if j.prog = 0x20 then (match ffdhOf key with | some k => j.ffdhAgree k | none => Yield.of St.keyInvalid)
  else if j.prog = 0x21 then j.ffdhKeygen
  else if j.prog = 0x28 then j.runKeygen 0x20 64
  else if j.prog = 0x29 then j.kemEncaps
  else if j.prog = 0x2A then Yield.keep [] (j.lattice 0x2A (setOf j.param) 32 true key j.aad [])
  else if j.prog = 0x30 then j.runKeygen 0x21 32
  else if j.prog = 0x31 then
    { Yield.give (j.mldsaSign key (padTo 32 j.iv)) with info := Config.mldsaAttempts key j.message (padTo 32 j.iv) }
  else if j.prog = 0x32 then verdict (Config.mldsaOk j.param j.aad j.message j.tag)
  else if j.prog = 0x38 then Yield.give (j.compositeSign ((componentsOf key).getD []) j.iv)
  else if j.prog = 0x39 then j.compositeDecaps ((componentsOf key).getD [])
  else if j.prog = 0x3C then { Yield.of St.ok with reason := ((curveParams j.data).checkReason j.iv).getD 0 }
  else
    let r := arith j.prog (ofBe j.secret2) (ofBe j.data) (ofBe j.extra)
    ⟨r.1, 0, 0, beBytes (8 * j.param) r.2, [], 0⟩

/-- The random bytes that a job draws as it starts, of RSA_KEYGEN its primes. -/
def Job.drawLen (j : Job) : Nat :=
  if j.prog = 0x01 ∨ j.prog = 0x03 then (match j.curveAt j.curve with | some c => c.randLen | none => 0)
  else if j.prog = 0x0E then 57 else if j.prog = 0x11 then 56 else if j.prog = 0x28 then 64
  else if j.prog = 0x1B then rsaHash j.param
  else if j.prog = 0x21 then le j.data 4 2 / 8 + 8
  else if j.prog = 0x38 then ((componentsOf j.secret).getD []).foldl (fun a c => a + j.componentDraw c) 0
  else if j.prog = 0x3C then 128 * (curveParams j.data).baseLen
  else 32

/-- Whether a program has a check of its own before release, beside the residues (Table PK.4, last column). -/
def hasCheck (prog : Nat) : Bool :=
  !(prog == 0x02 || prog == 0x09 || prog == 0x0D || prog == 0x19 || prog == 0x1B || prog == 0x29 || prog == 0x32 || prog == 0x3C
    || decide (0x40 ≤ prog ∧ prog ≤ 0x44))

/-- PKE_FAULT.KIND of a failed check of a program (Table PK.16). -/
def checkKind (prog : Nat) : Nat :=
  if prog = 0x01 ∨ prog = 0x08 ∨ prog = 0x0C ∨ prog = 0x31 ∨ prog = 0x38 then 1
  else if prog = 0x18 ∨ prog = 0x1A then 2
  else if prog = 0x2A ∨ prog = 0x39 then 3
  else if prog = 0x1C ∨ prog = 0x28 then 5
  else if prog = 0x7F then 7
  else 4

/-- The WG of a SEALED hamper (R104), and of a job under no wrap generation. -/
def sealedWg : Nat := 0xFFFFFFFF

/-! ### The job queues (R132, R133, R188, R286) -/

/-- The queue of an engine. -/
def State.queueOf (s : State) (ske : Bool) : List Job := if ske then s.eng.skeQueue else s.eng.pkeQueue
def State.setQueue (s : State) (ske : Bool) (q : List Job) : State :=
  if ske then
    ({ s with eng.skeQueue := q }.put R.skeQueueDepth q.length).put R.skeQueueReservedDepth (q.countP (fun (j : Job) => j.own))
  else { s with eng.pkeQueue := q }

/-- v[e][t] and v_now[e] (R286). -/
def vKey (ske : Bool) (t : Nat) : Nat := 2 * t + ofBool ske
def State.vOf (s : State) (ske : Bool) (t : Nat) : Nat := lookD s.host.vtime (vKey ske t) 0
def State.vNow (s : State) (ske : Bool) : Nat := if ske then s.host.vnowSke else s.host.vnowPke

/-- A job waits for its engine, behind those that wait; first_wait of R286. -/
def State.enqueue (s : State) (j : Job) : State :=
  let q := s.queueOf j.ske
  let s1 := if j.own ∨ q.any (fun x => !x.own && x.tenant == j.tenant) then s
    else { s with host.vtime := storeD s.host.vtime (vKey j.ske j.tenant) 0 (max (s.vOf j.ske j.tenant) (s.vNow j.ske)) }
  s1.setQueue j.ske (q ++ [j])

/-- The job an engine takes among those that `ok` admits: the device's own, oldest first (R188); else of the tenant with the
least virtual time, the lowest number on a tie, its oldest (R286). -/
def State.pick (s : State) (ske : Bool) (ok : Job → Bool) : Option Job :=
  let q := if s.is (R.hdrCtrlQuiesce (if ske then 0x80000 else 0x70000)) then [] else (s.queueOf ske).filter ok
  match q.find? (fun j => j.own) with
  | some j => some j
  | none =>
    (q.foldl (fun (a : Option (Nat × Job)) j =>
      let v := s.vOf ske j.tenant
      match a with
      | none => some (v, j)
      | some (w, k) => if v < w ∨ (v = w ∧ j.tenant < k.tenant) then some (v, j) else a) none).map (·.2)

/-- A tenant's share: a RATE_WINDOW's while one is in force, else the committed one (R286, Table CT.7). -/
def State.share (s : State) (t : Nat) : Nat :=
  match look s.compass.rates t with
  | some w => w.share
  | none => s.get (R.qengTenantShareShare t)

/-- The job leaves the queue, and its tenant is charged (R286). -/
def State.unqueue (s : State) (j : Job) : State :=
  let s1 := s.setQueue j.ske (removeFirst (· == j) (s.queueOf j.ske))
  if j.own then s1
  else
    let v := s1.vOf j.ske j.tenant
    let s2 := if j.ske then { s1 with host.vnowSke := v } else { s1 with host.vnowPke := v }
    let charged := v + j.cost * 256 / max 1 (s2.share j.tenant)
    { s2 with host.vtime := storeD s2.host.vtime (vKey j.ske j.tenant) 0 charged }

/-- The yields of the two jobs of ATTESTATION_SIGN (R132): the ECDSA signature of P-384, 96 bytes, stands first. -/
def Yield.join (a b : Yield) : Yield := { b with out := if a.out.length = 96 then a.out ++ b.out else b.out ++ a.out }

/-- A command takes a yield and goes on; ATTESTATION_SIGN once both are there. -/
def Cmd.take (c : Cmd) (y : Yield) : Cmd :=
  match c.got with
  | some x => if c.m.opcode = 0x0104 then { c with got := some (x.join y), stage := .route, needs := [] }
    else { c with got := some y, stage := .route, needs := [] }
  | none => if c.m.opcode = 0x0104 then { c with got := some y } else { c with got := some y, stage := .route, needs := [] }

/-- A command has one of its parts and goes on. -/
def Cmd.keepPart (c : Cmd) (k : Nat) (b : Bytes) : Cmd := { c with parts := store c.parts k b, stage := .route, needs := [] }

/-- A part of a command, where it is there. -/
def State.partOf (s : State) (cid k : Nat) : Option Bytes := (look s.host.cmds cid).bind (fun c => look c.parts k)

/-- A command holds a part, or has it no longer. -/
def State.setPart (s : State) (cid k : Nat) (b : Bytes) : State :=
  { s with host.cmds := adjust s.host.cmds cid (fun c => { c with parts := store c.parts k b }) }
def State.dropPart (s : State) (cid k : Nat) : State :=
  { s with host.cmds := adjust s.host.cmds cid (fun c => { c with parts := drop c.parts k }) }

/-- Whether a job for a part only tests a signature: the part is then its verdict, one byte. -/
def Job.tests (j : Job) : Bool := decide (j.part ≠ 0) && (j.prog == 0x02 || j.prog == 0x32)

/-- A job's result goes to the command that waits for it: a status below 0x0100 says that the operation ran (R241), and the
command is run again with what it yielded; any other ends the command at once. A job for a part gives the part, or ends the
command. -/
def State.yield (s : State) (j : Job) (y : Yield) : State :=
  if j.tests ∧ y.status < 0x0100 then
    { s with host.cmds := adjust s.host.cmds j.cid (fun c => c.keepPart j.part [BitVec.ofNat 8 (ofBool (y.status == St.ok))]) }
  else if y.status ≥ 0x0100 ∨ (j.part ≠ 0 ∧ y.status ≠ St.ok) then s.complete j.cid (Resp.why y.status y.reason)
  else { s with host.cmds := adjust s.host.cmds j.cid (fun c => if j.part = 0 then c.take y else c.keepPart j.part y.secret) }

/-! ### Slots of a job -/

/-- The refusal of a job as it starts: a slot that is stale by now, or a mark of R82. -/
def State.jobStale (s : State) (j : Job) : Option Nat :=
  match j.slots.findSome? (fun h =>
    match look s.keys.slots (h % 0x10000) with
    | some x => if x.doomed ∨ x.epoch ≠ h / 0x10000 then some St.slotStale else s.dying x.tenant x.wg
    | none => some St.slotStale) with
  | some st => some st
  | none => s.dying j.tenant j.wg

/-- A job takes its slots and, unless it brought its key, the two shares of the key in the first and in the second (R93, R98). -/
def State.armJob (s : State) (j : Job) : State × Job :=
  let sharesOf (h : Option Nat) : Bytes × Bytes := (h.map (fun h => s.shares (h % 0x10000))).getD ([], [])
  let k1 := if j.key.isEmpty then sharesOf j.slots.head? else (j.key, j.mask)
  let k2 := if j.key2.isEmpty then sharesOf (j.slots.drop 1).head? else (j.key2, j.mask2)
  (j.slots.foldl (fun t h => t.useSlot (h % 0x10000)) s, { j with key := k1.1, mask := k1.2, key2 := k2.1, mask2 := k2.2 })

/-- A job's slots are released at its end, wipe included (R93). -/
def State.disarmJob (s : State) (j : Job) : State := j.slots.foldl (fun t h => t.leaveSlot (h % 0x10000)) s

/-! ### Clusters -/

/-- A cluster beside its registers; one that has run nothing yet. -/
def Cluster.new : Cluster := ⟨none, 0, [], 0, 0, 0, [], [], false, false, false, 0, [], false⟩
def State.cluster (s : State) (n : Nat) : Cluster := (look s.eng.clusters n).getD Cluster.new
def State.setCluster (s : State) (n : Nat) (c : Cluster) : State := { s with eng.clusters := store s.eng.clusters n c }

/-- Out of service: OFF, QUARANTINED, FENCED or RETIRED. -/
def clusterOut (st : Nat) : Bool := st == 0 || st == 6 || st == 7 || st == 8

/-- PKE_CLUSTER_STATUS.STATE and the bits of PKE_SUMMARY, PKE_OUT and DEV_STATUS.MISSING that follow it (Table PK.16, Table
GI.4). -/
def State.setClusterState (s : State) (n st : Nat) : State :=
  let s1 := (((((s.put (R.pkeClusterStatusState n) st).putBit R.pkeSummaryReady n (st == 3)).putBit R.pkeSummaryBusy n
    (st == 4 || st == 5)).putBit R.pkeOutQuarantined n (st == 6)).putBit R.pkeOutOut n (st == 0 || st == 7 || st == 8))
  let out := (List.range 16).filter (fun i => clusterOut (s1.get (R.pkeClusterStatusState i)))
  (s1.setMissing 16 (!out.isEmpty)).setMissing 17 (out.length == 16)

/-- The state of cluster `n`. -/
def State.clusterState (s : State) (n : Nat) : Nat := s.get (R.pkeClusterStatusState n)

/-- The packages of cluster `n`, in its microcode store and in PKE_CLUSTER_STATUS.PACKAGES. -/
def State.setLoaded (s : State) (n : Nat) (l : Amap (List Nat)) : State :=
  (s.setCluster n { s.cluster n with loaded := l }).put (R.pkeClusterStatusPackages n) (l.foldl (fun a x => setBit a (x.1 - 1) true) 0)

/-- Whether cluster `n` holds a program (R144, R146). -/
def State.holds (s : State) (n prog : Nat) : Bool := (s.cluster n).loaded.any (fun x => x.2.contains prog)

/-- Its own part of a commit, its masking seed (R164): whether the seed is current. -/
def State.seeded (s : State) (n : Nat) : Bool :=
  s.is (R.pkeClusterStatusSeeded n) && decide (0 < s.get (R.pkeClusterQuarSeedJobsLeft n))
    && decide (s.compass.mc < (s.cluster n).seedEnds)

/-- PKE_MASK_CFG as cluster `n` has it: the shadow once it has applied the commit under way (Table GI.7). -/
def State.maskCfg (s : State) (n : Nat) (f : Fld) : Nat := if (s.cluster n).took then s.shadowOf f else s.get f

/-- A fresh masking seed becomes current (R164). -/
def State.seatSeed (s : State) (n : Nat) (seed : Bytes) : State :=
  let c := s.cluster n
  ((s.put (R.pkeClusterStatusSeeded n) 1).put (R.pkeClusterQuarSeedJobsLeft n) (s.maskCfg n R.pkeMaskCfgReseedJobs)).setCluster n
    { c with seed := seed, seedCount := c.seedCount + 1, runs := 0, nextSeed := [], seedEnds := s.compass.mc + s.maskCfg n R.pkeMaskCfgReseedMc }

/-- The masking seed of cluster `n` is gone with its power or a reset. -/
def State.dropSeed (s : State) (n : Nat) : State :=
  ((s.setCluster n { s.cluster n with seed := [], nextSeed := [], seedEnds := 0 }).put (R.pkeClusterStatusSeeded n) 0).put
    (R.pkeClusterQuarSeedJobsLeft n) 0

/-- A masking seed is drawn for cluster `n` and seated, if the DRBG serves. -/
def State.seedCluster (s : State) (n : Nat) : State :=
  if s.canDraw then
    let d := s.draw 32
    d.1.seatSeed n d.2
  else s

/-- The masking generator's part for the next run on cluster `n` (R164): the nonce is the cluster number (4 bytes) and the seed count
(8 bytes); each run takes 65,536 blocks of its own (DESIGN CHOICE, log entry 104). -/
def State.masksFor (s : State) (n : Nat) : Masks :=
  let c := s.cluster n
  ⟨c.seed, leBytes 4 n ++ leBytes 8 c.seedCount, 65536 * c.runs⟩

/-- A lease is held: a job with its wipe, or the custody firmware's hold (R24, R173, R344). -/
def State.pkeLeased (s : State) (n : Nat) : Bool := (s.cluster n).job.isSome || bitOf (s.get R.mpcLeaseHoldPke) n

/-- PKE_CLUSTER_STATUS.LEASED. -/
def State.showLease (s : State) (n : Nat) : State := s.putB (R.pkeClusterStatusLeased n) (s.pkeLeased n)

/-- A job that a cluster may start: its program is loaded, the seed current for a private key, a generate call for a draw (R133, R144,
R165). -/
def State.jobMayRun (s : State) (n : Nat) (j : Job) : Bool :=
  s.holds n j.prog && (!j.priv || s.seeded n) && (!j.draws || s.canDraw)

/-- The random bytes of a job: drawn as it starts. -/
def State.drawFor (s : State) (j : Job) : State × Job :=
  if j.prog = 0x1C ∧ !j.validate then
    let d := s.rsaPrimes j.param (if j.outLen = 0 then 65537 else j.outLen)
    (d.1, { j with iv := d.2 })
  else if j.draws then
    let d := s.draw j.drawLen
    (d.1, { j with iv := d.2 })
  else (s, j)

/-- The program ID that a cluster shows. -/
def State.showProgram (s : State) (n : Nat) (j : Job) : State := s.put (R.pkeClusterStatusProgram n) j.prog

/-- A private-key run takes its part of the masking generator and one job of the seed's allowance (R164). -/
def State.maskRun (s : State) (n : Nat) (j : Job) : State × Job :=
  if j.priv then
    let s1 := s.setCluster n { s.cluster n with runs := (s.cluster n).runs + 1 }
    (s1.put (R.pkeClusterQuarSeedJobsLeft n) (s1.get (R.pkeClusterQuarSeedJobsLeft n) - 1), { j with gen := some (s.masksFor n) })
  else (s, j)

/-- Cluster `n`, READY, starts a job (R132, R173). A job that is stale by now ends with its refusal instead. -/
def State.startPke (s0 : State) (n : Nat) (j0 : Job) : State :=
  let s := s0.unqueue j0
  match s.jobStale j0 with
  | some st => s.yield j0 (Yield.of st)
  | none =>
    let (s1, j1) := s.drawFor j0
    let (s2, j2) := s1.armJob j1
    let (s3, j) := s2.maskRun n j2
    let s4 := (((s3.setCluster n { s3.cluster n with job := some j }).setClusterState n 4).showProgram n j).showLease n
    s4.incMod (R.pkeClusterJobsCount n) 1

/-- Cluster `n` takes the job that the arbitration presents (R133, R286); stale jobs are passed over, at most `fuel`. -/
def State.feedCluster (s : State) (n : Nat) : Nat → State
  | 0 => s
  | fuel + 1 =>
    if s.clusterState n = 3 ∧ !s.is (R.pkeClusterStatusGatePending n) ∧ bitOf s.pwr.clusterReset n = false then
      match s.pick false (s.jobMayRun n) with
      | some j => (s.startPke n j).feedCluster n fuel
      | none => s
    else s

/-- The READY cluster that has been idle longest, among those that may run the job; the lowest on a tie (R133). -/
def State.idleCluster (s : State) (j : Job) : Option Nat :=
  ((List.range 16).foldl (fun (a : Option (Nat × Nat)) n =>
    if s.clusterState n = 3 ∧ !s.is (R.pkeClusterStatusGatePending n) ∧ s.jobMayRun n j then
      let t := (s.cluster n).idleSince
      match a with
      | none => some (n, t)
      | some (_, u) => if t < u then some (n, t) else a
    else a) none).map (·.1)

/-- No cluster works, and none is BUSY: the software path of R39 takes the jobs until one is READY (Table PK.14, R411). -/
def State.pkeAbsent (s : State) : Bool :=
  (List.range 16).all (fun n => let st := s.clusterState n; !(st == 3 || st == 4 || st == 5))

/-- Whether a loaded package holds a program (R146); while no cluster works, an installed one. -/
def State.hasProgram (s : State) (prog : Nat) : Bool :=
  (List.range 16).any (fun n => s.holds n prog)
    || (s.pkeAbsent && s.eng.packages.any (fun x => match look s.eng.bodies (2 * x.1 + x.2.copy) with
        | some b => b.programs.contains prog
        | none => false))

/-- A job on the software path: the custody firmware masks it too (R39), with a seed that is a free value. -/
def State.runSoftware (s : State) (j0 : Job) : State :=
  let (s2, j1) := s.drawFor j0
  let (s3, j2) := s2.armJob j1
  let j : Job := if j2.priv then { j2 with gen := some ⟨Config.random s3.fresh 32, List.replicate 12 0, 0⟩ } else j2
  let s4 := if j2.priv then s3.drawn else s3
  (s4.disarmJob j).yield j { j.run with key := j.slots.headD 0 }

/-- Waiting jobs go to READY clusters, or to the software path while no cluster works and the custody firmware serves (R39,
R133); at most `fuel` of them. -/
def State.dispatchPke (s : State) : Nat → State
  | 0 => s
  | fuel + 1 =>
    if s.pkeAbsent then
      if !s.is R.devStatusCustodyUp then s
      else match s.pick false (fun j => !j.draws || s.canDraw) with
        | none => s
        | some j =>
          let s1 := s.unqueue j
          (match s1.jobStale j with
            | some st => s1.yield j (Yield.of st)
            | none => s1.runSoftware j).dispatchPke fuel
    else match s.pick false (fun j => (s.idleCluster j).isSome) with
      | none => s
      | some j =>
        match s.idleCluster j with
        | none => s
        | some n => (s.startPke n j).dispatchPke fuel

/-- A job joins the PKE (R133). -/
def State.submitPke (s : State) (j : Job) : State := ((s.enqueue j).setStage j.cid .engine).dispatchPke ((s.queueOf false).length + 1)

/-- A part of a command that a PKE job makes: there already, or the device's own job is asked for it. -/
def State.pkePart (s : State) (k : Nat) (j : Job) : State × Except Answer Bytes :=
  match s.partOf j.cid k with
  | some b => (s, .ok b)
  | none =>
    if !s.hasProgram j.prog then (s, .error (.of St.programAbsent))
    else (s.submitPke { j with part := k, own := true }, .error .engine)

/-- The job's command is done with the engine: its lease and slots stay until the wipe ends (R137). -/
def State.wipeCluster (s : State) (n : Nat) : State := s.setClusterState n 5

/-- An abort before the release point (R140): nothing is released, the cluster wipes, the job completes with the cause's
status. -/
def State.abortPke (s : State) (n status : Nat) : State :=
  match (s.cluster n).job with
  | some j =>
    if s.clusterState n = 4 then ((s.yield j (Yield.of status)).incSat R.pkeRejectsAborts).wipeCluster n else s
  | none => s

/-- The wipe of cluster `n` ends (R137, R173): slots and lease are let go. -/
def State.endWipe (s : State) (n : Nat) : State :=
  let c := s.cluster n
  let s1 := match c.job with | some j => s.disarmJob j | none => s
  let s2 := (s1.setCluster n { c with job := none, idleSince := s.tick }).showLease n
  if c.nextSeed.isEmpty then s2 else s2.seatSeed n c.nextSeed

/-- A cluster is powered up and loads (R135). -/
def State.loadCluster (s : State) (n : Nat) : State :=
  let s1 := ((s.setClusterState n 1).setLoaded n []).dropSeed n
  s1.setCluster n { s1.cluster n with tested := false, returning := false }

/-- A READY cluster loads a new body (R145): its seed stays. -/
def State.reloadCluster (s : State) (n : Nat) : State :=
  let s1 := (s.setClusterState n 1).setLoaded n []
  s1.setCluster n { s1.cluster n with tested := false }

/-- Whether a CLUSTER_SERVICE waits for cluster `n`, or its region, to go off. -/
def State.offServed (s : State) (n : Nat) : Bool :=
  s.eng.services.any (fun x => x.goal == 0 && ((x.kind == 0 && x.part == n) || (x.kind == 2 && x.part == n / 4)))

/-- Cluster `n` is OFF: seed and microcode are gone. -/
def State.clusterOff (s : State) (n : Nat) : State := ((s.setClusterState n 0).setLoaded n []).dropSeed n

/-- A pending gate or fence takes effect once no lease is held (R173): OFF, or FENCED. A fence, and a power-off by
CLUSTER_SERVICE, wait for the end of a microcode roll (Table LC.13). -/
def State.settleGate (s : State) (n : Nat) : State :=
  if s.is (R.pkeClusterStatusGatePending n) ∧ !s.pkeLeased n
      ∧ ((s.cluster n).roll = 0 ∨ (s.is (R.pkeClusterCtrlGateReq n) ∧ !s.offServed n)) then
    let s1 := s.put (R.pkeClusterStatusGatePending n) 0
    if s1.is (R.pkeClusterCtrlGateReq n) then s1.clusterOff n
    else if s1.is (R.pkeClusterCtrlFence n) then s1.setClusterState n 7
    else s1
  else s

end Sys2Proof.Machine
end

