-- ==== Sys2Proof/Machine/Ske.lean ====
section
/-! DEFINITION. The symmetric engine (chapter 6): Table SY.1, what a request yields, the nonce guard (R189 to R195), lanes. -/

namespace Sys2Proof.Machine

/-! ### Table SY.1 -/

def mib16 : Nat := 16777216

/-- The digest length of a hash or an HMAC code; 0 for the others. -/
def digestLen (alg : Nat) : Nat :=
  if alg = 0x20 ∨ alg = 0x24 ∨ alg = 0x30 ∨ alg = 0x34 then 32
  else if alg = 0x21 ∨ alg = 0x25 ∨ alg = 0x31 ∨ alg = 0x35 then 48
  else if alg = 0x22 ∨ alg = 0x26 ∨ alg = 0x32 ∨ alg = 0x36 then 64 else 0

/-- The lengths of a request, as R178 judges them: data, AAD, IV, tag, output and customisation. -/
structure Lens where
  data : Nat
  aad : Nat
  iv : Nat
  tag : Nat
  out : Nat
  extra : Nat
  deriving DecidableEq, Repr

/-- ENCRYPT and DECRYPT against Table SY.1 (R178 step 1); `enc` for encryption. -/
def cipherOk (alg : Nat) (enc : Bool) (l : Lens) : Bool :=
  let plain := l.aad == 0 && l.tag == 0
  let iv (n : Nat) : Bool := enc || l.iv == n
  if alg = 0x01 then l.data % 16 == 0 && decide (16 ≤ l.data ∧ l.data ≤ mib16) && plain && l.iv == 0
  else if alg = 0x02 then l.data % 16 == 0 && decide (16 ≤ l.data ∧ l.data ≤ mib16) && plain && iv 16
  else if alg = 0x03 then decide (1 ≤ l.data ∧ l.data ≤ mib16) && plain && iv 16
  else if alg = 0x04 then decide (l.data ≤ mib16 ∧ l.aad ≤ 65536 ∧ 12 ≤ l.tag ∧ l.tag ≤ 16) && iv 12
  else if alg = 0x05 then
    decide (l.data ≤ 16777215 ∧ l.aad ≤ 65536 ∧ 4 ≤ l.tag ∧ l.tag ≤ 16) && l.tag % 2 == 0 && (enc || decide (7 ≤ l.iv ∧ l.iv ≤ 13))
  else if alg = 0x06 then decide (16 ≤ l.data ∧ l.data ≤ mib16) && plain && l.iv == 16
  else if alg = 0x10 then decide (l.data ≤ mib16 ∧ l.aad ≤ 65536) && l.tag == 16 && iv 12
  else false

/-- The algorithms whose IV, nonce or counter block the device makes on encryption (R179). -/
def deviceIv (alg : Nat) : Bool := alg == 0x02 || alg == 0x03 || alg == 0x04 || alg == 0x05 || alg == 0x10

/-- Those of them that take a nonce of the nonce guard. -/
def guardIv (alg : Nat) : Bool := alg == 0x03 || alg == 0x04 || alg == 0x05 || alg == 0x10

/-- MAC_GENERATE and MAC_VERIFY against Table SY.1; `tag` is the tag or the KMAC output. -/
def macOk (alg : Nat) (l : Lens) : Bool :=
  decide (l.data ≤ mib16) &&
  (if alg = 0x09 then decide (8 ≤ l.tag ∧ l.tag ≤ 16) && l.extra == 0
   else if alg = 0x38 ∨ alg = 0x39 then decide (4 ≤ l.tag ∧ l.tag ≤ 64 ∧ l.extra ≤ 256)
   else decide (0x30 ≤ alg) && digestLen alg != 0 && decide (16 ≤ l.tag ∧ l.tag ≤ digestLen alg) && l.extra == 0)

/-- HASH against Table SY.1. -/
def hashOk (alg : Nat) (l : Lens) : Bool :=
  decide (l.data ≤ mib16) &&
  (if alg = 0x28 ∨ alg = 0x29 then decide (1 ≤ l.out ∧ l.out ≤ 8192) else decide (alg < 0x28) && digestLen alg != 0 && l.out == 0)

/-- WRAP and UNWRAP against Table SY.1; an unwrap's input carries the 8 bytes of integrity value. -/
def wrapOk (alg : Nat) (wrap : Bool) (n : Nat) : Bool :=
  if alg = 0x07 then n % 8 == 0 && (if wrap then decide (16 ≤ n ∧ n ≤ 4096) else decide (24 ≤ n ∧ n ≤ 4104))
  else if alg = 0x08 then (if wrap then decide (1 ≤ n ∧ n ≤ 4088) else n % 8 == 0 && decide (16 ≤ n ∧ n ≤ 4096))
  else false

/-- The slot TYPE an algorithm takes (Table SY.1, R178 step 3). -/
def algType (alg typ : Nat) : Bool :=
  if alg = 0x06 then typ == 1 || typ == 3
  else if alg ≤ 0x09 then typ == 1 || typ == 2 || typ == 3
  else if alg = 0x10 then typ == 4
  else if 0x30 ≤ alg ∧ alg ≤ 0x39 then typ == 5
  else if alg = 0x3C then typ == 6
  else false

/-- The lane rate in units of 0.1 byte per ns (Table SY.4); the table rates AES-256 alone in CBC encryption, CCM and CMAC, and
gives the KDF no rate (log entry 17). -/
def laneRate (alg keyLen : Nat) (enc : Bool) : Nat :=
  if alg = 0x05 ∨ alg = 0x09 ∨ (alg = 0x02 ∧ enc) then 15
  else if alg ≤ 0x06 then (if keyLen = 16 then 50 else if keyLen = 24 then 45 else 40)
  else if alg ≤ 0x08 ∨ alg = 0x3D then 2
  else if alg = 0x10 then 30
  else if alg = 0x20 ∨ alg = 0x30 then 22
  else if alg = 0x24 ∨ alg = 0x34 ∨ alg = 0x29 ∨ alg = 0x39 then 26
  else if alg = 0x25 ∨ alg = 0x35 then 20
  else if alg = 0x26 ∨ alg = 0x36 then 14
  else if alg = 0x28 ∨ alg = 0x38 then 32
  else 30

/-- The cost of a request in engine cycles (R286): 300 plus 1.5 × b / r. -/
def skeCost (alg keyLen : Nat) (enc : Bool) (b : Nat) : Nat := 300 + 15 * b / laneRate alg keyLen enc

/-! ### What a request yields -/

/-- `n` bytes of an algorithm that a standard defines. -/
def Job.std (j : Job) (code : Nat) (from_ n : Nat) : Bytes :=
  (List.range n).map (fun i => Config.skeByte code j.secret j.secret2 j.iv j.aad j.data (from_ + i))

/-- A MAC at its full length (Table SY.1). -/
def macOf (alg : Nat) (key data extra : Bytes) (n : Nat) : Bytes :=
  if alg = 0x09 then (Config.cmac key data).take n
  else if alg = 0x30 then (Config.hmac256 key data).take n
  else if alg = 0x31 then (Config.hmac384 key data).take n
  else (List.range n).map (Config.skeByte alg key extra (leBytes 2 (if alg ≥ 0x38 then n else 0)) [] data)

/-- A digest (Table SY.1). -/
def hashOf (alg : Nat) (data : Bytes) (out : Nat) : Bytes :=
  if alg = 0x20 then Config.sha256 data
  else if alg = 0x21 then Config.sha384 data
  else (List.range (if out = 0 then digestLen alg else out)).map (Config.skeByte alg [] [] [] [] data)

/-- KEY_DERIVE (R186): function `sel` 0 counter HMAC-SHA-256, 1 counter HMAC-SHA-384, 2 KMAC256, which takes the output length in, 3
two-step. -/
def deriveKey (sel : Nat) (key label context salt : Bytes) (n : Nat) : Bytes :=
  if sel = 0 then counterKdf Config.hmac256 32 key label context (8 * n)
  else if sel = 1 then counterKdf Config.hmac384 48 key label context (8 * n)
  else if sel = 2 then (List.range n).map (Config.skeByte 0x3C key label (leBytes 2 n) [] context)
  else counterKdf Config.hmac384 48 (Config.hmac384 salt key) label context (8 * n)

/-- What the device's own request for a part of a command yields (R184, R185): under code 0x3D a hamper is opened, its KWK derived in the
lane, or wrapped; under 0x08 a transport blob; under 0x3C a rotation's successor is derived (R195). `param` is 1 for a wrap; `iv` and
`aad` are P and H of R76. -/
def Job.runPart (j : Job) : Yield :=
  if j.prog = 0x3D then
    if j.param = 1 then Yield.keep [] (j.aad ++ boundWrap j.secret j.iv j.aad j.data)
    else match boundUnwrap j.secret j.iv j.aad j.data with
      | some k => Yield.keep [] (k.take j.outLen)
      | none => Yield.of St.storeIntegrity
  else if j.prog = 0x08 then
    if j.param = 1 then Yield.keep [] (Config.kwpWrap j.secret j.data)
    else match Config.kwpUnwrap j.secret j.data with
      | some b => Yield.keep [] b
      | none => Yield.of St.authFailed
  else Yield.keep [] (kdf j.secret "ROTATE" j.extra (8 * j.outLen))

/-- What a request yields (R176 to R186): `m.opcode` says which operation it is. An XTS pair of equal keys is KEY_INVALID
(R178); a tag or an integrity value that does not match is AUTH_FAILED, a MAC VERIFY_FAILED (R182). -/
def Job.runSke (j : Job) : Yield :=
  let op := j.m.opcode
  let tagLen := if j.m.param = 0 then digestLen j.prog else j.m.param % 32
  if j.part ≠ 0 then j.runPart
  else if op = 0x0303 then
    if j.prog = 0x06 ∧ j.secret = j.secret2 then Yield.of St.keyInvalid
    else
      let head := if deviceIv j.prog then j.iv else []
      let tag := if j.prog = 0x04 ∨ j.prog = 0x05 ∨ j.prog = 0x10 then j.std j.prog j.data.length tagLen else []
      Yield.give (head ++ j.std j.prog 0 j.data.length ++ tag)
  else if op = 0x0304 then
    if j.prog = 0x06 ∧ j.secret = j.secret2 then Yield.of St.keyInvalid
    else if (j.prog = 0x04 ∨ j.prog = 0x05 ∨ j.prog = 0x10) ∧ !Config.skeTagOk j.prog j.secret j.iv j.aad j.data j.tag then
      Yield.of St.authFailed
    else Yield.give (j.std (0x100 + j.prog) 0 j.data.length)
  else if op = 0x0305 then Yield.give (macOf j.prog j.secret j.data j.extra (if j.prog ≥ 0x38 then j.outLen else tagLen))
  else if op = 0x0306 then verdict (macOf j.prog j.secret j.data j.extra j.tag.length == j.tag)
  else if op = 0x0307 then Yield.give (hashOf j.prog j.data j.outLen)
  else if op = 0x0308 then
    Yield.give (if j.prog = 0x08 then Config.kwpWrap j.secret j.data
      else (List.range (j.data.length + 8)).map (Config.kwByte j.secret j.data))
  else if op = 0x0309 then
    match (if j.prog = 0x08 then Config.kwpUnwrap j.secret j.data else Config.kwUnwrap j.secret j.data) with
    | some b => Yield.give b
    | none => Yield.of St.authFailed
  else Yield.keep [] (deriveKey (field j.m.param 4 2) j.secret j.aad j.extra j.iv j.outLen)

/-- The length of a request's result that is known before it runs (R230 step 8, Table SY.3): with the IV, nonce or counter block in
front and the tag behind it. What an unwrap gives is known only once it has run. -/
def Job.room (j : Job) : Nat :=
  let op := j.m.opcode
  let tagLen := if j.m.param = 0 then digestLen j.prog else j.m.param % 32
  if j.part ≠ 0 then 0
  else if op = 0x0303 then
    (if !deviceIv j.prog then 0 else if guardIv j.prog ∧ j.prog ≠ 0x03 then 12 else 16) + j.data.length
      + (if j.prog = 0x04 ∨ j.prog = 0x05 ∨ j.prog = 0x10 then tagLen else 0)
  else if op = 0x0304 then j.data.length
  else if op = 0x0305 then (if j.prog ≥ 0x38 then j.outLen else tagLen)
  else if op = 0x0307 then (hashOf j.prog j.data j.outLen).length
  else if op = 0x0308 then (j.data.length + 7) / 8 * 8 + 8
  else 0

/-! ### Lanes -/

/-- A lane beside its registers. -/
def Lane.new : Lane := ⟨none, [], 0, false⟩
def State.lane (s : State) (n : Nat) : Lane := (look s.eng.lanes n).getD Lane.new
def State.setLane (s : State) (n : Nat) (l : Lane) : State := { s with eng.lanes := store s.eng.lanes n l }
def State.laneState (s : State) (n : Nat) : Nat := s.get (R.skeLaneStatusState n)

/-- A cluster or lane applies the commit under way, or has it no longer to apply. -/
def State.setTook (s : State) (base n : Nat) (b : Bool) : State :=
  if base = 0x70000 then s.setCluster n { s.cluster n with took := b } else s.setLane n { s.lane n with took := b }

/-- SKE_LANE_STATUS.STATE and the bits of SKE_LANES and DEV_STATUS.MISSING that follow it. -/
def State.setLaneState (s : State) (n st : Nat) : State :=
  let s1 := ((((s.put (R.skeLaneStatusState n) st).putBit R.skeLanesReady n (st == 2)).putBit R.skeLanesBusy n (st == 3)).putBit
    R.skeLanesIsolated n (st == 4)).putBit R.skeLanesOff n (st == 0)
  s1.setMissing 18 ((List.range 8).any (fun i => s1.laneState i == 0 || s1.laneState i == 4))

/-- Whether lane `n` is the last in READY or BUSY state (R183, R198). -/
def State.lastLane (s : State) (n : Nat) : Bool :=
  (List.range 8).all (fun i => i == n || !(s.laneState i == 2 || s.laneState i == 3))

/-- A lease is held: a request, or the custody firmware's hold (R198, R344). -/
def State.skeLeased (s : State) (n : Nat) : Bool := (s.lane n).job.isSome || bitOf (s.get R.mpcLeaseHoldSke) n

/-- A pending gate or fence takes effect once the lease has ended (R198); an ISOLATED lane, which is gated as it is (R183), stays so. -/
def State.settleLane (s : State) (n : Nat) : State :=
  if s.is (R.skeLaneStatusGatePending n) ∧ !s.skeLeased n then
    let s1 := s.put (R.skeLaneStatusGatePending n) 0
    if s.laneState n = 4 then s1 else s1.setLaneState n 0
  else s

/-- SKE_LANE_STATUS.MISMATCHES: the mismatches within the lane's last 1,000 requests (R183, Table SY.6). -/
def State.showMism (s : State) (n : Nat) : State :=
  let no := s.get (R.skeLaneReqsCount n)
  s.put (R.skeLaneStatusMismatches n) (min 2 ((s.lane n).mism.countP (fun k => decide ((no + 2 ^ 32 - k) % 2 ^ 32 ≤ 1000))))

/-! ### The nonce guard -/

/-- An event of the nonce guard: SKE_NONCE_EVENT takes the first, the source is raised (R193, R195, Table HQ.9). `kind` is 0
LOW, 1 EXHAUSTED, 2 ROTATED, 3 ROTATE_FAILED, 4 BASE_LOST. -/
def State.nonceEvent (s : State) (kind slot : Nat) : State :=
  (s.sqcEvent R.skeNonceEventSeq (fun t => (((((t.putB R.skeNonceEventLow (kind == 0)).putB R.skeNonceEventExhausted
    (kind == 1)).putB R.skeNonceEventRotated (kind == 2)).putB R.skeNonceEventRotateFailed (kind == 3)).putB
    R.skeNonceEventBaseLost (kind == 4)).put R.skeNonceEventSlotSlot slot)).raise (32 + kind)

/-- Encryptions under R179 are refused from here on (R191). -/
def State.loseBase (s : State) : State :=
  if s.eng.baseLost then s else { s with eng.baseLost := true }.nonceEvent 4 0

/-- A reservation write towards H + `n` begins (R191); past 2^64 − 1 the counter ends. -/
def State.reserve (s : State) (n : Nat) : State :=
  let h := s.get R.skeNonceReservedH + n
  if h ≥ 2 ^ 64 then s.loseBase else { s with eng.reserving := some h }

/-- The start of the nonce unit with G5 (R191): the highest valid H of either bank, and 2^32 more reserved before any value is
handed out. -/
def State.nonceStart (s : State) : State :=
  match s.eng.nonce0 ++ s.eng.nonce1 with
  | [] => s.loseBase
  | l =>
    let h := l.foldl max 0
    (({ s with eng.baseLost := false, eng.reserving := none }.put R.skeNonceBaseNext h).put R.skeNonceReservedH h).reserve (2 ^ 32)

/-- A reservation write ends (R191): H counts once it stands in both banks; a write that failed in both ends the guard. -/
def State.reservationDone (s : State) (ok0 ok1 : Bool) : State :=
  match s.eng.reserving with
  | none => s
  | some h =>
    let keep (l : List Nat) (ok : Bool) : List Nat := if ok then (h :: l.filter (· != h)).take 64 else l
    let s1 := { s with eng.nonce0 := keep s.eng.nonce0 ok0, eng.nonce1 := keep s.eng.nonce1 ok1 }
    if ok0 ∧ ok1 then { s1 with eng.reserving := none }.put R.skeNonceReservedH h
    else if !ok0 ∧ !ok1 then { s1 with eng.reserving := none }.loseBase
    else s1

/-- A value can be handed out: it lies below the H written in both banks (R191). -/
def State.nonceReady (s : State) : Bool := decide (s.get R.skeNonceBaseNext < s.get R.skeNonceReservedH)

/-- The next invocation value is handed out (R190); before the counter would reach H, the next 2^40 are reserved. -/
def State.takeNonce (s : State) : State × Nat :=
  let v := s.get R.skeNonceBaseNext
  let s1 := s.put R.skeNonceBaseNext (v + 1)
  (if v + 1 ≥ s.get R.skeNonceReservedH ∧ s1.eng.reserving.isNone then s1.reserve (2 ^ 40) else s1, v)

/-- The 12 bytes of R189: the fixed field of Table SY.3, then the invocation field. -/
def nonceBytes (device lane epoch v : Nat) : Bytes :=
  beBytes 4 (device * 2 ^ 17 + lane * 2 ^ 14 + epoch % 2 ^ 14) ++ beBytes 8 v

/-- Slot `i` with the limit or the count as it stands: NONCE_LOW once for a load, at seven-eighths of the limit (R193). -/
def State.noteLow (s : State) (i : Nat) : State :=
  match look s.keys.slots i with
  | none => s
  | some x =>
    if x.lowSeen ∨ 8 * x.used < 7 * x.limit then s
    else
      let due := x.rotateDue || s.keys.rotating.contains x.tenant
      let s1 := { s with keys.slots := store s.keys.slots i { x with lowSeen := true, rotateDue := due } }
      (s1.nonceEvent 0 i).notice x.loader 2 0 (handleOf i x.epoch) x.ref St.ok

/-- An encryption counts against its slot (R193). -/
def State.countUse (s : State) (i : Nat) : State :=
  { s with keys.slots := adjust s.keys.slots i (fun x => { x with used := x.used + 1 }) }.noteLow i

/-- The limit of slot `i` goes down to `limit` at most (R193). -/
def State.lowerLimit (s : State) (i limit : Nat) : State :=
  { s with keys.slots := adjust s.keys.slots i (fun x => { x with limit := min limit x.limit }) }.noteLow i

/-- ROTATE_FAILED (R195): the event, and the notice to the instance that loaded the key. -/
def State.rotateFailed (s : State) (i : Nat) (x : Slot) : State :=
  (s.nonceEvent 3 i).notice x.loader 5 0 (handleOf i x.epoch) x.ref St.nonceExhausted

/-- NONCE_EXHAUSTED, once for a load (R193); with rotation on and no successor linked, ROTATE_FAILED too (R195). -/
def State.exhaust (s : State) (i : Nat) : State :=
  match look s.keys.slots i with
  | none => s
  | some x =>
    if x.exhaustSeen then s
    else
      let s1 := { s with keys.slots := store s.keys.slots i { x with exhaustSeen := true } }
      let s2 := ((s1.nonceEvent 1 i).incSat R.skeNonceExhaustsCount).notice x.loader 3 0 (handleOf i x.epoch) x.ref St.nonceExhausted
      if s.keys.rotating.contains x.tenant then s2.rotateFailed i x else s2

/-- Whether a job is an encryption that the guard counts: a nonce or a CBC IV (R193). -/
def Job.counted (j : Job) : Bool := j.m.opcode == 0x0303 && j.ske && j.part == 0 && deviceIv j.prog

/-- Whether a handle names the load that stands in its slot. -/
def State.handleHeld (s : State) (h : Nat) : Bool :=
  match look s.keys.slots (h % 0x10000) with
  | some x => x.epoch == h / 0x10000 && !x.doomed
  | none => false

/-- The handle that an encryption runs under: from exhaustion onward the newest successor that its slot still holds (R195; that it is
from exhaustion and not from the link on is R195's word, log entry 112); `fuel` bounds the chain. -/
def State.encryptHandle (s : State) : Nat → Nat → Nat
  | 0, h => h
  | fuel + 1, h =>
    match look s.keys.slots (h % 0x10000) with
    | some x =>
      match x.successor with
      | some h2 => if x.used ≥ x.limit ∧ s.handleHeld h2 then s.encryptHandle fuel h2 else h
      | none => h
    | none => h

/-- Whether a handle's slot has lost ENCRYPT (R195): it is exhausted and its successor was linked. -/
def State.lostEncrypt (s : State) (h : Nat) : Bool :=
  match look s.keys.slots (h % 0x10000) with
  | some x => decide (x.used ≥ x.limit) && x.successor.isSome
  | none => false

/-- An encryption that takes no nonce, of ECB or XTS: under the newest successors, or refused where a slot has lost ENCRYPT and its
successor is gone (R195; the status is the model's choice, log entry 112). -/
def State.giveHandles (s : State) (j : Job) : Except Nat Job :=
  if j.m.opcode ≠ 0x0303 ∨ j.part ≠ 0 then .ok j
  else
    let hs := j.slots.map (s.encryptHandle 64)
    if hs.any s.lostEncrypt then .error St.keyUsage else .ok { j with slots := hs }

/-- Whether a waiting request may start now: an encryption waits for its reservation or for its IV (R191, Table SY.5). -/
def State.requestMayStart (s : State) (j : Job) : Bool :=
  !j.counted || s.eng.baseLost || (if guardIv j.prog then s.nonceReady else s.canDraw)

/-- SKE_NONCE_CFG.DEVICE as lane `n` has it: the shadow once it has applied the commit under way (Table GI.7). -/
def State.deviceOf (s : State) (n : Nat) : Nat :=
  if (s.lane n).took then s.shadowOf R.skeNonceCfgDevice else s.get R.skeNonceCfgDevice

/-- The request with its nonce, counter block or CBC IV, or its refusal at the start (R189 to R193). -/
def State.giveIv (s : State) (lane : Nat) (j : Job) : State × Except Nat Job :=
  if !j.counted then (s, s.giveHandles j)
  else
    let h := s.encryptHandle 64 (j.slots.headD 0)
    let i := h % 0x10000
    match look s.keys.slots i with
    | none => (s, .error St.slotStale)
    | some x =>
      if x.used ≥ x.limit then (s.exhaust i, .error St.nonceExhausted)
      else if s.eng.baseLost then (s, .error St.nonceExhausted)
      else if guardIv j.prog then
        let (s1, v) := s.takeNonce
        let n := nonceBytes (s.deviceOf lane) lane x.epoch v
        (s1.countUse i, .ok { j with slots := [h], iv := if j.prog = 0x03 then n ++ [0, 0, 0, 0] else n })
      else
        let (s1, iv) := s.draw 16
        (s1.countUse i, .ok { j with slots := [h], iv := iv })

/-- Lane `n`, READY, takes the next request (R175, R188, R190): a request that is stale or refused at its start ends there,
and the lane takes the next; at most `fuel` of them. -/
def State.startSke (s : State) (n : Nat) : Nat → State
  | 0 => s
  | fuel + 1 =>
    if s.laneState n ≠ 2 ∨ s.is (R.skeLaneStatusGatePending n) then s
    else match s.pick true s.requestMayStart with
      | none => s
      | some j0 =>
        let s1 := s.unqueue j0
        match s1.jobStale j0 with
        | some st => (s1.yield j0 (Yield.of st)).startSke n fuel
        | none =>
          match s1.giveIv n j0 with
          | (s2, .error st) => (s2.yield j0 (Yield.of st)).startSke n fuel
          | (s2, .ok j1) =>
            let (s3, j) := s2.armJob j1
            (((s3.setLane n { s3.lane n with job := some j }).setLaneState n 3).put (R.skeLaneStatusAlg n) j.prog).put
              (R.skeLaneStatusLeased n) 1

/-- A request joins the SKE queue (R187). -/
def State.submitSke (s : State) (j : Job) : State := (s.enqueue j).setStage j.cid .engine

/-- Whether the SKE queue has an entry for a request (R187): 1,024 in all, of which the host's may hold 960. -/
def State.skeRoom (s : State) (own : Bool) : Bool :=
  decide (s.eng.skeQueue.length < 1024) && (own || decide (s.eng.skeQueue.countP (fun j => !j.own) < 960))

/-- A command asks the SKE for a request: it joins the queue, or the command waits for an entry (R187). -/
def State.askSke (s : State) (j : Job) : State × Answer := if s.skeRoom j.own then (s.submitSke j, .engine) else (s, .wait [needRoom])

/-- A part of a command that a lane makes: there already, or the device's own request asks for it (R184, R185). -/
def State.lanePart (s : State) (k : Nat) (j : Job) : State × Except Answer Bytes :=
  match s.partOf j.cid k with
  | some b => (s, .ok b)
  | none =>
    let (s1, a) := s.askSke { j with part := k, own := true }
    (s1, .error a)

/-- Lane `n` is clear (R176): slots and lease are let go, a pending gate takes effect; else it is READY. -/
def State.clearLane (s : State) (n : Nat) : State :=
  let l := s.lane n
  match l.job with
  | none => s
  | some j =>
    let bytes := l.bytes + j.data.length
    let s1 := (s.disarmJob j).setLane n { l with job := none, bytes := bytes }
    let s2 := ((s1.put (R.skeLaneBytesKib4 n) (bytes / 4096)).incMod (R.skeLaneReqsCount n) 1).putB (R.skeLaneStatusLeased n)
      (bitOf (s.get R.mpcLeaseHoldSke) n)
    ((if s2.laneState n = 3 then s2.setLaneState n 2 else s2).settleLane n).showMism n

/-- What a request's completion adds under R195: the rotation number in INFO and the handle used. -/
def State.rotationOf (s : State) (j : Job) : Nat :=
  match j.slots with
  | h :: _ => ((look s.keys.slots (h % 0x10000)).map (fun x => x.rotation)).getD 0
  | [] => 0

/-- The output of a cipher that leaves its lane in segments, each after its own check (R181); a tag, a digest, a MAC or a key is none. -/
def Job.stream (j : Job) : Bytes :=
  if j.part ≠ 0 ∨ (j.prog = 0x06 ∧ j.secret = j.secret2) then []
  else if j.m.opcode = 0x0303 then (if deviceIv j.prog then j.iv else []) ++ j.std j.prog 0 j.data.length
  else if j.m.opcode = 0x0304 then j.std (0x100 + j.prog) 0 j.data.length
  else []

/-- The destination of a request that ends in another status than OK (R181): the segments of 4 KiB that had left by then, and zeros over
every byte of them. How many had left is a free value (log entry 112). -/
def State.zeroDest (s : State) (j : Job) : State :=
  let out := j.stream
  if out.isEmpty then s
  else
    let data := out.take (4096 * (Config.freeNat s.fresh % (out.length / 4096 + 2)))
    let zeros : Bytes := List.replicate data.length 0
    match j.m.origin with
    | .ring _ =>
      if data.isEmpty ∨ 64 + data.length > j.m.resultLen then s.drawn
      else ((s.drawn.access j.m.inst (j.m.resultAddr + 64) data.length (some data) .dest).1.access j.m.inst (j.m.resultAddr + 64)
        data.length (some zeros) .dest).1
    | .mbox fn box => s.drawn.writeMem (mboxArea fn box + 64) (zeros.take 4032)
    | .internal => s.drawn.writeMem (mboxArea nwInst 0 + 64) (zeros.take 4032)
    | _ => s.drawn

/-- The request on lane `n` ends with what it yields: OK releases its output, any other status zeroes its destination (R181); the lane
clears. -/
def State.endSke (s : State) (n : Nat) : State :=
  match (s.lane n).job with
  | none => s
  | some j =>
    let y := j.runSke
    let s1 := if y.status = St.ok then s else s.zeroDest j
    ((s1.yield j { y with info := s.rotationOf j, key := j.slots.headD 0 }).clearLane n)

/-- The request on lane `n` ends early with a status: nothing is released, and its destination is zeroed (R181, R197). -/
def State.stopSke (s : State) (n status : Nat) : State :=
  match (s.lane n).job with
  | none => s
  | some j => ((s.zeroDest j).yield j (Yield.of status)).clearLane n

/-! ### The meanings of rows that touch the SKE alone -/

/-- NONCE_RESERVATION_DONE (R191). -/
def execNonceReservationDone (ok0 ok1 : Bool) (s : State) : Host.Outcome State Fault Refusal := .next (s.reservationDone ok0 ok1)

end Sys2Proof.Machine
end

