-- ==== Sys2Proof/Machine/Resets.lean ====
section
/-! DEFINITION. What a reset takes away (Table AH.6, R64, R213), and fault reports of every class: HARD slots and their
escalation (R375), SEVERE resets (R376, R377) and the GRAVE halt (R378). -/

namespace Sys2Proof.Machine

/-! ### Registers at a reset (R12, R64) -/

/-- Whether a row of the layout holds the field with this key. -/
def Row.hasKey (r : Row) (key : Nat) : Bool :=
  let off := key / 64
  key % 64 == r.fld.lsb &&
    (if r.count ≤ 1 then off == r.fld.off
     else decide (r.fld.off ≤ off) && (off - r.fld.off) % r.stride == 0 && decide ((off - r.fld.off) / r.stride < r.count))

/-- What Warm does to the field with this key; a field the layout does not list goes to its value. -/
def warmOf (key : Nat) : Warm := ((layout.find? (fun r => r.hasKey key)).map (·.warm)).getD .value

/-- The fields of the offsets from `lo` below `hi` go to their Warm values, but for those that are kept from retained
storage and, where `held` is true, those that a restart leaves (R64); `skip` picks fields that this reset does not reach. -/
def State.warmRange (s : State) (lo hi : Nat) (held : Bool) (skip : Nat → Bool) : State :=
  let stays (key : Nat) : Bool :=
    let off := key / 64
    decide (off < lo) || decide (hi ≤ off) || skip off || (match warmOf key with | .keep => true | .held => held | .value => false)
  { s with
    regs := s.regs.filter (fun e => stays e.1)
    iface.sqcHeld := s.iface.sqcHeld.filter (fun o => decide (o < lo) || decide (hi ≤ o) || skip o)
    iface.shadows := s.iface.shadows.filter (fun e => stays e.1) }

/-! ### The TRNG cluster (R213) -/

/-- A noise source beside its registers; one that has done nothing yet. -/
def Source.new : Source := ⟨false, [], none, (false, 0), 0, false⟩
def State.source (s : State) (n : Nat) : Source := (look s.trng.sources n).getD Source.new
def State.setSource (s : State) (n : Nat) (x : Source) : State := { s with trng.sources := store s.trng.sources n x }

/-- A source's entry in the trim record; one that was never written has trim 0, no estimate and no mark. -/
def State.trimOf (s : State) (n : Nat) : Trim := (look s.trng.trims n).getD ⟨0, 0, false⟩
def State.setTrim (s : State) (n : Nat) (x : Trim) : State := { s with trng.trims := store s.trng.trims n x }

/-- TRIM and ESTIMATE as the trim record has them (R222). -/
def State.showTrim (s : State) (n : Nat) : State :=
  (s.put (R.trngSrcStatusTrim n) (s.trimOf n).trim).put (R.trngSrcStatusEstimate n) (s.trimOf n).estimate

/-- A source starts again, from its start-up test, with the trim and the mark of the record: ISOLATED where it is marked. A
recalibration that is cut off ends with ENGINE_RESET (R213, R220). -/
def State.restartSource (s : State) (n : Nat) : State :=
  let x := s.source n
  let t := (s.showTrim n).put (R.trngSrcStatusState n) (if (s.trimOf n).marked then 3 else 1)
  let t1 := t.setSource n { x with tested := false, waiting := [], chosen := none, run := (false, 0) }
  x.waiting.foldl (fun u cid => u.complete cid (Resp.of St.engineReset)) t1

/-- A reset of the TRNG cluster (R213): the DRBG's Key and V, the pool and the host FIFO are zeroed, every channel starts again, trims
and isolation marks stay. -/
def State.trngReset (s : State) : State :=
  let s1 := { s.warmRange 0x90000 0xA0000 true (fun _ => false) with
    trng.key := [], trng.v := [], trng.pool := [], trng.fifo := [], trng.valid := [], trng.nkIn := false, trng.katFailed := false }
  [0, 1, 2, 3, 4].foldl (fun t n => t.restartSource n) s1

/-! ### PKE clusters and SKE lanes -/

/-- A reset meets cluster `n`: a job before its release point is aborted (R140) and ends with ENGINE_RESET; seed and microcode are
gone; slots and lease are let go with the wipe, which the reset takes in (R137, R173). -/
def State.resetPke (s : State) (n : Nat) : State := ((s.abortPke n St.engineReset).setLoaded n []).dropSeed n

/-- Every lane's request ends with the status. -/
def State.dropLanes (s : State) (status : Nat) : State := (List.range 8).foldl (fun t n => t.stopSke n status) s

/-- A lane after a reset of the SKE: it tests itself, but for one that is gated or isolated. -/
def State.restartLane (s : State) (n st : Nat) : State := if st = 0 ∨ st = 4 then s.setLaneState n st else s.setLaneState n 1

/-- The counts of slot loads and evictions, whose Warm value is 0 (R64, Table KH.12). -/
def State.slotCountsOff (s : State) : State := (s.put R.skeSlotLoadsCount 0).put R.skeSlotEvictsCount 0

/-- A reset of the SKE: its lanes' requests end with ENGINE_RESET; the queue stays (Table AH.6). DEVICE and the counts go to their
Warm value; what tells of the key slots belongs to G5. -/
def State.skeReset (s : State) : State :=
  let s1 := s.dropLanes St.engineReset
  let was (n : Nat) : Nat := s1.laneState n
  let s2 := s1.warmRange 0x80000 0x90000 true (fun o =>
    o == R.skeQueueDepth.off || o == R.skeSlotInuseLoaded.off || o == R.skeSlotCfgReservedBank.off)
  (List.range 8).foldl (fun t n => (t.setLane n { t.lane n with took := false, mism := [], bytes := 0 }).restartLane n (was n)) s2

/-! ### G5: the custody firmware's restart -/

end Sys2Proof.Machine

namespace Sys2Proof

/-- Whether a command goes by custody, and by the store route (R36). -/
def Msg.custody (m : Msg) : Bool := Machine.routeOf m == 2
def Msg.storeRoute (m : Msg) : Bool := Machine.routeOf m == 1

end Sys2Proof

namespace Sys2Proof.Machine

/-- MPC_CROSS.INBOUND: the custody-route commands that lie in the inbound FIFO, held back by a live update's pause (R243, R319). -/
def State.showInbound (s : State) : State :=
  s.put R.mpcCrossInbound (s.host.cmds.countP (fun c => c.2.stage == .held && c.2.m.custody))

/-- Commands that need custody complete with CUSTODY_UNAVAILABLE, but for those whose change lies in a batch (R125, R341,
R342). -/
def State.custodyGone (s : State) : State :=
  s.completeAll (fun c => (c.m.custody || c.m.storeRoute) && c.stage != .committed && c.stage != .answered) St.custodyUnavailable |>.showInbound

/-- The log's freeze ends with G5 and its buffer is lost and counted (R385). -/
def State.freezeLost (s : State) : State :=
  let n := s.log.buffer.length
  (({ s with log.buffer := [] }.put R.logStatusFrozen 0).put R.logStatusBuffered 0).logLost n

/-- What G5 holds is gone: keys, slots, firmware memory (Table AH.6, R74, R93, R123, R125, R415, R440). -/
def State.g5Lost (s : State) : State :=
  let s1 := { s.loseSlots with
    keys.dmk := [], keys.dmkd := [], keys.sealRoot := [], keys.idSeeds := [], keys.nextDmk := [], keys.nextDmkd := []
    keys.stk := [], keys.attKey := [], keys.tenants := [], keys.active := none, keys.staged := none
    keys.dyingTenants := [], keys.dyingWgs := []
    life.pkgBuffer := [], life.challenge := [], life.updating := none, life.booting := none, ferry.offers := [] }.clearMem 0x10000000 0x800000
  let s2 := (((s1.put R.skeSlotCfgScrambleReady 0).put R.skeSlotCfgMaskReady 0).put R.lifeDebugChallenge 0).put
    R.keeperDeriveStatusProspective 0 |>.put R.keeperDeriveStatusReleased 0 |>.put R.keeperDeriveStatusRefusal 0
  s2.slotCountsOff.storeReset.warmRange 0xA0000 0xB0000 true (fun _ => false)

/-- CUSTODY_UP in both its places. -/
def State.setCustodyUp (s : State) (b : Bool) : State := (s.setDev R.devStatusCustodyUp (ofBool b)).putB R.mpcWorldStatusCustodyUp b

/-- The G5 warm restart begins (Table AH.6, R341, R342, R344): commands that need custody are turned away, firmware leases
fall, keys are locked. -/
def State.g5Reset (s : State) : State :=
  let s1 := ((s.custodyGone.setCustodyUp false).put R.mpcWorldStatusRestarting 1).put R.mpcWorldStatusKeysLocked 1
  let s2 := ((s1.put R.mpcWorldStatusPairA 0).put R.mpcWorldStatusPairB 0).put R.mpcLeaseHoldPke 0 |>.put R.mpcLeaseHoldSke 0
  let s3 := (List.range 16).foldl (fun t n => (t.showLease n).settleGate n) s2
  let s4 := (List.range 8).foldl (fun t n => (t.putB (R.skeLaneStatusLeased n) (t.lane n).job.isSome).settleLane n) s3
  { s4.freezeLost.g5Lost with worlds.missedA := false, worlds.missedB := false }

/-! ### G6 and G7 -/

/-- A mailbox command that runs at a G6 reset reports to the journal alone where the custody firmware has it, and is gone
otherwise (R228). -/
def State.mboxReset (s : State) : State :=
  let isMbox (c : Cmd) : Bool := match c.m.origin with | .mbox _ _ => true | .internal => true | _ => false
  let keep := s.host.cmds.filter (fun c => !isMbox c.2 || c.2.m.custody)
  let cmds := keep.map (fun (c : Nat × Cmd) => (c.1, if isMbox c.2 ∧ c.2.silent.isNone then { c.2 with silent := some 1 } else c.2))
  let idle (t : State) (f : Fld) : State := if t.get f = 3 then t else t.put f 0
  let s1 := { s with host.cmds := cmds }
  let s2 := (List.range 32).foldl (fun t b => idle t (mboxState 0 b)) s1
  idle ((s2.host.fns.filter (fun f => f.1 != 0)).foldl (fun t f => idle t (mboxState f.1 0)) s2) (mboxState nwInst 0)

/-- The registers that QENG restores from its mirror (R294): QENG_CFG_BASE, the map of enabled objects, shares, arbitration
values and routes. -/
def qengKept (o : Nat) : Bool :=
  o == R.qengStatusSqs.off || o == R.qengCfgBaseAddr.off || (decide (0x51000 ≤ o) && decide (o < 0x57000))

/-- The entries of SQ `n`'s chains that have not started end, at most `fuel` of them (Table AH.6, R280). -/
def State.endChains (s : State) (n : Nat) : Nat → State
  | 0 => s
  | fuel + 1 =>
    match s.nextEntry n with
    | (s1, some (cid, ch)) => (s1.complete cid (Resp.of (if ch.stopped.isSome then St.cancelled else St.engineReset))).endChains n fuel
    | (s1, none) => s1

/-- An answer whose write was cut off is written again. -/
def State.answerAgain (s : State) (c : Nat × Cmd) : State :=
  match c.2.stage, c.2.m.origin, c.2.resp with
  | .answered, .ring q, some r => s.answerRing q c.1 c.2.m r
  | _, _, _ => s

/-- A reset of G6 (Table AH.6, R228, R279, R294): fetched unfinished entries complete with ENGINE_RESET, prefetched entries,
translations and the normal world's memory are lost; queues come back from the mirror, with the committed values alone (R62) and
every header is read again. An answer that was being written is written again. -/
def State.g6Reset (s : State) : State :=
  let s1 := s.completeAll (fun c => match c.m.origin with | .ring _ => c.stage != .answered | _ => false) St.engineReset
  let s2 := (s1.host.sqs.foldl (fun t q => t.endChains q.1 (q.2.chains.foldl (fun a c => a + c.waiting.length) 0)) s1).mboxReset
  let s3 := ({ s2 with host.accesses := [], host.tlb := [], host.load := none }.clearMem 0x11000000 0x400000).clearMem 0x12000000
    0x1000000
  let s4 := { s3.warmRange 0x50000 0x70000 true qengKept with
    iface.shadows := s3.iface.shadows.filter (fun e => !(decide (0x50000 ≤ e.1 / 64) && decide (e.1 / 64 < 0x70000))) }
  let s5 := s4.host.sqs.foldl (fun t q =>
    let live := decide (t.get (R.qengSqStateState q.1) = 1)
    let t1 := { t with host.sqs := store t.host.sqs q.1 { q.2 with entries := [], next := q.2.cons, headerRead := live, headerAgain := false } }
    let t2 := t1.put (R.qengSqStatePrefetched q.1) 0
    if live then t2.emit (.headerRead false q.1) else t2) s4
  let s6 := s5.host.cqs.foldl (fun t q =>
    let live := decide (t.get (R.qengCqStateState q.1) = 1)
    let t1 := { t with host.cqs := store t.host.cqs q.1 { q.2 with headerRead := live, headerAgain := false } }
    if live then t1.emit (.headerRead true q.1) else t1) s5
  ({ s6 with worlds.notices := [] }.put R.mpcCrossNotice 0) |> (fun t => s6.host.cmds.foldl (fun u c => u.answerAgain c) t)

/-- A follower's state (R428, R435): a change raises event source 384 + n; PRESENT is counted. -/
def State.setFollower (s : State) (n st : Nat) : State :=
  if s.get (R.ferryFollowerState n) = st then s
  else
    let s1 := (s.put (R.ferryFollowerState n) st).putBit R.ferryPresentPresent n (st == 3)
    (s1.put R.ferryStatusPresent (popcount 64 (s1.get R.ferryPresentPresent))).raise (384 + n)

/-- Follower `n` is ABSENT: every command outstanding to it completes with DEVICE_UNREACHABLE, every far read with nothing
(R434). -/
def State.loseFollower (s : State) (n : Nat) : State :=
  let s1 := s.setFollower n 1
  let mine := s1.ferry.waits.filter (fun w => w.2.dev == n)
  let held := s1.ferry.queued.filter (fun q => q.1 == n)
  let s2 := { s1 with
    ferry.waits := s1.ferry.waits.filter (fun w => w.2.dev != n || w.2.cid.isNone)
    ferry.queued := s1.ferry.queued.filter (fun q => q.1 != n) }
  let s3 := mine.foldl (fun t w => match w.2.cid with | some cid => t.complete cid (Resp.of St.deviceUnreachable) | none => t) s2
  (held.foldl (fun t q => t.complete q.2 (Resp.of St.deviceUnreachable)) s3).put (R.ferryFollowerOutOutstanding n) 0

/-- What a reset of G7 leaves of the FERRY block: the role, which PORST_N and main power-up clear (R423), and the far-device
window settings (Table AH.6). -/
def farKept (o : Nat) : Bool := o == 0xF0040 || (decide (0xF0104 ≤ o) && decide (o < 0xF0200))

/-- A reset of G7 (R64, Table AH.6): frames in transit are lost, every follower is unreachable until the ports retrain. -/
def State.g7Reset (s : State) : State :=
  let s1 := (List.range 64).foldl (fun t n => if t.get (R.ferryFollowerState n) = 3 then t.loseFollower n else t) s
  let was (p : Nat) : Nat := s1.get (R.ferryPortState p)
  let s2 := (s1.warmRange 0xF0000 0x100000 true farKept).put R.ferryStatusRingBroken 0 |>.put R.ferryStatusSelf 0
  let s3 := (List.range 4).foldl (fun t p => t.put (R.ferryPortState p) (if was p = 0 then 0 else 2)) s2
  { s3 with ferry.ports := [], ferry.gathered := [], ferry.found := [] }

/-- What a reset of region `g` takes away as it begins (Table AH.6). -/
def State.regionLost (s : State) (g : Nat) : State :=
  if g ≤ 3 then
    [0, 1, 2, 3].foldl (fun t i =>
      let n := 4 * g + i
      if clusterOut (t.clusterState n) then t else (t.resetPke n).setClusterState n (if (t.cluster n).job.isSome then 5 else 1)) s
  else if g = 4 then s.skeReset.trngReset
  else if g = 5 then s.g5Reset
  else if g = 6 then s.g6Reset
  else s.g7Reset

/-! ### Resets after faults -/

/-- The region and cluster fields of the location in HARD slot `i`. -/
def State.slotPart (s : State) (i : Nat) : Nat × Nat × Nat :=
  let l := s.get (R.faultHardSlotLoc i)
  (field l 6 2, field l 8 4, field l 12 7)

/-- The region of a cluster (Table AH.1). -/
def regionOf (cluster : Nat) : Nat := if cluster ≤ 15 then cluster / 4 else if cluster ≤ 17 then 4 else 5

/-- HARD slots of parts that are reset close without escalation (R376). -/
def State.closeReset (s : State) (hit : Nat → Nat → Bool) : State :=
  (List.range 16).foldl (fun t i =>
    if bitOf (t.get R.faultHardOpen) i then
      let (die, region, cluster) := t.slotPart i
      if die = 0 ∧ hit region cluster then t.closeHard i else t
    else t) s

/-- The block sets of a region (Table GI.5). -/
def regionBlocks (g : Nat) : List Nat :=
  if g ≤ 3 then [] else if g = 4 then [0x80000, 0x90000] else if g = 5 then [0xA0000] else if g = 6 then [0x50000, 0x60000] else [0xF0000]

/-- The checkers in front of a region's targets (Table WP.2); while the region resets they show RELOADING, but for one that
drains (R25, R335). -/
def regionCheckers (g : Nat) : List Nat := if g = 5 then [1] else if g = 6 then [2, 3, 5] else []
def State.reloading (s : State) (g from_ to_ : Nat) : State :=
  (regionCheckers g).foldl (fun t c => if t.get (R.mpcRuleEpochState c) = from_ then t.put (R.mpcRuleEpochState c) to_ else t) s

/-- Posted writes in flight towards region `g` are lost: their mark stays until the reset ends, and then BUSY falls (R57). A
mark of 2^32 carries no value. -/
def inRegion (g w : Nat) : Bool := (regionBlocks g).contains (w / 0x10000 * 0x10000)
def State.losePosted (s : State) (g : Nat) : State :=
  { s with iface.pwBusy := s.iface.pwBusy.map (fun e => if inRegion g e.1 then (e.1, 2 ^ 32, e.2.2) else e) }
def State.freePosted (s : State) (g : Nat) : State :=
  { s with iface.pwBusy := s.iface.pwBusy.filter (fun e => !inRegion g e.1) }

/-- A region's reset begins (R376): what it holds is lost, and its HARD slots close. -/
def State.regionReset (s : State) (g : Nat) : State :=
  let s1 := { s.regionLost g with pwr.regionReset := setBit s.pwr.regionReset g true }.losePosted g
  (s1.reloading g 0 3).closeReset (fun region _ => region == g)

/-- A cluster's reset begins (R376): jobs end with ENGINE_RESET; a PKE cluster is wiped and then QUARANTINED (R168); a
custody pair stops. -/
def State.clusterReset (s : State) (c : Nat) : State :=
  let s1 :=
    if c ≤ 15 then
      if clusterOut (s.clusterState c) then s else (s.resetPke c).setClusterState c 5
    else if c = 16 then s.skeReset
    else if c = 17 then s.trngReset
    else if c = 18 then s.put R.mpcWorldStatusPairA 0
    else s.put R.mpcWorldStatusPairB 0
  { s1 with pwr.clusterReset := setBit s1.pwr.clusterReset c true }.closeReset (fun _ cluster => cluster == c)

/-- SEVERE resets under key `k` within the last second of local tick (R377). -/
def State.recentResets (s : State) (k : Nat) : Nat :=
  s.pwr.resetAt.countP (fun e => e.1 == k && decide (s.tick < e.2 + 1000 * cyclesPerMs))

/-- A reset under key `k` is remembered. -/
def State.rememberReset (s : State) (k : Nat) : State :=
  { s with pwr.resetAt := (k, s.tick) :: s.pwr.resetAt.filter (fun e => decide (s.tick < e.2 + 1000 * cyclesPerMs)) }

/-- The HALT record (Table FL.3). -/
def State.haltBody (s : State) (r : FaultRec) (tick : Nat) : Bytes :=
  s.locBytes r.loc ++ leBytes 1 r.block ++ leBytes 1 r.kind ++ leBytes 1 r.cls ++ leBytes 8 r.addr ++ leBytes 1 r.master
    ++ leBytes 1 r.sub ++ leBytes 1 r.access ++ leBytes 8 tick

/-- Every mailbox is CLOSED or IDLE (R228). -/
def State.setMailboxes (s : State) (v : Nat) : State :=
  let s1 := (List.range 32).foldl (fun t b => t.put (mboxState 0 b) v) s
  (List.range 256).foldl (fun t f => if f = 0 then t else t.put (mboxState f 0) v) (s1.put (mboxState nwInst 0) v)

/-- The commands and jobs that die with the parts they ran on. -/
def State.loseWork (s : State) : State :=
  { s with host.cmds := [], host.accesses := [], eng.pkeQueue := [], eng.skeQueue := [], eng.clusters := [], eng.lanes := [], quorum.acting := [] }

/-- A GRAVE fault halts die M (R378): mask key, scramble tables and operand memories erased, G0 to G7 held in reset, BOOT 3,
the mailboxes closed, and the capture written as the halt record. -/
def State.grave (s : State) (r : FaultRec) : State :=
  if s.pwr.halted then s.countFault r.cls
  else
    let s1 := s.reportBase r
    let s2 := { s1.loseWork.g5Lost with
      pwr.halted := true, pwr.regionReset := 0xFF, fault.haltRecord := some r, fault.haltTick := s.tick }
    let s3 := (((s2.trngReset.setDev R.devStatusBoot 3).setCustodyUp false).put R.mpcWorldStatusPairA 0).put R.mpcWorldStatusPairB 0
    (s3.setMailboxes 3).noteHealth

/-- A region takes a SEVERE reset (R376, R377): absorbed while it resets; the fourth within 1 s powers G0–G3 and G7 off, and
is GRAVE for G4–G6. -/
def State.severeRegion (s : State) (g : Nat) (r : FaultRec) : State :=
  if bitOf s.pwr.regionReset g ∨ bitOf s.pwr.regionOff g then s
  else
    let s1 := s.rememberReset g
    if s1.recentResets g ≥ 4 then
      if g = 4 ∨ g = 5 ∨ g = 6 then s1.grave { r with cls := 5 }
      else
        let s2 := { s1.regionLost g with pwr.regionOff := setBit s1.pwr.regionOff g true }
        let s3 := if g = 7 then
            (((List.range 4).foldl (fun t p => t.put (R.ferryPortState p) 0) s2).put (R.hdrStateOff 0xF0000) 1).setMissing 30 true
          else [0, 1, 2, 3].foldl (fun t i =>
            if t.clusterState (4 * g + i) = 8 then t else (t.endWipe (4 * g + i)).clusterOff (4 * g + i)) s2
        s3.closeReset (fun region _ => region == g)
    else s1.regionReset g

/-- A custody pair that a SEVERE reset stopped leaves the other to serve; with none left the secure world has hung (R340,
R341). -/
def State.pairsLeft (s : State) : State :=
  if bitOf s.pwr.regionReset 5 ∨ s.is R.mpcWorldStatusPairA ∨ s.is R.mpcWorldStatusPairB ∨ !s.is R.devStatusCustodyUp then s
  else s.regionReset 5

/-- A cluster takes a SEVERE reset (R376, R377). -/
def State.severeCluster (s : State) (c : Nat) (r : FaultRec) : State :=
  if bitOf s.pwr.clusterReset c ∨ bitOf s.pwr.regionReset (regionOf c) then s
  else
    let s1 := s.rememberReset (0x100 + c)
    if c ≥ 16 ∧ s1.recentResets (0x100 + c) ≥ 4 then s1.severeRegion (regionOf c) r
    else
      let s2 := s1.clusterReset c
      if c ≥ 18 then s2.pairsLeft else s2

/-- A SEVERE fault (R376): it acts by the location of the part. -/
def State.severe (s : State) (r : FaultRec) : State :=
  if s.pwr.halted then s.countFault r.cls
  else
    let s1 := s.reportBase r
    let s2 :=
      if r.loc.die ≠ 0 then s1
      else if r.loc.cluster ≤ 19 then s1.severeCluster r.loc.cluster r
      else if r.loc.region ≤ 7 then s1.severeRegion r.loc.region r
      else s1
    s2.noteHealth

/-- A fault escalates: it is reported again as SEVERE (R375). -/
def State.escalateFault (s : State) (r : FaultRec) : State :=
  (s.incSat R.faultCountCEscalated).severe { r with cls := 4, escalated := true }

/-- A fault report of any class (R372 to R378). -/
def State.report (s : State) (r : FaultRec) : State :=
  if r.cls ≤ 2 then s.reportBase r
  else if s.pwr.halted then s.countFault r.cls
  else if r.cls = 3 then
    let s1 := s.reportBase r
    match s1.freeHardSlot with
    | some i => (s1.openHard i r).noteHealth
    | none => s1.escalateFault r
  else if r.cls = 4 then s.severe r
  else s.grave r

/-- A HARD fault of a part, not raised by an access. -/
def State.hard (s : State) (loc : Loc) (block kind : Nat) : State := s.report (plainFault 3 loc block kind)

/-- Whether HARD timers run (R375): not during a restart, and not while PURGED holds. -/
def State.timersRun (s : State) : Bool := !s.is R.mpcWorldStatusRestarting && !s.is R.keeperTamperStatePurged && !s.pwr.halted

/-- The timer of HARD slot `i` expires (R375). -/
def State.escalate (s : State) (i : Nat) : State :=
  if i < 16 ∧ bitOf (s.get R.faultHardOpen) i ∧ s.timersRun then
    match look s.fault.hard i with
    | some r => (s.closeHard i).escalateFault r
    | none => s
  else s

/-- HARD_ESCALATION (R375). -/
def execHardEscalation (i : Nat) (s : State) : Host.Outcome State Fault Refusal := .next (s.escalate i)

end Sys2Proof.Machine
end

