-- ==== Sys2Proof/Machine/Compass.lean ====
section
/-! DEFINITION. Compass (chapter 11): cycles, ticks, the phase loop, states, resolution, steps, anchors and waypoints. Times are
in units of 0.15625 ns, the unit of COMPASS_PERIOD. -/

namespace Sys2Proof.Machine

/-- 20 ms, 14.706 ms, 23.810 ms and 29.762 ms in units of 0.15625 ns (R296, R297). -/
def tick20ms : Nat := 128000000
def cycleMin : Nat := 94118400
def cycleMax : Nat := 152384000
def missingAfter : Nat := 190476800

/-- The code of an uncertainty of `u` ph (R301): the smallest exponent whose rounded-up mantissa fits 8 bits; 0xFFF where it
passes the largest bounded code. -/
def uncertCode (u : Nat) : Nat :=
  match (List.range 16).find? (fun e => (u + 2 ^ e - 1) / 2 ^ e ≤ 255) with
  | some e => 256 * e + (u + 2 ^ e - 1) / 2 ^ e
  | none => 0xFFF

/-- u in HOLDOVER, n ticks after the entry (R301). -/
def holdoverU (u0 n : Nat) : Nat := u0 + 2 * n + (n * n + 255) / 256

/-- u in LOCKED and STEP: the larger of 4 and twice the largest |e| over the last 8 valid crossings (R301). -/
def loopU (errors : List Nat) : Nat := max 4 (2 * errors.foldl max 0)

/-- Compass's state code (Table CT.2). -/
def State.cstate (s : State) : Nat := s.get R.compassStatusState

/-- Whether a tracked period exists: LOCKED, HOLDOVER or STEP (R296). -/
def State.tracked (s : State) : Bool := s.cstate ≥ 2

/-- The tracked period T (COMPASS_PERIOD). -/
def State.period (s : State) : Nat := s.get R.compassPeriodPeriod

/-- The nominal frequency in Hz (R313). -/
def State.nominalHz (s : State) : Nat := if s.get R.compassStatusNominal = 2 then 60 else 50

/-- A COMPASS_EVENT under R59. -/
def State.compassEvent (s : State) (kind from_ to_ reason : Nat) : State :=
  s.sqcEvent R.compassEventSeq (fun t => (((t.put R.compassEventKind kind).put R.compassEventFrom from_).put R.compassEventTo
    to_).put R.compassEventReason reason)

/-- The state changes (R300): COMPASS_STATUS, DEV_STATUS, COMPASS_EVENT KIND 1 and event source 4. -/
def State.enter (s : State) (to_ : Nat) : State :=
  if s.cstate = to_ then s
  else (((s.put R.compassStatusState to_).setDev R.devStatusCompassState to_).compassEvent 1 s.cstate to_ 0).raise 4

/-- UNCERT follows the state (R301). -/
def State.uncertNow (s : State) : State :=
  s.put R.compassQualityUncert
    (if s.cstate = 2 ∨ s.cstate = 4 then uncertCode (loopU s.compass.errors)
     else if s.cstate = 3 then uncertCode (holdoverU s.compass.u0 s.compass.heldTicks)
     else 0xFFF)

/-- Compass falls to ABSENT: no tracked period exists, and E goes on from the count (R300, R302; log entry 12). -/
def State.enterAbsent (s : State) : State :=
  let u := if s.cstate = 3 then holdoverU s.compass.u0 s.compass.heldTicks else s.compass.uBase
  let c := s.compass
  let t := { s with compass := { c with
    eBase := (if s.cstate ≥ 2 then c.count else c.eBase), uBase := u, badRun := 0, estimate := 0, errors := []
    cycleAt := (if s.cstate ≥ 2 then c.cycleAt - c.tickAt else c.cycleAt), tickAt := (if s.cstate ≥ 2 then 0 else c.tickAt) } }
  ((((t.put R.compassPeriodPeriod 0).put R.compassStatusValidRun 0).put R.compassStatusStepDue 0).enter 0).uncertNow

/-- Compass enters HOLDOVER with u as it stands (R300, R301). A due step waits for its crossing (R308). -/
def State.enterHoldover (s : State) : State :=
  ({ s with compass.u0 := loopU s.compass.errors, compass.heldTicks := 0 }.enter 3).uncertNow

/-! ### Ticks -/

/-- The count moves to `n`; the keeper's copy follows, with the tracked period (R302). -/
def State.setCount (s : State) (n : Nat) : State :=
  ({ s with compass.count := n % 2 ^ 48, compass.lastPhase := 0,
            compass.heldPeriod := (if s.tracked then s.period else s.compass.heldPeriod) }).put R.compassHeldCycle n

/-- Every deadline moves by the amount of a correction or a step (R305). -/
def State.moveDeadlines (s : State) (d : Nat) : State :=
  (List.range 32).foldl (fun t n => if t.get (R.quorumSlotClassState n) = 1 then
    t.put (R.quorumSlotDeadlineCycle n) (t.get (R.quorumSlotDeadlineCycle n) + d) else t) s

/-- One tick: the count rises by 1, so does every consumer's count of ticks, and deadlines are compared (R254, R297). -/
def State.tick1 (s : State) : State :=
  let s1 := s.setCount (s.compass.count + 1)
  { s1 with compass.mc := s1.compass.mc + 1, compass.ticked := true }.deadlines

/-! ### Waypoints -/

/-- The armed bit of waypoint `n`. -/
def State.armed (s : State) (n : Nat) : Bool := bitOf (s.get (R.compassWpArmedArmed (n / 32))) (n % 32)
def State.setArmed (s : State) (n : Nat) (b : Bool) : State := s.putBit (R.compassWpArmedArmed (n / 32)) (n % 32) b

/-- A waypoint's action (Table CT.7): the state after it, and whether it could be carried out. -/
def State.wpAction (s : State) (n : Nat) (w : Waypoint) : State × Bool :=
  match w.action with
  | 2 =>
    let sq := le w.arg 0 2
    if s.get (R.qengSqStateState sq) = 1 then
      ({ s with compass.released := store s.compass.released sq (lookD s.compass.released sq 0 + le w.arg 2 2) }, true)
    else (s, false)
  | 3 => ({ s with compass.epochDue := s.compass.epochDue ++ [(n, w)] }, true)
  | 4 =>
    let op := le w.arg 0 4
    (if s.slotPends op then s.endSlot (op % 32) 2 St.quorumTimeout else s, true)
  | 5 => ({ s with compass.rates := store s.compass.rates (le w.arg 0 2) ⟨le w.arg 2 1, s.compass.mc + le w.arg 4 4⟩ }, true)
  | _ => (s, true)

/-- Where a REPEAT waypoint goes next (R311): CYCLE + PERIOD; where that has passed too, the first instant after the present,
with the number of firings passed over. -/
def nextCycle (cycle period count : Nat) : Nat × Nat :=
  let c1 := cycle + period
  if c1 > count then (c1, 0)
  else
    let k := (count - c1) / period + 1
    (c1 + k * period, k - 1)

/-- Waypoint `n` fires (R311). -/
def State.fireWaypoint (s : State) (n : Nat) : State :=
  match look s.compass.waypoints n with
  | none => s
  | some w =>
    let notAligned := w.alignedOnly && !s.is R.compassStatusAligned
    let (s1, ok) := if notAligned then (s, true) else s.wpAction n w
    let s2 := s1.sqcEvent R.compassWpFireSeq (fun t => (((t.put R.compassWpFireNumber n).putB R.compassWpFireLate w.late).putB
      R.compassWpFireNotAligned notAligned).putB R.compassWpFireFailed (!ok))
    let s3 := (s2.incMod R.compassWpCountsFired 1).raise (128 + n)
    let s4 := if ok then s3 else
      s3.journal 0x20 0xFFFF (leBytes 1 n ++ leBytes 1 w.action ++ leBytes 1 (ofBool w.late) ++ leBytes 1 (ofBool notAligned)
        ++ leBytes 1 1 ++ leBytes 2 St.notPermitted)
    if w.repeats ∧ w.left ≠ 1 then
      let (c, skipped) := nextCycle w.cycle w.period s4.compass.count
      let w1 := { w with cycle := c, left := w.left - 1, late := false }
      ({ s4 with compass.waypoints := store s4.compass.waypoints n w1 }).put R.compassWpCountsSkipped
        (saturate 0xFFFF (s4.get R.compassWpCountsSkipped + skipped))
    else ({ s4 with compass.waypoints := drop s4.compass.waypoints n }).setArmed n false

/-- Whether a waypoint's instant is reached by the present count and the latest phase known (R311). -/
def State.wpPassed (s : State) (w : Waypoint) : Bool :=
  decide (w.cycle < s.compass.count) || (w.cycle == s.compass.count && decide (w.phase ≤ s.compass.lastPhase))

/-- The armed waypoints whose instant has passed fire in ascending number, marked LATE (R305, R311). -/
def State.firePassed (s : State) : State :=
  (s.compass.waypoints.map (·.1)).foldl (fun t n =>
    match look t.compass.waypoints n with
    | some w =>
      if t.armed n ∧ t.wpPassed w then
        ({ t with compass.waypoints := store t.compass.waypoints n { w with late := true } }).fireWaypoint n
      else t
    | none => t) s

/-! ### Corrections and steps -/

/-- The count moves forward to `n` at a counted crossing, `d` beyond one tick: deadlines move by `d`, COMPASS_LAST_STEP records
it and the waypoints passed fire (R303 to R305). -/
def State.moveCount (s : State) (n d : Nat) : State :=
  let s1 := s.setCount n
  let s2 := { s1 with compass.mc := s1.compass.mc + 1, compass.ticked := true }
  (((s2.moveDeadlines d).put R.compassLastStepAmount d).deadlines).firePassed

/-- A step (R304): ALIGNED falls, the run starts at the new count, STEPS rises and Compass enters STEP. -/
def State.step4 (s : State) (n d : Nat) : State :=
  let s1 := (({ s with compass.stepTicks := 0 }.put R.compassStatusAligned 0).put R.compassRunStartCycle n).incSat R.compassLastStepSteps
  ((s1.enter 4).compassEvent 2 0 0 0).moveCount n d

/-- The aligning step that is due (R308): the crossing counts as count + 1 + D, ALIGNED rises and D is added to the run's
start. -/
def State.alignStep (s : State) : State :=
  let d := s.compass.stepDue
  let s1 := ((s.put R.compassStatusAligned 1).put R.compassRunStartCycle (s.get R.compassRunStartCycle + d)).put
    R.compassStatusStepDue 0
  let s2 := { s1 with compass.stepDue := 0, compass.stepTicks := 0 }.incSat R.compassLastStepSteps
  ((s2.enter 4).compassEvent 2 0 0 0).moveCount (s.compass.count + 1 + d) d

/-- The tick of a cycle in LOCKED and STEP, the counted crossing (R297): a due aligning step takes its place (R308), and the eighth
after a step ends STEP (Table CT.2). -/
def State.cycleTick (s : State) (at_ : Nat) : State :=
  let s1 := { s with compass.tickAt := at_ }
  if s.is R.compassStatusStepDue then s1.alignStep
  else
    let s2 := s1.tick1
    if s.cstate = 4 then
      let s3 := { s2 with compass.stepTicks := s.compass.stepTicks + 1 }
      if s.compass.stepTicks ≥ 7 then s3.enter 2 else s3
    else s2

/-- Resolution at the crossing that ends the eighth valid cycle, at time `now` (R303). -/
def State.resolve (s : State) (now : Nat) : State :=
  let c := s.compass
  if s.cstate = 3 then
    let phase := min 65535 ((now - c.tickAt) * 65536 / max 1 s.period)
    if holdoverU c.u0 c.heldTicks < 32768 then
      if phase ≥ 32768 then ({ s with compass.tickAt := now }.enter 2).tick1 else s.enter 2
    else { s with compass.tickAt := now }.step4 (c.count + 1) 0
  else
    let held := if c.heldPeriod = 0 then 6400000000 / s.nominalHz else c.heldPeriod
    let k := (now * s.nominalHz + 6399999999) / 6400000000
    let uE := c.uBase + 256 + 262 * k
    let r := c.eBase + (2 * now + held) / (2 * held)
    let s1 := { s with compass.tickAt := now }.put R.compassPeriodPeriod c.estimate
    if uE < 32768 ∧ r > c.count then (s1.enter 2).moveCount r (r - c.count - 1)
    else s1.step4 (c.count + 1) 0

/-! ### The phase loop and the cycles -/

/-- A signed number as a 16-bit field. -/
def signed16 (i : Int) : Nat := ((i % 65536 + 65536) % 65536).toNat

/-- The phase loop at a valid crossing that ends a cycle of length `t` at time `now` (R298): e is measured against the
predicted phase 0, the period moves by an eighth of the difference and the next cycle's predicted length by a quarter of e.
In HOLDOVER e is taken against the extrapolated crossing and the period stands; the first length of an acquisition is the
first estimate (log entry 12). -/
def State.loop (s : State) (t now : Nat) : State :=
  let c := s.compass
  if s.cstate = 3 then
    let ph := min 65535 ((now - c.tickAt) * 65536 / max 1 s.period)
    let e : Int := if ph < 32768 then ph else (ph : Int) - 65536
    { s with compass.errors := (e.natAbs :: c.errors).take 8 }.put R.compassQualityPhaseErr (signed16 e)
  else if c.estimate = 0 then { s with compass.estimate := t, compass.span := t }
  else
    let d : Int := (t : Int) - (c.span : Int)
    let e : Int := d * 65536 / (c.estimate : Int)
    let est : Nat := ((c.estimate : Int) + ((t : Int) - (c.estimate : Int)) / 8).toNat
    let s1 := { s with compass.errors := (e.natAbs :: c.errors).take 8, compass.estimate := est,
                       compass.span := ((est : Int) + d / 4).toNat }
    let s2 := s1.put R.compassQualityPhaseErr (signed16 e)
    if s.tracked then s2.put R.compassPeriodPeriod est else s2

/-- Whether the cycle of length `t` is valid (R296). -/
def State.validCycle (s : State) (t : Nat) (negs : List Nat) : Bool :=
  decide (cycleMin ≤ t) && decide (t ≤ cycleMax) && (negs.filter (fun n => 30 * t ≤ 100 * n && 100 * n ≤ 70 * t)).length == 1
    && !s.compass.discarded
    && (!s.tracked || (decide (49 * s.period ≤ 50 * t) && decide (50 * t ≤ 51 * s.period)))

/-- The pending commit of COMPASS_SENSE_CFG applies at the next counted crossing or tick (Table GI.7, Table CT.8): the run
of valid cycles starts again. The commit itself is COMMIT_APPLY. -/
def State.restartRun (s : State) : State := s.put R.compassStatusValidRun 0

/-- A cycle ends bad, missing or implausible: the third in a row leaves the state (Table CT.2). -/
def State.badCycle (s : State) : State :=
  let run := s.compass.badRun + 1
  let s1 := { s with compass.badRun := run }.put R.compassStatusValidRun 0
  if run < 3 then s1
  else if s.cstate = 1 then s1.enterAbsent
  else if s.cstate = 2 ∨ s.cstate = 4 then { s1 with compass.badRun := 0 }.enterHoldover
  else { s1 with compass.badRun := 0 }

/-- A valid cycle's consequences: the run of valid cycles, and resolution at the eighth in ACQUIRING and HOLDOVER (Table CT.2,
R303). -/
def State.validDone (s : State) (now : Nat) : State :=
  let run := saturate 8 (s.get R.compassStatusValidRun + 1)
  let s1 := { s with compass.badRun := 0 }.put R.compassStatusValidRun run
  if run = 8 ∧ (s.cstate = 1 ∨ s.cstate = 3) then s1.resolve now else s1

/-- The cycle that begins now. -/
def State.newCycle (s : State) (now : Nat) : State :=
  { s with compass.cycleAt := now, compass.ticked := false, compass.discarded := false }

/-- The tick of a cycle that ends in LOCKED or STEP, unless it fell at the expected instant (R297): of a valid cycle, and of the first
and the second in a run of bad ones, which the loop bridges. `at_` is the tick's time. -/
def State.crossingTick (s : State) (at_ : Nat) (valid : Bool) : State :=
  if (s.cstate = 2 ∨ s.cstate = 4) ∧ !s.compass.ticked ∧ (valid ∨ s.compass.badRun < 2) then s.cycleTick at_ else s

/-- MAINS_CROSSING: a positive-going crossing accepted `t` after the cycle began (R295 to R298). -/
def State.crossing (s : State) (t : Nat) (negs : List Nat) : State :=
  if !s.compass.running then s
  else
    let now := s.compass.cycleAt + t
    if s.cstate = 0 then
      ((({ s with compass.badRun := 0, compass.estimate := 0, compass.errors := [] }).put R.compassStatusValidRun 0).enter
        1).newCycle now
    else if s.tracked && decide (50 * t < 49 * s.period) then { s with compass.discarded := true }
    else
      let expected := s.compass.cycleAt + s.period
      let ok := s.validCycle t negs
      let s1 := s.crossingTick (if s.tracked ∧ now > expected then expected else now) ok
      let s2 := if ok then (s1.loop t now).validDone now
        else ((s1.incSat R.compassCountsImplausible).compassEvent 6 0 0 0).badCycle
      (s2.newCycle now).uncertNow

/-- CYCLE_MISSING (R296): no crossing ended the cycle; it ends at its expected instant, or 29.762 ms after its start, and the
next begins there. -/
def State.missing (s : State) : State :=
  if !s.compass.running ∨ s.cstate = 0 then s
  else
    let end_ := s.compass.cycleAt + (if s.tracked then s.period else missingAfter)
    let s1 := (s.crossingTick end_ false).incSat R.compassCountsMissing
    (s1.badCycle.newCycle end_).uncertNow

/-- COMPASS_TICK (R297, R301): a 20 ms tick in ABSENT and ACQUIRING, an extrapolated one in HOLDOVER, the expected instant of
the cycle in LOCKED and STEP. -/
def State.compassTick (s : State) : State :=
  if !s.compass.running then s
  else if s.cstate ≤ 1 then { s with compass.tickAt := s.compass.tickAt + tick20ms }.tick1
  else if s.cstate = 3 then
    let s1 := { s with compass.tickAt := s.compass.tickAt + s.period, compass.heldTicks := s.compass.heldTicks + 1 }.tick1
    let s2 := s1.uncertNow
    if s2.get R.compassQualityUncert = 0xFFF then s2.enterAbsent else s2
  else if s.compass.ticked then s
  else s.cycleTick (s.compass.cycleAt + s.period)

/-- Compass starts `elapsed` after the held count's tick (R302, R299): in ABSENT, at the held count plus 1, SEQ from 0. -/
def State.compassStart (s : State) (elapsed : Nat) : State :=
  if s.compass.running ∨ !s.pwr.main then s
  else
    let held := s.get R.compassHeldCycle
    let c := { s.compass with
      running := true, count := (held + 1) % 2 ^ 48, lastPhase := 0, seq := 0, cycleAt := elapsed, tickAt := elapsed
      ticked := false, discarded := false, badRun := 0, estimate := 0, span := 0, errors := [], u0 := 0, heldTicks := 0
      eBase := held, uBase := 0, stepDue := 0, stepTicks := 0 }
    let s1 := ({ s with compass := c }.put R.compassStatusState 0).put R.compassHeldCycle (held + 1)
    ((s1.put R.compassStatusValidRun 0).put R.compassPeriodPeriod 0).put R.compassQualityUncert 0xFFF

/-- CLOCK_CROSS_CHECK (R314). -/
def State.crossCheck (s : State) (ppm : Nat) : State :=
  if !s.compass.running then s
  else if ppm > 200 then
    let s1 := { s with compass.agreeRun := 0 }
    let s2 := if s1.is R.compassStatusClockDisagree then s1
      else ((s1.put R.compassStatusClockDisagree 1).compassEvent 5 0 0 0).report (plainFault 3 (locM 0xF 32 0xF) 4 5)
    if s.cstate = 3 then s2.enterAbsent else s2
  else
    let run := s.compass.agreeRun + 1
    let s1 := { s with compass.agreeRun := run }
    if run ≥ 3 then s1.put R.compassStatusClockDisagree 0 else s1

/-! ### Commands of the time group -/

/-- TIME_GET (Table CT.5). -/
def timeGet (m : Msg) (s : State) : State × Resp :=
  if m.payloadLen ≠ 0 then (s, Resp.of St.lengthInvalid)
  else
    let flags := s.get R.compassStatusAligned + 2 * s.get R.compassStatusAnchorHeld + 4 * s.get R.compassStatusClockDisagree
    (s.stamped, Resp.okay (leBytes 12 s.stamp ++ leBytes 1 flags ++ leBytes 1 s.nominalHz ++ leBytes 2 0
      ++ leBytes 4 s.period ++ leBytes 4 (s.get R.compassAnchorSerialSerial) ++ leBytes 8 (s.get R.compassAnchorCycleCycle)
      ++ leBytes 8 (s.get R.compassAnchorUtcUtcNs) ++ leBytes 8 (s.get R.compassRunStartCycle)))

/-- The layout of an anchor (Table CT.4). -/
def anchorLayoutOk (p : Bytes) (len : Nat) : Bool :=
  let kind := le p 1 1
  let align := bitOf (le p 2 1) 0
  decide (64 ≤ len) && decide (le p 0 1 = 1) && decide ((kind = 1 ∧ le p 48 2 = 97 ∧ le p 50 2 = 96) ∨ (kind = 2 ∧ le p 48 2 = 1952 ∧ le p 50 2 = 3309))
    && decide (len = 64 + le p 48 2 + le p 50 2) && decide (le p 2 1 ≤ 1) && decide (le p 14 2 = 0) && decide (le p 38 2 = 0)
    && decide (le p 46 2 = 0) && decide (le p 52 12 = 0) && (align || (decide (le p 24 8 = 0) && decide (le p 32 8 = 0)))

/-- The first refusal of an anchor before its signature is looked at (R307 checks 1 to 7): status and REASON. -/
def State.anchorRefusal (s : State) (p : Bytes) (len : Nat) : Option (Nat × Nat) :=
  let kind := le p 1 1
  let align := bitOf (le p 2 1) 0
  let grid := le p 8 8
  let loc := le p 32 8
  let pk := (p.drop 64).take (le p 48 2)
  let valid := le p 40 8
  let count := s.compass.count
  if !anchorLayoutOk p len then some (St.lengthInvalid, 0)
  else if !s.compass.anchorKeys.any (fun k => k.1 == kind && k.2 == (Config.sha384 pk).take 16) then some (St.tokenInvalid, 0x10)
  else if le p 4 4 ≤ s.get R.compassAnchorSerialSerial then some (St.tokenInvalid, 0x11)
  else if le p 3 1 ≠ s.nominalHz then some (St.tokenInvalid, 0x12)
  else if valid ≠ 0 ∧ (if align then valid + loc < count + grid else valid < count) then some (St.tokenInvalid, 0x13)
  else if !align ∧ (!s.is R.compassStatusAligned ∨ grid > count) then some (St.tokenInvalid, 0x14)
  else if align ∧ (slice p 24 8 ≠ s.life.serial ∨ loc < s.get R.compassRunStartCycle ∨ loc > count ∨ grid < loc) then
    some (St.tokenInvalid, 0x15)
  else if align ∧ (s.cstate ≠ 2 ∨ s.is R.compassStatusStepDue) then some (St.tokenInvalid, 0x16)
  else none

/-- A refused anchor raises event source 5 and sets COMPASS_EVENT (R307). -/
def State.anchorRefused (s : State) (why : Nat) : State := (s.compassEvent 4 0 0 (why - 0x10)).raise 5

/-- An accepted anchor takes effect (R308), with the same event. -/
def State.anchorTaken (s : State) (p : Bytes) : State :=
  let s1 := (((s.put R.compassAnchorSerialSerial (le p 4 4)).put R.compassAnchorCycleCycle (le p 8 8)).put
    R.compassAnchorUtcUtcNs (le p 16 8)).put R.compassStatusAnchorHeld 1
  let d := le p 8 8 - le p 32 8
  let s2 := if !bitOf (le p 2 1) 0 then s1
    else if d = 0 then s1.put R.compassStatusAligned 1
    else { s1 with compass.stepDue := d }.put R.compassStatusStepDue 1
  (s2.compassEvent 3 0 0 0).raise 5

/-- The layout of a waypoint record (Table CT.6, R310). -/
def waypointOk (p : Bytes) (len : Nat) : Bool :=
  let a := le p 1 1
  let flags := le p 2 1
  let used := match a with | 2 => 4 | 3 => 2 | 4 => 4 | 5 => 8 | _ => 0
  decide (len = 64) && decide (1 ≤ a) && decide (a ≤ 5) && decide (flags < 4) && decide (le p 3 1 = 0)
    && (if bitOf flags 0 then decide (le p 12 4 ≠ 0) else decide (le p 12 4 = 0) && decide (le p 16 4 = 0))
    && allZero (slice p (20 + used) (44 - used))
    && (match a with
        | 2 => decide (le p 20 2 < 1024) && decide (1 ≤ le p 22 2) && decide (le p 22 2 ≤ 256)
        | 3 => decide (le p 20 2 < 4096)
        | 5 => decide (le p 20 2 < 4096) && decide (1 ≤ le p 22 1) && decide (le p 23 1 = 0)
        | _ => true)

/-- What is released of SQs that no waypoint holds any more counts no longer (Table CT.7). -/
def State.dropReleased (s : State) : State :=
  { s with compass.released := s.compass.released.filter (fun r => s.compass.holds.any (fun h => h.2 == r.1)) }

/-- WAYPOINT_SET (R310, R311): a COMMAND waypoint holds its SQ; a waypoint set for an instant already past fires at once, LATE. -/
def waypointSet (m : Msg) (s : State) : State × Resp :=
  let p := m.payload
  if !waypointOk p m.payloadLen then (s, Resp.of St.lengthInvalid)
  else
    let n := le p 0 1
    let cycle := le p 6 6
    let w : Waypoint := ⟨le p 1 1, bitOf (le p 2 1) 0, bitOf (le p 2 1) 1, le p 4 2, cycle, le p 12 4, le p 16 4, slice p 20 44,
      false⟩
    let s1 := { s with compass.waypoints := store s.compass.waypoints n w,
                       compass.holds := if w.action = 2 then store s.compass.holds n (le p 20 2) else drop s.compass.holds n }
    let s2 := s1.dropReleased.setArmed n true
    (if s2.wpPassed w then ({ s2 with compass.waypoints := store s2.compass.waypoints n { w with late := true } }).fireWaypoint n else s2,
      Resp.of St.ok)

/-- WAYPOINT_CLEAR (R310): disarms the waypoint and lifts its COMMAND hold. -/
def waypointClear (m : Msg) (s : State) : State × Resp :=
  if m.payloadLen ≠ 1 then (s, Resp.of St.lengthInvalid)
  else
    let n := le m.payload 0 1
    ({ s with compass.waypoints := drop s.compass.waypoints n, compass.holds := drop s.compass.holds n }.dropReleased.setArmed n false,
      Resp.of St.ok)

/-- Whether a COMMAND waypoint holds the SQ with nothing released (Table CT.7). -/
def State.sqHeld (s : State) (sq : Nat) : Bool :=
  s.compass.holds.any (fun h => h.2 == sq) && lookD s.compass.released sq 0 == 0

/-! ### The meanings of this chapter's events -/

/-- MAINS_CROSSING (R295 to R298, R303). -/
def execMainsCrossing (t : Nat) (negs : List Nat) (s : State) : Host.Outcome State Fault Refusal := .next (s.crossing t negs)

/-- CYCLE_MISSING (R296). -/
def execCycleMissing (s : State) : Host.Outcome State Fault Refusal := .next s.missing

/-- COMPASS_TICK (R297). -/
def execCompassTick (s : State) : Host.Outcome State Fault Refusal := .next s.compassTick

/-- COMPASS_START (R302). -/
def execCompassStart (elapsed : Nat) (s : State) : Host.Outcome State Fault Refusal := .next (s.compassStart elapsed)

/-- CLOCK_CROSS_CHECK (R314). -/
def execClockCrossCheck (ppm : Nat) (s : State) : Host.Outcome State Fault Refusal := .next (s.crossCheck ppm)

/-- WAYPOINT_FIRE: waypoint `n`'s instant is reached (R311); armed and reached by the count. -/
def execWaypointFire (n : Nat) (s : State) : Host.Outcome State Fault Refusal :=
  .next (match look s.compass.waypoints n with
    | some w => if s.armed n ∧ w.cycle ≤ s.compass.count then s.fireWaypoint n else s
    | none => s)

/-- RATE_WINDOW_END: the window's LENGTH has elapsed and the committed share applies again (R310). -/
def execRateWindowEnd (tenant : Nat) (s : State) : Host.Outcome State Fault Refusal :=
  .next (match look s.compass.rates tenant with
    | some w => if w.endsAt ≤ s.compass.mc then { s with compass.rates := drop s.compass.rates tenant } else s
    | none => s)

end Sys2Proof.Machine
end

