-- ==== Sys2Proof/Machine/Parts.lean ====
section
/-! DEFINITION. Parts that fail and are withdrawn (R26 to R28, R34, R38, R39, R91): the banks of the memories, PCIe lanes and the
parts of Table AH.3 outside any cluster; what DEV_STATUS.MISSING shows of them; and what an error on the fabric does. -/

namespace Sys2Proof.Machine

/-! ### What MISSING shows (Table GI.4) -/

/-- Bits 21 to 29 and 31 of MISSING, from the parts that are out. -/
def State.showParts (s : State) : State :=
  let p := s.pwr.parts
  ((((((((((s.setMissing 21 (p.secure != 0)).setMissing 22 (p.keySlot != 0)).setMissing 23 p.store).setMissing 24
    (p.cache != 0)).setMissing 25 p.qeng).setMissing 26 (p.shared != 0)).setMissing 27 (p.normal != 0)).setMissing 28
    (p.mram != 0)).setMissing 29 (p.pcie != 0)).setMissing 31 (p.aps != 0))

/-- Bit 20: a custody pair is fenced or in reset. -/
def State.showPairs (s : State) : State :=
  s.setMissing 20 (s.life.pairsFenced != 0 || bitOf s.pwr.clusterReset 18 || bitOf s.pwr.clusterReset 19)

/-- Bit 30: region G7 or a Ferry port is powered off. -/
def State.showPorts (s : State) : State := s.setMissing 30 (bitOf s.pwr.regionOff 7 || s.ferry.off != 0)

/-- Where the reserved area of the key slots lies (R91): SKE_SLOT_CFG.RESERVED_BANK. -/
def State.showReserved (s : State) : State := s.put R.skeSlotCfgReservedBank (s.topBank.getD 0)

/-! ### Withdrawals (R27) -/

/-- Whether an address lies in a withdrawn bank of the secure, normal or shared SRAM, or of the MRAM. -/
def State.bankGone (s : State) (a : Nat) : Bool :=
  let p := s.pwr.parts
  if 0x10000000 ≤ a ∧ a < 0x10800000 then bitOf p.secure ((a - 0x10000000) / 0x200000)
  else if 0x11000000 ≤ a ∧ a < 0x11400000 then bitOf p.normal ((a - 0x11000000) / 0x200000)
  else if 0x12000000 ≤ a ∧ a < 0x13000000 then bitOf p.shared ((a - 0x12000000) / 0x200000)
  else if 0x20000000 ≤ a ∧ a < 0x22000000 then bitOf p.mram ((a - 0x20000000) / 0x1000000)
  else false

/-- A withdrawn bank of the node cache (R27, R120): the clean nodes it held are gone, and levels are unpinned until the pinned nodes
fit. Which nodes a bank holds is the model's choice: those whose number is the bank's modulo 4 (DESIGN CHOICE, log entry 93). -/
def State.loseNodes (s : State) (bank : Nat) : State :=
  let t := { s with pwr.parts.cache := setBit s.pwr.parts.cache bank true }
  let gone (id : Nat) : Bool := id % 4 == bank && !s.nodeHeld id
  let kept := t.hs.pinned.filter (fun e => !gone e.1 && (decide (e.1 / 2 ^ 27 ≥ t.pinLevel) || s.nodeHeld e.1))
  { t with
    hs.pinned := kept
    hs.others := t.hs.others.filter (fun e => !gone e.1) }.put R.storeCachePinned kept.length

/-- A withdrawn bank of the key-slot SRAM (R27, R91): the keys it held are gone, without a notice. With the bank that holds the
reserved area the device's own keys go, and G5 restarts: no other way back is given for them (DESIGN CHOICE, log entry 93). -/
def State.loseSlotBank (s : State) (bank : Nat) : State :=
  let was := s.topBank
  let s1 := { s with
    pwr.parts.keySlot := setBit s.pwr.parts.keySlot bank true
    keys.slots := s.keys.slots.filter (fun x => was.isNone || x.1 / 0x4000 != bank) }
  if was = some bank then (s1.showReserved).regionReset 5 else s1

/-- A bank is withdrawn for the rest of the boot and its contents are lost (R27): unit `u` of group `g`. -/
def State.withdraw (s : State) (g u : Nat) : State :=
  let p := s.pwr.parts
  let s1 :=
    if g = 20 then
      let t := { s with pwr.parts.secure := setBit p.secure u true }.clearMem (0x10000000 + 0x200000 * u) 0x200000
      if u = 1 then { t with hs.large := [] } else t
    else if g = 21 then s.loseSlotBank u
    else if g = 22 then s.loseNodes (u - 1)
    else if g = 24 then { s with pwr.parts.normal := setBit p.normal u true }.clearMem (0x11000000 + 0x200000 * u) 0x200000
    else { s with pwr.parts.shared := setBit p.shared u true }.clearMem (0x12000000 + 0x200000 * u) 0x200000
  s1.showParts

/-- Whether a unit is a bank that can be withdrawn (R27, R28). -/
def withdrawable (g u : Nat) : Bool :=
  (g == 20 && decide (1 ≤ u) && decide (u < 4)) || (g == 21 && decide (u < 4)) || (g == 22 && decide (1 ≤ u) && decide (u < 5))
    || (g == 24 && decide (u < 2)) || (g == 25 && decide (u < 8))

/-- Whether a bank that can be withdrawn already is. -/
def State.isWithdrawn (s : State) (g u : Nat) : Bool :=
  let p := s.pwr.parts
  bitOf (if g = 20 then p.secure else if g = 21 then p.keySlot else if g = 22 then 2 * p.cache else if g = 24 then p.normal else p.shared) u

/-- The location of unit `u` of group or cluster `g` of Table AH.3. -/
def groupLoc (g u : Nat) : Loc :=
  locM (if g ≤ 15 then g / 4 else if g ≤ 17 then 4 else if g ≤ 22 then 5 else if g ≤ 27 then 6 else if g = 28 then 7 else 0xF) g
    (if g ≥ 31 then 0xF else u)

/-! ### Errors on the fabric -/

/-- An access meets an uncorrectable error in unit `u` of group `g` (R26 to R28, R20): a bank that can be withdrawn is withdrawn, with
a HARD fault; a PCIe lane is dropped and a Ferry port taken down, with a HARD fault; an MRAM word is a SOFT fault, which the other
bank's copy serves, or HARD where that bank is out; another part of the base domain is GRAVE; every other unit is SEVERE, secure
SRAM bank 0 among them. The spec names no class for a withdrawal: HARD is the model's (DESIGN CHOICE, log entry 93). -/
def State.partFails (s : State) (g u : Nat) (r : FaultRec) : State :=
  if g = 29 ∨ g > 37 then s
  else if withdrawable g u then
    if s.isWithdrawn g u then s else (s.report { r with cls := 3 }).withdraw g u
  else if g = 27 ∧ u < 4 then ({ s.report { r with cls := 3 } with pwr.parts.pcie := setBit s.pwr.parts.pcie u true }).showParts
  else if g = 28 ∧ u < 4 then ((s.report { r with cls := 3 }).put (R.ferryPortState u) 1)
  else if g = 30 then s.report { r with cls := if s.pwr.parts.mram = 0 then 2 else 3 }
  else if g ≥ 31 then s.report { r with cls := 5 }
  else s.report { r with cls := 4 }

/-- A lockstep disagreement of a custody pair is SEVERE for the pair's cluster (R34). -/
def State.lockstep (s : State) (master : Nat) : State :=
  if master = 1 ∨ master = 2 then s.report (plainFault 4 (locM 5 (17 + master) 0xF) 1 0) else s

/-! ### A start and a link -/

/-- The parts that fail their self-test at a start are out, and MISSING shows them (Table AH.5, R38, R39). -/
def State.startParts (s : State) (out : PartsOut) : State :=
  ({ s with
      pwr.parts := { out with secure := out.secure / 2 * 2, pcie := s.pwr.parts.pcie }
      pwr.window := none } : State).showParts.showReserved

/-- Secure SRAM banks 2 and 3 are out: the overlays run from the window in bank 0 (R39). -/
def State.overlaysOut (s : State) : Bool := bitOf s.pwr.parts.secure 2 && bitOf s.pwr.parts.secure 3

/-- A command of the custody route finds its overlay, or pages it into the window (R39). -/
def State.pageOverlay (s : State) (op : Nat) : State := if s.overlaysOut then { s with pwr.window := some op } else s

end Sys2Proof.Machine
end

