-- ==== Sys2Proof/Machine/Records.lean ====
section
/-! DEFINITION. Acknowledgment of faults, LANTERN's edges, the security log and the operations journal (chapter 14). -/

namespace Sys2Proof.Machine

/-! ### Acknowledgment (R379) -/

/-- FAULT_ACK.HARD with SLOT (R379): the slot closes; one that is not open stays. -/
def State.ackHard (s : State) (slot : Nat) : State := (if slot < 16 then s.closeHard slot else s).noteHealth

/-- FAULT_ACK.MINOR: every NOTE and SOFT fault recorded so far is acknowledged (R379). -/
def State.ackMinor (s : State) : State := { s with fault.unackNote := false, fault.unackSoft := false }

/-- FAULT_ACK.SEVERE: every SEVERE fault recorded so far is acknowledged (R379). -/
def State.ackSevere (s : State) : State := { s with fault.unackSevere := false }.noteHealth

/-- LANTERN_EDGE (R380). -/
def execLanternEdge (s : State) (pins : Nat := 0) : Host.Outcome State Fault Refusal := .next (s.setPins pins).lanternEdge

/-! ### The security log (R382 to R388) -/

/-- Bytes 24–55 of the record in LOG_RECORD. -/
def State.logRecordBytes (s : State) : Bytes := ((List.range 8).map (fun i => leBytes 4 (s.get (R.logRecordBytes i)))).flatten

/-- The LOG block writes the record of this TYPE that stands in LOG_RECORD (R382). -/
def State.logSubmit (s : State) (typ : Nat) : State :=
  let b := s.logRecordBytes
  s.logAdd (typ % 65536) (le b 0 2) (le b 2 2) (b.drop 4)

/-- LOG_SUBMIT (R382). -/
def execLogSubmit (typ : Nat) (s : State) : Host.Outcome State Fault Refusal := .next (s.logSubmit typ)

/-- LOG_FREEZE_TIMEOUT: 60 s after the freeze the log thaws (R385). -/
def execLogFreezeTimeout (s : State) : Host.Outcome State Fault Refusal := .next s.logThaw

/-- The 64 bytes of a record as stored (Table FL.2); the CRC-32C and the mark stand for a valid word. -/
def LogRec.bytes (r : LogRec) : Bytes :=
  let b := leBytes 2 r.epoch ++ leBytes 2 r.typ ++ leBytes 12 r.stamp ++ leBytes 8 r.tick ++ leBytes 2 r.inst ++ leBytes 2 r.tenant ++ r.body
  b ++ leBytes 4 (Config.crc32c b) ++ leBytes 4 0x474F4C51

/-- LOG_READ (R386): whole records from a first position, at most 63, stopping at HELD. -/
def logRead (m : Msg) (s : State) : State × Resp :=
  if m.payloadLen ≠ 3 then (s, Resp.of St.lengthInvalid)
  else
    let first := le m.payload 0 2
    let n := min 63 (le m.payload 2 1)
    (s, Resp.okay (((s.log.recs.drop first).take n).map LogRec.bytes).flatten)

/-- LOG_FREEZE (R385): already frozen, it changes nothing. -/
def logFreeze (m : Msg) (s : State) : State × Resp :=
  if m.payloadLen ≠ 0 then (s, Resp.of St.lengthInvalid) else (s.put R.logStatusFrozen 1, Resp.of St.ok)

/-- LOG_THAW (R385). -/
def logThawCmd (m : Msg) (s : State) : State × Resp :=
  if m.payloadLen ≠ 0 then (s, Resp.of St.lengthInvalid) else (s.logThaw, Resp.of St.ok)

/-- LOG_CLEAR (R387): thaw, the next epoch, LOG_CLEARED at position 0, and LOG_OVERFLOW 0. -/
def logClear (opId : Nat) (m : Msg) (s : State) : State × Resp :=
  if m.payloadLen ≠ 0 then (s, Resp.of St.lengthInvalid)
  else
    let s1 := s.logThaw
    let old := s1.get R.logEpochEpoch
    let held := s1.get R.logStatusHeld
    let lost := s1.get R.logOverflowCount
    let s2 := (((({ s1 with log.older := s1.log.recs ++ s1.log.older.drop s1.log.recs.length, log.recs := [] }).put R.logEpochEpoch (old + 1)).put R.logStatusHeld 0).put R.logStatusFull 0)
    let s3 := s2.logAdd 0x1 m.inst 0xFFFF (leBytes 2 old ++ leBytes 2 held ++ leBytes 4 lost ++ leBytes 4 opId)
    (s3.put R.logOverflowCount 0, Resp.of St.ok)

/-! ### The operations journal (R389, R390) -/

/-- JOURNAL_ATTACH (R389): ring address (8), LOG2_SIZE (1), header address (8). -/
def journalAttach (m : Msg) (s : State) : State × Resp :=
  let p := m.payload
  let size := le p 8 1
  if m.payloadLen ≠ 17 ∨ le p 0 8 % 4096 ≠ 0 ∨ size < 6 ∨ size > 16 ∨ le p 9 8 % 64 ≠ 0 then (s, Resp.of St.lengthInvalid)
  else
    ({ s with log.ringAddr := le p 0 8, log.headerAddr := le p 9 8 }.put R.logJournalCfgLog2Size size, Resp.of St.ok)

/-- The journal is detached (R390): LOG2_SIZE reads 0 and event source 7 is raised. -/
def State.journalDetach (s : State) : State := (s.put R.logJournalCfgLog2Size 0).raise 7

/-- JOURNAL_ENTRY_WRITE (R390): the oldest waiting entry is written at its place, JOURNAL_GAP first after a gap; a failed write
or translation detaches the journal. Entries wait while G6 resets (Table FL.7). -/
def State.journalWrite (s : State) (ok : Bool) : State :=
  let size := s.get R.logJournalCfgLog2Size
  if size = 0 ∨ bitOf s.pwr.regionReset 6 then s
  else if !ok then s.journalDetach
  else
    let seq := s.get R.logJournalNextSeq
    let at_ := s.log.ringAddr + 64 * (seq % 2 ^ size)
    let done := fun (t : State) => (((t.put R.logJournalNextSeq (seq + 1)).emit (.hostWrite 0 s.log.headerAddr (leBytes 8 (seq + 1)))).hostTell
      s.log.headerAddr (leBytes 8 (seq + 1))).raise 7
    let body (typ inst stamp : Nat) (b : Bytes) : Bytes := leBytes 8 seq ++ leBytes 2 typ ++ leBytes 2 inst ++ leBytes 12 stamp ++ padTo 32 b ++ leBytes 8 seq
    if s.log.gap ≠ 0 then
      let t := s.stamped
      done (({ t with log.gap := 0 }.emit (.journalWrite at_ seq 0x40 0xFFFF s.stamp (padTo 32 (leBytes 4 s.log.gap)))).hostTell at_
        (body 0x40 0xFFFF s.stamp (leBytes 4 s.log.gap)))
    else match s.log.journal with
      | [] => s
      | e :: rest =>
        let t := { s with log.journal := rest }.put R.logJournalCfgBuffered rest.length
        done ((t.emit (.journalWrite at_ seq e.typ e.inst e.stamp e.body)).hostTell at_ (body e.typ e.inst e.stamp e.body))

/-- JOURNAL_ENTRY_WRITE (R390). -/
def execJournalEntryWrite (ok : Bool) (s : State) : Host.Outcome State Fault Refusal :=
  .next (if s.is (R.hdrCtrlQuiesce 0x30000) then s else s.journalWrite ok)

end Sys2Proof.Machine
end

