-- ==== Sys2Proof/Machine/Entropy.lean ====
section
/-! DEFINITION. Entropy (chapter 7): the conditioner, the health tests, the pool, the DRBG's service states, recalibration and
the host FIFO. -/

namespace Sys2Proof.Machine

/-! ### The conditioner (R202) -/

/-- One raw bit into the 128-bit state: the Galois LFSR over x^128 + x^7 + x^2 + x + 1. -/
def foldBit (st : Nat) (b : Bool) : Nat :=
  let shifted := 2 * st % 2 ^ 128
  if (st.testBit 127) != b then shifted ^^^ 0x87 else shifted

/-- The conditioned block of 512 raw bits, the earliest first. -/
def condition (raw : List Bool) : Bytes := beBytes 16 (raw.foldl foldBit 0)

/-! ### The health tests (R204) -/

/-- A failed test: TEST, LAG and STAT of TRNG_HEALTH. -/
structure Failure where
  test : Nat
  lag  : Nat
  stat : Nat
  deriving DecidableEq, Repr

/-- The run of equal bits after `b`, from the run (bit, length) before it. -/
def nextRun (r : Bool × Nat) (b : Bool) : Bool × Nat := if r.2 ≠ 0 ∧ r.1 = b then (b, r.2 + 1) else (b, 1)

/-- The repetition count over `bits`: whether some run reaches 41, and the run they end with. -/
def repetition (r : Bool × Nat) (bits : List Bool) : Bool × (Bool × Nat) :=
  bits.foldl (fun (a : Bool × (Bool × Nat)) b => let r1 := nextRun a.2 b; (a.1 || decide (r1.2 ≥ 41), r1)) (false, r)

/-- The adaptive proportion of a window of 1,024 bits: how often its first bit occurs. -/
def proportion (bits : List Bool) : Nat := match bits with | [] => 0 | b :: _ => bits.countP (· == b)

/-- The tests within a lag window: the first of its windows of 1,024 bits that fails, repetition count before adaptive
proportion in each. -/
def shortTests (r : Bool × Nat) : Nat → List Bool → Option Failure
  | 0, _ => none
  | n + 1, bits =>
    let w := bits.take 1024
    let rep := repetition r w
    if rep.1 then some ⟨1, 0, 41⟩
    else if proportion w ≥ 796 then some ⟨2, 0, proportion w⟩
    else shortTests rep.2 n (bits.drop 1024)

/-- A_k of a window: the positions i at which bit i equals bit i + k. -/
def agreements (bits : List Bool) (k : Nat) : Nat := (bits.zip (bits.drop k)).countP (fun p => p.1 == p.2)

/-- abs(A_k − E_k) · 4,096². -/
def lagExcess (bits : List Bool) (k : Nat) : Nat :=
  let n := bits.countP id
  let a : Int := 4096 ^ 2 * agreements bits k
  let e : Int := (4096 - k : Nat) * (n ^ 2 + (4096 - n) ^ 2)
  (a - e).natAbs

/-- The lag correlation of a window of 4,096 bits: its lowest failing lag. -/
def lagTest (bits : List Bool) : Option Failure :=
  ([1, 2, 3, 4, 5, 6, 7, 8].find? (fun k => decide (lagExcess bits k > 256 * 4096 ^ 2))).map (fun k => ⟨3, k, lagExcess bits k / 4096 ^ 2⟩)

/-- The first failure of the three tests over a lag window (Table EN.2). -/
def health (r : Bool × Nat) (bits : List Bool) : Option Failure :=
  match shortTests r 4 bits with
  | some f => some f
  | none => lagTest bits

/-! ### Service states (R208, R209) -/

/-- Whether source `n` is healthy, and how many of N0–N3 are. -/
def State.sourceUp (s : State) (n : Nat) : Bool := s.get (R.trngSrcStatusState n) == 2
def State.healthyN (s : State) : Nat := (List.range 4).countP (fun n => s.sourceUp n)

/-- TRNG_STATE.DRBG as Table EN.3 gives it while the DRBG is instantiated: FULL needs an NK block among its inputs too. -/
def State.serviceOf (s : State) : Nat :=
  if s.healthyN = 0 then 4 else if s.healthyN ≥ 2 ∧ s.sourceUp 4 ∧ s.trng.nkIn then 2 else 3

/-- The sources' state shows in TRNG_STATE.HEALTHY and in DEV_STATUS.MISSING bit 19. -/
def State.showSources (s : State) : State :=
  let mask := (List.range 5).foldl (fun a n => a + (if s.sourceUp n then 2 ^ n else 0)) 0
  let out := (List.range 4).any (fun n => let st := s.get (R.trngSrcStatusState n); st == 3 || st == 4)
  (s.put R.trngStateHealthy mask).setMissing 19 out

/-- The DRBG enters STOPPED (R209): Key and V are zeroed, HARD fault, TRNG_STOPPED. -/
def State.stopDrbg (s : State) : State :=
  ((({ s with trng.nkIn := false, trng.key := [], trng.v := [], trng.stopped := true }.put R.trngStateDrbg 4).incSat
    R.trngFailCountStops).raise 50).hard (locM 4 17 5) 9 0

/-- The service state follows the sources (Table EN.3). -/
def State.settleTrng (s0 : State) : State :=
  let s := s0.showSources
  if !s.drbgUp then s
  else
    let st := s.serviceOf
    if st = 4 then s.stopDrbg
    else if st = 3 ∧ s.get R.trngStateDrbg = 2 then (s.put R.trngStateDrbg 3).raise 49
    else s.put R.trngStateDrbg st

/-- The location of a source. -/
def sourceLoc (n : Nat) : Loc := if n = 4 then locK 43 0 else locM 4 17 n

/-- A failed test (R206): TRNG_HEALTH, its count, event 48 and a SOFT fault of the source. -/
def State.healthEvent (s : State) (n : Nat) (f : Failure) : State :=
  let s1 := s.sqcEvent R.trngHealthSeq (fun t => (((t.put R.trngHealthSource n).put R.trngHealthTest f.test).put R.trngHealthLag
    f.lag).put R.trngHealthStatStat (saturate 0xFFFF f.stat))
  ((s1.incSat R.trngFailCountFails).raise 48).soft (sourceLoc n) 9 f.test

/-- A source's recalibration, if one was under way, is over: the previous trim applies, and its commands end with the status. -/
def State.endRecal (s : State) (n status : Nat) : State :=
  let x := s.source n
  let t := ((s.showTrim n).put (R.trngSrcCtrlRecal n) 0).setSource n
    { x with tested := false, waiting := [], chosen := none, run := (false, 0) }
  x.waiting.foldl (fun u cid => u.complete cid (Resp.of status)) t

/-- A source is isolated (R206): marked in the trim record (R213), counted, out of service; a recalibration that waited for its first
window ends with LIMIT_REACHED and the previous trim. The first two isolations of a boot call for the firmware's own recalibration
(R220). -/
def State.isolate (s : State) (n : Nat) : State :=
  let x := s.source n
  let s1 := (s.setTrim n { s.trimOf n with marked := true }).setSource n
    { x with isolations := x.isolations + 1, due := decide (x.isolations < 2) }
  (((s1.put (R.trngSrcStatusState n) 3).incSat (R.trngSrcStatusIsolations n)).settleTrng).endRecal n St.limitReached

/-! ### The pool (R205, R211) -/

/-- TRNG_STATE.POOL. -/
def State.showPool (s : State) : State := s.put R.trngStatePool (saturate 255 s.trng.pool.length)

/-- The eight blocks of a window that has passed enter the pool; one that finds it full is discarded (R205). -/
def State.release (s : State) (n : Nat) (bits : List Bool) : State :=
  let blocks := (List.range 8).map (fun i => (n, condition ((bits.drop (512 * i)).take 512)))
  ({ s with trng.pool := (s.trng.pool ++ blocks).take 256 }.incMod (R.trngSrcBlocksCount n) 8).showPool

/-- A source has rejoined the pool: a recalibration ends with OK, and the trim record is written, with the mark gone (R220, R222, Table
EN.7 step 7). -/
def State.rejoin (s : State) (n : Nat) : State :=
  let x := s.source n
  let s1 := (s.put (R.trngSrcStatusState n) 2).put (R.trngSrcCtrlIsolate n) 0
  match x.chosen with
  | none => s1
  | some (trim, est) =>
    let s2 := (((s1.setTrim n ⟨trim, est, false⟩).showTrim n).put (R.trngSrcCtrlRecal n) 0).setSource n
      { x with waiting := [], chosen := none }
    x.waiting.foldl (fun t cid => t.complete cid (Resp.of St.ok)) s2

/-- Whether the TRNG cluster runs: neither it nor its region is in reset or off, and no known-answer test has stopped it (R207). -/
def State.trngRuns (s : State) : Bool :=
  s.pwr.porstN && s.pwr.main && !s.pwr.halted && !bitOf s.pwr.regionReset 4 && !bitOf s.pwr.clusterReset 17 && !s.trng.katFailed

/-- The start-up test (R207): the repetition count and one adaptive-proportion window over the first 1,024 bits. -/
def startupOk (bits : List Bool) : Bool := (shortTests (false, 0) 1 bits).isNone

/-- The start-up test of source `n` ends: its bits are discarded, and its first lag window follows; or it is isolated with TEST 4. -/
def State.startupEnd (s : State) (n : Nat) (ok : Bool) : State :=
  if ok then s.setSource n { s.source n with tested := true } else (s.healthEvent n ⟨4, 0, 0⟩).isolate n

/-- TRNG_WINDOW_END (R204 to R207): the window of a source that serves, or that starts or waits with its chosen trim, for which the
first window is that of the start-up test. NK is tested by the keeper while the TRNG does not run too, and a failure marks it
(R201). -/
def State.windowEnd (s : State) (n : Nat) (bits : List Bool) : State :=
  let st := s.get (R.trngSrcStatusState n)
  let x := s.source n
  if n = 4 ∧ !s.trngRuns then (if (health x.run bits).isSome then s.setTrim 4 { s.trimOf 4 with marked := true } else s)
  else if n > 4 ∨ !s.trngRuns ∨ !(st = 1 ∨ st = 2 ∨ (st = 4 ∧ x.chosen.isSome)) then s
  else if st ≠ 2 ∧ !x.tested then s.startupEnd n (startupOk bits)
  else match health x.run bits with
    | some f => (s.healthEvent n f).isolate n
    | none =>
      let s1 := (s.setSource n { x with run := (repetition x.run bits).2 }).release n bits
      (if st = 2 then s1 else s1.rejoin n).settleTrng

/-- Whether the keeper may draw on NK (R201): its raw bits pass, so it is neither isolated nor recalibrating. -/
def State.nkServes (s : State) : Bool := !(s.trimOf 4).marked && s.get (R.trngSrcStatusState 4) != 4

/-- The source whose block is taken next: round robin over the healthy sources that have one, after the source used last. -/
def State.nextSource (s : State) : Option Nat :=
  ((List.range 4).map (fun i => (s.trng.lastSource + 1 + i) % 4)).find? (fun n => s.sourceUp n && s.trng.pool.any (fun b => b.1 == n))

/-- The oldest block of source `n` leaves the pool. -/
def State.pullBlock (s : State) (n : Nat) : State × Bytes :=
  ({ s with trng.pool := removeFirst (fun b => b.1 == n) s.trng.pool }, ((s.trng.pool.find? (fun b => b.1 == n)).map (·.2)).getD [])

/-- `k` blocks of N0–N3 leave the pool, with their bytes; `none` while it lacks one. -/
def State.takeBlocks (s : State) : Nat → Option (State × Bytes)
  | 0 => some (s, [])
  | k + 1 =>
    match s.nextSource with
    | none => none
    | some n =>
      let (s1, b) := s.pullBlock n
      (State.takeBlocks { s1 with trng.lastSource := n } k).map (fun r => (r.1, b ++ r.2))

/-- NK's block leaves the pool, where NK is healthy and one is there (R211, Table EN.6). -/
def State.takeNk (s : State) : State × Bytes :=
  if s.sourceUp 4 ∧ s.trng.pool.any (fun b => b.1 == 4) then
    let (s1, b) := s.pullBlock 4
    ({ s1 with trng.nkIn := true }, b)
  else (s, [])

/-- Whether an NK block is there or is not called for (R209, R211, R212). -/
def State.nkReady (s : State) : Bool := !s.sourceUp 4 || s.trng.pool.any (fun b => b.1 == 4)

/-! ### The host FIFO (R217) -/

/-- Class-5 calls of 256 bytes fill the FIFO; at most `fuel` of them. -/
def State.fillGo (s : State) : Nat → State
  | 0 => s
  | fuel + 1 =>
    if s.canDraw ∧ s.trng.fifo.length + 32 ≤ 256 then
      let d := s.draw 256
      let words := (List.range 32).map (fun i => slice d.2 (8 * i) 8)
      ({ d.1 with trng.fifo := d.1.trng.fifo ++ words }).fillGo fuel
    else s

/-- The FIFO is refilled once it has fallen to 128 words. -/
def State.fillFifo (s : State) : State :=
  let s1 := if s.trng.fifo.length ≤ 128 then s.fillGo 8 else s
  s1.put R.trngEmptyCountFifo s1.trng.fifo.length

/-! ### Instantiation and reseeding (R209 to R212) -/

/-- The counts of R212 start again. -/
def State.seededNow (s : State) : State := { s.put R.trngCallsSinceReseed 0 with trng.reseedMc := s.compass.mc }

/-- The personalisation string (R211): the device serial, the Compass time stamp and FV64-DRBG. -/
def State.personal (s : State) : Bytes := s.life.serial ++ leBytes 12 s.stamp ++ ascii "FV64-DRBG"

/-- The blocks of an instantiation: four of N0–N3 and NK's if it is healthy, then the two of the nonce. -/
def State.freshInput (s : State) : Option (State × Bytes) :=
  (s.takeBlocks 4).bind (fun a =>
    let nk := ({ a.1 with trng.nkIn := false } : State).takeNk
    (nk.1.takeBlocks 2).map (fun b => (b.1, a.2 ++ nk.2 ++ b.2)))

/-- The DRBG with the Key and V of an instantiation or a reseed; the delay generators' new seed is due (Table EN.5). -/
def State.seated (s : State) (g : Bytes × Bytes) : State :=
  { s with trng.key := g.1, trng.v := g.2, trng.delayDue := true }.showPool.seededNow

/-- DRBG_INSTANTIATE (R209, R211): once the pool has its six blocks, and NK's after a stop while NK is healthy. After a tamper
erasure it waits for the next boot (Table EN.6). -/
def State.instantiate (s : State) : State :=
  if s.drbgUp ∨ !s.trngRuns ∨ s.trng.erased ∨ (s.get R.trngStateDrbg = 4 ∧ !s.nkReady) then s
  else match s.freshInput with
    | none => s
    | some (s1, input) =>
      let s2 := (s1.seated (drbgFresh (input ++ s1.personal))).stamped
      let to_ := s2.serviceOf
      let s3 := s2.put R.trngStateDrbg to_
      let s4 := if to_ = 3 then s3.raise 49 else s3
      (if s4.trng.stopped then { s4 with trng.stopped := false }.raise 51 else s4).showSources

/-- DRBG_RESEED (R212): at a limit; held while the pool lacks its blocks; with no healthy source of N0–N3 the DRBG stops. -/
def State.reseed (s : State) : State :=
  if !s.drbgUp ∨ !s.reseedDue ∨ !s.trngRuns then s
  else if s.healthyN = 0 then s.stopDrbg
  else if !s.nkReady then s
  else match s.takeBlocks 4 with
    | none => s
    | some (s1, b) =>
      let (s2, nk) := s1.takeNk
      ((s2.seated (drbgReseeded (s2.trng.key, s2.trng.v) (b ++ nk))).incMod R.trngReseedsCount 1).settleTrng

/-- The delay generators of the custody die take a new seed: the class-4 draw (Table EN.5). -/
def State.seedDelays (s : State) : State :=
  if s.trng.delayDue ∧ s.canDraw then
    let d := s.draw 32
    { d.1 with trng.delaySeed := d.2, trng.delayDraws := 0, trng.delayDue := false }
  else s

/-- The two paths of the AES core disagree (R214): the output is withheld, the DRBG stops, and a SEVERE fault resets the TRNG cluster,
which serves again after its start-up. -/
def State.coreMismatch (s : State) : State :=
  if s.trngRuns then (if s.drbgUp then s.stopDrbg else s).report (plainFault 4 (locM 4 17 5) 9 0) else s

/-- The state a row's draws find, given whether the AES core's paths agreed. -/
def State.core (s : State) (agree : Bool) : State := if agree then s else s.coreMismatch

/-! ### Recalibration (R220 to R222) -/

/-- Whether `n` is the last healthy source of N0–N3. -/
def State.lastSourceN (s : State) (n : Nat) : Bool := decide (n < 4) && s.sourceUp n && s.healthyN == 1

/-- A sweep begins: the source is out of service and its unreleased blocks are gone. -/
def State.startSweep (s : State) (n : Nat) (waits : List Nat) : State :=
  let s1 := s.setSource n { s.source n with tested := false, waiting := waits, chosen := none, run := (false, 0), due := false }
  ((s1.put (R.trngSrcStatusState n) 4).put (R.trngSrcCtrlRecal n) 1).settleTrng

/-- NOISE_RECALIBRATE (R220): payload SOURCE (1); a source already RECALIBRATING is waited for. -/
def noiseRecalibrate (m : Msg) (s : State) : State × Answer :=
  let n := le m.payload 0 1
  if m.payloadLen ≠ 1 ∨ n > 4 then (s, .of St.lengthInvalid)
  else if s.lastSourceN n then (s, .of St.resourceLast)
  else if !s.trngRuns then (s, .of St.engineReset)
  else if s.get (R.trngSrcStatusState n) = 4 then
    (s.setSource n { s.source n with waiting := (s.source n).waiting ++ [m.cid] }, .engine)
  else (s.startSweep n [m.cid], .engine)

/-- AUTO_RECALIBRATE (R220): once after each of the first two isolations in a boot. -/
def execAutoRecalibrate (n : Nat) (s : State) : Host.Outcome State Fault Refusal :=
  .next (if n ≤ 4 ∧ s.get (R.trngSrcStatusState n) = 3 ∧ (s.source n).due ∧ s.is R.devStatusCustodyUp ∧ s.trngRuns then
      s.startSweep n []
    else s)

/-- The offset of TRNG_SRC_CTRL. -/
def srcCtrlOff (n : Nat) : Nat := 0x90108 + 0x10 * n

/-- TRNG_SRC_CTRL.RECAL becomes 1 (R221, R223): refused for the last healthy source as WRITE_WHILE_BUSY. -/
def State.recalSource (s : State) (n : Nat) : State :=
  if n > 4 ∨ !s.trngRuns ∨ s.get (R.trngSrcStatusState n) = 4 then s
  else if s.lastSourceN n then s.blockErr 0x90000 (srcCtrlOff n) false
  else s.startSweep n []

/-- TRNG_SRC_CTRL.ISOLATE becomes 1 (R223). A recalibration under way is cut off by it. -/
def State.isolateSource (s : State) (n : Nat) : State :=
  if n > 4 ∨ s.get (R.trngSrcStatusState n) = 3 then s
  else if s.lastSourceN n then s.blockErr 0x90000 (srcCtrlOff n) false
  else (s.isolate n).put (R.trngSrcCtrlIsolate n) 1

/-- p_u of R221 in units of 2^−52, for the count m of the more common value: 2.576·sqrt(p̂(1 − p̂)/4,095) is taken to 40 binary
places. -/
def upperP (m : Nat) : Nat := min (2 ^ 52) (m * 2 ^ 40 + isqrt (m * (4096 - m) * 2576 ^ 2 * 2 ^ 80 / (4095 * 1000 ^ 2)))

/-- H ≥ 0.5: p_u² ≤ 1/2. -/
def entropyOk (m : Nat) : Bool := decide (2 * upperP m ^ 2 ≤ 2 ^ 104)

/-- H in units of 1/256 bit, rounded down, in 8 bits (TRNG_SRC_STATUS.ESTIMATE). -/
def estimate (m : Nat) : Nat := saturate 255 (52 * 256 - (((upperP m) ^ 256 - 1).log2 + 1))

/-- The count of the more common value of a window. -/
def common (w : List Bool) : Nat := max (w.countP id) (w.length - w.countP id)

/-- The setting kept (R221): of those whose tests pass with H ≥ 0.5, the highest H, which is the least common count; a tie
goes to the lower setting. -/
def bestTrim (windows : List (List Bool)) : Option (Nat × Nat) :=
  ((windows.mapIdx (fun i w => (i, w))).foldl (fun (a : Option (Nat × Nat)) x =>
    let m := common x.2
    if (health (false, 0) x.2).isNone && entropyOk m then
      match a with
      | none => some (x.1, m)
      | some (_, b) => if m < b then some (x.1, m) else a
    else a) none).map (fun x => (x.1, estimate x.2))

/-- RECAL_SWEEP_END (R221): the best setting is applied, and the start-up test comes next; or the source is ISOLATED with TEST 5. -/
def execRecalSweepEnd (n : Nat) (windows : List (List Bool)) (s : State) : Host.Outcome State Fault Refusal :=
  .next (
    let x := s.source n
    if n > 4 ∨ s.get (R.trngSrcStatusState n) ≠ 4 ∨ x.chosen.isSome ∨ !s.trngRuns then s
    else match bestTrim windows with
      | some (trim, est) =>
        (s.setSource n { x with chosen := some (trim, est) }).put (R.trngSrcStatusTrim n) trim
      | none =>
        let s1 := s.healthEvent n ⟨5, 0, 0⟩
        if (s.trimOf n).marked then ((s1.put (R.trngSrcStatusState n) 3).settleTrng).endRecal n St.limitReached else s1.isolate n)

/-! ### A source's start at a boot -/

/-- The start-up tests at a boot (R207, Table EN.4), with the trims of the record: a source that passes is STARTING until its first
window; one that fails is isolated with TEST 4; one that is marked stays ISOLATED and is not tested (R213). -/
def State.startSources (s : State) (n : List Bool) (nk : Bool) : State :=
  [0, 1, 2, 3, 4].foldl (fun t i =>
    let t1 := t.restartSource i
    if (t1.trimOf i).marked then t1 else t1.startupEnd i (if i = 4 then nk else n.getD i false)) s

/-- The known-answer tests of units 4 and 5 end (R207): a failure of either stops the TRNG cluster with a HARD fault. -/
def State.katEnd (s : State) (kat4 kat5 : Bool) : State :=
  let s1 := { s with trng.katFailed := !(kat4 && kat5) }
  let s2 := if kat4 then s1 else s1.hard (locM 4 17 4) 9 0
  if kat5 then s2 else s2.hard (locM 4 17 5) 9 0

end Sys2Proof.Machine
end

