-- ==== Sys2Proof/Machine/Host.lean ====
section
/-! DEFINITION. The host side (chapters 8 and 10): message areas, doorbells, ring headers, prefetch, the configuration loader,
coalescing, MSI-X, failed reads, link resets and FLRs. What runs a command is in Commands. -/

namespace Sys2Proof.Machine

/-! ### Message areas and captures -/

/-- MPC_MBOX_ENABLE of a function (R337), and the state with it set. It is set as VF Enable brings the VF up and as the
function is loaded, and for the PF as the mailboxes open (log entry 18). -/
def State.mboxEnabled (s : State) (fn : Nat) : Bool := bitOf (s.get (R.mpcMboxEnableEnabled (fn / 32))) (fn % 32)
def State.setMboxEnabled (s : State) (fn : Nat) (b : Bool) : State := s.putBit (R.mpcMboxEnableEnabled (fn / 32)) (fn % 32) b

/-- The requester that a function's own accesses carry: the host, or an application core for the normal-world image. -/
def requesterOf (fn : Nat) : Requester := if fn = nwInst then ⟨0x10, 0⟩ else ⟨0x50, fn⟩

/-- What SYS_ACCESS_ERR_ADDR shows of a byte of a mailbox's message area (Table GI.9): the BAR offset for the host (Table GI.2, Table
GI.3), bits [24:0] of the fabric address for another master. -/
def mboxAreaOff (r : Requester) (fn box off : Nat) : Nat :=
  if !reqIsHost r then (mboxArea fn box + off) % 2 ^ 25 else if fn = 0 then 0x100000 + 0x1000 * box + off else 0x4000 + off

/-- A write by `r` to a message area (R226): dropped while RUNNING, with OVERRUN set and DENIED recorded. -/
def State.mboxWrite (s : State) (r : Requester) (fn box off : Nat) (bytes : Bytes) : State :=
  if s.get (mboxState fn box) = 1 then
    (s.put (mboxOverrun fn box) 1).accessErr r 4 (mboxAreaOff r fn box off) true
  else s.writeMem (mboxArea fn box + off) (bytes.take (0x1000 - off))

/-- CAPTURE (R50): a write of 1 latches the stamp into the function's own latch. -/
def State.captureStamp (s : State) (fn value : Nat) : State :=
  if bitOf value 0 then { s.stamped with iface.stamps := store s.iface.stamps fn s.stamp } else s

/-- The VFs that exist: NumVFs of them while VF Enable is set (R267). -/
def State.liveVfs (s : State) : List Nat := if s.pwr.vfEnable then (List.range s.pwr.numVfs).map (· + 1) else []

/-- Whether function `fn` of the host can reach the device: the link is up, out of reset and powered, and the function exists
(R473, R267). -/
def State.hostThere (s : State) (fn : Nat) : Bool :=
  s.pwr.main && s.pwr.porstN && s.pwr.link && (fn == 0 || s.liveVfs.contains fn)

/-- CAPTURE (R50). -/
def execCapture (fn value : Nat) (s : State) : Host.Outcome State Fault Refusal :=
  .next (if s.hostThere fn then (s.noHalf ⟨0x50, fn⟩).captureStamp fn value else s)

/-! ### Doorbells and ring headers -/

/-- The device queue that a function's index names: its own numbers for the PF, the VF-local index for a VF (R47, R49). Of several
queues granted under one local index, of which at most one is not disabled (R271), it is that one. -/
def sqOf (s : State) (fn idx : Nat) : Option Nat :=
  if fn = 0 then if lookD s.host.sqGrant idx 256 = 0 then some idx else none
  else
    let mine := s.host.sqs.filter (fun q => q.2.desc.loc == idx && lookD s.host.sqGrant q.1 256 == fn)
    ((mine.find? (fun q => s.get (R.qengSqStateState q.1) != 0)).or mine.head?).map (·.1)

def cqOf (s : State) (fn idx : Nat) : Option Nat :=
  if fn = 0 then if lookD s.host.cqGrant idx 256 = 0 then some idx else none
  else
    let mine := s.host.cqs.filter (fun q => q.2.desc.loc == idx && lookD s.host.cqGrant q.1 256 == fn)
    ((mine.find? (fun q => s.get (R.qengCqStateState q.1) != 0)).or mine.head?).map (·.1)

/-- The counts of prefetched entries follow the queue's entries. -/
def State.setSq (s : State) (n : Nat) (q : Sq) : State :=
  let s1 := { s with host.sqs := store s.host.sqs n q }
  let total := s1.host.sqs.foldl (fun a x => a + x.2.entries.length) 0
  (s1.put (R.qengSqStatePrefetched n) q.entries.length).put R.qengInflightPrefetched total

/-- An SQ header is to be read (R49): at once, or once more after the read under way. A queue engine that is absent reads none
(R39). -/
def State.askSqHeader (s : State) (n : Nat) : State :=
  match look s.host.sqs n with
  | none => s
  | some q =>
    if s.get (R.qengSqStateState n) ≠ 1 ∨ s.pwr.parts.qeng then s
    else if q.headerRead then { s with host.sqs := store s.host.sqs n { q with headerAgain := true } }
    else ({ s with host.sqs := store s.host.sqs n { q with headerRead := true } }).emit (.headerRead false n)

/-- SQ_DOORBELL (R49), written by `r` in function `fn`'s BAR: the written value is ignored; a queue not granted to the function is
FOREIGN_DOORBELL. -/
def State.sqDoorbell (s : State) (r : Requester) (fn idx : Nat) : State :=
  match sqOf s fn idx with
  | some n => s.askSqHeader n
  | none => s.accessErr r 7 (4 * idx) true

/-- SQ_DOORBELL (R49). -/
def execSqDoorbell (fn idx : Nat) (s : State) : Host.Outcome State Fault Refusal :=
  .next (if s.hostThere fn ∧ idx < (if fn = 0 then 1024 else 256) then (s.noHalf ⟨0x50, fn⟩).sqDoorbell ⟨0x50, fn⟩ fn idx else s)

/-- A CQ header is to be read (R49): at once, or once more after the read under way. -/
def State.askCqHeader (s : State) (n : Nat) : State :=
  match look s.host.cqs n with
  | none => s
  | some c =>
    if s.get (R.qengCqStateState n) ≠ 1 ∨ s.pwr.parts.qeng then s
    else if c.headerRead then { s with host.cqs := store s.host.cqs n { c with headerAgain := true } }
    else ({ s with host.cqs := store s.host.cqs n { c with headerRead := true } }).emit (.headerRead true n)

/-- CQ_DOORBELL (R49, R282): the device reads the CQ header for room. -/
def State.cqDoorbell (s : State) (r : Requester) (fn idx : Nat) : State :=
  match cqOf s fn idx with
  | some n => s.askCqHeader n
  | none => s.accessErr r 7 ((if fn = 0 then 0x2000 else 0x1000) + 4 * idx) true

/-- CQ_DOORBELL (R282). -/
def execCqDoorbell (fn idx : Nat) (s : State) : Host.Outcome State Fault Refusal :=
  .next (if s.hostThere fn ∧ idx < (if fn = 0 then 1024 else 256) then (s.noHalf ⟨0x50, fn⟩).cqDoorbell ⟨0x50, fn⟩ fn idx else s)

/-- SQ_POLL_TICK (R278): a tick of a queue in a poll mode has the effect of a doorbell. -/
def execSqPollTick (n : Nat) (s : State) : Host.Outcome State Fault Refusal :=
  .next (match look s.host.sqs n with
    | some q => if q.desc.pollMode = 0 then s else s.askSqHeader n
    | none => s)

/-- How many entries stand from index `a` to index `b`, modulo 2^32. -/
def ringDist (a b : Nat) : Nat := (b + 2 ^ 32 - a) % 2 ^ 32

/-- The fetch of the entry at index `i` of SQ `n` (R277): a translation fault puts the queue in ERROR (R274). -/
def State.fetchEntry (s : State) (n : Nat) (q : Sq) (i : Nat) : State :=
  match s.access q.desc.fn (q.desc.base + 64 * (i % 2 ^ q.desc.log2)) 64 none (.sqEntry n i) with
  | (s1, .faulted _) => s1.queueError false n 3
  | (s1, _) => s1

/-- Entries that the device holds or has asked for (R279). -/
def State.pooled (s : State) : Nat :=
  s.get R.qengInflightPrefetched + s.host.accesses.countP (fun a => match a.purpose with | .sqEntry _ _ => true | _ => false)

/-- Entries are prefetched up to PREFETCH beyond the last taken, never past the producer index (R279); at most `fuel`. -/
def State.prefetch (s : State) (n : Nat) : Nat → State
  | 0 => s
  | fuel + 1 =>
    match look s.host.sqs n with
    | none => s
    | some q =>
      if s.get (R.qengSqStateState n) = 1 ∧ ringDist q.cons q.next < q.desc.prefetch ∧ q.next ≠ q.prod
          ∧ s.pooled < 16384 then
        let s1 := { s with host.sqs := store s.host.sqs n { q with next := (q.next + 1) % 2 ^ 32 } }
        (s1.fetchEntry n q q.next).prefetch n fuel
      else s

/-- An SQ header read completes (R278): the producer index, checked against the ring size, or an error. -/
def State.sqHeaderRead (s : State) (n : Nat) (r : HeaderRead) : State :=
  match look s.host.sqs n with
  | none => s
  | some q =>
    if !q.headerRead ∨ s.get (R.qengSqStateState n) ≠ 1 ∨ s.pwr.parts.qeng then s
    else
      let s0 := { s with host.sqs := store s.host.sqs n { q with headerRead := false, headerAgain := false } }
      match r with
      | .failed => s0.queueError false n 1
      | .fault k => (s0.ituFault q.desc.fn q.desc.header k false).queueError false n 3
      | .index p =>
        if ringDist q.cons (p % 2 ^ 32) > 2 ^ q.desc.log2 then s0.queueError false n 2
        else
          let s1 := { s0 with host.sqs := store s0.host.sqs n { q with headerRead := false, headerAgain := false, prod := p % 2 ^ 32 } }
          let s2 := s1.prefetch n 64
          if q.headerAgain then s2.askSqHeader n else s2

/-- SQ_HEADER_READ (R278). -/
def execSqHeaderRead (n : Nat) (r : HeaderRead) (s : State) : Host.Outcome State Fault Refusal := .next (s.sqHeaderRead n r)

/-- CQ_ROOM_POLL (R282): the CQ header is read, after a doorbell or by the device's own poll; completions that wait are written as
there is room, and one further read follows where a doorbell came meanwhile (R49). -/
def State.cqHeaderRead (s : State) (n : Nat) (r : HeaderRead) : State :=
  match look s.host.cqs n with
  | none => s
  | some c =>
    if s.get (R.qengCqStateState n) ≠ 1 ∨ s.pwr.parts.qeng then s
    else
      let s0 := { s with host.cqs := store s.host.cqs n { c with headerRead := false, headerAgain := false } }
      match r with
      | .failed => s0.cqError n 1
      | .fault k => (s0.ituFault c.desc.fn c.desc.header k false).cqError n 3
      | .index i =>
        if ringDist (i % 2 ^ 32) c.prod > 2 ^ c.desc.log2 then s0.cqError n 2
        else
          let s1 := (({ s with
            host.cqs := store s.host.cqs n { c with cons := i % 2 ^ 32, headerRead := false, headerAgain := false } }).cqHeld n).cqDrain n
            c.held.length
          if c.headerAgain then s1.askCqHeader n else s1

/-- CQ_ROOM_POLL (R282). -/
def execCqRoomPoll (n : Nat) (r : HeaderRead) (s : State) : Host.Outcome State Fault Refusal := .next (s.cqHeaderRead n r)

/-- COALESCE_TIMER (R292): COALESCE_US has passed since the first unsignalled completion. -/
def execCoalesceTimer (n : Nat) (s : State) : Host.Outcome State Fault Refusal :=
  .next (match look s.host.cqs n with
    | some c => if c.timer && decide (c.unsignalled ≠ 0) then s.cqSignal n c else s
    | none => s)

/-- MSIX_PENDING_SEND (R289): a message held in the PBA goes out once the vector can send. -/
def execMsixPendingSend (fn vec : Nat) (s : State) : Host.Outcome State Fault Refusal :=
  .next (if s.host.pba.contains (fn * 2048 + vec) && s.canSend fn vec then
    { s with host.pba := s.host.pba.filter (· != fn * 2048 + vec) }.emit (.msix fn vec)
  else s)

/-! ### The configuration loader (R270, R271) -/

/-- Whether function `fn` is enabled. -/
def State.fnEnabled (s : State) (fn : Nat) : Bool := s.is (R.qengFnStateEnabled fn)

/-- The counts of enabled objects in QENG_STATUS. -/
def State.countObjects (s : State) : State :=
  let sqs := s.host.sqs.filter (fun q => s.get (R.qengSqStateState q.1) == 1)
  let cqs := s.host.cqs.filter (fun q => s.get (R.qengCqStateState q.1) == 1)
  let fns := s.host.fns.filter (fun f => s.fnEnabled f.1)
  ((s.put R.qengStatusSqs sqs.length).put R.qengStatusCqs cqs.length).put R.qengStatusFunctions fns.length

/-- The refusal of a function descriptor: a REASON of Table HQ.13. -/
def fnRefusal (fn : Nat) (d : Option FnDesc) : Option Nat :=
  match d with
  | none => some 2
  | some d =>
    if fn > 255 ∨ !d.zeros ∨ d.maxInflight = 0 ∨ d.maxInflight > 4096 ∨ d.noticeCq > 1023
        ∨ (d.mboxVector ≠ 0xFFFF ∧ d.mboxVector ≥ vectorsOf fn) then some 3
    else if d.windows > 64 then some 7
    else none

/-- The refusal of an SQ descriptor (Table HQ.4). -/
def State.sqRefusal (s : State) (n : Nat) (d : Option SqDesc) : Option Nat :=
  if n > 1023 then some 3
  else if s.get (R.qengSqStateState n) ≠ 0 then some 9
  else match d with
    | none => some 2
    | some d =>
      if d.base % 4096 ≠ 0 ∨ d.header % 64 ≠ 0 ∨ d.log2 < 4 ∨ d.log2 > 16 ∨ d.fn > 255 ∨ d.loc > 255 ∨ d.pollMode > 2
          ∨ (d.pollMode = 1 ∧ (d.pollValue = 0 ∨ d.pollValue > 65535)) ∨ (d.pollMode = 2 ∧ (d.pollValue = 0 ∨ d.pollValue > 255))
          ∨ d.cq > 1023 ∨ d.prefetch > 64 ∨ d.far > 63 ∨ !d.zeros then some 3
      else if !s.fnEnabled d.fn then some 4
      else if d.fn ≠ 0 ∧ s.host.sqs.any (fun q => q.1 != n && q.2.desc.fn == d.fn && q.2.desc.loc == d.loc
          && s.get (R.qengSqStateState q.1) != 0) then some 5
      else match look s.host.cqs d.cq with
        | some c => if s.get (R.qengCqStateState d.cq) = 1 ∧ c.desc.fn = d.fn then none else some 6
        | none => some 6

/-- The refusal of a CQ descriptor (Table HQ.5). -/
def State.cqRefusal (s : State) (n : Nat) (d : Option CqDesc) : Option Nat :=
  if n > 1023 then some 3
  else if s.get (R.qengCqStateState n) ≠ 0 then some 9
  else match d with
    | none => some 2
    | some d =>
      if d.base % 4096 ≠ 0 ∨ d.header % 64 ≠ 0 ∨ d.log2 < 4 ∨ d.log2 > 16 ∨ d.fn > 255 ∨ d.loc > 255 ∨ d.coalCount > 255
          ∨ d.coalUs > 65535 ∨ (d.vector ≠ 0xFFFF ∧ d.vector ≥ vectorsOf d.fn) ∨ !d.zeros then some 3
      else if !s.fnEnabled d.fn then some 4
      else if d.fn ≠ 0 ∧ s.host.cqs.any (fun q => q.1 != n && q.2.desc.fn == d.fn && q.2.desc.loc == d.loc
          && s.get (R.qengCqStateState q.1) != 0) then some 5
      else none

/-- Whether a window's fields are in range and aligned (Table HQ.6). -/
def windowOk (w : Window) : Bool :=
  !w.valid || (w.ibase % w.size == 0 && decide (1 ≤ w.pages) && decide (w.pages ≤ 2 ^ 20) && w.list % 8 == 0)

/-- Whether two windows share an instance address. -/
def windowsMeet (a b : Window) : Bool :=
  a.valid && b.valid && decide (a.ibase < b.ibase + b.pages * b.size) && decide (b.ibase < a.ibase + a.pages * a.size)

/-- Whether some two windows of a table overlap (R273). -/
def overlap : List Window → Bool
  | [] => false
  | w :: ws => ws.any (windowsMeet w) || overlap ws

/-- The refusal of a window table. -/
def State.windowRefusal (s : State) (fn : Nat) (t : Option (List Window)) : Option Nat :=
  match t with
  | none => some 2
  | some ws =>
    if fn > 255 ∨ ws.any (fun w => !windowOk w) then some 3
    else if !s.fnEnabled fn then some 4
    else if ws.length > 64 ∨ overlap ws then some 7
    else none

/-- A load or disable of an object, which the host asks for by a write of QENG_LOAD and so only over a link that is up (R473): a
write while another load runs is dropped as DENIED; without QENG_CFG_BASE it is refused with REASON 1; else `check` gives the
refusal or `apply` acts (R270). RESULT and REASON show at LOAD_DONE. -/
def State.load (s0 : State) (object action index : Nat) (check : Option Nat) (apply : State → State) (table : List Window) : State :=
  let s := s0.noHalf ⟨0x50, 0⟩
  let mine := match s.host.load with
    | none => true
    | some l => l.decided.isNone && l.object == object && l.action == action && l.index == index
  if !s0.hostThere 0 then s0
  else if !mine then s.accessErr ⟨0x50, 0⟩ 4 0x50050 true
  else
    let s1 := s.put R.qengLoadStatusRunning 1
    let why := if s.get R.qengCfgBaseAddr = 0 then some 1 else check
    match why with
    | some r => { s1 with host.load := some ⟨object, action, index, some (2, r), []⟩ }
    | none => { apply s1 with host.load := some ⟨object, action, index, some (1, 0), table⟩ }

/-- FUNCTION_LOAD (R270, R271, R287): a function loaded again takes its new values at the next round boundary. -/
def State.functionLoad (s : State) (fn : Nat) (d : Option FnDesc) : State :=
  s.load 1 1 fn (fnRefusal fn d) (fun t =>
    match d with
    | none => t
    | some d =>
      if t.fnEnabled fn then { t with host.inflightNext := store t.host.inflightNext fn d }
      else (({ t with host.fns := store t.host.fns fn d }.put (R.qengFnStateEnabled fn) 1).setMboxEnabled fn true).countObjects) []

/-- FUNCTION_LOAD (R270). -/
def execFunctionLoad (fn : Nat) (d : Option FnDesc) (s : State) : Host.Outcome State Fault Refusal := .next (s.functionLoad fn d)

/-- Whether a function holds enabled queues (R271). -/
def State.holdsQueues (s : State) (fn : Nat) : Bool :=
  s.host.sqs.any (fun q => q.2.desc.fn == fn && s.get (R.qengSqStateState q.1) != 0)
    || s.host.cqs.any (fun q => q.2.desc.fn == fn && s.get (R.qengCqStateState q.1) != 0)

/-- FUNCTION_DISABLE (R271): refused while the function holds queues; its window table is emptied after the drain. -/
def State.functionDisable (s : State) (fn : Nat) : State :=
  s.load 1 2 fn (if !s.fnEnabled fn then some 4 else if s.holdsQueues fn then some 8 else none)
    (fun t => (t.put (R.qengFnStateEnabled fn) 0).countObjects) []

/-- FUNCTION_DISABLE (R271). -/
def execFunctionDisable (fn : Nat) (s : State) : Host.Outcome State Fault Refusal := .next (s.functionDisable fn)

/-- SQ_LOAD (R49, R270): the queue is enabled and granted to its function; its indices start at 0 (log entry 13). -/
def State.sqLoad (s : State) (n : Nat) (d : Option SqDesc) : State :=
  s.load 2 1 n (s.sqRefusal n d) (fun t =>
    match d with
    | none => t
    | some d =>
      (({ t with host.sqGrant := store t.host.sqGrant n d.fn }.setSq n ⟨d, 0, 0, 0, false, false, [], ((look t.host.sqs n).map Sq.chains).getD []⟩).put
        (R.qengSqStateState n) 1).countObjects) []

/-- SQ_LOAD (R270). -/
def execSqLoad (n : Nat) (d : Option SqDesc) (s : State) : Host.Outcome State Fault Refusal := .next (s.sqLoad n d)

/-- An SQ takes no more entries and drops its prefetched ones (R279, R288). -/
def State.stopSq (s : State) (n : Nat) : State :=
  match look s.host.sqs n with
  | none => s
  | some q => ((s.setSq n { q with entries := [], next := q.cons, headerRead := false, headerAgain := false }).put
      (R.qengSqStateState n) 0).countObjects

/-- SQ_DISABLE (R288): it completes, at LOAD_DONE, when every command taken from the queue has completed. -/
def State.sqDisable (s : State) (n : Nat) : State :=
  s.load 2 2 n (if s.get (R.qengSqStateState n) = 0 then some 9 else none) (fun t => t.stopSq n) []

/-- SQ_DISABLE (R288). -/
def execSqDisable (n : Nat) (s : State) : Host.Outcome State Fault Refusal := .next (s.sqDisable n)

/-- CQ_LOAD (R270). -/
def State.cqLoad (s : State) (n : Nat) (d : Option CqDesc) : State :=
  s.load 3 1 n (s.cqRefusal n d) (fun t =>
    match d with
    | none => t
    | some d =>
      (({ t with host.cqGrant := store t.host.cqGrant n d.fn, host.cqs := store t.host.cqs n ⟨d, 0, 0, [], 0, false, false, false⟩ }).put
        (R.qengCqStateState n) 1).countObjects) []

/-- CQ_LOAD (R270). -/
def execCqLoad (n : Nat) (d : Option CqDesc) (s : State) : Host.Outcome State Fault Refusal := .next (s.cqLoad n d)

/-- A CQ is disabled; its held completions go. -/
def State.stopCq (s : State) (n : Nat) : State :=
  (({ s with host.cqs := adjust s.host.cqs n (fun c => { c with held := [], unsignalled := 0, timer := false, headerRead := false, headerAgain := false }) }.put
    (R.qengCqStateState n) 0).cqHeld n).countObjects

/-- CQ_DISABLE (R271): refused while an SQ that is not disabled names it. -/
def State.cqDisable (s : State) (n : Nat) : State :=
  s.load 3 2 n
    (if s.get (R.qengCqStateState n) = 0 then some 9
     else if s.host.sqs.any (fun q => q.2.desc.cq == n && s.get (R.qengSqStateState q.1) != 0) then some 8 else none)
    (fun t => t.stopCq n) []

/-- CQ_DISABLE (R271). -/
def execCqDisable (n : Nat) (s : State) : Host.Outcome State Fault Refusal := .next (s.cqDisable n)

/-- WINDOW_TABLE_LOAD (R275): the table applies, at LOAD_DONE, once the function has no access outstanding. -/
def execWindowTableLoad (fn : Nat) (t : Option (List Window)) (s : State) : Host.Outcome State Fault Refusal :=
  .next (s.load 4 1 fn (s.windowRefusal fn t) id (t.getD []))

/-- WINDOW_TABLE_DISABLE (R271). -/
def execWindowTableDisable (fn : Nat) (s : State) : Host.Outcome State Fault Refusal :=
  .next (s.load 4 2 fn (if !s.fnEnabled fn then some 4 else none) id [])

/-- A function's translations are dropped from the cache. -/
def State.dropTlb (s : State) (fn : Nat) : State :=
  let t := { s with host.tlb := s.host.tlb.filter (fun e => e.fn != fn) }
  t.put R.ituStatusValid t.host.tlb.length

/-- A function's window table is replaced whole (R275). -/
def State.setWindows (s : State) (fn : Nat) (ws : List Window) : State :=
  { s with host.windows := if ws.isEmpty then drop s.host.windows fn else store s.host.windows fn ws }.dropTlb fn

/-- Whether the drain that the load waits for has ended (R270, R275, R288). -/
def State.loadDrained (s : State) (l : Load) : Bool :=
  if l.object = 2 ∧ l.action = 2 then s.get (R.qengSqStateTaken l.index) == 0
  else if l.object = 4 ∨ (l.object = 1 ∧ l.action = 2) then !s.host.accesses.any (fun a => a.fn == l.index)
  else true

/-- LOAD_DONE (R270 step 4): RESULT and REASON, RUNNING falls, event source 83; not while a drain lasts. -/
def State.loadDone (s : State) : State :=
  match s.host.load with
  | some l =>
    match l.decided with
    | some (result, reason) =>
      if result = 1 ∧ !s.loadDrained l then s
      else
        let s1 := if result = 1 ∧ (l.object = 4 ∨ (l.object = 1 ∧ l.action = 2)) then s.setWindows l.index l.table else s
        let s2 := ((({ s1 with host.load := none }.put R.qengLoadStatusRunning 0).put R.qengLoadStatusResult result).put
          R.qengLoadStatusReason reason).incMod R.qengLoadStatusLoads 1
        s2.raise 83
    | none => s
  | none => s

/-- LOAD_DONE (R270). -/
def execLoadDone (s : State) : Host.Outcome State Fault Refusal := .next s.loadDone

/-! ### Failed host reads (R266, R273, R274) -/

/-- What an access that cannot be carried out comes to: a queue in ERROR, or the command completes with NOT_PERMITTED and the
REASON given (R274). -/
def State.accessFailed (s : State) (p : Purpose) (entryKind reason : Nat) : State :=
  match p with
  | .sqEntry n _ => s.queueError false n entryKind
  | .sqCons n => s.queueError false n entryKind
  | .payload cid => s.complete cid (Resp.why St.notPermitted reason)
  | .result cid =>
    match look s.host.cmds cid with
    | some c => match c.m.origin with
      | .ring q => s.ringDone q cid c.m (Resp.why St.notPermitted 0x11) false
      | _ => s
    | none => s
  | .cqEntry q _ => s.cqError q 3
  | .cqProd q => s.cqError q 3
  | .storeRing _ => s.postFailed
  | .dest => s
  | .ferryHost tag =>
    match look s.ferry.waits tag with
    | some w => { s with ferry.waits := drop s.ferry.waits tag }.sendMessage (s.get (R.ferryFollowerPort w.dev)) 11 w.dev w.off []
    | none => s

/-- A device read of host memory has failed (R266): of a page list, the fault LIST_READ (R273); of data, a failed host read. -/
def State.readFailed (s : State) (id : Nat) : State :=
  match s.host.accesses.find? (fun a => a.id == id) with
  | none => s
  | some a =>
    let s1 := { s with host.accesses := s.host.accesses.filter (fun b => b.id != id) }
    match a.listOf with
    | some _ => (s1.ituFault a.fn a.addr 4 a.data.isSome).accessFailed a.purpose 3 0x10
    | none => s1.accessFailed a.purpose 4 0x12

/-- HOST_READ_TIMEOUT (R266): no completion within 10 ms. -/
def execHostReadTimeout (id : Nat) (s : State) : Host.Outcome State Fault Refusal := .next (s.readFailed id)

/-! ### FLRs and link resets (R265, R268) -/

/-- A function's mailbox returns to IDLE; one that is CLOSED stays so (R228, R268). -/
def State.idleMbox (s : State) (fn box : Nat) : State :=
  if s.get (mboxState fn box) = 3 then s else s.put (mboxState fn box) 0

/-- The commands a function has running go on, but report to the journal alone (R268). -/
def State.silence (s : State) (fn cause : Nat) : State :=
  { s with
    host.cmds := s.host.cmds.map (fun c =>
      (c.1, if c.2.m.inst = fn ∧ c.2.silent.isNone then { c.2 with silent := some cause } else c.2))
    host.sqs := s.host.sqs.map (fun q =>
      (q.1, if q.2.desc.fn = fn then { q.2 with chains := q.2.chains.map (fun ch => { ch with silent := some (ch.silent.getD cause) }) } else q.2)) }

/-- A function's queues are disabled. -/
def State.stopQueues (s : State) (fn : Nat) : State :=
  let s1 := (s.host.sqs.filter (fun q => q.2.desc.fn == fn)).foldl (fun t q => t.stopSq q.1) s
  (s1.host.cqs.filter (fun q => q.2.desc.fn == fn)).foldl (fun t q => t.stopCq q.1) s1

/-- Every event route to a function is disabled. -/
def State.unroute (s : State) (fn : Nat) : State :=
  (List.range 512).foldl (fun t n =>
    if t.is (R.qengEventRouteEnable n) ∧ t.get (R.qengEventRouteFunction n) = fn then t.put (R.qengEventRouteEnable n) 0 else t) s

/-- A function's MSI-X state returns to its reset values, as an FLR does under PCIe Base (PRESUMED, log entry 14). -/
def State.resetMsix (s : State) (fn : Nat) : State :=
  { s with
    host.msixOn := s.host.msixOn.filter (· != fn)
    host.d3hot := s.host.d3hot.filter (· != fn)
    host.msixTable := s.host.msixTable.filter (fun e => e.1 / 0x10000 != fn)
    host.pba := s.host.pba.filter (fun e => e / 2048 != fn) }

/-- An FLR of VF `fn` (R268). -/
def State.flrVf (s : State) (fn : Nat) : State :=
  let s1 := { s with host.bindings := drop s.host.bindings fn }.silence fn 2
  (((((s1.stopQueues fn).setWindows fn []).unroute fn).idleMbox fn 0).resetMsix fn).setMboxEnabled fn false

/-- VF_FLR (R268): of a VF that exists; the request comes over the link (R473). -/
def execVfFlr (fn : Nat) (s : State) : Host.Outcome State Fault Refusal :=
  .next (if s.hostThere 0 ∧ 1 ≤ fn ∧ fn ≤ 255 ∧ s.pwr.vfEnable ∧ fn ≤ s.pwr.numVfs then s.flrVf fn else s)

/-- BAR register `i` (0 to 5) of the PF (R45): BAR0 is a 64-bit, non-prefetchable memory BAR of 32 MiB, whose upper half is register 1;
every other one reads as unimplemented, which PCIe Base has as 0. -/
def State.barRegister (s : State) (i : Nat) : Nat :=
  if i = 0 then s.pwr.bar0 % 2 ^ 32 / 2 ^ 25 * 2 ^ 25 + 4 else if i = 1 then s.pwr.bar0 / 2 ^ 32 % 2 ^ 32 else 0

/-- A PF FLR (R268), which clears the BAR registers too, as PCIe Base has it (R65): every VF, the PF's queues and windows,
QENG_CFG_BASE and the 32 mailboxes; the PF's binding is kept. -/
def State.flrPf (s : State) : State :=
  let s1 := s.liveVfs.foldl (fun t f => t.flrVf f) s
  let s2 := ((s1.silence 0 2).stopQueues 0).setWindows 0 []
  let s3 := (s2.put R.qengCfgBaseAddr 0).put R.qengStatusCfgSet 0
  let s4 := (List.range 32).foldl (fun t b => t.idleMbox 0 b) s3
  { s4.resetMsix 0 with pwr.vfEnable := false, pwr.numVfs := 0, pwr.bar0 := 0, pwr.vfBar0 := 0 }

/-- PF_FLR (R268): the request comes over the link (R473). -/
def execPfFlr (s : State) : Host.Outcome State Fault Refusal := .next (if s.hostThere 0 then s.flrPf else s)

/-- VF_DISABLE (R268): VF Enable and NumVFs are written; the VFs that end by it are reset as by an FLR. -/
def State.setVfs (s : State) (enable : Bool) (num : Nat) : State :=
  let gone := s.liveVfs.filter (fun f => !enable || decide (f > num))
  let s1 := gone.foldl (fun t f => t.flrVf f) s
  let s2 := { s1 with pwr.vfEnable := enable, pwr.numVfs := min num 255 }
  s2.liveVfs.foldl (fun t f => t.setMboxEnabled f true) s2

/-- VF_DISABLE (R268): the write comes over the link (R473). -/
def execVfDisable (enable : Bool) (num : Nat) (s : State) : Host.Outcome State Fault Refusal :=
  .next (if s.hostThere 0 then s.setVfs enable num else s)

/-- LINK_RESET (R265, R473): the link is down and every function is reset as by a PF FLR; nothing else of the device is. -/
def execLinkReset (s : State) : Host.Outcome State Fault Refusal := .next { s.flrPf with pwr.link := false }

end Sys2Proof.Machine
end

