-- ==== Sys2Proof/Machine/Worlds.lean ====
section
/-! DEFINITION. Worlds and memory protection (chapter 12): the fabric map, the region checkers and the page owner table, commits
of their rules, violations, the debug master's reach, watchdogs and leases. What an admitted access to the register space does
is in RegCmds. -/

namespace Sys2Proof.Machine

/-! ### Masters and the fabric map -/

/-- The worlds of Table WP.1. -/
inductive World where
  | secure | normal | neither
  deriving DecidableEq, Repr

/-- The world of a master ID; `none` for an ID outside Table AH.7 (R35). -/
def worldOf (m : Nat) : Option World :=
  if m = 1 ∨ m = 2 ∨ (0x20 ≤ m ∧ m ≤ 0x2F) ∨ (0x30 ≤ m ∧ m ≤ 0x37) ∨ m = 0x40 ∨ m = 0x7E then some .secure
  else if m = 0x10 ∨ m = 0x11 ∨ m = 0x41 ∨ m = 0x50 ∨ m = 0x60 then some .normal
  else if m = 0x7F then some .neither
  else none

/-- The targets of Table WP.2: first address, size, checker. -/
def fabricMap : List (Nat × Nat × Nat) :=
  [(0x00000000, 0x40000, 0), (0x10000000, 0x800000, 1), (0x11000000, 0x400000, 2), (0x12000000, 0x1000000, 3),
   (0x20000000, 0x2000000, 4), (0x30010000, 0xF0000, 6), (0x30100000, 0x20000, 5), (0x30120000, 0xFF000, 5),
   (0x30220000, 0x1000, 5), (0x30221000, 8, 5), (0x30230000, 0x1000, 5)]

/-- The checker in front of an address; `none` outside Table WP.2. -/
def checkerOf (a : Nat) : Option Nat :=
  (fabricMap.find? (fun t => decide (t.1 ≤ a) && decide (a < t.1 + t.2.1))).map (·.2.2)

/-- Whether checker `c` guards every page from `lo` to `hi` (R325 case 2). -/
def pagesOf (c lo hi : Nat) : Bool :=
  if c = 5 then decide (0x30100 ≤ lo ∧ hi ≤ 0x30230)
  else fabricMap.any (fun t => t.2.2 == c && decide (t.1 / 4096 ≤ lo) && decide (hi < (t.1 + t.2.1) / 4096))

/-- The part that an address belongs to: the location that a violation names. -/
def targetLoc (a : Nat) : Loc :=
  match checkerOf a with
  | some 0 => locM 0xF 31 0xF
  | some 1 => locM 5 20 ((a - 0x10000000) / 0x200000)
  | some 2 => locM 6 24 0xF
  | some 3 => locM 6 25 0xF
  | some 4 => locM 0xF 30 ((a - 0x20000000) / 0x1000000)
  | some 5 => locM 6 26 3
  | _ =>
    let b := (a - 0x30000000) / 0x10000
    if b = 4 then locM 0xF 32 0xF else if b = 2 then locM 0xF 33 0xF else if b = 3 ∨ b = 0xE then locM 0xF 30 0xF
    else if b = 5 then locM 6 26 0 else if b = 6 then locM 6 26 1 else if b = 8 then locM 4 16 0xF else if b = 9 then locM 4 17 0xF
    else if b = 0xA then locM 5 22 0 else if b = 0xB then locM 0xF 34 0xF else if b = 0xD then locM 0xF 35 0xF
    else if b = 0xF then locM 7 28 4 else locM 0xF 37 0xF

/-! ### Rules (R322) -/

/-- A rule (Table WP.3). -/
structure Rule where
  base   : Nat
  limit  : Nat
  master : Nat
  mmask  : Nat
  sub    : Nat
  smask  : Nat
  valid  : Bool
  read   : Bool
  write  : Bool
  exec   : Bool
  cache  : Nat
  deriving DecidableEq, Repr

/-- Rule `n` of checker `c`, read by `g` (the active values, or the shadows). -/
def ruleAt (g : Fld → Nat) (c n : Nat) : Rule :=
  let i := 32 * c + n
  let m := g (R.mpcRuleMatch i)
  let r := g (R.mpcRuleRights i)
  ⟨g (R.mpcRuleBase i), g (R.mpcRuleLimit i), field m 0 8, field m 8 8, field m 16 8, field m 24 8, bitOf r 0, bitOf r 1,
    bitOf r 2, bitOf r 3, field r 4 2⟩

/-- Whether a master ID and sub-ID match a rule, and whether an access to page `p` does. -/
def Rule.who (r : Rule) (m sub : Nat) : Bool := (m &&& r.mmask) == (r.master &&& r.mmask) && (sub &&& r.smask) == (r.sub &&& r.smask)
def Rule.hits (r : Rule) (m sub p : Nat) : Bool := r.valid && decide (r.base ≤ p) && decide (p ≤ r.limit) && r.who m sub

/-- Whether a rule grants a kind of access; a fetch needs EXEC as well as READ (R323). -/
def Rule.grants (r : Rule) (k : AccKind) : Bool :=
  match k with
  | .read => r.read
  | .write => r.write
  | .fetch => r.exec && r.read

/-- The valid rules of a checker. -/
def State.rules (s : State) (c : Nat) : List Rule := ((List.range 32).map (ruleAt s.get c)).filter (·.valid)

/-- The hard-wired boot rules (R329): the custody pairs alone. -/
def bootRule (c m : Nat) (k : AccKind) : Bool :=
  (m == 1 || m == 2) &&
    (match k with
      | .read => c == 0 || c == 1 || c == 2 || c == 4 || c == 6
      | .fetch => c == 0 || c == 1
      | .write => c == 1 || c == 2 || c == 4 || c == 6)

/-- The limits that no rule widens (R318, R324). -/
def hardLimit (c m : Nat) (k : AccKind) : Bool :=
  !(worldOf m == some .normal && (c == 0 || c == 1 || c == 4)) &&
    (k != .fetch || (if c = 0 ∨ c = 1 then m == 1 || m == 2 else if c = 2 then m == 0x10 || m == 0x11 else false))

/-! ### The debug master (R338) -/

/-- Table WP.6: whether an open level reaches a target for a kind of access; pages of the shared SRAM are judged by `normal`. -/
def debugReach (level c : Nat) (k : AccKind) (normal : Bool) : Bool :=
  if k = .fetch ∨ level = 0 ∨ level > 3 then false
  else if c = 0 then decide (level ≥ 2) && k == .read
  else if c = 1 then decide (level ≥ 2)
  else if c = 2 then true
  else if c = 3 then decide (level ≥ 2) || normal
  else if c = 4 then decide (level ≥ 2) && (k == .read || level == 3)
  else decide (level ≥ 2) || k == .read

/-! ### The page owner table (R330, R331) -/

/-- POT entry `p`, and its fields. -/
def State.pot (s : State) (p : Nat) : Nat := s.get (R.potEntryEntry p)
def potWorld (e : Nat) : Nat := e % 4

/-- Page `p` of the shared SRAM at an address. -/
def sharedPage (a : Nat) : Nat := (a - 0x12000000) / 4096

/-- `decide(m, world_of_m, p, kind)` of R331; the debug master is decided by Table WP.6 instead, and the PCIe host has no path
(R331). -/
def potDecide (e m : Nat) (k : AccKind) : Bool :=
  let w := match worldOf m with | some .secure => 1 | some .normal => 2 | _ => 0
  if potWorld e = 0 ∨ w = 0 ∨ m = 0x50 then false
  else if w = potWorld e then
    if field e 8 8 ≠ 0 ∧ m ≠ field e 8 8 then false
    else if k = .fetch then potWorld e == 2 && bitOf e 4 && (m == 0x10 || m == 0x11)
    else true
  else match k with
    | .read => bitOf e 2
    | .write => bitOf e 3
    | .fetch => false

/-! ### Deciding an access -/

/-- What a checker makes of one access within a page. -/
inductive Verdict where
  | allow
  | deny
  | double
  | unknown
  | unmapped
  deriving DecidableEq, Repr

/-- The owner of a host message area (R337): PF areas are function 0's, VF f's area is f's. -/
def areaOwner (a : Nat) : Option Nat :=
  if 0x30100000 ≤ a ∧ a < 0x30120000 then some 0
  else if 0x30120000 ≤ a ∧ a < 0x3021F000 then some ((a - 0x30120000) / 4096 + 1)
  else none

/-- The comparison of R337 for the host's accesses to checker 5. -/
def State.hostOwns (s : State) (r : Requester) (a : Nat) : Bool :=
  match areaOwner a with
  | some f => f == r.sub && s.mboxEnabled f
  | none => false

/-- What checker `c` makes of an access at `a`, all of it within one page (R322 to R327, R331, R338). -/
def State.judge (s : State) (r : Requester) (k : AccKind) (a : Nat) : Verdict :=
  match checkerOf a with
  | none => .unmapped
  | some c =>
    if (worldOf r.master).isNone then .unknown
    else if s.get (R.mpcRuleEpochState c) = 3 then .deny
    else
      let normal := c == 3 && potWorld (s.pot (sharedPage a)) == 2
      let reach := r.master != 0x7F || debugReach r.sub c k normal
      if !hardLimit c r.master k ∧ c ≠ 3 then .deny
      else if !reach then .deny
      else if c = 3 then
        if r.master = 0x7F then .allow else if potDecide (s.pot (sharedPage a)) r.master k then .allow else .deny
      else if !s.worlds.ruled.contains c then (if bootRule c r.master k then .allow else .deny)
      else match (s.rules c).filter (fun x => x.hits r.master r.sub (a / 4096)) with
        | [x] =>
          if x.grants k && (!(c == 5 && r.master == 0x50) || s.hostOwns r a) then .allow else .deny
        | [] => .deny
        | _ => .double

/-! ### Violations (R326, R327, R336) -/

/-- The TYPE of MPC_VIOL, and the access type of a fault record. -/
def kindCode : AccKind → Nat
  | .read => 0
  | .write => 1
  | .fetch => 2

/-- A violation is recorded: MPC_VIOL under R59, its count, the journal, and a NOTE or HARD fault (R326, R327, R35). -/
def State.violation (s : State) (r : Requester) (k : AccKind) (a : Nat) (imprecise dbl split : Bool) : State :=
  let c := (checkerOf a).getD 6
  let epoch := s.get (R.mpcRuleEpochEpoch c)
  let s1 := s.sqcJournal R.mpcViolSeq (fun t => ((((((((t.put R.mpcViolChecker c).put R.mpcViolType (kindCode k)).putB
    R.mpcViolImprecise imprecise).putB R.mpcViolDoubleMatch dbl).putB R.mpcViolSplit split).put R.mpcViolMaster r.master).put
    R.mpcViolInfoSubId r.sub).put R.mpcViolInfoEpoch epoch).put R.mpcViolAddrAddr a)
    0x4 (if reqIsHost r then r.sub else 0xFFFF) (fun t =>
    leBytes 4 (t.get R.mpcViolSeq + c * 2 ^ 16 + kindCode k * 2 ^ 19 + ofBool imprecise * 2 ^ 21 + ofBool dbl * 2 ^ 22 + ofBool split * 2 ^ 23
      + r.master * 2 ^ 24) ++ leBytes 4 (r.sub + epoch * 2 ^ 16) ++ leBytes 8 a)
  let cls := if dbl ∨ worldOf r.master = some .secure ∨ (worldOf r.master).isNone then 3 else 1
  (s1.incSat R.mpcViolCountCount).report ⟨cls, targetLoc a, 0x0C, 0, a, r.master, r.sub, kindCode k + 1, false⟩

/-- A debug access to a locked region (R339): the first of the session is a violation, every later one is counted. -/
def State.debugDenied (s : State) (k : AccKind) (level a : Nat) (split : Bool) : State :=
  if s.worlds.debugSeen then s.incSat R.mpcViolCountDebugDenied
  else { s with worlds.debugSeen := true }.violation ⟨0x7F, level⟩ k a false false split

/-- One part of an access: whether it is admitted, and the state with its refusal recorded. -/
def State.checkPart (s : State) (r : Requester) (k : AccKind) (a : Nat) (split : Bool) : State × Bool :=
  match s.judge r k a with
  | .allow => (s, true)
  | .unmapped => (s.accessErr r 3 (a % 2 ^ 25) (k == .write), false)
  | .double => (s.violation r k a false true split, false)
  | .unknown => (s.violation r k a false false split, false)
  | .deny => (if r.master = 0x7F then s.debugDenied k r.sub a split else s.violation r k a false false split, false)

/-- The parts of an access, split at 4 KiB (R328): address and length, at most `fuel`. -/
def splitParts : Nat → Nat → Nat → List (Nat × Nat)
  | 0, _, _ => []
  | fuel + 1, a, n =>
    if n = 0 then []
    else
      let here := min n (4096 - a % 4096)
      (a, here) :: splitParts fuel (a + here) (n - here)

/-- The parts of an access of `n` bytes. -/
def partsAt (a n : Nat) : List (Nat × Nat) := splitParts (n / 4096 + 2) a n

/-- Whether a checker in front of an access drains and so holds it (R333). -/
def State.heldBy (s : State) (a n : Nat) : Option Nat :=
  (partsAt a n).findSome? (fun p => (checkerOf p.1).bind (fun c =>
    let st := s.get (R.mpcRuleEpochState c)
    if st = 1 ∨ st = 2 then some c else none))

/-! ### Commits of rules (R325, R332, R333) -/

/-- Two rules overlap (R325 case 1). -/
def rulesOverlap (a b : Rule) : Bool :=
  decide (a.base ≤ b.limit) && decide (b.base ≤ a.limit) && ((a.master ^^^ b.master) &&& a.mmask &&& b.mmask) == 0
    && ((a.sub ^^^ b.sub) &&& a.smask &&& b.smask) == 0

/-- Whether some two rules of a list overlap. -/
def anyOverlap : List Rule → Bool
  | [] => false
  | r :: rs => rs.any (rulesOverlap r) || anyOverlap rs

/-- The masters of Table AH.7. -/
def masters : List Nat := (List.range 0x80).filter (fun m => (worldOf m).isSome)

/-- A rule grants beyond R324 (R325 case 3). -/
def beyond324 (c : Nat) (r : Rule) : Bool :=
  masters.any (fun m =>
    if m = 0x7F then
      [1, 2, 3].any (fun l => r.who m l && ((r.read && !debugReach l c .read false) || (r.write && !debugReach l c .write false) || r.exec))
    else (r.mmask &&& m) == (r.mmask &&& r.master) &&
      ((worldOf m == some .normal && (c == 0 || c == 1 || c == 4) && (r.read || r.write || r.exec)) || (r.exec && !hardLimit c m .fetch)))

/-- The refusal of a commit of checker `c`'s rules: REASON 1, 2 or 3 (R325). -/
def State.rulesRefusal (s : State) (c : Nat) : Option Nat :=
  let rs := ((List.range 32).map (ruleAt s.shadowOf c)).filter (·.valid)
  if anyOverlap rs then some 1
  else if rs.any (fun r => decide (r.limit < r.base) || !pagesOf c r.base r.limit || r.cache == 3) then some 2
  else if rs.any (beyond324 c) then some 3
  else none

/-- Pages whose POT entry has a shadow. -/
def State.potPages (s : State) : List Nat :=
  (s.iface.shadows.map (fun (e : Nat × Nat) => e.1 / 64)).filter (fun o => decide (0xC9000 ≤ o) && decide (o < 0xCD000)) |>.map
    (fun o => (o - 0xC9000) / 4)

/-- A POT entry that a commit refuses (R332). -/
def potBad (e : Nat) : Bool :=
  let w := match worldOf (field e 8 8) with | some .secure => 1 | some .normal => 2 | _ => 0
  potWorld e == 3 || (field e 8 8 != 0 && w != potWorld e) || (bitOf e 4 && potWorld e != 2)

/-- The refusal of a POT commit: REASON 4 (R332). -/
def State.potRefusal (s : State) : Option Nat :=
  if s.potPages.any (fun p => potBad (s.shadowOf (R.potEntryEntry p))) then some 4 else none

/-- Where a commit's PENDING, RESULT and REASON stand: the POT half for checker 3. -/
def checkerBase (c : Nat) : Nat := if c = 3 then 0xC8000 else 0xC0000
def checkerGroup (c : Nat) : Nat := if c = 3 then 0 else c

/-- A commit's result. -/
def State.commitResult (s : State) (base group result reason : Nat) : State :=
  ((((s.putBit (R.hdrCommitPending base) group false).put (R.hdrCommitResult base) result).put (R.hdrCommitLastGroup base)
    group).put (R.hdrCommitReason base) reason)

/-- A commit of checker `c`'s rules is requested (R333 steps 1 and 2): refused, or the checker drains. -/
def State.startDrain (s : State) (c : Nat) : State :=
  let base := checkerBase c
  match if c = 3 then s.potRefusal else s.rulesRefusal c with
  | some why => s.commitResult base (checkerGroup c) 2 why
  | none => (s.putBit (R.hdrCommitPending base) (checkerGroup c) true).put (R.mpcRuleEpochState c) 1

/-- The shadows of fields that `p` picks become the active values. -/
def State.applyShadows (s : State) (p : Nat → Bool) : State :=
  let mine := s.iface.shadows.filter (fun e => p e.1)
  let s1 := { s with iface.shadows := s.iface.shadows.filter (fun e => !p e.1) }
  mine.foldl (fun t e =>
    match layout.find? (fun r => r.hasKey e.1) with
    | some r => t.put { r.fld with off := e.1 / 64 } e.2
    | none => t) s1

/-- The counts of POT_COUNTS and POT_FREE. -/
def State.countPages (s : State) : State :=
  let es := s.regs.filter (fun (e : Nat × Nat) => decide (0xC9000 * 64 ≤ e.1) && decide (e.1 < 0xCD000 * 64))
  let sec := es.countP (fun e => potWorld e.2 == 1)
  let nor := es.countP (fun e => potWorld e.2 == 2)
  ((s.put R.potCountsSecure sec).put R.potCountsNormal nor).put R.potFreeFree (4096 - sec - nor)

/-- The pages of the shared SRAM whose WORLD a POT commit changes are zero-filled (R332). -/
def State.zeroChanged (s : State) : State :=
  let changed := s.potPages.filter (fun p => potWorld (s.shadowOf (R.potEntryEntry p)) ≠ potWorld (s.pot p))
  changed.foldl (fun t p => t.clearMem (0x12000000 + 4096 * p) 4096) s

/-- Whether the region of a checker's target is in reset or off (Table WP.2, R25). -/
def State.checkerHeld (s : State) (c : Nat) : Bool :=
  [5, 6].any (fun g => (regionCheckers g).contains c && (bitOf s.pwr.regionReset g || bitOf s.pwr.regionOff g))

/-- The drain of checker `c` has ended: the new epoch is active (R333 steps 4 and 5). Where the target's region is in reset by then,
the checker shows RELOADING and denies until the reset ends (R25, R335). -/
def State.nextEpoch (s : State) (c : Nat) : State :=
  let s0 := if c = 3 then s.zeroChanged else s
  let lo := if c = 3 then 0xC9000 else 0xC1000 + 0x200 * c
  let hi := if c = 3 then 0xCD000 else 0xC1200 + 0x200 * c
  let s1 := s0.applyShadows (fun key => decide (lo ≤ key / 64) && decide (key / 64 < hi))
  let s2 := { s1 with worlds.ruled := addNew s1.worlds.ruled c }
  let s3 := ((s2.incMod (R.mpcRuleEpochEpoch c) 1).put (R.mpcRuleEpochState c) (if s.checkerHeld c then 3 else 0)).commitResult
    (checkerBase c) (checkerGroup c) 1 0
  if c = 3 then s3.countPages else s3

/-- The SECURE pages of the shared SRAM are zero-filled (R332, Table TK.6). -/
def State.zeroSecurePages (s : State) : State :=
  let es := s.regs.filter (fun (e : Nat × Nat) => decide (0xC9000 * 64 ≤ e.1) && decide (e.1 < 0xCD000 * 64) && potWorld e.2 == 1)
  es.foldl (fun t e => t.clearMem (0x12000000 + 4096 * ((e.1 / 64 - 0xC9000) / 4)) 4096) s

/-! ### Writes into memory -/

/-- The data of an admitted write to a memory target: the boot ROM keeps its contents; a host write into a mailbox's area
follows R226. -/
def State.memWrite (s : State) (r : Requester) (a : Nat) (data : Bytes) : State :=
  if checkerOf a = some 0 then s
  else match areaOwner a with
    | some f =>
      if r.master = 0x50 ∨ r.master = 0x60 then s.mboxWrite r f (if f = 0 then (a - 0x30100000) / 4096 else 0) (a % 4096) data
      else s.writeMem a data
    | none => s.writeMem a data

/-- HOST_MBOX_POSTED_WRITE (R337): the host's function `fn` has posted `data` at fabric address `a` of the message areas; a
refused one is recorded with the page alone. -/
def State.postedWrite (s : State) (fn a : Nat) (data : Bytes) : State :=
  let r : Requester := ⟨0x50, fn⟩
  match areaOwner a with
  | none => s
  | some _ =>
    if s.judge r .write a = .allow then s.memWrite r a (data.take (4096 - a % 4096))
    else s.violation r .write (a / 4096 * 4096) true false false

/-! ### Watchdogs (R340, R341) -/

/-- The pair of a master: 0 A, 1 B. -/
def pairOf (m : Nat) : Option Nat := if m = 1 then some 0 else if m = 2 then some 1 else none

/-- MPC_WORLD_STATUS.PAIR_A or PAIR_B, and a pair's mark of a missed feed. -/
def pairFld (p : Nat) : Fld := if p = 0 then R.mpcWorldStatusPairA else R.mpcWorldStatusPairB
def State.setMissed (s : State) (p : Nat) (b : Bool) : State :=
  if p = 0 then { s with worlds.missedA := b } else { s with worlds.missedB := b }

/-- A pair's cluster runs: neither in reset nor fenced, and G5 is up. -/
def State.pairRuns (s : State) (p : Nat) : Bool :=
  !bitOf s.pwr.clusterReset (18 + p) && !bitOf s.life.pairsFenced p && !bitOf s.pwr.regionReset 5 && !s.pwr.halted

/-- MPC_WDOG_FEED (R340): the feeding pair serves. -/
def State.feed (s : State) (m : Nat) : State :=
  match pairOf m with
  | some p => if s.pairRuns p then ((s.put (pairFld p) 1).setMissed p false).noteHealth else s
  | none => s

/-- The secure world hangs (R341): CUSTODY_UP falls and G5 restarts. -/
def State.hang (s : State) : State := (s.regionReset 5).noteHealth

/-- WATCHDOG_MISS (R340, R341, R362): suspended while PURGED holds, during a restart and during a live update's pause. -/
def State.wdogMiss (s : State) (p : Nat) : State :=
  if p > 1 ∨ s.is R.keeperTamperStatePurged ∨ bitOf s.pwr.regionReset 5 ∨ s.life.underway ∨ !s.is (pairFld p) then s
  else
    let s1 := ((s.setMissed p true).put (pairFld p) 0).incSat R.lanternStatusWdogMisses
    let s2 := if s1.is (pairFld (1 - p)) then s1.severe (plainFault 4 (locM 5 (18 + p) 0xF) 0x0C 0) else s1.hang
    s2.noteHealth

/-- WATCHDOG_MISS (R340). -/
def execWatchdogMiss (p : Nat) (s : State) : Host.Outcome State Fault Refusal := .next (s.wdogMiss p)

/-! ### Leases (R344 to R346) -/

/-- MPC_LEASE_HOLD written whole: the LEASED bits follow, and gates that waited on a released lease take effect (R344, R345). -/
def State.leaseHold (s : State) (v : Nat) : State :=
  let s1 := (s.put R.mpcLeaseHoldPke (field v 0 16)).put R.mpcLeaseHoldSke (field v 16 8)
  let s2 := (List.range 16).foldl (fun t n => (t.putB (R.pkeClusterStatusLeased n) (t.pkeLeased n)).settleGate n) s1
  (List.range 8).foldl (fun t n => (t.putB (R.skeLaneStatusLeased n) (t.skeLeased n)).settleLane n) s2

/-- LEASE_TIMEOUT (R346): a gate request that still pends is recorded, with a NOTE against the part. -/
def State.leaseTimeout (s : State) (ske : Bool) (n : Nat) : State :=
  let pends := if ske then decide (n < 8) && s.is (R.skeLaneStatusGatePending n) else decide (n < 16) && s.is (R.pkeClusterStatusGatePending n)
  if !pends then s
  else
    let s1 := s.sqcEvent R.mpcLeaseEventSeq (fun t => (t.put R.mpcLeaseEventCluster (if ske then 16 else n)).put
      R.mpcLeaseEventUnit (if ske then n else 0))
    s1.note (if ske then locM 4 16 n else locM (n / 4) n 0xF) 0x0C 0

/-- LEASE_TIMEOUT (R346). -/
def execLeaseTimeout (ske : Bool) (n : Nat) (s : State) : Host.Outcome State Fault Refusal := .next (s.leaseTimeout ske n)

/-! ### Commits of the standing rules by the custody firmware (R329, Table WP.4) -/

/-- A rule in the form the standing rules take: pages, master and mask, sub and mask, RIGHTS. -/
def standing : List (Nat × Nat × Nat × Nat × Nat) :=
  let r (c base size who rights : Nat) : Nat × Nat × Nat × Nat × Nat := (c, base / 4096, (base + size) / 4096 - 1, who, rights)
  let pairs := 0x00 + 0xFC * 256
  let dbg2 := 0x7F + 0xFF * 256 + 0x02 * 2 ^ 16 + 0xFE * 2 ^ 24
  let sub (m n : Nat) := m + 0xFF * 256 + n * 2 ^ 16 + 0xFF * 2 ^ 24
  let any (m : Nat) := m + 0xFF * 256
  let aps := 0x10 + 0xFE * 256
  let rd := 1 + 2 + 64
  let rw := 1 + 2 + 4 + 64
  [r 0 0 0x40000 pairs (1 + 2 + 8 + 32), r 0 0 0x40000 dbg2 rd,
   r 1 0x10000000 0x800000 pairs (1 + 2 + 4 + 8 + 32), r 1 0x10200000 0x200000 (any 0x40) rw, r 1 0x10000000 0x800000 dbg2 rw,
   r 2 0x11000000 0x400000 aps (1 + 2 + 4 + 8 + 32), r 2 0x11000000 0x400000 pairs rw, r 2 0x11000000 0x400000 (any 0x7F) rw,
   r 4 0x20000000 0x2000000 pairs rw, r 4 0x20C01000 0x50000 (0x20 + 0xF0 * 256) rd, r 4 0x21C01000 0x50000 (0x20 + 0xF0 * 256) rd,
   r 4 0x20000000 0x2000000 (sub 0x7F 2) rd,
   r 5 0x30100000 0x11F000 (any 0x50) rw, r 5 0x30100000 0x131000 pairs rw, r 5 0x30100000 0x131000 (any 0x41) rw,
   r 5 0x30220000 0x11000 aps rw, r 5 0x30100000 0x20000 (sub 0x60 0) rw,
   r 6 0x30010000 0xF0000 pairs rw, r 6 0x30010000 0x60000 aps rd, r 6 0x30090000 0x70000 aps rd, r 6 0x30070000 0x20000 aps rw,
   r 6 0x30010000 0xF0000 (sub 0x50 0) rw, r 6 0x30010000 0xF0000 (sub 0x60 0) rw, r 6 0x30010000 0xF0000 (sub 0x7F 1) rd,
   r 6 0x30010000 0xF0000 dbg2 rw]

/-- The rule of D3, committed only in MAKER and RETURNED. -/
def standingD3 : Nat × Nat × Nat × Nat × Nat := (4, 0x20000, 0x21FFF, 0x7F + 0xFF * 256 + 3 * 2 ^ 16 + 0xFF * 2 ^ 24, 1 + 2 + 4 + 64)

/-- Rules into a checker's active slots from slot `n` on. -/
def State.putRules (s : State) (c : Nat) : Nat → List (Nat × Nat × Nat × Nat × Nat) → State
  | _, [] => s
  | n, x :: xs =>
    let i := 32 * c + n
    ((((s.put (R.mpcRuleBase i) x.2.1).put (R.mpcRuleLimit i) x.2.2.1).put (R.mpcRuleMatch i) x.2.2.2.1).put
      (R.mpcRuleRights i) x.2.2.2.2).putRules c (n + 1) xs

/-- The whole POT: pages 0 up to `pages` NORMAL, the rest SECURE. -/
def State.setPot (s : State) (pages : Nat) : State :=
  let pot := (List.range 4096).map (fun p => ((R.potEntryEntry p).key, if p < pages then 2 else 1))
  let below := s.regs.filter (fun (e : Nat × Nat) => decide (e.1 < 0xC9000 * 64))
  let above := s.regs.filter (fun (e : Nat × Nat) => decide (0xCD000 * 64 ≤ e.1))
  { s with regs := below ++ pot ++ above }

/-- The custody firmware commits the standing rules of every checker (R329), and the POT with the normal world's pages (R332):
pages 0 up to `pages` NORMAL, the rest SECURE. -/
def State.commitStanding (s : State) (pages : Nat) : State :=
  let life := s.get R.devStatusLife
  let rules := standing ++ (if life = 0 ∨ life = 3 then [standingD3] else [])
  let s1 := [0, 1, 2, 4, 5, 6].foldl (fun t c =>
    let t1 := t.putRules c 0 (rules.filter (fun x => x.1 == c))
    { t1.incMod (R.mpcRuleEpochEpoch c) 1 with worlds.ruled := addNew t1.worlds.ruled c }) s
  let s2 := { s1.setPot pages with worlds.ruled := addNew s1.worlds.ruled 3 }
  (s2.incMod (R.mpcRuleEpochEpoch 3) 1).countPages

end Sys2Proof.Machine
end

