-- ==== Sys2Proof/Machine/Keeper.lean ====
section
/-! DEFINITION. The keeper's root secret and what it releases (R66 to R74), the configuration block's bytes (R413), the
tenant-root tables (R75 to R78) and the update handover (R86 to R89). -/

namespace Sys2Proof.Machine

/-! ### The root secret -/

/-- The OTP check value of a root secret (R67). -/
def checkOf (rs : Bytes) : Bytes := (Config.sha384 (rs ++ ascii "CHK")).take 8

/-- RS written under the mask `mask` (R67). -/
def State.storeRs (s : State) (rs mask : Bytes) : State := { s with keys.rs := Twin.of rs mask }

/-- A source is detected: its record takes the next SERIAL (R360). -/
def State.detected (s : State) : State := { s with keeper.serial := s.keeper.serial + 1 }

/-- A pocket record, with the SERIAL and TIME of its detection, joins the pocket log (R366): records 0–14 keep the first; record 15 the
last SHRED or KEEPER_POWER; any other that finds no place is counted. In SCRAPPED the log is frozen (R356). -/
def State.pocketAdd (s : State) (serial time source response flags detail value : Nat) : State :=
  if s.get R.devStatusLife = 4 then s
  else
    let p : Pocket := ⟨serial, time, source, response, flags, detail, value, s.compass.count % 2 ^ 48⟩
    let s1 := if response = 4 ∨ source = 26 then { s with keeper.last := some p }
      else if s.keeper.pocket.length < 15 then { s with keeper.pocket := s.keeper.pocket ++ [p] }
      else s.incSat R.keeperPocketOverflow
    s1.put R.keeperPocketHeld (s1.keeper.pocket.length + (if s1.keeper.last.isSome then 1 else 0))

/-- A record of what is detected and recorded at once. -/
def State.pocketNow (s : State) (source response flags detail value : Nat) : State :=
  s.detected.pocketAdd s.keeper.serial (s.get R.keeperThermosClockTicks) source response flags detail value

/-- A fault the keeper cannot correct (R31): RS is withheld; GRAVE to die M, or a pocket record while die M is unpowered. -/
def State.withhold (s : State) : State :=
  let s1 := s.put R.keeperRsStatusWithheld 1
  if s1.pwr.main then s1.report (plainFault 5 (locK 41 0xF) 0x0E 0) else s1.pocketNow 25 0 0 0 0

/-- A use of RS (R68): both copies are decoded through their ECC and compared, and one that does not match the newest check value is
rewritten from the other. -/
def State.useRs (s : State) : State × Option Bytes :=
  if !s.is R.keeperRsStatusPresent then (s, none)
  else
    let a := s.keys.rs.first
    let b := s.keys.rs.second
    let chk := s.keys.checks.getLast?
    if a = b then (s.put R.keeperRsStatusCopiesAgree 1, some a)
    else
      let s1 := s.put R.keeperRsStatusCopiesAgree 0
      let repair (rs : Bytes) (unit : Nat) : State × Option Bytes :=
        (((s1.storeRs rs s1.keys.rs.mask).incSat R.keeperRsStatusRepairs).soft (locK 41 unit) 0x0E 0, some rs)
      if some (checkOf a) = chk then repair a 1
      else if some (checkOf b) = chk then repair b 0
      else (s1.withhold, none)

/-- The keeper's use of the store anchor (R111): it is checked as RS is, a copy that went wrong is rewritten, and a disagreement
that no decode resolves is R31's. -/
def State.useAnchor (s : State) : State × Option Nat :=
  let t := s.keys.anchor
  if t.first = t.second then (s, some (le t.first 0 8))
  else match t.read with
    | some b => (({ s with keys.anchor := Twin.of b t.mask }).soft (locK 41 (if t.clean0 then 1 else 0)) 0x0E 0, some (le b 0 8))
    | none => (s.withhold, none)

/-- KEEPER_MASK_ROTATE (R67, R111): K is replaced and both copies of RS are rewritten, and those of the anchor under a mask of their
own. While NK does not pass its tests there is nothing to draw K from (R201; log entry 114), and K stays. -/
def State.rotateMask (s : State) : State :=
  if !s.nkServes then s else
  let s1 := match s.useRs with
    | (s1, some rs) => (s1.storeRs rs (Config.random s1.fresh 32)).drawn
    | (s1, none) => s1
  match s1.useAnchor with
  | (s2, some v) => { s2 with keys.anchor := Twin.of (leBytes 8 v) (Config.random s2.fresh 8) }.drawn
  | (s2, none) => s2

def execKeeperMaskRotate (s : State) : Host.Outcome State Fault Refusal := .next s.rotateMask

/-- What a try at generating RS comes to. -/
inductive Generated where
  | done
  | deferred
  | exhausted
  deriving DecidableEq, Repr

/-- Generation of the root secret (R66, R67, R70), given which of N0–N3 and whether NK passed its start-up test. -/
def State.genRs (s : State) (n : List Bool) (nk : Bool) : State × Generated :=
  if s.keys.checks.length ≥ 8 then (s, .exhausted)
  else
    let defer := (s.put R.keeperRsStatusGenDeferred 1, Generated.deferred)
    if !nk ∨ n.countP id < 2 then defer
    else match s.takeBlocks 8 with
      | none => defer
      | some (s1, blocks) =>
        let rs := (Config.sha384 (Config.random s1.fresh 256 ++ blocks ++ s1.life.serial)).take 32
        let s2 := (s1.drawn.storeRs rs (Config.random (s1.fresh + 1) 32)).drawn.showPool
        let s3 := { s2 with keys.checks := s2.keys.checks ++ [checkOf rs] }
        let rows := s3.keys.checks.length
        let s4 := (((s3.put R.keeperRsStatusPresent 1).put R.keeperRsStatusGenerated 1).put R.keeperRsStatusGenDeferred 0).put
          R.keeperRsStatusWithheld 0
        (((s4.put R.keeperRsStatusCopiesAgree 1).put R.keeperRsStatusChkRows rows).put R.lifeLimits1RsRows rows, .done)

/-- RS and K are overwritten with zeros and then with NK output, where NK passes its tests (R70, R201); the check rows stay. -/
def State.shredRs (s : State) : State :=
  let fill (k : Nat) : Bytes := if s.nkServes then Config.random (s.fresh + k) 32 else List.replicate 32 0
  let s1 := { s with keys.rs := ⟨fill 0, fill 1, eccOf (fill 0), eccOf (fill 1), fill 2⟩ }
  { s1 with fresh := s1.fresh + 3 }.put R.keeperRsStatusPresent 0

/-- What the keeper draws from NK at its start (R201): a 16-bit pattern seed for each of the 16 segments of both meshes, and for each of
the six loops and the lid (R350), and 32 bytes for the decision generator (R357). The table of operations has no row for the keeper's
start: it stands for the first start of die M (DESIGN CHOICE, log entry 114). -/
def State.keeperStart (s : State) : State :=
  if s.keeper.patterns.isEmpty ∧ s.nkServes then
    { s with
      keeper.patterns := Config.random s.fresh (2 * (2 * 16 + 6 + 1)), keeper.decisionSeed := Config.random (s.fresh + 1) 32
      keeper.decisionDraws := 0, fresh := s.fresh + 2 }
  else s

/-- A draw of the keeper's decision generator (R357), in 0.125 µs from 0.5 to 8 µs; after 65,536 of them it is seeded again from NK. -/
def State.keeperDelay (s : State) : State × Nat :=
  let d := 4 + Config.delayDraw s.keeper.decisionSeed s.keeper.decisionDraws % 61
  let s1 := { s with keeper.decisionDraws := s.keeper.decisionDraws + 1 }
  if s1.keeper.decisionDraws ≥ 65536 ∧ s.nkServes then
    ({ s1 with keeper.decisionSeed := Config.random s.fresh 32, keeper.decisionDraws := 0, fresh := s.fresh + 1 }, d)
  else (s1, d)

/-- A draw of the custody die's generator (R357). -/
def State.custodyDelay (s : State) : State × Nat :=
  ({ s with trng.delayDraws := s.trng.delayDraws + 1 }, 4 + Config.delayDraw s.trng.delaySeed s.trng.delayDraws % 61)

/-! ### The configuration block (Table LC.9) -/

/-- The factory defaults, with the class minima as tamper responses (Table TK.4). -/
def CfgBlock.default : CfgBlock :=
  ⟨1024, [], [], [], (List.range 27).map (fun i => (shippedMainOf i, shippedThermosOf i)), 206, 160, 1⟩

/-- Bytes 0–4,063 of the block. -/
def CfgBlock.body (c : CfgBlock) : Bytes :=
  padTo 4064 (padTo 4 (leBytes 2 1) ++ padTo 4 (leBytes 2 c.nwPages) ++ padTo 24 (padTo 17 c.nwKey) ++ padTo 24 (padTo 17 c.anchor0)
    ++ padTo 24 (padTo 17 c.anchor1) ++ padTo 56 (c.responses.map (fun r => leBytes 1 r.1 ++ leBytes 1 r.2)).flatten
    ++ padTo 8 (leBytes 1 c.low ++ leBytes 1 c.high) ++ leBytes 1 c.fallback)

/-- The digest of the body that enters the measurement chain. -/
def CfgBlock.digest (c : CfgBlock) : Bytes := Config.sha384 c.body

/-- The AES-256-CMAC of the check word under `key` (R413). -/
def CfgBlock.mac (c : CfgBlock) (key : Bytes) : Bytes := Config.cmac key (c.body ++ leBytes 4 (Config.crc32c c.body))

/-! ### Derivation (R72 to R74) -/

/-- The measurement chain digest (Table KH.3). -/
def mcd (rom image cfg : Bytes) (life : Nat) : Bytes := Config.sha384 (rom ++ image ++ cfg ++ leBytes 1 life ++ [0, 0, 0])

/-- DMK of a chain, the seal root of an image, and the identity seeds (Table KH.2). -/
def dmkOf (rs rom image cfg : Bytes) (life : Nat) : Bytes := kdf rs "DMK" (mcd rom image cfg life) 256
def sealOf (rs image : Bytes) (life : Nat) : Bytes := kdf rs "SEAL" (image ++ leBytes 1 life) 256
def idSeedsOf (rs serial : Bytes) : Bytes := kdf rs "IDENT" serial 512

/-- The refusal that the keeper's conditions give an image of this version and signature (R73), 0 for none. -/
def State.deriveRefusal (s : State) (romOk sigOk linkOk : Bool) (version : Nat) : Nat :=
  if !romOk then 1 else if !sigOk then 3 else if version < s.get R.lifeSecurityFloor then 2 else if !linkOk then 4
  else if s.is R.keeperRsStatusWithheld then 5 else 0

/-- The keeper releases its keys for what was measured at this start (R73): they stand in reserved slots (Table KH.8). -/
def State.releaseKeys (s : State) (romOk sigOk linkOk : Bool) (version : Nat) : State :=
  let why := s.deriveRefusal romOk sigOk linkOk version
  if why ≠ 0 then (s.put R.keeperDeriveStatusRefusal why).put R.keeperDeriveStatusReleased 0
  else match s.useRs with
    | (s1, none) => (s1.put R.keeperDeriveStatusRefusal 5).put R.keeperDeriveStatusReleased 0
    | (s1, some rs) =>
      let life := s1.get R.devStatusLife
      let l := s1.life
      { s1 with
        keys.dmk := dmkOf rs l.romMeasured l.imageDigest l.cfgDigest life
        keys.dmkd := dmkOf rs l.romMeasured l.imageDigest CfgBlock.default.digest life
        keys.sealRoot := sealOf rs l.imageDigest life
        keys.idSeeds := idSeedsOf rs l.serial }.put R.keeperDeriveStatusReleased 1

/-! ### The tenant-root area (R75 to R78) -/

/-- The device entry (Table KH.5) under `w` for the table with `tag`. -/
def deviceEntry (w tag key : Bytes) : TableEntry := ⟨1, 0, 0, [], boundWrap w tag (entryHead 0xFFF 1 0 0 []) key⟩

/-- A table of every tenant that has an entry, and of the attestation key where there is one. -/
def State.makeTable (s : State) (w tag : Bytes) : Amap TableEntry :=
  let t := s.keys.tenants.map (fun (e : Nat × Tenant) => (e.1, e.2.entry w tag e.1))
  if s.keys.attKey.isEmpty then t else store t 4096 (deviceEntry w tag s.keys.attKey)

/-- The set with its header's CRC-32C written (Table KH.4). -/
def TableSet.checked (x : TableSet) : TableSet := { x with crc := Config.crc32c x.head }

/-- A set with sequence `seq` for an image of security version `version`, its tables wrapped under `keyP` and `keyF`; the header is
written last (R86). -/
def State.makeSet (s : State) (seq : Nat) (keyP keyF image : Bytes) (version : Nat) : TableSet :=
  let tp := tableTag keyP seq
  let tf := tableTag keyF seq
  (⟨seq, tp, tf, image, 0, version, s.makeTable keyP tp, s.makeTable keyF tf⟩ : TableSet).checked

/-- Whether the area is fresh (R77). -/
def State.areaFresh (s : State) : Bool :=
  s.is R.keeperRsStatusGenerated || (!(s.tableSet 0).valid && !(s.tableSet 1).valid)

/-- The fresh area (R77): both sets zeroed, set 0 with sequence 1 and no entries; without a valid check word the default
configuration block is written under DMKD and table P is wrapped under DMKD too. -/
def State.freshArea (s : State) (cfgOk : Bool) : State :=
  let s1 := ({ s with keys.tenants := [], keys.attKey := [] } : State).setTableSet 1 TableSet.empty
  let v := s1.get R.lifeSecurityRunning
  if cfgOk then s1.setTableSet 0 (s1.makeSet 1 s1.keys.dmk s1.keys.dmkd s1.life.imageDigest v)
  else
    { s1.setTableSet 0 (s1.makeSet 1 s1.keys.dmkd s1.keys.dmkd s1.life.imageDigest v) with
      life.cfgStored := CfgBlock.default
      life.cfgMac := CfgBlock.default.mac s1.keys.dmkd }

/-- A wrapped entry opened under its table's key (R78): a tenant, or one LOCKED for a failed unwrap. -/
def TableEntry.open (e : TableEntry) (w tag : Bytes) (n : Nat) (locked : Bool) : Tenant :=
  if e.state = 3 then ⟨3, e.live, e.tg, e.wgs, [], [], false, []⟩
  else match boundUnwrap w tag (entryHead n e.state e.live e.tg e.wgs) e.wrapped with
    | some r => ⟨if locked then 2 else e.state, e.live, e.tg, e.wgs, r.take 32, [slice r 32 16, slice r 48 16, slice r 64 16], false, []⟩
    | none => ⟨2, e.live, e.tg, e.wgs, [], [], true, e.wrapped⟩

/-- A table is opened (R78): every tenant into its reserved slot, the attestation key into 0xFF07. -/
def State.openTable (s : State) (set : Nat) (tableF : Bool) : State :=
  let x := s.tableSet set
  let w := if tableF then s.keys.dmkd else s.keys.dmk
  let tag := if tableF then x.tagF else x.tagP
  let tbl := if tableF then x.f else x.p
  let s1 := { s with keys.active := some set, keys.tenants := [], keys.attKey := [] }
  tbl.foldl (fun (t : State) (e : Nat × TableEntry) =>
    if e.1 = 4096 then
      { t with keys.attKey := (boundUnwrap w tag (entryHead 0xFFF e.2.state e.2.live e.2.tg e.2.wgs) e.2.wrapped).getD [] }
    else
      let ten := e.2.open w tag e.1 tableF
      let t1 := { t with keys.tenants := store t.keys.tenants e.1 ten }
      if ten.failed then t1.logAdd 0x54 0xFFFF e.1 (leBytes 1 (ofBool tableF) ++ leBytes 1 set) else t1) s1

/-- Whether a set's tag P or tag F matches under the keys held (R77 step 1). -/
def State.matchP (s : State) (n : Nat) : Bool := let x := s.tableSet n; x.valid && x.tagP == tableTag s.keys.dmk x.seq
def State.matchF (s : State) (n : Nat) : Bool := let x := s.tableSet n; x.valid && x.tagF == tableTag s.keys.dmkd x.seq

/-- Of the sets that match, the one with the higher sequence (R77 step 5). -/
def State.bestSet (s : State) (m : Nat → Bool) : Option Nat :=
  if m 0 ∧ m 1 then some (if s.keys.set0.seq < s.keys.set1.seq then 1 else 0)
  else if m 0 then some 0 else if m 1 then some 1 else none

/-- The defaults apply (R413): CFG_DEFAULTED in both its places, and the log. -/
def State.defaultCfg (s : State) : State :=
  (({ s with life.cfg := CfgBlock.default }.put R.bootStatusCfgDefaulted 1).put R.cfgStatusDefaulted 1).logAdd 0x43 0xFFFF 0xFFFF [1]

/-- A table set is selected and opened (R77); what an earlier start of this boot showed of it no longer holds. -/
def State.selectSet (s0 : State) (cfgOk : Bool) : State :=
  let s := ((s0.put R.bootStatusCfgDefaulted 0).put R.cfgStatusDefaulted 0).put R.bootStatusRootsUnmatched 0
  match (if cfgOk then s.bestSet s.matchP else none) with
  | some n => ({ s with life.cfg := s.life.cfgStored }).openTable n false
  | none =>
    let s1 := s.defaultCfg
    match s1.bestSet s1.matchF with
    | some n => s1.openTable n true
    | none => { s1 with keys.active := none }.put R.bootStatusRootsUnmatched 1

/-- The tenant roots at a start of the custody firmware (R77). `cfgOk`: the configuration check word verifies. -/
def State.openRoots (s0 : State) (cfgOk : Bool) : State :=
  let s := (s0.mendSet 0).mendSet 1
  (if s.areaFresh then s.freshArea cfgOk else s).selectSet cfgOk

/-! ### The update handover (R86 to R89, Table KH.7) -/

/-- The set that a handover writes. -/
def State.idleSet (s : State) : Nat := match s.keys.active with | some 0 => 1 | some _ => 0 | none => 0

/-- Steps 1–5 of Table KH.7: prospective keys for an image, configuration and life-cycle code, and the idle set, header last;
`false` where the keeper refuses (R73, R86). Under ROOTS_UNMATCHED the area stays as it is (R77 step 4). -/
def State.stageSets (s : State) (image cfg : Bytes) (life : Nat) (sigOk : Bool) (version : Nat) : State × Bool :=
  let why := s.deriveRefusal (s.life.romMeasured == s.life.romDigest) sigOk s.keeper.session version
  if why ≠ 0 then (s.put R.keeperDeriveStatusRefusal why, false)
  else match s.useRs with
    | (s1, none) => (s1.put R.keeperDeriveStatusRefusal 5, false)
    | (s1, some rs) =>
      let p := dmkOf rs s1.life.romMeasured image cfg life
      let f := dmkOf rs s1.life.romMeasured image CfgBlock.default.digest life
      let seq := (match s1.keys.active with | some a => (s1.tableSet a).seq | none => 0) + 1
      let n := s1.idleSet
      let s2 := { s1 with keys.nextDmk := p, keys.nextDmkd := f }.put R.keeperDeriveStatusProspective 1
      (if s1.keys.active.isNone then s2
        else { s2.setTableSet n (s1.makeSet seq p f image version) with keys.staged := some n }, true)

/-- The switch (steps 7–9): the staged pair becomes the pair in force and its set the active one. -/
def State.switchSets (s : State) : State :=
  { s with
    keys.dmk := s.keys.nextDmk, keys.dmkd := s.keys.nextDmkd, keys.nextDmk := [], keys.nextDmkd := []
    keys.active := s.keys.staged, keys.staged := none }.put R.keeperDeriveStatusProspective 0

/-- A configuration change (R414): the tables are staged for the new block, the block and its check word are written, and the
DMK switches. The block in force then verifies; `false` where the keeper refuses. -/
def State.putCfg (s : State) (c : CfgBlock) : State × Bool :=
  match s.stageSets s.life.imageDigest c.digest (s.get R.devStatusLife) true (s.get R.lifeSecurityRunning) with
  | (s1, false) => (s1, false)
  | (s1, true) =>
    let s2 := { s1 with life.cfg := c, life.cfgStored := c, life.cfgMac := c.mac s1.keys.nextDmk, life.cfgDigest := c.digest }
    let s3 := ((s2.put R.bootStatusCfgDefaulted 0).put R.cfgStatusDefaulted 0).incMod R.cfgStatusChanges 1
    (s3.switchSets, true)

/-- What a transition or an update had staged is dropped: no staged header stands. -/
def State.dropStaged (s : State) : State :=
  match s.keys.staged with
  | some n => ({ s with keys.staged := none, keys.nextDmk := [], keys.nextDmkd := [] }.setTableSet n TableSet.empty).put
      R.keeperDeriveStatusProspective 0
  | none => s

/-- The former set is zeroed (R88): the set that is neither active nor staged, where the floor is at or past its image's version. -/
def State.zeroPrevious (s : State) (floor : Nat) : State :=
  [0, 1].foldl (fun t n =>
    if t.keys.active ≠ some n ∧ t.keys.staged ≠ some n ∧ (t.tableSet n).valid ∧ (t.tableSet n).version ≤ floor then t.setTableSet n TableSet.empty
    else t) s

end Sys2Proof.Machine
end

