-- ==== Sys2Proof/Machine/Tamper.lean ====
section
/-! DEFINITION. Tamper sources, their two decision paths and the responses (chapter 13), DEVICE_UNLOCK, TAMPER_RESPONSE_SET and
the copy of the pocket log. -/

namespace Sys2Proof.Machine

/-! ### Which sources are watched, and their responses -/

/-- Sources that Thermos mode does not watch (Table TK.1). -/
def notInThermos (n : Nat) : Bool := decide (4 ≤ n ∧ n ≤ 8) || decide (10 ≤ n ∧ n ≤ 12)

/-- Whether the keeper watches source `n` now (Table TK.1, R356, R418). -/
def State.watched (s : State) (n : Nat) : Bool :=
  decide (n ≤ 26) && n != 25 && s.get R.devStatusLife != 4 && !s.life.sensorsOut.contains n
    && (if s.pwr.main then n != 26 else !notInThermos n)

/-- The response in force for source `n` (R353, R356). -/
def State.responseOf (s : State) (n : Nat) : Nat :=
  let life := s.get R.devStatusLife
  if life = 0 ∨ life = 3 then (if n = 23 then 4 else 0)
  else if s.pwr.main then s.get (R.keeperRespMain n)
  else if s.get (R.keeperRespThermos n) = 1 then 4 else 0

/-! ### The acts (Table TK.3) -/

/-- Die M acts: it has its supplies and is neither in reset nor halted. -/
def State.dieMRuns (s : State) : Bool := s.pwr.main && s.pwr.porstN && !s.pwr.halted

/-- Every job that waits for an engine ends with the status. -/
def State.dropQueue (s : State) (ske : Bool) (p : Job → Bool) (status : Nat) : State :=
  let q := s.queueOf ske
  (q.filter p).foldl (fun t j => t.yield j (Yield.of status)) (s.setQueue ske (q.filter (fun j => !p j)))

/-- Every PKE job and SKE request, running or queued, that `p` picks is aborted with the status (R82, R352). -/
def State.abortJobs (s : State) (p : Job → Bool) (status : Nat) : State :=
  let s1 := (List.range 16).foldl (fun t n =>
    match (t.cluster n).job with | some j => if p j then t.abortPke n status else t | none => t) s
  let s2 := (List.range 8).foldl (fun t n =>
    match (t.lane n).job with | some j => if p j then t.stopSke n status else t | none => t) s1
  (s2.dropQueue false p status).dropQueue true p status

/-- The open debug level closes (R339, R404). -/
def State.debugClose (s : State) : State :=
  let level := s.get R.lifeDebugLevel
  if level = 0 then s
  else { s.put R.lifeDebugLevel 0 with worlds.debugSeen := false }.logAdd 0x42 0xFFFF 0xFFFF (leBytes 1 level ++ [0])

/-- The opcodes served while LOCKED is 1 (R240). -/
def lockedServes (op : Nat) : Bool :=
  op / 256 == 1 || op == 0x0601 || op == 0x0505 || op == 0x0506 || op == 0x0507 || op == 0x0711 || op == 0x0801 || op == 0x0802
    || op == 0x0803

/-- The commands that wait meet R240 once LOCKED is 1, an act of the quorum that waits among them (Tables CM.8 and DC.4): what the lock
does not serve ends with DEVICE_LOCKED. A format under way is no longer a command's alone (R115). -/
def State.lockWaiting (s : State) : State :=
  s.completeAll (fun c => (c.stage == .held || c.stage == .payload || c.stage == .route) && !lockedServes c.m.opcode
    && (match s.hs.formatting with | some (owner, _, _) => owner != c.m.cid | none => true)) St.deviceLocked

/-- A LOCK before the switch of a live update ends it (Table TK.11): no staged header stands, and the device stays on its image. The same
where a transition into FIELDED has staged its tables; one that stages nothing goes on (R401, R363). -/
def State.lockUpdate (s : State) : State :=
  match s.life.updating with
  | some (_, .transition _ 3) | some (_, .transition _ 4) | none => s
  | some (cid, _) => { s with life.updating := none }.dropStaged.complete cid (Resp.of St.tamperAborted)

/-- The LOCK acts; a device that is locked stays as it is (R360). -/
def State.lockAct (s : State) : State :=
  if s.is R.keeperTamperStateLockFlag then s
  else
    let s1 := s.put R.keeperTamperStateLockFlag 1
    if !s1.dieMRuns then s1
    else (((s1.abortJobs (fun _ => true) St.tamperAborted).lockUpdate.lockWaiting.setDev R.devStatusLocked 1).debugClose).raise 9

/-- The erasures of Table TK.6 with G5 held in reset (R362), and the DRBG empty until the next boot (Table EN.6). -/
def State.purgeAct (s : State) : State :=
  if s.is R.keeperTamperStatePurged ∨ !s.pwr.main then s
  else
    let s1 := (s.abortJobs (fun _ => true) St.tamperAborted).regionReset 5
    let s2 := (((s1.put R.mpcWorldStatusRestarting 0).zeroSecurePages).trngReset).put R.keeperTamperStatePurged 1
    let s3 := { s2 with trng.erased := true, keeper.session := false }.cancelSlots (fun _ _ => true)
    ((List.range 32).foldl (fun t n => if t.get (R.quorumSlotClassState n) = 2 then t.endSlot n 3 St.quorumCancelled else t) s3).noteHealth

/-- SHRED: RS is erased, SHREDDED is set and the lock flag cleared (R70, R363). A secret that an earlier SHRED erased, with none
generated since, is not erased again (R360). -/
def State.shredAct (s : State) : State :=
  let s0 := if s.is R.keeperTamperStateShredded ∧ !s.is R.keeperRsStatusPresent then s else s.shredRs
  let s1 := (s0.put R.keeperTamperStateShredded 1).put R.keeperTamperStateLockFlag 0
  if s1.dieMRuns then s1.setDev R.devStatusLocked 0 else s1

/-- The flags of a pocket record (Table TK.8). -/
def pocketFlags (battery mismatch confirmed bFirst : Bool) : Nat :=
  ofBool battery + 2 * ofBool mismatch + 4 * ofBool confirmed + 8 * ofBool bFirst

/-- KEEPER_TAMPER takes a response that was performed, and STRONGEST follows (Table TK.12). -/
def State.tamperSeen (s : State) (source r : Nat) (mismatch battery : Bool) : State :=
  let s1 := s.sqcEvent R.keeperTamperSeq (fun t => ((((t.put R.keeperTamperSource source).put R.keeperTamperResponse r).putB
    R.keeperTamperMismatch mismatch).putB R.keeperTamperOnBattery battery))
  s1.put R.keeperTamperStateStrongest (max (s1.get R.keeperTamperStateStrongest) r)

/-- The ALERT of a response (R352): event source 8, unless a decision under way has locked and alerted already (R360). -/
def State.alert (s : State) : State := if s.dieMRuns ∧ s.keeper.deciding.isEmpty then s.raise 8 else s

/-- A response is performed, with every weaker one, and recorded (R352, R359, R360). A PURGE or SHRED has alerted at its first
alarm. -/
def State.perform (s : State) (source r : Nat) (d : Decision) (confirmed : Bool) : State :=
  let s1 := if r = 1 ∨ r = 2 then s.alert else s
  let s2 := if r ≥ 2 then s1.lockAct else s1
  let s3 := if r ≥ 3 then s2.purgeAct else s2
  let s4 := if r ≥ 4 then s3.shredAct else s3
  (s4.tamperSeen source r false d.battery).pocketAdd d.serial d.time source r (pocketFlags d.battery false confirmed d.bFirst)
    d.detail d.value

/-- KEEPER_TAMPER_STATE.DECIDING. -/
def State.showDeciding (s : State) : State := s.putB R.keeperTamperStateDeciding (!s.keeper.deciding.isEmpty)

/-- The delay of a decision for source `n`: the generator of the die that holds the source, and the keeper's in Thermos mode (R357, Table
TK.1). -/
def State.delayFor (s : State) (n : Nat) : State × Nat :=
  if s.pwr.main ∧ ((4 ≤ n ∧ n ≤ 7) ∨ (10 ≤ n ∧ n ≤ 12)) then s.custodyDelay else s.keeperDelay

/-- The first path of a source alarms, or a standing alarm is decided again (R357, R358): a weak response acts at once; PURGE
and SHRED lock at once and wait for the second path. -/
def State.settleAlarm (s : State) (source : Nat) (d : Decision) : State :=
  if d.response ≥ 3 then
    let (s1, delay) := s.alert.lockAct.delayFor source
    ({ s1 with keeper.deciding := store s1.keeper.deciding source { d with delay := delay } }).showDeciding
  else s.perform source d.response d false

/-! ### Alarms (R349, R350) -/

/-- A sensor's reading in its register (Table TK.12): quarter degrees to whole ones; the cells' states. -/
def State.showSensor (s : State) (source detail value : Nat) : State :=
  let deg := value / 4 % 256
  if source = 2 then s.put R.keeperTempKK0 deg
  else if source = 3 then s.put R.keeperTempKK1 deg
  else if 4 ≤ source ∧ source ≤ 7 then
    let sh := 8 * (source - 4)
    let old := s.get R.keeperTempMM0M3
    s.put R.keeperTempMM0M3 (old - 2 ^ sh * field old sh 8 + 2 ^ sh * deg)
  else if source = 9 then (s.put R.keeperPowerCellA (detail % 4)).put R.keeperPowerCellB (detail / 4 % 4)
  else s

/-- Whether a path of source `n` alarms. -/
def State.pathUp (s : State) (b : Bool) (n : Nat) : Bool := bitOf (if b then s.keeper.pathB else s.keeper.pathA) n
def State.setPath (s : State) (b : Bool) (n : Nat) (v : Bool) : State :=
  if b then { s with keeper.pathB := setBit s.keeper.pathB n v } else { s with keeper.pathA := setBit s.keeper.pathA n v }

/-- A decision on source `n` as it is detected. -/
def State.decision (s : State) (n : Nat) (bFirst agreed : Bool) (detail value : Nat) : Decision :=
  { response := s.responseOf n, battery := !s.pwr.main, bFirst := bFirst, agreed := agreed, detail := detail, value := value, delay := 0
    serial := s.keeper.serial, time := s.get R.keeperThermosClockTicks }

/-- A decision path alarms: the first of a source begins its response; the other agrees with a decision under way. A CELL
change clears at once (Table TK.2). -/
def State.alarm (s0 : State) (n : Nat) (pathB : Bool) (detail value : Nat) : State :=
  if !s0.watched n ∨ s0.pathUp pathB n then s0
  else
    let s := s0.showSensor n detail value
    if s.pathUp (!pathB) n then
      let s1 := s.setPath pathB n true
      { s1 with keeper.deciding := adjust s1.keeper.deciding n (fun d => { d with agreed := true }) }
    else
      let s1 := s.detected.incSat R.keeperTamperCountAlarms
      let d := s.decision n pathB false detail value
      if n = 9 then s1.settleAlarm n d
      else ((s1.setPath pathB n true).putBit R.keeperAlarmedAlarmed n true).settleAlarm n d

/-- TAMPER_ALARM (R350, R357). -/
def execTamperAlarm (source : Nat) (pathB : Bool) (detail value : Nat) (s : State) : Host.Outcome State Fault Refusal :=
  .next (s.alarm source pathB detail value)

/-- The delay ends (R358): the second path agreed and the erasures follow, or a mismatch is recorded with the source and as
source 25, and the LOCK stands. -/
def State.delayEnd (s : State) (n : Nat) : State :=
  match look s.keeper.deciding n with
  | none => s
  | some d =>
    let s1 := { s with keeper.deciding := drop s.keeper.deciding n }.showDeciding
    if d.agreed then s1.perform n d.response d true
    else
      let s2 := (s1.incSat R.keeperTamperCountMismatches).tamperSeen n 2 true d.battery
      let f := pocketFlags d.battery true false d.bFirst
      (s2.pocketAdd d.serial d.time n 2 f d.detail d.value).pocketNow 25 2 f 0 0

/-- TAMPER_DECISION_DELAY_END (R358). -/
def execTamperDecisionDelayEnd (source : Nat) (s : State) : Host.Outcome State Fault Refusal := .next (s.delayEnd source)

/-- TAMPER_ALARM_CLEAR (R350): a source whose condition has been absent clears; KEEPER_POWER never does (Table TK.2). -/
def execTamperAlarmClear (source : Nat) (s : State) : Host.Outcome State Fault Refusal :=
  .next (if source = 26 then s
    else ((s.setPath false source false).setPath true source false).putBit R.keeperAlarmedAlarmed source false)

/-! ### DEVICE_UNLOCK (R361) -/

/-- Whether a source whose main response is LOCK or stronger is still alarmed. -/
def State.lockHeld (s : State) : Bool :=
  (List.range 27).any (fun n => bitOf (s.get R.keeperAlarmedAlarmed) n && decide (s.get (R.keeperRespMain n) ≥ 2))

/-- DEVICE_UNLOCK (R361): the release clears the lock flag unless such a source is alarmed. -/
def deviceUnlock (m : Msg) (s : State) : State × Resp :=
  if m.payloadLen ≠ 0 then (s, Resp.of St.lengthInvalid)
  else if s.lockHeld then (s, Resp.of St.deviceLocked)
  else (((s.put R.keeperTamperStateLockFlag 0).put R.keeperTamperStateStrongest 0).setDev R.devStatusLocked 0, Resp.of St.ok)

/-! ### TAMPER_RESPONSE_SET (R354, R355) -/

/-- A signed byte. -/
def signed8 (b : Nat) : Int := if b < 128 then b else (b : Int) - 256

/-- The payload's form (Table TK.5). -/
def tamperPayloadOk (p : Bytes) (len : Nat) : Bool :=
  let kind := le p 0 1
  let target := le p 1 1
  let main := le p 2 1
  let th := le p 3 1
  let low := signed8 (le p 4 1)
  let high := le p 5 1
  len == 8 && le p 6 2 == 0 &&
    (if kind = 3 then target == 0 && main == 0xFF && th == 0xFF && decide (-50 ≤ low ∧ low ≤ 0) && decide (100 ≤ high ∧ high ≤ 160)
     else le p 4 2 == 0 &&
      (if kind = 0 then decide (target ≤ 26) && (decide (main ≤ 4) || main == 0xFF) && (decide (th ≤ 1) || th == 0xFF)
       else if kind = 1 then decide (1 ≤ target ∧ target ≤ 12) && (decide (main ≤ 4) || main == 0xFF) && (decide (th ≤ 1) || th == 0xFF)
       else kind == 2 && decide (1 ≤ target ∧ target ≤ 12) && decide (main ≤ 4) && th == 0xFF))

/-- The new (main, Thermos) responses that a payload asks for, by source: KIND 1 skips sources that Thermos mode does not
watch; KIND 2 in FIELDED raises the main responses below the new minimum. -/
def State.askedResponse (s : State) (p : Bytes) (n : Nat) : Nat × Nat :=
  let kind := le p 0 1
  let target := le p 1 1
  let main := le p 2 1
  let th := le p 3 1
  let m0 := s.get (R.keeperRespMain n)
  let t0 := s.get (R.keeperRespThermos n)
  let m1 := if main = 0xFF then m0 else main
  let t1 := if th = 0xFF ∨ notInThermos n then t0 else th
  if kind = 0 then (if n = target then (m1, t1) else (m0, t0))
  else if kind = 1 then (if tamperClass n = target then (m1, t1) else (m0, t0))
  else if kind = 2 then (if tamperClass n = target ∧ s.get R.devStatusLife = 2 then (max m0 main, t0) else (m0, t0))
  else (m0, t0)

/-- The sources whose main response, or whose Thermos response, would change. -/
def State.mainChanges (s : State) (p : Bytes) : List Nat :=
  (List.range 27).filter (fun n => (s.askedResponse p n).1 != s.get (R.keeperRespMain n))
def State.thermosChanges (s : State) (p : Bytes) : List Nat :=
  (List.range 27).filter (fun n => (s.askedResponse p n).2 != s.get (R.keeperRespThermos n))

/-- Whether a payload loosens (R355): it lowers a response, or moves a temperature limit outwards. -/
def State.loosens (s : State) (p : Bytes) : Bool :=
  (List.range 27).any (fun n => decide ((s.askedResponse p n).1 < s.get (R.keeperRespMain n))
    || decide ((s.askedResponse p n).2 < s.get (R.keeperRespThermos n)))
    || (le p 0 1 == 3 && (decide (signed8 (le p 4 1) < signed8 (s.get R.keeperTempLimitsLow))
      || decide (le p 5 1 > s.get R.keeperTempLimitsHigh)))

/-- The refusal of a TAMPER_RESPONSE_SET (R354, R355). -/
def State.tamperSetRefusal (s : State) (p : Bytes) (len : Nat) : Option Nat :=
  let kind := le p 0 1
  let target := le p 1 1
  let th := le p 3 1
  let fielded := decide (s.get R.devStatusLife = 2)
  let changed := s.mainChanges p ++ s.thermosChanges p
  if !tamperPayloadOk p len then some St.lengthInvalid
  else if changed.any (fun n => s.get (R.keeperRespFixed n) == 1) then some St.notPermitted
  else if kind = 0 ∧ th ≠ 0xFF ∧ notInThermos target then some St.notPermitted
  else if kind = 1 ∧ th ≠ 0xFF ∧ (target = 3 ∨ target = 5 ∨ target = 6 ∨ target = 7) then some St.notPermitted
  else if kind = 2 ∧ (target = 4 ∨ target = 12 ∨ le p 2 1 < ((List.range 27).find? (fun n => tamperClass n == target)).elim 0
      (fun n => s.get (R.keeperRespMin n))) then some St.notPermitted
  else if fielded ∧ (s.mainChanges p).any (fun n => decide ((s.askedResponse p n).1 < s.get (R.keeperRespMin n))) then
    some St.lifecycleForbidden
  else if fielded ∧ (s.thermosChanges p).any (fun n => (s.askedResponse p n).2 == 0) then some St.lifecycleForbidden
  else if !(s.thermosChanges p).isEmpty ∧ s.get R.lifeLimits0Thermos ≥ 16 then some St.limitReached
  else none

/-- A limited change is used (R407): its counter and the LIMIT_USED record. -/
def State.limitUsed (s : State) (f : Fld) (code : Nat) : State :=
  let n := s.get f + 1
  (s.put f n).logAdd 0x41 0xFFFF 0xFFFF (leBytes 1 code ++ leBytes 2 n)

/-- The standing alarms of sources whose response was raised are decided again (Table TK.11). -/
def State.redecide (s : State) (was : Nat → Nat) : State :=
  (List.range 27).foldl (fun t n =>
    if bitOf (t.get R.keeperAlarmedAlarmed) n ∧ t.responseOf n > was n then
      t.detected.settleAlarm n (t.decision n (t.pathUp true n && !t.pathUp false n) (t.pathUp true n && t.pathUp false n) 0 0)
    else t) s

/-- The responses and limits that the registers hold, as the configuration block keeps a copy (R353). -/
def State.withTamperCopy (s : State) (c : CfgBlock) : CfgBlock :=
  { c with
    responses := (List.range 27).map (fun n => (s.get (R.keeperRespMain n), s.get (R.keeperRespThermos n)))
    low := s.get R.keeperTempLimitsLow
    high := s.get R.keeperTempLimitsHigh }

/-- TAMPER_RESPONSE_SET (R354, R355): the keeper applies the change and the configuration block takes its copy. A change of a
Thermos response burns a row, and needs the board's hold-up (R407). -/
def tamperResponseSet (m : Msg) (s : State) : State × Resp :=
  let p := m.payload
  match s.tamperSetRefusal p m.payloadLen with
  | some st => (s, Resp.of st)
  | none =>
    if !(s.thermosChanges p).isEmpty ∧ !s.is R.sysPinsHoldup then (s, Resp.why St.lifecycleForbidden 3)
    else
    let was := s.responseOf
    let asked := (List.range 27).map (fun n => (n, s.askedResponse p n))
    let s1 := if (s.thermosChanges p).isEmpty then s else s.limitUsed R.lifeLimits0Thermos 5
    let s2 := asked.foldl (fun t a => (t.put (R.keeperRespMain a.1) a.2.1).put (R.keeperRespThermos a.1) a.2.2) s1
    let s3 := if le p 0 1 = 2 then
        (List.range 27).foldl (fun t n => if tamperClass n = le p 1 1 then t.put (R.keeperRespMin n) (le p 2 1) else t) s2
      else if le p 0 1 = 3 then (s2.put R.keeperTempLimitsLow (le p 4 1)).put R.keeperTempLimitsHigh (le p 5 1)
      else s2
    let c := s3.withTamperCopy s3.life.cfg
    let s4 := if c = s3.life.cfg then s3 else (s3.putCfg c).1
    (s4.redecide was, Resp.of St.ok)

/-! ### The pocket log's copy (R367) -/

/-- Bytes 0–27 of a pocket record (Table TK.8). -/
def Pocket.bytes (p : Pocket) : Bytes :=
  leBytes 4 p.serial ++ leBytes 6 p.time ++ leBytes 1 p.source ++ leBytes 1 p.response ++ leBytes 1 p.flags ++ leBytes 1 p.detail
    ++ leBytes 2 p.value ++ leBytes 6 p.cycle ++ leBytes 6 0

/-- One record goes to the security log, unless its SERIAL is held there, and is freed; with none left, the overflow count. None
is copied while the log is frozen (R385). -/
def State.copyPocket (s : State) : State :=
  if !s.is R.devStatusCustodyUp ∨ s.is R.logStatusFrozen then s
  else
    let copy (t : State) (p : Pocket) : State :=
      if t.log.recs.any (fun r => r.typ == 0x10 && le r.body 0 4 == p.serial) then t else t.logAdd 0x10 0xFFFF 0xFFFF p.bytes
    let show_ (t : State) : State := t.put R.keeperPocketHeld (t.keeper.pocket.length + (if t.keeper.last.isSome then 1 else 0))
    match s.keeper.pocket, s.keeper.last with
    | p :: rest, _ => show_ (copy { s with keeper.pocket := rest } p)
    | [], some p => show_ (copy { s with keeper.last := none } p)
    | [], none =>
      if s.get R.keeperPocketOverflow = 0 then s
      else (s.logAdd 0x11 0xFFFF 0xFFFF (leBytes 1 (s.get R.keeperPocketOverflow))).put R.keeperPocketOverflow 0

/-- POCKET_RECORD_COPY (R367). -/
def execPocketRecordCopy (s : State) : Host.Outcome State Fault Refusal := .next s.copyPocket

end Sys2Proof.Machine
end

