-- ==== Sys2Proof/Machine/EngineEvents.lean ====
section
/-! DEFINITION. What happens to PKE clusters and SKE lanes beside their commands: release, wipe, load, quarantine, seeds, gates
and fences (chapter 5), requests, lanes and their checks (chapter 6), and the ends of cluster and region resets (R64, R376). -/

namespace Sys2Proof.Machine

/-! ### PKE jobs -/

/-- Whether a job's tenant, or a slot of it, is marked dying (R139), and the status of the mark. -/
def State.jobDying (s : State) (j : Job) : Option Nat :=
  match s.dying j.tenant j.wg with
  | some st => some st
  | none => j.slots.findSome? (fun h => (look s.keys.slots (h % 0x10000)).bind (fun x => s.dying x.tenant x.wg))

/-- The operand size of a job in 64-bit words (PKE_FAULT_INFO.SIZE_W): the declared words, the field or the modulus; the
manual states none for the other programs, a free value. -/
def State.jobWords (s : State) (j : Job) : Nat :=
  if 0x40 ≤ j.prog ∧ j.prog ≤ 0x44 then j.param
  else if j.prog ≤ 0x05 then (match j.curveAt j.curve with | some c => (c.pbits + 63) / 64 | none => 0)
  else if j.prog = 0x18 ∨ j.prog = 0x1A ∨ j.prog = 0x20 then le j.secret 0 2 / 64
  else if j.prog = 0x1C then j.param / 64
  else Config.freeNat s.fresh

/-- PKE_FAULT takes an event (R168), with its count and event source 96. -/
def State.pkeFault (s : State) (n lane kind prog words : Nat) : State :=
  let s1 := s.sqcEvent R.pkeFaultSeq (fun t => (((((t.put R.pkeFaultKind kind).put R.pkeFaultCluster n).put R.pkeFaultLane
    lane).put R.pkeFaultInfoProgram prog).put R.pkeFaultInfoSizeW words))
  (s1.incSat R.pkeFaultCountCount).raise 96

/-- PKE_JOB_RELEASE (R139, R168): the result is published, or suppressed; a failed check ends the job with ENGINE_FAULT, or
with the status of the mark it also met (Table PK.14), and the cluster takes a SEVERE reset, wipe included. -/
def State.releaseJob (s : State) (n : Nat) (checkOk residueOk : Bool) (lane : Nat) : State :=
  match (s.cluster n).job with
  | none => s
  | some j =>
    if s.clusterState n ≠ 4 then s
    else
      let passed := (checkOk || !hasCheck j.prog) && residueOk
      let mark := s.jobDying j
      if passed then
        match mark with
        | some st => (s.yield j (Yield.of st)).wipeCluster n
        | none =>
          let y := { j.run with key := j.slots.headD 0 }
          let s1 := if y.status = St.inputRejected then s.incSat R.pkeRejectsRejected else s
          (s1.yield j y).wipeCluster n
      else
        let kind := if residueOk then checkKind j.prog else 6
        let s1 := ((s.drawn.pkeFault n lane kind j.prog (s.jobWords j)).yield j (Yield.of (mark.getD St.engineFault))).wipeCluster n
        let at_ := locM (n / 4) n lane
        (s1.logAdd 0x60 0xFFFF j.tenant (s.locBytes at_ ++ leBytes 1 kind ++ leBytes 1 j.prog)).report (plainFault 4 at_ 7 kind)

/-- A roll has ended on every cluster (PKE_PACKAGES.ROLLING). -/
def State.showRolling (s : State) : State :=
  s.put R.pkePackagesRolling ((List.range 16).foldl (fun a n => a ||| (s.cluster n).roll) 0)

/-- READY clusters that wait for a new body reload, no more than four at a time (R145); at most `fuel` of them. -/
def State.rollNext (s : State) : Nat → State
  | 0 => s
  | fuel + 1 =>
    let waits (n : Nat) : Bool := (s.cluster n).roll != 0
    let loading := (List.range 16).countP (fun n => waits n && (s.clusterState n == 1 || s.clusterState n == 2))
    match (List.range 16).find? (fun n => waits n && s.clusterState n == 3) with
    | some n => if loading < 4 then (s.reloadCluster n).rollNext fuel else s
    | none => s

/-- A cluster's part of a roll is over, whatever it came to: the next cluster's begins (R145). -/
def State.endRoll (s : State) (n : Nat) : State :=
  ((s.setCluster n { s.cluster n with roll := 0 }).showRolling).rollNext 16

/-- PKE_WIPE_END (R137, R145, R173): slots and lease are let go; a pending gate, then a pending roll, takes effect; else the
cluster is READY and takes the next job. -/
def State.wipeEnd (s : State) (n : Nat) : State :=
  if s.clusterState n ≠ 5 ∨ bitOf s.pwr.clusterReset n ∨ bitOf s.pwr.regionReset (n / 4) then s
  else
    let s1 := ((s.endWipe n).setClusterState n 3).settleGate n
    if s1.clusterState n = 3 then (s1.rollNext 16).feedCluster n (s1.eng.pkeQueue.length + 1) else s1

/-- A cluster that its load gate, its self-test or its third quarantine takes out is FENCED until a service action (Table PK.1,
R169). -/
def State.holdCluster (s : State) (n : Nat) : State :=
  ((s.setCluster n { s.cluster n with held := true, tested := false, returning := false }).setClusterState n 7).endRoll n

/-- The package whose body the load gate refuses on cluster `n`, or 0 (R144): the digest of every body that streams in is held against
the active entry. `bad` is a package whose body is not read as it was written, or 0. -/
def State.gateRefusal (s : State) (bad : Nat) : Nat :=
  if bad ≠ 0 then bad
  else ((s.eng.packages.find? (fun x =>
    match look s.eng.bodies (2 * x.1 + x.2.copy) with
    | some b => Config.sha384 b.bytes != x.2.digest
    | none => true)).map (·.1)).getD 0

/-- The programs of every active body. -/
def State.activeBodies (s : State) : Amap (List Nat) :=
  s.eng.packages.filterMap (fun x => (look s.eng.bodies (2 * x.1 + x.2.copy)).map (fun b => (x.1, b.programs)))

/-- Cluster `n`, which has passed its self-test, is READY once it has a seed (R135, Table PK.13): a gate, a fence or a roll that came
meanwhile takes effect, or it takes its first job. -/
def State.seatReady (s : State) (n : Nat) : State :=
  let s0 := if s.seeded n then s else s.seedCluster n
  if s.clusterState n ≠ 2 ∨ !(s.cluster n).tested ∨ !s0.seeded n then s
  else
    let c := s0.cluster n
    let s1 := if c.returning then s0.incSat (R.pkeClusterQuarQuarantines n) else s0
    let s2 := ((s1.setCluster n { c with tested := false, returning := false, idleSince := s.tick }).setClusterState n 3).settleGate n
    let s3 := s2.rollNext 16
    s3.feedCluster n (s3.eng.pkeQueue.length + 1)

/-- The load of cluster `n` ends at the gate (R144): SELF_TEST, or FENCED with a HARD fault. -/
def State.clusterLoaded (s : State) (n badPkg : Nat) : State :=
  let bad := s.gateRefusal badPkg
  if bad ≠ 0 then
    let s1 := s.sqcEvent R.pkeGateSeq (fun t => (t.put R.pkeGatePackage bad).put R.pkeGateCluster n)
    ((s1.raise 97).holdCluster n).hard (locM (n / 4) n 0xF) 7 0
  else (s.setLoaded n s.activeBodies).setClusterState n 2

/-- The self-test of cluster `n` ends (R135, R145, R169): READY with its first seed, or FENCED. PKE_FAULT takes KIND 7 and program
0x7F; the manual states neither the lane nor the size: free values (log entry 73). -/
def State.clusterTested (s : State) (n : Nat) (ok : Bool) : State :=
  if ok then (((s.setCluster n { s.cluster n with tested := true, roll := 0 }).showRolling).rollNext 16).seatReady n
  else (s.drawn.pkeFault n (Config.freeNat s.fresh % 4) 7 0x7F (Config.freeNat (s.fresh + 1) % 256)).drawn.holdCluster n

/-- Neither cluster `n` nor its region is in reset. -/
def State.clusterFree (s : State) (n : Nat) : Bool :=
  decide (n < 16) && !bitOf s.pwr.clusterReset n && !bitOf s.pwr.regionReset (n / 4)

/-- PKE_CLUSTER_READY (R135): in LOADING the load ends, in SELF_TEST the self-test. -/
def State.clusterReady (s : State) (n badPkg : Nat) (testOk : Bool) : State :=
  if !s.clusterFree n then s
  else if s.clusterState n = 1 then s.clusterLoaded n badPkg
  else if s.clusterState n = 2 ∧ !(s.cluster n).tested then s.clusterTested n testOk
  else s.seatReady n

/-- QUARANTINE_RETURN (R169): the cluster is loaded and tested, back in service and counted once it is READY; FENCED at a failure or at
the third quarantine within 180,000 mc. -/
def State.quarantineReturn (s : State) (n badPkg : Nat) (testOk : Bool) : State :=
  if !s.clusterFree n ∨ s.clusterState n ≠ 6 then s
  else
    let third := match (s.cluster n).quarAt with
      | a :: _ :: c :: _ => decide (a < c + 180000)
      | _ => false
    if third then s.holdCluster n
    else
      let s1 := s.loadCluster n
      let s2 := (s1.setCluster n { s1.cluster n with returning := true }).clusterLoaded n badPkg
      if s2.clusterState n = 2 then s2.clusterTested n testOk else s2

/-- Whether the next seed of cluster `n` is due (R164): three-quarters of either allowance are used, or none is current. -/
def State.seedDue (s : State) (n : Nat) : Bool :=
  !s.seeded n || decide (4 * s.get (R.pkeClusterQuarSeedJobsLeft n) ≤ s.maskCfg n R.pkeMaskCfgReseedJobs)
    || decide (4 * ((s.cluster n).seedEnds - s.compass.mc) ≤ s.maskCfg n R.pkeMaskCfgReseedMc)

/-- Cluster `n` gets the seed that it waits for: a cluster at work keeps it for the end of its job (R164). -/
def State.seedIn (s : State) (n : Nat) : State :=
  let st := s.clusterState n
  if n ≥ 16 ∨ !s.canDraw then s
  else if st = 2 then (if (s.cluster n).tested ∧ !s.seeded n then s.seedCluster n else s)
  else if !(st = 3 ∨ st = 4 ∨ st = 5) ∨ !(s.cluster n).nextSeed.isEmpty ∨ !s.seedDue n then s
  else if st = 3 then s.seedCluster n
  else
    let d := s.draw 32
    d.1.setCluster n { s.cluster n with nextSeed := d.2 }

/-- MASK_SEED_DELIVERY (R164): a cluster that waited for its first seed is READY, and one that is READY takes a job. -/
def State.seedDelivery (s : State) (n : Nat) : State :=
  let s1 := s.seedIn n
  if s1.clusterState n = 2 then s1.seatReady n
  else if s1.clusterState n = 3 then s1.feedCluster n (s1.eng.pkeQueue.length + 1)
  else s1

/-- MASK_SEED_EXPIRY (R164): a seed whose allowance has run out is current no more. -/
def State.seedExpiry (s : State) (n : Nat) : State :=
  if n < 16 ∧ s.is (R.pkeClusterStatusSeeded n) ∧ !s.seeded n then s.put (R.pkeClusterStatusSeeded n) 0 else s

/-! ### Gates and fences of clusters (R173) -/

/-- The offset of PKE_CLUSTER_CTRL. -/
def clusterCtrlOff (n : Nat) : Nat := 0x7010C + 0x10 * n

/-- A gate or fence is lifted from cluster `n`: one that is OFF loads by R135, though a fence then keeps it from its first job; a
FENCED one loads once neither holds it. One that is held for service stays FENCED. -/
def State.liftCluster (s : State) (n : Nat) : State :=
  let st := s.clusterState n
  if (st = 0 ∨ st = 7) ∧ bitOf s.pwr.regionOff (n / 4) then s
  else if s.is (R.pkeClusterCtrlGateReq n) then s
  else if (s.cluster n).held then (if st = 0 then s.setClusterState n 7 else s)
  else if s.is (R.pkeClusterCtrlFence n) then
    (if st = 0 then (s.put (R.pkeClusterStatusGatePending n) 1).loadCluster n else s)
  else
    let s1 := s.put (R.pkeClusterStatusGatePending n) 0
    if st = 0 ∨ st = 7 then s1.loadCluster n
    else if st = 3 then s1.feedCluster n (s1.eng.pkeQueue.length + 1)
    else s1

/-- GATE_REQ (`gate`) or FENCE of cluster `n` becomes `on`; a write that changes nothing does nothing. -/
def State.gateCluster (s : State) (n : Nat) (gate on : Bool) : State :=
  let f := if gate then R.pkeClusterCtrlGateReq n else R.pkeClusterCtrlFence n
  if n ≥ 16 ∨ s.clusterState n = 8 ∨ s.is f = on then s
  else if on then ((s.putB f on).put (R.pkeClusterStatusGatePending n) 1).settleGate n
  else (s.putB f on).liftCluster n

/-! ### SKE requests and lanes -/

/-- SKE_REQUEST_START (R188, R190). -/
def State.requestStart (s : State) (n : Nat) : State :=
  if n < 8 ∧ !bitOf s.pwr.regionReset 4 ∧ !bitOf s.pwr.clusterReset 16 then s.startSke n (s.eng.skeQueue.length + 1) else s

/-- A mismatch on lane `n` (R183): HARD fault, SKE_CHECK; the request ends with ENGINE_FAULT; the second within 1,000 requests
isolates the lane, unless it is the last. -/
def State.laneMismatch (s : State) (n : Nat) (j : Job) : State :=
  let l := s.lane n
  let no := s.get (R.skeLaneReqsCount n)
  let near := l.mism.any (fun k => decide ((no + 2 ^ 32 - k) % 2 ^ 32 < 1000))
  let isolate := near && !s.lastLane n
  let s1 := (s.sqcEvent R.skeCheckSeq (fun t => (((t.put R.skeCheckLane n).putB R.skeCheckIsolated isolate).put R.skeCheckAlg
    j.prog))).incSat R.skeCheckCountCount
  let s2 := (s1.raise 98).setLane n { l with mism := (no :: l.mism).take 4 }
  let s3 := (s2.stopSke n St.engineFault).hard (locM 4 16 n) 8 0
  if isolate then s3.setLaneState n 4 else s3

/-- SKE_REQUEST_END (R181, R183, R196). -/
def State.requestEnd (s : State) (n : Nat) (checkOk : Bool) : State :=
  match (s.lane n).job with
  | none => s
  | some j =>
    match s.jobDying j with
    | some st => s.stopSke n st
    | none => if checkOk then s.endSke n else s.laneMismatch n j

/-- The offset of SKE_LANE_CTRL. -/
def laneCtrlOff (n : Nat) : Nat := 0x8010C + 0x10 * n

/-- GATE_REQ or FENCE of lane `n` becomes `on` (R198): refused for the last lane in READY or BUSY; clearing both ungates the
lane, which tests itself. -/
def State.gateLane (s : State) (n : Nat) (gate on : Bool) : State :=
  if n ≥ 8 then s
  else
    let st := s.laneState n
    if on ∧ (st = 2 ∨ st = 3) ∧ s.lastLane n then s.blockErr 0x80000 (laneCtrlOff n) false
    else
      let s1 := s.putB (if gate then R.skeLaneCtrlGateReq n else R.skeLaneCtrlFence n) on
      if on then (s1.put (R.skeLaneStatusGatePending n) 1).settleLane n
      else if s1.is (R.skeLaneCtrlGateReq n) ∨ s1.is (R.skeLaneCtrlFence n) then s1
      else
        let s2 := s1.put (R.skeLaneStatusGatePending n) 0
        if s2.laneState n = 0 then s2.setLaneState n 1 else s2

/-- REJOIN (R198): an ISOLATED lane tests itself. -/
def State.rejoinLane (s : State) (n : Nat) : State :=
  if n < 8 ∧ s.laneState n = 4 then s.put (R.skeLaneCtrlRejoin n) 1 else s

/-- SKE_LANE_SELF_TEST_END (R198): on a pass the lane is READY, and one that rejoins has its mismatch window cleared, or is gated where
GATE_REQ or FENCE asks for it; on a failure it is ISOLATED. -/
def State.laneTested (s : State) (n : Nat) (pass : Bool) : State :=
  if n ≥ 8 then s
  else if s.is (R.skeLaneCtrlRejoin n) ∧ s.laneState n = 4 then
    let s1 := s.put (R.skeLaneCtrlRejoin n) 0
    if pass then
      let s2 := ((s1.setLane n { s1.lane n with mism := [] }).showMism n).setLaneState n 2
      if s2.is (R.skeLaneCtrlGateReq n) ∨ s2.is (R.skeLaneCtrlFence n) then (s2.put (R.skeLaneStatusGatePending n) 1).settleLane n else s2
    else s1
  else if s.laneState n = 1 then s.setLaneState n (if pass then 2 else 4)
  else s

/-! ### Waits for entropy (R165, R216) -/

/-- ENTROPY_WAIT_TIMEOUT: a job or command that still waits for the DRBG, which is out of service, or for a seeded cluster, ends with
ENTROPY_FAILED. A reseed that holds the draw is no outage (R212, R216). -/
def State.entropyTimeout (s : State) (cid : Nat) : State :=
  let seeded := (List.range 16).any (fun n => s.seeded n && (s.clusterState n == 3 || s.clusterState n == 4 || s.clusterState n == 5))
  let starved (j : Job) : Bool :=
    j.cid == cid && (if j.ske then j.counted && !guardIv j.prog && !s.drbgUp else (j.draws && !s.drbgUp) || (j.priv && !seeded && !s.pkeAbsent))
  match (s.eng.pkeQueue ++ s.eng.skeQueue).find? starved with
  | some j => s.dropQueue j.ske (· == j) St.entropyFailed
  | none =>
    match look s.host.cmds cid with
    | some c => if c.stage = .route ∧ c.needs.contains needEntropy ∧ !s.drbgUp then s.complete cid (Resp.of St.entropyFailed) else s
    | none => s

/-! ### The ends of resets (R64, R376) -/

/-- A custody pair is back after its reset. -/
def State.pairBack (s : State) (pair : Nat) : State :=
  if bitOf s.life.pairsFenced pair ∨ !s.is R.devStatusCustodyUp then s
  else if pair = 0 then { s.put R.mpcWorldStatusPairA 1 with worlds.missedA := false }
  else { s.put R.mpcWorldStatusPairB 1 with worlds.missedB := false }

/-- The custody firmware commits DEVICE from the certificate of a member (R192): at its start, and after a reset of the SKE. When it
does so the manual does not say (DESIGN CHOICE, log entry 94). -/
def State.commitDevice (s : State) : State :=
  if s.is R.ferryDomainMember then s.put R.skeNonceCfgDevice (1 + s.get R.ferryDomainIndex) else s

/-- The lanes that test themselves after a reset are READY: the reset times of Table AH.6 take the test in. -/
def State.lanesBack (s : State) : State :=
  (List.range 8).foldl (fun t n => if t.laneState n = 1 then t.setLaneState n 2 else t) s.commitDevice

/-- CLUSTER_RESET_END (R168, R207, R376). -/
def State.clusterBack (s : State) (c : Nat) (kat4 kat5 : Bool) : State :=
  if !bitOf s.pwr.clusterReset c then s
  else
    let s1 := { s with pwr.clusterReset := setBit s.pwr.clusterReset c false }
    if c ≤ 15 then
      if s1.clusterState c = 5 then
        let s2 := s1.endWipe c
        ((s2.setCluster c { s2.cluster c with quarAt := (s.compass.mc :: (s2.cluster c).quarAt).take 3 }).setClusterState c 6).settleGate c
      else s1
    else if c = 16 then s1.lanesBack
    else if c = 17 then s1.katEnd kat4 kat5
    else (s1.pairBack (c - 18)).showPairs

/-- The clusters of a region load after its reset, their wipe ended (R137). -/
def State.clustersBack (s : State) (g : Nat) : State :=
  [0, 1, 2, 3].foldl (fun t i =>
    let n := 4 * g + i
    if clusterOut (t.clusterState n) then t else ((t.endWipe n).loadCluster n).settleGate n) s

/-- REGION_RESET_END (R64): the region's blocks answer again. G5 ends its reset with G5_RESTART_END (R342), or at a start. -/
def State.regionBack (s : State) (g : Nat) (kat4 kat5 : Bool) : State :=
  if g > 7 ∨ g = 5 ∨ !bitOf s.pwr.regionReset g ∨ s.pwr.halted then s
  else
    let s1 := { s with pwr.regionReset := setBit s.pwr.regionReset g false }.freePosted g
    let s2 := s1.reloading g 3 0
    if g = 4 then s2.lanesBack.katEnd kat4 kat5 else if g ≤ 3 then s2.clustersBack g else s2

end Sys2Proof.Machine
end

