-- ==== Sys2Proof/Machine/Tenants.lean ====
section
/-! DEFINITION. The acts of groups 0x01 and 0x04: device information, identity and attestation (R99 to R101), tenants, their
generations and their destruction (R79 to R84), quotas, policies and bindings (R94, R193, R268). -/

namespace Sys2Proof.Machine

/-- An older act's response as an answer. -/
def lift (f : Msg → State → State × Resp) (m : Msg) (s : State) : State × Answer := let r := f m s; (r.1, .resp r.2)

/-- The operation ID of the act a command runs as, 0 where it needed no quorum. -/
def State.opIdOf (s : State) (m : Msg) : Nat :=
  ((look s.quorum.acting m.cid).bind (fun slot => (look s.quorum.acts slot).map (·.opId))).getD 0

/-! ### Group 0x01 -/

/-- The LIMITS result (R421). -/
def State.limitsBytes (s : State) : Bytes :=
  let w0 := s.get R.lifeLimits0Floor + 2 ^ 9 * s.get R.lifeLimits0Nominal + 2 ^ 12 * s.get R.lifeLimits0Password
    + 2 ^ 16 * s.get R.lifeLimits0DebugKey + 2 ^ 19 * s.get R.lifeLimits0Thermos
  let w1 := s.get R.lifeLimits1Retired + 2 ^ 16 * s.get R.lifeLimits1RsRows + 2 ^ 20 * s.get R.lifeLimits1EpochRows
  let w2 := s.get R.lifeStateState + 2 ^ 3 * s.get R.lifeStateTorn + 2 ^ 4 * s.get R.lifeStateRows + 2 ^ 8 * s.get R.lifeStateIntents
  let w3 := s.get R.lifeSecurityRunning + 2 ^ 16 * s.get R.lifeSecurityFloor
  leBytes 4 w0 ++ leBytes 4 w1 ++ leBytes 4 w2 ++ leBytes 4 w3

/-- DEVICE_INFO_GET (Table CM.6). -/
def deviceInfoGet (m : Msg) (s : State) : State × Resp :=
  if m.payloadLen ≠ 0 then (s, Resp.of St.lengthInvalid)
  else (s, Resp.okay (padTo 8 s.life.serial ++ leBytes 1 (s.get R.devStatusLife) ++ leBytes 2 (s.get R.lifeSecurityFloor)
    ++ padTo 48 s.life.imageDigest ++ padTo 48 s.life.cfgDigest ++ s.limitsBytes))

/-- The identity keys (Table KH.2, R101): the P-384 scalar and the ML-DSA-65 seed. How 32 seed bytes feed a method that wants 448 bits for
P-384 is not stated: the 256 bits are reduced as they are (DESIGN CHOICE, log entry 103). -/
def State.identityScalar (s : State) : Bytes := beBytes 48 (p384.scalarOf (s.keys.idSeeds.take 32))
def State.identitySeed (s : State) : Bytes := slice s.keys.idSeeds 32 32

/-- The identity public keys: the P-384 point, then the ML-DSA-65 public key. -/
def State.identityKeys (s : State) : Bytes := p384.public Blind.none s.identityScalar ++ publicOf s 0x21 0 4 s.identitySeed

/-- IDENTITY_GET (Table CM.6); without the seeds there is no identity to give. -/
def identityGet (m : Msg) (s : State) : State × Resp :=
  if m.payloadLen ≠ 0 then (s, Resp.of St.lengthInvalid)
  else if s.keys.idSeeds.isEmpty then (s, Resp.of St.custodyUnavailable)
  else (s, Resp.okay s.identityKeys)

/-- The statement body of Table KH.11. -/
def State.statement (s : State) (format : Nat) (challenge : Bytes) : Bytes :=
  leBytes 2 format ++ leBytes 1 (s.get R.devStatusLife) ++ leBytes 1 challenge.length ++ leBytes 12 s.stamp
    ++ padTo 48 s.life.romMeasured ++ padTo 48 s.life.imageDigest ++ padTo 48 s.life.cfgDigest ++ leBytes 2 (s.get R.lifeSecurityFloor)
    ++ leBytes 1 (s.get R.bootStatusCfgDefaulted + 2 * s.get R.bootStatusRootsUnmatched + 4 * s.get R.devStatusLocked)
    ++ leBytes 5 0 ++ challenge

/-- ATTESTATION_ANSWER (R99, R100). -/
def attestationAnswer (m : Msg) (s : State) : State × Resp :=
  if m.payloadLen < 16 ∨ m.payloadLen > 64 then (s, Resp.of St.lengthInvalid)
  else if s.keys.attKey.isEmpty ∨ s.is R.bootStatusRootsUnmatched then (s, Resp.of St.attestationKeyAbsent)
  else
    let b := s.statement 2 (padTo m.payloadLen m.payload)
    (s.stamped, Resp.okay (b ++ Config.hmac384 s.keys.attKey b))

/-- The device's two identity signatures over a body (R440), ECDSA P-384 then ML-DSA-65, made by the custody firmware with the 88
random bytes `r`. -/
def State.identitySigs (s : State) (b r : Bytes) : Bytes :=
  p384.sign Blind.none s.identityScalar (Config.sha384 b) (p384.scalarOf (r.take 56))
    ++ latticeOut 0x31 4 3309 false s.identitySeed (leBytes 2 0 ++ b) (r.drop 56)

/-- A job of a command, its inputs still empty. -/
def Job.of (m : Msg) (ske : Bool) (prog cost : Nat) : Job :=
  { cid := m.cid, ske := ske, prog := prog, curve := 0, param := 0, tenant := m.tenant, wg := sealedWg, slots := [], priv := false
    draws := false, cost := cost, own := false, key := [], mask := [], key2 := [], mask2 := [], aad := [], iv := [], tag := [], extra := [], data := []
    outLen := 0, validate := false, curves := [], gen := none, part := 0, m := m }

/-- What an engine handed back to a command (R138). -/
def State.gotOf (s : State) (cid : Nat) : Option Yield := (look s.host.cmds cid).bind (fun c => c.got)

/-- A command keeps what it has drawn or been given, to go on from there. -/
def State.setGot (s : State) (cid : Nat) (y : Yield) : State := { s with host.cmds := adjust s.host.cmds cid (fun c => { c with got := some y }) }

/-- A command keeps the body that its jobs sign. -/
def State.keepBody (s : State) (cid : Nat) (b : Bytes) : State :=
  { s with host.cmds := adjust s.host.cmds cid (fun c => { c with m := { c.m with payload := b } }) }

/-- ATTESTATION_SIGN (R99, R132): both signatures over the body, under the identity keys, as two PKE jobs; the command keeps the body
meanwhile, and it comes back first. -/
def attestationSign (m : Msg) (s : State) : State × Answer :=
  if m.payloadLen < 16 ∨ m.payloadLen > 64 then (s, .of St.lengthInvalid)
  else if s.keys.idSeeds.isEmpty then (s, .of St.custodyUnavailable)
  else match s.gotOf m.cid with
    | some y => (s, .okay (m.payload ++ y.out))
    | none =>
      match [0x01, 0x31].filter (fun p => !s.hasProgram p) with
      | _ :: _ => (s, .of St.programAbsent)
      | [] =>
        let b := s.statement 1 (padTo m.payloadLen m.payload)
        let job (prog cost : Nat) : Job := { Job.of m false prog cost with own := true, priv := true, draws := true }
        let ec : Job := { job 0x01 (runTime s 0x01 1 0 0 0) with curve := 1, curves := [(1, p384)], key := s.identityScalar, data := Config.sha384 b }
        let ml : Job := { job 0x31 (runTime s 0x31 0 1 b.length 0) with param := 4, key := s.identitySeed, data := b }
        (((s.stamped.keepBody m.cid b).submitPke ec).submitPke ml, .engine)

/-! ### Tenants (R79) -/

/-- The refusal of a tenant act on an entry that is not ACTIVE; `locked` admits a LOCKED one. -/
def State.tenantRefusal (s : State) (n : Nat) (locked : Bool) : Option Nat :=
  if s.keys.dyingTenants.contains n then some St.tenantDeleted
  else match s.tenant n with
    | none => some St.tenantAbsent
    | some t => if t.state = 3 then some St.tenantDeleted else if t.state = 2 ∧ !locked then some St.tenantLocked else none

/-- The working slots of the full map (Table KH.8): the largest quota. -/
def maxQuota : Nat := 61184

/-- TENANT_CREATE (R77 step 4, R79): quota (4) → TG (4). -/
def tenantCreate (m : Msg) (s : State) : State × Answer :=
  let q := le m.payload 0 4
  let n := m.tenant
  let old := s.tenant n
  let state := (old.map (·.state)).getD 0
  let tg := (old.map (·.tg)).getD 0
  if m.payloadLen ≠ 4 ∨ q > maxQuota then (s, .of St.lengthInvalid)
  else if s.life.updating.isSome then (s, .wait [needSwitch])
  else if s.is R.bootStatusRootsUnmatched ∨ state = 1 ∨ state = 2 then (s, .of St.notPermitted)
  else if state = 3 ∧ tg = 0xFFFFFFFF then (s, .of St.tenantExhausted)
  else if !s.canDraw then (s, .wait [needEntropy])
  else
    let (s1, r) := s.draw 48
    let g := if state = 3 then tg + 1 else 0
    let z := List.replicate 16 0
    let t : Tenant := ⟨1, 1, g, [0, 0, 0], r.take 32, [r.drop 32, z, z], false, []⟩
    let s2 := s1.writeTenant n t
    let s3 := { s2 with
      keys.quotas := store s2.keys.quotas n q, keys.limits := drop s2.keys.limits n
      keys.rotating := s2.keys.rotating.filter (· != n) }
    (s3, .okay (leBytes 4 g))

/-- An act's intent and completion records (R82 steps 1 and 6). -/
def State.actIntent (s : State) (m : Msg) (wg : Nat) : State :=
  s.logAdd 0x20 m.inst m.tenant (leBytes 2 m.opcode ++ leBytes 4 (s.opIdOf m) ++ leBytes 4 wg)
def State.actComplete (s : State) (m : Msg) (wg : Nat) : State :=
  s.logAdd 0x21 m.inst m.tenant (leBytes 2 m.opcode ++ leBytes 4 (s.opIdOf m) ++ leBytes 4 wg ++ leBytes 2 St.ok)

/-- Whether an act that needs an intent record can write it (R384). -/
def State.actRoom (s : State) : Bool := decide (s.get R.logStatusHeld < 8192)

/-- The replica map with a tenant's bit set or cleared (R440). -/
def State.setReplica (s : State) (n : Nat) (on : Bool) : State :=
  let rest := s.ferry.replicas.filter (· != n)
  let l := if on then rest ++ [n] else rest
  { s with ferry.replicas := l }.put R.ferryDomainReplicas l.length

/-- Whether a slot, and a job, is one that R82 reaches: the tenant's, or of the wrap generation `wg` of it. -/
def Slot.reached (n : Nat) (wg : Option Nat) (x : Slot) : Bool := x.tenant == n && (match wg with | some w => x.wg == w | none => true)
def State.jobReached (s : State) (n : Nat) (wg : Option Nat) (j : Job) : Bool :=
  (j.tenant == n && (match wg with | some w => j.wg == w | none => true))
    || j.slots.any (fun h => match look s.keys.slots (h % 0x10000) with | some x => x.reached n wg | none => false)

/-- The mark of R82 step 2, and its end. -/
def State.markDying (s : State) (n : Nat) : Option Nat → State
  | none => { s with keys.dyingTenants := addNew s.keys.dyingTenants n }
  | some w => { s with keys.dyingWgs := (n, w) :: s.keys.dyingWgs.filter (· != (n, w)) }
def State.unmark (s : State) (n : Nat) : Option Nat → State
  | none => { s with keys.dyingTenants := s.keys.dyingTenants.filter (· != n), keys.dyingWgs := s.keys.dyingWgs.filter (fun x => x.1 != n) }
  | some w => { s with keys.dyingWgs := s.keys.dyingWgs.filter (· != (n, w)) }

/-- Steps 2 and 3 of R82: the mark, and the end of every job in flight and, for a whole tenant, of every key command of it that has
not passed its point of no return (R122), with the mark's status. -/
def State.beginDying (s : State) (n : Nat) (wg : Option Nat) (status : Nat) : State :=
  let s1 := (s.markDying n wg).abortJobs (s.jobReached n wg) status
  if wg.isSome then s1
  else s1.completeAll (fun c => c.m.tenant == n && (c.m.opcode / 256 == 2 || c.m.opcode / 256 == 3) && c.stage != .committed
    && c.stage != .answered) status

/-- Whether a command has been held for the end of its aborted jobs. -/
def State.wiping (s : State) (cid : Nat) : Bool := ((look s.host.cmds cid).map (fun c => c.needs.contains needWipe)).getD false

/-- The order of R82 for an act whose entry becomes `t`: records, mark, aborts, wipes, entry. A slot that an aborted job still holds
is wiped as its wipe ends, and the act waits for it. -/
def State.carryOut (s : State) (m : Msg) (wg : Option Nat) (t : Tenant) (status : Nat) : State × Answer :=
  let n := m.tenant
  let no := wg.getD 0xFFFFFFFF
  let s1 := if s.wiping m.cid then s else (s.actIntent m no).beginDying n wg status
  let s2 := s1.wipeSlots (fun x => x.reached n wg && x.inuse == 0)
  if s2.keys.slots.any (fun x => x.2.reached n wg) then (s2, .wait [needWipe])
  else
    let s3 := (s2.destroyTenantEntry n t).unmark n wg
    ((if wg.isNone then s3.setReplica n false else s3).actComplete m no, .of St.ok)

/-- The entry of a deleted tenant: TRK and all salts are gone, TG is kept (R79). -/
def Tenant.erased (t : Tenant) : Tenant := { t with state := 3, live := 0, trk := [], salts := [], failed := false, raw := [] }

/-- The entry without the wrap generation in position `i`. -/
def Tenant.without (t : Tenant) (i : Nat) : Tenant :=
  { t with live := setBit t.live i false, salts := t.salts.set i (List.replicate 16 0) }

/-- TENANT_DELETE (R82, R440): TRK and all salts go, STATE becomes ERASED, TG is kept; the replica bit clears. A tenant that is
EMPTY or already ERASED is TENANT_ABSENT (R237). -/
def tenantDelete (m : Msg) (s : State) : State × Answer :=
  let n := m.tenant
  if m.payloadLen ≠ 0 then (s, .of St.lengthInvalid)
  else match s.tenant n with
    | none => (s, .of St.tenantAbsent)
    | some t =>
      if t.state = 3 then (s, .of St.tenantAbsent)
      else if s.wiping m.cid then s.carryOut m none t.erased St.tenantDeleted
      else if s.keys.dyingTenants.contains n then (s, .of St.tenantDeleted)
      else if !s.actRoom then (s, .of St.limitReached)
      else s.carryOut m none t.erased St.tenantDeleted

/-- TENANT_QUOTA_SET (R94). -/
def tenantQuotaSet (m : Msg) (s : State) : State × Resp :=
  let q := le m.payload 0 4
  if m.payloadLen ≠ 4 ∨ q > maxQuota then (s, Resp.of St.lengthInvalid)
  else match s.tenantRefusal m.tenant true with
    | some st => (s, Resp.of st)
    | none => ({ s with keys.quotas := store s.keys.quotas m.tenant q }, Resp.of St.ok)

/-- TENANT_POLICY_SET (R193, R195): default usage limit (8), rotation (1). -/
def tenantPolicySet (m : Msg) (s : State) : State × Resp :=
  let limit := le m.payload 0 8
  let rot := le m.payload 8 1
  let n := m.tenant
  if m.payloadLen ≠ 9 ∨ limit = 0 ∨ limit > 2 ^ 32 ∨ rot > 1 then (s, Resp.of St.lengthInvalid)
  else match s.tenantRefusal n true with
    | some st => (s, Resp.of st)
    | none =>
      let others := s.keys.rotating.filter (· != n)
      let s1 := { s with keys.limits := store s.keys.limits n limit, keys.rotating := if rot = 1 then others ++ [n] else others }
      ((s1.keys.slots.filter (fun x => x.2.tenant == n)).foldl (fun t x => t.lowerLimit x.1 limit) s1, Resp.of St.ok)

/-- The list with its i-th entry replaced. -/
def setNth {α : Type} (l : List α) (i : Nat) (v : α) : List α := l.set i v

/-- GENERATION_ROLL (R79): → WG (4). -/
def generationRoll (m : Msg) (s : State) : State × Answer :=
  let n := m.tenant
  if m.payloadLen ≠ 0 then (s, .of St.lengthInvalid)
  else if s.life.updating.isSome then (s, .wait [needSwitch])
  else match s.tenantRefusal n false, s.tenant n with
    | some st, _ => (s, .of st)
    | none, none => (s, .of St.tenantAbsent)
    | none, some t =>
      match (List.range 3).find? (fun i => !bitOf t.live i) with
      | none => (s, .of St.generationFull)
      | some i =>
        if t.issued + 1 ≥ 0xFFFFFFFF then (s, .of St.generationFull)
        else if !s.canDraw then (s, .wait [needEntropy])
        else
          let (s1, salt) := s.draw 16
          let t1 := { t with live := setBit t.live i true, wgs := setNth t.wgs i (t.issued + 1), salts := setNth t.salts i salt }
          (s1.writeTenant n t1, .okay (leBytes 4 (t.issued + 1)))

/-- GENERATION_RETIRE (R79, R82): the salt in the position goes, and LIVE with it. -/
def generationRetire (m : Msg) (s : State) : State × Answer :=
  let n := m.tenant
  let wg := le m.payload 0 4
  if m.payloadLen ≠ 4 then (s, .of St.lengthInvalid)
  else match (if s.wiping m.cid then none else s.tenantRefusal n false), s.tenant n with
    | some st, _ => (s, .of st)
    | none, none => (s, .of St.tenantAbsent)
    | none, some t =>
      match t.position wg with
      | none => (s, .of St.generationRetired)
      | some i =>
        if s.wiping m.cid then s.carryOut m (some wg) (t.without i) St.generationRetired
        else if s.keys.dyingWgs.contains (n, wg) then (s, .of St.generationRetired)
        else if !s.actRoom then (s, .of St.limitReached)
        else s.carryOut m (some wg) (t.without i) St.generationRetired

/-! ### An act that was cut off (R83) -/

/-- Whether a record completes the act whose intent is `r`: the same tenant, opcode, operation and wrap generation. -/
def LogRec.completes (x r : LogRec) : Bool := x.typ == 0x21 && x.tenant == r.tenant && x.body.take 10 == r.body.take 10

/-- The intent records without a completion record after them. -/
def openIntents : List LogRec → List LogRec
  | [] => []
  | r :: rest => if r.typ == 0x20 && !rest.any (fun x => x.completes r) then r :: openIntents rest else openIntents rest

/-- Steps 4 to 6 of R82 for an act that a loss of power or a reset cut off. No slot is loaded at a start. -/
def State.finishIntent (s : State) (r : LogRec) : State :=
  let n := r.tenant
  let t1 := (s.tenant n).bind (fun t =>
    if le r.body 0 2 = 0x0402 then some t.erased else (t.position (le r.body 6 4)).map t.without)
  let s1 := match t1 with
    | some t => s.destroyTenantEntry n t
    | none => s.clearEntry n
  (if le r.body 0 2 = 0x0402 then s1.setReplica n false else s1).logAdd 0x21 r.inst n (r.body.take 10 ++ leBytes 2 St.ok)

/-- Every such act is finished before a command is taken (R83). -/
def State.finishIntents (s : State) : State := (openIntents s.log.recs).foldl (fun t r => t.finishIntent r) s

/-- INSTANCE_BIND (R268): instance (2), zero (6), tenant bitmap (512). -/
def instanceBind (m : Msg) (s : State) : State × Resp :=
  let inst := le m.payload 0 2
  if m.payloadLen ≠ 520 ∨ inst > nwInst ∨ le m.payload 2 6 ≠ 0 then (s, Resp.of St.lengthInvalid)
  else
    let map := m.payload.drop 8
    let tenants := (List.range 4096).filter (fun t => bitOf (map.getD (t / 8) 0).toNat (t % 8))
    let s1 := { s with host.bindings := if tenants.isEmpty then drop s.host.bindings inst else store s.host.bindings inst tenants }
    (s1.notice inst 7 0 0 0 St.ok, Resp.of St.ok)

/-- After the defaults applied and a device quorum unlocked, the default block is written back with a check word (R77): DMK then
equals DMKD, and table P is a copy of table F, in which the tenants that no quorum has unlocked stay LOCKED. -/
def State.restoreDefault (s : State) : State :=
  match s.is R.bootStatusCfgDefaulted, s.keys.active with
  | true, some a =>
    let x := s.tableSet a
    let f := s.makeTable s.keys.dmkd x.tagF
    let s1 := s.setTableSet a ({ x with p := f, f := f, tagP := x.tagF } : TableSet).checked
    let s2 := { s1 with
      keys.dmk := s1.keys.dmkd, life.cfgStored := CfgBlock.default, life.cfgMac := CfgBlock.default.mac s1.keys.dmkd
      life.cfgDigest := CfgBlock.default.digest }
    (s2.put R.bootStatusCfgDefaulted 0).put R.cfgStatusDefaulted 0
  | _, _ => s

/-- TENANT_UNLOCK (R77, R79). -/
def tenantUnlock (m : Msg) (s : State) : State × Resp :=
  let n := m.tenant
  if m.payloadLen ≠ 0 then (s, Resp.of St.lengthInvalid)
  else match s.tenantRefusal n true, s.tenant n with
    | some st, _ => (s, Resp.of st)
    | none, none => (s, Resp.of St.tenantAbsent)
    | none, some t =>
      if t.failed then (s, Resp.of St.storeIntegrity)
      else if t.state = 1 then (s, Resp.of St.ok)
      else ((s.writeTenant n { t with state := 1 }).restoreDefault, Resp.of St.ok)

/-- TENANT_INFO_GET: STATE (1), TG (4), WG0–WG2 (4 each), LIVE (1), quota (4), slots held (4); the widths of the result's
fields are the model's choice (log entry 9). -/
def tenantInfoGet (m : Msg) (s : State) : State × Resp :=
  if m.payloadLen ≠ 0 then (s, Resp.of St.lengthInvalid)
  else
    let t := (s.tenant m.tenant).getD ⟨0, 0, 0, [0, 0, 0], [], [], false, []⟩
    (s, Resp.okay (leBytes 1 t.state ++ leBytes 4 t.tg ++ leBytes 4 (t.wgs.getD 0 0) ++ leBytes 4 (t.wgs.getD 1 0)
      ++ leBytes 4 (t.wgs.getD 2 0) ++ leBytes 1 t.live ++ leBytes 4 (s.quota m.tenant) ++ leBytes 4 (s.holding m.tenant)))

end Sys2Proof.Machine
end

