-- ==== Sys2Proof/Machine/Hampers.lean ====
section
/-! DEFINITION. Hampers (chapter 4): references and headers (R103 to R106), creating, opening, loading, re-wrapping, revoking
and reclaiming them (R122 to R128), the acts on the store (R115, R129, R130, R477, R478), and the rotation of keys (R195). -/

namespace Sys2Proof.Machine

/-! ### References and headers -/

/-- The fields of a hamper reference (Table HS.1). -/
structure Ref where
  page  : Nat
  cell  : Nat
  large : Bool
  zeros : Nat
  lo    : Nat
  deriving DecidableEq, Repr

/-- The reference that 8 bytes spell. -/
def refOf (r : Nat) : Ref := ⟨field r 0 30, field r 30 4, bitOf r 34, field r 35 5, field r 40 24⟩

/-- Step 1 of R122: PAGE below the store size, CELL and LARGE consistent. A reference whose bits 39:35 are not zero is refused with
them, as HAMPER_ADDRESS: the manual names no status for it (DESIGN CHOICE, log entry 121). -/
def State.refOk (s : State) (r : Ref) : Bool := decide (r.page < s.storePages) && r.zeros == 0 && (!r.large || r.cell == 0)

/-- A hamper header (Table HS.2). -/
structure HamperHead where
  format  : Nat
  flags   : Nat
  tenant  : Nat
  tg      : Nat
  wg      : Nat
  typ     : Nat
  curve   : Nat
  usage   : Nat
  len     : Nat
  wrapLen : Nat
  label   : Nat
  image   : Bytes
  serial  : Nat
  address : Nat
  deriving DecidableEq, Repr

/-- The header that bytes spell, and its 48 bytes. -/
def headOf (b : Bytes) : HamperHead :=
  ⟨le b 0 1, le b 1 1, le b 2 2 % 4096, le b 4 4, le b 8 4, le b 12 1, le b 13 1, le b 14 2, le b 16 2, le b 18 2, le b 20 4,
    slice b 24 8, le b 32 8, le b 40 8⟩
def HamperHead.bytes (h : HamperHead) : Bytes :=
  leBytes 1 h.format ++ leBytes 1 h.flags ++ leBytes 2 h.tenant ++ leBytes 4 h.tg ++ leBytes 4 h.wg ++ leBytes 1 h.typ
    ++ leBytes 1 h.curve ++ leBytes 2 h.usage ++ leBytes 2 h.len ++ leBytes 2 h.wrapLen ++ leBytes 4 h.label ++ padTo 8 h.image
    ++ leBytes 8 h.serial ++ leBytes 8 h.address

def HamperHead.isSealed (h : HamperHead) : Bool := bitOf h.flags 0
def HamperHead.pin (h : HamperHead) : Bool := bitOf h.flags 1

/-- P of R76 for a hamper (R104). -/
def HamperHead.parent (h : HamperHead) : Bytes := leBytes 2 h.tenant ++ leBytes 4 h.tg ++ leBytes 4 h.wg

/-- IMAGE_TAG of the running image and life-cycle state (Table HS.2). -/
def State.imageTag (s : State) : Bytes := (Config.sha384 (s.life.imageDigest ++ leBytes 1 (s.get R.devStatusLife))).take 8

/-- WRAP_LEN of a key length (R105). -/
def wrapLenOf (len : Nat) : Nat := 8 * ((16 + len + 7) / 8) + 8

/-- Types that a large hamper holds; a small one holds every other but the reserved-slot types (R105). -/
def largeType (typ : Nat) : Bool := typ == 0x40 || typ == 0x41 || typ == 0x42
def smallType (typ : Nat) : Bool :=
  typ == 1 || typ == 2 || typ == 3 || typ == 4 || typ == 5 || typ == 6 || typ == 0x10 || typ == 0x11 || typ == 0x12 || typ == 0x13
    || typ == 0x14 || typ == 0x20 || typ == 0x21

/-- Whether size and TYPE go together (R105). -/
def sizeOk (large : Bool) (typ len : Nat) : Bool :=
  if large then largeType typ && decide (len ≤ 4024) else smallType typ && decide (len ≤ 184)

/-- The hamper's bytes in a page, and the page with them replaced (R106). -/
def hamperIn (page : Bytes) (r : Ref) : Bytes := if r.large then page else slice page (256 * r.cell) 256
def putHamper (page : Bytes) (r : Ref) (b : Bytes) : Bytes :=
  if r.large then padTo 4096 b else page.take (256 * r.cell) ++ padTo 256 b ++ page.drop (256 * r.cell + 256)

/-- Whether the page is a large page (R106). -/
def isLargePage (page : Bytes) : Bool := le page 0 1 == 2

/-- Whether a new hamper fits at `r` (R106): a small one in a free cell of a small or empty page, a large one in an empty
page. -/
def roomFor (page : Bytes) (r : Ref) : Bool :=
  if r.large then allZero page else !isLargePage page && allZero (hamperIn page r)

/-! ### Opening (R122) -/

/-- The key under which a hamper is wrapped (R104). -/
def State.hamperKek (s : State) (h : HamperHead) : Option Bytes :=
  if h.isSealed then some (s.sealedKwk h.tenant h.tg) else (s.tenant h.tenant).bind (fun t => t.kwk h.tenant h.wg)

/-- Step 5 of R122: the refusal of a hamper by its tenant's entry. -/
def State.entryRefusal (s : State) (h : HamperHead) : Option Nat :=
  match s.dying h.tenant h.wg with
  | some st => some st
  | none =>
    match s.tenant h.tenant with
    | none => some St.tenantDeleted
    | some t =>
      if t.state ≠ 1 ∧ t.state ≠ 2 ∨ t.tg ≠ h.tg then some St.tenantDeleted
      else if t.state = 2 then some St.tenantLocked
      else if !h.isSealed ∧ (t.position h.wg).isNone then some St.generationRetired
      else none

/-- Steps 3 and 4 of R122 on a hamper's bytes: the header, or HAMPER_STALE or TENANT_DENIED. -/
def State.headCheck (s : State) (inst tenant ref : Nat) (b : Bytes) : Except Nat HamperHead :=
  let h := headOf b
  if h.format ≠ (if (refOf ref).large then 2 else 1) ∨ h.serial % 2 ^ 24 ≠ (refOf ref).lo ∨ h.address ≠ ref then .error St.hamperStale
  else if h.tenant ≠ tenant ∨ !s.bound inst tenant then .error St.tenantDenied
  else .ok h

/-- Steps 5 and 6 of R122 on a header that passed the earlier ones. -/
def State.openRefusal (s : State) (h : HamperHead) : Option Nat :=
  match s.entryRefusal h with
  | some st => some st
  | none => if h.isSealed ∧ h.image ≠ s.imageTag then some St.imageSealStale else none

/-- The device's own request that opens a hamper (`param` 0) or wraps one (1) in a lane, under the KWK derived there (R76, R184, R185). -/
def HamperHead.job (h : HamperHead) (m : Msg) (kwk : Bytes) (param : Nat) (data : Bytes) : Job :=
  { Job.of m true 0x3D (skeCost 0x3D 32 true data.length) with
    tenant := h.tenant, wg := h.wg, param := param, key := kwk, iv := h.parent, aad := h.bytes, data := data, outLen := h.len }

/-- Step 7 of R122, in a lane. Without the released keys nothing opens (R342). -/
def State.unwrapKey (s : State) (m : Msg) (h : HamperHead) (b : Bytes) : State × Except Answer Bytes :=
  if s.is R.mpcWorldStatusKeysLocked then (s, .error (.of St.custodyUnavailable))
  else match s.hamperKek h with
    | none => (s, .error (.of St.storeIntegrity))
    | some w => s.lanePart 1 (h.job m w 0 (slice b 48 h.wrapLen))

/-- The large-hamper cache with a verified page in front; with bank 1 of the secure SRAM withdrawn there is none (R123). -/
def State.keepLarge (s : State) (ref : Nat) (page : Bytes) : State :=
  if bitOf s.pwr.parts.secure 1 then s
  else { s with hs.large := ((ref, page) :: s.hs.large.filter (fun e => e.1 != ref)).take 512 }

/-- Steps 1 to 6 of R122: the header and the hamper's bytes, or a wait or a refusal. A large hamper comes from its cache where it is held
there, and enters it (R123). -/
def State.findHamper (s : State) (m : Msg) : State × Except Answer (HamperHead × Bytes) :=
  match s.storeGate false with
  | some a => (s, .error a)
  | none =>
    let r := refOf m.hamper
    if !s.refOk r then (s, .error (.of St.hamperAddress))
    else
      match (match (if r.large then s.hs.large.find? (fun e => e.1 == m.hamper) else none) with
        | some e => (s, Read.page e.2)
        | none => s.readPage r.page true) with
      | (s1, .wait n) => (s1, .error (.wait n))
      | (s1, .refused st) => (s1, .error (.of st))
      | (s1, .page p) =>
        let b := hamperIn p r
        match s1.headCheck m.inst m.tenant m.hamper b with
        | .error st => (s1, .error (.of st))
        | .ok h =>
          match s1.openRefusal h with
          | some st => (s1, .error (.of st))
          | none => (if r.large then s1.keepLarge m.hamper p else s1, .ok (h, b))

/-- Steps 1 to 7 of R122 on the hamper that a command names. The unwrap uses the tenant's root record (R91). -/
def State.openHamper (s : State) (m : Msg) : State × Except Answer (HamperHead × Bytes) :=
  match s.findHamper m with
  | (s1, .error a) => (s1, .error a)
  | (s1, .ok (h, b)) =>
    match s1.unwrapKey m h b with
    | (s2, .ok key) => (if h.isSealed then s2 else s2.touchRoot h.tenant, .ok (h, key))
    | (s2, .error a) => (s2, .error a)

/-- What a load of an opened small hamper puts into its slot (R122 step 8). -/
def cargoOf (h : HamperHead) (key : Bytes) (ref : Nat) : Cargo :=
  ⟨h.tenant, h.typ, h.curve, h.usage, h.wg, h.pin, h.isSealed, key, ref, h.serial, h.label, 0⟩

/-- The hamper that a command names is loaded (R122): the handle; a large one fills the cache and has none (R123). -/
def State.loadHamper (s : State) (m : Msg) : State × Except Answer Nat :=
  if (refOf m.hamper).large then
    match s.findHamper m with
    | (s1, .error a) => (s1, .error a)
    | (s1, .ok _) => (s1, .ok 0)
  else match s.openHamper m with
  | (s1, .error a) => (s1, .error a)
  | (s1, .ok (h, key)) =>
    if !s1.slotsReady then (s1, .error (.wait [needSlots]))
    else match s1.loadSlot m.inst (cargoOf h key m.hamper) with
      | .ok (s2, handle) => (s2, .ok handle)
      | .error st => (s1, .error (.of st))

/-- An OK answer that names a hamper and a slot. -/
def Answer.named (hamper key : Nat) : Answer := .resp ⟨St.ok, 0, 0, 0, hamper, key, []⟩

/-- A payload of groups 0x02 and 0x03 that carries nothing (R232): LENGTH_INVALID otherwise. -/
def bareRefusal (m : Msg) : Option Answer :=
  match partsOf m with
  | .error r => some (.why St.lengthInvalid r)
  | .ok p =>
    if p.outLen ≠ 0 then some (.why St.lengthInvalid 0)
    else if !p.aux.isEmpty then some (.why St.lengthInvalid 1)
    else if !p.inp.isEmpty then some (.why St.lengthInvalid 0xFF)
    else none

/-- HAMPER_LOAD (R122, R123). -/
def hamperLoad (m : Msg) (s : State) : State × Answer :=
  match bareRefusal m with
  | some a => (s, a)
  | none =>
    match s.loadHamper m with
    | (s1, .ok handle) => (s1, .named m.hamper handle)
    | (s1, .error a) => (s1, a)

/-- SLOT_FREE (R93, R95), a command of the store route (R114, R478): the slot is wiped, once its jobs have ended; another instance
that loaded it is told (R291). -/
def slotFree (m : Msg) (s : State) : State × Answer :=
  match bareRefusal m, s.storeGate false with
  | some a, _ => (s, a)
  | none, some a => (s, a)
  | none, none =>
    let i := m.key % 0x10000
    match look s.keys.slots i with
    | none => (s, .of St.slotStale)
    | some x =>
      if x.doomed ∨ x.epoch ≠ m.key / 0x10000 then (s, .of St.slotStale)
      else if !s.bound m.inst x.tenant then (s, .of St.tenantDenied)
      else match s.dying x.tenant x.wg with
        | some st => (s, .of st)
        | none => (s.freeOrDoom i (x.loader != m.inst), .named 0 m.key)

/-! ### Creating -/

/-- The page at which a new hamper is to stand (R103, R106): HAMPER_ADDRESS where it cannot, its bytes where it can. -/
def State.placement (s : State) (ref0 : Nat) : State × Read :=
  let r := refOf ref0
  match s.storeGate true with
  | some (.wait n) => (s, .wait n)
  | some (.resp x) => (s, .refused x.status)
  | some _ => (s, .refused St.storeUnavailable)
  | none =>
    if !s.refOk r ∨ r.lo ≠ 0 then (s, .refused St.hamperAddress)
    else match s.readForChange r.page with
      | (s1, .page p) => if roomFor p r then (s1, .page p) else (s1, .refused St.hamperAddress)
      | other => other

/-- The hamper that holds `key` under the head `h`, whose WRAP_LEN, IMAGE_TAG, SERIAL and ADDRESS are filled in, wrapped in a lane; one
made under a head that no longer holds is made again. -/
def State.wrapPart (s : State) (m : Msg) (h : HamperHead) (key : Bytes) : State × Except Answer Bytes :=
  let s1 := match s.partOf m.cid 2 with
    | some b => if b.take 48 = h.bytes then s else s.dropPart m.cid 2
    | none => s
  match s1.hamperKek h with
  | none => (s1, .error (.of St.storeIntegrity))
  | some w => s1.lanePart 2 (h.job m w 1 key)

/-- The head of a new hamper for a tenant (R79, R104): under the highest live WG, or sealed. -/
def State.newHead (s : State) (t : Tenant) (tenant ref0 : Nat) (a : Attr) (wg len : Nat) : HamperHead :=
  let serial := s.hs.nextSerial
  ⟨if (refOf ref0).large then 2 else 1, a.flags % 4, tenant, t.tg, if a.sealed then sealedWg else wg, a.typ, a.curve, a.usage, len,
    wrapLenOf len, a.label, if a.sealed then s.imageTag else List.replicate 8 0, serial, ref0 + serial % 2 ^ 24 * 2 ^ 40⟩

/-- A hamper is created for a command in the page `p` at `ref0` (R104, R124): the state with the change made, and the head. -/
def State.createHamper (s : State) (m : Msg) (p : Bytes) (tenant ref0 : Nat) (a : Attr) (key : Bytes) : State × Except Answer HamperHead :=
  match s.tenantRefusal tenant false, s.tenant tenant with
  | some st, _ => (s, .error (.of st))
  | none, none => (s, .error (.of St.tenantAbsent))
  | none, some t =>
    match t.topWg with
    | none => (s, .error (.of St.generationRetired))
    | some wg =>
      if !sizeOk (refOf ref0).large a.typ key.length then (s, .error (.of St.hamperAddress))
      else if t.failed then (s, .error (.of St.storeIntegrity))
      else if s.is R.mpcWorldStatusKeysLocked then (s, .error (.of St.custodyUnavailable))
      else
        let h := s.newHead t tenant ref0 a wg key.length
        match s.wrapPart m h key with
        | (s1, .error e) => (s1, .error e)
        | (s1, .ok b) =>
          ({ s1.touchRoot tenant with hs.nextSerial := s1.hs.nextSerial + 1 }.changePage (refOf ref0).page (putHamper p (refOf ref0) b), .ok h)

/-- A key made by a command goes into a new hamper, and with LOAD into a slot at its commit (R233, log entry 16). -/
def State.keepKey (s : State) (m : Msg) (a : Attr) (key result : Bytes) : State × Answer :=
  match s.placement m.hamper with
  | (s1, .wait n) => (s1, .wait n)
  | (s1, .refused st) => (s1, .of st)
  | (s1, .page p) =>
    match s1.createHamper m p m.tenant m.hamper a key with
    | (s2, .error e) => (s2, e)
    | (s2, .ok h) =>
      let load := if a.load ∧ !(refOf m.hamper).large then some (m.inst, cargoOf h key h.address) else none
      (s2.stageDone ⟨m.cid, ⟨St.ok, 0, 0, 0, h.address, 0, result⟩, load⟩, .staged)

/-! ### Re-wrapping, revoking, reclaiming -/

/-- HAMPER_REWRAP (R127): in place, under the tenant's highest live WG. A SEALED hamper that fails a check of R122 is refused with that
check's status first (DESIGN CHOICE, log entry 113). -/
def hamperRewrap (m : Msg) (s : State) : State × Answer :=
  match bareRefusal m, s.storeGate true with
  | some a, _ => (s, a)
  | none, some a => (s, a)
  | none, none =>
    match s.openHamper m with
    | (s1, .error a) => (s1, a)
    | (s1, .ok (h, key)) =>
      let r := refOf m.hamper
      if h.isSealed then (s1, .of St.notPermitted)
      else match s1.readForChange r.page, (s1.tenant m.tenant).bind (fun t => t.topWg) with
        | (s2, .wait n), _ => (s2, .wait n)
        | (s2, .refused st), _ => (s2, .of st)
        | (s2, .page _), none => (s2, .of St.generationRetired)
        | (s2, .page p), some wg =>
          match s2.wrapPart m { h with wg := wg } key with
          | (s3, .error e) => (s3, e)
          | (s3, .ok b) =>
            let s4 := { s3 with hs.large := s3.hs.large.filter (fun e => e.1 != m.hamper) }
            ((s4.changePage r.page (putHamper p r b)).stageDone ⟨m.cid, ⟨St.ok, 0, 0, 0, m.hamper, 0, []⟩, none⟩, .staged)

/-- A cell is freed in the open batch: its slots are wiped, its cache entry goes (R126). -/
def State.freeCell (s : State) (r : Ref) (p : Bytes) (ref : Nat) : State :=
  let s1 := { s with hs.large := s.hs.large.filter (fun e => e.1 != ref) }.freeSlots (fun x => x.ref == ref)
  s1.changePage r.page (putHamper p r [])

/-- HAMPER_REVOKE (R126). -/
def hamperRevoke (m : Msg) (s : State) : State × Answer :=
  let r := refOf m.hamper
  match bareRefusal m, s.storeGate true with
  | some a, _ => (s, a)
  | none, some a => (s, a)
  | none, none =>
    if !s.refOk r then (s, .of St.hamperAddress)
    else match s.readForChange r.page with
      | (s1, .wait n) => (s1, .wait n)
      | (s1, .refused st) => (s1, .of st)
      | (s1, .page p) =>
        match s1.headCheck m.inst m.tenant m.hamper (hamperIn p r) with
        | .error st => (s1, .of st)
        | .ok h =>
          match s1.dying h.tenant h.wg with
          | some st => (s1, .of st)
          | none => ((s1.freeCell r p m.hamper).stageDone ⟨m.cid, ⟨St.ok, 0, 0, 0, m.hamper, 0, []⟩, none⟩, .staged)

/-- Whether a hamper can no longer open (R128). -/
def State.unopenable (s : State) (h : HamperHead) : Bool :=
  match s.tenant h.tenant with
  | none => true
  | some t =>
    t.state == 3 || (s.dying h.tenant h.wg).isSome || t.tg != h.tg || (!h.isSealed && (t.position h.wg).isNone)
      || (h.isSealed && h.image != s.imageTag)

/-- HAMPER_RECLAIM (R128). -/
def hamperReclaim (m : Msg) (s : State) : State × Answer :=
  let r := refOf m.hamper
  match bareRefusal m, s.storeGate true with
  | some a, _ => (s, a)
  | none, some a => (s, a)
  | none, none =>
    if !s.refOk r then (s, .of St.hamperAddress)
    else match s.readForChange r.page with
      | (s1, .wait n) => (s1, .wait n)
      | (s1, .refused st) => (s1, .of st)
      | (s1, .page p) =>
        match s1.headCheck m.inst m.tenant m.hamper (hamperIn p r) with
        | .error st => (s1, .of st)
        | .ok h =>
          if s1.unopenable h then
            ((s1.freeCell r p m.hamper).stageDone ⟨m.cid, ⟨St.ok, 0, 0, 0, m.hamper, 0, []⟩, none⟩, .staged)
          else (s1, .of St.hamperLive)

/-- The cells of a page that hold hampers. -/
def cellsOf (page : Bytes) : List Ref :=
  if allZero page then []
  else if isLargePage page then [⟨0, 0, true, 0, 0⟩]
  else ((List.range 16).map (fun c => (⟨0, c, false, 0, 0⟩ : Ref))).filter (fun r => !allZero (hamperIn page r))

/-- One page of STORE_RECLAIM_RANGE: the counts of cells freed, pages emptied and cells skipped go up (R128). -/
def State.reclaimPage (s : State) (page : Nat) (p : Bytes) (n : Nat × Nat × Nat) : State × (Nat × Nat × Nat) :=
  let cells := cellsOf p
  let gone := cells.filter (fun r => s.unopenable (headOf (hamperIn p r)))
  let left := gone.foldl (fun b r => putHamper b r []) p
  let s1 := gone.foldl (fun t r =>
    let a := (headOf (hamperIn p r)).address
    { t with hs.large := t.hs.large.filter (fun e => e.1 != a) }.freeSlots (fun x => x.ref == a)) s
  let counts := (n.1 + gone.length, n.2.1 + ofBool (allZero left && !gone.isEmpty), n.2.2 + (cells.length - gone.length))
  if gone.isEmpty then (s, counts) else ((s1.changePage page left).closeIfFull, counts)

/-- The pages of a range are read for a change: the first refusal, else every node still to be fetched, else a page. -/
def State.readRange (s : State) (pages : List Nat) : State × Read :=
  pages.foldl (fun (a : State × Read) p =>
    match a.2, a.1.readForChange p with
    | .refused _, _ => a
    | _, (t, .refused e) => (t, .refused e)
    | .wait js, (t, .wait ks) => (t, .wait (js ++ ks.filter (fun x => !js.contains x)))
    | _, (t, .wait ks) => (t, .wait ks)
    | r, (t, .page _) => (t, r)) (s, .page [])

/-- The pages of a range that has been read are reclaimed one by one. -/
def State.reclaimPages (s : State) (pages : List Nat) : State × (Nat × Nat × Nat) :=
  pages.foldl (fun (a : State × (Nat × Nat × Nat)) p =>
    match a.1.readPage p true with
    | (t, .page b) => t.reclaimPage p b a.2
    | (t, _) => (t, a.2)) (s, (0, 0, 0))

/-- STORE_RECLAIM_RANGE (R128): first page (8), count (2) → three counts of 4 bytes (their width is the model's choice, log
entry 9). -/
def storeReclaimRange (m : Msg) (s : State) : State × Answer :=
  let first := le m.payload 0 8
  let n := le m.payload 8 2
  if m.payloadLen ≠ 10 ∨ n = 0 ∨ n > 4096 then (s, .of St.lengthInvalid)
  else match s.storeGate true with
    | some a => (s, a)
    | none =>
      if first + n > s.storePages then (s, .of St.hamperAddress)
      else
        let pages := (List.range n).map (fun i => first + i)
        match s.readRange pages with
        | (s1, .wait ks) => (s1, .wait ks)
        | (s1, .refused e) => (s1, .of e)
        | (s1, .page _) =>
          let done := s1.reclaimPages pages
          let r := Resp.okay (leBytes 4 done.2.1 ++ leBytes 4 done.2.2.1 ++ leBytes 4 done.2.2.2)
          if done.2.1 = 0 then (done.1, .resp r) else (done.1.stageLast ⟨m.cid, r, none⟩, .staged)

/-! ### Acts on the store -/

/-- STORE_RECHECK (R129): the page's path is fetched again; the marks over it clear if it verifies. -/
def storeRecheck (m : Msg) (s : State) : State × Answer :=
  let page := le m.payload 0 8
  if m.payloadLen ≠ 8 then (s, .of St.lengthInvalid)
  else match s.storeGate false with
    | some a => (s, a)
    | none =>
      if page ≥ s.storePages then (s, .of St.hamperAddress)
      else match s.readPage page false with
        | (s1, .wait n) => (s1, .wait n)
        | (s1, .refused st) => (s1, .of st)
        | (s1, .page _) => (s1.clearMarks page, .of St.ok)

/-- Everything below child (k, i) leaves the caches, and its marks go. -/
def State.forgetSubtree (s : State) (k i : Nat) : State :=
  let below (id : Nat) : Bool := decide (id / 2 ^ 27 ≤ k) && id % 2 ^ 27 / 8 ^ (k - id / 2 ^ 27) == i
  { s with
    hs.pinned := s.hs.pinned.filter (fun e => !below e.1), hs.others := s.hs.others.filter (fun e => !below e.1)
    hs.failed := s.hs.failed.filter (fun f => !(decide (f.1 ≤ k) && f.2 / 8 ^ (k - f.1) == i))
    hs.failed5 := s.hs.failed5.filter (fun j => !(decide (5 ≤ k) && j / 8 ^ (k - 5) == i))
    hs.large := s.hs.large.filter (fun e => (refOf e.1).page / 8 ^ k != i) }.countFailed

/-- STORE_PRUNE (R130): level (1), index (4). Only a subtree marked failed is pruned. -/
def storePrune (m : Msg) (s : State) : State × Answer :=
  let k := le m.payload 0 1
  let i := le m.payload 1 4
  if m.payloadLen ≠ 5 ∨ k > 9 then (s, .of St.lengthInvalid)
  else match s.storeGate true with
    | some a => (s, a)
    | none =>
      if !(s.hs.failed.contains (k, i) || (k == 5 && s.hs.failed5.contains i)) then (s, .of St.notPermitted)
      else
        let page := i * 8 ^ k
        match s.readNodes (.page []) (pathNodes page k) with
        | (s1, .wait n) => (s1, .wait n)
        | (s1, .refused st) => (s1, .of st)
        | (s1, .page _) =>
          let s2 := (s1.openBatch.forgetSubtree k i).retagFrom page k emptyTag
          (s2.countDirty.stageDone ⟨m.cid, Resp.of St.ok, none⟩, .staged)

/-- STORE_ATTACH (R477, R478). A second one starts the indices at 0 and clears STORE_RSP_CONS.DROPPED (DESIGN CHOICE, log entry 65). -/
def storeAttach (m : Msg) (s : State) : State × Answer :=
  let p := m.payload
  let req := le p 0 8
  let rsp := le p 8 8
  let pool := le p 16 8
  let rl := le p 24 1
  let sl := le p 25 1
  let bufs := le p 26 2
  if m.payloadLen ≠ 32 ∨ rl < 4 ∨ rl > 12 ∨ sl < 4 ∨ sl > 12 ∨ bufs < 16 ∨ bufs > 4096 ∨ req % 4096 ≠ 0 ∨ rsp % 4096 ≠ 0
      ∨ pool % 4096 ≠ 0 ∨ le p 28 4 ≠ 0 then (s, .of St.lengthInvalid)
  else
    let again := s.hs.attached
    let s0 := if again then s.abandon St.storeUnavailable else s
    let s1 := { s0 with hs.attached := true, hs.reqs := [], hs.waiting := [], hs.unposted := [], hs.posting := none, hs.nextTag := 0, hs.stuck := false }
    let s2 := ((((s1.put R.storeReqBaseAddr req).put R.storeRspBaseAddr rsp).put R.storePoolBaseAddr pool).put R.storeReqCfgLog2Size
      rl).put R.storeReqCfgBuffers bufs
    let s3 := ((((s2.put R.storeRspCfgLog2Size sl).put R.storeReqProdIndex 0).put R.storeReqConsIndex 0).put R.storeRspProdIndex
      0).put R.storeRspConsIndex 0
    let s4 := (s3.put R.storeRspConsDropped 0).completeAll
      (fun c => c.stage == .route && c.needs.any (fun n => decide (n < needEntropy)) && again) St.storeUnavailable
    (s4.reopen, .of St.ok)

/-- STORE_FORMAT (R115): PAGES_LOG2 (1). The open batch is closed first; the format runs once every batch has ended. -/
def storeFormat (m : Msg) (s : State) : State × Answer :=
  let log2 := le m.payload 0 1
  let epoch := s.get R.keeperStoreEpochRows
  let mine := match s.hs.formatting with | some f => f.1 == m.cid | none => false
  if m.payloadLen ≠ 1 ∨ log2 < 10 ∨ log2 > 30 then (s, .of St.lengthInvalid)
  else if !s.hs.attached then (s, .of St.storeUnavailable)
  else if epoch ≥ 64 then (s, .of St.limitReached)
  else if s.is R.storeStatusReopenWait ∨ (s.hs.formatting.isSome ∧ !mine) then (s, .wait [needStore])
  else if s.keys.idSeeds.isEmpty then (s, .of St.custodyUnavailable)
  else if !s.hs.batches.isEmpty then ({ s with hs.formatting := some (m.cid, log2, epoch) }.closeBatch, .wait [needStore])
  else
    let s1 := { s with hs.formatting := none }.writeFormat (epoch + 1) log2 (s.opIdOf m)
    let s2 := (s1.put R.keeperStoreEpochRows (epoch + 1)).setStk.formatRecord log2
    (s2.zeroFormat.reopen, .of St.ok)

/-! ### Rotation (R195) and the usage limit (R193) -/

/-- NONCE_LIMIT_SET (R193): the limit of one loaded slot goes down; above the tenant's default it is that default. -/
def nonceLimitSet (m : Msg) (s : State) : State × Answer :=
  match partsOf m with
  | .error r => (s, .why St.lengthInvalid r)
  | .ok p =>
    if p.outLen ≠ 0 then (s, .why St.lengthInvalid 0)
    else if !p.aux.isEmpty then (s, .why St.lengthInvalid 1)
    else if p.inp.length ≠ 4 ∨ le p.inp 0 4 = 0 then (s, .why St.lengthInvalid 0xFF)
    else match s.handleCheck m.inst m.key uEncrypt with
      | .error st => (s, .of st)
      | .ok (i, x) =>
        (s.lowerLimit i (min (le p.inp 0 4) (lookD s.keys.limits x.tenant (2 ^ 32))), .named x.ref m.key)

/-- The opcode by which the model runs a rotation as a command of the custody firmware's own. -/
def rotateOp : Nat := 0xFFF1

/-- The first page from `p` on, of at most `fuel`, with a free cell: its number, its bytes and the cell (the choice of the
successor's place is the model's, log entry 8). -/
def State.findCell (s : State) (p : Nat) : Nat → State × Except (List Nat) (Nat × Nat × Bytes)
  | 0 => (s, .error [])
  | fuel + 1 =>
    if p ≥ s.storePages then (s, .error [])
    else match s.readForChange p with
      | (s1, .wait n) => (s1, .error n)
      | (s1, .refused _) => s1.findCell (p + 1) fuel
      | (s1, .page b) =>
        match (if isLargePage b then none else (List.range 16).find? (fun c => allZero (slice b (256 * c) 256))) with
        | some c => (s1, .ok (p, c, b))
        | none => s1.findCell (p + 1) fuel

/-- The successor of the key in a slot, derived in a lane (R195 step 1). -/
def State.successor (s : State) (m : Msg) (x : Slot) : State × Except Answer Bytes :=
  s.lanePart 4 { Job.of m true 0x3C (skeCost 0x3C x.keyLen true x.cells.length) with
    tenant := x.tenant, wg := x.wg, slots := [m.key], extra := beBytes 8 x.serial ++ beBytes 4 (x.rotation + 1), outLen := x.cells.length }

/-- The rotation of the slot that `m.key` names: the successor in a new hamper and a slot, linked once its batch commits. -/
def rotateKey (m : Msg) (s : State) : State × Answer :=
  let i := m.key % 0x10000
  match look s.keys.slots i with
  | none => (s, .of St.slotStale)
  | some x =>
    if x.doomed ∨ x.epoch ≠ m.key / 0x10000 then (s, .of St.slotStale)
    else if x.ref = 0 ∧ x.serial = 0 then (s.rotateFailed i x, .of St.hamperAddress)
    else match s.storeGate true with
      | some (.wait n) => (s, .wait n)
      | some a => (s.rotateFailed i x, a)
      | none =>
        match s.findCell (refOf x.ref).page 64 with
        | (s1, .error []) => (s1.rotateFailed i x, .of St.hamperAddress)
        | (s1, .error n) => (s1, .wait n)
        | (s1, .ok (page, cell, b)) =>
          if !s1.slotsReady then (s1, .wait [needSlots])
          else
            let a : Attr := ⟨x.typ, 0, x.usage, x.cells.length, ofBool x.isSealed, x.label, 0, 0⟩
            match s1.successor m x with
            | (s2, .error e) => (s2, e)
            | (s2, .ok k) =>
              match s2.createHamper m b x.tenant (page + cell * 2 ^ 30) a k with
              | (s3, .error (.resp r)) => (s3.rotateFailed i x, .resp r)
              | (s3, .error e) => (s3, e)
              | (s3, .ok h) =>
                match s3.loadSlot x.loader { cargoOf h k h.address with serial := x.serial, rotation := x.rotation + 1 } with
                | .error st => (s2.rotateFailed i x, .of st)
                | .ok (s4, handle) =>
                  let s5 := s4.onOpen (fun y => { y with links := y.links ++ [(i, x.epoch, handle, x.rotation + 1)] })
                  (s5.stageDone ⟨m.cid, ⟨St.ok, 0, 0, x.rotation + 1, h.address, handle, []⟩, none⟩, .staged)

end Sys2Proof.Machine
end

