-- ==== Sys2Proof/Machine/KeyActs.lean ====
section
/-! DEFINITION. Making and moving keys: attribute blocks (R233), secrets and where they go (R234), KEY_GENERATE, KEY_IMPORT,
KEY_EXPORT and KEY_PUBLIC_GET (R235), the attestation key (R100), curves (R153 to R156) and microcode (R142 to R145). -/

namespace Sys2Proof.Machine

/-! ### Attribute blocks (Table CM.4, Table CM.4a) -/

/-- The usage bits that a TYPE may have (Table CM.4a); `none` for no TYPE of Table KH.10. -/
def usageMask (typ : Nat) : Option Nat :=
  if typ = 1 ∨ typ = 2 ∨ typ = 3 then some 0x10F3
  else if typ = 4 then some 0x1003 else if typ = 5 then some 0x1030 else if typ = 6 then some 0x1100
  else if typ = 0x10 then some 0x120C else if typ = 0x11 ∨ typ = 0x12 ∨ typ = 0x21 then some 0x100C
  else if typ = 0x13 ∨ typ = 0x14 ∨ typ = 0x41 then some 0x1200
  else if typ = 0x20 then some 0x1800 else if typ = 0x40 then some 0x100F else if typ = 0x42 then some 0x1804
  else none

/-- A usage combination that R233 or Table CM.4a rules out. -/
def usageClash (a : Attr) : Bool :=
  (a.sealed && bitOf a.usage uExport) || (bitOf a.usage uSign && (bitOf a.usage uAgree || bitOf a.usage uDecrypt))
    || (a.typ == 0x42 && bitOf a.usage uSign && bitOf a.usage uDecaps)

/-- SIZE against TYPE (Table CM.4, Table KH.10). -/
def State.attrSizeOk (s : State) (a : Attr) : Bool :=
  if a.typ = 0x40 then a.size % 64 == 0 && decide (2048 ≤ a.size ∧ a.size ≤ 8192)
    && (a.exponent == 0 || (a.exponent % 2 == 1 && decide (3 ≤ a.exponent)))
  else if a.typ = 0x41 then a.size % 64 == 0 && decide (2048 ≤ a.size ∧ a.size ≤ 8192)
  else if a.typ = 0x42 then decide (0 < a.size ∧ a.size ≤ 4024)
  else keyLenOk s a.typ a.curve a.size

/-- The refusal of an attribute block (R233): a curve first, then KEY_ATTRIBUTES. -/
def State.attrRefusal (s : State) (a : Attr) : Option Nat :=
  match usageMask a.typ with
  | none => some St.keyAttributes
  | some mask =>
    if a.zeros ≠ 0 ∨ a.flags ≥ 8 ∨ a.usage ||| mask ≠ mask ∨ usageClash a ∨ (a.typ ≠ 0x10 ∧ a.curve ≠ 0)
        ∨ (a.load ∧ largeType a.typ) then some St.keyAttributes
    else
      match (if a.typ = 0x10 then s.curve a.curve else .ok p256) with
      | .error st => some st
      | .ok _ => if s.attrSizeOk a then none else some St.keyAttributes

/-- An attribute item: LENGTH_INVALID with the item's position unless it is 32 bytes. -/
def State.attrItem (s : State) (b : Bytes) (pos : Nat) : Except Answer Attr :=
  if b.length ≠ 32 then .error (.why St.lengthInvalid pos)
  else match s.attrRefusal (attrOf b) with
    | some st => .error (.of st)
    | none => .ok (attrOf b)

/-! ### Jobs and what they gave -/

/-- A yield as an answer: its status, REASON, INFO, public result and slot, and the hamper that was used. -/
def Yield.answer (y : Yield) (hamper : Nat) : Answer := .resp ⟨y.status, y.reason, 0, y.info, hamper, y.key, y.out⟩

/-- The slot of KEY2 as a wrapping key (R234, R235, R178 step 3). -/
def State.kek (s : State) (m : Msg) (usage : Nat) : Except Nat Slot :=
  match s.handleCheck m.inst m.key2 usage with
  | .error st => .error st
  | .ok (_, x) => if algType 0x08 x.typ then .ok x else .error St.keyUsage

/-- The device's own request that wraps a blob (`param` 1) or opens one (0) by AES-KWP: under the key given, or under KEY2. -/
def blobJob (m : Msg) (param wg : Nat) (key data : Bytes) : Job :=
  { Job.of m true 0x08 (skeCost 0x08 32 true data.length) with
    param := param, wg := wg, slots := if key.isEmpty then [m.key2] else [], key := key, data := data }

/-! ### Secrets (R234) -/

/-- The secret of a command goes where DEST says, beside the public result `pub`: into a slot, into a new hamper, or to the host
under KEY2. -/
def State.deliver (s : State) (m : Msg) (a : Option Attr) (pub sec : Bytes) : State × Answer :=
  let dest := m.param % 4
  if dest = 0 then
    match s.tenantRefusal m.tenant false, (s.tenant m.tenant).bind (fun t => t.topWg) with
    | some st, _ => (s, .of st)
    | none, none => (s, .of St.generationRetired)
    | none, some wg =>
      let b := a.getD ⟨6, 0, 2 ^ uDerive, sec.length, 0, 0, 0, 0⟩
      if sec.isEmpty ∨ sec.length > 128 ∨ (a.isSome ∧ !keyLenOk s b.typ b.curve sec.length) then (s, .of St.keyAttributes)
      else if a.isSome ∧ !keyValid s b.typ b.curve sec then (s, .of St.keyInvalid)
      else if s.is R.mpcWorldStatusKeysLocked then (s, .of St.custodyUnavailable)
      else if !s.slotsReady then (s, .wait [needSlots])
      else match s.loadSlot m.inst ⟨m.tenant, b.typ, b.curve, b.usage, if b.sealed then sealedWg else wg, b.pin, b.sealed, sec, 0, 0,
          b.label, 0⟩ with
        | .ok (s1, handle) => (s1, .resp ⟨St.ok, 0, 0, 0, 0, handle, pub⟩)
        | .error st => (s, .of st)
  else if dest = 1 then
    match a with
    | none => (s, .why St.lengthInvalid 2)
    | some b =>
      if !keyLenOk s b.typ b.curve sec.length then (s, .of St.keyAttributes)
      else if !keyValid s b.typ b.curve sec then (s, .of St.keyInvalid)
      else s.keepKey m b sec pub
  else
    match s.kek m uWrap with
    | .error st => (s, .of st)
    | .ok x =>
      if x.tenant ≠ m.tenant then (s, .of St.tenantDenied)
      else match s.lanePart 3 (blobJob m 1 x.wg [] sec) with
        | (s1, .error e) => (s1, e)
        | (s1, .ok b) => (s1, .okay (pub ++ b))

/-! ### KEY_GENERATE -/

/-- Random bytes of a symmetric key of a TYPE, `none` for an asymmetric one. -/
def symmetricLen (a : Attr) : Option Nat := if a.typ ≤ 6 then some a.size else none

/-- The PKE program that makes a key of a TYPE (Table PK.4). -/
def keygenProgram (typ : Nat) : Option Nat :=
  if typ = 0x10 then some 0x03 else if typ = 0x11 then some 0x0A else if typ = 0x12 then some 0x0E else if typ = 0x13 then some 0x10
  else if typ = 0x14 then some 0x11 else if typ = 0x20 then some 0x28 else if typ = 0x21 then some 0x30
  else if typ = 0x40 then some 0x1C else if typ = 0x41 then some 0x21 else none

/-- The head of Table PK.6 with the given group, for FFDH_KEYGEN; a missing group gives none. -/
def ffdhHead (a : Attr) (p g q : Bytes) : Option Bytes :=
  let qb := 8 * q.length
  let xb := if qb = 0 then a.size else 64 * ((qb + 63) / 64)
  if p.length ≠ a.size / 8 ∨ g.length ≠ p.length ∨ !ffdhSizesOk a.size qb xb then none
  else some (leBytes 2 a.size ++ leBytes 2 qb ++ leBytes 2 xb ++ leBytes 2 0 ++ p ++ g ++ q)

/-- The keygen job of an attribute block. -/
def State.keygenJob (s : State) (m : Msg) (a : Attr) (prog : Nat) (head : Bytes) : Job :=
  let set := setOf m.param
  let size := if prog = 0x28 ∨ prog = 0x30 then set else a.size
  { Job.of m false prog (runTime s prog a.curve size 0 0) with
    curve := a.curve, curves := (s.withCurves (Job.of m false prog 0) [a.curve]).curves, priv := true, draws := true, own := true
    data := head, param := if prog = 0x1C then a.size else m.param, outLen := if prog = 0x1C then a.exponent else 0 }

/-- KEY_GENERATE (R185, R233): a symmetric key from the DRBG, an asymmetric one from a keygen program; the public key is the
result. PARAM [3:2] is the parameter set of TYPE 0x20 and 0x21. -/
def keyGenerate (m : Msg) (s : State) : State × Answer :=
  match partsOf m with
  | .error r => (s, .why St.lengthInvalid r)
  | .ok p =>
    if m.alg ≠ 0 ∨ m.param ||| 0xC ≠ 0xC ∨ setOf m.param > 2 ∨ p.outLen ≠ 0 then (s, .why St.lengthInvalid 0)
    else if !p.inp.isEmpty then (s, .why St.lengthInvalid 0xFF)
    else match s.attrItem (p.item 0) 1 with
      | .error a => (s, a)
      | .ok a =>
        let group := p.item 1 ++ p.item 2 ++ p.item 3
        if p.aux.length > 4 then (s, .why St.lengthInvalid 5)
        else if a.typ ≠ 0x41 ∧ !group.isEmpty then (s, .why St.lengthInvalid 2)
        else if a.typ = 0x42 ∨ (a.typ = 0x40 ∧ a.size % 1024 ≠ 0) then (s, .of St.keyAttributes)
        else if a.typ = 0x41 ∧ (ffdhHead a (p.item 1) (p.item 2) (p.item 3)).isNone then (s, .why St.lengthInvalid 2)
        else match s.tenantRefusal m.tenant false with
          | some st => (s, .of st)
          | none =>
            match s.placement m.hamper with
            | (s1, .wait n) => (s1, .wait n)
            | (s1, .refused st) => (s1, .of st)
            | (s1, .page _) =>
              if largeType a.typ ≠ (refOf m.hamper).large then (s1, .of St.hamperAddress)
              else match symmetricLen a, keygenProgram a.typ, s1.gotOf m.cid with
                | _, _, some y => s1.keepKey m a y.secret y.out
                | some n, _, none =>
                  if !s1.canDraw then (s1, .wait [needEntropy])
                  else
                    let (s2, k) := s1.draw n
                    (s2.setGot m.cid (Yield.keep [] k)).keepKey m a k []
                | none, some prog, none =>
                  if !s1.hasProgram prog then (s1, .of St.programAbsent)
                  else (s1.submitPke (s1.keygenJob m a prog ((ffdhHead a (p.item 1) (p.item 2) (p.item 3)).getD [])), .engine)
                | none, none, none => (s1, .of St.keyAttributes)

/-! ### KEY_IMPORT, KEY_EXPORT (R235) -/

/-- The KEK of the hybrid transport (R186, R235): two-step derivation from both secrets. -/
def hybridKek (kem ecdh attr : Bytes) : Bytes :=
  counterKdf Config.hmac384 48 (Config.hmac384 (List.replicate 48 0) (kem ++ ecdh)) (ascii "FV64-TRANSPORT") attr 256

/-- What a hybrid transport starts with for a recipient's ML-KEM-768 encapsulation key and P-384 point: the ciphertext, the device's
ephemeral point and the hybrid KEK; or the refusal of the recipient's keys, or a wait for the DRBG. -/
def State.hybridStart (s : State) (ek point attr : Bytes) : State × Except Answer Bytes :=
  if !kemKeyOk ek 1152 then (s, .error (.why St.inputRejected 9))
  else match p384.decode point with
    | .error r => (s, .error (.why St.inputRejected r))
    | .ok _ =>
      if !s.canDraw then (s, .error (.wait [needEntropy]))
      else
        let (s1, r) := s.draw 96
        let seed := r.take 32
        let d := beBytes 48 (p384.scalarOf (r.drop 32))
        let ct := (List.range 1088).map (Config.kemCtByte 1 ek seed)
        let kem := (List.range 32).map (Config.kemKeyByte 1 ek seed)
        match p384.agree Blind.none d point with
        | .error e => (s1, .error (.why St.inputRejected e))
        | .ok ecdh => (s1, .ok (ct ++ p384.public Blind.none d ++ hybridKek kem ecdh attr))

/-- A blob made for a recipient (Table CM.5a, export): the ciphertext, the point and the blob, wrapped in a lane under the hybrid KEK. -/
def State.hybridSeal (s : State) (m : Msg) (ek point attr blob : Bytes) : State × Except Answer Bytes :=
  let start := match s.partOf m.cid 5 with
    | some x => (s, Except.ok x)
    | none => s.hybridStart ek point attr
  match start with
  | (s1, .error e) => (s1, .error e)
  | (s1, .ok x) =>
    match (s1.setPart m.cid 5 x).lanePart 3 (blobJob m 1 sealedWg (x.drop 1185) blob) with
    | (s2, .error e) => (s2, .error e)
    | (s2, .ok b) => (s2, .ok (x.take 1185 ++ b))

/-- The blob of a hybrid transport opened by keys that the custody firmware holds itself, `none` where its integrity check fails, or the
reason the sender's point is refused. -/
def State.hybridOpen (s : State) (m : Msg) (kemKey scalar body attr : Bytes) : State × Except Answer Bytes :=
  let kem := latticeOut 0x2A 1 32 true kemKey (body.take 1088) []
  match p384.agree Blind.none scalar (slice body 1088 97) with
  | .error r => (s, .error (.why St.inputRejected r))
  | .ok ecdh => s.lanePart 3 (blobJob m 0 sealedWg (hybridKek kem ecdh attr) (body.drop 1185))

/-- A private-key job of the device's own under the slot that a handle names, for a part of a command. -/
def slotJob (s : State) (m : Msg) (prog handle : Nat) (x : Slot) (param : Nat) (peer : Bytes) : Job :=
  s.withCurves { Job.of m false prog (runTime s prog x.curve (setOf param) 0 0) with
    curve := x.curve, param := param, wg := x.wg, slots := [handle], priv := true, aad := peer } [x.curve]

/-- A hybrid transport opened (Table CM.5a, import): the two secrets come from PKE jobs under the slots of KEY and KEY2, and the blob is
opened in a lane. -/
def State.openHybrid (s : State) (m : Msg) (x y : Slot) (body attr : Bytes) : State × Except Answer Bytes :=
  match s.pkePart 6 (slotJob s m 0x2A m.key x 4 (body.take 1088)) with
  | (s1, .error e) => (s1, .error e)
  | (s1, .ok kem) =>
    match s1.pkePart 7 (slotJob s1 m 0x04 m.key2 y 0 (slice body 1088 97)) with
    | (s2, .error e) => (s2, .error e)
    | (s2, .ok ecdh) => s2.lanePart 3 (blobJob m 0 x.wg (hybridKek kem ecdh attr) (body.drop 1185))

/-- A transport item opened (Table CM.5a): attribute block ‖ key bytes, or the refusal. `attr` is the command's block, the
context of the hybrid KEK. -/
def State.openTransport (s : State) (m : Msg) (item attr : Bytes) (pos : Nat) : State × Except Answer Bytes :=
  let body := item.drop 8
  if item.length < 8 ∨ !allZero (slice item 1 7) then (s, .error (.why St.lengthInvalid pos))
  else if le item 0 1 = 1 then
    match s.kek m uUnwrap with
    | .error st => (s, .error (.of st))
    | .ok x => s.lanePart 3 (blobJob m 0 x.wg [] body)
  else if le item 0 1 = 2 then
    if body.length ≤ 1185 then (s, .error (.why St.lengthInvalid pos))
    else match s.handleCheck m.inst m.key uDecaps, s.handleCheck m.inst m.key2 uAgree with
      | .error st, _ => (s, .error (.of st))
      | _, .error st => (s, .error (.of st))
      | .ok (_, x), .ok (_, y) =>
        if x.typ ≠ 0x20 ∨ y.typ ≠ 0x10 ∨ y.curve ≠ 1 then (s, .error (.of St.keyUsage)) else s.openHybrid m x y body attr
  else (s, .error (.why St.lengthInvalid pos))

/-- The key inside a transport blob, held against the command's block (R235): TYPE, CURVE and SIZE equal, USAGE a subset; then
R152. -/
def transported (a : Attr) (blob : Bytes) : Except Nat Bytes :=
  let inner := attrOf (padTo 32 blob)
  let key := blob.drop 32
  if blob.length < 33 ∨ inner.typ ≠ a.typ ∨ inner.curve ≠ a.curve ∨ inner.size ≠ a.size ∨ a.usage ||| inner.usage ≠ inner.usage then
    .error St.keyAttributes
  else .ok key

/-- Whether a composite key's components allow its usage (Table CM.4a, R151). -/
def compositeUsageOk (a : Attr) (key : Bytes) : Bool :=
  a.typ != 0x42 ||
    match componentsOf key with
    | none => false
    | some cs => (!bitOf a.usage uSign || cs.all signComponent) && (!bitOf a.usage uDecaps || cs.all kemComponent)

/-- Whether the bytes of a key agree with SIZE of its block. -/
def keySizeOk (a : Attr) (key : Bytes) : Bool :=
  if a.typ = 0x40 ∨ a.typ = 0x41 then le key 0 2 == a.size else key.length == a.size

/-- The program whose job validates an imported key of a TYPE (R152): the one that uses such a key. The manual gives the validation job
no program ID (DESIGN CHOICE, log entry 107); a symmetric key has nothing to validate. -/
def importProgram (typ usage : Nat) : Option Nat :=
  if typ = 0x10 then some 0x05 else if typ = 0x11 then some 0x08 else if typ = 0x12 then some 0x0C else if typ = 0x13 then some 0x10
  else if typ = 0x14 then some 0x11 else if typ = 0x20 then some 0x2A else if typ = 0x21 then some 0x31 else if typ = 0x40 then some 0x18
  else if typ = 0x41 then some 0x20 else if typ = 0x42 then some (if bitOf usage uSign then 0x38 else 0x39) else none

/-- The validation job of an imported key (R152): it carries the key, its TYPE and its curves. -/
def State.validation (s : State) (m : Msg) (a : Attr) (prog : Nat) (key : Bytes) : Job :=
  s.withCurves { Job.of m false prog (runTime s prog a.curve (if a.typ = 0x40 ∨ a.typ = 0x41 then a.size else 0) 0 0) with
    validate := true, own := true, priv := true, param := a.typ, curve := a.curve, key := key } (handlesOf a.typ a.curve key)

/-- The key of an import: held against its block, validated, kept. -/
def State.importKey (s : State) (m : Msg) (a : Attr) (key : Bytes) : State × Answer :=
  if a.typ < 0x10 ∧ !keyLenOk s a.typ a.curve key.length then (s, .of St.keyInvalid)
  else if !compositeUsageOk a key ∨ !keySizeOk a key then (s, .of St.keyAttributes)
  else if largeType a.typ ≠ (refOf m.hamper).large then (s, .of St.hamperAddress)
  else match s.gotOf m.cid, s.storeGate true, importProgram a.typ a.usage with
    | some _, _, _ => s.keepKey m a key []
    | none, some e, _ => (s, e)
    | none, none, none => s.keepKey m a key []
    | none, none, some prog =>
      match s.handleRefusal (handlesOf a.typ a.curve key) with
      | some st => (s, .of st)
      | none => if !s.hasProgram prog then (s, .of St.programAbsent) else (s.submitPke (s.validation m a prog key), .engine)

/-- KEY_IMPORT (R235): the key is held against its block, then validated by a PKE job (R152), then wrapped. -/
def keyImport (m : Msg) (s : State) : State × Answer :=
  match partsOf m with
  | .error r => (s, .why St.lengthInvalid r)
  | .ok p =>
    if m.alg ≠ 0 ∨ m.param ≠ 0 ∨ p.outLen ≠ 0 then (s, .why St.lengthInvalid 0)
    else if !p.inp.isEmpty then (s, .why St.lengthInvalid 0xFF)
    else match s.attrItem (p.item 0) 1 with
      | .error a => (s, a)
      | .ok a =>
        if p.aux.length > 2 then (s, .why St.lengthInvalid 3)
        else match s.openTransport m (p.item 1) (p.item 0) 2 with
          | (s1, .error e) => (s1, e)
          | (s1, .ok blob) =>
            match transported a blob with
            | .error st => (s1, .of st)
            | .ok key => s1.importKey m a key

/-- The attribute block that an export carries: the header's fields; SIZE is the modulus or PBITS of a large key. -/
def exportAttr (h : HamperHead) (key : Bytes) : Attr :=
  ⟨h.typ, h.curve, h.usage, if h.typ = 0x40 ∨ h.typ = 0x41 then le key 0 2 else h.len, h.flags, h.label,
    if h.typ = 0x40 then ((rsaOf key).map (fun k => k.e % 2 ^ 32)).getD 0 else 0, 0⟩

/-- KEY_EXPORT (R235): the hamper's key under KEY2, or under a hybrid KEK made for the recipient. -/
def keyExport (m : Msg) (s : State) : State × Answer :=
  match partsOf m with
  | .error r => (s, .why St.lengthInvalid r)
  | .ok p =>
    let item := p.item 0
    let kind := le item 0 1
    if m.alg ≠ 0 ∨ m.param ≠ 0 ∨ p.outLen ≠ 0 then (s, .why St.lengthInvalid 0)
    else if !p.inp.isEmpty then (s, .why St.lengthInvalid 0xFF)
    else if p.aux.length > 1 then (s, .why St.lengthInvalid 2)
    else if item.length < 8 ∨ !allZero (slice item 1 7) ∨ !((kind = 1 ∧ item.length = 8) ∨ (kind = 2 ∧ item.length = 1289)) then
      (s, .why St.lengthInvalid 1)
    else match s.openHamper m with
      | (s1, .error a) => (s1, a)
      | (s1, .ok (h, key)) =>
        let attr := (exportAttr h key).bytes
        if !bitOf h.usage uExport then (s1, .of St.keyUsage)
        else if kind = 1 then
          match s1.kek m uWrap with
          | .error st => (s1, .of st)
          | .ok x =>
            match s1.lanePart 3 (blobJob m 1 x.wg [] (attr ++ key)) with
            | (s2, .error e) => (s2, e)
            | (s2, .ok out) => (s2, .resp ⟨St.ok, 0, 0, 0, m.hamper, 0, out⟩)
        else
          match s1.hybridSeal m (slice item 8 1184) (slice item 1192 97) attr (attr ++ key) with
          | (s2, .error a) => (s2, a)
          | (s2, .ok out) => (s2, .resp ⟨St.ok, 0, 0, 0, m.hamper, 0, out⟩)

/-! ### KEY_PUBLIC_GET -/

/-- The key that KEY or HAMPER names, with its TYPE and CURVE (Table CM.6): by its slot where KEY is not 0. -/
def State.namedKey (s : State) (m : Msg) : State × Except Answer (Nat × Nat × Bytes × List Nat) :=
  if m.key ≠ 0 then
    match look s.keys.slots (m.key % 0x10000) with
    | none => (s, .error (.of St.slotStale))
    | some x =>
      if x.doomed ∨ x.epoch ≠ m.key / 0x10000 then (s, .error (.of St.slotStale))
      else if !s.bound m.inst x.tenant then (s, .error (.of St.tenantDenied))
      else match s.dying x.tenant x.wg with
        | some st => (s, .error (.of st))
        | none => (s, .ok (x.typ, x.curve, s.slotKey (m.key % 0x10000), [m.key]))
  else match s.openHamper m with
    | (s1, .error a) => (s1, .error a)
    | (s1, .ok (h, key)) => (s1, .ok (h.typ, h.curve, key, []))

/-- The program that makes the public key of a private key of a TYPE: EC_PUBLIC, and for the types that Table PK.4 gives no such
program the one that generates their pairs (DESIGN CHOICE, log entry 107); the other keys hold theirs. -/
def publicProgram (typ : Nat) : Option Nat := if typ = 0x10 then some 0x05 else if typ < 0x40 then keygenProgram typ else none

/-- KEY_PUBLIC_GET: a PKE job makes the public key of a small key; a symmetric key has none. -/
def keyPublicGet (m : Msg) (s : State) : State × Answer :=
  match bareRefusal m with
  | some a => (s, a)
  | none =>
    match s.namedKey m with
    | (s1, .error a) => (s1, a)
    | (s1, .ok (typ, curve, key, slots)) =>
      if typ < 0x10 then (s1, .of St.keyUsage)
      else match publicProgram typ with
        | none => (s1, .resp ⟨St.ok, 0, 0, 0, m.hamper, m.key, publicKey s1 typ curve m.param key⟩)
        | some prog =>
          match s1.handleRefusal (handlesOf typ curve []), s1.gotOf m.cid with
          | some st, _ => (s1, .of st)
          | none, some y => (s1, y.answer m.hamper)
          | none, none =>
            if !s1.hasProgram prog then (s1, .of St.programAbsent)
            else
              (s1.submitPke (s1.withCurves { Job.of m false prog (runTime s1 prog curve (setOf m.param) 0 0) with
                curve := curve, param := m.param, priv := true, slots := slots, key := if slots.isEmpty then key else [] } [curve]), .engine)

/-! ### The attestation key (R100) -/

/-- The attestation key in the device entry of a table set (R100): under the key of table P where it is held, which leaves no older
entry otherwise, and under `kf` in table F. -/
def State.putAttKey (s : State) (set : Option Nat) (kp : TableSet → Option Bytes) (kf key : Bytes) : State :=
  match set with
  | none => s
  | some a =>
    let x := s.tableSet a
    s.setTableSet a { x with
      p := match kp x with
        | some k => store x.p 4096 (deviceEntry k x.tagP key)
        | none => drop x.p 4096
      f := store x.f 4096 (deviceEntry kf x.tagF key) }

/-- ATTESTATION_KEY_PROVISION (R100, R235): the payload is a transport item; the key, TYPE 0x05 of 48 bytes, goes into the
device entry of every table a key is held for. -/
def attestationKeyProvision (m : Msg) (s : State) : State × Answer :=
  if m.payloadLen < 9 ∨ m.payload.length < m.payloadLen then (s, .of St.lengthInvalid)
  else if s.is R.bootStatusRootsUnmatched then (s, .of St.notPermitted)
  else
    let want : Attr := ⟨5, 0, 0, 48, 0, 0, 0, 0⟩
    match s.openTransport m (m.payload.take m.payloadLen) want.bytes 0 with
    | (s0, .error e) => (s0, e)
    | (s0, .ok blob) =>
      match transported want blob with
      | .error st => (s0, .of st)
      | .ok key =>
        if key.length ≠ 48 then (s0, .of St.keyAttributes)
        else
          let s1 := s0.putAttKey s0.keys.active (fun x => x.keyP s0.keys.dmk s0.keys.dmkd) s0.keys.dmkd key
          let s2 := s1.putAttKey s1.keys.staged (fun _ => some s1.keys.nextDmk) s1.keys.nextDmkd key
          ({ s2 with keys.attKey := key }, .of St.ok)

/-! ### Curves (R153 to R156) -/

/-- The curve record that bytes spell (Table PK.9a): `none` where its lengths or zero fields are wrong. R155 names no status for a wrong
FORMAT, a nonzero HANDLE or reserved byte, or a PBITS out of range: LENGTH_INVALID (DESIGN CHOICE, log entry 108). -/
def curveOf (b : Bytes) : Option Curve :=
  let c := curveParams b
  if b.length < 16 ∨ le b 0 1 ≠ 1 ∨ le b 1 1 ≠ 0 ∨ c.pbits < 192 ∨ c.pbits > 1024 ∨ le b 5 3 ≠ 0 ∨ b.length ≠ 17 + 6 * c.plen then none
  else some ⟨c.pbits, c.h, le b 8 8, c.p, c.a, c.b, c.gx, c.gy, c.n, []⟩

/-- The handle of a curve with the same parameters, built in or loaded and not retired (R155 check 10). -/
def State.duplicateCurve (s : State) (c : Curve) : Option Nat :=
  let same (x : CurveP) : Bool :=
    x.pbits == c.pbits && x.h == c.h && x.p == c.p && x.a == c.a && x.b == c.b && x.gx == c.gx && x.gy == c.gy && x.n == c.n
  (List.range 64).find? (fun h => match s.curve h with | .ok x => same x | .error _ => false)

/-- The lowest free handle of the loadable ones (R153). -/
def State.freeHandle (s : State) : Option Nat :=
  (List.range 64).find? (fun h => decide (6 ≤ h) && !bitOf (s.get R.pkeCurveMapLoaded) h && !bitOf (s.get R.pkeCurveRetiredRetired) h)

/-- CURVE_CHECK has run: the conditions 1 to 9 are its program's, DUPLICATE is held against the table; a curve that passes gets the
lowest free handle (R153, R155). -/
def State.settleCurve (s : State) (c : Curve) (reason : Nat) : State × Answer :=
  if reason ≠ 0 then (s, .why St.curveRejected reason)
  else match s.duplicateCurve c, s.freeHandle with
    | some h, _ => (s, .resp ⟨St.curveRejected, 10, 0, 0, 0, 0, leBytes 1 h⟩)
    | none, none => (s, .of St.limitReached)
    | none, some h =>
      let s1 := { s with eng.curves := store s.eng.curves h { c with mac := Config.cmac s.keys.stk (c.bytes h) } }
      (s1.putBit R.pkeCurveMapLoaded h true, .okay (leBytes 1 h))

/-- CURVE_LOAD (R153 to R155): → handle (1). CURVE_CHECK is a PKE job. -/
def curveLoad (m : Msg) (s : State) : State × Answer :=
  match curveOf (m.payload.take m.payloadLen) with
  | none => (s, .of St.lengthInvalid)
  | some c =>
    if s.keys.stk.isEmpty then (s, .of St.storeUnavailable)
    else match s.gotOf m.cid with
      | some y => s.settleCurve c y.reason
      | none =>
        if !s.hasProgram 0x3C then (s, .of St.programAbsent)
        else
          (s.submitPke { Job.of m false 0x3C (runTime s 0x3C 0 c.pbits 0 0) with
            own := true, draws := true, data := m.payload.take m.payloadLen }, .engine)

/-- CURVE_RETIRE (R156). -/
def curveRetire (m : Msg) (s : State) : State × Answer :=
  let h := le m.payload 0 1
  if m.payloadLen ≠ 1 then (s, .of St.lengthInvalid)
  else if h < 6 then (s, .of St.notPermitted)
  else if h < 64 ∧ bitOf (s.get R.pkeCurveRetiredRetired) h then (s, .of St.curveRetired)
  else if h ≥ 64 ∨ !bitOf (s.get R.pkeCurveMapLoaded) h then (s, .of St.curveUnknown)
  else
    let s1 := { s with eng.curves := drop s.eng.curves h }
    (((s1.putBit R.pkeCurveMapLoaded h false).putBit R.pkeCurveRetiredRetired h true).freeSlots
      (fun x => x.typ == 0x10 && x.curve == h), .of St.ok)

/-! ### Microcode (R142 to R145) -/

/-- The program IDs of a body's program table (Table PK.2), and whether its zero bytes are zero and its IDs differ. -/
def programsOf (body : Bytes) (n : Nat) : List Nat := (List.range n).map (fun i => le body (8 * i) 1)
def programTableOk (body : Bytes) (n : Nat) : Bool :=
  (List.range n).all (fun i => le body (8 * i + 1) 3 == 0) && decide (programsOf body n).Nodup

/-! ### One copy fails its check word (R20, R143) -/

/-- Whether the digest-table entry of a package holds its CRC in a table. -/
def packageHolds (m : Amap Package) (id : Nat) : Bool := (look m id).any (fun p => p.crc == Config.crc32c (p.body id))

/-- An entry whose CRC fails in one bank is replaced by the other bank's copy, with a SOFT fault that names the bank (R143). -/
def State.mendPackage (s : State) (id : Nat) : State :=
  match look s.eng.packages id, look s.eng.packages1 id with
  | some p, some q =>
    if s.pwr.parts.mram ≠ 0 ∨ packageHolds s.eng.packages id = packageHolds s.eng.packages1 id then s
    else if packageHolds s.eng.packages id then { s with eng.packages1 := store s.eng.packages1 id p }.soft (locM 0xF 30 1) 0x0E 0
    else { s with eng.packages := store s.eng.packages id q }.soft (locM 0xF 30 0) 0x0E 0
  | _, _ => s

/-- Every entry of the digest table. -/
def State.mendPackages (s : State) : State := [1, 2, 3, 4].foldl (fun t id => t.mendPackage id) s

/-! ### Packages -/

/-- The programs of the installed packages other than `id`, and the bytes of their bodies. -/
def State.otherPrograms (s : State) (id : Nat) : List Nat := ((s.activeBodies.filter (fun x => x.1 != id)).map (·.2)).flatten
def State.otherBytes (s : State) (id : Nat) : Nat := (s.eng.packages.filter (fun x => x.1 != id)).foldl (fun a x => a + x.2.bodyLen) 0

/-- A package in the package buffer (Table PK.2) that R142 accepts, with its ID and body, or its refusal. A body that would take the
clusters beyond 32,768 bytes (R141) is refused as the others are: the manual names no status (DESIGN CHOICE, log entry 108). -/
def State.packageOf (s : State) (b : Bytes) : Except Nat (Nat × Package × PkgBody) :=
  let id := le b 6 1
  let len := le b 12 4
  let n := le b 10 2
  let body := slice b 128 len
  let programs := programsOf body n
  if b.take 4 ≠ ascii "QPKM" ∨ le b 4 2 ≠ 1 ∨ id = 0 ∨ id > 4 ∨ le b 7 1 ≠ 0 ∨ n = 0 ∨ n > 64 ∨ len % 16 ≠ 0 ∨ len < 64 ∨ len > 32768
      ∨ !allZero (slice b 64 64) ∨ 8 * n > len ∨ !programTableOk body n ∨ s.otherBytes id + len > 32768 then .error St.packageInvalid
  else if !Config.makerSigOk (slice b 0 (128 + len)) (slice b (128 + len) 96) (slice b (224 + len) 3309) then .error St.packageInvalid
  else if Config.sha384 body ≠ slice b 16 48 ∨ programs.any (fun i => (s.otherPrograms id).contains i) then .error St.packageInvalid
  else
    let new (copy : Nat) : Nat × Package × PkgBody := (id, Package.mk' id (le b 8 2) len (slice b 16 48) copy, ⟨body, programs⟩)
    match look s.eng.packages id with
    | some x => if le b 8 2 < x.version then .error St.versionTooLow else .ok (new (1 - x.copy))
    | none => .ok (new 0)

/-- A package is installed (R143): its body in the idle copy, then its entry in bank 0 and in bank 1. -/
def State.installPackage (s : State) (id : Nat) (p : Package) (b : PkgBody) : State :=
  { s with
    eng.bodies := store s.eng.bodies (2 * id + p.copy) b
    eng.packages := store s.eng.packages id p
    eng.packages1 := store s.eng.packages1 id p }.putBit R.pkePackagesActive (id - 1) true

/-- MICROCODE_INSTALL (R142, R143, R145): the package staged in the package buffer; the roll begins on every cluster that is
loaded, and idle ones reload at once, no more than four at a time; one that tests itself loads again first. -/
def microcodeInstall (m : Msg) (s : State) : State × Answer :=
  if m.payloadLen ≠ 0 then (s, .of St.lengthInvalid)
  else match s.packageOf s.life.pkgBuffer with
    | .error st => (s, .of st)
    | .ok (id, p, b) =>
      let s1 := (s.installPackage id p b).logAdd 0x45 0xFFFF 0xFFFF (leBytes 1 id ++ leBytes 2 p.version)
      let s2 := (List.range 16).foldl (fun t n => if t.clusterState n = 2 then t.reloadCluster n else t) s1
      let loaded := (List.range 16).filter (fun n => let st := s2.clusterState n; st == 3 || st == 4 || st == 5)
      let s3 := loaded.foldl (fun t n => t.setCluster n { t.cluster n with roll := setBit (t.cluster n).roll (id - 1) true }) s2
      ((s3.rollNext 16).showRolling, .of St.ok)

end Sys2Proof.Machine
end

