-- ==== Sys2Proof/Machine/Life.lean ====
section
/-! DEFINITION. Life cycle, debug levels, limited-change settings, firmware banks, the configuration block and the service of
clusters, lanes, pairs, ports and sensors (chapter 15). Boot is in Boot. -/

namespace Sys2Proof.Machine

/-! ### OTP rows (R399, R400) -/

/-- How the keeper classes a state row or a completion row. -/
inductive RowClass where
  | blank | torn | burned
  deriving DecidableEq, Repr

/-- The class of a 32-bit row (R400). -/
def rowClass (w : Nat) : RowClass :=
  if popcount 32 w ≥ 24 then .burned else if popcount 32 w ≤ 4 then .blank else .torn

/-- Every bit of a row programmed. -/
def burnedRow : Nat := 0xFFFFFFFF

/-- An intent row: the from-state and the target, each followed by its complement; a byte each (log entry 33). -/
def intentRow (from_ to_ : Nat) : Nat := from_ + 2 ^ 8 * (255 - from_) + 2 ^ 16 * to_ + 2 ^ 24 * (255 - to_)

/-- The transition that an intent row names; `none` where it is TORN. -/
def intentOf (w : Nat) : Option (Nat × Nat) :=
  if field w 0 8 + field w 8 8 = 255 ∧ field w 16 8 + field w 24 8 = 255 then some (field w 0 8, field w 16 8) else none

/-- Rows from state `a` + 1 to state `b` burned (row k stands at position k − 1). -/
def burnRows (rows : List Nat) (a b : Nat) : List Nat := rows.mapIdx (fun i w => if a ≤ i ∧ i < b then burnedRow else w)

/-- Intent rows used. -/
def State.intentsUsed (s : State) : Nat := s.life.intents.countP (fun w => rowClass w != .blank)

/-- LIFE_STATE and DEV_STATUS.LIFE show what the rows say. -/
def State.showLife (s : State) (state : Nat) (torn : Bool) : State :=
  let rows := (s.life.stateRows.mapIdx (fun i w => if rowClass w = .burned then 2 ^ i else 0)).foldl (· + ·) 0
  ((((s.put R.lifeStateState state).putB R.lifeStateTorn torn).put R.lifeStateRows rows).put R.lifeStateIntents s.intentsUsed).setDev
    R.devStatusLife state

/-- The keeper settles the state at a start (R400). TORN stays shown once it was found. -/
def State.settleLife (s : State) : State :=
  let cls := s.life.stateRows.map rowClass
  let count := cls.countP (· == .burned)
  let torn := cls.any (· == .torn) || (cls.take count).any (· != .burned)
  let n := if torn then 4 else count
  let done := match s.life.intents.reverse.find? (fun w => rowClass w != .blank) with
    | some w => match intentOf w with
      | some (a, b) =>
        if b = n ∧ 0 < n ∧ rowClass (s.life.doneRows.getD (n - 1) 0) = .blank then
          s.life.doneRows.mapIdx (fun i x => if a ≤ i ∧ i < n ∧ rowClass x = .blank then burnedRow else x)
        else s.life.doneRows
      | none => s.life.doneRows
    | none => s.life.doneRows
  let rows := if torn then burnRows s.life.stateRows 0 4 else s.life.stateRows
  { s with life.stateRows := rows, life.doneRows := done }.showLife n (torn || s.is R.lifeStateTorn)

/-- The keeper's sample of HOLDUP_SENSE (R402). -/
def State.holdup (s : State) : Bool := s.is R.sysPinsHoldup

/-- The refusal where the sample is low (R402, R407). -/
def holdupLow : Resp := Resp.why St.lifecycleForbidden 3

/-! ### Wrong tokens and credentials (R398) -/

/-- The REASON with which a command is refused unchecked, with `f` failures counted and the last at tick `at_`. -/
def State.backoff (s : State) (f at_ : Nat) : Option Nat :=
  if f ≥ 16 then some 0x23
  else if f ≠ 0 ∧ s.tick < at_ + 10 * cyclesPerMs * 2 ^ f then some 0x22
  else none

/-- A wrong token, and a wrong debug credential, is counted. -/
def State.tokenFailed (s : State) : State :=
  { s with life.tokenFailAt := s.tick }.put R.lifeDebugTokenFails (saturate 16 (s.get R.lifeDebugTokenFails + 1))
def State.credentialFailed (s : State) : State :=
  { s with life.pwFailAt := s.tick }.put R.lifeDebugPwFails (saturate 16 (s.get R.lifeDebugPwFails + 1))

/-! ### LIFECYCLE_TRANSITION (R396 to R403) -/

/-- Table LC.2. -/
def transitionOk (a b : Nat) : Bool :=
  (a == 0 && b == 1) || (a == 1 && b == 2) || ((a == 1 || a == 2) && b == 3) || (decide (a ≤ 3) && b == 4)

/-- Whether the token alone approves (Table LC.2, R363). -/
def State.tokenAlone (s : State) (b : Nat) : Bool :=
  let a := s.get R.devStatusLife
  a == 0 || a == 3 || (a == 2 && s.is R.keeperTamperStateShredded && (b == 3 || b == 4))

/-- The conditions of R250 for FIELDED. -/
def State.fieldedReady (s : State) : Bool :=
  deviceClasses.all (fun c => decide (2 ≤ (s.policy c 0).m) && decide ((s.policy c 0).m ≤ popcount 16 (s.eligible c 0)))
    && s.quorum.portA.paired && s.quorum.portB.paired && [7, 10, 12, 13].all (fun c => s.hasPad (s.eligible c 0))

/-- The configuration with every main response raised to its class minimum (R354, R401). -/
def State.raisedCfg (s : State) : CfgBlock :=
  { s.life.cfg with responses := s.life.cfg.responses.mapIdx (fun i r => (max r.1 (s.get (R.keeperRespMin i)), r.2)) }

/-- The keeper raises every main response below its class minimum (R354). -/
def State.raiseResponses (s : State) : State :=
  (List.range 27).foldl (fun t n => t.put (R.keeperRespMain n) (max (t.get (R.keeperRespMain n)) (t.get (R.keeperRespMin n)))) s

/-- A life-cycle restart or a live update is under way. -/
def State.busyLife (s : State) : Bool := s.life.underway || s.life.updating.isSome

/-- The keeper refuses the keys that an act needs; the manual names no status for it (log entry 34). -/
def keeperRefused : Resp := Resp.of St.custodyUnavailable

/-- The tables staged for FIELDED (R89, R401): `none` where the keeper refuses. -/
def State.stageFielded (s : State) : Option State :=
  match s.stageSets s.life.imageDigest s.raisedCfg.digest 2 true (s.get R.lifeSecurityRunning) with
  | (_, false) => none
  | (s1, true) => some s1

/-- The raised block goes to MRAM as its state's row is burned: until then the old block and the active set stand (R89). -/
def State.fieldCfg (s : State) : State :=
  let c := s.raisedCfg
  { s with life.cfg := c, life.cfgStored := c, life.cfgMac := c.mac s.keys.nextDmk, life.cfgDigest := c.digest }

/-- The life-cycle restart (Table LC.4 step 10): G0–G7 are reset and Trailhead is to run. -/
def State.lifeRestart (s : State) : State :=
  let s1 := (List.range 8).foldl (fun t g => t.regionReset g) s.debugClose
  (({ s1 with life.underway := true }.setDev R.devStatusBoot 0).setMailboxes 3).noteHealth

/-- The next intent row is burned (R400). -/
def State.burnIntent (s : State) (a b : Nat) : State :=
  { s with life.intents := s.life.intents.set s.intentsUsed (intentRow a b) }

/-- The burns of a transition from `a` to `b` and what the keeper does with them (R394, R401, R354). -/
def State.burnTransition (s0 : State) (a b : Nat) : State :=
  let s := (if b = 2 then s0.fieldCfg else s0).burnIntent a b
  let s1 := { s with
    life.stateRows := burnRows s.life.stateRows a b
    life.doneRows := burnRows s.life.doneRows a b }
  let s2 := s1.settleLife.logAdd 0x40 0xFFFF 0xFFFF (leBytes 1 a ++ leBytes 1 b ++ leBytes 2 b)
  let s3 := if b = 2 then s2.raiseResponses else if b ≥ 3 then s2.shredRs else s2
  s3.put R.keeperTamperStateShredded 0

/-- A state row whose burn was cut: half its bits read 1, so it is TORN (log entry 33). -/
def tornRow : Nat := 0xFFFF

/-- The main supplies fail while a transition runs (R403). `cut` says how far its burns had come: 0 none, 1 the intent row, 2 the
state row that the burn was in, 3 the state rows and not the completion. -/
def State.cutTransition (s : State) (cut : Nat) : State :=
  match s.life.updating with
  | some (_, .transition a b) =>
    if cut = 0 then s
    else if cut = 1 then s.burnIntent a b
    else
      let s1 := (if b = 2 then s.fieldCfg else s).burnIntent a b
      if cut = 2 then { s1 with life.stateRows := s1.life.stateRows.set a tornRow }
      else { s1 with life.stateRows := burnRows s1.life.stateRows a b }
  | _ => s

/-- The queues are quiesced for a transition (Table LC.4 steps 5 to 10): the intent row is burned and HOLDUP_SENSE sampled again. Where
it is low the transition stops, its intent row consumed (R402); else its rows are burned, its command is answered and the
restart begins. -/
def State.runTransition (s0 : State) (cid a b : Nat) : State :=
  let s := { s0 with life.updating := none }
  if s.holdup then ((s.burnTransition a b).complete cid (Resp.of St.ok)).lifeRestart
  else ((s.dropStaged.burnIntent a b).complete cid holdupLow)

/-- The first refusal of a transition: R398, then the order of R397, then the first sample of R402. A released act arrived with its
submission, so R398 looks at it no more. -/
def State.transitionRefusal (s : State) (m : Msg) : Option (Bool × Resp) :=
  let b := le m.payload 0 1
  if m.payloadLen ≠ 40 ∨ le m.payload 1 7 ≠ 0 then some (false, Resp.of St.lengthInvalid)
  else match (if (look s.quorum.acting m.cid).isSome then none else s.backoff (s.get R.lifeDebugTokenFails) s.life.tokenFailAt) with
    | some why => some (false, Resp.why St.tokenInvalid why)
    | none =>
      if !transitionOk (s.get R.devStatusLife) b then some (false, Resp.why St.lifecycleForbidden 1)
      else if some (Config.sha384 (slice m.payload 8 32)) ≠ s.life.tokens[b - 1]? then some (true, Resp.why St.tokenInvalid 0x20)
      else if b = 2 ∧ !s.fieldedReady then some (false, Resp.why St.lifecycleForbidden 2)
      else if s.busyLife then some (false, Resp.why St.lifecycleForbidden 4)
      else if s.intentsUsed ≥ 16 then some (false, Resp.of St.limitReached)
      else if !s.holdup then some (false, holdupLow)
      else none

/-- LIFECYCLE_TRANSITION (R397 to R403): the checks, the first sample and the staging; the burns wait for the queues to be quiesced. -/
def lifecycleTransition (m : Msg) (s : State) : State × Answer :=
  match s.transitionRefusal m with
  | some (counts, r) => (if counts then s.tokenFailed else s, .resp r)
  | none =>
    let a := s.get R.devStatusLife
    let b := le m.payload 0 1
    match (if b = 2 then s.stageFielded else some s) with
    | none => (s, .resp keeperRefused)
    | some s1 => ({ s1 with life.updating := some (m.cid, .transition a b) }, .engine)

/-! ### Debug levels (R404 to R406) -/

/-- The highest level that a state allows (Table LC.1). -/
def maxLevel (life : Nat) : Nat := if life = 0 ∨ life = 3 then 3 else if life = 4 then 0 else 2

/-- A level opens: DEBUG_LEVEL is recorded. -/
def State.openLevel (s : State) (level : Nat) : State :=
  { s.put R.lifeDebugLevel level with worlds.debugSeen := false }.logAdd 0x42 0xFFFF 0xFFFF (leBytes 1 level ++ [1])

/-- The challenge is used or has expired. -/
def State.useChallenge (s : State) : State := { s with life.challenge := [] }.put R.lifeDebugChallenge 0

/-- Whether a password matches the digest in force (R405). -/
def State.passwordOk (s : State) (pw : Bytes) : Bool :=
  match s.life.passwords.getLast? with
  | some d => (Config.sha384 (padTo 8 s.life.serial ++ pw)).take 32 == d
  | none => false

/-- Whether a public key and signature open a level under a challenge (R406). -/
def State.debugSigOk (s : State) (level : Nat) (key sig : Bytes) : Bool :=
  (match s.life.debugKeys.getLast? with | some d => (Config.sha384 key).take 32 == d | none => false)
    && ecOk key (Config.sha384 (ascii "FV64-DEBUG" ++ padTo 8 s.life.serial ++ s.life.challenge ++ leBytes 1 level)) sig

/-- Whether opening a level needs the DEBUG class (Table LC.5). -/
def State.debugQuorum (s : State) (level : Nat) : Bool :=
  level == 2 && (s.get R.devStatusLife == 1 || s.get R.devStatusLife == 2)

/-- The credential of Table LC.5 is checked: the state with its failure counted and its challenge consumed, and the refusal. -/
def State.checkCredential (s : State) (level : Nat) (cred : Bytes) : State × Option Resp :=
  let life := s.get R.devStatusLife
  if life = 0 ∨ (life = 3 ∧ level = 1) then (s, if cred.isEmpty then none else some (Resp.of St.lengthInvalid))
  else
    let pw := level = 1
    let n := le cred 0 1
    if (pw ∧ (n < 8 ∨ n > 64 ∨ cred.length ≠ 1 + n)) ∨ (¬pw ∧ cred.length ≠ 193) then (s, some (Resp.of St.lengthInvalid))
    else match s.backoff (s.get R.lifeDebugPwFails) s.life.pwFailAt with
      | some why => (s, some (Resp.why St.tokenInvalid why))
      | none =>
        if pw then
          if s.passwordOk (cred.drop 1) then (s, none) else (s.credentialFailed, some (Resp.why St.tokenInvalid 0x21))
        else if s.life.challenge.isEmpty then (s, some (Resp.why St.tokenInvalid 0x24))
        else if s.debugSigOk level (cred.take 97) (cred.drop 97) then (s.useChallenge, none)
        else (s.useChallenge.credentialFailed, some (Resp.why St.tokenInvalid 0x21))

/-- DEBUG_OPEN (R404 to R406). A released act has passed its check at submission, which consumed its challenge. -/
def debugOpen (m : Msg) (s : State) : State × Resp :=
  let level := le m.payload 0 1
  let cred := (m.payload.take m.payloadLen).drop 4
  if m.payloadLen < 4 ∨ le m.payload 1 3 ≠ 0 ∨ (level = 0 ∧ !cred.isEmpty) then (s, Resp.of St.lengthInvalid)
  else if level = 0 then (s.debugClose, Resp.of St.ok)
  else if level > maxLevel (s.get R.devStatusLife) then (s, Resp.of St.lifecycleForbidden)
  else if (look s.quorum.acting m.cid).isSome then (s.openLevel level, Resp.of St.ok)
  else match s.checkCredential level cred with
    | (s1, some r) => (s1, r)
    | (s1, none) => (s1.openLevel level, Resp.of St.ok)

/-- DEBUG_CHALLENGE_GET (R406). -/
def debugChallengeGet (m : Msg) (s : State) : State × Answer :=
  if m.payloadLen ≠ 0 then (s, .of St.lengthInvalid)
  else if !s.canDraw then (s, .wait [needEntropy])
  else
    let (s1, c) := s.draw 32
    ({ s1 with life.challenge := c }.put R.lifeDebugChallenge 1, .okay c)

/-- DEBUG_CHALLENGE_EXPIRY (R406): 60 s have passed. -/
def execDebugChallengeExpiry (s : State) : Host.Outcome State Fault Refusal := .next s.useChallenge

/-! ### Limited-change settings (R407, R408) -/

/-- The refusal of a limited change whose counter `f` has reached `n`, then of a low sample. -/
def State.limitRefusal (s : State) (f : Fld) (n : Nat) : Option Resp :=
  if s.get f ≥ n then some (Resp.of St.limitReached) else if !s.holdup then some holdupLow else none

/-- DEBUG_PASSWORD_SET (R405): a 32-byte digest. -/
def debugPasswordSet (m : Msg) (s : State) : State × Resp :=
  if m.payloadLen ≠ 32 then (s, Resp.of St.lengthInvalid)
  else match s.limitRefusal R.lifeLimits0Password 8 with
    | some r => (s, r)
    | none => ({ s with life.passwords := s.life.passwords ++ [padTo 32 m.payload] }.limitUsed R.lifeLimits0Password 3, Resp.of St.ok)

/-- DEBUG_KEY_SET (R406): a 97-byte public key, whose digest is burned. -/
def debugKeySet (m : Msg) (s : State) : State × Resp :=
  if m.payloadLen ≠ 97 then (s, Resp.of St.lengthInvalid)
  else match s.limitRefusal R.lifeLimits0DebugKey 4 with
    | some r => (s, r)
    | none =>
      let d := (Config.sha384 (padTo 97 m.payload)).take 32
      ({ s with life.debugKeys := s.life.debugKeys ++ [d] }.limitUsed R.lifeLimits0DebugKey 4, Resp.of St.ok)

/-- MAINS_NOMINAL_SET (R313). -/
def mainsNominalSet (m : Msg) (s : State) : State × Resp :=
  let hz := le m.payload 0 1
  if m.payloadLen ≠ 1 ∨ (hz ≠ 50 ∧ hz ≠ 60) then (s, Resp.of St.lengthInvalid)
  else match s.limitRefusal R.lifeLimits0Nominal 4 with
    | some r => (s, r)
    | none =>
      let s1 := { s with life.nominals := s.life.nominals ++ [hz] }.limitUsed R.lifeLimits0Nominal 2
      ((((s1.put R.compassStatusNominal (if hz = 60 then 2 else 1)).put R.compassStatusChanges (s1.get R.lifeLimits0Nominal)).put
        R.compassStatusAligned 0).put R.compassStatusAnchorHeld 0, Resp.of St.ok)

/-- The firmware bank in MRAM bank `n` (R20, R409). -/
def bankBase (n : Nat) : Nat := 0x20000000 + 0x1000000 * n
def State.bankBytes (s : State) (n off len : Nat) : Bytes := readBytes s.mem (bankBase n + off) len
def bankVersion (n : Nat) : Fld := if n = 0 then R.lifeBanksVersionA else R.lifeBanksVersionB

/-- FLOOR_RAISE (R408, R88). -/
def floorRaise (m : Msg) (s : State) : State × Resp :=
  let f := le m.payload 0 2
  if m.payloadLen ≠ 2 then (s, Resp.of St.lengthInvalid)
  else if f ≤ s.get R.lifeSecurityFloor then (s, Resp.of St.versionTooLow)
  else if f > s.get R.lifeSecurityRunning then (s, Resp.of St.notPermitted)
  else match s.limitRefusal R.lifeLimits0Floor 256 with
    | some r => (s, r)
    | none =>
      let s1 := { s with life.floors := s.life.floors ++ [f] }.limitUsed R.lifeLimits0Floor 1
      let s2 := (s1.put R.lifeSecurityFloor f).zeroPrevious f
      ([0, 1].foldl (fun t n => if t.get (bankVersion n) < f then t.put (bankVersion n) 0 else t) s2, Resp.of St.ok)

/-! ### The configuration block (R413, R414) -/

/-- A key entry's value: KIND and a 16-byte digest, or zeros for none. -/
def keyEntryOk (v : Bytes) (kinds : List Nat) : Bool := allZero v || kinds.contains (le v 0 1)
def keyEntry (v : Bytes) : Bytes := if allZero v then [] else v

/-- The anchor keys that a block holds (R306). -/
def CfgBlock.anchors (c : CfgBlock) : List (Nat × Bytes) :=
  ([c.anchor0, c.anchor1].filter (fun a => !a.isEmpty)).map (fun a => (le a 0 1, a.drop 1))

/-- The block with a field set; `none` for an unknown field, a wrong length or a value out of range (Table LC.9). -/
def CfgBlock.set (c : CfgBlock) (id : Nat) (v : Bytes) : Option CfgBlock :=
  if id = 1 then (if v.length = 2 ∧ le v 0 2 ≤ 3072 then some { c with nwPages := le v 0 2 } else none)
  else if id = 2 then (if v.length = 17 ∧ keyEntryOk v [1] then some { c with nwKey := keyEntry v } else none)
  else if id = 3 then (if v.length = 17 ∧ keyEntryOk v [1, 2] then some { c with anchor0 := keyEntry v } else none)
  else if id = 4 then (if v.length = 17 ∧ keyEntryOk v [1, 2] then some { c with anchor1 := keyEntry v } else none)
  else if id = 5 then (if v.length = 1 ∧ le v 0 1 ≤ 1 then some { c with fallback := le v 0 1 } else none)
  else none

/-- What takes effect at once with a block: the anchor keys, and BOOT_FALLBACK through the selector (R410, R414). -/
def State.cfgInForce (s : State) : State :=
  let c := s.life.cfg
  let s1 := { s with compass.anchorKeys := c.anchors }
  if s1.life.selFallback = c.fallback then s1
  else { s1 with life.selFallback := c.fallback, life.selSeq := s1.life.selSeq + 1 }

/-- CONFIG_SET (R414). -/
def configSet (m : Msg) (s : State) : State × Resp :=
  let v := (m.payload.take m.payloadLen).drop 4
  if m.payloadLen < 4 ∨ le m.payload 2 2 ≠ v.length then (s, Resp.of St.lengthInvalid)
  else match s.life.cfg.set (le m.payload 0 2) v with
    | none => (s, Resp.of St.lengthInvalid)
    | some c =>
      if s.busyLife then (s, Resp.why St.lifecycleForbidden 4)
      else match s.putCfg c with
        | (_, false) => (s, keeperRefused)
        | (s1, true) => (s1.cfgInForce, Resp.of St.ok)

/-! ### Staging and live update (R415, R416) -/

/-- `bs` with `v` written at `off`. -/
def patch (bs : Bytes) (off : Nat) (v : Bytes) : Bytes := bs.take off ++ v ++ bs.drop (off + v.length)

/-- FIRMWARE_STAGE (R415): into the idle bank, or with bit 31 of OFFSET into the package buffer. -/
def firmwareStage (m : Msg) (s : State) : State × Resp :=
  let off := le m.payload 0 4 % 2 ^ 31
  let chunk := (m.payload.take m.payloadLen).drop 4
  let pkg := bitOf (le m.payload 0 4) 31
  if m.payloadLen < 5 ∨ chunk.length > 4000 ∨ off + chunk.length > (if pkg then 40960 else 0xB00000) then (s, Resp.of St.lengthInvalid)
  else if s.busyLife then (s, Resp.of St.notPermitted)
  else if pkg then ({ s with life.pkgBuffer := patch (padTo 40960 s.life.pkgBuffer) off chunk }, Resp.of St.ok)
  else
    let n := 1 - s.get R.bootStatusBank
    let s1 := if off = 0 then s.clearMem (bankBase n) 4096 else s
    ((s1.writeMem (bankBase n + off) chunk).put (bankVersion n) 0, Resp.of St.ok)

/-- A bank header (Table LC.7). -/
structure BankHead where
  version : Nat
  custodyLen : Nat
  nwLen : Nat
  digest : Bytes
  nwDigest : Bytes
  resident : Nat
  deriving DecidableEq, Repr

/-- The header that 4,096 bytes spell. -/
def bankHeadOf (h : Bytes) : BankHead := ⟨le h 6 2, le h 8 4, le h 12 4, slice h 16 48, slice h 64 48, le h 112 4⟩

/-- The header of bank `n`. -/
def State.bankHead (s : State) (n : Nat) : BankHead := bankHeadOf (s.bankBytes n 0 4096)

/-- Whether a header keeps the form of Table LC.7 and the sizes of R409. -/
def bankFormOk (h : Bytes) : Bool :=
  let b := bankHeadOf h
  h.take 4 == ascii "QFWB" && le h 4 2 == 1 && b.custodyLen % 4096 == 0 && decide (0 < b.custodyLen ∧ b.custodyLen ≤ 4864 * 1024)
    && b.nwLen % 4096 == 0 && decide (b.nwLen ≤ 3 * 1024 * 1024) && b.resident % 4096 == 0 && decide (b.resident ≤ 786432)
    && decide (b.resident ≤ b.custodyLen ∧ b.custodyLen - b.resident ≤ 4096 * 1024) && allZero (slice h 116 12) && allZero (slice h 3533 51) && allZero (slice h 3680 416)

/-- Whether the digests of a bank match its contents. -/
def State.bankDigestsOk (s : State) (n : Nat) : Bool :=
  let b := s.bankHead n
  Config.sha384 (s.bankBytes n 4096 b.custodyLen) == b.digest
    && (b.nwLen == 0 || Config.sha384 (s.bankBytes n (4096 + b.custodyLen) b.nwLen) == b.nwDigest)

/-- Whether NW_SIG verifies under NW_IMAGE_KEY; with no key held it does not. -/
def State.nwSigOk (s : State) (h : Bytes) : Bool :=
  !s.life.cfg.nwKey.isEmpty
    && ecOk (s.life.cfg.nwKey.drop 1) (Config.sha384 (slice h 64 48 ++ ascii "FV64-NW")) (slice h 3584 96)

/-- The refusal of the idle bank (R410, R416). -/
def State.bankRefusal (s : State) (n : Nat) : Option Nat :=
  let h := s.bankBytes n 0 4096
  let b := bankHeadOf h
  if !bankFormOk h ∨ !s.bankDigestsOk n ∨ !Config.makerSigOk (h.take 128) (slice h 128 96) (slice h 224 3309)
      ∨ (s.get R.devStatusLife = 2 ∧ b.nwLen ≠ 0 ∧ !s.nwSigOk h) then some St.packageInvalid
  else if b.version < s.get R.lifeSecurityFloor then some St.versionTooLow
  else none

/-- Steps 6 to 8 of Table KH.7, 4 to 6 of Table LC.10: the open batch closes, the outgoing keys and the sealed slots are wiped, the
application cores are held, and the idle bank's image is in place, measured again. -/
def State.leaveImage (s : State) (n : Nat) : State :=
  let s1 := (s.closeBatch.freeSlots (fun x => x.isSealed)).silence nwInst 1
  let s2 := { s1.idleMbox nwInst 0 with
    keys.dmk := [], keys.dmkd := [], keys.sealRoot := [], keys.nextDmk := [], keys.nextDmkd := []
    life.imageDigest := Config.sha384 (s.bankBytes n 4096 (s.bankHead n).custodyLen) }
  s2.put R.keeperDeriveStatusProspective 0

/-- Steps 9 and 10: the incoming firmware found its table set; it is the image that runs, and the selector and the log say so. -/
def State.enterImage (s : State) (n set : Nat) : State :=
  let old := s.get R.lifeSecurityRunning
  let v := (s.bankHead n).version
  let s1 := if s.keys.staged = some set then { s with keys.active := some set, keys.staged := none }
    else { s with keys.staged := none }.openTable set false
  let s2 := { s1.put R.bootStatusNwHeld 0 with life.selActive := n, life.selTrial := none, life.selSeq := s1.life.selSeq + 2 }
  (((s2.put R.bootStatusBank n).put R.lifeSecurityRunning v).put (bankVersion n) v).logAdd 0x44 0xFFFF 0xFFFF
    (leBytes 2 old ++ leBytes 2 v ++ s2.life.imageDigest.take 8)

/-- R89: no set matches at step 9. The device restarts on the outgoing image: TRIAL has failed (R410), and what was staged is dropped. -/
def State.returnImage (s : State) (digest : Bytes) : State :=
  let s1 := { s with keys.staged := none, life.imageDigest := digest, life.selTrial := none, life.selSeq := s.life.selSeq + 2 }
  (s1.put R.bootStatusTrialFailed 1).regionReset 5

/-- The live update of bank `n` runs to its end (Tables KH.7 and LC.10, R89, R416): with the keys that the keeper releases for the
incoming image, tag P of a set matches, or the device goes back. -/
def State.switchImage (s : State) (cid n : Nat) : State :=
  let s1 := { s.leaveImage n with life.updating := none }
  let s2 := s1.releaseKeys (s1.life.romMeasured == s1.life.romDigest) true s1.keeper.session (s1.bankHead n).version
  match (if s2.is R.keeperDeriveStatusReleased then s2.bestSet s2.matchP else none) with
  | some set => (s2.enterImage n set).complete cid (Resp.of St.ok)
  | none => (s2.complete cid (Resp.why St.packageInvalid 0x10)).returnImage s.life.imageDigest

/-- The queues are quiesced: the update or the transition that waited for it runs. -/
def State.runChange (s : State) : State :=
  match s.life.updating with
  | some (cid, .update n) => s.switchImage cid n
  | some (cid, .transition a b) => s.runTransition cid a b
  | none => s

/-- FIRMWARE_ACTIVATE (R416, R86): the idle bank is verified and the tables are staged; the switch waits for the queues to be
quiesced. -/
def firmwareActivate (m : Msg) (s : State) : State × Answer :=
  let n := 1 - s.get R.bootStatusBank
  if m.payloadLen ≠ 0 then (s, .of St.lengthInvalid)
  else if s.busyLife then (s, .why St.lifecycleForbidden 4)
  else match s.bankRefusal n with
    | some st => (s, .of st)
    | none =>
      let b := s.bankHead n
      match s.stageSets b.digest s.life.cfgDigest (s.get R.devStatusLife) true b.version with
      | (_, false) => (s, .why St.packageInvalid 0x10)
      | (s1, true) => ({ s1 with life.updating := some (m.cid, .update n) }, .engine)

/-! ### Service (R417 to R419) -/

/-- The parts that CLUSTER_SERVICE names. -/
inductive Part where
  | cluster (n : Nat)
  | lane (n : Nat)
  | pair (n : Nat)
  | region (n : Nat)
  | port (n : Nat)
  | sensor (die n : Nat)
  deriving DecidableEq, Repr

/-- The part of this device that a 5-byte location names (Table FL.3). -/
def State.partAt (s : State) (b : Bytes) : Option Part :=
  let die := le b 1 1
  let g := le b 2 1
  let c := le b 3 1
  let u := le b 4 1
  if le b 0 1 ≠ s.get R.ferryStatusSelf ∨ die > 1 then none
  else if die = 1 then (if g = 0xFF ∧ c = 45 ∧ u ≤ 1 then some (.sensor 1 u) else none)
  else if c ≤ 15 ∧ g = c / 4 ∧ u = 0xFF then some (.cluster c)
  else if c = 16 ∧ g = 4 ∧ u ≤ 7 then some (.lane u)
  else if (c = 18 ∨ c = 19) ∧ g = 5 ∧ u = 0xFF then some (.pair (c - 18))
  else if c = 0xFF ∧ u = 0xFF ∧ (g ≤ 3 ∨ g = 7) then some (.region g)
  else if c = 28 ∧ g = 7 ∧ u ≤ 3 then some (.port u)
  else if c = 36 ∧ g = 0xFF ∧ u ≤ 3 then some (.sensor 0 u)
  else none

/-- The tamper source of a temperature sensor (Table TK.1): K 0–1 are sources 2 and 3, M 0–3 sources 4 to 7. -/
def sensorSource (die n : Nat) : Nat := if die = 1 then 2 + n else 4 + n

/-- A service action ends in a later step: its command waits for the part to reach a state. -/
def State.addService (s : State) (m : Msg) (kind part goal : Nat) : State × Answer :=
  ({ s with eng.services := s.eng.services ++ [⟨m.cid, kind, part, goal⟩] }, .engine)

/-- Whether any follower is reached through a port, or through any port. -/
def State.portCarries (s : State) (p : Nat) : Bool :=
  (List.range 64).any (fun n => s.get (R.ferryFollowerState n) == 3 && s.get (R.ferryFollowerPort n) == p)

/-- Clusters and lanes that are out by FENCE. -/
def State.clusterFenced (s : State) (n : Nat) : Bool :=
  s.clusterState n == 7 || (s.clusterState n == 0 && s.is (R.pkeClusterCtrlFence n))
def State.laneFenced (s : State) (n : Nat) : Bool := s.laneState n == 0 && s.is (R.skeLaneCtrlFence n)

/-- FENCE (Table LC.11). -/
def serviceFence (m : Msg) (s : State) : Part → State × Answer
  | .cluster n =>
    if s.clusterFenced n then (s, .of St.ok) else (s.gateCluster n false true).addService m 0 n 7
  | .lane n =>
    if s.laneFenced n then (s, .of St.ok)
    else if s.lastLane n then (s, .of St.resourceLast)
    else (s.gateLane n false true).addService m 1 n 0
  | .pair n =>
    if bitOf s.life.pairsFenced n then (s, .of St.ok)
    else if !s.is (pairFld (1 - n)) then (s, .of St.resourceLast)
    else ((({ s with life.pairsFenced := setBit s.life.pairsFenced n true }.put (pairFld n) 0).setMissed n false).showPairs, .of St.ok)
  | _ => (s, .of St.notPermitted)

/-- A fenced, gated or quarantined cluster is tested and loaded again. -/
def State.returnCluster (s : State) (n : Nat) : State :=
  let s1 := s.setCluster n { s.cluster n with held := false }
  ((s1.put (R.pkeClusterCtrlFence n) 0).put (R.pkeClusterCtrlGateReq n) 0).put (R.pkeClusterStatusGatePending n) 0 |>.loadCluster n

/-- RETURN (Table LC.11): parts that are in service are outside its Parts column. -/
def serviceReturn (m : Msg) (s : State) : Part → State × Answer
  | .cluster n =>
    let st := s.clusterState n
    if (st = 0 ∨ st = 6 ∨ st = 7) ∧ !bitOf s.pwr.regionOff (n / 4) then (s.returnCluster n).addService m 0 n 3
    else (s, .of St.notPermitted)
  | .lane n =>
    if s.laneState n = 0 then
      ((s.put (R.skeLaneCtrlGateReq n) 0).gateLane n false false).addService m 1 n 2
    else (s, .of St.notPermitted)
  | .pair n =>
    if bitOf s.life.pairsFenced n then
      (({ s with life.pairsFenced := setBit s.life.pairsFenced n false }.pairBack n).showPairs, .of St.ok)
    else (s, .of St.notPermitted)
  | _ => (s, .of St.notPermitted)

/-- Region G7 goes off: the topology, its followers' registers and the ports with it (R417). -/
def State.ferryDown (s : State) : State :=
  let s1 := { s with
    pwr.regionOff := setBit s.pwr.regionOff 7 true, ferry.topo := [], ferry.found := []
    regs := s.regs.filter (fun e => decide (e.1 / 64 < 0xF0200) || decide (0xF0600 ≤ e.1 / 64)) }
  let s2 := (List.range 4).foldl (fun t p => t.put (R.ferryPortState p) 0) s1
  ((s2.put R.ferryStatusMode 0).put (R.hdrStateOff 0xF0000) 1).showPorts

/-- Region G7 comes back: its ports train again. -/
def State.ferryUp (s : State) : State :=
  let s1 := { s with pwr.regionOff := setBit s.pwr.regionOff 7 false, ferry.off := 0 }
  (((List.range 4).foldl (fun t p => t.put (R.ferryPortState p) 2) s1).put (R.hdrStateOff 0xF0000) 0).showPorts

/-- POWER_OFF (Table LC.11). -/
def servicePowerOff (m : Msg) (s : State) : Part → State × Answer
  | .cluster n =>
    let (s1, a) := s.addService m 0 n 0
    (s1.gateCluster n true true, a)
  | .region g =>
    if bitOf s.pwr.regionOff g then (s, .of St.ok)
    else if g = 7 then
      if (List.range 4).any (fun p => s.portCarries p) then (s, .of St.resourceLast)
      else if (List.range 4).any (fun p => s.get (R.ferryPortUse p) != 0) then (s, .of St.notPermitted)
      else (s.ferryDown, .of St.ok)
    else
      let (s1, a) := s.addService m 2 g 0
      ([0, 1, 2, 3].foldl (fun t i => if t.clusterState (4 * g + i) = 8 then t else t.gateCluster (4 * g + i) true true) s1, a)
  | .port p =>
    if s.portCarries p then (s, .of St.resourceLast)
    else if s.get (R.ferryPortUse p) ≠ 0 then (s, .of St.notPermitted)
    else (({ s with ferry.off := setBit s.ferry.off p true }.put (R.ferryPortState p) 0).showPorts, .of St.ok)
  | _ => (s, .of St.notPermitted)

/-- POWER_ON (Table LC.11). -/
def servicePowerOn (m : Msg) (s : State) : Part → State × Answer
  | .cluster n =>
    if s.clusterState n ≠ 0 then (s, .of St.ok)
    else if bitOf s.pwr.regionOff (n / 4) then (s, .of St.notPermitted)
    else (s.returnCluster n).addService m 0 n 3
  | .region g =>
    if !bitOf s.pwr.regionOff g then (s, .of St.ok)
    else if g = 7 then (s.ferryUp, .of St.ok)
    else
      let s1 := { s with pwr.regionOff := setBit s.pwr.regionOff g false }
      ([0, 1, 2, 3].foldl (fun t i => if t.clusterState (4 * g + i) = 0 then t.returnCluster (4 * g + i) else t) s1).addService m 2 g 3
  | .port p =>
    if bitOf s.pwr.regionOff 7 then (s, .of St.notPermitted)
    else if s.get (R.ferryPortState p) = 0 then
      (({ s with ferry.off := setBit s.ferry.off p false }.put (R.ferryPortState p) 2).showPorts, .of St.ok)
    else (s, .of St.ok)
  | _ => (s, .of St.notPermitted)

/-- RECALIBRATE (R418): a sensor that passes comes back with a new trim; the trim that the samples give is a value the manual
does not state: a free value, within ±8 °C, and whether it lies within is free too. -/
def serviceRecalibrate (_m : Msg) (s : State) : Part → State × Answer
  | .sensor die n =>
    let src := sensorSource die n
    if ([2, 3, 4, 5, 6, 7].filter (fun x => x != src && !s.life.sensorsOut.contains x)).length < 3 then (s, .of St.resourceLast)
    else
      let need := Config.freeNat s.fresh % 128
      let s1 := s.drawn
      if need ≤ 64 then
        ({ s1 with
            life.sensorsOut := s1.life.sensorsOut.filter (· != src)
            life.sensorTrims := store s1.life.sensorTrims src need }, .of St.ok)
      else
        let s2 := { s1 with life.sensorsOut := addNew s1.life.sensorsOut src }
        (s2.hard (if die = 1 then locK 45 n else locM 0xF 36 n) 0x0E 0, .of St.limitReached)
  | _ => (s, .of St.notPermitted)

/-- The action of CLUSTER_SERVICE on a part. -/
def serviceAct (action : Nat) : Msg → State → Part → State × Answer :=
  if action = 1 then serviceFence else if action = 2 then serviceReturn else if action = 3 then servicePowerOff
  else if action = 4 then servicePowerOn else serviceRecalibrate

/-- CLUSTER_SERVICE (R417, R418): a RETIRED cluster, and a part outside the action's Parts column, is NOT_PERMITTED. -/
def clusterService (m : Msg) (s : State) : State × Answer :=
  let action := le m.payload 5 1
  if m.payloadLen ≠ 8 ∨ le m.payload 6 2 ≠ 0 ∨ action = 0 ∨ action > 5 then (s, .of St.lengthInvalid)
  else match s.partAt m.payload with
    | none => (s, .of St.notPermitted)
    | some (.cluster n) => if s.clusterState n = 8 then (s, .of St.notPermitted) else serviceAct action m s (.cluster n)
    | some p => serviceAct action m s p

/-- What a service that waits has come to: nothing yet, or the status with which its command ends. A part that fails its
self-test on the way back ends it with ENGINE_FAULT (log entry 35). -/
def State.serviceEnd (s : State) (x : Service) : Option Nat :=
  if x.kind = 0 then
    let st := s.clusterState x.part
    if x.goal = 3 then (if st = 3 ∨ st = 4 then some St.ok else if st = 7 then some St.engineFault else none)
    else if st = x.goal ∨ (x.goal = 7 ∧ s.clusterFenced x.part) then some St.ok else none
  else if x.kind = 1 then
    let st := s.laneState x.part
    if x.goal = 2 then (if st = 2 ∨ st = 3 then some St.ok else if st = 4 then some St.engineFault else none)
    else if st = 0 then some St.ok else none
  else
    let sts := [0, 1, 2, 3].map (fun i => s.clusterState (4 * x.part + i))
    if x.goal = 0 then (if sts.all (fun st => st == 0 || st == 8) then some St.ok else none)
    else if sts.all (fun st => st == 3 || st == 4 || st == 5 || st == 7 || st == 8) then some St.ok
    else none

/-- Services whose actions have ended complete their commands; a region all of whose clusters are off is switched off. -/
def State.settleServices (s : State) : State :=
  s.eng.services.foldl (fun t x =>
    if (look t.host.cmds x.cid).isNone then { t with eng.services := t.eng.services.filter (· != x) }
    else match t.serviceEnd x with
      | none => t
      | some st =>
        let t1 := { t with eng.services := t.eng.services.filter (· != x) }
        let t2 := if x.kind = 2 ∧ x.goal = 0 then { t1 with pwr.regionOff := setBit t1.pwr.regionOff x.part true } else t1
        t2.complete x.cid (Resp.of st)) s

/-- CLUSTER_RETIRE (R419, R30). -/
def clusterRetire (m : Msg) (s : State) : State × Resp :=
  let n := le m.payload 0 1
  let st := s.clusterState n
  if m.payloadLen ≠ 1 ∨ n > 15 then (s, Resp.of St.lengthInvalid)
  else if bitOf (s.get R.lifeLimits1Retired) n then (s, Resp.of St.limitReached)
  else if !(st = 0 ∨ st = 6 ∨ st = 7) then (s, Resp.of St.notPermitted)
  else if !s.holdup then (s, holdupLow)
  else
    let s1 := s.putBit R.lifeLimits1Retired n true
    ((s1.setClusterState n 8).logAdd 0x41 0xFFFF 0xFFFF (leBytes 1 6 ++ leBytes 2 1), Resp.of St.ok)

end Sys2Proof.Machine
end

