-- ==== Sys2Proof/Machine/Boot.lean ====
section
/-! DEFINITION. Supplies, PORST_N and a start (R23, R64, R394, R395, R410 to R413, R453, R454): the base-domain reset, Trailhead,
the custody firmware's start and the end of a G5 warm restart (R342). -/

namespace Sys2Proof.Machine

/-- Whether the configuration block's copy in MRAM bank A or B has its CRC: a bank that is out has no copy. -/
def bootCrcA (f : BootFacts) : Bool := f.cfgCrcA && !bitOf f.out.mram 0
def bootCrcB (f : BootFacts) : Bool := f.cfgCrcB && !bitOf f.out.mram 1

/-! ### The base-domain reset -/

/-- The mirror of the slots that stand at the reset (Table DC.4). -/
def State.mirrorSlots (s : State) : List Mirrored :=
  (List.range 32).filterMap (fun n =>
    if s.get (R.quorumSlotClassState n) = 0 then none
    else (look s.quorum.acts n).map (fun a => ⟨a.opId, a.m.opcode, s.get (R.quorumSlotClassClass n), a.m.inst⟩))

/-- A custodian port whose link stops; its pairing stays. -/
def Port.cold (p : Port) : Port :=
  { p with session := [], nonce := [], txSeq := 0, rxSeq := 0, discards := 0, silent := 0, queue := [] }

/-- What the queue engine, the ITU and the mailboxes hold is gone; the binding table stands in MRAM. -/
def HostSt.cold (h : HostSt) : HostSt :=
  { cmds := [], fns := [], sqs := [], cqs := [], sqGrant := [], cqGrant := [], windows := [], tlb := [], accesses := [], load := none
    inflightNext := [], lastStart := 1023, vtime := [], vnowPke := 0, vnowSke := 0, msixOn := [], d3hot := [], msixTable := [], pba := []
    bindings := h.bindings, nextId := h.nextId }

/-- Compass stops; the waypoint table and the anchor keys stand in MRAM. -/
def CompassSt.cold (c : CompassSt) : CompassSt :=
  { c with
    running := false, lastPhase := 0, mc := 0, ticked := false, discarded := false, badRun := 0, errors := [], stepDue := 0
    agreeRun := 0, holds := [], released := [], epochDue := [], rates := [] }

/-- The store engine's memory is gone; the root records stand in MRAM. -/
def StoreSt.cold (h : StoreSt) : StoreSt :=
  { attached := false, reqs := [], waiting := [], nextTag := h.nextTag, fetched := [], root := h.root, nextSerial := h.nextSerial
    pinned := [], others := [], batches := [], failed := [], failed5 := [], bank0 := h.bank0, bank1 := h.bank1, format := h.format
    formatCopy := h.formatCopy, posting := none
    formatting := none, stagedDone := [], prefill := none, stuck := false, large := [], unposted := [] }

/-- What die M holds of the keys is gone (R74); the table sets, quotas and policies stand in MRAM, RS with the keeper. -/
def KeySt.cold (k : KeySt) : KeySt :=
  { k with
    dmk := [], dmkd := [], sealRoot := [], idSeeds := [], nextDmk := [], nextDmkd := [], stk := [], attKey := [], active := none
    staged := none, tenants := [], dyingTenants := [], dyingWgs := [], slots := [], epochs := [] }

/-- The TRNG has lost its supplies or its reset is low: the trim record stands in MRAM, NK's entry with the keeper. -/
def TrngSt.cold (g : TrngSt) : TrngSt :=
  { key := [], v := [], pool := [], lastSource := 0, fifo := [], valid := [], reseedMc := 0, nkIn := false, sources := []
    erased := g.erased, katFailed := false, stopped := false, trims := g.trims, delaySeed := [], delayDraws := 0, delayDue := false }

/-- Every register of die M at its Cold or Warm value and every volatile part empty (R23, R64): PORST_N low, or no main supply.
Only the halt latch, MRAM, the keeper and the pairing of the ports are left. -/
def State.baseReset (s0 : State) : State :=
  let s := { s0 with quorum.mirror := s0.quorum.mirror ++ s0.mirrorSlots }
  let s1 := { (s.warmRange 0 (2 ^ 32) false (fun _ => false)).keepMem 0x20000000 0x2000000 with
    iface := ⟨[], [], [], [], []⟩
    pwr := { s.pwr with
      porstN := false, link := false, regionOff := 0, regionReset := 0xFF, clusterReset := 0, resetAt := [], vfEnable := false, numVfs := 0
      bar0 := 0, vfBar0 := 0, parts := PartsOut.none, window := none }
    fault := { s.fault with ring := [], unackNote := false, unackSoft := false, unackSevere := false, usPart := 0, healthySince := none, hard := [] }
    log := { s.log with buffer := [], journal := [], gap := 0, ringAddr := 0, headerAddr := 0 }
    host := s.host.cold
    keys := s.keys.cold
    hs := s.hs.cold
    eng := { s.eng with clusters := [], lanes := [], pkeQueue := [], skeQueue := [], reserving := none, baseLost := false, services := [] }
    trng := s.trng.cold
    quorum := { s.quorum with acts := [], acting := [], portA := s.quorum.portA.cold, portB := s.quorum.portB.cold }
    compass := s.compass.cold
    worlds := ⟨false, false, [], false, [], []⟩
    life := { s.life with pkgBuffer := [], challenge := [], underway := false, updating := none, pairsFenced := 0, booting := none }
    keeper := { s.keeper with session := false }
    ferry := { s.ferry with ports := [], waits := [], nextTag := 0, queued := [], gathered := [], front := none, found := [], offers := [], off := 0 } }
  s1.put R.keeperAlarmedAlarmed (s1.keeper.pathA ||| s1.keeper.pathB)

/-- PORST_N_ASSERT (R454). -/
def execPorstNAssert (s : State) : Host.Outcome State Fault Refusal :=
  .next (if s.pwr.main ∧ s.pwr.porstN then s.baseReset else s)

/-- MAIN_POWER_LOSS (R350, R364, R378, R403): die M resets, a halt is cleared, and the keeper goes on in Thermos mode. A transition under
way is cut where its burns had come to. -/
def execMainPowerLoss (s : State) (cut : Nat := 0) : Host.Outcome State Fault Refusal :=
  .next (if s.pwr.main then
      let t := (s.cutTransition cut).baseReset
      { t with pwr := { t.pwr with main := false, halted := false } }
    else s)

/-- MAIN_POWER_ON (R453): the supplies are present; PORST_N is still low. -/
def execMainPowerOn (s : State) : Host.Outcome State Fault Refusal := .next { s with pwr.main := true }

/-! ### Trailhead (Table LC.8) -/

/-- Trailhead stops (R412), with the custody pairs held, the mailboxes closed and the fast window working (Table CO.2). -/
def State.stop (s : State) (code : Nat) : State := ((s.put R.bootStatusStop code).put R.bootStatusStage 4).setMailboxes 3

/-- SCRAPPED (R395, Table CO.2): no waypoint is armed and no quorum slot is held, because the custody firmware never runs. -/
def State.scrapped (s : State) : State :=
  let s1 : State := { s with life.underway := false, quorum.acts := [] }
  let s2 := (List.range 32).foldl (fun t n => t.put (R.quorumSlotClassState n) 0) ((s1.put R.quorumSlotsPending 0).put R.quorumStatusPending 0)
  (s2.compass.waypoints.foldl (fun (t : State) x => t.setArmed x.1 false) s2).stop 6

/-- A source that passed its start-up test passes its first lag window too, and releases eight blocks (Table EN.4 step 5). NK's
first blocks come later. -/
def State.firstWindows (s : State) : State :=
  [0, 1, 2, 3].foldl (fun t i =>
    if (t.source i).tested then
      let blocks := (List.range 8).map (fun k => (i, Config.random (t.fresh + k) 16))
      let t1 := { t with trng.pool := t.trng.pool ++ blocks, fresh := t.fresh + 8 }
      ((t1.incMod (R.trngSrcBlocksCount i) 8).put (R.trngSrcStatusState i) 2).showPool
    else t) s

/-- The TRNG starts (Table EN.4): it stays UNINSTANTIATED where a known-answer test of its units fails. -/
def State.startTrng (s : State) (f : BootFacts) : State :=
  let s1 := { s with trng.erased := false, pwr.regionReset := setBit s.pwr.regionReset 4 false }
  let s2 := (s1.keeperStart.startSources f.n f.nk).katEnd f.kat4 f.kat5
  if f.kat4 ∧ f.kat5 then s2.firstWindows.settleTrng.instantiate else s2

/-- Whether a bank verifies at this start (R410). -/
def State.bankVerifies (s : State) (f : BootFacts) (n : Nat) : Bool :=
  let life := s.get R.devStatusLife
  (if n = 0 then f.bankAOk else f.bankBOk) && !bitOf f.out.mram n
    && (life == 0 || life == 3 || decide (s.get R.lifeSecurityFloor ≤ (s.bankHead n).version))

/-- The bank's image is taken: what was measured of it, and what BOOT_STATUS and the LIFE registers show. -/
def State.takeBank (s : State) (f : BootFacts) (n : Nat) : State :=
  let b := s.bankHead n
  let s1 := { s with life.imageDigest := b.digest }
  let s2 := ((s1.put R.bootStatusBank n).put R.lifeSecurityRunning b.version).putB R.bootStatusNwHeld
    (s.get R.devStatusLife == 2 && !f.nwSigOk)
  [0, 1].foldl (fun t i => t.put (bankVersion i) (if s.bankVerifies f i then (s.bankHead i).version else 0)) s2

/-- The bank is chosen (R410); `false` where no bank verifies. -/
def State.chooseBank (s : State) (f : BootFacts) : State × Bool :=
  let s0 := if f.selectorOk then s else { s with life.selActive := 0, life.selTrial := none, life.selFallback := 1 }
  let active := s0.life.selActive
  let s1 := if s0.life.selTrial.isSome then
      { s0 with life.selTrial := none, life.selSeq := s0.life.selSeq + 1 }.put R.bootStatusTrialFailed 1
    else s0
  if s1.bankVerifies f active then (s1.takeBank f active, true)
  else if s1.life.selFallback = 1 ∧ s1.bankVerifies f (1 - active) then ((s1.takeBank f (1 - active)).put R.bootStatusFallback 1, true)
  else (s1, false)

/-- The ROM and the configuration body are measured (Table KH.3). -/
def State.measure (s : State) (f : BootFacts) : State :=
  let rom := if f.romOk then s.life.romDigest else Config.random s.fresh 48
  { s.drawn with life.romMeasured := rom, life.cfgDigest := s.life.cfgStored.digest }

/-- Whether the keeper holds keys for this state (Table LC.1). -/
def State.keyed (s : State) : Bool := s.get R.devStatusLife == 1 || s.get R.devStatusLife == 2

/-- One copy of the configuration block fails its check word: the other is used, and a SOFT fault names the bank (R20). -/
def State.badCopies (s : State) (f : BootFacts) : State :=
  if bootCrcA f = bootCrcB f then s else s.soft (locM 0xF 30 (if bootCrcA f then 1 else 0)) 1 0

/-- The keeper releases its keys, the check word is tested and a table set is opened (steps 9 to 13); `false` where the keeper
refuses. In MAKER and RETURNED there is no DMK, so the check word does not verify. -/
def State.unlockKeys (s : State) (f : BootFacts) : State × Bool :=
  if s.keyed then
    let s1 := s.releaseKeys f.romOk true f.linkOk (s.get R.lifeSecurityRunning)
    if !s1.is R.keeperDeriveStatusReleased then (s1, false)
    else
      let ok := (bootCrcA f || bootCrcB f) && f.cfgMacOk && s1.life.cfgMac == s1.life.cfgStored.mac s1.keys.dmk
      (((s1.putB R.cfgStatusCopy (!bootCrcA f && bootCrcB f)).badCopies f).openRoots ok, true)
  else (s.defaultCfg, true)

/-! ### The custody firmware starts -/

/-- R353: the stricter of the retained response and the block's copy applies, and is written back. -/
def State.stricter (s : State) : State :=
  let s1 := (s.life.cfg.responses.mapIdx (fun n r => (n, r))).foldl (fun t x =>
    (t.put (R.keeperRespMain x.1) (max (t.get (R.keeperRespMain x.1)) x.2.1)).put (R.keeperRespThermos x.1)
      (max (t.get (R.keeperRespThermos x.1)) x.2.2)) s
  let c := s1.withTamperCopy s1.life.cfg
  if c = s1.life.cfg ∨ s1.is R.bootStatusCfgDefaulted ∨ s1.keys.active.isNone then s1 else (s1.putCfg c).1

/-- R388 steps 1 and 2: the halt record, and every pocket record, goes to the security log. -/
def State.copyRecords (s : State) : State :=
  let s1 := match s.fault.haltRecord with
    | some r => { s with fault.haltRecord := none }.logAdd 0x61 0xFFFF 0xFFFF (s.haltBody r s.fault.haltTick)
    | none => s
  (List.range 17).foldl (fun t _ => t.copyPocket) s1

/-- The slots found in the mirror are recorded with QUORUM_CANCELLED (Table DC.4). -/
def State.settleMirror (s : State) : State :=
  s.quorum.mirror.foldl (fun t x =>
    let t1 := t.logAdd 0x30 x.inst 0xFFFF (leBytes 4 x.opId ++ leBytes 2 x.opcode ++ leBytes 1 x.cls ++ leBytes 2 St.quorumCancelled)
    { t1 with quorum.outcomes := ((x.opId, St.quorumCancelled) :: t1.quorum.outcomes).take 256 }) { s with quorum.mirror := [] }

/-- The custodian tables' CMAC is tested (R246); under a new root secret it fails. -/
def State.testCustodians (s : State) (f : BootFacts) : State :=
  let failed := s.keyed && !s.quorum.custodians.isEmpty && (!f.custodianMacOk || s.is R.keeperRsStatusGenerated)
  if failed then { s with quorum.tablesFailed := true, quorum.custodians := [] }.logAdd 0x32 0xFFFF 0xFFFF [0] else s

/-- The paired ports come up DOWN; where VIO_CUST disagrees with STRAP2 both stay unpaired until the next PORST_N (R461). -/
def State.startPorts (s : State) : State :=
  if s.quorum.portsOff then s else [0, 1].foldl (fun t p => if (t.port p).paired then t.setPortState p 1 else t) s

/-- The values that G5 draws at its start: scramble tables, mask key and slot epochs (R93, R96, R97, R102). They wait for the
DRBG. The 65,536 epochs are 131,072 bytes: 32 generate calls of 4,096 (R210). -/
def State.drawSlotValues (s : State) : State :=
  if s.canDraw then
    let (s1, scramble) := s.draw 512
    let (s2, mask) := s1.draw 32
    let s3 := s2.generateMany 32
    (({ s3 with keys.scramble := scramble, keys.maskKey := mask, keys.epochGen := (s2.trng.key, s2.trng.v) }.put
      R.skeSlotCfgScrambleReady 1).put R.skeSlotCfgMaskReady 1)
  else s

/-- The custody firmware serves: nothing of G5 is in reset, both pairs that are not fenced feed, and keys may move (R342). -/
def State.custodyServes (s : State) : State :=
  let s1 := { s with pwr.regionReset := setBit s.pwr.regionReset 5 false }.freePosted 5
  let s2 := ((s1.reloading 5 3 0).put R.mpcWorldStatusRestarting 0).put R.mpcWorldStatusKeysLocked 0
  (((s2.setCustodyUp true).pairBack 0).pairBack 1).commitDevice.nonceStart.drawSlotValues

/-- Every waypoint is armed again; those whose instant has passed fire, LATE (R311, R312). -/
def State.reloadWaypoints (s : State) : State := (s.compass.waypoints.foldl (fun t x => t.setArmed x.1 true) s).firePassed

/-- Every region leaves reset and the engines start: clusters load, lanes have tested themselves. -/
def State.startRegions (s : State) : State :=
  let s1 := { s with pwr.regionReset := 0, pwr.clusterReset := 0 }
  let s2 := (List.range 16).foldl (fun t n =>
    if bitOf (t.get R.lifeLimits1Retired) n then t.setClusterState n 8 else t.loadCluster n) s1
  (List.range 8).foldl (fun t n => t.setLaneState n 2) s2

/-- The rest of a start, from the release of the keys (steps 12 to 17). -/
def State.finishBoot (s : State) (f : BootFacts) : State :=
  let s1 := (s.mendPackages.startRegions.commitStanding s.life.cfg.nwPages).custodyServes
  let s2 := ((s1.testCustodians f).stricter.copyRecords.settleMirror.startPorts).reloadWaypoints.cfgInForce
  let s3 := (s2.setDev R.devStatusLocked (s2.get R.keeperTamperStateLockFlag)).showPairs
  let s4 := { s3 with life.underway := false, life.updating := none, life.booting := none }.finishIntents.setMailboxes 0
  let s5 := (((s4.setMboxEnabled 0 true).setDev R.devStatusBoot 1).setDev R.devStatusBoot 2).put R.bootStatusStage 3
  ((if s5.hs.attached then s5.reopen else s5).seedDelays.fillFifo).noteHealth

/-- Trailhead from the image on (steps 6 to 17). -/
def State.bootImage (s : State) (f : BootFacts) : State :=
  match (s.measure f).chooseBank f with
  | (s1, false) => s1.stop 4
  | (s1, true) =>
    match s1.unlockKeys f with
    | (s2, false) => s2.stop (if s2.is R.keeperRsStatusWithheld then 1 else 5)
    | (s2, true) => s2.finishBoot f

/-- The root secret at a start (step 5, R66): it is generated in INTEGRATOR and FIELDED where there is none. -/
def State.bootSecret (s : State) (f : BootFacts) : State :=
  if s.keyed ∧ !s.is R.keeperRsStatusPresent then
    match s.genRs f.n f.nk with
    | (s1, .done) => ({ s1 with life.booting := none }.put R.bootStatusStop 0).bootImage f
    | (s1, .deferred) => { s1 with life.booting := some f }.stop 2
    | (s1, .exhausted) => s1.stop 3
  else if s.keyed ∧ s.is R.keeperRsStatusWithheld then s.stop 1
  else { s with life.booting := none }.bootImage f

/-- Once the DRBG serves, the link session opens under a draw (R211), and the start goes on; else it waits. -/
def State.bootEntropy (s : State) (f : BootFacts) : State :=
  if s.canDraw then { (s.draw 32).1 with keeper.session := true }.bootSecret f
  else { s with life.booting := some f }

/-- Whether a start is due: PORST_N rises, or Trailhead has not yet run since it rose. -/
def State.startDue (s : State) : Bool :=
  s.pwr.main && (!s.pwr.porstN || (s.get R.devStatusBoot == 0 && s.get R.bootStatusStop == 0 && s.life.booting.isNone))

/-- STRAP2–0 are sampled as PORST_N rises (R454, R461), and a PURGED that came while it was low ends (R362, Table TK.11). -/
def State.sampleStraps (s : State) (f : BootFacts) : State :=
  { ((s.put R.sysPinsStrap f.straps).put R.keeperTamperStatePurged 0).putB R.quorumPortCfgVio3v3 (bitOf f.straps 2) with
    quorum.portsOff := f.vio33 != bitOf f.straps 2 }

/-- BOOT (R411, R412): PORST_N rises and Trailhead runs. -/
def State.boot (s : State) (f : BootFacts) : State :=
  if !s.startDue then s
  else
    let s1 := if s.life.underway then s else { s with pwr.porstN := true }.sampleStraps f
    if s1.pwr.halted then ((s1.setDev R.devStatusBoot 3).put R.bootStatusStop 7).put R.bootStatusStage 4
    else
      let s2 := (s1.put R.keeperRsStatusGenerated 0).settleLife
      let life := s2.get R.devStatusLife
      let s3 := if (life = 3 ∨ life = 4) ∧ s2.is R.keeperRsStatusPresent then s2.shredRs else s2
      if life = 4 then s3.scrapped
      else ((s3.startParts f.out).startTrng f).bootEntropy f

/-- BOOT (R411). -/
def execBoot (f : BootFacts) (s : State) : Host.Outcome State Fault Refusal := .next (s.boot f)

/-- RS_GEN_RETRY (R66): a deferred generation is tried again. -/
def execRsGenRetry (n : List Bool) (nk : Bool) (s : State) : Host.Outcome State Fault Refusal :=
  .next (match s.life.booting with
    | some f => if s.get R.bootStatusStop = 2 then s.bootSecret { f with n := n, nk := nk } else s
    | none => s)

/-! ### The end of a G5 warm restart (R342) -/

/-- Whether a G5 warm restart is under way that can end: not while PURGED holds, during a life-cycle restart or a halt. -/
def State.restarting (s : State) : Bool :=
  s.pwr.main && s.pwr.porstN && !s.pwr.halted && bitOf s.pwr.regionReset 5 && !s.is R.keeperTamperStatePurged && !s.life.underway
    && (s.get R.devStatusBoot == 1 || s.get R.devStatusBoot == 2)

/-- One SLOTS_LOST notice to every enabled function (R342). -/
def State.slotsLost (s : State) : State :=
  s.host.fns.foldl (fun t x => if t.fnEnabled x.1 ∧ x.2.noticeValid then t.notice x.1 8 0 0 0 St.ok else t) s

/-- G5_RESTART_END (R342): the running bank is measured again, the keeper releases its keys, and the custody firmware serves. The
keeper generated no root secret at this start: GENERATED reads 0, so the tenant-root area is not fresh (R77; DEDUCED, log entry
51). While the DRBG does not serve, the restart waits at its draws, with KEYS_LOCKED still 1 (Table CO.4). -/
def State.restartEnd (s0 : State) (f : BootFacts) : State :=
  if !s0.restarting then s0
  else if !s0.canDraw then { s0 with life.booting := some f }
  else
    let s := { s0 with life.booting := none }.put R.keeperRsStatusGenerated 0
    let n := s.get R.bootStatusBank
    if !s.bankVerifies f n then s.stop 4
    else match ((s.measure f).takeBank f n).unlockKeys f with
      | (s1, false) => s1.stop (if s1.is R.keeperRsStatusWithheld then 1 else 5)
      | (s1, true) =>
        let s2 := ((s1.custodyServes.testCustodians f).stricter.copyRecords).cfgInForce.finishIntents
        (((if s2.hs.attached then s2.reopen else s2).slotsLost).put R.bootStatusStage 3).noteHealth

/-- A start that waits for the DRBG goes on once it serves (Table LC.8 step 5, Table CO.4). -/
def State.resumeBoot (s : State) : State :=
  match s.life.booting with
  | some f =>
    if !s.canDraw ∨ s.get R.bootStatusStop ≠ 0 then s
    else if s.restarting then s.restartEnd f
    else if s.get R.devStatusBoot = 0 then s.bootEntropy f
    else s
  | none => s

end Sys2Proof.Machine
end

