-- ==== Sys2Proof/Machine/CryptoActs.lean ====
section
/-! DEFINITION. Using keys: the commands of group 0x03 and KEY_DERIVE (R146 to R163, R177 to R186, R231, R232, R234, Table CM.5). -/

namespace Sys2Proof

/-- The hamper that a completion names as used: with AUTOLOAD, and where the key lies in a large hamper. -/
def Msg.usedHamper (m : Msg) : Nat :=
  let large := (m.opcode == 0x0301 && (m.alg == 0x18 || m.alg == 0x38)) || (m.opcode == 0x0304 && m.alg == 0x1A)
    || (m.opcode == 0x030A && m.alg == 0x20) || (m.opcode == 0x030C && m.alg == 0x39)
  if m.autoload || large then m.hamper else 0

/-- PARAM as a job carries it: with the MU flag in bit 15. -/
def Msg.signParam (m : Msg) : Nat := m.param + (if m.externalMu then 2 ^ 15 else 0)

end Sys2Proof

namespace Sys2Proof.Machine

/-! ### What these commands share -/

/-- LENGTH_INVALID with the failing part (R230 step 7): 0 the payload header, ALG or PARAM; 1 to 7 an AUX item; 0xFF the IN data. -/
def badPart (pos : Nat) : Answer := .why St.lengthInvalid pos

/-- The refusal of ALG for an opcode that takes `progs`: PROGRAM_ABSENT where no package holds it (R146), LENGTH_INVALID where
it is a program of another opcode. -/
def State.algRefusal (s : State) (prog : Nat) (progs : List Nat) : Option Answer :=
  if !s.hasProgram prog then some (.of St.programAbsent) else if !progs.contains prog then some (badPart 0) else none

/-- The first refusal of a list: `true` marks the part that fails. -/
def firstBad : List (Bool × Nat) → Option Answer
  | [] => none
  | (b, pos) :: rest => if b then some (badPart pos) else firstBad rest

/-- The slot that KEY names, or with AUTOLOAD the one that holds HAMPER, loaded first where none does (R93, R178, R231). -/
def State.keyFor (s : State) (m : Msg) (usage : Nat) (types : Nat → Bool) : State × Except Answer (Nat × Slot) :=
  let found : State × Except Answer Nat :=
    if m.autoload then
      match s.loadedAs m.tenant m.hamper with
      | some h => (s, .ok h)
      | none => s.loadHamper m
    else (s, .ok m.key)
  match found with
  | (s1, .error a) => (s1, .error a)
  | (s1, .ok h) =>
    match s1.handleCheck m.inst h usage with
    | .error st => (s1, .error (.of st))
    | .ok (_, x) => if types x.typ then (s1, .ok (h, x)) else (s1, .error (.of St.keyUsage))

/-- The key of the large hamper that HAMPER names, for one job (R123): its header and its bytes. -/
def State.largeKey (s : State) (m : Msg) (usage typ : Nat) : State × Except Answer (HamperHead × Bytes) :=
  match s.openHamper m with
  | (s1, .error a) => (s1, .error a)
  | (s1, .ok (h, key)) =>
    if !bitOf h.usage usage ∨ h.typ ≠ typ then (s1, .error (.of St.keyUsage)) else (s1, .ok (h, key))

/-- A PKE job of a private key in a slot. -/
def Job.ofSlot (m : Msg) (prog cost h : Nat) (x : Slot) : Job :=
  { Job.of m false prog cost with curve := x.curve, param := m.param, wg := x.wg, slots := [h], priv := true }

/-- A PKE job of a private key in a large hamper. -/
def Job.ofLarge (m : Msg) (prog cost : Nat) (h : HamperHead) (key : Bytes) : Job :=
  { Job.of m false prog cost with param := m.param, wg := h.wg, key := key, priv := true }

/-- The program that runs a component of a composite key (R151). -/
def componentProgram (sign : Bool) (typ : Nat) : Nat :=
  if typ = 0x10 then (if sign then 0x01 else 0x04) else if typ = 0x11 then 0x08 else if typ = 0x12 then 0x0C
  else if typ = 0x21 then 0x31 else if typ = 0x40 then 0x18 else if typ = 0x13 then 0x10 else if typ = 0x14 then 0x11 else 0x2A

/-- The run time of a composite job: its components', and 2,000 engine cycles (R151). -/
def compositeTime (s : State) (m : Msg) (sign : Bool) (cs : List Component) (len : Nat) : Nat :=
  cs.foldl (fun a c =>
    let size := if c.1 = 0x40 then le c.2.2 0 2 else setOf m.param
    a + runTime s (componentProgram sign c.1) c.2.1 size len 17) 2000

/-! ### SIGN and VERIFY -/

/-- The RSA part of PARAM: a hash, and a salt that fits it where PSS is chosen (Table CM.5). -/
def rsaParamOk (param : Nat) : Bool :=
  rsaHash param != 0 && (if bitOf param 2 then decide (saltOf param ≤ rsaHash param) else saltOf param == 0)

/-- PARAM of a signing or verifying program (Table CM.5): RSA [1:0] hash, [2] PSS, [10:3] salt; ML-DSA [3:2] set; COMPOSITE_SIGN
both; zero for the others. -/
def signParamOk (prog param : Nat) : Bool :=
  if prog = 0x18 ∨ prog = 0x19 then
    decide (param < 2 ^ 11) && rsaParamOk param
  else if prog = 0x31 ∨ prog = 0x32 then param ||| 0xC == 0xC && decide (setOf param ≤ 2)
  else if prog = 0x38 then decide (param < 2 ^ 11)
  else param == 0

/-- FLAGS DETERMINISTIC and MU belong to the ML-DSA programs (R147). -/
def signFlagsOk (m : Msg) (prog : Nat) : Bool :=
  !m.externalMu && !m.deterministic || prog == 0x31 || (prog == 0x32 && !m.deterministic)

/-- The length of IN (R147): a digest of 20–64 bytes, RSA's digest, a message, or μ. -/
def signInputOk (m : Msg) (prog len : Nat) : Bool :=
  if prog = 0x01 ∨ prog = 0x02 then decide (20 ≤ len ∧ len ≤ 64)
  else if prog = 0x18 ∨ prog = 0x19 then len == rsaHash m.param
  else if m.externalMu then len == 64
  else decide (len ≤ 8192)

/-- The context: up to 255 bytes of the programs that take one. -/
def contextOk (prog len : Nat) : Bool :=
  if prog = 0x0C ∨ prog = 0x0D ∨ prog = 0x31 ∨ prog = 0x32 ∨ prog = 0x38 then decide (len ≤ 255) else len == 0

/-- The slot TYPE of a signing program. -/
def signType (prog : Nat) : Nat := if prog = 0x01 then 0x10 else if prog = 0x08 then 0x11 else if prog = 0x0C then 0x12 else 0x21

/-- Whether a component of a composite key takes an input of this length. -/
def componentInputOk (m : Msg) (len : Nat) (c : Component) : Bool :=
  if c.1 = 0x10 then decide (20 ≤ len ∧ len ≤ 64) else if c.1 = 0x40 then len == rsaHash m.param else true

/-- Whether PARAM suits a component: the RSA part of an RSA key (R147), the set of an ML-DSA key. PARAM[3:2] is the set, so that PSS and
its salt then stand beside it as Table CM.5 lays them out (log entry 40). -/
def componentParamOk (m : Msg) (c : Component) : Bool :=
  if c.1 = 0x40 then rsaParamOk m.param else if c.1 = 0x21 then decide (setOf m.param ≤ 2) else true

/-- The job of SIGN under a large hamper: RSA_SIGN or COMPOSITE_SIGN; the curves and parameters of the components are checked at its
dispatch (R161). -/
def signLarge (m : Msg) (s : State) (p : Parts) : State × Answer :=
  match s.largeKey m uSign (if m.alg = 0x18 then 0x40 else 0x42) with
  | (s1, .error a) => (s1, a)
  | (s1, .ok (h, key)) =>
    let cs := if m.alg = 0x38 then (componentsOf key).getD [] else []
    let hs := if m.alg = 0x38 then handlesOf 0x42 0 key else []
    match s1.handleRefusal hs with
    | some st => (s1, .of st)
    | none =>
      if !cs.all (componentParamOk m) then (s1, badPart 0)
      else if !cs.all (componentInputOk m p.inp.length) then (s1, badPart 0xFF)
      else
        let cost := if m.alg = 0x18 then runTime s1 0x18 0 (le key 0 2) 0 0 else compositeTime s1 m true cs p.inp.length
        (s1.submitPke (s1.withCurves { Job.ofLarge m m.alg cost h key with
          draws := m.alg = 0x38, extra := p.item 0, data := p.inp } hs), .engine)

/-- SIGN (R146, R147, R151). -/
def sign (m : Msg) (s : State) : State × Answer :=
  match s.gotOf m.cid, partsOf m with
  | some y, _ => (s, y.answer m.usedHamper)
  | none, .error r => (s, badPart r)
  | none, .ok p =>
    match s.algRefusal m.alg [0x01, 0x08, 0x0C, 0x18, 0x31, 0x38] with
    | some a => (s, a)
    | none =>
      match firstBad [(!signParamOk m.alg m.param ∨ !signFlagsOk m m.alg ∨ p.outLen ≠ 0, 0), (!contextOk m.alg (p.item 0).length, 1),
          (decide (p.aux.length > 1), 2), (!signInputOk m m.alg p.inp.length, 0xFF)] with
      | some a => (s, a)
      | none =>
        if m.alg = 0x18 ∨ m.alg = 0x38 then signLarge m s p
        else match s.keyFor m uSign (· == signType m.alg) with
          | (s1, .error a) => (s1, a)
          | (s1, .ok (h, x)) =>
            match s1.handleRefusal (handlesOf x.typ x.curve []) with
            | some st => (s1, .of st)
            | none =>
              (s1.submitPke (s1.withCurves { Job.ofSlot m m.alg (runTime s1 m.alg x.curve (setOf m.param) p.inp.length 0) h x with
                param := m.signParam, draws := m.alg = 0x01 ∨ (m.alg = 0x31 ∧ !m.deterministic), extra := p.item 0, data := p.inp } [x.curve]),
                .engine)

/-- Whether the public key and the signature of a verifying program have their lengths (R148, R161): the first that has not. -/
def verifyLengths (m : Msg) (c : CurveP) (pub sig : Nat) : Option Answer :=
  let want : Nat × Nat :=
    if m.alg = 0x02 then (1 + 2 * c.plen, 2 * c.nlen) else if m.alg = 0x09 then (32, 64) else if m.alg = 0x0D then (57, 114)
    else (dsaPk (setOf m.param), dsaSig (setOf m.param))
  if m.alg = 0x19 then
    firstBad [(decide (pub ≤ sig ∨ pub > sig + 32), 1), (sig % 8 != 0 || decide (sig < 256 ∨ sig > 1024), 2)]
  else firstBad [(pub != want.1, 1), (sig != want.2, 2)]

/-- VERIFY (R146, R162): the curve of ECDSA_VERIFY is the handle in PARAM[7:0] (log entry 40). -/
def verify (m : Msg) (s : State) : State × Answer :=
  match s.gotOf m.cid, partsOf m with
  | some y, _ => (s, y.answer 0)
  | none, .error r => (s, badPart r)
  | none, .ok p =>
    match s.algRefusal m.alg [0x02, 0x09, 0x0D, 0x19, 0x32] with
    | some a => (s, a)
    | none =>
      let ec := m.alg == 0x02
      match (if ec then s.curve (m.param % 256) else .ok p256) with
      | .error st => (s, .of st)
      | .ok c =>
        match firstBad [((if ec then decide (m.param ≥ 256) else !signParamOk m.alg m.param) ∨ !signFlagsOk m m.alg ∨ p.outLen ≠ 0, 0)] with
        | some a => (s, a)
        | none =>
          match verifyLengths m c (p.item 0).length (p.item 1).length with
          | some a => (s, a)
          | none =>
            match firstBad [(!contextOk m.alg (p.item 2).length, 3), (decide (p.aux.length > 3), 4),
                (!signInputOk m m.alg p.inp.length, 0xFF)] with
            | some a => (s, a)
            | none =>
              let n := (p.item 1).length
              let size := if m.alg = 0x19 then 8 * n else setOf m.param
              let cost := runTime s m.alg (m.param % 256) size p.inp.length (bitLen (ofBe ((p.item 0).drop n)))
              (s.submitPke { Job.of m false m.alg cost with
                curve := if ec then m.param % 256 else 0, param := if ec then 0 else m.signParam, curves := [(m.param % 256, c)]
                aad := p.item 0, tag := p.item 1, extra := p.item 2, data := p.inp }, .engine)

/-! ### ENCRYPT and DECRYPT -/

/-- Lengths that Table SY.1 allows of a cipher, to test one part against. -/
def canonLens (alg : Nat) : Lens :=
  ⟨16, 0, if alg = 0x01 then 0 else if alg = 0x02 ∨ alg = 0x03 ∨ alg = 0x06 then 16 else 12,
    if alg = 0x04 ∨ alg = 0x05 ∨ alg = 0x10 then 16 else 0, 0, 0⟩

/-- The first part of a cipher request that Table SY.1 refuses (R178 step 1). -/
def cipherReason (alg : Nat) (enc : Bool) (l : Lens) : Option Answer :=
  let c := canonLens alg
  firstBad [(!cipherOk alg enc c || (enc && !cipherOk alg enc { c with tag := l.tag }), 0), (!cipherOk alg enc { c with aad := l.aad }, 1),
    (!cipherOk alg enc { c with iv := l.iv }, 2), (!cipherOk alg enc { c with tag := l.tag }, 3), (!cipherOk alg enc { c with data := l.data }, 0xFF)]

/-- The request of a cipher, under one slot or, for XTS, two: handle, tenant and usage of every slot come before the TYPE of any (R178
steps 2 and 3). -/
def cipherJob (m : Msg) (s : State) (p : Parts) (enc : Bool) : State × Answer :=
  let use := if enc then uEncrypt else uDecrypt
  match s.keyFor m use (fun typ => m.alg == 0x06 || algType m.alg typ) with
  | (s1, .error a) => (s1, a)
  | (s1, .ok (h, x)) =>
    let cost := skeCost m.alg x.keyLen enc (p.inp.length + (p.item 0).length)
    let j := { Job.of m true m.alg cost with wg := x.wg, slots := [h], aad := p.item 0, iv := p.item 1, tag := p.item 2, data := p.inp }
    if m.alg = 0x06 then
      match s1.handleCheck m.inst m.key2 use with
      | .error st => (s1, .of st)
      | .ok (_, y) =>
        if !algType 0x06 x.typ ∨ y.typ ≠ x.typ then (s1, .of St.keyUsage) else s1.askSke { j with slots := [h, m.key2] }
    else s1.askSke j

/-- The modulus bytes of an RSA public key field n ‖ e: the largest multiple of 8 that leaves a byte of e (log entry 40). -/
def rsaModBytes (len : Nat) : Nat := 8 * ((len - 1) / 8)

/-- RSA_ENCRYPT (Table PK.4): the hash of OAEP in PARAM[1:0] (log entry 40). -/
def rsaEncrypt (m : Msg) (s : State) (p : Parts) : State × Answer :=
  let n := rsaModBytes (p.item 1).length
  let e := ofBe ((p.item 1).drop n)
  match firstBad [(decide (m.param ≥ 4) || rsaHash m.param == 0 || p.outLen != 0, 0), (!(p.item 0).isEmpty, 1),
      (decide (n < 256 ∨ n > 1024), 2), (decide ((p.item 2).length > 256), 3), (decide (p.aux.length > 3), 4),
      (decide (p.inp.length > oaepMax n m.param), 0xFF)] with
  | some a => (s, a)
  | none =>
    (s.submitPke { Job.of m false 0x1B (runTime s 0x1B 0 (8 * n) 0 (bitLen e)) with
      param := m.param, draws := true, aad := p.item 1, extra := p.item 2, data := p.inp, outLen := n }, .engine)

/-- RSA_DECRYPT (Table PK.4): a ciphertext of the modulus' length. -/
def rsaDecrypt (m : Msg) (s : State) (p : Parts) : State × Answer :=
  match firstBad [(decide (m.param ≥ 4) || rsaHash m.param == 0 || p.outLen != 0, 0), (!(p.item 0).isEmpty, 1), (!(p.item 1).isEmpty, 2),
      (!(p.item 2).isEmpty, 3), (decide ((p.item 3).length > 256), 4), (decide (p.aux.length > 4), 5)] with
  | some a => (s, a)
  | none =>
    match s.largeKey m uDecrypt 0x40 with
    | (s1, .error a) => (s1, a)
    | (s1, .ok (h, key)) =>
      if p.inp.length ≠ le key 0 2 / 8 then (s1, badPart 0xFF)
      else (s1.submitPke { Job.ofLarge m 0x1A (runTime s1 0x1A 0 (le key 0 2) 0 0) h key with extra := p.item 3, data := p.inp }, .engine)

/-- ENCRYPT (R177 to R179): a nonce, IV or counter block in the command is NONCE_SUPPLIED. -/
def encrypt (m : Msg) (s : State) : State × Answer :=
  match s.gotOf m.cid, partsOf m with
  | some y, _ => (s, y.answer m.usedHamper)
  | none, .error r => (s, badPart r)
  | none, .ok p =>
    if m.alg = 0x1B then
      match s.algRefusal 0x1B [0x1B] with
      | some a => (s, a)
      | none => rsaEncrypt m s p
    else
      let l : Lens := ⟨p.inp.length, (p.item 0).length, (p.item 1).length, m.param % 32, 0, 0⟩
      match firstBad [(decide (m.param ≥ 32) || p.outLen != 0, 0)], cipherReason m.alg true l,
          firstBad [(!(p.item 2).isEmpty, 3), (decide (p.aux.length > 3), 4)] with
      | some a, _, _ => (s, a)
      | none, some a, _ => (s, a)
      | none, none, some a => (s, a)
      | none, none, none =>
        if deviceIv m.alg ∧ !(p.item 1).isEmpty then (s, .of St.nonceSupplied) else cipherJob m s p true

/-- DECRYPT (R177 to R182). PARAM repeats the tag bytes or is zero. -/
def decrypt (m : Msg) (s : State) : State × Answer :=
  match s.gotOf m.cid, partsOf m with
  | some y, _ => (s, y.answer m.usedHamper)
  | none, .error r => (s, badPart r)
  | none, .ok p =>
    if m.alg = 0x1A then
      match s.algRefusal 0x1A [0x1A] with
      | some a => (s, a)
      | none => rsaDecrypt m s p
    else
      let l : Lens := ⟨p.inp.length, (p.item 0).length, (p.item 1).length, (p.item 2).length, 0, 0⟩
      match firstBad [((m.param != 0 && m.param != (p.item 2).length) || p.outLen != 0, 0)], cipherReason m.alg false l,
          firstBad [(!(p.item 3).isEmpty, 4), (decide (p.aux.length > 4), 5)] with
      | some a, _, _ => (s, a)
      | none, some a, _ => (s, a)
      | none, none, some a => (s, a)
      | none, none, none => cipherJob m s p false

/-! ### MACs, hashes, wraps -/

/-- The request of a MAC under a slot. A KMAC key below 16 bytes is refused as its TYPE would be (Table SY.1 names no status; DESIGN
CHOICE, log entry 112). -/
def macJob (m : Msg) (s : State) (p : Parts) (usage : Nat) (tag custom : Bytes) : State × Answer :=
  match s.keyFor m usage (algType m.alg) with
  | (s1, .error a) => (s1, a)
  | (s1, .ok (h, x)) =>
    if (m.alg = 0x38 ∨ m.alg = 0x39) ∧ x.keyLen < 16 then (s1, .of St.keyUsage)
    else s1.askSke { Job.of m true m.alg (skeCost m.alg x.keyLen true p.inp.length) with
      wg := x.wg, slots := [h], tag := tag, extra := custom, data := p.inp, outLen := p.outLen }

/-- MAC_GENERATE (Table SY.1, Table CM.5): the tag length is PARAM[4:0], of a KMAC OUT_LEN. The field's five bits do not reach the full
length of an HMAC tag that Table SY.1 allows: 0 stands for it (DESIGN CHOICE, log entry 112). -/
def macGenerate (m : Msg) (s : State) : State × Answer :=
  match s.gotOf m.cid, partsOf m with
  | some y, _ => (s, y.answer m.usedHamper)
  | none, .error r => (s, badPart r)
  | none, .ok p =>
    let kmac := m.alg == 0x38 || m.alg == 0x39
    let tag := if kmac then p.outLen else if m.param = 0 then digestLen m.alg else m.param % 32
    let l : Lens := ⟨0, 0, 0, 16, 0, 0⟩
    match firstBad [(!macOk m.alg { l with tag := tag } || decide (m.param ≥ 32) || (if kmac then m.param != 0 else p.outLen != 0), 0),
        (!macOk m.alg { l with extra := (p.item 0).length }, 1), (decide (p.aux.length > 1), 2),
        (!macOk m.alg { l with data := p.inp.length }, 0xFF)] with
    | some a => (s, a)
    | none => macJob m s p uMacGen [] (p.item 0)

/-- MAC_VERIFY (R182): the tag's own length is the one judged. -/
def macVerify (m : Msg) (s : State) : State × Answer :=
  match s.gotOf m.cid, partsOf m with
  | some y, _ => (s, y.answer m.usedHamper)
  | none, .error r => (s, badPart r)
  | none, .ok p =>
    let l : Lens := ⟨0, 0, 0, 16, 0, 0⟩
    match firstBad [(!macOk m.alg l || m.param != 0 || p.outLen != 0, 0), (!macOk m.alg { l with tag := (p.item 0).length }, 1),
        (!macOk m.alg { l with extra := (p.item 1).length }, 2), (decide (p.aux.length > 2), 3),
        (!macOk m.alg { l with data := p.inp.length }, 0xFF)] with
    | some a => (s, a)
    | none => macJob m s p uMacVer (p.item 0) (p.item 1)

/-- HASH (Table SY.1): a digest, or OUT_LEN bytes of SHAKE. -/
def hash (m : Msg) (s : State) : State × Answer :=
  match s.gotOf m.cid, partsOf m with
  | some y, _ => (s, y.answer 0)
  | none, .error r => (s, badPart r)
  | none, .ok p =>
    match firstBad [(!hashOk m.alg ⟨0, 0, 0, 0, p.outLen, 0⟩ || m.param != 0, 0), (!p.aux.isEmpty, 1),
        (!hashOk m.alg ⟨p.inp.length, 0, 0, 0, p.outLen, 0⟩, 0xFF)] with
    | some a => (s, a)
    | none => s.askSke { Job.of m true m.alg (skeCost m.alg 0 true p.inp.length) with data := p.inp, outLen := p.outLen }

/-- WRAP and UNWRAP of host data (Table SY.1, R182). -/
def wrapData (m : Msg) (s : State) (wrap : Bool) : State × Answer :=
  match s.gotOf m.cid, partsOf m with
  | some y, _ => (s, y.answer m.usedHamper)
  | none, .error r => (s, badPart r)
  | none, .ok p =>
    match firstBad [((m.alg != 0x07 && m.alg != 0x08) || m.param != 0 || p.outLen != 0, 0), (!p.aux.isEmpty, 1),
        (!wrapOk m.alg wrap p.inp.length, 0xFF)] with
    | some a => (s, a)
    | none =>
      match s.keyFor m (if wrap then uWrap else uUnwrap) (algType m.alg) with
      | (s1, .error a) => (s1, a)
      | (s1, .ok (h, x)) =>
        s1.askSke { Job.of m true m.alg (skeCost m.alg x.keyLen wrap p.inp.length) with wg := x.wg, slots := [h], data := p.inp }

/-- WRAP. -/
def wrap (m : Msg) (s : State) : State × Answer := wrapData m s true

/-- UNWRAP. -/
def unwrap (m : Msg) (s : State) : State × Answer := wrapData m s false

/-! ### Secrets: AGREE, ENCAPSULATE, DECAPSULATE, KEY_DERIVE -/

/-- The optional attribute block of R234, with DEST 3 and a DEST 1 that has none refused. -/
def State.destBlock (s : State) (m : Msg) (item : Bytes) (pos : Nat) : Except Answer (Option Attr) :=
  if m.param % 4 = 3 then .error (badPart 0)
  else if item.isEmpty then (if m.param % 4 = 1 then .error (badPart pos) else .ok none)
  else match s.attrItem item pos with
    | .error a => .error a
    | .ok a => .ok (some a)

/-- A secret's job has ended: it goes where DEST says; a rejected input makes no key and gives the zeros of a full result (R162,
R234). -/
def State.destDone (s : State) (m : Msg) (y : Yield) (a : Option Attr) : State × Answer :=
  if y.status = St.ok then s.deliver m a y.out y.secret
  else
    let n := y.secret.length
    let zeros := if m.param % 4 = 2 then List.replicate (8 * ((n + 7) / 8) + 8) 0 else []
    (s, .resp ⟨y.status, y.reason, 0, y.info, m.usedHamper, y.key, y.out ++ zeros⟩)

/-- Where DEST 1 asks for a new hamper, the store must serve before the engine is used (R478): the gate's wait or refusal. -/
def State.destGate (s : State) (m : Msg) : Option Answer := if m.param % 4 = 1 then s.storeGate true else none

/-- DEST 2 needs EXPORT on the private key used (R234). -/
def exportBlocked (m : Msg) (usage : Nat) : Bool := m.param % 4 == 2 && !bitOf usage uExport

/-- AGREE under a slot. -/
def agreeSlot (m : Msg) (s : State) (peer : Bytes) : State × Answer :=
  match s.keyFor m uAgree (· == if m.alg = 0x04 then 0x10 else if m.alg = 0x10 then 0x13 else 0x14) with
  | (s1, .error a) => (s1, a)
  | (s1, .ok (h, x)) =>
    match (if m.alg = 0x04 then s1.curve x.curve else .ok p256) with
    | .error st => (s1, .of st)
    | .ok c =>
      let want := if m.alg = 0x04 then 1 + 2 * c.plen else if m.alg = 0x10 then 32 else 56
      if peer.length ≠ want then (s1, badPart 1)
      else if exportBlocked m x.usage then (s1, .of St.keyUsage)
      else
        (s1.submitPke { Job.ofSlot m m.alg (runTime s1 m.alg x.curve 0 0 0) h x with param := 0, curves := [(x.curve, c)], aad := peer },
          .engine)

/-- AGREE (R146, R150, R162, R234). -/
def agree (m : Msg) (s : State) : State × Answer :=
  match partsOf m with
  | .error r => (s, badPart r)
  | .ok p =>
    match s.algRefusal m.alg [0x04, 0x10, 0x11, 0x20] with
    | some a => (s, a)
    | none =>
      match firstBad [(decide (m.param ≥ 4) || p.outLen != 0, 0)], s.destBlock m (p.item 1) 2,
          firstBad [(decide (p.aux.length > 2), 3), (!p.inp.isEmpty, 0xFF)] with
      | some a, _, _ => (s, a)
      | none, .error a, _ => (s, a)
      | none, .ok _, some a => (s, a)
      | none, .ok a, none =>
        match s.gotOf m.cid, s.destGate m with
        | some y, _ => s.destDone m y a
        | none, some e => (s, e)
        | none, none =>
          if m.alg = 0x20 then
            match s.largeKey m uAgree 0x41 with
            | (s1, .error e) => (s1, e)
            | (s1, .ok (h, key)) =>
              if (p.item 0).length ≠ le key 0 2 / 8 then (s1, badPart 1)
              else if exportBlocked m h.usage then (s1, .of St.keyUsage)
              else (s1.submitPke { Job.ofLarge m 0x20 (runTime s1 0x20 0 (le key 0 2) (le key 4 2) (le key 2 2)) h key with
                aad := p.item 0 }, .engine)
          else agreeSlot m s (p.item 0)

/-- PARAM of ENCAPSULATE and DECAPSULATE: DEST and the parameter set. -/
def kemParamOk (param : Nat) : Bool := param ||| 0xF == 0xF && decide (setOf param ≤ 2)

/-- ENCAPSULATE (Table CM.5). -/
def encapsulate (m : Msg) (s : State) : State × Answer :=
  match partsOf m with
  | .error r => (s, badPart r)
  | .ok p =>
    match s.algRefusal m.alg [0x29] with
    | some a => (s, a)
    | none =>
      match firstBad [(!kemParamOk m.param || p.outLen != 0, 0), ((p.item 0).length != kemEk (setOf m.param), 1)],
          s.destBlock m (p.item 1) 2, firstBad [(decide (p.aux.length > 2), 3), (!p.inp.isEmpty, 0xFF)] with
      | some a, _, _ => (s, a)
      | none, .error a, _ => (s, a)
      | none, .ok _, some a => (s, a)
      | none, .ok a, none =>
        match s.gotOf m.cid, s.destGate m with
        | some y, _ => s.destDone m y a
        | none, some e => (s, e)
        | none, none =>
          (s.submitPke { Job.of m false 0x29 (runTime s 0x29 0 (setOf m.param) 0 0) with
            param := m.param, draws := true, aad := p.item 0 }, .engine)

/-- The length of the peer value or ciphertext of a component (R148, R151). -/
def peerLen (s : State) (m : Msg) (c : Component) : Nat :=
  if c.1 = 0x10 then (match s.curve c.2.1 with | .ok e => 1 + 2 * e.plen | .error _ => 0)
  else if c.1 = 0x13 then 32 else if c.1 = 0x14 then 56 else kemCt (setOf m.param)

/-- Whether a COMPOSITE_DECAPS input holds one value of the right length per component. -/
def peersOk (s : State) (m : Msg) (cs : List Component) (inp : Bytes) : Bool :=
  decide (inp.length = cs.foldl (fun a c => a + 2 + peerLen s m c) 0)
    && (prefixed 3 inp).map (·.length) == cs.map (peerLen s m)

/-- DECAPSULATE under a slot, or of a composite key (R151). -/
def decapsulateJob (m : Msg) (s : State) (ct : Bytes) : State × Answer :=
  if m.alg = 0x39 then
    match s.largeKey m uDecaps 0x42 with
    | (s1, .error e) => (s1, e)
    | (s1, .ok (h, key)) =>
      let cs := (componentsOf key).getD []
      match s1.handleRefusal (handlesOf 0x42 0 key) with
      | some st => (s1, .of st)
      | none =>
        if !peersOk s1 m cs ct then (s1, badPart 1)
        else if exportBlocked m h.usage then (s1, .of St.keyUsage)
        else
          (s1.submitPke (s1.withCurves { Job.ofLarge m 0x39 (compositeTime s1 m false cs 0) h key with aad := ct } (handlesOf 0x42 0 key)),
            .engine)
  else if ct.length ≠ kemCt (setOf m.param) then (s, badPart 1)
  else match s.keyFor m uDecaps (· == 0x20) with
    | (s1, .error a) => (s1, a)
    | (s1, .ok (h, x)) =>
      if exportBlocked m x.usage then (s1, .of St.keyUsage)
      else (s1.submitPke { Job.ofSlot m 0x2A (runTime s1 0x2A 0 (setOf m.param) 0 0) h x with aad := ct }, .engine)

/-- DECAPSULATE (R163, R234); ALG 0x39 is COMPOSITE_DECAPS. -/
def decapsulate (m : Msg) (s : State) : State × Answer :=
  match partsOf m with
  | .error r => (s, badPart r)
  | .ok p =>
    match s.algRefusal m.alg [0x2A, 0x39] with
    | some a => (s, a)
    | none =>
      match firstBad [(!kemParamOk m.param || p.outLen != 0, 0)], s.destBlock m (p.item 1) 2,
          firstBad [(decide (p.aux.length > 2), 3), (!p.inp.isEmpty, 0xFF)] with
      | some a, _, _ => (s, a)
      | none, .error a, _ => (s, a)
      | none, .ok _, some a => (s, a)
      | none, .ok a, none =>
        match s.gotOf m.cid, s.destGate m with
        | some y, _ => s.destDone m y a
        | none, some e => (s, e)
        | none, none => decapsulateJob m s (p.item 0)

/-- The lengths of KEY_DERIVE (R186): the output, label and context, and the salt of the two-step function alone. -/
def deriveLengths (m : Msg) (p : Parts) : Option Answer :=
  let fn := field m.param 4 2
  let label := (p.item 1).length
  let context := (p.item 2).length
  firstBad [(m.alg != 0x3C || decide (m.param ≥ 64) || bitOf m.param 2 || bitOf m.param 3 || decide (p.outLen < 16 ∨ p.outLen > 128)
      || m.param % 4 == 3, 0),
    (decide (label > 256), 2), (decide (if fn = 2 then context > 256 else label + context > 256), 3),
    (if fn = 3 then decide ((p.item 3).length > 64) else !(p.item 3).isEmpty, 4), (decide (p.aux.length > 4), 5), (!p.inp.isEmpty, 0xFF)]

/-- KEY_DERIVE (R186, R234). SIZE of the block is the output length. -/
def keyDerive (m : Msg) (s : State) : State × Answer :=
  match partsOf m with
  | .error r => (s, badPart r)
  | .ok p =>
    match deriveLengths m p, s.attrItem (p.item 0) 1 with
    | some a, _ => (s, a)
    | none, .error a => (s, a)
    | none, .ok a =>
      if a.size ≠ p.outLen then (s, .of St.keyAttributes)
      else match s.gotOf m.cid, s.destGate m with
        | some y, _ => s.destDone m y (some a)
        | none, some e => (s, e)
        | none, none =>
          match s.keyFor m uDerive (algType 0x3C) with
          | (s1, .error e) => (s1, e)
          | (s1, .ok (h, x)) =>
            if exportBlocked m x.usage then (s1, .of St.keyUsage)
            else s1.askSke { Job.of m true 0x3C (skeCost 0x3C x.keyLen true p.outLen) with
              wg := x.wg, slots := [h], own := m.param % 4 = 1, aad := p.item 1, extra := p.item 2, iv := p.item 3
              outLen := p.outLen }

/-! ### Arithmetic and random numbers -/

/-- The lengths of arithmetic mode (R157, Table PK.10): m and a of L/8 bytes; b of L/8, none for INV, and for EXP an exponent of
E = 64 to L bits. -/
def arithLengths (m : Msg) (p : Parts) : Option Answer :=
  let n := 8 * (m.param % 256)
  let b := (p.item 2).length
  let bOk := if m.alg = 0x43 then b == 0 else if m.alg = 0x44 then b % 8 == 0 && decide (8 ≤ b ∧ b ≤ n) else b == n
  firstBad [(p.outLen != 0 || decide (m.param ≥ 256), 0), ((p.item 0).length != n, 1), ((p.item 1).length != n, 2), (!bOk, 3),
    (decide (p.aux.length > 3), 4), (!p.inp.isEmpty, 0xFF)]

/-- ARITHMETIC_RUN (R157, R158). -/
def arithmeticRun (m : Msg) (s : State) : State × Answer :=
  match s.gotOf m.cid, partsOf m with
  | some y, _ => (s, y.answer 0)
  | none, .error r => (s, badPart r)
  | none, .ok p =>
    let w := m.param % 256
    match s.algRefusal m.alg [0x40, 0x41, 0x42, 0x43, 0x44] with
    | some a => (s, a)
    | none =>
      if w < 2 ∨ w > 128 then (s, .of St.modulusInvalid)
      else match arithLengths m p with
        | some a => (s, a)
        | none =>
          if !modulusOk w (ofBe (p.item 0)) then (s, .of St.modulusInvalid)
          else (s.submitPke { Job.of m false m.alg (runTime s m.alg 0 w 0 (8 * (p.item 2).length)) with
            param := w, key2 := p.item 0, data := p.item 1, extra := p.item 2, outLen := 8 * w }, .engine)

/-- RANDOM_GENERATE (R210, Table CM.5): OUT_LEN bytes of the DRBG, 1–4,096. -/
def randomGenerate (m : Msg) (s : State) : State × Answer :=
  match partsOf m with
  | .error r => (s, badPart r)
  | .ok p =>
    match firstBad [(m.alg != 0 || m.param != 0 || decide (p.outLen < 1 ∨ p.outLen > 4096), 0), (!p.aux.isEmpty, 1), (!p.inp.isEmpty, 0xFF)] with
    | some a => (s, a)
    | none =>
      if !s.canDraw then (s, .wait [needEntropy])
      else
        let (s1, b) := s.draw p.outLen
        (s1, .okay b)

end Sys2Proof.Machine
end

