-- ==== Sys2Proof/Machine/Domain.lean ====
section
/-! DEFINITION. Pairing a custodian port (R262), joining and leaving a federation domain (R436 to R438), and the replication of
tenant roots between its members (R439 to R441). -/

namespace Sys2Proof.Machine

/-! ### PORT_PAIR (R262) -/

/-- The pairing key of a port at a pairing count. -/
def State.pairingKey (s : State) (port count : Nat) : Bytes := kdf s.keys.idSeeds "PAIR" (leBytes 1 port ++ leBytes 2 count) 256

/-- The attribute block of a pairing key as it is exported: an AES-256 key (its TYPE is the model's choice, log entry 41). -/
def pairAttr : Attr := ⟨3, 0, 0, 32, 0, 0, 0, 0⟩

/-- The port holds the new key, and its earlier pairing and session end (R262). It stays unpaired where the supplies disagreed with
STRAP2 (R461). -/
def State.pairPort (s : State) (p : Nat) : State :=
  let x := s.port p
  let count := (x.pairCount + 1) % 65536
  (s.setPort p { x with
    pairCount := count, paired := true, key := s.pairingKey p count, session := [], nonce := [], txSeq := 0, rxSeq := 0
    discards := 0, silent := 0, queue := [] }).setPortState p (if s.quorum.portsOff then 0 else 1)

/-- PORT_PAIR (R262): port (1), zeros (7), a transport item in its export form → the key under the transport. -/
def portPair (m : Msg) (s : State) : State × Answer :=
  let port := le m.payload 0 1
  let item := (m.payload.take m.payloadLen).drop 8
  let kind := le item 0 1
  let attr := pairAttr.bytes
  if port > 1 ∨ le m.payload 1 7 ≠ 0 ∨ !allZero (slice item 1 7) ∨ !((kind = 1 ∧ item.length = 8) ∨ (kind = 2 ∧ item.length = 1289)) then
    (s, .of St.lengthInvalid)
  else if s.keys.idSeeds.isEmpty then (s, .of St.custodyUnavailable)
  else
    let key := s.pairingKey port (((s.port port).pairCount + 1) % 65536)
    if kind = 1 then
      match s.kek m uWrap with
      | .error st => (s, .of st)
      | .ok x =>
        match s.lanePart 3 (blobJob m 1 x.wg [] (attr ++ key)) with
        | (s1, .error e) => (s1, e)
        | (s1, .ok out) => (s1.pairPort port, .okay out)
    else match s.hybridSeal m (slice item 8 1184) (slice item 1192 97) attr (attr ++ key) with
      | (s1, .error a) => (s1, a)
      | (s1, .ok out) => (s1.pairPort port, .okay out)

/-! ### Membership certificates (Table FY.4) -/

/-- The certificate's length. -/
def certLen : Nat := 5518

/-- A membership certificate as its bytes spell it. -/
structure Certificate where
  leave  : Bool
  index  : Nat
  serial : Nat
  domain : Nat
  device : Bytes
  idEc   : Bytes
  idMl   : Bytes
  authEc : Bytes
  authMl : Bytes
  deriving DecidableEq, Repr

/-- The certificate that bytes spell; `none` where its layout is wrong. -/
def certOf (b : Bytes) : Option Certificate :=
  let leave := bitOf (le b 1 1) 0
  if b.length ≠ certLen ∨ le b 0 1 ≠ 1 ∨ le b 1 1 > 1 ∨ le b 2 2 > 16383 ∨ (leave ∧ le b 2 2 ≠ 0) ∨ le b 56 8 ≠ 0 then none
  else some ⟨leave, le b 2 2, le b 4 4, le b 8 8, slice b 16 8, slice b 24 16, slice b 40 16, slice b 64 97, slice b 161 1952⟩

/-- The first 16 bytes of a key's SHA-384 digest. -/
def keyDigest (key : Bytes) : Bytes := (Config.sha384 key).take 16

/-- The pin of an authority: the digests of its two keys (R438). -/
def Certificate.pin (c : Certificate) : Bytes := keyDigest c.authEc ++ keyDigest c.authMl

/-- Both authority signatures, over bytes 0–2,112 (R437). -/
def certSigsOk (b : Bytes) (c : Certificate) : Bool :=
  ecOk c.authEc (Config.sha384 (b.take 2113)) (slice b 2113 96)
    && mlOk c.authMl (ascii "FV64-DOMAIN") (b.take 2113) (slice b 2209 3309)

/-- Identity keys (97-byte point, 1,952-byte ML-DSA key) match the certificate. -/
def Certificate.names (c : Certificate) (keys : Bytes) : Bool :=
  c.idEc == keyDigest (keys.take 97) && c.idMl == keyDigest (keys.drop 97)

/-- Index and last CERT_SERIAL of a domain the device has been in. -/
def State.pastIn (s : State) (domain : Nat) : Option (Nat × Nat) := (s.ferry.past.find? (fun p => p.1 == domain)).map (·.2)

/-- The first refusal of a certificate, in the order of R438: status and REASON. Check 5 falls to a join alone: a LEAVE
certificate carries INDEX 0 (log entry 42). -/
def State.certRefusal (s : State) (b : Bytes) (c : Certificate) : Option (Nat × Nat) :=
  let member := s.is R.ferryDomainMember
  let past := s.pastIn c.domain
  if c.device ≠ padTo 8 s.life.serial ∨ !c.names s.identityKeys then some (St.tokenInvalid, 0x30)
  else if member ∧ (c.domain ≠ s.get R.ferryDomainIdDomainId ∨ c.pin ≠ s.ferry.pin) then some (St.tokenInvalid, 0x31)
  else if !member ∧ c.leave then some (St.tokenInvalid, 0x32)
  else if (match past with | some p => decide (c.serial ≤ p.2) | none => false) = true then some (St.tokenInvalid, 0x33)
  else if !c.leave && (match past with | some p => c.index != p.1 | none => false) then some (St.tokenInvalid, 0x34)
  else if c.leave ∧ !s.ferry.replicas.isEmpty then some (St.notPermitted, 0)
  else if !certSigsOk b c then some (St.tokenInvalid, 0x35)
  else none

/-- The index of a domain and the last CERT_SERIAL accepted for it are kept. -/
def State.keepPast (s : State) (domain index serial : Nat) : State :=
  { s with ferry.past := (domain, index, serial) :: s.ferry.past.filter (fun p => p.1 != domain) }

/-- The effects of an accepted certificate (R438): the pin, INDEX and the commit of SKE_NONCE_CFG.DEVICE (R192). Each request
takes DEVICE once, at its start, so none sees two values (R197). -/
def State.acceptCert (s : State) (b : Bytes) (c : Certificate) : State :=
  if c.leave then
    let held := (s.pastIn c.domain).map (·.1)
    let s1 := { s.keepPast c.domain (held.getD 0) c.serial with ferry.pin := [], ferry.cert := [] }
    ((((s1.put R.ferryDomainMember 0).put R.ferryDomainIndex 0).put R.ferryDomainIdDomainId 0).put R.skeNonceCfgDevice 0)
  else
    let s1 := { s.keepPast c.domain c.index c.serial with ferry.pin := c.pin, ferry.cert := b }
    ((((s1.put R.ferryDomainMember 1).put R.ferryDomainIndex c.index).put R.ferryDomainIdDomainId c.domain).put
      R.skeNonceCfgDevice (1 + c.index))

/-- DOMAIN_JOIN (R437, R438). -/
def domainJoin (m : Msg) (s : State) : State × Answer :=
  let b := m.payload.take m.payloadLen
  match certOf b with
  | none => (s, .of St.lengthInvalid)
  | some c =>
    if s.keys.idSeeds.isEmpty then (s, .of St.custodyUnavailable)
    else match s.certRefusal b c with
      | some (st, why) => (s, .why st why)
      | none => (s.acceptCert b c, .of St.ok)

/-! ### Replication (R439, R440) -/

/-- The tenant and the role's data of a TENANT_REPLICATE payload; `none` where its head is wrong or the data is not of one of
the lengths. -/
def replicaParts (m : Msg) (lens : List Nat) : Option (Nat × Bytes) :=
  let b := m.payload.take m.payloadLen
  if b.length < 8 ∨ le b 1 1 ≠ 0 ∨ le b 2 2 ≥ 4096 ∨ le b 4 4 ≠ 0 ∨ !lens.contains (b.length - 8) then none
  else some (le b 2 2, b.drop 8)

/-- Whether the entry may take a replica (R440 OFFER): EMPTY or ERASED, or ACTIVE with its replica bit; with ROOTS_UNMATCHED the
tenant-root area is left untouched (R77). -/
def State.offerable (s : State) (n : Nat) : Bool :=
  !s.is R.bootStatusRootsUnmatched &&
    match s.tenant n with
    | none => true
    | some t => t.state == 0 || t.state == 3 || (t.state == 1 && s.ferry.replicas.contains n)

/-- The ephemeral keys of an offer: the ML-KEM-768 seed and the P-384 scalar. -/
def Offer.kemSeed (o : Offer) : Bytes := o.secret.take 64
def Offer.scalar (o : Offer) : Bytes := beBytes 48 (p384.scalarOf (o.secret.drop 64))

/-- The body of an offer (R440): OFFER_ID, TENANT, the certificate, the identity keys, the encapsulation key and the point. -/
def State.offerBody (s : State) (n : Nat) (o : Offer) : Bytes :=
  o.id ++ leBytes 2 n ++ padTo certLen s.ferry.cert ++ s.identityKeys ++ publicOf s 0x20 0 4 o.kemSeed ++ p384.public Blind.none o.scalar

/-- The lengths of an offer's body and of a package's body, and of the signatures over them. -/
def offerLen : Nat := 8858
def packageLen : Nat := 8904
def sigsLen : Nat := 3405

/-- OFFER (R440). A device in no domain has no certificate to offer: NOT_PERMITTED. -/
def replicateOffer (m : Msg) (s : State) : State × Answer :=
  match replicaParts m [0] with
  | none => (s, .of St.lengthInvalid)
  | some (n, _) =>
    if !s.offerable n ∨ !s.is R.ferryDomainMember then (s, .of St.notPermitted)
    else if s.keys.idSeeds.isEmpty then (s, .of St.custodyUnavailable)
    else if !s.canDraw then (s, .wait [needEntropy])
    else
      let (s1, r) := s.draw 224
      let o : Offer := ⟨r.take 8, slice r 8 128, s.compass.mc + 180000⟩
      let body := s1.offerBody n o
      ({ s1 with ferry.offers := store s1.ferry.offers n o }, .okay (body ++ s1.identitySigs body (r.drop 136)))

/-- Another member's certificate, identity keys and signatures over `body` (R440): 0x36 where the certificate is not another
member's of this domain, 0x37 where keys or signatures fail. -/
def State.peerRefusal (s : State) (cert keys body sigs : Bytes) : Option Nat :=
  match certOf cert with
  | none => some 0x36
  | some c =>
    if c.leave ∨ !s.is R.ferryDomainMember ∨ c.domain ≠ s.get R.ferryDomainIdDomainId ∨ c.pin ≠ s.ferry.pin
        ∨ c.index = s.get R.ferryDomainIndex ∨ !certSigsOk cert c then some 0x36
    else if !c.names keys ∨ !ecOk (keys.take 97) (Config.sha384 body) (sigs.take 96)
        ∨ !mlOk (keys.drop 97) [] body (sigs.drop 96) then some 0x37
    else none

/-- The tenant root record as it travels (R78, R440): TRK, the three salts and WG0–WG2, 92 bytes. -/
def Tenant.record (t : Tenant) : Bytes :=
  padTo 80 t.root ++ leBytes 4 (t.wgs.getD 0 0) ++ leBytes 4 (t.wgs.getD 1 0) ++ leBytes 4 (t.wgs.getD 2 0)

/-- The attribute block of a tenant root record (R440). -/
def rootAttr : Attr := ⟨0x30, 0, 0, 92, 0, 0, 0, 0⟩

/-- SEND (R440). An offer made for another tenant is refused as LENGTH_INVALID (log entry 43). -/
def replicateSend (m : Msg) (s : State) : State × Answer :=
  match replicaParts m [offerLen + sigsLen] with
  | none => (s, .of St.lengthInvalid)
  | some (n, d) =>
    let body := d.take offerLen
    if le body 8 2 ≠ n then (s, .of St.lengthInvalid)
    else if s.keys.idSeeds.isEmpty then (s, .of St.custodyUnavailable)
    else match s.peerRefusal (slice body 10 certLen) (slice body 5528 2049) body (d.drop offerLen) with
      | some why => (s, .why St.tokenInvalid why)
      | none =>
        match s.tenant n with
        | none => (s, .of St.tenantAbsent)
        | some t =>
          if t.state = 2 then (s, .of St.tenantLocked)
          else if t.state ≠ 1 then (s, .of St.tenantAbsent)
          else if t.failed then (s, .of St.storeIntegrity)
          else if !s.canDraw then (s, .wait [needEntropy])
          else match s.hybridSeal m (slice body 7577 1184) (slice body 8761 97) rootAttr.bytes (rootAttr.bytes ++ t.record) with
            | (s1, .error a) => (s1, a)
            | (s1, .ok out) =>
              let pkg := body.take 8 ++ leBytes 2 n ++ leBytes 4 t.tg ++ leBytes 2 t.live ++ out ++ padTo certLen s1.ferry.cert
                ++ s1.identityKeys
              let (s2, r) := s1.draw 88
              (s2, .okay (pkg ++ s2.identitySigs pkg r))

/-- The tenant that a package's record makes: TG and LIVE of the package, TRK, salts and WG0–WG2 of the record. -/
def replicaTenant (live tg : Nat) (rec : Bytes) : Tenant :=
  ⟨1, live, tg, [le rec 80 4, le rec 84 4, le rec 88 4], slice rec 0 32, [slice rec 32 16, slice rec 48 16, slice rec 64 16], false, []⟩

/-- The offer that a package answers, where the device still holds it. -/
def State.heldOffer (s : State) (n : Nat) (id : Bytes) : Option Offer :=
  (look s.ferry.offers n).bind (fun o => if o.id = id ∧ s.compass.mc < o.ends then some o else none)

/-- ACCEPT (R440): the entry is written in R82's order of writing, its replica bit set and the offer discarded. -/
def replicateAccept (m : Msg) (s : State) : State × Answer :=
  match replicaParts m [packageLen + sigsLen] with
  | none => (s, .of St.lengthInvalid)
  | some (n, d) =>
    let body := d.take packageLen
    if le body 8 2 ≠ n then (s, .of St.lengthInvalid)
    else match s.peerRefusal (slice body 1337 certLen) (slice body 6855 2049) body (d.drop packageLen) with
      | some why => (s, .why St.tokenInvalid why)
      | none =>
        match s.heldOffer n (body.take 8) with
        | none => (s, .why St.tokenInvalid 0x38)
        | some o =>
          if !s.offerable n then (s, .of St.notPermitted)
          else match s.hybridOpen m o.kemSeed o.scalar (slice body 16 1321) rootAttr.bytes with
            | (s0, .error e) => (s0, e)
            | (s0, .ok blob) =>
              if blob.length ≠ 124 ∨ blob.take 32 ≠ rootAttr.bytes then (s0, .of St.keyAttributes)
              else
                let t := replicaTenant (le body 14 2) (le body 10 4) (blob.drop 32)
                let s1 := (s0.destroyTenantEntry n t).setReplica n true
                ({ s1 with ferry.offers := drop s1.ferry.offers n }, .of St.ok)

/-- A hamper of another member taken into this store (R440 ADOPT): a new SERIAL and reference, wrapped again under the WG of
its header. -/
def State.adoptHamper (s : State) (m : Msg) (page : Bytes) (ref0 : Nat) (h : HamperHead) (key : Bytes) : State × Except Answer HamperHead :=
  let serial := s.hs.nextSerial
  let h1 := { h with serial := serial, address := ref0 + serial % 2 ^ 24 * 2 ^ 40 }
  match s.wrapPart m h1 key with
  | (s1, .error e) => (s1, .error e)
  | (s1, .ok b) => ({ s1 with hs.nextSerial := serial + 1 }.changePage (refOf ref0).page (putHamper page (refOf ref0) b), .ok h1)

/-- ADOPT (R440): the hamper's bytes, 256 or 4,096, go to the place that HAMPER names, as a created hamper's do. -/
def replicateAdopt (m : Msg) (s : State) : State × Answer :=
  match replicaParts m [256, 4096] with
  | none => (s, .of St.lengthInvalid)
  | some (n, b) =>
    let h := headOf b
    let large := b.length == 4096
    if h.format ≠ (if large then 2 else 1) ∨ large ≠ (refOf m.hamper).large ∨ !sizeOk large h.typ h.len
        ∨ h.wrapLen ≠ wrapLenOf h.len then (s, .of St.hamperAddress)
    else if !s.ferry.replicas.contains n then (s, .of St.notPermitted)
    else if h.tenant ≠ n ∨ !s.bound m.inst n then (s, .of St.tenantDenied)
    else match s.entryRefusal h with
      | some st => (s, .of st)
      | none =>
        if h.isSealed then (s, .of St.imageSealStale)
        else match s.unwrapKey m h b with
          | (s0, .error e) => (s0, e)
          | (s0, .ok key) =>
            match s0.placement m.hamper with
            | (s1, .wait k) => (s1, .wait k)
            | (s1, .refused st) => (s1, .of st)
            | (s1, .page p) =>
              match s1.adoptHamper m p m.hamper h key with
              | (s2, .error e) => (s2, e)
              | (s2, .ok h1) =>
                (s2.stageDone ⟨m.cid, ⟨St.ok, 0, 0, 0, h1.address, 0, leBytes 8 h1.address⟩, none⟩, .staged)

/-- REPLICATION_OFFER_EXPIRY (R440): an offer is held for 180,000 mc. -/
def execReplicationOfferExpiry (tenant : Nat) (s : State) : Host.Outcome State Fault Refusal :=
  .next (match look s.ferry.offers tenant with
    | some o => if o.ends ≤ s.compass.mc then { s with ferry.offers := drop s.ferry.offers tenant } else s
    | none => s)

end Sys2Proof.Machine
end

