-- ==== Sys2Proof/Machine/Tokens.lean ====
section
/-! DEFINITION. Signed tokens: APPROVAL_SUBMIT (R252, R256) and ANCHOR_LOAD (R306 to R308), whose signatures a PKE job verifies. -/

namespace Sys2Proof.Machine

/-- The job that verifies the signature of an approval token or an anchor (R256, R306): KIND 1 is ECDSA P-384 over the SHA-384 digest
of the signed bytes, KIND 2 ML-DSA-65 in the pure form with a context. -/
def tokenJob (s : State) (m : Msg) (kind : Nat) (context pub signed sig : Bytes) : Job :=
  if kind = 1 then
    s.withCurves { Job.of m false 0x02 (runTime s 0x02 1 0 48 0) with
      curve := 1, aad := pub, tag := sig, data := Config.sha384 signed } [1]
  else
    { Job.of m false 0x32 (runTime s 0x32 0 1 signed.length 0) with param := 4, aad := pub, tag := sig, extra := context, data := signed }

/-- Whether the signature verifies: a part that the job makes (R252 check 7, R307 check 8). -/
def State.tokenSigOk (s : State) (m : Msg) (head : Nat) (context : Bytes) : State × Except Answer Bool :=
  let p := m.payload
  let n := le p (if head = 80 then 72 else 48) 2
  match s.pkePart 12 (tokenJob s m (le p 1 1) context (slice p head n) (p.take (head + n)) (p.drop (head + n))) with
  | (s1, .error e) => (s1, .error e)
  | (s1, .ok b) => (s1, .ok (b == [1]))

/-- APPROVAL_SUBMIT (R252): a refused token is counted and changes nothing else; a repeat completes OK. -/
def approvalSubmit (m : Msg) (s : State) : State × Answer :=
  match s.tokenRefusal m.payload m.payloadLen with
  | some (st, why) => (s.tokenRefused m, .why st why)
  | none =>
    match s.tokenSigOk m 80 (ascii "FV64-APPROVE") with
    | (s1, .error e) => (s1, e)
    | (s1, .ok false) => (s1.tokenRefused m, .why St.tokenInvalid 6)
    | (s1, .ok true) => (s1.tokenTaken m, .okay ((s1.tokenTaken m).approvalResult (le m.payload 8 4 % 32)))

/-- ANCHOR_LOAD (R307, R308). -/
def anchorLoad (m : Msg) (s : State) : State × Answer :=
  match s.anchorRefusal m.payload m.payloadLen with
  | some (st, why) => (s.anchorRefused why, .why st why)
  | none =>
    match s.tokenSigOk m 64 (ascii "FV64-ANCHOR") with
    | (s1, .error e) => (s1, e)
    | (s1, .ok false) => (s1.anchorRefused 0x17, .why St.tokenInvalid 0x17)
    | (s1, .ok true) => (s1.anchorTaken m.payload, .of St.ok)

end Sys2Proof.Machine
end

