-- ==== Sys2Proof/Machine/Commands.lean ====
section
/-! DEFINITION. Running a command (chapters 8 and 10): the checks of R230 and R240, quorum acts (R236, R237), the run itself,
chains, and what goes on once something that commands wait for has changed. -/

namespace Sys2Proof.Machine

/-! ### The act of an opcode -/

/-- TENANT_REPLICATE by its ROLE (Table FY.5). -/
def replicate (m : Msg) (s : State) : State × Answer :=
  match le m.payload 0 1 with
  | 1 => replicateOffer m s
  | 2 => replicateSend m s
  | 3 => replicateAccept m s
  | 4 => replicateAdopt m s
  | _ => (s, .of St.lengthInvalid)

/-- Groups 0x01 and 0x02, and the rotation that the custody firmware starts itself (R195). -/
def keyAct (m : Msg) (s : State) : State × Answer :=
  match m.opcode with
  | 0x0101 => lift deviceInfoGet m s
  | 0x0102 => lift identityGet m s
  | 0x0103 => lift attestationAnswer m s
  | 0x0104 => attestationSign m s
  | 0x0201 => keyGenerate m s
  | 0x0202 => keyImport m s
  | 0x0203 => keyExport m s
  | 0x0204 => keyDerive m s
  | 0x0205 => keyPublicGet m s
  | 0x0206 => hamperLoad m s
  | 0x0207 => slotFree m s
  | 0x0208 => hamperRewrap m s
  | 0x0209 => hamperRevoke m s
  | 0x020A => hamperReclaim m s
  | 0x020B => nonceLimitSet m s
  | _ => rotateKey m s

/-- Group 0x03. -/
def cryptoAct (m : Msg) (s : State) : State × Answer :=
  match m.opcode with
  | 0x0301 => sign m s
  | 0x0302 => verify m s
  | 0x0303 => encrypt m s
  | 0x0304 => decrypt m s
  | 0x0305 => macGenerate m s
  | 0x0306 => macVerify m s
  | 0x0307 => hash m s
  | 0x0308 => wrap m s
  | 0x0309 => unwrap m s
  | 0x030A => agree m s
  | 0x030B => encapsulate m s
  | 0x030C => decapsulate m s
  | 0x030D => arithmeticRun m s
  | 0x030E => randomGenerate m s
  | _ => (s, .of St.opcodeUnknown)

/-- Groups 0x04 to 0x06. -/
def tenantAct (m : Msg) (s : State) : State × Answer :=
  match m.opcode with
  | 0x0401 => tenantCreate m s
  | 0x0402 => tenantDelete m s
  | 0x0403 => lift tenantQuotaSet m s
  | 0x0404 => lift tenantPolicySet m s
  | 0x0405 => generationRoll m s
  | 0x0406 => generationRetire m s
  | 0x0407 => lift instanceBind m s
  | 0x0408 => lift tenantUnlock m s
  | 0x0409 => lift tenantInfoGet m s
  | 0x0501 => lift custodianEnrol m s
  | 0x0502 => lift custodianRemove m s
  | 0x0503 => lift quorumPolicySet m s
  | 0x0504 => portPair m s
  | 0x0505 => approvalSubmit m s
  | 0x0506 => lift operationStatusGet m s
  | 0x0507 => lift operationCancel m s
  | 0x0601 => lift timeGet m s
  | 0x0602 => anchorLoad m s
  | 0x0603 => lift waypointSet m s
  | 0x0604 => lift waypointClear m s
  | 0x0605 => lift mainsNominalSet m s
  | _ => (s, .of St.opcodeUnknown)

/-- Groups 0x07 to 0x09. -/
def deviceAct (m : Msg) (s : State) : State × Answer :=
  match m.opcode with
  | 0x0701 => storeAttach m s
  | 0x0702 => storeFormat m s
  | 0x0703 => storeRecheck m s
  | 0x0704 => storePrune m s
  | 0x0705 => storeReclaimRange m s
  | 0x0706 => curveLoad m s
  | 0x0707 => curveRetire m s
  | 0x0708 => microcodeInstall m s
  | 0x0709 => lift firmwareStage m s
  | 0x070A => firmwareActivate m s
  | 0x070B => lift configSet m s
  | 0x070C => lift tamperResponseSet m s
  | 0x070D => attestationKeyProvision m s
  | 0x070E => noiseRecalibrate m s
  | 0x070F => clusterService m s
  | 0x0710 => lift clusterRetire m s
  | 0x0711 => lift deviceUnlock m s
  | 0x0712 => lift floorRaise m s
  | 0x0713 => domainJoin m s
  | 0x0714 => replicate m s
  | 0x0801 => lift logRead m s
  | 0x0802 => lift logFreeze m s
  | 0x0803 => lift logThawCmd m s
  | 0x0804 => lift (logClear (s.opIdOf m)) m s
  | 0x0805 => lift journalAttach m s
  | 0x0901 => lifecycleTransition m s
  | 0x0902 => debugChallengeGet m s
  | 0x0903 => lift debugOpen m s
  | 0x0904 => lift debugPasswordSet m s
  | 0x0905 => lift debugKeySet m s
  | _ => (s, .of St.opcodeUnknown)

/-- What the command does, once its checks have passed (R239). -/
def actOf (m : Msg) (s : State) : State × Answer :=
  if m.opcode = rotateOp ∨ m.opcode / 256 ≤ 2 then keyAct m s
  else if m.opcode / 256 = 3 then cryptoAct m s
  else if m.opcode / 256 ≤ 6 then tenantAct m s
  else deviceAct m s

/-- Whether a result does not fit the place it is written to (R230 step 8, R229). -/
def overRoom (m : Msg) (n : Nat) : Bool :=
  match m.origin with
  | .ring _ => decide (64 + n > m.resultLen)
  | .mbox _ _ => decide (n > 4032)
  | .internal => decide (n > 4032)
  | .ferry _ => false
  | .firmware => false

/-- The response RESULT_TOO_SMALL with the length needed. -/
def tooSmall (r : Resp) : Resp := { Resp.of St.resultTooSmall with result := r.result }

/-- The answer of a command whose change lies in a batch. -/
def State.heldAnswer (s : State) (cid : Nat) : Option Resp :=
  ((s.hs.batches.flatMap (fun b => b.cmds)).find? (fun h => h.cid == cid)).map (·.resp)

/-- The result of a command whose request has joined the SKE queue, as far as its length is known before it runs. -/
def State.askedLen (s : State) (cid : Nat) : Nat := ((s.eng.skeQueue.find? (fun j => j.cid == cid)).map Job.room).getD 0

/-- The act, with check 8 of R230: a command whose result does not fit makes no change. -/
def act (m : Msg) (s : State) : State × Answer :=
  let (s1, a) := actOf m s
  match a with
  | .resp r => if r.status < 0x0100 ∧ overRoom m r.result.length then (s, .resp (tooSmall r)) else (s1, a)
  | .engine =>
    let n := s1.askedLen m.cid
    if overRoom m n then (s, .resp (tooSmall { Resp.of St.ok with result := List.replicate n 0 })) else (s1, a)
  | .staged =>
    match s1.heldAnswer m.cid with
    | some r => if overRoom m r.result.length then (s, .resp (tooSmall r)) else (s1, a)
    | none => (s1, a)
  | _ => (s1, a)

/-- What an answer makes of its command. -/
def State.settleAnswer (s : State) (cid : Nat) (a : Answer) : State :=
  match a with
  | .resp r => s.complete cid r
  | .wait needs => { s with host.cmds := adjust s.host.cmds cid (fun c => { c with stage := .route, needs := needs }) }
  | .engine => s
  | .staged => s.setStage cid .committed

/-- The command runs, or runs on. -/
def State.runAct (s : State) (cid : Nat) (m : Msg) : State :=
  let (s1, a) := act m (if m.custody then s.pageOverlay m.opcode else s)
  s1.settleAnswer cid a

/-! ### The checks of R230 and R240 -/

/-- Check 1: VERSION, the zero fields and the FLAGS bits (R230); in the mailbox form the ring addresses are zero too (R229). -/
def headerBad (m : Msg) : Bool :=
  let ring := match m.origin with | .ring _ => true | .ferry _ => true | _ => false
  m.version != 1 || m.zeros != 0 || decide (m.flags ≥ 64)
    || (!ring && (m.payloadAddr != 0 || m.resultAddr != 0 || m.resultLen != 0))

/-- Check 3: the life-cycle state and LOCK (R240), and PURGED, which turns away the same commands (R362). -/
def State.lifeCheck (s : State) (op : Nat) : Option Nat :=
  let life := s.get R.devStatusLife
  let bare := life == 0 || life == 3 || (life == 2 && s.is R.keeperTamperStateShredded)
  let served := op == 0x0101 || op / 256 == 6 || op / 256 == 8 || op / 256 == 9
  if life = 4 ∨ (bare ∧ !served) then some St.lifecycleForbidden
  else if op = 0x0504 ∧ life ≠ 1 then some St.lifecycleForbidden
  else if (s.is R.devStatusLocked ∨ s.is R.keeperTamperStatePurged) ∧ !lockedServes op then some St.deviceLocked
  else none

/-- Check 4: an opcode that the PF alone may issue (Table CM.6). -/
def rightCheck (m : Msg) : Option Nat :=
  match opInfo m.opcode with
  | some i => if i.pfOnly ∧ m.inst ≠ 0 then some St.notPermitted else none
  | none => none

/-- Whether the command is for another device. -/
def State.isFar (s : State) (m : Msg) : Bool := m.target != s.get R.ferryStatusSelf

/-- Check 5: a follower must be present; a follower reaches none (R423, R230). -/
def State.targetCheck (s : State) (m : Msg) : Option Nat :=
  if s.isFar m ∧ !(s.get R.ferryStatusRole = 1 ∧ m.target < 64 ∧ s.get (R.ferryFollowerState m.target) = 3) then
    some St.deviceUnreachable
  else none

/-- Check 6: the tenant binding (R37); the PF is exempt in group 0x04. A tenant that R82 marks dying turns its commands away. -/
def State.bindingCheck (s : State) (m : Msg) : Option Nat :=
  let g := m.opcode / 256
  if (g = 2 ∨ g = 3 ∨ (g = 4 ∧ m.inst ≠ 0)) ∧ !s.bound m.inst m.tenant then some St.tenantDenied
  else if g = 2 ∨ g = 3 then s.dying m.tenant sealedWg
  else none

/-- Custody that does not serve turns away what needs it (R342, R243): custody-route commands, and what moves a key. -/
def State.custodyCheck (s : State) (m : Msg) : Option Nat :=
  let usesKey := m.key != 0 || m.key2 != 0 || m.hamper != 0 || m.autoload
  if m.custody ∧ !s.is R.devStatusCustodyUp then some St.custodyUnavailable
  else if (m.storeRoute ∨ usesKey) ∧ !m.custody ∧ s.is R.mpcWorldStatusKeysLocked then some St.custodyUnavailable
  else none

/-- A mailbox holds 4,032 bytes of payload (R229): more is LENGTH_INVALID with REASON 0. -/
def mboxRoom (m : Msg) : Option Nat :=
  match m.origin with
  | .mbox _ _ => if m.payloadLen > 4032 then some St.lengthInvalid else none
  | .internal => if m.payloadLen > 4032 then some St.lengthInvalid else none
  | _ => none

/-- The checks of R230 that the header decides, in their order, as far as they fall to this device (R230, R431): the front
makes 1, 2, 4 and 5 for a follower's command, the follower 3 and 6. -/
def State.precheck (s : State) (m : Msg) : Option Nat :=
  let sent := match m.origin with | .ferry _ => true | _ => false
  let far := s.isFar m && !sent
  if !sent ∧ headerBad m then some St.headerInvalid
  else if !sent ∧ (opInfo m.opcode).isNone then some St.opcodeUnknown
  else ((if far then none else s.lifeCheck m.opcode).or (if sent then none else rightCheck m)).or
    ((if sent then none else s.targetCheck m).or (if far then none else (s.bindingCheck m).or ((s.custodyCheck m).or (mboxRoom m))))

/-! ### Commands for a follower (R431) -/

/-- The command goes to its follower as COMMAND, under a fresh XTAG. -/
def State.sendCommand (s : State) (cid : Nat) (m : Msg) : State :=
  let n := m.target
  let tag := s.ferry.nextTag
  let s1 := { s with
    ferry.waits := store s.ferry.waits tag ⟨n, some cid, ⟨0x60, 0⟩, 0⟩
    ferry.nextTag := (tag + 1) % 2 ^ 32 }
  let s2 := s1.put (R.ferryFollowerOutOutstanding n) (s1.get (R.ferryFollowerOutOutstanding n) + 1)
  s2.sendMessage (s2.get (R.ferryFollowerPort n)) 4 n tag (headerBytes m ++ m.payload.take m.payloadLen)

/-- A checked command for a follower: sent, or held while the follower has 256 outstanding or FERRY is quiesced (R55). -/
def State.forward (s : State) (cid : Nat) (m : Msg) : State :=
  let s1 := s.setStage cid .committed
  if s1.get (R.ferryFollowerOutOutstanding m.target) < 256 ∧ !s.is (R.hdrCtrlQuiesce 0xF0000) then s1.sendCommand cid m
  else { s1 with ferry.queued := s1.ferry.queued ++ [(m.target, cid)] }

/-- Commands that were held for a follower go out while it takes more (R431). -/
def State.sendQueued (s : State) (n : Nat) : State :=
  match s.ferry.queued.find? (fun q => q.1 == n) with
  | none => s
  | some q =>
    if s.get (R.ferryFollowerOutOutstanding n) < 256 ∧ !s.is (R.hdrCtrlQuiesce 0xF0000) ∧ s.get (R.ferryFollowerState n) = 3 then
      let s1 := { s with ferry.queued := removeFirst (· == q) s.ferry.queued }
      match look s1.host.cmds q.2 with
      | some c => s1.sendCommand q.2 c.m
      | none => s1
    else s

/-- Everything that was held for a follower is looked at. -/
def State.sendAllQueued (s : State) : State := s.ferry.queued.foldl (fun t q => t.sendQueued q.1) s

/-! ### Quorum acts (R236, R237, R250) -/

/-- The act class that a command needs, and whether it is of the physical-presence class (Table CM.6, Table LC.5). What the
custody firmware runs itself needs none. -/
def State.quorumNeed (s : State) (m : Msg) : Option (Nat × Bool) :=
  if m.origin = .firmware then none
  else if m.opcode = 0x0201 ∨ m.opcode = 0x0202 then
    match partsOf m with
    | .ok p => if bitOf (attrOf (p.item 0)).usage uExport then some (16, false) else none
    | .error _ => none
  else if m.opcode = 0x070C then some (7, s.loosens (m.payload.take m.payloadLen))
  else if m.opcode = 0x0714 then (if le m.payload 0 1 = 2 ∨ le m.payload 0 1 = 3 then some (11, false) else none)
  else if m.opcode = 0x0901 then (if s.tokenAlone (le m.payload 0 1) then none else some (13, true))
  else if m.opcode = 0x0903 then (if s.debugQuorum (le m.payload 0 1) then some (14, false) else none)
  else match opInfo m.opcode with
    | some ⟨_, _, some c⟩ => some (c, isPpClass c)
    | _ => none

/-- The acts whose rules judge them at submission too: those of R79, LIFECYCLE_TRANSITION (R397) and DEBUG_OPEN (R406). -/
def judgedEarly (op : Nat) : Bool :=
  op == 0x0401 || op == 0x0405 || op == 0x0406 || op == 0x0408 || op == 0x0901 || op == 0x0903

/-- The refusals of check 7 (R230, R233), which come before a slot opens; STORE_UNAVAILABLE comes at once too before the first
STORE_ATTACH (R478). -/
def formStatus (attached : Bool) (st : Nat) : Bool :=
  st == St.lengthInvalid || st == St.programAbsent || st == St.curveUnknown || st == St.curveRetired || st == St.modulusInvalid
    || st == St.keyAttributes || (!attached && st == St.storeUnavailable)

/-- The refusal of LIFECYCLE_TRANSITION for HOLDUP_SENSE, which is sampled as the transition runs, after quorum release (R402). -/
def ofHoldup (op : Nat) (r : Resp) : Bool := op == 0x0901 && r.status == St.lifecycleForbidden && r.reason == 3

/-- The refusal that an act meets before it is placed in a slot (R236), with what its refusal leaves: of check 7, and of the
act's own checks where its rule judges it at submission. The other checks of its own decide when it runs (R237). -/
def early (m : Msg) (s : State) : Option (State × Resp) :=
  match actOf m s with
  | (s1, .resp r) =>
    if judgedEarly m.opcode ∧ !ofHoldup m.opcode r ∧ r.status ≥ 0x0100 then some (s1, r)
    else if formStatus s.hs.attached r.status then some (s, r)
    else none
  | _ => none

/-- The act is placed in a slot and completes with QUORUM_PENDING (R236). A DEBUG_OPEN has used its challenge (R406). -/
def State.pendAct (s : State) (cid : Nat) (m : Msg) (cls tenant : Nat) (pp : Bool) : State :=
  match early m s with
  | some (s1, r) => s1.complete cid r
  | none =>
    let (s1, r) := (if m.opcode = 0x0903 then s.useChallenge else s).openSlot m cls tenant pp
    if overRoom m r.result.length then s.complete cid (tooSmall r) else s1.complete cid r

/-- The pause of a live update holds a command back (R243): every mailbox command, and every custody-route command that has not
started; not what the custody firmware runs itself. -/
def State.pauses (s : State) (m : Msg) : Bool :=
  s.life.updating.isSome && (match m.origin with | .firmware => false | .ring _ => m.custody | .ferry _ => m.custody | _ => true)

/-- A command whose header checks have passed and whose payload is here. -/
def State.launch (s : State) (cid : Nat) : State :=
  match look s.host.cmds cid with
  | none => s
  | some c =>
    if s.pauses c.m then (s.setStage cid .held).showInbound
    else if s.isFar c.m then s.forward cid c.m
    else match s.quorumNeed c.m with
      | none => s.runAct cid c.m
      | some (cls, pp) =>
        match s.quorumPath cls c.m.tenant pp with
        | .runNow => s.runAct cid c.m
        | .refused st => s.complete cid (Resp.of st)
        | .slot k t => s.pendAct cid c.m k t pp

/-- A ring command's payload is read through the ITU under the submitting function (R229, R431). -/
def State.readPayload (s : State) (cid : Nat) (m : Msg) : State :=
  let s1 := s.setStage cid .payload
  match s1.access m.inst m.payloadAddr m.payloadLen none (.payload cid) with
  | (s2, .faulted _) => s2.accessFailed (.payload cid) 3 0x10
  | (s2, _) => s2

/-- A taken command begins: refused by its header, or its payload is read, or it is launched; `fetch` is false where the
payload came with it. -/
def State.begin (s : State) (cid : Nat) (fetch : Bool) : State :=
  match look s.host.cmds cid with
  | none => s
  | some c =>
    match s.precheck c.m with
    | some st => s.complete cid (Resp.of st)
    | none =>
      match c.m.origin with
      | .ring _ => if fetch ∧ c.m.payloadLen ≠ 0 then s.readPayload cid c.m else s.launch cid
      | _ => s.launch cid

/-! ### Chains (R280) -/

/-- The next entries of SQ `n`'s chains start, at most `fuel` of them: a malformed chain ends with HEADER_INVALID before any
entry runs, a stopped one with CANCELLED. -/
def State.runChains (s : State) (n : Nat) : Nat → State
  | 0 => s
  | fuel + 1 =>
    match s.nextEntry n with
    | (s1, none) => s1
    | (s1, some (cid, ch)) =>
      let s2 :=
        if ch.stopped.isSome then s1.complete cid (Resp.of St.cancelled)
        else if ch.bad then s1.complete cid (Resp.of St.headerInvalid)
        else s1.begin cid true
      s2.runChains n fuel

/-- Every chain's next entry starts. -/
def State.advanceChains (s : State) : State :=
  s.host.sqs.foldl (fun t q =>
    if q.2.chains.isEmpty then t else t.runChains q.1 (q.2.chains.foldl (fun a c => a + c.waiting.length) 0)) s

/-! ### What goes on once something has changed -/

/-- Whether a command has come further since it stood as `c`, and can go on at once. -/
def State.movedOn (s : State) (cid : Nat) (c : Cmd) : Bool :=
  match look s.host.cmds cid with
  | some d => d.stage == .route && ((d.got.isSome && c.got.isNone) || decide (c.parts.length < d.parts.length))
  | none => false

/-- A command that waits runs again (R122, R165, R115): with what its engine job or a part of its own gave back, or to see whether what
it waits for is there; at most `fuel` times. -/
def State.rerun (s : State) (cid : Nat) : Nat → State
  | 0 => s
  | fuel + 1 =>
    match look s.host.cmds cid with
    | none => s
    | some c =>
      if c.stage = .route ∧ (c.got.isSome ∨ !c.parts.isEmpty ∨ !c.needs.isEmpty) then
        match if c.got.isNone then s.custodyCheck c.m else none with
        | some st => s.complete cid (Resp.of st)
        | none =>
          let t := s.runAct cid c.m
          if t.movedOn cid c then t.rerun cid fuel else t
      else s

/-- Whether a command waits for a page. -/
def Cmd.waitsPage (c : Cmd) : Bool := c.stage == .route && c.needs.any (fun n => decide (n < needEntropy))

/-- Pages that no command asked for again are let go: those the host could not deliver, and all of them once no command
waits for a page; the prefill keeps its own. -/
def State.dropFetched (s : State) : State :=
  let busy := s.host.cmds.any (fun c => c.2.waitsPage)
  let keep (e : Nat × Fetched) : Bool :=
    (match s.hs.prefill with | some (k, p) => e.1 == nodeKey (nodeBase k + p) | none => false) || (busy && !e.2.failed)
  { s with hs.fetched := s.hs.fetched.filter keep }

/-- The store's own work that waits: requests that could not be posted (R475), BARRIER, the prefill (R120). -/
def State.storeWork (s : State) : State :=
  let s0 := (s.serveUnposted (s.hs.unposted.length + 1)).barrier
  (s0.postPlain s0.hs.waiting.length).prefillStep 1300

/-- The device's own work that waits: a start that waits for the DRBG, the values drawn at a G5 start (R102), services that wait for an
end (R417). Its draws are of class 3 and then 4 (Table EN.5). -/
def State.ownWork (s : State) : State :=
  let s1 := if s.is R.devStatusCustodyUp ∧ !s.slotsReady then s.drawSlotValues else s
  let s2 := if s1.slotsReady ∧ !s1.hs.stagedDone.isEmpty ∧ s1.is R.storeStatusOpen then s1.releaseStaged else s1
  s2.settleServices.resumeBoot.seedDelays

/-- A command of class 2 that waits for the DRBG (Table EN.5): every one but RANDOM_GENERATE. -/
def Cmd.waitsDraw (c : Cmd) : Bool := c.needs.contains needEntropy && c.m.opcode != 0x030E

/-- Commands that a live update's pause held back start once it has ended, oldest first (R243). -/
def State.resumeHeld (s : State) : State :=
  if s.life.updating.isSome ∨ s.host.cmds.all (fun c => c.2.stage != .held) then s
  else ((s.host.cmds.filter (fun c => c.2.stage == .held)).foldl (fun t c => (t.setStage c.1 .route).launch c.1) s).showInbound

/-- Everything that waits is looked at once: what a pause held back, the store's own work, then commands that wait for a draw of
class 2, the device's own work, then every command that waits, oldest first, then the chains. -/
def State.pump (s : State) : State :=
  let s0 := s.resumeHeld.storeWork
  let s1 := (if s0.canDraw then (s0.host.cmds.filter (fun c => c.2.waitsDraw)).foldl (fun t c => t.rerun c.1 8) s0 else s0).ownWork
  ((s1.host.cmds.foldl (fun t c => t.rerun c.1 8) s1).dropFetched).advanceChains

/-! ### The doors -/

/-- What SYS_ACCESS_ERR_ADDR shows of a mailbox's doorbell: its offset in its function's BAR (R224), or, for the internal mailbox, bits
[24:0] of its fabric address (Table GI.9). -/
def doorbellOff (fn box : Nat) : Nat := if fn = 0 then 0x5000 + 8 * box else if fn = nwInst then 0x0221000 else 0x5000

/-- A command written into a mailbox by `r`, with GO (R225, R226, R228): dropped where the mailbox is CLOSED or RUNNING. -/
def State.toMbox (s : State) (r : Requester) (fn box : Nat) (m : Msg) : State :=
  let st := s.get (mboxState fn box)
  if st = 3 then s.accessErr r 4 (doorbellOff fn box) true
  else if st = 1 then s.put (mboxOverrun fn box) 1
  else
    let s1 := (s.put (mboxState fn box) 1).put (mboxOverrun fn box) 0
    let (s2, cid) := s1.take { m with inst := fn, origin := mboxOrigin fn box }
    (s2.begin cid false).pump

/-- Whether a mailbox exists and can be reached: the PF's 32 while the link is up, a VF's one, the internal one (R224, R473); a
CLOSED one records what it turns away during a halt too (R228). -/
def State.mboxThere (s : State) (fn box : Nat) : Bool :=
  s.pwr.main && s.pwr.porstN && (s.get (mboxState fn box) == 3 || (!s.pwr.halted && !bitOf s.pwr.regionReset 6)) &&
    (if fn = nwInst then box == 0 else s.pwr.link && (if fn = 0 then decide (box < 32) else box == 0 && s.liveVfs.contains fn))

/-- A ring command that has been taken with its payload (R284, R431). -/
def State.toRing (s : State) (sq : Nat) (m : Msg) : State :=
  match look s.host.sqs sq with
  | none => s
  | some q =>
    if s.get (R.qengSqStateState sq) ≠ 1 ∨ !s.pwr.link ∨ !s.dieMRuns then s
    else
      let (s1, cid) := (s.takenUp sq q.desc.fn).take { m with inst := q.desc.fn, origin := .ring sq }
      (s1.begin cid false).pump

/-- A command of opcode `op` arrives by its door with its payload and runs: through a mailbox, from a ring, from the front
device, or from the custody firmware itself. -/
def command (op : Nat) (m0 : Msg) (s : State) : Host.Outcome State Fault Refusal :=
  let m := { m0 with opcode := op }
  .next (match m.origin with
    | .mbox fn box => if s.mboxThere fn box then (s.noHalf (requesterOf fn)).toMbox (requesterOf fn) fn box m else s
    | .internal =>
      if s.mboxThere nwInst 0 then (s.noHalf (requesterOf nwInst)).toMbox (requesterOf nwInst) nwInst 0 m else s
    | .ring sq => s.toRing sq m
    | .ferry _ =>
      if s.dieMRuns ∧ s.get R.ferryStatusRole = 2 then
        let (s1, cid) := s.take m
        (s1.begin cid false).pump
      else s
    | .firmware =>
      if s.dieMRuns ∧ s.is R.devStatusCustodyUp then
        let (s1, cid) := s.take m
        (s1.begin cid false).pump
      else s)

end Sys2Proof.Machine
end

