-- ==== Sys2Proof/Machine/CommandRows.lean ====
section
/-! DEFINITION. The commands of Table CM.6: each has the effect of its opcode, by the checks and the route of Commands. -/

namespace Sys2Proof

/-- The command with byte `i` of its payload set to `v`: the operand that tells the rows of one opcode apart. -/
def Msg.withByte (m : Msg) (i v : Nat) : Msg := { m with payload := m.payload.set i (BitVec.ofNat 8 v) }

end Sys2Proof

namespace Sys2Proof.Machine

/-- DEVICE_INFO_GET (R239): returns serial, life-cycle state, floor, image and configuration digests and the LIMITS counters. -/
def execDeviceInfoGet (m : Msg) (s : State) : Host.Outcome State Fault Refusal := command 0x0101 m s

/-- IDENTITY_GET (R239): returns the device's P-384 and ML-DSA-65 identity public keys. -/
def execIdentityGet (m : Msg) (s : State) : Host.Outcome State Fault Refusal := command 0x0102 m s

/-- ATTESTATION_ANSWER (R99): returns the attestation statement with an HMAC-SHA-384 under the attestation key. -/
def execAttestationAnswer (m : Msg) (s : State) : Host.Outcome State Fault Refusal := command 0x0103 m s

/-- ATTESTATION_SIGN (R99): returns the attestation statement signed with ECDSA P-384 and ML-DSA-65 under the identity key. -/
def execAttestationSign (m : Msg) (s : State) : Host.Outcome State Fault Refusal := command 0x0104 m s

/-- KEY_GENERATE (R185): generates a key, wraps it into a new hamper under the highest live WG, and optionally loads it. -/
def execKeyGenerate (m : Msg) (s : State) : Host.Outcome State Fault Refusal := command 0x0201 m s

/-- KEY_IMPORT (R235): unwraps a key from its transport, validates it and wraps it into a new hamper. -/
def execKeyImport (m : Msg) (s : State) : Host.Outcome State Fault Refusal := command 0x0202 m s

/-- KEY_EXPORT (R235): exports a key with EXPORT usage under the symmetric or hybrid transport. -/
def execKeyExport (m : Msg) (s : State) : Host.Outcome State Fault Refusal := command 0x0203 m s

/-- KEY_DERIVE (R186): derives a key in an SKE lane from a derivation-key slot and delivers it by DEST. -/
def execKeyDerive (m : Msg) (s : State) : Host.Outcome State Fault Refusal := command 0x0204 m s

/-- KEY_PUBLIC_GET (R239): returns the public key of a slot or hamper. -/
def execKeyPublicGet (m : Msg) (s : State) : Host.Outcome State Fault Refusal := command 0x0205 m s

/-- HAMPER_LOAD (R122): verifies a hamper's path and header, unwraps it and loads it into a chosen key slot, returning a handle. -/
def execHamperLoad (m : Msg) (s : State) : Host.Outcome State Fault Refusal := command 0x0206 m s

/-- SLOT_FREE (R95): wipes a key slot and returns it to FREE. -/
def execSlotFree (m : Msg) (s : State) : Host.Outcome State Fault Refusal := command 0x0207 m s

/-- HAMPER_REWRAP (R127): re-wraps a hamper in place under the tenant's highest live WG. -/
def execHamperRewrap (m : Msg) (s : State) : Host.Outcome State Fault Refusal := command 0x0208 m s

/-- HAMPER_REVOKE (R126): frees a hamper's cell, wipes slots loaded from it, and commits the revocation. -/
def execHamperRevoke (m : Msg) (s : State) : Host.Outcome State Fault Refusal := command 0x0209 m s

/-- HAMPER_RECLAIM (R128): frees one cell whose hamper can no longer open. -/
def execHamperReclaim (m : Msg) (s : State) : Host.Outcome State Fault Refusal := command 0x020A m s

/-- NONCE_LIMIT_SET (R193): lowers the usage limit of one loaded encryption slot. -/
def execNonceLimitSet (m : Msg) (s : State) : Host.Outcome State Fault Refusal := command 0x020B m s

/-- SIGN (R146): runs a signing program on a PKE cluster with the named key. -/
def execSign (m : Msg) (s : State) : Host.Outcome State Fault Refusal := command 0x0301 m s

/-- VERIFY (R162): runs a verification program and completes with OK, VERIFY_FAILED or INPUT_REJECTED. -/
def execVerify (m : Msg) (s : State) : Host.Outcome State Fault Refusal := command 0x0302 m s

/-- ENCRYPT (R179): encrypts data on an SKE lane, or with RSA_ENCRYPT, with a device-made nonce or IV. -/
def execEncrypt (m : Msg) (s : State) : Host.Outcome State Fault Refusal := command 0x0303 m s

/-- DECRYPT (R182): decrypts data, checking any tag in constant time and zeroing output on failure. -/
def execDecrypt (m : Msg) (s : State) : Host.Outcome State Fault Refusal := command 0x0304 m s

/-- MAC_GENERATE (R177): computes a MAC on an SKE lane. -/
def execMacGenerate (m : Msg) (s : State) : Host.Outcome State Fault Refusal := command 0x0305 m s

/-- MAC_VERIFY (R182): verifies a MAC in constant time. -/
def execMacVerify (m : Msg) (s : State) : Host.Outcome State Fault Refusal := command 0x0306 m s

/-- HASH (R177): computes a digest or SHAKE output on an SKE lane. -/
def execHash (m : Msg) (s : State) : Host.Outcome State Fault Refusal := command 0x0307 m s

/-- WRAP (R177): wraps data with AES-KW or AES-KWP. -/
def execWrap (m : Msg) (s : State) : Host.Outcome State Fault Refusal := command 0x0308 m s

/-- UNWRAP (R182): unwraps data with AES-KW or AES-KWP, failing with AUTH_FAILED on integrity failure. -/
def execUnwrap (m : Msg) (s : State) : Host.Outcome State Fault Refusal := command 0x0309 m s

/-- AGREE (R234): runs key agreement and delivers the shared secret by DEST. -/
def execAgree (m : Msg) (s : State) : Host.Outcome State Fault Refusal := command 0x030A m s

/-- ENCAPSULATE (R234): runs ML-KEM encapsulation and delivers the ciphertext and secret by DEST. -/
def execEncapsulate (m : Msg) (s : State) : Host.Outcome State Fault Refusal := command 0x030B m s

/-- DECAPSULATE (R163): runs ML-KEM or composite decapsulation and delivers the secret by DEST. -/
def execDecapsulate (m : Msg) (s : State) : Host.Outcome State Fault Refusal := command 0x030C m s

/-- ARITHMETIC_RUN (R157): runs one arithmetic-mode operation on operands carried by the command. -/
def execArithmeticRun (m : Msg) (s : State) : Host.Outcome State Fault Refusal := command 0x030D m s

/-- RANDOM_GENERATE (R217): returns up to 4,096 bytes from the DRBG at host priority. -/
def execRandomGenerate (m : Msg) (s : State) (agree : Bool := true) : Host.Outcome State Fault Refusal := command 0x030E m (s.core agree)

/-- TENANT_CREATE (R79): creates a tenant root record with a fresh TRK and salt and sets its TG. -/
def execTenantCreate (m : Msg) (s : State) : Host.Outcome State Fault Refusal := command 0x0401 m s

/-- TENANT_DELETE (R82): erases a tenant's TRK and salts in the ordered intent/wipe/rewrite/complete sequence. -/
def execTenantDelete (m : Msg) (s : State) : Host.Outcome State Fault Refusal := command 0x0402 m s

/-- TENANT_QUOTA_SET (R94): sets a tenant's slot quota. -/
def execTenantQuotaSet (m : Msg) (s : State) : Host.Outcome State Fault Refusal := command 0x0403 m s

/-- TENANT_POLICY_SET (R193): sets a tenant's default usage limit and rotation option. -/
def execTenantPolicySet (m : Msg) (s : State) : Host.Outcome State Fault Refusal := command 0x0404 m s

/-- GENERATION_ROLL (R79): issues a new wrap generation with a fresh salt in a free position. -/
def execGenerationRoll (m : Msg) (s : State) : Host.Outcome State Fault Refusal := command 0x0405 m s

/-- GENERATION_RETIRE (R82): erases one wrap generation's salt, wiping affected slots and rewriting the entry. -/
def execGenerationRetire (m : Msg) (s : State) : Host.Outcome State Fault Refusal := command 0x0406 m s

/-- INSTANCE_BIND (R268): replaces an instance's tenant binding whole. -/
def execInstanceBind (m : Msg) (s : State) : Host.Outcome State Fault Refusal := command 0x0407 m s

/-- TENANT_UNLOCK (R79): returns a LOCKED tenant entry to ACTIVE. -/
def execTenantUnlock (m : Msg) (s : State) : Host.Outcome State Fault Refusal := command 0x0408 m s

/-- TENANT_INFO_GET (R239): returns a tenant's state, generations, quota and slots held. -/
def execTenantInfoGet (m : Msg) (s : State) : Host.Outcome State Fault Refusal := command 0x0409 m s

/-- CUSTODIAN_ENROL (R247): enrols a custodian in an empty position, with PIN_PENDING for a PORT custodian. -/
def execCustodianEnrol (m : Msg) (s : State) : Host.Outcome State Fault Refusal := command 0x0501 m s

/-- CUSTODIAN_REMOVE (R247): removes a custodian, clearing its approvals and cancelling slots that can no longer complete. -/
def execCustodianRemove (m : Msg) (s : State) : Host.Outcome State Fault Refusal := command 0x0502 m s

/-- QUORUM_POLICY_SET (R249): sets a class's eligibility mask, M and timeout, cancelling its pending operations. -/
def execQuorumPolicySet (m : Msg) (s : State) : Host.Outcome State Fault Refusal := command 0x0503 m s

/-- PORT_PAIR (R262): derives and returns a custodian port's pairing key, ending any earlier pairing. -/
def execPortPair (m : Msg) (s : State) : Host.Outcome State Fault Refusal := command 0x0504 m s

/-- APPROVAL_SUBMIT (R252): checks an approval token and, if valid, sets the custodian's approval bit in the slot. -/
def execApprovalSubmit (m : Msg) (s : State) : Host.Outcome State Fault Refusal := command 0x0505 m s

/-- OPERATION_STATUS_GET (R237): returns the state and outcome of a quorum operation. -/
def execOperationStatusGet (m : Msg) (s : State) : Host.Outcome State Fault Refusal := command 0x0506 m s

/-- OPERATION_CANCEL (R237): ends a pending quorum operation with QUORUM_CANCELLED. -/
def execOperationCancel (m : Msg) (s : State) : Host.Outcome State Fault Refusal := command 0x0507 m s

/-- TIME_GET (R309): returns a time stamp, alignment flags and the held anchor. -/
def execTimeGet (m : Msg) (s : State) : Host.Outcome State Fault Refusal := command 0x0601 m s

/-- ANCHOR_LOAD (R307): checks a signed anchor and, if accepted, replaces the held anchor or schedules an aligning step. -/
def execAnchorLoad (m : Msg) (s : State) : Host.Outcome State Fault Refusal := command 0x0602 m s

/-- WAYPOINT_SET (R310): arms a waypoint with its instant, action and repeat settings. -/
def execWaypointSet (m : Msg) (s : State) : Host.Outcome State Fault Refusal := command 0x0603 m s

/-- WAYPOINT_CLEAR (R310): disarms a waypoint and lifts any COMMAND hold. -/
def execWaypointClear (m : Msg) (s : State) : Host.Outcome State Fault Refusal := command 0x0604 m s

/-- MAINS_NOMINAL_SET (R313): changes the nominal mains frequency in OTP, clearing ALIGNED and ANCHOR_HELD. -/
def execMainsNominalSet (m : Msg) (s : State) : Host.Outcome State Fault Refusal := command 0x0605 m s

/-- STORE_ATTACH (R478): sets up or replaces the store-service rings and page-buffer pool and posts REOPEN. -/
def execStoreAttach (m : Msg) (s : State) : Host.Outcome State Fault Refusal := command 0x0701 m s

/-- STORE_FORMAT (R115): burns a new store epoch and writes an empty root record, reopening the store. -/
def execStoreFormat (m : Msg) (s : State) : Host.Outcome State Fault Refusal := command 0x0702 m s

/-- STORE_RECHECK (R129): refetches a failed subtree's path and clears its mark if it verifies. -/
def execStoreRecheck (m : Msg) (s : State) : Host.Outcome State Fault Refusal := command 0x0703 m s

/-- STORE_PRUNE (R130): sets the empty tag over a failed subtree, destroying its hampers. -/
def execStorePrune (m : Msg) (s : State) : Host.Outcome State Fault Refusal := command 0x0704 m s

/-- STORE_RECLAIM_RANGE (R128): frees unopenable cells over up to 4,096 pages and returns three counts. -/
def execStoreReclaimRange (m : Msg) (s : State) : Host.Outcome State Fault Refusal := command 0x0705 m s

/-- CURVE_LOAD (R155): runs CURVE_CHECK on a curve record and assigns it a handle. -/
def execCurveLoad (m : Msg) (s : State) : Host.Outcome State Fault Refusal := command 0x0706 m s

/-- CURVE_RETIRE (R156): retires a loaded curve handle for the epoch and wipes its slots. -/
def execCurveRetire (m : Msg) (s : State) : Host.Outcome State Fault Refusal := command 0x0707 m s

/-- MICROCODE_INSTALL (R142): verifies and installs a microcode package and rolls it onto the clusters. -/
def execMicrocodeInstall (m : Msg) (s : State) : Host.Outcome State Fault Refusal := command 0x0708 m s

/-- FIRMWARE_STAGE (R415): writes a chunk into the idle firmware bank or the package buffer. -/
def execFirmwareStage (m : Msg) (s : State) : Host.Outcome State Fault Refusal := command 0x0709 m s

/-- FIRMWARE_ACTIVATE (R416): verifies the idle bank and performs the live update handover. -/
def execFirmwareActivate (m : Msg) (s : State) : Host.Outcome State Fault Refusal := command 0x070A m s

/-- CONFIG_SET (R414): changes a configuration field through a handover to a new DMK. -/
def execConfigSet (m : Msg) (s : State) : Host.Outcome State Fault Refusal := command 0x070B m s

/-- TAMPER_RESPONSE_SET (R355): changes a source's or class's responses, a class minimum or the temperature limits. -/
def execTamperResponseSet (m : Msg) (s : State) : Host.Outcome State Fault Refusal := command 0x070C m s

/-- ATTESTATION_KEY_PROVISION (R100): installs a 48-byte attestation key in the device entry. -/
def execAttestationKeyProvision (m : Msg) (s : State) : Host.Outcome State Fault Refusal := command 0x070D m s

/-- NOISE_RECALIBRATE (R220): starts a trim sweep on a noise source. -/
def execNoiseRecalibrate (m : Msg) (s : State) : Host.Outcome State Fault Refusal := command 0x070E m s

/-- CLUSTER_SERVICE_FENCE (R417): fences a PKE cluster, SKE lane or custody pair when its lease ends. -/
def execClusterServiceFence (m : Msg) (s : State) : Host.Outcome State Fault Refusal := command 0x070F (m.withByte 5 1) s

/-- CLUSTER_SERVICE_RETURN (R417): tests, reloads and returns a fenced, off or quarantined part to service. -/
def execClusterServiceReturn (m : Msg) (s : State) : Host.Outcome State Fault Refusal := command 0x070F (m.withByte 5 2) s

/-- CLUSTER_SERVICE_POWER_OFF (R417): powers off a PKE cluster, region G0-G3, G7 or an unused Ferry port. -/
def execClusterServicePowerOff (m : Msg) (s : State) : Host.Outcome State Fault Refusal := command 0x070F (m.withByte 5 3) s

/-- CLUSTER_SERVICE_POWER_ON (R417): powers a cluster, region or Ferry port back on. -/
def execClusterServicePowerOn (m : Msg) (s : State) : Host.Outcome State Fault Refusal := command 0x070F (m.withByte 5 4) s

/-- CLUSTER_SERVICE_RECALIBRATE (R418): recalibrates a temperature sensor's offset against the other sensors. -/
def execClusterServiceRecalibrate (m : Msg) (s : State) : Host.Outcome State Fault Refusal := command 0x070F (m.withByte 5 5) s

/-- CLUSTER_RETIRE (R419): burns a PKE cluster's retirement bit and retires it permanently. -/
def execClusterRetire (m : Msg) (s : State) : Host.Outcome State Fault Refusal := command 0x0710 m s

/-- DEVICE_UNLOCK (R361): clears the keeper's lock flag on a quorum release with a port approval. -/
def execDeviceUnlock (m : Msg) (s : State) : Host.Outcome State Fault Refusal := command 0x0711 m s

/-- FLOOR_RAISE (R408): raises the anti-rollback floor in OTP. -/
def execFloorRaise (m : Msg) (s : State) : Host.Outcome State Fault Refusal := command 0x0712 m s

/-- DOMAIN_JOIN (R438): checks a membership certificate and joins or leaves a federation domain. -/
def execDomainJoin (m : Msg) (s : State) : Host.Outcome State Fault Refusal := command 0x0713 m s

/-- TENANT_REPLICATE_OFFER (R440): on B, draws ephemeral keys and returns a signed offer for a tenant. -/
def execTenantReplicateOffer (m : Msg) (s : State) : Host.Outcome State Fault Refusal := command 0x0714 (m.withByte 0 1) s

/-- TENANT_REPLICATE_SEND (R440): on A, verifies an offer and returns the tenant root record as a signed package. -/
def execTenantReplicateSend (m : Msg) (s : State) : Host.Outcome State Fault Refusal := command 0x0714 (m.withByte 0 2) s

/-- TENANT_REPLICATE_ACCEPT (R440): on B, verifies a package and installs the replicated tenant entry. -/
def execTenantReplicateAccept (m : Msg) (s : State) : Host.Outcome State Fault Refusal := command 0x0714 (m.withByte 0 3) s

/-- TENANT_REPLICATE_ADOPT (R440): on B, re-wraps a hamper of a replicated tenant into B's store. -/
def execTenantReplicateAdopt (m : Msg) (s : State) : Host.Outcome State Fault Refusal := command 0x0714 (m.withByte 0 4) s

/-- LOG_READ (R386): returns up to 63 security-log records from a first position. -/
def execLogRead (m : Msg) (s : State) : Host.Outcome State Fault Refusal := command 0x0801 m s

/-- LOG_FREEZE (R385): stops writing security-log records into MRAM, buffering new ones. -/
def execLogFreeze (m : Msg) (s : State) : Host.Outcome State Fault Refusal := command 0x0802 m s

/-- LOG_THAW (R385): resumes security-log writing and writes the buffered records. -/
def execLogThaw (m : Msg) (s : State) : Host.Outcome State Fault Refusal := command 0x0803 m s

/-- LOG_CLEAR (R387): advances the log epoch and starts a fresh log with LOG_CLEARED. -/
def execLogClear (m : Msg) (s : State) : Host.Outcome State Fault Refusal := command 0x0804 m s

/-- JOURNAL_ATTACH (R389): attaches the operations-journal ring and header in host memory. -/
def execJournalAttach (m : Msg) (s : State) : Host.Outcome State Fault Refusal := command 0x0805 m s

/-- LIFECYCLE_TRANSITION (R397): checks a token and moves the device to a new life-cycle state by OTP burns. -/
def execLifecycleTransition (m : Msg) (s : State) : Host.Outcome State Fault Refusal := command 0x0901 m s

/-- DEBUG_CHALLENGE_GET (R406): returns a fresh 32-byte debug challenge. -/
def execDebugChallengeGet (m : Msg) (s : State) : Host.Outcome State Fault Refusal := command 0x0902 m s

/-- DEBUG_OPEN (R404): opens or closes a debug level with a password or signed challenge. -/
def execDebugOpen (m : Msg) (s : State) : Host.Outcome State Fault Refusal := command 0x0903 m s

/-- DEBUG_PASSWORD_SET (R405): burns a new debug password digest. -/
def execDebugPasswordSet (m : Msg) (s : State) : Host.Outcome State Fault Refusal := command 0x0904 m s

/-- DEBUG_KEY_SET (R406): burns a new debug challenge key digest. -/
def execDebugKeySet (m : Msg) (s : State) : Host.Outcome State Fault Refusal := command 0x0905 m s

end Sys2Proof.Machine
end

