-- ==== Sys2Proof/Machine/Rings.lean ====
section
/-! DEFINITION. Mailbox handshakes (R225 to R228), rings and arbitration (R277 to R288), and what the device does with the
data of its host reads (R272, R273). -/

namespace Sys2Proof.Machine

/-! ### Mailboxes -/

/-- GO (R225 step 3): the device takes its snapshot of the header and of PAYLOAD_LEN bytes, and runs the command from it. -/
def State.go (s : State) (r : Requester) (fn box : Nat) : State :=
  let h := readBytes s.mem (mboxArea fn box) 64
  let p := readBytes s.mem (mboxArea fn box + 64) (min (le h 12 4) 4032)
  s.toMbox r fn box (parseHeader h false fn (mboxOrigin fn box) p)

/-- GO (R225). -/
def execGo (fn box : Nat) (s : State) : Host.Outcome State Fault Refusal :=
  .next (if s.mboxThere fn box then (s.noHalf (requesterOf fn)).go (requesterOf fn) fn box else s)

/-- ACK (R225 step 5, R226): a DONE mailbox is IDLE; any other is left. -/
def State.ack (s : State) (fn box : Nat) : State := if s.get (mboxState fn box) = 2 then s.put (mboxState fn box) 0 else s

/-- ACK (R225). -/
def execAck (fn box : Nat) (s : State) : Host.Outcome State Fault Refusal :=
  .next (if s.mboxThere fn box then (s.noHalf (requesterOf fn)).ack fn box else s)

/-- The job of command `cid` that runs on a PKE cluster before its release, or on a lane, is aborted (R140). -/
def State.abortRunning (s : State) (cid status : Nat) : State :=
  match (List.range 16).find? (fun n => match (s.cluster n).job with | some j => j.cid == cid | none => false) with
  | some n => s.abortPke n status
  | none =>
    match (List.range 8).find? (fun n => match (s.lane n).job with | some j => j.cid == cid | none => false) with
    | some n => s.stopSke n status
    | none => s

/-- A command that has not been dispatched, or whose direct-route job has not reached its release point, completes with
CANCELLED (R227); any other is left. -/
def State.abortCmd (s : State) (cid : Nat) (c : Cmd) : State :=
  match c.stage with
  | .payload => s.complete cid (Resp.of St.cancelled)
  | .held => (s.complete cid (Resp.of St.cancelled)).showInbound
  | .route =>
    if c.got.isSome then s
    else
      let s1 := match s.hs.formatting with
        | some (owner, _, _) => if owner = cid then { s with hs.formatting := none } else s
        | none => s
      s1.complete cid (Resp.of St.cancelled)
  | .engine =>
    let mine (j : Job) : Bool := j.cid == cid
    if (s.queueOf false).any mine then s.dropQueue false mine St.cancelled
    else if (s.queueOf true).any mine then s.dropQueue true mine St.cancelled
    else if routeOf c.m = 0 then s.abortRunning cid St.cancelled
    else s
  | .committed =>
    if s.ferry.queued.any (fun q => q.2 == cid) then
      { s with ferry.queued := s.ferry.queued.filter (fun q => q.2 != cid) }.complete cid (Resp.of St.cancelled)
    else s
  | .answered => s

/-- ABORT (R227). -/
def State.abort (s : State) (fn box : Nat) : State :=
  match s.host.cmds.find? (fun c => c.2.m.origin == mboxOrigin fn box && c.2.silent.isNone) with
  | some c => (s.abortCmd c.1 c.2).pump
  | none => s

/-- ABORT (R227). -/
def execAbort (fn box : Nat) (s : State) : Host.Outcome State Fault Refusal :=
  .next (if s.mboxThere fn box then (s.noHalf (requesterOf fn)).abort fn box else s)

/-! ### What stands at the head of an SQ (R280) -/

/-- The head of an SQ: nothing that can be taken yet, an entry that is still to be fetched, a single command (`bad` for LAST
with no chain open), or a chain (`bad` for a malformed one). -/
inductive Head where
  | empty
  | fetch
  | single (m : Msg) (bad : Bool)
  | chain (ms : List Msg) (bad : Bool)
  deriving DecidableEq, Repr

/-- Whether all entries carry one TARGET (R280). -/
def oneTarget (ms : List Msg) : Bool :=
  match ms with
  | [] => true
  | m :: rest => rest.all (fun x => x.target == m.target)

/-- The chain whose entries `acc` (newest first) have been seen, from index `i` on; `fuel` entries at most are still to come. -/
def chainFrom (entries : Amap Msg) (prod : Nat) : Nat → Nat → List Msg → Head
  | 0, _, acc => .chain acc.reverse true
  | fuel + 1, i, acc =>
    if i = prod then .empty
    else match look entries i with
      | none => .fetch
      | some m =>
        if m.first then .chain acc.reverse true
        else if m.last then .chain (m :: acc).reverse (!oneTarget (m :: acc))
        else chainFrom entries prod fuel ((i + 1) % 2 ^ 32) (m :: acc)

/-- The head of an SQ (R280). A chain is taken only once its LAST entry lies below the producer index read. -/
def Sq.head (q : Sq) : Head :=
  if q.cons = q.prod then .empty
  else match look q.entries q.cons with
    | none => .fetch
    | some m =>
      if m.first && !m.last then chainFrom q.entries q.prod 255 ((q.cons + 1) % 2 ^ 32) [m]
      else .single m (m.last && !m.first)

/-- The first entry of a head. -/
def Head.lead : Head → Option Msg
  | .single m _ => some m
  | .chain (m :: _) _ => some m
  | _ => none

/-- An SKE-class command (R187, R284). -/
def skeClass (m : Msg) : Bool :=
  m.opcode == 0x0204 || (decide (0x0305 ≤ m.opcode) && decide (m.opcode ≤ 0x0309))
    || ((m.opcode == 0x0303 || m.opcode == 0x0304) && decide (m.alg ≤ 0x10))

/-- Whether an SQ takes part in arbitration (R284, R282, R432, Table CT.7). -/
def State.sqEligible (s : State) (n : Nat) : Bool :=
  match look s.host.sqs n with
  | none => false
  | some q =>
    match q.head.lead with
    | none => false
    | some m =>
      s.get (R.qengSqStateState n) == 1 && !s.is (R.qengCqStateFull q.desc.cq)
        && decide (s.get (R.qengFnStateInflight q.desc.fn) < ((look s.host.fns q.desc.fn).map (·.maxInflight)).getD 0)
        && decide (s.get R.qengInflightTaken < 8192)
        && !(skeClass m && decide (s.eng.skeQueue.countP (fun j => !j.own) ≥ 960))
        && !s.sqHeld n && (!q.desc.farValid || s.get (R.ferryFollowerState q.desc.far) == 3)

/-- The TARGET of an entry of a bound SQ: the follower's for 0; any but 0 and the follower's is malformed (R432). -/
def bindTarget (d : SqDesc) (m : Msg) : Msg × Bool :=
  if d.farValid then ({ m with target := d.far }, decide (m.target ≠ 0 ∧ m.target ≠ d.far)) else (m, false)

/-- Entries leave the ring: the consumer index advances by `k`, and the counts of commands taken rise (R277, R284). -/
def State.consume (s : State) (n : Nat) (q : Sq) (k : Nat) : State :=
  let cons := (q.cons + k) % 2 ^ 32
  let gone (i : Nat) : Bool := decide (ringDist q.cons i < k)
  let s1 := s.setSq n { q with cons := cons, entries := q.entries.filter (fun e => !gone e.1) }
  (List.range k).foldl (fun t _ => t.takenUp n q.desc.fn) s1

/-- A COMMAND hold lets one entry or chain through (Table CT.7). -/
def State.useRelease (s : State) (n : Nat) : State :=
  if s.compass.holds.any (fun h => h.2 == n) then
    { s with compass.released := storeD s.compass.released n 0 (lookD s.compass.released n 0 - 1) }
  else s

/-- The head of SQ `n` is taken: a single command begins; a chain stands ready to run (R280). -/
def State.takeHead (s0 : State) (n : Nat) : State :=
  let s := s0.useRelease n
  match look s.host.sqs n with
  | none => s
  | some q =>
    match q.head with
    | .single m bad =>
      let (m1, wrong) := bindTarget q.desc m
      let (s1, cid) := (s.consume n q 1).take m1
      if bad ∨ wrong then s1.complete cid (Resp.of St.headerInvalid) else s1.begin cid true
    | .chain ms bad =>
      let ms1 := ms.map (bindTarget q.desc)
      let ch : Chain := ⟨ms1.map (·.1), none, bad || ms1.any (·.2), none, 0, none⟩
      let s1 := s.consume n q ms.length
      { s1 with host.sqs := adjust s1.host.sqs n (fun x => { x with chains := x.chains ++ [ch] }) }.runChains n ms.length
    | _ => s

/-- Up to `burst` entries of SQ `n` are taken while it is eligible. -/
def State.takeBurst (s : State) (n : Nat) : Nat → State
  | 0 => s
  | fuel + 1 => if s.sqEligible n then (s.takeHead n).takeBurst n fuel else s

/-- Pass `p` over the queues in their order (R284). -/
def State.pass (s : State) (order : List Nat) (p : Nat) : State :=
  order.foldl (fun t n => if t.get (R.qengSqArbWeight n) ≥ p then t.takeBurst n (t.get (R.qengSqArbBurst n)) else t) s

/-- Passes from `p` on, until no eligible queue has a WEIGHT above the last one's number. -/
def State.passes (s : State) (order : List Nat) (p : Nat) : Nat → State
  | 0 => s
  | fuel + 1 =>
    let s1 := s.pass order p
    if order.any (fun n => s1.sqEligible n && decide (s1.get (R.qengSqArbWeight n) > p)) then s1.passes order (p + 1) fuel else s1

/-! ### The round boundary -/

/-- The key of a field of SQ `n`'s arbitration values, or of the tenants' shares (commit groups 1 and 2 of QENG). -/
def arbKey (key : Nat) : Bool := decide (0x51000 ≤ key / 64) && decide (key / 64 < 0x52000)
def shareKey (key : Nat) : Bool := decide (0x52000 ≤ key / 64) && decide (key / 64 < 0x53000)

/-- A commit of QENG group 1 or 2 that is pending applies (R60, R285, R287): REASON 1 a value out of range, 2 a BURST above
16 × WEIGHT; a refused one applies nothing. -/
def State.qengCommit (s : State) (group : Nat) : State :=
  if !bitOf (s.get (R.hdrCommitPending 0x50000)) group then s
  else
    let mine (key : Nat) : Bool := if group = 1 then arbKey key else shareKey key
    let changed := (s.iface.shadows.filter (fun e => mine e.1)).map (·.1)
    let queues := (changed.map (fun k => (k / 64 - 0x51000) / 4)).eraseDups
    let weight (n : Nat) : Nat := s.shadowOf (R.qengSqArbWeight n)
    let burst (n : Nat) : Nat := s.shadowOf (R.qengSqArbBurst n)
    let range := if group = 1 then queues.any (fun n => weight n == 0 || burst n == 0 || decide (burst n > 64))
      else (s.iface.shadows.filter (fun e => shareKey e.1)).any (fun e => e.2 == 0)
    let clash := group == 1 && queues.any (fun n => decide (burst n > 16 * weight n))
    if range then s.commitResult 0x50000 group 2 1
    else if clash then s.commitResult 0x50000 group 2 2
    else (s.applyShadows mine).commitResult 0x50000 group 1 0

/-- The rebase of an engine's v values (R286). -/
def State.rebase (s : State) (ske : Bool) : State :=
  let waiting := ((s.queueOf ske).filter (fun j => !j.own)).map (fun j => s.vOf ske j.tenant)
  match waiting with
  | [] => s
  | v :: vs =>
    if vs.foldl min v > 2 ^ 62 then
      let down (x : Nat) : Nat := x - 2 ^ 61
      let table := (s.host.vtime.map (fun e => if e.1 % 2 = ofBool ske then (e.1, down e.2) else e)).filter (fun e => e.2 != 0)
      if ske then { s with host.vtime := table, host.vnowSke := down s.host.vnowSke }
      else { s with host.vtime := table, host.vnowPke := down s.host.vnowPke }
    else s

/-- The round boundary (R284, R286, R287): commits of QENG, the new limits of functions, and the rebase. -/
def State.roundEnd (s : State) : State :=
  let s1 := (s.qengCommit 1).qengCommit 2
  let s2 := { s1 with
    host.fns := s1.host.inflightNext.foldl (fun m (d : Nat × FnDesc) => store m d.1 d.2) s1.host.fns
    host.inflightNext := [] }
  (s2.rebase false).rebase true

/-- The consumer index of an SQ is written to its ring header (R276, R277). -/
def State.writeCons (s : State) (n : Nat) (q : Sq) : State :=
  match s.access q.desc.fn (q.desc.header + 32) 4 (some (leBytes 4 q.cons)) (.sqCons n) with
  | (s1, .faulted _) => s1.queueError false n 3
  | (s1, _) => s1

/-- Entries that the head of SQ `n` lacks are fetched as arbitration needs them, beyond PREFETCH and the pool (R279). -/
def State.fetchHead (s : State) (n : Nat) : State :=
  match look s.host.sqs n with
  | none => s
  | some q =>
    let busy := s.host.accesses.any (fun a => match a.purpose with | .sqEntry m _ => m == n | _ => false)
    if s.get (R.qengSqStateState n) = 1 ∧ q.head = .fetch ∧ !busy ∧ q.next ≠ q.prod then
      ({ s with host.sqs := store s.host.sqs n { q with next := (q.next + 1) % 2 ^ 32 } }).fetchEntry n q q.next
    else s

/-- After a round: what was taken is reported, and the queues fetch on. -/
def State.afterTake (s : State) (was : Amap Sq) : State :=
  s.host.sqs.foldl (fun t x =>
    match look t.host.sqs x.1 with
    | none => t
    | some q =>
      let moved := match look was x.1 with | some o => o.cons != q.cons | none => false
      let t1 := if moved then t.writeCons x.1 q else t
      (t1.prefetch x.1 64).fetchHead x.1) s

/-- The queues in the order of this round, from the lowest-numbered eligible one above `start`, and that one (R284). -/
def State.order (s : State) : Option (Nat × List Nat) :=
  let nums := s.host.sqs.map (·.1)
  let up := nums.filter (fun n => s.sqEligible n)
  match (up.find? (fun n => decide (n > s.host.lastStart))).or up.head? with
  | none => none
  | some n0 => some (n0, nums.filter (fun n => decide (n ≥ n0)) ++ nums.filter (fun n => decide (n < n0)))

/-- One arbitration round (R284, R288), counted in QENG_ROUNDS. A queue engine that is absent (R39),
or quiesced for a live update (Table KH.7 step 6), takes nothing. -/
def State.round (s : State) : State :=
  let was := s.host.sqs
  let s1 :=
    if s.is (R.hdrCtrlQuiesce 0x50000) ∨ s.is (R.hdrCtrlQuiesce 0x60000) ∨ s.pwr.parts.qeng ∨ s.life.updating.isSome then s
    else
      let t := s.incMod R.qengRoundsCount 1
      match t.order with
      | none => t
      | some (n0, order) => { t with host.lastStart := n0 }.passes order 1 255
  (s1.roundEnd.afterTake was).pump

/-- ARBITRATION_ROUND (R284). -/
def execArbitrationRound (s : State) : Host.Outcome State Fault Refusal :=
  .next (if s.dieMRuns ∧ !bitOf s.pwr.regionReset 6 then s.round else s)

/-! ### The device's host reads come back -/

/-- The answer of a write that waited for a page-list entry, once it has gone out. -/
def State.wrote (s : State) (p : Purpose) : State :=
  match p with
  | .result cid =>
    match look s.host.cmds cid with
    | some c =>
      match c.m.origin, c.resp with
      | .ring q, some r => s.ringDone q cid c.m (fitted c.m r) true
      | _, _ => s
    | none => s
  | .storeRing _ => s.postOn.barrier
  | .cqEntry q e => (s.cqWritten q e).cqDrain q (((look s.host.cqs q).map (·.held.length)).getD 0)
  | _ => s

/-- The data of a read (R277, R279, R431, R433). -/
def State.gotData (s : State) (a : Access) (bs : Bytes) : State :=
  match a.purpose with
  | .sqEntry n i =>
    match look s.host.sqs n with
    | some q =>
      if s.get (R.qengSqStateState n) = 1 ∧ ringDist q.cons i < ringDist q.cons q.next then
        s.setSq n { q with entries := store q.entries i (parseHeader (padTo 64 bs) true q.desc.fn (.ring n) []) }
      else s
    | none => s
  | .payload cid =>
    match look s.host.cmds cid with
    | some c =>
      if c.stage = .payload then
        { s with host.cmds := store s.host.cmds cid { c with m := { c.m with payload := padTo a.len bs }, stage := .route } }.launch cid
      else s
    | none => s
  | .ferryHost tag =>
    match look s.ferry.waits tag with
    | some w =>
      { s with ferry.waits := drop s.ferry.waits tag }.sendMessage (s.get (R.ferryFollowerPort w.dev)) 11 w.dev w.off (padTo a.len bs)
    | none => s
  | _ => s

/-- A page-list entry enters the translation cache, which holds 4,096 entries (R273). -/
def State.fillTlb (s : State) (fn win page entry : Nat) : State :=
  let rest := s.host.tlb.filter (fun e => !(e.fn == fn && e.win == win && e.page == page))
  let t := { s with host.tlb := ((⟨fn, win, page, entry⟩ : TlbEntry) :: rest).take 4096 }
  t.put R.ituStatusValid t.host.tlb.length

/-- A read is answered: the page-list entry lets its access go on; data goes where it was wanted; a failure ends it (R266,
R273). -/
def State.readDone (s : State) (id : Nat) (r : HostData) : State :=
  match s.host.accesses.find? (fun a => a.id == id), r with
  | none, _ => s
  | some _, .failed => (s.readFailed id).pump
  | some a, .data bs =>
    let s1 := { s with host.accesses := s.host.accesses.filter (fun b => b.id != id) }
    (match a.listOf with
      | some (win, page) =>
        let s2 := s1.fillTlb a.fn win page (le bs 0 8)
        match s2.access a.fn a.addr a.len a.data a.purpose with
        | (s3, .faulted _) => s3.accessFailed a.purpose 3 (match a.purpose with | .result _ => 0x11 | _ => 0x10)
        | (s3, .waits) => s3
        | (s3, .done) => s3.wrote a.purpose
      | none => s1.gotData a bs).pump

/-- HOST_READ_COMPLETION (R272, R273). -/
def execHostReadCompletion (id : Nat) (r : HostData) (s : State) : Host.Outcome State Fault Refusal := .next (s.readDone id r)

end Sys2Proof.Machine
end

