-- ==== Sys2Proof/Machine/Regs.lean ====
section
/-! DEFINITION. The register interface, reading (chapter 2): which field stands at an offset, what a word reads, the access
shapes of R41, the half latches of R43 and the side effect of TRNG_DATA (R217). An offset is a PF BAR0 offset, or `vfOff` of a
VF's; who may come here at all is in Fabric and Bar. -/

namespace Sys2Proof.Machine

/-- What goes on once an engine, a seed or a draw has become free: jobs are dispatched, and all that waits is looked at. -/
def State.onward (s : State) : State := (s.dispatchPke (s.eng.pkeQueue.length + 1)).pump

/-! ### Offsets and fields -/

/-- Whether an offset lies in the slow window (Table GI.2). -/
def isSlow (off : Nat) : Bool := decide (0x10000 ≤ off) && decide (off < 0x100000)

/-- The base of the block set, or half of a shared set, that an offset of the slow window lies in (R51). -/
def blockOf (off : Nat) : Nat :=
  let b := off / 0x10000
  if (b = 0xC ∨ b = 0xE) ∧ off % 0x10000 ≥ 0x8000 then b * 0x10000 + 0x8000 else b * 0x10000

/-- The region of a block set outside the base domain (Table GI.5). -/
def regionOfBlock (off : Nat) : Option Nat :=
  match off / 0x10000 with
  | 5 => some 6
  | 6 => some 6
  | 8 => some 4
  | 9 => some 4
  | 0xA => some 5
  | 0xF => some 7
  | _ => none

/-- Whether the block set at an offset does not answer: its region is off or in reset, or die M is halted, which leaves
reads of the FAULT and SYS sets (Table GI.1, R378). -/
def State.blockOut (s : State) (off : Nat) (write : Bool) : Bool :=
  isSlow off &&
    (if s.pwr.halted then write || decide (off ≥ 0x30000)
     else match regionOfBlock off with
       | some g => bitOf s.pwr.regionReset g || bitOf s.pwr.regionOff g
       | none => false)

/-- The instance of a row's field at register offset `o`. -/
def Row.at (r : Row) (o : Nat) : Option Fld :=
  if r.count ≤ 1 then (if o = r.fld.off then some r.fld else none)
  else if r.fld.off ≤ o ∧ (o - r.fld.off) % r.stride = 0 ∧ (o - r.fld.off) / r.stride < r.count then some { r.fld with off := o }
  else none

/-- A row of the common header, in the block set at `base` (Table GI.6). -/
def headerAt (base o : Nat) (r : Row) : Option (Row × Fld) :=
  (r.at (o - base)).map (fun f => (r, { f with off := o, cold := if f.off = 0 ∧ f.lsb = 0 then blockCode base else f.cold }))

/-- The fields of the register at offset `o`; the rule slots of checker 3 are RSV (R348). -/
def rowsAt (o : Nat) : List (Row × Fld) :=
  if isSlow o ∧ o - blockOf o < 0x40 then headerRows.filterMap (headerAt (blockOf o) o)
  else if 0xC1600 ≤ o ∧ o < 0xC1800 then []
  else layout.filterMap (fun r => (r.at o).map (fun f => (r, f)))

/-- Whether a field of the register at `f.off` has bits in the word at `w`, which is not below it. -/
def inWord (w : Nat) (f : Fld) : Bool := decide (f.lsb < 8 * (w - f.off) + 32) && decide (8 * (w - f.off) < f.lsb + f.width)

/-- The fields with bits in the word at `w`: of the register there, or of one that began one or two words before it. -/
def fieldsOf (w : Nat) : List (Row × Fld) :=
  (rowsAt w ++ (if w ≥ 4 then rowsAt (w - 4) else []) ++ (if w ≥ 8 then rowsAt (w - 8) else [])).filter (fun x => inWord w x.2)

/-- Whether a 64-bit register begins at `off` (R40). The 96-bit FAULT_CAPTURE_STAMP is three words. -/
def isWide (off : Nat) : Bool :=
  off % 8 == 0 && (rowsAt off).any (fun x => decide (32 < x.2.lsb + x.2.width) && decide (x.2.lsb + x.2.width ≤ 64))

/-- Whether an offset belongs to a VF's BAR: the function and the offset in it. -/
def vfPart (off : Nat) : Option (Nat × Nat) :=
  if off ≥ 0x2000000 then some ((off - 0x2000000) / 0x10000, off % 0x10000) else none

/-- The BAR offset that SYS_ACCESS_ERR_ADDR shows. -/
def barOff (off : Nat) : Nat := match vfPart off with | some (_, o) => o | none => off

/-- The PF's MSI-X table and PBA (R289). -/
def inPfTable (w : Nat) : Bool := decide (0x58000 ≤ w) && decide (w < 0x60000)
def inPfPba (w : Nat) : Bool := decide (0x57F00 ≤ w) && decide (w < 0x58000)

/-- The words of a VF's BAR outside its message area (Table GI.3). -/
def vfAssigned (o : Nat) : Bool :=
  decide (o < 0x400) || (decide (0x1000 ≤ o) && decide (o < 0x1400)) || o == 0x2000 || (decide (0x2010 ≤ o) && decide (o < 0x2020))
    || o == 0x2030 || o == 0x5000 || o == 0x5004 || (decide (0x6000 ≤ o) && decide (o < 0x6040)) || o == 0x6800 || o == 0x6804

/-- Whether a word is assigned (R41). -/
def assigned (w : Nat) : Bool :=
  match vfPart w with
  | some (_, o) => vfAssigned o
  | none => decide (w < 0x1000) || (decide (0x2000 ≤ w) && decide (w < 0x3000)) || inPfTable w || inPfPba w || !(fieldsOf w).isEmpty

/-! ### What a word reads -/

/-- Whether a checker is ACTIVE or RELOADING: no drain of it is under way. -/
def State.checkerStill (s : State) (c : Nat) : Bool := s.get (R.mpcRuleEpochState c) == 0 || s.get (R.mpcRuleEpochState c) == 3

/-- Whether no work is in flight in a block (R55); what counts as a block's work the manual says for few blocks (log entry 53): open
HARD slots for FAULT, journal entries not yet written for LOG, a recalibration for TRNG, acts that run for QUORUM, a drain for MPC
and POT, what waits for an answer for FERRY, a decision for KEEPER, a restart or an update for LIFE and CFG. A block whose every
act ends within its step is always idle. -/
def State.blockIdle (s : State) (base : Nat) : Bool :=
  if base = 0x20000 then s.get R.faultHardOpen == 0
  else if base = 0x30000 then s.log.journal.isEmpty
  else if base = 0x90000 then (List.range 5).all (fun n => s.get (R.trngSrcStatusState n) != 4)
  else if base = 0xB0000 then s.quorum.acting.isEmpty
  else if base = 0xC0000 then [0, 1, 2, 4, 5, 6].all s.checkerStill
  else if base = 0xC8000 then s.checkerStill 3
  else if base = 0xD0000 then s.keeper.deciding.isEmpty
  else if base = 0xE0000 ∨ base = 0xE8000 then !(s.life.underway || s.life.updating.isSome)
  else if base = 0xF0000 then s.ferry.waits.isEmpty && s.ferry.queued.isEmpty && s.ferry.gathered.isEmpty
  else
  if base = 0x50000 then s.get R.qengInflightTaken == 0 && s.host.load.isNone
  else if base = 0x60000 then s.host.accesses.isEmpty
  else if base = 0x70000 then s.eng.pkeQueue.isEmpty && (List.range 16).all (fun n => s.clusterState n != 4 && s.clusterState n != 5)
  else if base = 0x80000 then s.eng.skeQueue.isEmpty && (List.range 8).all (fun n => (s.lane n).job.isNone)
  else if base = 0xA0000 then s.hs.reqs.isEmpty && s.hs.waiting.isEmpty && s.hs.batches.isEmpty
  else true

/-- Whether a reset of the block's region, or of a cluster of it, is under way (RESETTING of Table GI.6). -/
def State.blockResetting (s : State) (base : Nat) : Bool :=
  let region (g : Nat) : Bool := bitOf s.pwr.regionReset g
  let cluster (c : Nat) : Bool := bitOf s.pwr.clusterReset c
  if base = 0x70000 then (List.range 4).any region || (List.range 16).any cluster
  else if base = 0x80000 then region 4 || cluster 16
  else if base = 0x90000 then region 4 || cluster 17
  else match regionOfBlock base with
    | some g => region g
    | none => false

/-- EVENT_SUMMARY (Table GI.4): groups of 16 sources with one pending, of those that `p` picks. -/
def State.eventGroups (s : State) (p : Nat → Bool) : Nat :=
  (List.range 32).foldl (fun a g =>
    if (List.range 16).any (fun i => s.eventPending (16 * g + i) && p (16 * g + i)) then a + 2 ^ g else a) 0

/-- A source is routed to function `fn` (R290). -/
def State.routedTo (s : State) (fn n : Nat) : Bool := s.is (R.qengEventRouteEnable n) && s.get (R.qengEventRouteFunction n) == fn

/-- Word `k` of a function's PBA. -/
def State.pbaWord (s : State) (fn k : Nat) : Nat :=
  (List.range 32).foldl (fun a i => if s.host.pba.contains (fn * 2048 + 32 * k + i) then a + 2 ^ i else a) 0

/-- What a field reads: WO reads 0; an RWS field its shadow while SHADOW_VIEW is 1; the rest their value, or what the block
computes. -/
def State.fieldValue (s : State) (x : Row × Fld) : Nat :=
  let f := x.2
  if x.1.acc = .wo then 0
  else if f = R.devStatusReduced then ofBool (s.get R.devStatusMissing != 0)
  else if f = R.lanternStatusWorst then s.worst
  else if f = R.lanternStatusFaultAsserted then ofBool s.faultAsserted
  else if f = R.eventSummaryGroup then s.eventGroups (fun _ => true)
  else if f = R.skeSlotInuseLoaded then s.slotsLoaded
  else if f = R.skeSlotCfgReservedBank then s.topBank.getD 3
  else if isSlow f.off && f.off - blockOf f.off == 8 && f.lsb == 0 then ofBool (s.blockIdle (blockOf f.off))
  else if isSlow f.off && f.off - blockOf f.off == 8 && f.lsb == 2 then ofBool (s.blockResetting (blockOf f.off))
  else if x.1.acc = .rws ∧ s.is (R.hdrCtrlShadowView (blockOf f.off)) then s.shadowOf f
  else s.get f

/-- Whether a follower's word carries no value (R443). -/
def State.blankWord (s : State) (w : Nat) : Bool :=
  s.get R.ferryStatusRole == 2 && decide (0xF0040 ≤ w) && decide (w < 0x100000)
    && !(w == 0xF0040 || (decide (0xF0050 ≤ w) && decide (w < 0xF0064)) || (decide (0xF0070 ≤ w) && decide (w < 0xF0080)))

/-- Word `k` of a function's COMPASS_NOW latch (R50). -/
def State.stampWord (s : State) (fn k : Nat) : Nat := field (lookD s.iface.stamps fn 0) (32 * k) 32

/-- A word of the PF's BAR0 as read by requester `r`. -/
def State.pfWord (s : State) (r : Requester) (w : Nat) : Nat :=
  if s.blankWord w then 0
  else if inPfTable w then s.msixWord 0 (w - 0x58000)
  else if inPfPba w then s.pbaWord 0 ((w - 0x57F00) / 4)
  else if 0x4014 ≤ w ∧ w < 0x4020 then s.stampWord 0 ((w - 0x4014) / 4)
  else if w = 0x90068 then lookD s.trng.valid (r.master * 256 + r.sub) 0
  else
    let v := (fieldsOf w).foldl (fun a x => a + (s.fieldValue x <<< x.2.lsb >>> (8 * (w - x.2.off))) % 2 ^ 32) 0
    if (look s.iface.pwBusy w).isSome then setBit v 31 true else v

/-- A word of VF `fn`'s BAR0 (Table GI.3). -/
def State.vfWord (s : State) (r : Requester) (fn o : Nat) : Nat :=
  if o = 0x2000 then s.pfWord r 0x4000
  else if 0x2014 ≤ o ∧ o < 0x2020 then s.stampWord fn ((o - 0x2014) / 4)
  else if o = 0x2030 then s.eventGroups (s.routedTo fn)
  else if o = 0x5004 then s.get (mboxState fn 0) + 4 * s.get (mboxOverrun fn 0) + 2 ^ 16 * s.get (mboxCount fn 0)
  else if 0x6000 ≤ o ∧ o < 0x6040 then s.msixWord fn (o - 0x6000)
  else if o = 0x6800 ∨ o = 0x6804 then s.pbaWord fn ((o - 0x6800) / 4)
  else 0

/-- The 32-bit word at an offset. -/
def State.word (s : State) (r : Requester) (w : Nat) : Nat :=
  match vfPart w with
  | some (fn, o) => s.vfWord r fn o
  | none => s.pfWord r w

/-! ### Reading -/

/-- An empty read of TRNG_DATA (R217, R218): TRNG_HOST_ERR, its count and its journal entry. -/
def State.emptyRead (s : State) (r : Requester) : State :=
  let fn := if reqIsHost r then r.sub else 0
  let early := decide (s.get R.trngStateDrbg < 2)
  let s1 := { s with trng.valid := store s.trng.valid (halfKey r) 0 }.sqcJournal R.trngHostErrSeq (fun t =>
    ((t.put R.trngHostErrEmptyRead 1).putB R.trngHostErrNotInstantiated early).put R.trngHostErrFunction fn)
    0x5 (if reqIsHost r then r.sub else 0xFFFF) (fun t =>
      leBytes 4 (t.get R.trngHostErrSeq + 2 ^ 16 + ofBool early * 2 ^ 17 + fn * 2 ^ 18))
  s1.incSat R.trngEmptyCountCount

/-- A read that takes in the low half of TRNG_DATA pops one word (R217). While the DRBG does not serve, every such read is an
empty one (Table EN.5, class 5). -/
def State.popRandom (s : State) (r : Requester) : State × Nat :=
  match s.drbgUp, s.trng.fifo with
  | false, _ | true, [] => (s.emptyRead r, 0)
  | true, w :: rest => ({ s with trng.fifo := rest, trng.valid := store s.trng.valid (halfKey r) 1 }.fillFifo, ofLe w)

/-- The 64-bit register at `off`, both halves at one instant (R42). -/
def State.readWide (s : State) (r : Requester) (off : Nat) : State × Nat :=
  if off = 0x90060 then s.popRandom r else (s, s.word r off + 2 ^ 32 * s.word r (off + 4))

/-- An aligned 4-byte read of an assigned word, `half` being what the requester's last access left (R43). The high half of
TRNG_DATA with no latch reads 0 (R217). -/
def State.readWord (s : State) (r : Requester) (half : Option Half) (w : Nat) : State × Nat :=
  if isWide w then
    let (s1, v) := s.readWide r w
    ({ s1 with iface.halves := store s1.iface.halves (halfKey r) (.readLatch w (v / 2 ^ 32)) }, v % 2 ^ 32)
  else if w % 8 = 4 ∧ isWide (w - 4) then
    match half with
    | some (.readLatch o h) => if o = w - 4 then (s, h) else (s, if w = 0x90064 then 0 else s.word r w)
    | _ => (s, if w = 0x90064 then 0 else s.word r w)
  else (s, s.word r w)

/-- An aligned read of 4 or 8 bytes in a register area (R41 to R43, Table GI.1). -/
def State.readAligned (s : State) (r : Requester) (half : Option Half) (off len : Nat) : State × Nat :=
  if s.blockOut off false then
    if off - blockOf off = 8 then (if len = 4 then s else s.accessErr r 5 (barOff off) false, s.word r off)
    else (s.accessErr r 5 (barOff off) false, 0)
  else if len = 4 then
    if assigned off then s.readWord r half off else (s.accessErr r 3 (barOff off) false, 0)
  else if assigned off then
    if assigned (off + 4) then
      if isWide off then s.readWide r off else (s, s.word r off + 2 ^ 32 * s.word r (off + 4))
    else (s.accessErr r 3 (barOff off) false).readWord r half off
  else if assigned (off + 4) then
    let (s1, v) := (s.accessErr r 3 (barOff off) false).readWord r half (off + 4)
    (s1, 2 ^ 32 * v)
  else (s.accessErr r 3 (barOff off) false, 0)

/-- A read of `len` bytes at an offset of a register area (Table GI.1): partial byte enables read the full register; a wrong
shape reads zero. -/
def State.regRead (s0 : State) (r : Requester) (off len : Nat) : State × Nat :=
  let (s, half) := s0.takeHalf r
  if (len = 4 ∧ off % 4 = 0) ∨ (len = 8 ∧ off % 8 = 0) then s.readAligned r half off len
  else if 0 < len ∧ off % 4 + len ≤ 4 then s.readAligned r half (off - off % 4) 4
  else (s.accessErr r 2 (barOff off) false, 0)

end Sys2Proof.Machine
end

