-- ==== Sys2Proof/Machine/RegWrites.lean ====
section
/-! DEFINITION. The register interface, writing (chapter 2): who may write what (R53), masked, sequence-cleared, shadowed and
posted fields (R56 to R61), commits (R60), and the registers that act when they are written. -/

namespace Sys2Proof.Machine

/-! ### Rights -/

/-- The custody pairs, and the debug master, which writes as they do where a table does not name the pairs alone (log entry 45). -/
def custodyWriter (r : Requester) : Bool := reqIsPair r || r.master == 0x7F

/-- The PF, and the front device on a follower, which has its rights (R430). -/
def pfWriter (r : Requester) : Bool := (r.master == 0x50 || r.master == 0x60) && r.sub == 0

/-- Who writes the fields of the word at `w` as the pairs do: in the PKE and SKE sets the pairs alone are named (R174, R199). -/
def writesAt (r : Requester) (w : Nat) : Bool := if 0x70000 ≤ w ∧ w < 0x90000 then reqIsPair r else custodyWriter r

/-- Whether a requester may write a field of this kind at offset `o`. -/
def mayWrite (r : Requester) (o : Nat) (w : Writer) : Bool :=
  match w with
  | .nobody => false
  | .pfAndPairs => writesAt r o || pfWriter r
  | .pairs => writesAt r o
  | .pairsAndAps => writesAt r o || reqIsAp r

/-- Whether a requester may write the field: QENG_COMMIT is the PF's too (R294), and QENG_EVENT_ACK the PF's alone (R290). -/
def fieldOpen (r : Requester) (x : Row × Fld) : Bool :=
  if x.2.off = 0x5000C then x.1.acc != .ro && (custodyWriter r || pfWriter r)
  else if x.2.off = 0x50140 then pfWriter r
  else x.1.acc != .ro && mayWrite r x.2.off x.1.writer

/-- What a write to a word meets before any effect. -/
inductive WriteGate where
  | pass
  | ignored
  | denied
  deriving DecidableEq, Repr

/-- A word none of whose fields the requester may write: the write is DENIED (R53), or, where a custody pair writes fields that
are all RO, ignored (Table SC.6). -/
def writeGate (r : Requester) (fs : List (Row × Fld)) : WriteGate :=
  if fs.any (fieldOpen r) then .pass
  else if custodyWriter r ∧ fs.all (fun x => x.1.acc == .ro) then .ignored
  else .denied

/-! ### Commits (R60 to R62) -/

/-- The commit groups that a block has (R61). -/
def groupsOf (base : Nat) : List Nat :=
  if base = 0x50000 then [1, 2]
  else if base = 0xC0000 then [0, 1, 2, 4, 5, 6]
  else if base ∈ [0x40000, 0x70000, 0x80000, 0x90000, 0xA0000, 0xB0000, 0xC8000] then [0]
  else []

/-- Whether a field's shadow belongs to group 0 of the block at `base`. -/
def inBlock (base key : Nat) : Bool := decide (base ≤ key / 64) && decide (key / 64 < base + 0x8000)

/-- Whether a shadow of group 0 lies outside the range that its register table gives. -/
def State.outOfRange (s : State) (base : Nat) : Bool :=
  let off (f : Fld) (lo hi : Nat) : Bool := decide (s.shadowOf f < lo) || decide (hi < s.shadowOf f)
  if base = 0xA0000 then off R.storeBatchCfgWindow 10 10000 || off R.storeBatchCfgPages 1 4095
  else if base = 0x70000 then off R.pkeMaskCfgReseedJobs 64 4095 || off R.pkeMaskCfgReseedMc 1 255
  else if base = 0x90000 then off R.trngReseedCfgCallsLog2 10 20 || off R.trngReseedCfgMc 1 50
  else if base = 0xB0000 then off R.quorumPortCfgCkDiv 12 255 || off R.quorumPortCfgPollMs 2 100
  else if base = 0x40000 then off R.compassSenseCfgHyst 20 200 || off R.compassSenseCfgFilter 8 255
  else false

/-- Group 0 of a block is judged and applied at its safe boundary (R60): REASON 1 for a shadow out of range. A commit of
COMPASS_SENSE_CFG restarts the run of valid cycles (Table CT.8). -/
def State.applyGroup (s : State) (base : Nat) : State :=
  if !bitOf (s.get (R.hdrCommitPending base)) 0 then s
  else if s.outOfRange base then s.commitResult base 0 2 1
  else
    let s1 := (s.applyShadows (inBlock base)).commitResult base 0 1 0
    if base = 0x40000 then s1.restartRun else s1

/-- The clusters or lanes of an engine that have applied the commit under way. -/
def State.takers (s : State) (base : Nat) : List Nat :=
  if base = 0x70000 then (List.range 16).filter (fun n => (s.cluster n).took) else (List.range 8).filter (fun n => (s.lane n).took)

/-- A commit of the PKE or the SKE reaches the boundary of those of its clusters or lanes that `here` picks (Table GI.7): each applies
on its own, and the commit is applied with the last of them; out of range it is refused. -/
def State.applyPart (s : State) (base : Nat) (here : Nat → Bool) : State :=
  if !bitOf (s.get (R.hdrCommitPending base)) 0 then s
  else if s.outOfRange base then s.commitResult base 0 2 1
  else
    let all := List.range (if base = 0x70000 then 16 else 8)
    let s1 := (all.filter (fun n => here n && !(s.takers base).contains n)).foldl (fun t n => t.setTook base n true) s
    if (s1.takers base).length = all.length then
      ((all.foldl (fun t n => t.setTook base n false) s1).applyShadows (inBlock base)).commitResult base 0 1 0
    else s1

/-- Whether cluster or lane `n` is at its boundary: no job, wipe included. -/
def State.atBoundary (s : State) (base n : Nat) : Bool :=
  if base = 0x70000 then (s.cluster n).job.isNone && s.clusterState n != 4 && s.clusterState n != 5 else (s.lane n).job.isNone

/-- A held access, and the drain of a checker that has ended, are in Fabric; here a commit's boundary is reached in a block
without rules. -/
def State.commitBoundary (s : State) (base : Nat) : State :=
  if base = 0x50000 then (s.qengCommit 1).qengCommit 2
  else if base = 0xC0000 ∨ base = 0xC8000 then s
  else if base = 0x70000 ∨ base = 0x80000 then s.applyPart base (s.atBoundary base)
  else if groupsOf base = [0] then s.applyGroup base
  else s

/-- The group of one request: PENDING and frozen; a checker starts its drain (R333); Compass in ABSENT applies at once (Table
GI.7). A group already pending is left (R61). -/
def State.requestGroup (s : State) (base g : Nat) : State :=
  if bitOf (s.get (R.hdrCommitPending base)) g then s
  else if base = 0xC0000 then s.startDrain g
  else if base = 0xC8000 then s.startDrain 3
  else
    let s1 := s.putBit (R.hdrCommitPending base) g true
    if base = 0x40000 ∧ s1.get R.compassStatusState = 0 then s1.applyGroup base else s1

/-- A write of _COMMIT.REQUEST (R60, R61): the groups that the block has, in ascending order; the PF's requests reach groups 1
and 2 of QENG. -/
def State.requestCommit (s : State) (base groups : Nat) : State :=
  ((groupsOf base).filter (fun g => bitOf groups g)).foldl (fun t g => t.requestGroup base g) s

/-! ### Control registers -/

/-- QUIESCE of a block becomes `on` (R55); QENG's closes the store's open batch (R124); once it is clear, work that was held
back goes on: what each block holds back is where its work starts (log entry 53). -/
def State.setQuiesce (s : State) (base : Nat) (on : Bool) : State :=
  let s1 := s.putB (R.hdrCtrlQuiesce base) on
  if on then (if base = 0x50000 then s1.closeBatch else s1)
  else
    let s2 := s1.put (R.hdrStateQuiesced base) 0
    (if base = 0xF0000 then s2.sendAllQueued else s2).onward

/-- QUIESCE has taken effect (R55). -/
def State.quiescedNow (s : State) (base : Nat) : State :=
  if base ∈ blockBases ∧ s.is (R.hdrCtrlQuiesce base) ∧ !s.blockOut base true then s.put (R.hdrStateQuiesced base) 1 else s

/-- The bits of a masked write that change: bit `i` with its value (Table SC.6, RWM). -/
def masked (v i : Nat) : Option Bool := if bitOf v (16 + i) then some (bitOf v i) else none

/-- A masked bit acts where the requester may write it; else its write is DENIED. -/
def State.maskedBit (s : State) (r : Requester) (w : Nat) (ok : Bool) (v i : Nat) (act : State → Bool → State) : State :=
  match masked v i with
  | none => s
  | some b => if ok then act s b else s.accessErr r 4 (barOff w) true

/-- _CTRL (Table GI.6). -/
def State.writeCtrl (s : State) (r : Requester) (base v : Nat) : State :=
  let s1 := s.maskedBit r (base + 4) true v 1 (fun t b => t.putB (R.hdrCtrlShadowView base) b)
  s1.maskedBit r (base + 4) true v 0 (fun t b => t.setQuiesce base b)

/-- PKE_CLUSTER_CTRL (R173, R174): GATE_REQ by the pairs and the application cores, FENCE by the pairs. -/
def State.writeClusterCtrl (s : State) (r : Requester) (w n v : Nat) : State :=
  let s1 := s.maskedBit r w true v 0 (fun t b => t.gateCluster n true b)
  (s1.maskedBit r w (reqIsPair r) v 1 (fun t b => t.gateCluster n false b)).onward

/-- SKE_LANE_CTRL (R198, R199). -/
def State.writeLaneCtrl (s : State) (r : Requester) (w n v : Nat) : State :=
  let s1 := s.maskedBit r w true v 0 (fun t b => t.gateLane n true b)
  let s2 := s1.maskedBit r w (reqIsPair r) v 1 (fun t b => t.gateLane n false b)
  (s2.maskedBit r w (reqIsPair r) v 2 (fun t b => if b then t.rejoinLane n else t)).onward

/-- TRNG_SRC_CTRL (R223): a 1 starts a recalibration, or takes the source out of service. -/
def State.writeSrcCtrl (s : State) (r : Requester) (w n v : Nat) : State :=
  let s1 := s.maskedBit r w true v 1 (fun t b => if b then t.isolateSource n else t)
  s1.maskedBit r w true v 0 (fun t b => if b then t.recalSource n else t)

/-- FAULT_ACK (R379). -/
def State.writeFaultAck (s : State) (v : Nat) : State :=
  let s1 := if bitOf v 4 then s.ackHard (field v 0 4) else s
  let s2 := if bitOf v 5 then s1.ackMinor else s1
  if bitOf v 6 then s2.ackSevere else s2

/-- FAULT_FIFO_IDX.CONS (R373): the entries consumed leave the ring, each copied to the operations journal; an index that
passes PROD is DENIED (log entry 46). -/
def State.writeFifoCons (s : State) (r : Requester) (v : Nat) : State :=
  let k := (v + 256 - s.get R.faultFifoIdxCons) % 256
  if k ≤ s.fault.ring.length then
    let s1 := (s.fault.ring.take k).foldl (fun t f => t.journal 0x1 0xFFFF (t.faultBody f)) s
    { s1 with fault.ring := s.fault.ring.drop k }.put R.faultFifoIdxCons v
  else s.accessErr r 4 0x20098 true

/-- QENG_LOAD (R270): DENIED while a load runs; without QENG_CFG_BASE, or for an object or action that is none, the refusal is
decided at once. -/
def State.writeLoad (s : State) (r : Requester) (v : Nat) : State :=
  if s.is R.qengLoadStatusRunning then s.accessErr r 4 0x50050 true
  else
    let obj := field v 10 3
    let act := field v 13 2
    let why := if s.get R.qengCfgBaseAddr = 0 then some (2, 1) else if obj = 0 ∨ obj > 4 ∨ act = 0 ∨ act > 2 then some (2, 3) else none
    { s with host.load := some ⟨obj, act, field v 0 10, why, []⟩ }.put R.qengLoadStatusRunning 1

/-- The condition of Table HQ.9 that makes a source pending again. -/
def State.lasting (s : State) (n : Nat) : Bool :=
  if n = 9 then s.is R.devStatusLocked
  else if n = 16 then s.get R.storeReqConsIndex != s.get R.storeReqProdIndex
  else if n = 18 then s.is R.storeStatusRollback
  else if n = 36 then s.eng.baseLost
  else if n = 50 then s.get R.trngStateDrbg == 4
  else if n = 80 then s.host.sqs.any (fun q => s.get (R.qengSqStateState q.1) == 2) || s.host.cqs.any (fun q => s.get (R.qengCqStateState q.1) == 2)
  else false

/-- QENG_EVENT_ACK (R290). -/
def State.eventAck (s : State) (n : Nat) : State :=
  if s.eventPending n then
    let s1 := s.putBit (R.qengEventPendingPending (n / 32)) (n % 32) false
    if s1.lasting n then s1.raise n else s1
  else s

/-- Waiting store requests are posted as long as one can be; at most `fuel`. -/
def State.postAll (s : State) : Nat → State
  | 0 => s
  | fuel + 1 => if s.hs.waiting.isEmpty then s else s.postWaiting.postAll fuel

/-- STORE_REQ_CONS (R131): backwards, or past STORE_REQ_PROD, is DENIED; room lets waiting requests go out (R117). -/
def State.writeReqCons (s : State) (r : Requester) (v : Nat) : State :=
  let cons := s.get R.storeReqConsIndex
  if (v + 0x10000 - cons) % 0x10000 ≤ (s.get R.storeReqProdIndex + 0x10000 - cons) % 0x10000 then
    let s1 := s.put R.storeReqConsIndex v
    s1.postAll s1.hs.waiting.length
  else s.accessErr r 4 0xA0068 true

/-- A follower reads its next store response through the front device (R433). -/
def State.askResponse (s : State) : State :=
  if s.get R.ferryStatusRole = 2 ∧ s.hs.attached ∧ s.get R.storeRspConsIndex ≠ s.get R.storeRspProdIndex then
    s.hostAsk (s.get R.storeRspBaseAddr + 16 * (s.get R.storeRspConsIndex % 2 ^ s.get R.storeRspCfgLog2Size)) 16 0
  else s

/-- STORE_RSP_PROD (R116, R131, R475): more than the ring size ahead of STORE_RSP_CONS is DENIED; the write prompts the device
to read, an entry that could not be read among them. -/
def State.writeRspProd (s : State) (r : Requester) (v : Nat) : State :=
  if (v + 0x10000 - s.get R.storeRspConsIndex) % 0x10000 ≤ 2 ^ s.get R.storeRspCfgLog2Size then
    ({ s with hs.stuck := false }.put R.storeRspProdIndex v).askResponse
  else s.accessErr r 4 0xA007C true

/-- Whether a FERRY_APERTURE code names a block set that it may select (R430): no KEEPER, and no unknown code. -/
def apertureOk (v : Nat) : Bool := decide (1 ≤ v) && decide (v ≤ 0x11) && v != 0x0E

/-! ### Sequence-cleared statuses (R58, R59) -/

/-- A write to a word whose fields are SQC: the number now held, and not 0, lets the status go; its fields then read 0 until
the next event. -/
def State.clearStatus (s : State) (w v : Nat) : State :=
  let seq : Fld := ⟨w, 0, 16, 0⟩
  if v % 65536 ≠ 0 ∧ v % 65536 = s.get seq ∧ w ∈ s.iface.sqcHeld then
    let s1 := { s with iface.sqcHeld := s.iface.sqcHeld.filter (· != w) }
    (rowsAt w).foldl (fun t x => if x.1.acc = .sqc ∧ x.2.lsb ≠ 0 then t.put x.2 0 else t) s1
  else s

/-! ### Plain and shadowed fields -/

/-- What is left of a field's old value once the `n` bits at BAR bit offset `at_` (relative to the field's register) take `v`. -/
def merge (f : Fld) (old at_ n v : Nat) : Nat :=
  let lo := max f.lsb at_
  let hi := min (f.lsb + f.width) (at_ + n)
  if hi ≤ lo then old
  else old - (field old (lo - f.lsb) (hi - lo)) * 2 ^ (lo - f.lsb) + (field v (lo - at_) (hi - lo)) * 2 ^ (lo - f.lsb)

/-- The commit group of a shadowed field (R61, R348). -/
def groupAt (x : Row × Fld) : Nat :=
  match x.1.cls with
  | .group g => g
  | .groupOfChecker => (x.2.off - 0xC1000) / 0x200
  | _ => 0

/-- A plain or shadowed field takes the bits written (R11, R60, R61): a frozen shadow keeps its value. -/
def State.writeField (s : State) (x : Row × Fld) (w n v : Nat) : State :=
  let f := x.2
  let at_ := 8 * (w - f.off)
  match x.1.acc with
  | .rws =>
    if bitOf (s.get (R.hdrCommitPending (blockOf f.off))) (groupAt x) then s
    else { s with iface.shadows := store s.iface.shadows f.key (merge f (s.shadowOf f) at_ n v) }
  | .rw => s.put f (merge f (s.get f) at_ n v)
  | .wo => s.put f (merge f 0 at_ n v)
  | _ => s

/-- Fields written together: an idle-only field of a busy block, or a frozen shadow, is recorded once in the block's _ERR
(R11, R55, R61). A value outside a field's stated range, such as STORE_FETCH_TIMEOUT.MS outside 1–10,000 (R131), is taken: the manual
gives such a write of a live field no outcome (DESIGN CHOICE, log entry 120). -/
def State.writeFields (s : State) (r : Requester) (fs : List (Row × Fld)) (w n v : Nat) : State :=
  let mine := fs.filter (fieldOpen r)
  let base := blockOf w
  if mine.any (fun x => x.1.cls == .idleOnly) ∧ !s.blockIdle base then s.blockErr base w false
  else
    let frozen := mine.any (fun x => x.1.acc == .rws && bitOf (s.get (R.hdrCommitPending (blockOf x.2.off))) (groupAt x))
    let s1 := mine.foldl (fun t x => t.writeField x w n v) s
    if frozen then s1.blockErr base w true else s1

/-! ### The registers that act -/

/-- A word of an MSI-X table takes a write, as PCIe Base defines: the vector-control word keeps its mask bit alone; a message
held goes out by MSIX_PENDING_SEND. -/
def State.writeMsix (s : State) (fn o v : Nat) : State :=
  let kept := if o % 16 = 12 then v % 2 else if o % 16 = 0 then v - v % 4 else v
  { s with host.msixTable := store s.host.msixTable (fn * 0x10000 + o) kept }

/-- The doorbell of a mailbox (Table CM.10): ACK, then GO, then ABORT where one write holds several. -/
def State.writeDoorbell (s : State) (r : Requester) (fn box v : Nat) : State :=
  if s.mboxThere fn box then
    let s1 := if bitOf v 1 then s.ack fn box else s
    let s2 := if bitOf v 0 then s1.go r fn box else s1
    if bitOf v 2 then s2.abort fn box else s2
  else s

/-- A permitted write of the 32-bit word at `w` of the fast window. -/
def State.writeFast (s : State) (r : Requester) (w v : Nat) : State :=
  if w < 0x1000 then s.sqDoorbell r 0 (w / 4)
  else if 0x2000 ≤ w ∧ w < 0x3000 then s.cqDoorbell r 0 ((w - 0x2000) / 4)
  else if w = 0x4010 then s.captureStamp 0 v
  else if 0x5000 ≤ w ∧ w < 0x5100 then s.writeDoorbell r 0 ((w - 0x5000) / 8) v
  else s

/-- The instance of a register with `count` instances `stride` apart from `first`. -/
def nthReg (w first stride count : Nat) : Option Nat :=
  if first ≤ w ∧ (w - first) % stride = 0 ∧ (w - first) / stride < count then some ((w - first) / stride) else none

/-- A permitted write of a 32-bit register of the slow window. -/
def State.writeSlow (s : State) (r : Requester) (w v : Nat) : State :=
  let base := blockOf w
  if w = base + 4 then s.writeCtrl r base v
  else if w = base + 0xC then s.requestCommit base (if pfWriter r then v &&& 6 else v)
  else match nthReg w 0x7010C 0x10 16, nthReg w 0x8010C 0x10 8, nthReg w 0x90108 0x10 5, nthReg w 0xF0104 4 63 with
  | some n, _, _, _ => s.writeClusterCtrl r w n v
  | _, some n, _, _ => s.writeLaneCtrl r w n v
  | _, _, some n, _ => s.writeSrcCtrl r w n v
  | _, _, _, some n => if apertureOk v then s.put (R.ferryApertureBlock (n + 1)) v else s.accessErr r 4 w true
  | none, none, none, none =>
    if w = 0x2008C then s.writeFaultAck v
    else if w = 0x20084 then
      if 10 ≤ v % 2 ^ 20 ∧ v % 2 ^ 20 ≤ 1000000 then s.put R.faultEscCfgUs v else s.accessErr r 4 w true
    else if w = 0x20098 then s.writeFifoCons r (field v 8 8)
    else if w = 0x30120 then s.logSubmit v
    else if w = 0xC0044 then
      if 1 ≤ v % 128 ∧ v % 128 ≤ 100 then s.put R.mpcWdogCfgPeriodMs v else s.accessErr r 4 w true
    else if w = 0xC0048 then (if bitOf v 0 then s.feed r.master else s)
    else if w = 0xC0070 then (s.leaseHold v).onward
    else if w = 0x50050 then s.writeLoad r v
    else if w = 0x50140 then s.eventAck (field v 0 9)
    else if w = 0xA0068 then (s.writeReqCons r (v % 65536)).pump
    else if w = 0xA007C then s.writeRspProd r (v % 65536)
    else if (rowsAt w).any (fun x => x.1.acc == .sqc) then s.clearStatus w v
    else s.writeFields r (fieldsOf w) w 32 v

/-- A write of the assigned 32-bit word at `w`: dropped as PW_OVERRUN while a value is in flight towards it (R56); else its rights,
then its effect. -/
def State.writeWord (s : State) (r : Requester) (w v : Nat) : State :=
  match vfPart w with
  | some (fn, o) =>
    if o < 0x400 then s.sqDoorbell r fn (o / 4)
    else if 0x1000 ≤ o ∧ o < 0x1400 then s.cqDoorbell r fn ((o - 0x1000) / 4)
    else if o = 0x2010 then s.captureStamp fn v
    else if o = 0x5000 then s.writeDoorbell r fn 0 v
    else if 0x6000 ≤ o ∧ o < 0x6040 then s.writeMsix fn (o - 0x6000) v
    else s.accessErr r 4 o true
  | none =>
    if (look s.iface.pwBusy w).isSome then s.accessErr r 6 w true
    else if w < 0x1000 ∨ (0x2000 ≤ w ∧ w < 0x3000) then s.writeFast r w v
    else if inPfTable w then
      if pfWriter r ∨ custodyWriter r then s.writeMsix 0 (w - 0x58000) v else s.accessErr r 4 w true
    else if inPfPba w then s.accessErr r 4 w true
    else match writeGate r (fieldsOf w) with
      | .denied => s.accessErr r 4 w true
      | .ignored => s
      | .pass => if isSlow w then s.writeSlow r w v else s.writeFast r w v

/-- A write of both halves of the 64-bit register at `off`, at once (R42). QENG_CFG_BASE shows in CFG_SET. -/
def State.writeWide (s : State) (r : Requester) (off v : Nat) : State :=
  if (look s.iface.pwBusy off).isSome ∨ (look s.iface.pwBusy (off + 4)).isSome then s.accessErr r 6 off true
  else match writeGate r (rowsAt off) with
  | .denied => s.accessErr r 4 off true
  | .ignored => s
  | .pass =>
    let s1 := s.writeFields r (rowsAt off) off 64 v
    if off = 0x50048 then s1.putB R.qengStatusCfgSet (s1.get R.qengCfgBaseAddr != 0) else s1

/-- A 64-bit register's value as a write finds it. -/
def State.heldWide (s : State) (off : Nat) : Nat :=
  (rowsAt off).foldl (fun a x => a + s.get x.2 * 2 ^ x.2.lsb) 0

/-- An aligned 4-byte write of an assigned word (R43): the low half of a 64-bit register is held; its high half takes the held
low half with it, or is written alone. -/
def State.writeHalf (s : State) (r : Requester) (half : Option Half) (w v : Nat) : State :=
  if isWide w then
    match writeGate r (rowsAt w) with
    | .denied => s.accessErr r 4 w true
    | .ignored => s
    | .pass => { s with iface.halves := store s.iface.halves (halfKey r) (.heldWrite w (v % 2 ^ 32)) }
  else if w % 8 = 4 ∧ isWide (w - 4) then
    let low := match half with
      | some (.heldWrite o x) => if o = w - 4 then x else s.heldWide (w - 4) % 2 ^ 32
      | _ => s.heldWide (w - 4) % 2 ^ 32
    s.writeWide r (w - 4) (low + v % 2 ^ 32 * 2 ^ 32)
  else s.writeWord r w (v % 2 ^ 32)

/-- An aligned write of 4 or 8 bytes in a register area (R41 to R43, Table GI.1). -/
def State.writeAligned (s : State) (r : Requester) (half : Option Half) (off len v : Nat) : State :=
  if s.blockOut off true then s.accessErr r 5 (barOff off) true
  else if len = 4 then
    if assigned off then s.writeHalf r half off v else s.accessErr r 3 (barOff off) true
  else if assigned off then
    if assigned (off + 4) then
      if isWide off then s.writeWide r off (v % 2 ^ 64)
      else (s.writeWord r off (v % 2 ^ 32)).writeWord r (off + 4) (v / 2 ^ 32 % 2 ^ 32)
    else (s.accessErr r 3 (barOff off) true).writeHalf r half off (v % 2 ^ 32)
  else if assigned (off + 4) then (s.accessErr r 3 (barOff off) true).writeHalf r half (off + 4) (v / 2 ^ 32 % 2 ^ 32)
  else s.accessErr r 3 (barOff off) true

/-- A write of `len` bytes at an offset of a register area (Table GI.1): partial byte enables and wrong shapes are dropped. Where two
rows of the table meet, the shape is judged first: a partial or wide write to reserved space or to a set that is off is recorded as
PARTIAL or WIDE (R41 does not say; DESIGN CHOICE, log entry 49). -/
def State.regWrite (s0 : State) (r : Requester) (off len v : Nat) (full : Bool) : State :=
  let (s, half) := s0.takeHalf r
  if full ∧ ((len = 4 ∧ off % 4 = 0) ∨ (len = 8 ∧ off % 8 = 0)) then s.writeAligned r half off len v
  else if off % 4 + len ≤ 4 then s.accessErr r 1 (barOff off) true
  else s.accessErr r 2 (barOff off) true

/-! ### Posted writes (R56, R57) -/

/-- PW_WRITE: a register whose BUSY is 1 drops the write as PW_OVERRUN; else BUSY is 1 and the value is in flight. The tables
give no register the PW code (log entry 47). -/
def State.pwWrite (s0 : State) (r : Requester) (w v : Nat) : State :=
  let s := s0.noHalf r
  if w % 4 ≠ 0 ∨ !isSlow w ∨ !assigned w then s.accessErr r 3 (barOff w) true
  else if s.blockOut w true then s.accessErr r 5 w true
  else if (look s.iface.pwBusy w).isSome then s.accessErr r 6 w true
  else match writeGate r (fieldsOf w) with
    | .denied => s.accessErr r 4 w true
    | .ignored => s
    | .pass => { s with iface.pwBusy := store s.iface.pwBusy w (v % 2 ^ 31, r) }

/-- PW_WRITE_LANDED: the value in flight reaches its register, under the rights of the master that wrote it, and BUSY falls; one that a
region reset has lost changes nothing (R57). -/
def State.pwLanded (s : State) (w : Nat) : State :=
  match look s.iface.pwBusy w with
  | none => s
  | some (v, r) =>
    if v ≥ 2 ^ 32 ∨ s.blockOut w true then s
    else ({ s with iface.pwBusy := drop s.iface.pwBusy w }).writeFields r (fieldsOf w) w 31 v

end Sys2Proof.Machine
end

