-- ==== Sys2Proof/Machine/SysArea.lean ====
section
/-! DEFINITION. The system area (R20): each MRAM bank's copy of the retained records, byte by byte, at the offsets of Table AH.1a.
The records themselves stand in the structures of State, which the commands write; here a fabric access finds their bytes. Where the
manual gives a record no place or no form within its part of the area, its bytes are free values (log entry 111). -/

namespace Sys2Proof.Machine

/-- The area of an MRAM bank, the upper 5 MiB of it. -/
def sysOffset (a : Nat) : Option (Nat × Nat) :=
  if 0x20B00000 ≤ a ∧ a < 0x21000000 then some (0, a - 0x20B00000)
  else if 0x21B00000 ≤ a ∧ a < 0x22000000 then some (1, a - 0x21B00000) else none

/-- Byte `i` of a record, zero past its end. -/
def byteAt (b : Bytes) (i : Nat) : Byte := b.getD i 0

/-- Byte `i` of a table of records of `size` bytes, zero where a record is absent. -/
def tableByte {α : Type} (size : Nat) (m : Nat → Option α) (form : Nat → α → Bytes) (i : Nat) : Byte :=
  match m (i / size) with
  | some x => byteAt (form (i / size) x) (i % size)
  | none => 0

/-! ### The forms of the records -/

/-- The configuration block with its check word (R413). -/
def State.cfgBytes (s : State) : Bytes :=
  let b := s.life.cfgStored.body
  padTo 4080 (b ++ leBytes 4 (Config.crc32c b)) ++ padTo 16 s.life.cfgMac

/-- A custodian entry (Table DC.1). -/
def Custodian.bytes (c : Custodian) : Bytes :=
  padTo 16 c.digest ++ leBytes 1 c.kind ++ leBytes 1 (c.port.toNat + 2 * c.pinPending.toNat) ++ leBytes 1 c.pinFails ++ [0]
    ++ padTo 16 c.verifier ++ leBytes 6 c.suspendUntil ++ leBytes 6 0

/-- The device-custodian table, and its CMAC under the custodian key behind it (R246). The CMAC of the tenant-custodian area is over
bytes whose form is in part free, and is free with them. -/
def State.custodianBytes (s : State) : Bytes :=
  let t := ((List.range 16).map (fun p => ((look s.quorum.custodians (custKey none p)).map Custodian.bytes).getD (List.replicate 48 0))).flatten
  t ++ (if s.keys.idSeeds.isEmpty then [] else Config.cmac s.custodianKey t)

/-- A digest-table entry with its CRC (Table PK.3). -/
def Package.bytes (id : Nat) (p : Package) : Bytes := p.body id ++ leBytes 4 p.crc

/-- A root record with its CRC (Table HS.5). -/
def RootRec.bytes (r : RootRec) : Bytes := r.covered ++ leBytes 4 r.crc

/-- The header of a table set (Table KH.4) and an entry of its tables (Table KH.5); the device entry stands under 4,096. -/
def TableSet.header (x : TableSet) : Bytes := padTo 88 x.head ++ leBytes 4 x.crc
def TableEntry.bytes (n : Nat) (e : TableEntry) : Bytes :=
  entryHead (if n = 4096 then 0xFFF else n) e.state e.live e.tg e.wgs ++ e.wrapped

/-- Byte `i` of a table set. -/
def TableSet.byte (x : TableSet) (i : Nat) : Byte :=
  if i < 2048 then byteAt x.header i
  else if i < 2048 + 525312 then tableByte 128 (look x.p) TableEntry.bytes (i - 2048)
  else tableByte 128 (look x.f) TableEntry.bytes (i - 2048 - 525312)

/-- A loaded curve with its CMAC (R154). -/
def Curve.stored (h : Nat) (c : Curve) : Bytes := c.bytes h ++ c.mac

/-- The 4,096-bit tenant bitmap of a binding (R268). -/
def bindingBytes (tenants : List Nat) : Bytes :=
  leBytes 512 (tenants.foldl (fun a t => setBit a t true) 0)

/-- What the small records hold that the manual gives no place (Table AH.1a): the boot selector, the trims, LOG_EPOCH, the nonce ring,
the pairing counts, the domain pin and the replica map. -/
def State.smallRecords (s : State) (bank : Nat) : Bytes :=
  let l := s.life
  leBytes 1 l.selActive ++ leBytes 1 (l.selTrial.getD 0xFF) ++ leBytes 1 l.selFallback ++ leBytes 8 l.selSeq
    ++ leBytes 2 (s.get R.logEpochEpoch)
    ++ ((if bank = 0 then s.hs.format else s.hs.formatCopy).map FormatRec.body).getD []
    ++ ((if bank = 0 then s.eng.nonce0 else s.eng.nonce1).map (leBytes 8)).flatten
    ++ leBytes 2 s.quorum.portA.pairCount ++ leBytes 2 s.quorum.portB.pairCount ++ s.ferry.pin
    ++ bindingBytes s.ferry.replicas

/-- A byte of the package area: copy `c` of package `id` in the 40 KiB at (2 × (id − 1) + c) × 40 KiB (log entry 111). -/
def State.packageByte (s : State) (i : Nat) : Byte :=
  match look s.eng.bodies (i / 40960 + 2) with
  | some b => byteAt b.bytes (i % 40960)
  | none => 0

/-- A byte of the tenant-custodian area: 8 entries of 20 bytes in each tenant's 192, then its two policies, whose form the manual does
not give (R246). -/
def State.tenantCustodianByte (s : State) (i : Nat) : Byte :=
  let t := i / 192
  let j := i % 192
  if j < 160 then
    match look s.quorum.custodians (custKey (some t) (j / 20)) with
    | some c => byteAt c.bytes (j % 20)
    | none => 0
  else
    let form (c : Nat) : Bytes := ((look s.quorum.policies (policyKey c t)).map (fun p =>
      leBytes 2 (p.mask.getD 0xFFFF) ++ leBytes 1 p.m ++ leBytes 4 p.timeout)).getD []
    Config.placedByte 9 (form 13 ++ form 14) (j - 160)

/-! ### The area -/

/-- The byte at an offset of a bank's system area (Table AH.1a). -/
def State.sysByte (s : State) (bank i : Nat) : Byte :=
  let k := i / 1024
  if k < 4 then byteAt s.cfgBytes i
  else if k < 8 then Config.placedByte 1 (s.smallRecords bank) (i - 4096)
  else if i < 8192 + 784 then byteAt s.custodianBytes (i - 8192)
  else if k < 12 then Config.placedByte 7 (s.quorum.custodians.map (fun c => leBytes 2 c.1 ++ c.2.bytes)).flatten (i - 8976)
  else if k < 16 then tableByte 64 (fun n => look (if bank = 0 then s.eng.packages else s.eng.packages1) (n + 1))
    (fun n p => p.bytes (n + 1)) (i - 12288)
  else if k < 32 then Config.placedByte 2 (s.compass.waypoints.map (fun w => leBytes 2 w.1 ++ leBytes 1 w.2.action ++ leBytes 8 w.2.cycle
    ++ leBytes 8 w.2.period ++ leBytes 4 w.2.left ++ w.2.arg)).flatten (i - 16384)
  else if k < 80 then Config.placedByte 3 (s.eng.curves.map (fun c => c.2.stored c.1)).flatten (i - 32768)
  else if k < 96 then Config.placedByte 4 (s.quorum.outcomes.map (fun o => leBytes 4 o.1 ++ leBytes 2 o.2)
    ++ s.quorum.acts.map (fun a => leBytes 1 a.1 ++ leBytes 4 a.2.opId)).flatten (i - 81920)
  else if k < 100 then Config.placedByte 5 (s.ferry.topo.map (fun t => leBytes 1 t.1 ++ leBytes 1 t.2.port ++ leBytes 1 t.2.pos
    ++ leBytes 8 t.2.serial)).flatten (i - 98304)
  else if k < 128 then 0
  else if i < 131072 + 131584 then tableByte 512 (look s.host.bindings) (fun _ b => bindingBytes b) (i - 131072)
  else if k < 260 then Config.placedByte 6 (s.host.bindings.map (fun b => leBytes 2 b.1 ++ bindingBytes b.2)).flatten (i - 131072 - 131584)
  else if k < 516 then tableByte 256 (look (if bank = 0 then s.hs.bank0 else s.hs.bank1)) (fun _ r => r.bytes) (i - 266240)
  else if k < 1028 then tableByte 64 (fun n => (s.log.recs ++ s.log.older.drop s.log.recs.length)[n]?) (fun _ r => r.bytes) (i - 528384)
  else if k < 1348 then s.packageByte (i - 1052672)
  else if k < 2116 then s.tenantCustodianByte (i - 1380352)
  else if k < 3144 then (s.setCopy bank 0).byte (i - 2166784)
  else if k < 4172 then (s.setCopy bank 1).byte (i - 3219456)
  else 0

/-- `n` bytes of a bank's system area from offset `i` on. -/
def State.sysBytes (s : State) (bank i n : Nat) : Bytes := (List.range n).map (fun j => s.sysByte bank (i + j))

end Sys2Proof.Machine
end

