-- ==== Sys2Proof/Machine/Fabric.lean ====
section
/-! DEFINITION. Accesses over the fabric (R321 to R339): what a checker admits reaches its target, the register space, a
message area, the internal mailbox, the crossing unit or memory; what a draining checker holds waits for its new epoch. -/

namespace Sys2Proof.Machine

/-! ### Answers -/

/-- The BAR offset at which a host function sees a fabric address. -/
def barOfFabric (a : Nat) : Nat :=
  if 0x30010000 ≤ a ∧ a < 0x30100000 then a - 0x30000000
  else if 0x30100000 ≤ a ∧ a < 0x30120000 then 0x100000 + (a - 0x30100000)
  else 0x4000 + a % 4096

/-- A read is answered: the host by a completion, the front device by REG_DATA under the XTAG that the access carries, a fabric
master on the fabric, with an error response where a part was denied (R327, R328). -/
def State.answerRead (s : State) (r : Requester) (a : Nat) (tag data : Bytes) (denied : Bool) : State :=
  if r.master = 0x60 then s.sendMessage s.upstream 8 0 (ofLe tag) data
  else
    let s1 := if reqIsHost r then s.emit (.readData r (barOfFabric a) (ofLe data)) else s.emit (.fabricData r a data)
    if denied then s1.emit (.fabricDenied r a) else s1

/-- A write that a part of which was denied draws an error response, unless it was posted (R327). -/
def State.answerWrite (s : State) (r : Requester) (a : Nat) (denied : Bool) : State :=
  if denied ∧ !reqIsHost r ∧ r.master ≠ 0x60 then s.emit (.fabricDenied r a) else s

/-! ### The crossing unit (R319) -/

/-- A 64-byte message goes into the notice FIFO, or is dropped and counted where it is full. -/
def State.pushNotice (s : State) (data : Bytes) : State :=
  if s.worlds.notices.length < 256 then
    let n := s.worlds.notices ++ [padTo 64 data]
    { s with worlds.notices := n }.put R.mpcCrossNotice n.length
  else s.incSat R.mpcCrossDroppedCount

/-- The oldest notice leaves the FIFO; an empty one gives zeros. -/
def State.popNotice (s : State) : State × Bytes :=
  match s.worlds.notices with
  | [] => (s, List.replicate 64 0)
  | n :: rest => ({ s with worlds.notices := rest }.put R.mpcCrossNotice rest.length, n)

/-! ### Targets -/

/-- The window of the register space, of the internal mailbox's area, of its doorbell, and of the crossing unit (Table WP.2). -/
def inRegs (a : Nat) : Bool := decide (0x30010000 ≤ a) && decide (a < 0x30100000)
def inOwnArea (a : Nat) : Bool := decide (0x30220000 ≤ a) && decide (a < 0x30221000)
def inOwnBell (a : Nat) : Bool := decide (0x30221000 ≤ a) && decide (a < 0x30221008)
def inCross (a : Nat) : Bool := decide (0x30230000 ≤ a) && decide (a < 0x30231000)

/-- The internal mailbox's doorbell, which reads 0, and its status (R242), as 8 bytes. -/
def State.bellBytes (s : State) : Bytes :=
  leBytes 8 (2 ^ 32 * (s.get (mboxState nwInst 0) + 4 * s.get (mboxOverrun nwInst 0) + 2 ^ 16 * s.get (mboxCount nwInst 0)))

/-- A read of `n` bytes in the internal mailbox's doorbell and status words, judged by Table GI.1 as any register (R41, R242). -/
def State.readBell (s : State) (r : Requester) (a n : Nat) : State × Bytes :=
  let off := a - 0x30221000
  if bitOf s.pwr.regionReset 6 then (s.accessErr r 5 (a % 2 ^ 25) false, List.replicate n 0)
  else if (n = 8 ∧ off = 0) ∨ (0 < n ∧ off % 4 + n ≤ 4) then (s, slice s.bellBytes off n)
  else (s.accessErr r 2 (a % 2 ^ 25) false, List.replicate n 0)

/-- A write there: the doorbell acts; the status word is RO, ignored from a pair and DENIED from another master (R53). -/
def State.writeBell (s : State) (r : Requester) (a : Nat) (data : Bytes) : State :=
  let off := a - 0x30221000
  let n := data.length
  let ro (t : State) : State := if custodyWriter r then t else t.accessErr r 4 0x0221004 true
  if bitOf s.pwr.regionReset 6 then s.accessErr r 5 (a % 2 ^ 25) true
  else if n = 4 ∧ off = 0 then s.writeDoorbell r nwInst 0 (ofLe data)
  else if n = 4 ∧ off = 4 then ro s
  else if n = 8 ∧ off = 0 then ro (s.writeDoorbell r nwInst 0 (ofLe (data.take 4)))
  else s.accessErr r (if off % 4 + n ≤ 4 then 1 else 2) (a % 2 ^ 25) true

/-- An admitted read of a target other than the register space; a withdrawn bank gives zeros (log entry 93). -/
def State.readTarget (s : State) (r : Requester) (a n : Nat) : State × Bytes :=
  if s.bankGone a then (s, List.replicate n 0)
  else if inOwnBell a then s.readBell r a n
  else if inCross a then
    if reqIsAp r then
      let (s1, b) := s.popNotice
      (s1, padTo n b)
    else (s, List.replicate n 0)
  else match sysOffset a with
    | some (bank, i) => (s, s.sysBytes bank i n)
    | none => (s, readBytes s.mem a n)

/-- An admitted write of a target other than the register space. The device writes the system area itself, by its commands: a write
there from the fabric is dropped (DESIGN CHOICE, log entry 111), and unassigned space is never written (R20). -/
def State.writeTarget (s : State) (r : Requester) (a : Nat) (data : Bytes) : State :=
  if s.bankGone a then s
  else if inOwnBell a then s.writeBell r a data
  else if inCross a then (if reqIsPair r then s.pushNotice data else s)
  else if inOwnArea a ∧ reqIsAp r then s.mboxWrite r nwInst 0 (a - 0x30220000) data
  else if (sysOffset a).isSome then s
  else s.memWrite r a data

/-- The parts of an access, each checked by itself (R328): the state, a read's bytes (zeros for a denied part), and whether any
was denied. -/
def State.runParts (s : State) (r : Requester) (k : AccKind) (parts : List (Nat × Nat)) (data : Bytes) : State × Bytes × Bool :=
  parts.foldl (fun (acc : State × Bytes × Bool) p =>
    let (t, got, bad) := acc
    match t.checkPart r k p.1 (decide (parts.length > 1)) with
    | (t1, true) =>
      if k = .write then (t1.writeTarget r p.1 (data.drop got.length |>.take p.2), got ++ List.replicate p.2 0, bad)
      else
        let (t2, b) := t1.readTarget r p.1 p.2
        (t2, got ++ b, bad)
    | (t1, false) => (t1, got ++ List.replicate p.2 0, true)) (s, [], false)

/-- An access to the register space: every part is checked, then the access is judged whole by Table GI.1 (log entry 49). A
fetch is a read. -/
def State.runRegs (s : State) (r : Requester) (k : AccKind) (a n : Nat) (data : Bytes) : State :=
  let parts := partsAt a n
  let (s1, bad) := parts.foldl (fun (acc : State × Bool) p =>
    let (t, ok) := acc.1.checkPart r k p.1 (decide (parts.length > 1))
    (t, acc.2 || !ok)) (s, false)
  let off := a - 0x30000000
  if k = .write then
    if bad then (s1.noHalf r).answerWrite r a true else s1.regWrite r off n (ofLe (data.take n)) true
  else if bad then (s1.noHalf r).answerRead r a data (List.replicate n 0) true
  else
    let (s2, v) := s1.regRead r off n
    s2.answerRead r a data (leBytes n v) false

/-- A host function's write into a message area is posted (R337); everything else is answered. An access that is no register access
discards what a half access left (R43). -/
def State.fabricNow (s0 : State) (r : Requester) (k : AccKind) (a n : Nat) (data : Bytes) : State :=
  let s := s0.noHalf r
  if inRegs a then s0.runRegs r k a n data
  else if reqIsHost r ∧ k = .write then s.postedWrite r.sub a (data.take n)
  else
    let (s1, got, bad) := s.runParts r k (partsAt a n) data
    if k = .write then s1.answerWrite r a bad else s1.answerRead r a data got bad

/-- FABRIC_ACCESS (R321 to R333): held where a checker in front of it drains, else decided and carried out. A read by the front
device carries its XTAG in `data`. -/
def State.fabric (s : State) (r : Requester) (k : AccKind) (a n : Nat) (data : Bytes) : State :=
  if !s.pwr.main ∨ !s.pwr.porstN ∨ n = 0 then s
  else match s.heldBy a n with
    | some c => { s with worlds.held := s.worlds.held ++ [(c, ⟨r, k, a, n, data⟩)] }
    | none => s.fabricNow r k a n data

/-- RULE_EPOCH_DRAIN_END (R333 steps 4 and 5): the new epoch is active, and the accesses held are checked under it in arrival
order. -/
def State.drainEnd (s : State) (c : Nat) : State :=
  let st := s.get (R.mpcRuleEpochState c)
  if c > 6 ∨ !(st = 1 ∨ st = 2) then s
  else
    let mine := s.worlds.held.filter (fun h => h.1 == c)
    let s1 := (s.nextEpoch c)
    let s2 := { s1 with worlds.held := s1.worlds.held.filter (fun h => h.1 != c) }
    mine.foldl (fun t h => t.fabric h.2.req h.2.kind h.2.addr h.2.len h.2.data) s2

/-- RULE_EPOCH_DRAIN_END (R333). -/
def execRuleEpochDrainEnd (c : Nat) (s : State) : Host.Outcome State Fault Refusal := .next (s.drainEnd c)

/-- COMMIT_APPLY (R60): the safe boundary of the block at `base` is reached; of MPC and POT, the drain of every checker that has
one under way (Table GI.7). -/
def State.commitApply (s : State) (base : Nat) : State :=
  if base = 0xC0000 then [0, 1, 2, 4, 5, 6].foldl (fun t c => t.drainEnd c) s
  else if base = 0xC8000 then s.drainEnd 3
  else if s.blockOut base true then s
  else (s.commitBoundary base).onward

/-- COMMIT_APPLY (R60). -/
def execCommitApply (base : Nat) (s : State) : Host.Outcome State Fault Refusal := .next (s.commitApply base)

/-- Whether every part of an access is admitted and none is held. -/
def State.admits (s : State) (r : Requester) (k : AccKind) (a n : Nat) : Bool :=
  (s.heldBy a n).isNone && (partsAt a n).all (fun p => s.judge r k p.1 == .allow)

/-- A fabric access on which something befalls it (R26 to R28, R34): a lockstep disagreement keeps it in its pair; an uncorrectable
error that an admitted access meets is reported with it, acts, and is answered with an error response. -/
def State.fabricMishap (s : State) (r : Requester) (k : AccKind) (a n : Nat) (data : Bytes) : Mishap → State
  | .none => s.fabric r k a n data
  | .lockstep => if reqIsPair r ∧ s.pwr.main ∧ s.pwr.porstN then s.lockstep r.master else s.fabric r k a n data
  | .uncorrectable g u =>
    if s.pwr.main ∧ s.pwr.porstN ∧ n ≠ 0 ∧ s.admits r k a n then
      let acc := if k = .write then 2 else if k = .fetch then 3 else 1
      let s1 := (s.noHalf r).partFails g u ⟨4, groupLoc g u, 1, 0, a, r.master, r.sub, acc, false⟩
      if k = .write then s1.answerWrite r a true else s1.answerRead r a data (List.replicate n 0) true
    else s.fabric r k a n data

/-- FABRIC_ACCESS (R322). The host reaches the fabric only while it reaches the device (R473). -/
def execFabricAccess (r : Requester) (k : AccKind) (a n : Nat) (data : Bytes) (s : State) (e : Mishap := .none) :
    Host.Outcome State Fault Refusal :=
  .next (if reqIsHost r ∧ !s.hostThere r.sub then s else s.fabricMishap r k a n data e)

/-- DEBUG_ACCESS (R338, R339): the debug master, at the open level. -/
def execDebugAccess (k : AccKind) (a n : Nat) (data : Bytes) (s : State) : Host.Outcome State Fault Refusal :=
  .next (s.fabric ⟨0x7F, s.get R.lifeDebugLevel⟩ k a n data)

end Sys2Proof.Machine
end

