-- ==== Sys2Proof/Machine/Events.lean ====
section
/-! DEFINITION. Events of the engines, the store, the TRNG and the custody firmware: each row of the table that is no command
of a host, by the operation of its own chapter, and then everything that waited for it (`onward`). -/

namespace Sys2Proof.Machine

/-! ### PKE clusters (chapter 5) -/

/-- PKE_JOB_RELEASE (R139). -/
def execPkeJobRelease (n : Nat) (checkOk residueOk : Bool) (lane : Nat) (s : State) : Host.Outcome State Fault Refusal :=
  .next (s.releaseJob n checkOk residueOk lane).onward

/-- PKE_WIPE_END (R137): the boundary at which the cluster applies a commit (Table GI.7). -/
def execPkeWipeEnd (n : Nat) (s : State) : Host.Outcome State Fault Refusal :=
  let s1 := s.wipeEnd n
  .next (s1.applyPart 0x70000 (fun i => i == n && s1.atBoundary 0x70000 i)).onward

/-- The statuses of the causes of an abort (R140): a mark of R82, a fence, a gate or a reset, a tamper response. -/
def abortCause (status : Nat) : Bool :=
  status == St.tenantDeleted || status == St.generationRetired || status == St.engineReset || status == St.tamperAborted

/-- PKE_JOB_ABORT (R140). -/
def execPkeJobAbort (n status : Nat) (s : State) : Host.Outcome State Fault Refusal :=
  .next (if abortCause status then (s.abortPke n status).onward else s)

/-- PKE_CLUSTER_READY (R135). -/
def execPkeClusterReady (n badPkg : Nat) (testOk : Bool) (s : State) : Host.Outcome State Fault Refusal :=
  .next (s.clusterReady n badPkg testOk).onward

/-- QUARANTINE_RETURN (R169): the custody firmware's own act. -/
def execQuarantineReturn (n badPkg : Nat) (testOk : Bool) (s : State) : Host.Outcome State Fault Refusal :=
  .next (if s.is R.devStatusCustodyUp then (s.quarantineReturn n badPkg testOk).onward else s)

/-- MASK_SEED_DELIVERY (R164); a core that disagrees withholds the seed (R214). -/
def execMaskSeedDelivery (n : Nat) (s : State) (agree : Bool := true) : Host.Outcome State Fault Refusal :=
  .next ((s.core agree).seedDelivery n).onward

/-- MASK_SEED_EXPIRY (R164). -/
def execMaskSeedExpiry (n : Nat) (s : State) : Host.Outcome State Fault Refusal := .next (s.seedExpiry n)

/-- ENTROPY_WAIT_TIMEOUT (R165, R216). -/
def execEntropyWaitTimeout (cid : Nat) (s : State) : Host.Outcome State Fault Refusal := .next (s.entropyTimeout cid).onward

/-! ### SKE lanes (chapter 6) -/

/-- SKE_REQUEST_START (R190). -/
def execSkeRequestStart (lane : Nat) (s : State) : Host.Outcome State Fault Refusal := .next (s.requestStart lane).onward

/-- SKE_REQUEST_END (R196): the boundary at which the lane applies a commit (Table GI.7). -/
def execSkeRequestEnd (lane : Nat) (checkOk : Bool) (s : State) : Host.Outcome State Fault Refusal :=
  let s1 := s.requestEnd lane checkOk
  .next (s1.applyPart 0x80000 (fun i => i == lane && s1.atBoundary 0x80000 i)).onward

/-- SKE_LANE_SELF_TEST_END (R198). -/
def execSkeLaneSelfTestEnd (lane : Nat) (pass : Bool) (s : State) : Host.Outcome State Fault Refusal :=
  .next (s.laneTested lane pass).onward

/-! ### The TRNG (chapter 7) -/

/-- TRNG_WINDOW_END (R205). -/
def execTrngWindowEnd (src : Nat) (bits : List Bool) (s : State) : Host.Outcome State Fault Refusal :=
  .next (s.windowEnd src bits).onward

/-- What was held is served in the order of Table EN.5 (R215, R216): masking seeds, jobs and commands that draw, the device's own
values, the delay generators' seed (`onward`), then the host FIFO. -/
def State.serveDraws (s : State) : State :=
  let s1 := (List.range 16).foldl (fun t n => t.seedIn n) s
  ((List.range 16).foldl (fun t n => if t.clusterState n = 2 then t.seatReady n else t) s1).onward.fillFifo

/-- DRBG_INSTANTIATE (R211): what was held over the outage is served now (R216). -/
def execDrbgInstantiate (s : State) (agree : Bool := true) : Host.Outcome State Fault Refusal := .next (s.core agree).instantiate.serveDraws

/-- DRBG_RESEED (R212). -/
def execDrbgReseed (s : State) (agree : Bool := true) : Host.Outcome State Fault Refusal := .next (s.core agree).reseed.serveDraws

/-! ### The store (chapter 4) -/

/-- Whether the store engine runs: die M does, and G5 is out of reset. -/
def State.storeRuns (s : State) : Bool := s.dieMRuns && !bitOf s.pwr.regionReset 5

/-- STORE_RESPONSE (R119). -/
def execStoreResponse (rsp : StoreRsp) (s : State) : Host.Outcome State Fault Refusal :=
  .next (if s.storeRuns then (s.takeResponse rsp).onward else s)

/-- STORE_RSP_RETRY (R475): the entry that could not be read is read again. -/
def execStoreRspRetry (rsp : StoreRsp) (s : State) : Host.Outcome State Fault Refusal :=
  .next (if s.storeRuns ∧ s.hs.stuck then (s.takeResponse rsp).onward else s)

/-- STORE_BATCH_CLOSE (R124). -/
def execStoreBatchClose (s : State) : Host.Outcome State Fault Refusal := .next (if s.storeRuns then s.closeBatch.onward else s)

/-- STORE_BUFFER_FREED (R117). -/
def execStoreBufferFreed (s : State) : Host.Outcome State Fault Refusal := .next (if s.storeRuns then s.postWaiting else s)

/-- A fetch that the host left unanswered: its commands see that the page did not come, and its answer will only free TAG and
buffer (R119). -/
def State.fetchTimeout (s : State) (tag : Nat) : State :=
  match look s.hs.reqs tag with
  | none => s
  | some r =>
    if (r.op = 1 ∨ r.op = 2) ∧ !r.stale then
      let key := 2 * r.page + (if r.op = 2 then 1 else 0)
      { s with
        hs.reqs := store s.hs.reqs tag { r with stale := true }
        hs.fetched := store s.hs.fetched key ⟨none, r.second, true⟩ }.onward
    else s

/-- STORE_FETCH_TIMEOUT (R119). -/
def execStoreFetchTimeout (tag : Nat) (s : State) : Host.Outcome State Fault Refusal :=
  .next (if s.storeRuns then s.fetchTimeout tag else s)

/-- STORE_HELD_TIMEOUT (R478): a command held while REOPEN_WAIT is 1 ends with STORE_UNAVAILABLE. -/
def execStoreHeldTimeout (cid : Nat) (s : State) : Host.Outcome State Fault Refusal :=
  .next (match look s.host.cmds cid with
    | some c =>
      if s.is R.storeStatusReopenWait ∧ c.stage = .route ∧ c.needs.contains needStore then
        (s.complete cid (Resp.of St.storeUnavailable)).onward
      else s
    | none => s)

/-! ### What the custody firmware runs itself -/

/-- Whether the custody firmware serves. -/
def State.serves (s : State) : Bool := s.dieMRuns && s.is R.devStatusCustodyUp

/-- The pause of an update or a transition holds a released act back until the queues resume; a second act of the three that pause them
is refused by its own checks (Table LC.13). -/
def State.holdsAct (s : State) (op : Nat) : Bool := s.life.updating.isSome && op != 0x070A && op != 0x070B && op != 0x0901

/-- QUORUM_ACT_RUN (R237, R253): the released act meets checks 3 to 7 and its own again, and runs. -/
def State.runReleased (s : State) (slot : Nat) : State :=
  match look s.quorum.acts slot with
  | none => s
  | some a =>
    if s.get (R.quorumSlotClassState slot) ≠ 2 ∨ s.is (R.hdrCtrlQuiesce 0xB0000) ∨ s.holdsAct a.m.opcode then s
    else
      let m := { a.m with origin := .firmware }
      let (s1, cid) := (s.put (R.quorumSlotClassState slot) 3).take m
      let s2 := { s1 with quorum.acting := store s1.quorum.acting cid slot }
      match s2.precheck m with
      | some st => (s2.complete cid (Resp.of st)).pump
      | none => (s2.runAct cid { m with cid := cid }).pump

/-- QUORUM_ACT_RUN (R237). -/
def execQuorumActRun (slot : Nat) (s : State) : Host.Outcome State Fault Refusal := .next (if s.serves then s.runReleased slot else s)

/-- A command that the custody firmware gives itself. -/
def ownMsg (opcode tenant target tag flags key : Nat) : Msg :=
  ⟨opcode, flags, tenant, 0, tag, target, 1, 0, 0, 0, 0, key, 0, 0, 0, 0, 0, [], .firmware, 0⟩

/-- WAYPOINT_EPOCH_ROLL (R312): the GENERATION_ROLL of EPOCH waypoint `n`, late where its instant was passed. -/
def State.epochRoll (s : State) (n : Nat) : State :=
  match s.compass.epochDue.find? (fun e => e.1 == n) with
  | none => s
  | some (_, w) =>
    let s1 := { s with compass.epochDue := removeFirst (fun e => e.1 == n) s.compass.epochDue }
    let m := ownMsg 0x0405 (le w.arg 0 2) (s.get R.ferryStatusSelf) n (ofBool w.late) 0
    let (s2, cid) := s1.take m
    (s2.begin cid false).pump

/-- WAYPOINT_EPOCH_ROLL (R312). -/
def execWaypointEpochRoll (n : Nat) (s : State) : Host.Outcome State Fault Refusal := .next (if s.serves then s.epochRoll n else s)

/-- NONCE_ROTATION (R195): the successor of a slot that has raised NONCE_LOW, for a tenant with rotation on; one at a time. -/
def State.rotateSlot (s : State) (i : Nat) : State :=
  match look s.keys.slots i with
  | none => s
  | some x =>
    let h := handleOf i x.epoch
    let under := s.host.cmds.any (fun c => c.2.m.opcode == rotateOp && c.2.m.key == h)
    if s.life.updating.isNone ∧ s.keys.rotating.contains x.tenant ∧ x.rotateDue ∧ x.successor.isNone ∧ !x.doomed ∧ !under then
      let m := ownMsg rotateOp x.tenant (s.get R.ferryStatusSelf) 0 0 h
      let (s1, cid) := s.take m
      (s1.runAct cid { m with cid := cid }).pump
    else s

/-- NONCE_ROTATION (R195). -/
def execNonceRotation (slot : Nat) (s : State) : Host.Outcome State Fault Refusal := .next (if s.serves then s.rotateSlot slot else s)

/-! ### The ends of resets -/

/-- G5_RESTART_END (R342). -/
def execG5RestartEnd (f : BootFacts) (s : State) : Host.Outcome State Fault Refusal := .next (s.restartEnd f).onward

/-- CLUSTER_RESET_END (R376). -/
def execClusterResetEnd (c : Nat) (s : State) (kat4 kat5 : Bool := true) : Host.Outcome State Fault Refusal :=
  .next (s.clusterBack c kat4 kat5).onward

/-- REGION_RESET_END (R64). -/
def execRegionResetEnd (g : Nat) (s : State) (kat4 kat5 : Bool := true) : Host.Outcome State Fault Refusal :=
  .next (s.regionBack g kat4 kat5).onward

end Sys2Proof.Machine
end

