-- ==== Sys2Proof/Machine/Ferry.lean ====
section
/-! DEFINITION. Ferry (chapter 16): links and frames (R427, R428), roles and enumeration (R423 to R426), the ring (R429), and the
traffic between the front device and its followers (R430 to R435). -/

namespace Sys2Proof.Machine

/-! ### Links (R427, R428) -/

/-- Whether G7 works: die M runs, and the region is neither in reset nor off. -/
def State.ferryRuns (s : State) : Bool := s.dieMRuns && !bitOf s.pwr.regionReset 7 && !bitOf s.pwr.regionOff 7

/-- A LINK frame carries ACK, and NAK where something is missing; it has no sequence number of its own and is never replayed
(log entry 44). -/
def State.linkFrame (s : State) (p : Nat) (nak : Bool) : State :=
  let x := s.ferryPort p
  s.emit (.ferryFrame p ⟨13, 0xFF, s.get R.ferryStatusSelf, 64, 0, x.txSeq, x.rxSeq, true, true, nak, []⟩)

/-- Every frame that is not acknowledged goes out again, with the ACK now in force. -/
def State.replay (s : State) (p : Nat) : State :=
  let x := s.ferryPort p
  x.unacked.foldl (fun t f => t.emit (.ferryFrame p { f with ack := x.rxSeq })) s

/-- A port retrains (R428): counted, recorded; its replay buffer stays. -/
def State.retrain (s : State) (p : Nat) : State :=
  ((s.put (R.ferryPortState p) 2).incSat (R.ferryPortRetrains p)).linkError p 1

/-- A frame that fails its CRC is dropped and answered with NAK; the sixteenth failure within 1 ms retrains the port (R428). -/
def State.crcFailed (s : State) (p : Nat) : State :=
  let x := s.ferryPort p
  let bad := s.tick :: x.bad.filter (fun t => decide (s.tick < t + cyclesPerMs))
  let s1 := s.incSat (R.ferryPortCrcErrors p)
  if bad.length ≥ 16 then (s1.setFerryPort p { x with bad := [] }).retrain p
  else (s1.setFerryPort p { x with bad := bad }).linkFrame p true

/-- What a frame's ACK, its credits and its sequence number leave on the port. -/
def FerryPort.heard (x : FerryPort) (h : FerryHead) (sequenced : Bool) : FerryPort :=
  { x with
    rxSeq := if sequenced then h.lseq else x.rxSeq
    credits := x.credits + h.credits
    unacked := x.unacked.filter (fun f => decide ((h.ack + 65536 - f.lseq) % 65536 ≥ 32768)) }

/-- A frame arrives on port `p`: dropped while the port is DOWN, at a CRC failure or out of order; else its ACK counts, and `act`
follows. A frame on a port that has not shown itself trained shows it now. -/
def State.heard (s : State) (p : Nat) (h : FerryHead) (sequenced : Bool) (act : State → State) : State :=
  if !s.ferryRuns ∨ p > 3 ∨ s.get (R.ferryPortState p) = 1 then s
  else if !h.crcOk then s.crcFailed p
  else
    let x := s.ferryPort p
    if sequenced ∧ h.lseq % 65536 ≠ (x.rxSeq + 1) % 65536 then s.linkFrame p true
    else act ((s.setFerryPort p (x.heard h sequenced)).put (R.ferryPortState p) 3)

/-- The follower's port away from the front device, if it uses one (R424). -/
def State.downstream (s : State) : Option Nat := [0, 1, 2, 3].find? (fun p => s.get (R.ferryPortUse p) == 2)

/-- The port on which a frame arrives: on a follower the upstream port, but for one that is bound for the front device; on the
front device the port of the frame's source. -/
def State.arrival (s : State) (h : FerryHead) : Nat :=
  if s.get R.ferryStatusRole = 2 then (if h.dest = 0 then s.downstream.getD 0 else s.upstream) else s.get (R.ferryFollowerPort h.src)

/-- A frame for another device goes on through the follower's other port, its TTL lowered by one; one whose TTL reaches 0 is
dropped (Table FY.2). -/
def State.passOn (s : State) (p kind : Nat) (h : FerryHead) (data : Bytes) : State :=
  let to_ := if h.dest = 0 then some s.upstream else s.downstream
  if h.ttl ≤ 1 then s.linkError p 5
  else match to_ with
    | none => s
    | some q =>
      let x := s.ferryPort q
      s.ferryOut q ⟨kind, h.dest, h.src, h.ttl - 1, h.xtag, (x.txSeq + 1) % 65536, x.rxSeq, h.first, h.last, false, data⟩

/-- A frame of a kind that carries data: judged, passed on where it is another device's, else handled by `act` if this device's
role takes frames of this kind. -/
def State.frameIn (s : State) (kind role : Nat) (h : FerryHead) (data : Bytes) (act : State → State) : State :=
  let p := s.arrival h
  s.heard p h true (fun t =>
    if h.ttl = 0 then t.linkError p 5
    else if t.get R.ferryStatusRole = 2 ∧ h.dest ≠ 0xFF ∧ h.dest ≠ t.get R.ferryStatusSelf then t.passOn p kind h data
    else if t.get R.ferryStatusRole = role then act t
    else t)

/-- The parts of a message gathered by XTAG (R427): the whole once its LAST frame is here; a part without its FIRST is
malformed. -/
def State.gather (s : State) (h : FerryHead) (data : Bytes) : State × Option Bytes :=
  let had := look s.ferry.gathered h.xtag
  if !h.first ∧ had.isNone then (s.linkError (s.arrival h) 4, none)
  else
    let all := (if h.first then [] else had.getD []) ++ data
    if h.last then ({ s with ferry.gathered := drop s.ferry.gathered h.xtag }, some all)
    else ({ s with ferry.gathered := store s.ferry.gathered h.xtag all }, none)

/-- LINK_FRAME (R428). -/
def execLinkFrame (port : Nat) (h : FerryHead) (nak : Bool) (s : State) : Host.Outcome State Fault Refusal :=
  .next (s.heard port h false (fun t => if nak then t.replay port else t))

/-- FERRY_IDLE_LINK (R428). -/
def execFerryIdleLink (port : Nat) (s : State) : Host.Outcome State Fault Refusal :=
  .next (if s.ferryRuns ∧ port ≤ 3 ∧ s.get (R.ferryPortState port) = 3 then s.linkFrame port false else s)

/-! ### DISCOVER (R423, R426) -/

/-- The device's serial as a number (FERRY_FOLLOWER.SERIAL). -/
def State.ownSerial (s : State) : Nat := ofLe s.life.serial

/-- DISCOVER goes out on a port, with the front device's serial. -/
def State.sendDiscover (s : State) (p front : Nat) : State := s.ferrySend p 1 0xFF 0 true true (leBytes 8 front)

/-- The front device sends DISCOVER on its trained ports F0 to F2 that have no PRESENT follower (R426). -/
def State.discoverAll (s : State) : State :=
  if s.get R.ferryStatusRole ≠ 1 ∨ !s.ferryRuns then s
  else [0, 1, 2].foldl (fun t p =>
    if t.get (R.ferryPortState p) = 3 ∧ !t.portCarries p then t.sendDiscover p t.ownSerial else t) s

/-- LINK_UP (R423): the endpoint of a follower stays in reset; a device with no role yet is the front device. The lanes that
training dropped are missing (R27), and the host writes BAR0 (R45). -/
def execLinkUp (s : State) (dropped bar0 vfBar0 : Nat := 0) : Host.Outcome State Fault Refusal :=
  .next (if !s.pwr.main ∨ !s.pwr.porstN ∨ s.get R.ferryStatusRole = 2 then s
    else
      let s1 := ({ s with
        pwr.link := true, pwr.parts.pcie := dropped, pwr.bar0 := bar0, pwr.vfBar0 := vfBar0 } : State).showParts
      if s1.get R.ferryStatusRole = 0 then (s1.put R.ferryStatusRole 1).discoverAll else s1)

/-- The lowest trained port of a follower that is not the one named. -/
def State.otherPort (s : State) (p : Nat) : Option Nat := [0, 1, 2, 3].find? (fun q => q != p && s.get (R.ferryPortState q) == 3)

/-- A DISCOVER answered and passed on (R426): DISCOVER_ACK with serial and life-cycle state; the downstream port is the one in
use, or the lowest trained one. -/
def State.answerDiscover (s : State) (port front : Nat) : State :=
  let s1 := s.ferrySend port 2 0xFF 0 true true (s.life.serial ++ leBytes 1 (s.get R.devStatusLife))
  match s1.downstream.or (s1.otherPort port) with
  | some q => (s1.put (R.ferryPortUse q) 2).sendDiscover q front
  | none => s1

/-- A refused DISCOVER: the port is held DOWN (R426). -/
def State.holdDown (s : State) (p why : Nat) : State := (s.put (R.ferryPortState p) 1).put (R.ferryPortReason p) why

/-! ### Numbers (R424, R425) -/

/-- The number of a device found at position `pos` behind front port `port`, in a mode with `len` devices known; `none` outside
the mode's range. -/
def numberAt (mode len port pos : Nat) : Option Nat :=
  if mode = 1 then (if port = 0 ∧ 1 ≤ pos ∧ pos ≤ 63 then some pos else none)
  else if mode = 2 then
    let n := if port = 0 then pos else if pos ≤ len then len + 1 - pos else len + 1
    if port ≤ 1 ∧ 1 ≤ n ∧ n ≤ 63 then some n else none
  else if mode = 3 then (if port ≤ 2 ∧ 1 ≤ pos ∧ pos ≤ 21 then some (21 * port + pos) else none)
  else none

/-- Front port and hops to number `n` by Table FY.1: in a whole ring the shorter way round. -/
def pathTo (mode len n : Nat) : Nat × Nat :=
  if mode = 2 then (if n ≤ len + 1 - n then (0, n) else (1, len + 1 - n))
  else if mode = 3 then ((n - 1) / 21, (n - 1) % 21 + 1)
  else (0, n)

/-- ASSIGN travels to a follower: number, position and serial in its payload (the payload is the model's, log entry 48). -/
def State.sendAssign (s : State) (n port pos serial : Nat) : State :=
  s.ferrySend port 3 0xFF 0 true true (leBytes 1 n ++ leBytes 1 pos ++ leBytes 8 serial)

/-- A device found takes number `n` (R425, R426): the record, its registers, ASSIGN, and PRESENT. A different serial at a
recorded number sets REPLACED and raises its event source (R435). -/
def State.seat (s : State) (n port pos serial life : Nat) : State :=
  let was := look s.ferry.topo n
  let new := match was with | some t => t.serial != serial | none => false
  let s1 := { s with ferry.topo := store s.ferry.topo n ⟨port, pos, serial⟩ }
  let s2 := if new then (s1.put (R.ferryFollowerReplaced n) 1).raise (384 + n) else s1
  let s3 := (((s2.put (R.ferryFollowerPort n) port).put (R.ferryFollowerHops n) pos).put (R.ferryFollowerLife n) life).put
    (R.ferryFollowerSerSerial n) serial
  let s4 := s3.setFollower n (if s3.get (R.ferryFollowerState n) = 3 then 3 else 2)
  ((s4.sendAssign n port pos serial).put (R.ferryPortUse port) 2).setFollower n 3

/-- The ring is whole: F0 and F1 are up and every recorded follower is PRESENT (R429). -/
def State.ringWhole (s : State) : Bool :=
  s.get R.ferryStatusMode == 2 && s.get (R.ferryPortState 0) == 3 && s.get (R.ferryPortState 1) == 3
    && s.ferry.topo.all (fun t => s.get (R.ferryFollowerState t.1) == 3)

/-- A whole ring takes the paths of Table FY.1, and RING_BROKEN clears (R429). -/
def State.settleRing (s : State) : State :=
  if s.ringWhole then
    s.ferry.topo.foldl (fun t x =>
      let (p, h) := pathTo 2 s.ferry.topo.length x.1
      (t.put (R.ferryFollowerPort x.1) p).put (R.ferryFollowerHops x.1) h) (s.put R.ferryStatusRingBroken 0)
  else s

/-- A follower's number is given back while the enumeration still shapes the record. -/
def State.unseat (s : State) (n : Nat) : State :=
  ((((({ s with ferry.topo := drop s.ferry.topo n }.setFollower n 0).put (R.ferryFollowerPort n) 0).put (R.ferryFollowerHops n)
    0).put (R.ferryFollowerLife n) 0).put (R.ferryFollowerSerSerial n) 0).put (R.ferryFollowerReplaced n) 0

/-- The mode that what was found gives (R424): RING where the walk came back, CHAIN where only F0 has followers, else
BRANCHED. -/
def modeOf (found : List (Nat × Nat × Nat × Nat)) : Nat :=
  if found.any (fun f => f.2.1 == 0) then 2 else if found.all (fun f => f.1 == 0) then 1 else 3

/-- Everything that the first enumeration has found, numbered under the mode it gives; what stood otherwise is numbered afresh,
and a device outside the mode's range has its port held DOWN. -/
def State.renumber (s : State) : State :=
  let mode := modeOf s.ferry.found
  let real := s.ferry.found.filter (fun f => f.2.1 != 0)
  let seats := real.map (fun f => (numberAt mode real.length f.1 f.2.1, f))
  let keep (n : Nat) (t : Topo) : Bool := seats.any (fun x => x.1 == some n && x.2.2.2.1 == t.serial)
  let s1 := s.ferry.topo.foldl (fun t x => if keep x.1 x.2 then t else t.unseat x.1) (s.put R.ferryStatusMode mode)
  let s2 := seats.foldl (fun t x =>
    let (port, pos, serial, life) := x.2
    match x.1 with
    | some n => if (look t.ferry.topo n).isSome then t else t.seat n port pos serial life
    | none => if pos = 1 then t.holdDown port 2 else t) s1
  s2.settleRing

/-- A follower's answer reaches the front device (R424 to R426). While the enumeration that found the record empty runs, it
shapes mode and numbers; later it takes the number of its place, or one more. -/
def State.found (s : State) (port pos serial life : Nat) : State :=
  if s.get R.ferryStatusMode = 0 ∨ !s.ferry.found.isEmpty then
    let same := s.ferry.found.any (fun f => f.1 == port && f.2.1 == pos && f.2.2.1 == serial)
    (if same then s else { s with ferry.found := s.ferry.found ++ [(port, pos, serial, life)] }).renumber
  else
    match numberAt (s.get R.ferryStatusMode) s.ferry.topo.length port pos with
    | some n => (s.seat n port pos serial life).settleRing
    | none => if pos = 1 then s.holdDown port 2 else s

/-- DISCOVER (R423, R424, R426). On the front device its own walk that comes back on F1 closes the ring; any other is refused. A
device with no role becomes a follower, with the port as its upstream port and its endpoint in reset. -/
def State.discover (s : State) (port front : Nat) : State :=
  if !s.ferryRuns ∨ port > 3 ∨ s.get (R.ferryPortState port) = 1 then s
  else
    let s1 := s.put (R.ferryPortState port) 3
    let role := s1.get R.ferryStatusRole
    if role = 1 then
      if front = s.ownSerial ∧ port = 1 then
        if s1.get R.ferryStatusMode = 0 then { s1 with ferry.found := s1.ferry.found ++ [(1, 0, 0, 0)] }
        else if s1.ferry.found.isEmpty then s1.settleRing
        else { s1 with ferry.found := s1.ferry.found ++ [(1, 0, 0, 0)] }.renumber
      else s1.holdDown port 1
    else if role = 0 then
      ({ (s1.put R.ferryStatusRole 2).put (R.ferryPortUse port) 1 with ferry.front := some front, pwr.link := false }).answerDiscover port front
    else if s1.ferry.front = some front then
      let up := (List.range 4).any (fun p => s1.get (R.ferryPortUse p) == 1)
      (if up then s1 else s1.put (R.ferryPortUse port) 1).answerDiscover port front
    else s1.holdDown port 1

/-- DISCOVER (R426). -/
def execDiscover (port front : Nat) (s : State) : Host.Outcome State Fault Refusal := .next (s.discover port front)

/-- DISCOVER_ACK (R426): a follower passes it on towards the front device. -/
def execDiscoverAck (port pos serial life : Nat) (s : State) : Host.Outcome State Fault Refusal :=
  .next (if !s.ferryRuns ∨ port > 3 ∨ s.get (R.ferryPortState port) = 1 then s
    else
      let s1 := s.put (R.ferryPortState port) 3
      if s1.get R.ferryStatusRole = 1 then (if port ≤ 2 ∧ pos ≠ 0 then s1.found port pos serial life else s1)
      else if s1.get R.ferryStatusRole = 2 then
        s1.ferrySend s1.upstream 2 0xFF 0 true true (leBytes 8 serial ++ leBytes 1 life)
      else s1)

/-- ASSIGN (R426): a follower takes its number. -/
def execAssign (number : Nat) (s : State) : Host.Outcome State Fault Refusal :=
  .next (if s.ferryRuns ∧ s.get R.ferryStatusRole = 2 then
      if 1 ≤ number ∧ number ≤ 63 then s.put R.ferryStatusSelf number else s.linkError s.upstream 4
    else s)

/-- The enumeration that found the record empty is over: a port that the topology does not use is off (R422, R424). -/
def State.closeEnumeration (s : State) : State :=
  if s.ferry.found.isEmpty ∨ s.get R.ferryStatusMode = 0 then s
  else
    let used (p : Nat) : Bool := let m := s.get R.ferryStatusMode; if m = 1 then p == 0 else if m = 2 then decide (p ≤ 1) else decide (p ≤ 2)
    (List.range 4).foldl (fun t p => if used p ∨ t.get (R.ferryPortState p) = 1 then t else t.put (R.ferryPortState p) 0)
      { s with ferry.found := [] }

/-- FERRY_DISCOVER_TICK (R426). -/
def execFerryDiscoverTick (s : State) : Host.Outcome State Fault Refusal :=
  .next (if s.ferryRuns ∧ s.get R.ferryStatusRole = 1 then s.closeEnumeration.discoverAll else s)

/-- FERRY_PORT_TRAINED (R422, R428, R429): the port is UP, what was not acknowledged is replayed, DISCOVER goes out at once. -/
def execFerryPortTrained (port : Nat) (s : State) : Host.Outcome State Fault Refusal :=
  .next (if !s.ferryRuns ∨ port > 3 ∨ s.get (R.ferryPortState port) = 3 then s
    else (((s.put (R.ferryPortState port) 3).put (R.ferryPortReason port) 0).replay port).settleRing.discoverAll)

/-! ### Lost links and followers (R428, R429, R434) -/

/-- Follower `n` of a broken ring takes the other way round: what was in transit to it is lost (R429, R434). -/
def State.moveFollower (s : State) (n port : Nat) : State :=
  if s.get (R.ferryFollowerState n) ≠ 3 ∨ s.get (R.ferryFollowerPort n) = port then s
  else
    let s1 := (s.put (R.ferryFollowerPort n) port).put (R.ferryFollowerHops n) (if port = 0 then n else s.ferry.topo.length + 1 - n)
    let gone := s1.ferry.waits.filter (fun w => w.2.dev == n && w.2.cid.isSome)
    let s2 := { s1 with ferry.waits := s1.ferry.waits.filter (fun w => w.2.dev != n || w.2.cid.isNone) }
    (gone.foldl (fun t w => match w.2.cid with | some c => t.complete c (Resp.of St.deviceUnreachable) | none => t) s2).put
      (R.ferryFollowerOutOutstanding n) 0

/-- The ring is broken where `side` says which port still reaches each follower (R429). -/
def State.breakRing (s : State) (side : Nat → Nat) : State :=
  s.ferry.topo.foldl (fun t x => t.moveFollower x.1 (side x.1)) (s.put R.ferryStatusRingBroken 1)

/-- FERRY_LINK_SILENCE (R428, R429): the port retrains; a port of the ring that stays silent while it retrains is a failed link,
and its followers take the other side (log entry 44). -/
def execFerryLinkSilence (port : Nat) (s : State) : Host.Outcome State Fault Refusal :=
  .next (if !s.ferryRuns ∨ port > 3 then s
    else if s.get (R.ferryPortState port) = 3 then s.retrain port
    else if s.get (R.ferryPortState port) = 2 ∧ s.get R.ferryStatusRole = 1 ∧ s.get R.ferryStatusMode = 2 ∧ port ≤ 1 then
      (s.breakRing (fun _ => 1 - port)).onward
    else s)

/-- FOLLOWER_ABSENT (R428, R429, R434): the commands outstanding to it end with DEVICE_UNREACHABLE; in a ring the followers on
either side of it are reached from their own side. -/
def execFollowerAbsent (n : Nat) (s : State) : Host.Outcome State Fault Refusal :=
  .next (if n = 0 ∨ n > 63 ∨ s.get R.ferryStatusRole ≠ 1 ∨ s.get (R.ferryFollowerState n) < 2 then s
    else
      let s1 := (s.linkError (s.get (R.ferryFollowerPort n)) 2).loseFollower n
      (if s1.get R.ferryStatusMode = 2 then s1.breakRing (fun k => if k < n then 0 else 1) else s1).onward)

/-! ### Commands (R431) -/

/-- COMMAND_FRAME (R431): the follower takes the command once its last part is here. -/
def execCommandFrame (h : FerryHead) (m : Msg) (s : State) : Host.Outcome State Fault Refusal :=
  .next (s.frameIn 4 2 h (headerBytes m ++ m.payload) (fun t =>
    match t.gather h m.payload with
    | (t1, none) => t1
    | (t1, some all) =>
      let (t2, cid) := t1.take { m with payload := all, origin := .ferry h.xtag }
      (t2.begin cid false).pump))

/-- The fields of a RESPONSE as a follower passes it on (the model's payload, log entry 48). -/
def responsePart (status reason info hamper key stamp : Nat) (result : Bytes) : Bytes :=
  leBytes 2 status ++ leBytes 1 reason ++ leBytes 4 info ++ leBytes 8 hamper ++ leBytes 4 key ++ leBytes 12 stamp ++ result

/-- A follower's answer is whole: its command completes with it (R431 steps 4 and 5). -/
def State.farAnswer (s : State) (xtag dev stamp : Nat) (r : Resp) : State :=
  match look s.ferry.waits xtag with
  | some ⟨n, some cid, _, _⟩ =>
    if n ≠ dev then s
    else
      let s1 := { s with
        ferry.waits := drop s.ferry.waits xtag
        host.cmds := adjust s.host.cmds cid (fun c => { c with far := some (dev, stamp) }) }
      let s2 := s1.put (R.ferryFollowerOutOutstanding n) (s1.get (R.ferryFollowerOutOutstanding n) - 1)
      ((s2.complete cid r).sendQueued n).pump
  | _ => s

/-- RESPONSE_FRAME (R431). -/
def execResponseFrame (h : FerryHead) (status reason info hamper key stamp : Nat) (result : Bytes) (s : State) :
    Host.Outcome State Fault Refusal :=
  .next (s.frameIn 5 1 h (responsePart status reason info hamper key stamp result) (fun t =>
    match t.gather h result with
    | (t1, none) => t1
    | (t1, some all) => t1.farAnswer h.xtag h.src stamp ⟨status, reason, 0, info, hamper, key, all⟩))

/-! ### Far-device windows (R46, R430) -/

/-- The BAR offset, on the follower, of offset `off` of its far-device window: its fast window, its message areas, and the block
set that FERRY_APERTURE selects, whose shared sets show whole. -/
def State.farTarget (s : State) (n off : Nat) : Option Nat :=
  if off < 0x10000 then some off
  else if off < 0x30000 then some (0x100000 + (off - 0x10000))
  else if off < 0x40000 then
    ((blockBases.find? (fun b => blockCode b == s.get (R.ferryApertureBlock n))).map (fun b => b / 0x10000 * 0x10000 + (off - 0x30000)))
  else none

/-- The offset in the PF's BAR of a place in far-device window `n` (Table GI.2). -/
def farOff (n off : Nat) : Nat := 0x1000000 + 0x40000 * n + off

/-- An access of `len` bytes to far-device window `n` (R46, R430): window 0 is RSV; a follower that is not PRESENT answers
zeros, and FAR_ABSENT is recorded; else REG_READ or REG_WRITE goes to the follower. -/
def State.farAccess (s0 : State) (n off len : Nat) (write : Bool) (v : Nat) : State :=
  let req : Requester := ⟨0x50, 0⟩
  let s := s0.noHalf req
  let back (t : State) : State := if write then t else t.emit (.readData req (farOff n off) 0)
  if n = 0 ∨ n > 63 then back (s.accessErr req 3 (farOff n off) write)
  else if s.get R.ferryStatusRole ≠ 1 ∨ s.get (R.ferryFollowerState n) ≠ 3 then back (s.accessErr req 8 (farOff n off) write)
  else match s.farTarget n off with
    | none => back (s.accessErr req 3 (farOff n off) write)
    | some o =>
      let tag := s.ferry.nextTag
      let s1 := { s with ferry.nextTag := (tag + 1) % 2 ^ 32 }
      let port := s1.get (R.ferryFollowerPort n)
      if write then s1.sendMessage port 7 n tag (leBytes 4 o ++ leBytes 1 len ++ leBytes len v)
      else { s1 with ferry.waits := store s1.ferry.waits tag ⟨n, none, req, farOff n off⟩ }.sendMessage port 6 n tag (leBytes 4 o ++ leBytes 1 len)

/-- FAR_WINDOW_ACCESS (R430): 4 bytes, or 8 where the value written needs them. -/
def execFarWindowAccess (n off : Nat) (write : Bool) (value : Nat) (s : State) : Host.Outcome State Fault Refusal :=
  .next (if s.hostThere 0 then s.farAccess n off (if value < 2 ^ 32 then 4 else 8) write value else s)

/-- A far read that waits under `xtag` is answered with `v`. -/
def State.farDone (s : State) (xtag v : Nat) (absent : Bool) : State :=
  match look s.ferry.waits xtag with
  | some ⟨_, none, req, off⟩ =>
    if req.master ≠ 0x50 then s
    else
      let s1 := { s with ferry.waits := drop s.ferry.waits xtag }.emit (.readData req off v)
      if absent then s1.accessErr req 8 off false else s1
  | _ => s

/-- FAR_READ_TIMEOUT (R430). -/
def execFarReadTimeout (xtag : Nat) (s : State) : Host.Outcome State Fault Refusal := .next (s.farDone xtag 0 true)

/-- REG_DATA (R430). -/
def execRegData (h : FerryHead) (value : Nat) (s : State) : Host.Outcome State Fault Refusal :=
  .next (s.frameIn 8 1 h (leBytes 8 value) (fun t => t.farDone h.xtag value false))

/-- The front device as a requester on a follower (R429, Table WP.4). -/
def frontReq : Requester := ⟨0x60, 0⟩

/-- REG_READ (R430): the follower reads with the PF's rights, its fast window directly and the rest over the fabric, and answers
with REG_DATA. -/
def execRegRead (h : FerryHead) (off len : Nat) (s : State) : Host.Outcome State Fault Refusal :=
  .next (s.frameIn 6 2 h (leBytes 4 off ++ leBytes 1 len) (fun t =>
    if off < 0x10000 then
      let (t1, v) := t.regRead frontReq off len
      t1.sendMessage t1.upstream 8 0 h.xtag (leBytes len v)
    else t.fabric frontReq .read (0x30000000 + off) len (leBytes 4 h.xtag)))

/-- REG_WRITE (R430). -/
def execRegWrite (h : FerryHead) (off len value : Nat) (s : State) : Host.Outcome State Fault Refusal :=
  .next (s.frameIn 7 2 h (leBytes 4 off ++ leBytes 1 len ++ leBytes len value) (fun t =>
    if off < 0x10000 then t.regWrite frontReq off len value true
    else t.fabric frontReq .write (0x30000000 + off) len (leBytes len value)))

/-! ### Host memory for followers (R433) -/

/-- HOST_READ (R433): translated under function 0 and issued; its data, or none where it fails, goes back as HOST_DATA. -/
def execHostRead (h : FerryHead) (addr len : Nat) (s : State) : Host.Outcome State Fault Refusal :=
  .next (s.frameIn 9 1 h (leBytes 8 addr ++ leBytes 4 len) (fun t =>
    let tag := t.ferry.nextTag
    let t1 := { t with
      ferry.waits := store t.ferry.waits tag ⟨h.src, none, ⟨0x40, 0⟩, h.xtag⟩
      ferry.nextTag := (tag + 1) % 2 ^ 32 }
    match t1.access 0 addr len none (.ferryHost tag) with
    | (t2, .faulted _) => t2.accessFailed (.ferryHost tag) 3 0x10
    | (t2, _) => t2))

/-- HOST_WRITE (R433): no answer goes back; 2^32 is no XTAG. -/
def execHostWrite (h : FerryHead) (addr : Nat) (data : Bytes) (s : State) : Host.Outcome State Fault Refusal :=
  .next (s.frameIn 10 1 h (leBytes 8 addr ++ data) (fun t =>
    match t.gather h data with
    | (t1, none) => t1
    | (t1, some all) => (t1.access 0 addr all.length (some all) (.ferryHost (2 ^ 32))).1))

/-- The data of a follower's own read: the next store response, whose fetched page is read after it, or that page (R116,
R433). No bytes stand for a failed read (log entry 48). -/
def State.hostCame (s : State) (use : Nat) (bs : Bytes) : State :=
  if use < 0x10000 then
    if bs.isEmpty then (s.takeResponse ⟨none, none⟩).onward
    else
      let tag := le bs 0 2
      match look s.hs.reqs tag with
      | some r =>
        if le bs 2 1 = 0 ∧ (r.op = 1 ∨ r.op = 2) ∧ !r.stale then
          s.hostAsk (s.get R.storePoolBaseAddr + 4096 * r.buffer.getD 0) 4096 (0x10000 + tag)
        else (s.takeResponse ⟨some (tag, le bs 2 1), none⟩).onward.askResponse
      | none => (s.takeResponse ⟨some (tag, le bs 2 1), none⟩).onward.askResponse
  else (s.takeResponse ⟨some (use - 0x10000, 0), if bs.isEmpty then none else some bs⟩).onward.askResponse

/-- HOST_DATA (R433). -/
def execHostData (h : FerryHead) (data : HostData) (s : State) : Host.Outcome State Fault Refusal :=
  let bytes := match data with | .data b => b | .failed => []
  .next (s.frameIn 11 2 h bytes (fun t =>
    match look t.ferry.waits h.xtag with
    | some ⟨0, none, _, use⟩ =>
      (match t.gather h bytes with
        | (t1, none) => t1
        | (t1, some all) => { t1 with ferry.waits := drop t1.ferry.waits h.xtag }.hostCame use all)
    | _ => t))

/-- EVENT_FRAME (R435): shown through the follower's fast window, and routed to no vector here. -/
def execEventFrame (h : FerryHead) (source : Nat) (s : State) : Host.Outcome State Fault Refusal :=
  .next (s.frameIn 12 1 h (leBytes 2 source) id)

end Sys2Proof.Machine
end

