-- ==== Sys2Proof/Machine/Bar.lean ====
section
/-! DEFINITION. Accesses by address: a host function's BAR (R45 to R47) and the register writes and reads of the table, each by
the path its requester has: a host function through its BAR, every other master over the fabric (R321, Table WP.2). Then SMBus
(R462) and the MRAM scrub (R470). -/

namespace Sys2Proof.Machine

/-! ### Where a BAR offset leads (Table GI.2, Table GI.3) -/

/-- What stands at an offset of function `fn`'s BAR: a fabric address, a place in a far-device window, or a register area. -/
inductive Place where
  | fabric (addr : Nat)
  | far (n off : Nat)
  | regs (off : Nat)
  deriving DecidableEq, Repr

/-- The place of a BAR offset. -/
def placeOf (fn off : Nat) : Place :=
  if fn ≠ 0 then
    if 0x4000 ≤ off ∧ off < 0x5000 then .fabric (0x30120000 + 0x1000 * (fn - 1) + (off - 0x4000)) else .regs (vfOff fn (off % 0x10000))
  else if isSlow off then .fabric (0x30000000 + off)
  else if 0x100000 ≤ off ∧ off < 0x120000 then .fabric (0x30100000 + (off - 0x100000))
  else if 0x1000000 ≤ off ∧ off < 0x2000000 then .far ((off - 0x1000000) / 0x40000) (off % 0x40000)
  else .regs off

/-- A read of `len` bytes at an offset of the register space (LOW_HALF_READ, R41 to R47). -/
def State.read (s : State) (r : Requester) (off len : Nat) : State :=
  if !reqIsHost r then s.fabric r .read (0x30000000 + off) len []
  else if !s.hostThere r.sub then s
  else match placeOf r.sub off with
    | .fabric a => s.fabric r .read a len []
    | .far n o => s.farAccess n o len false 0
    | .regs o =>
      let (s1, v) := s.regRead r o len
      s1.emit (.readData r off v)

/-- A write with partial byte enables into the slow window: checked, then turned away (R41). -/
def State.writePartial (s : State) (r : Requester) (off len v : Nat) : State :=
  match s.checkPart r .write (0x30000000 + off) false with
  | (s1, true) => s1.regWrite r off len v false
  | (s1, false) => (s1.noHalf r).answerWrite r (0x30000000 + off) true

/-- A write of `len` bytes at an offset of the register space; `full` is false for partial byte enables, which a far-device window
turns away as any register area does, its message areas apart (R41, R45). -/
def State.write (s : State) (r : Requester) (off len v : Nat) (full : Bool) : State :=
  if !reqIsHost r then
    if full ∨ !isSlow off then s.fabric r .write (0x30000000 + off) len (leBytes len v) else s.writePartial r off len v
  else if !s.hostThere r.sub then s
  else match placeOf r.sub off with
    | .fabric a => if full ∨ !isSlow off then s.fabric r .write a len (leBytes len v) else s.writePartial r off len v
    | .far n o =>
    if !full ∧ !(0x10000 ≤ o ∧ o < 0x30000) then (s.noHalf r).accessErr r 1 off true else s.farAccess n o len true v
    | .regs o => s.regWrite r o len v full

/-- The value of a masked write that gives bit `i` the value `on` (Table SC.6, RWM). -/
def maskedValue (i : Nat) (on : Bool) : Nat := 2 ^ (16 + i) + 2 ^ i * ofBool on

/-! ### Reads and writes of the table -/

/-- TRNG_DATA_READ (R217, R44): the whole word, either half, or TRNG_DATA_VALID. The word that is popped was released before; a core
that disagrees withholds what refills the FIFO (R214). -/
def execTrngDataRead (req : Requester) (part : Nat) (s : State) (agree : Bool := true) : Host.Outcome State Fault Refusal :=
  .next ((match part with
    | 0 => s.read req 0x90060 8
    | 1 => s.read req 0x90060 4
    | 2 => s.read req 0x90064 4
    | _ => s.read req 0x90068 4).core agree)

/-- LOW_HALF_READ (R43), and every other read of a register (R41). -/
def execLowHalfRead (req : Requester) (off len : Nat) (s : State) : Host.Outcome State Fault Refusal := .next (s.read req off len)

/-- LOW_HALF_WRITE (R43). -/
def execLowHalfWrite (req : Requester) (off value : Nat) (s : State) : Host.Outcome State Fault Refusal :=
  .next (s.write req off 4 value true)

/-- REGISTER_WRITE (R41, R53). -/
def execRegisterWrite (req : Requester) (off len value : Nat) (full : Bool) (s : State) : Host.Outcome State Fault Refusal :=
  .next (s.write req off len value full)

/-- SQC_CLEAR (R58). -/
def execSqcClear (req : Requester) (off value : Nat) (s : State) : Host.Outcome State Fault Refusal :=
  .next (s.write req off 4 (value % 2 ^ 32) true)

/-- QUIESCE (R55). -/
def execQuiesce (req : Requester) (base : Nat) (on : Bool) (s : State) : Host.Outcome State Fault Refusal :=
  .next (s.write req (base + 4) 4 (maskedValue 0 on) true)

/-- QUIESCED (R55): the block has reached its safe boundary. With a live update or a transition waiting, the queues are quiesced for it,
and it runs to its end (Table KH.7 step 6, Table LC.4 step 4). -/
def execQuiesced (base : Nat) (s : State) : Host.Outcome State Fault Refusal :=
  .next (if base = 0x50000 ∧ s.life.updating.isSome ∧ !s.blockOut base true then (s.quiescedNow base).runChange.pump else s.quiescedNow base)

/-- COMMIT_REQUEST (R60). -/
def execCommitRequest (req : Requester) (base groups : Nat) (s : State) : Host.Outcome State Fault Refusal :=
  .next (s.write req (base + 0xC) 4 groups true)

/-- QENG_EVENT_ACK (R290). -/
def execQengEventAck (req : Requester) (source : Nat) (s : State) : Host.Outcome State Fault Refusal :=
  .next (s.write req 0x50140 4 source true)

/-- FAULT_ACK_HARD (R379). -/
def execFaultAckHard (req : Requester) (slot : Nat) (s : State) : Host.Outcome State Fault Refusal :=
  .next (s.write req 0x2008C 4 (0x10 + slot % 16) true)

/-- FAULT_ACK_MINOR (R379). -/
def execFaultAckMinor (req : Requester) (s : State) : Host.Outcome State Fault Refusal := .next (s.write req 0x2008C 4 0x20 true)

/-- FAULT_ACK_SEVERE (R379). -/
def execFaultAckSevere (req : Requester) (s : State) : Host.Outcome State Fault Refusal := .next (s.write req 0x2008C 4 0x40 true)

/-- STORE_REQ_CONS_WRITE (R131). -/
def execStoreReqConsWrite (value : Nat) (s : State) : Host.Outcome State Fault Refusal :=
  .next (s.write ⟨0x50, 0⟩ 0xA0068 4 value true)

/-- STORE_RSP_PROD_WRITE (R116). -/
def execStoreRspProdWrite (value : Nat) (s : State) : Host.Outcome State Fault Refusal :=
  .next (s.write ⟨0x50, 0⟩ 0xA007C 4 value true)

/-- PKE_CLUSTER_CTRL_GATE_REQ (R173). -/
def execPkeClusterCtrlGateReq (req : Requester) (n : Nat) (on : Bool) (s : State) : Host.Outcome State Fault Refusal :=
  .next (if n < 16 then s.write req (clusterCtrlOff n) 4 (maskedValue 0 on) true else s)

/-- PKE_CLUSTER_CTRL_FENCE (R173). -/
def execPkeClusterCtrlFence (req : Requester) (n : Nat) (on : Bool) (s : State) : Host.Outcome State Fault Refusal :=
  .next (if n < 16 then s.write req (clusterCtrlOff n) 4 (maskedValue 1 on) true else s)

/-- SKE_LANE_CTRL_GATE_REQ (R198). -/
def execSkeLaneCtrlGateReq (req : Requester) (lane : Nat) (on : Bool) (s : State) : Host.Outcome State Fault Refusal :=
  .next (if lane < 8 then s.write req (laneCtrlOff lane) 4 (maskedValue 0 on) true else s)

/-- SKE_LANE_CTRL_FENCE (R198). -/
def execSkeLaneCtrlFence (req : Requester) (lane : Nat) (on : Bool) (s : State) : Host.Outcome State Fault Refusal :=
  .next (if lane < 8 then s.write req (laneCtrlOff lane) 4 (maskedValue 1 on) true else s)

/-- SKE_LANE_CTRL_REJOIN (R198). -/
def execSkeLaneCtrlRejoin (req : Requester) (lane : Nat) (s : State) : Host.Outcome State Fault Refusal :=
  .next (if lane < 8 then s.write req (laneCtrlOff lane) 4 (maskedValue 2 true) true else s)

/-- TRNG_SRC_CTRL_RECAL (R221, R223). -/
def execTrngSrcCtrlRecal (req : Requester) (src : Nat) (s : State) : Host.Outcome State Fault Refusal :=
  .next (if src ≤ 4 then s.write req (srcCtrlOff src) 4 (maskedValue 0 true) true else s)

/-- TRNG_SRC_CTRL_ISOLATE (R223). -/
def execTrngSrcCtrlIsolate (req : Requester) (src : Nat) (s : State) : Host.Outcome State Fault Refusal :=
  .next (if src ≤ 4 then s.write req (srcCtrlOff src) 4 (maskedValue 1 true) true else s)

/-- MPC_WDOG_FEED (R340). -/
def execMpcWdogFeed (master : Nat) (s : State) : Host.Outcome State Fault Refusal := .next (s.write ⟨master, 0⟩ 0xC0048 4 1 true)

/-- MPC_LEASE_HOLD_SET (R344). -/
def execMpcLeaseHoldSet (master value : Nat) (s : State) : Host.Outcome State Fault Refusal :=
  .next (s.write ⟨master, 0⟩ 0xC0070 4 value true)

/-- PW_WRITE (R56): a host function reaches the device first; what its checker denies goes no further. -/
def execPwWrite (req : Requester) (off value : Nat) (s : State) : Host.Outcome State Fault Refusal :=
  .next (if reqIsHost req ∧ (!s.hostThere req.sub ∨ req.sub ≠ 0) then s
    else match s.checkPart req .write (0x30000000 + off) false with
      | (s1, true) => s1.pwWrite req off value
      | (s1, false) => (s1.noHalf req).answerWrite req (0x30000000 + off) true)

/-- PW_WRITE_LANDED (R56). -/
def execPwWriteLanded (off : Nat) (s : State) : Host.Outcome State Fault Refusal := .next (s.pwLanded off)

/-! ### Message areas -/

/-- MBOX_MESSAGE_WRITE (R226): a host function's write is posted (R337); the normal-world image writes its own area. -/
def execMboxMessageWrite (fn box off : Nat) (bytes : Bytes) (s : State) : Host.Outcome State Fault Refusal :=
  .next (if off + bytes.length > 4096 ∨ box ≥ (if fn = 0 then 32 else 1) then s
    else if fn = nwInst then s.fabric ⟨0x10, 0⟩ .write (mboxArea fn box + off) bytes.length bytes
    else if s.hostThere fn then s.fabric ⟨0x50, fn⟩ .write (mboxArea fn box + off) bytes.length bytes
    else s)

/-- HOST_MBOX_POSTED_WRITE (R337). -/
def execHostMboxPostedWrite (fn addr : Nat) (data : Bytes) (s : State) : Host.Outcome State Fault Refusal :=
  .next (if s.hostThere fn ∧ (areaOwner addr).isSome then s.fabric ⟨0x50, fn⟩ .write addr data.length data else s)

/-! ### SMBus (R462) -/

/-- The target answers while the main supplies are present and PORST_N is high, in a halt too. -/
def State.smbusRead (s : State) (data : Bytes) : State := if s.pwr.main ∧ s.pwr.porstN then s.emit (.smbus data) else s

/-- The 4 bytes of a register. -/
def State.regBytes (s : State) (off : Nat) : Bytes := leBytes 4 (s.word ⟨1, 0⟩ off)

/-- SMBUS_DEV_STATUS (Table EL.8). -/
def execSmbusDevStatus (s : State) : Host.Outcome State Fault Refusal := .next (s.smbusRead (s.regBytes 0x4000))

/-- SMBUS_LANTERN_STATUS (Table EL.8). -/
def execSmbusLanternStatus (s : State) : Host.Outcome State Fault Refusal := .next (s.smbusRead (s.regBytes 0x4020))

/-- SMBUS_TEMPERATURES (Table EL.8): K0, K1, then M0 to M3. -/
def execSmbusTemperatures (s : State) : Host.Outcome State Fault Refusal :=
  .next (s.smbusRead ((s.regBytes 0xD0054).take 2 ++ s.regBytes 0xD0058))

/-- SMBUS_KEEPER_POWER (Table EL.8): KEEPER_POWER, then KEEPER_CAP. -/
def execSmbusKeeperPower (s : State) : Host.Outcome State Fault Refusal := .next (s.smbusRead (s.regBytes 0xD005C ++ s.regBytes 0xD0060))

/-- SMBUS_FAULT_COUNT_B (Table EL.8). -/
def execSmbusFaultCountB (s : State) : Host.Outcome State Fault Refusal := .next (s.smbusRead (s.regBytes 0x2007C))

/-- SMBUS_DEVICE_SERIAL (Table EL.8). -/
def execSmbusDeviceSerial (s : State) : Host.Outcome State Fault Refusal := .next (s.smbusRead (padTo 8 s.life.serial))

/-- SMBUS_ALERT_RESPONSE (R461, R462): while SMB_ALERT_N is low the target gives its address, in the upper seven bits of the
byte as SMBus has it (PRESUMED, log entry 50). -/
def execSmbusAlertResponse (s : State) : Host.Outcome State Fault Refusal :=
  .next (if s.faultAsserted then s.smbusRead [BitVec.ofNat 8 (2 * (0x60 + s.get R.sysPinsStrap % 4))] else s)

/-! ### The MRAM scrub (R470) -/

/-- MRAM_SCRUB (R470): each uncorrectable word is a SOFT fault of its bank where the other bank's copy repairs it, else a HARD
one. -/
def execMramScrub (bad : List (Nat × Bool)) (s : State) : Host.Outcome State Fault Refusal :=
  .next (if s.pwr.main ∧ s.pwr.porstN then
      bad.foldl (fun t b => if b.2 then t.soft (locM 0xF 30 b.1) 1 0 else t.hard (locM 0xF 30 b.1) 1 0) s
    else s)

end Sys2Proof.Machine
end

