-- ==== Sys2Proof/Machine/Idle.lean ====
section
/-! DEFINITION. What time does while no command waits: one step on an empty queue is one engine cycle (DESIGN CHOICE, log entry
1). The local tick counts engine cycles (R374), and the timers of HARD slots count microseconds (R375). Every other passage of
time is a command of the table. -/

namespace Sys2Proof.Machine

/-- Engine cycles in a microsecond (Table AH.1: 1.5 GHz). -/
def cyclesPerUs : Nat := 1500

/-- The timer of HARD slot `i` counts one microsecond down; at 0 the fault escalates (R375). -/
def State.hardTick (s : State) (i : Nat) : State :=
  if bitOf (s.get R.faultHardOpen) i then
    let left := s.get (R.faultHardSlotTRemaining i)
    if left ≤ 1 then s.escalate i else s.put (R.faultHardSlotTRemaining i) (left - 1)
  else s

/-- A cycle of the HARD timers: each 1,500th cycle is a microsecond; paused timers stand (R375). -/
def State.hardTimers (s : State) : State :=
  if s.get R.faultHardOpen = 0 ∨ !s.timersRun then s
  else if s.fault.usPart + 1 < cyclesPerUs then { s with fault.usPart := s.fault.usPart + 1 }
  else (List.range 16).foldl (fun t i => t.hardTick i) { s with fault.usPart := 0 }

/-- One engine cycle with no command waiting: nothing while PORST_N is low or the main supplies are absent; else the local tick
counts (R374), and the HARD timers run. -/
def State.idle (s : State) : State :=
  if s.pwr.main && s.pwr.porstN then (s.incMod R.faultTickTick 1).hardTimers else s

end Sys2Proof.Machine
end

