-- ==== Sys2Proof/Machine/Dispatch.lean ====
section
/-! DEFINITION. The dispatch: one arm per command, each one call of its meaning. -/

namespace Sys2Proof.Machine

/-- The effect of a command on everything but the queue. -/
def exec (i : Instr) (s : State) : Host.Outcome State Fault Refusal :=
  match i with
  | .deviceInfoGet m => Sys2Proof.Machine.execDeviceInfoGet m s
  | .identityGet m => Sys2Proof.Machine.execIdentityGet m s
  | .attestationAnswer m => Sys2Proof.Machine.execAttestationAnswer m s
  | .attestationSign m => Sys2Proof.Machine.execAttestationSign m s
  | .keyGenerate m => Sys2Proof.Machine.execKeyGenerate m s
  | .keyImport m => Sys2Proof.Machine.execKeyImport m s
  | .keyExport m => Sys2Proof.Machine.execKeyExport m s
  | .keyDerive m => Sys2Proof.Machine.execKeyDerive m s
  | .keyPublicGet m => Sys2Proof.Machine.execKeyPublicGet m s
  | .hamperLoad m => Sys2Proof.Machine.execHamperLoad m s
  | .slotFree m => Sys2Proof.Machine.execSlotFree m s
  | .hamperRewrap m => Sys2Proof.Machine.execHamperRewrap m s
  | .hamperRevoke m => Sys2Proof.Machine.execHamperRevoke m s
  | .hamperReclaim m => Sys2Proof.Machine.execHamperReclaim m s
  | .nonceLimitSet m => Sys2Proof.Machine.execNonceLimitSet m s
  | .sign m => Sys2Proof.Machine.execSign m s
  | .verify m => Sys2Proof.Machine.execVerify m s
  | .encrypt m => Sys2Proof.Machine.execEncrypt m s
  | .decrypt m => Sys2Proof.Machine.execDecrypt m s
  | .macGenerate m => Sys2Proof.Machine.execMacGenerate m s
  | .macVerify m => Sys2Proof.Machine.execMacVerify m s
  | .hash m => Sys2Proof.Machine.execHash m s
  | .wrap m => Sys2Proof.Machine.execWrap m s
  | .unwrap m => Sys2Proof.Machine.execUnwrap m s
  | .agree m => Sys2Proof.Machine.execAgree m s
  | .encapsulate m => Sys2Proof.Machine.execEncapsulate m s
  | .decapsulate m => Sys2Proof.Machine.execDecapsulate m s
  | .arithmeticRun m => Sys2Proof.Machine.execArithmeticRun m s
  | .randomGenerate m agree => Sys2Proof.Machine.execRandomGenerate m s agree
  | .tenantCreate m => Sys2Proof.Machine.execTenantCreate m s
  | .tenantDelete m => Sys2Proof.Machine.execTenantDelete m s
  | .tenantQuotaSet m => Sys2Proof.Machine.execTenantQuotaSet m s
  | .tenantPolicySet m => Sys2Proof.Machine.execTenantPolicySet m s
  | .generationRoll m => Sys2Proof.Machine.execGenerationRoll m s
  | .generationRetire m => Sys2Proof.Machine.execGenerationRetire m s
  | .instanceBind m => Sys2Proof.Machine.execInstanceBind m s
  | .tenantUnlock m => Sys2Proof.Machine.execTenantUnlock m s
  | .tenantInfoGet m => Sys2Proof.Machine.execTenantInfoGet m s
  | .custodianEnrol m => Sys2Proof.Machine.execCustodianEnrol m s
  | .custodianRemove m => Sys2Proof.Machine.execCustodianRemove m s
  | .quorumPolicySet m => Sys2Proof.Machine.execQuorumPolicySet m s
  | .portPair m => Sys2Proof.Machine.execPortPair m s
  | .approvalSubmit m => Sys2Proof.Machine.execApprovalSubmit m s
  | .operationStatusGet m => Sys2Proof.Machine.execOperationStatusGet m s
  | .operationCancel m => Sys2Proof.Machine.execOperationCancel m s
  | .timeGet m => Sys2Proof.Machine.execTimeGet m s
  | .anchorLoad m => Sys2Proof.Machine.execAnchorLoad m s
  | .waypointSet m => Sys2Proof.Machine.execWaypointSet m s
  | .waypointClear m => Sys2Proof.Machine.execWaypointClear m s
  | .mainsNominalSet m => Sys2Proof.Machine.execMainsNominalSet m s
  | .storeAttach m => Sys2Proof.Machine.execStoreAttach m s
  | .storeFormat m => Sys2Proof.Machine.execStoreFormat m s
  | .storeRecheck m => Sys2Proof.Machine.execStoreRecheck m s
  | .storePrune m => Sys2Proof.Machine.execStorePrune m s
  | .storeReclaimRange m => Sys2Proof.Machine.execStoreReclaimRange m s
  | .curveLoad m => Sys2Proof.Machine.execCurveLoad m s
  | .curveRetire m => Sys2Proof.Machine.execCurveRetire m s
  | .microcodeInstall m => Sys2Proof.Machine.execMicrocodeInstall m s
  | .firmwareStage m => Sys2Proof.Machine.execFirmwareStage m s
  | .firmwareActivate m => Sys2Proof.Machine.execFirmwareActivate m s
  | .configSet m => Sys2Proof.Machine.execConfigSet m s
  | .tamperResponseSet m => Sys2Proof.Machine.execTamperResponseSet m s
  | .attestationKeyProvision m => Sys2Proof.Machine.execAttestationKeyProvision m s
  | .noiseRecalibrate m => Sys2Proof.Machine.execNoiseRecalibrate m s
  | .clusterServiceFence m => Sys2Proof.Machine.execClusterServiceFence m s
  | .clusterServiceReturn m => Sys2Proof.Machine.execClusterServiceReturn m s
  | .clusterServicePowerOff m => Sys2Proof.Machine.execClusterServicePowerOff m s
  | .clusterServicePowerOn m => Sys2Proof.Machine.execClusterServicePowerOn m s
  | .clusterServiceRecalibrate m => Sys2Proof.Machine.execClusterServiceRecalibrate m s
  | .clusterRetire m => Sys2Proof.Machine.execClusterRetire m s
  | .deviceUnlock m => Sys2Proof.Machine.execDeviceUnlock m s
  | .floorRaise m => Sys2Proof.Machine.execFloorRaise m s
  | .domainJoin m => Sys2Proof.Machine.execDomainJoin m s
  | .tenantReplicateOffer m => Sys2Proof.Machine.execTenantReplicateOffer m s
  | .tenantReplicateSend m => Sys2Proof.Machine.execTenantReplicateSend m s
  | .tenantReplicateAccept m => Sys2Proof.Machine.execTenantReplicateAccept m s
  | .tenantReplicateAdopt m => Sys2Proof.Machine.execTenantReplicateAdopt m s
  | .logRead m => Sys2Proof.Machine.execLogRead m s
  | .logFreeze m => Sys2Proof.Machine.execLogFreeze m s
  | .logThaw m => Sys2Proof.Machine.execLogThaw m s
  | .logClear m => Sys2Proof.Machine.execLogClear m s
  | .journalAttach m => Sys2Proof.Machine.execJournalAttach m s
  | .lifecycleTransition m => Sys2Proof.Machine.execLifecycleTransition m s
  | .debugChallengeGet m => Sys2Proof.Machine.execDebugChallengeGet m s
  | .debugOpen m => Sys2Proof.Machine.execDebugOpen m s
  | .debugPasswordSet m => Sys2Proof.Machine.execDebugPasswordSet m s
  | .debugKeySet m => Sys2Proof.Machine.execDebugKeySet m s
  | .quorumActRun slot => Sys2Proof.Machine.execQuorumActRun slot s
  | .quorumTimeout slot => Sys2Proof.Machine.execQuorumTimeout slot s
  | .go fn box => Sys2Proof.Machine.execGo fn box s
  | .ack fn box => Sys2Proof.Machine.execAck fn box s
  | .abort fn box => Sys2Proof.Machine.execAbort fn box s
  | .mboxMessageWrite fn box off bytes => Sys2Proof.Machine.execMboxMessageWrite fn box off bytes s
  | .sqDoorbell fn idx => Sys2Proof.Machine.execSqDoorbell fn idx s
  | .cqDoorbell fn idx => Sys2Proof.Machine.execCqDoorbell fn idx s
  | .capture fn value => Sys2Proof.Machine.execCapture fn value s
  | .trngDataRead req part agree => Sys2Proof.Machine.execTrngDataRead req part s agree
  | .lowHalfRead req off len => Sys2Proof.Machine.execLowHalfRead req off len s
  | .lowHalfWrite req off value => Sys2Proof.Machine.execLowHalfWrite req off value s
  | .registerWrite req off len value full => Sys2Proof.Machine.execRegisterWrite req off len value full s
  | .pwWrite req off value => Sys2Proof.Machine.execPwWrite req off value s
  | .pwWriteLanded off => Sys2Proof.Machine.execPwWriteLanded off s
  | .sqcClear req off value => Sys2Proof.Machine.execSqcClear req off value s
  | .quiesce req base on => Sys2Proof.Machine.execQuiesce req base on s
  | .quiesced base => Sys2Proof.Machine.execQuiesced base s
  | .commitRequest req base groups => Sys2Proof.Machine.execCommitRequest req base groups s
  | .commitApply base => Sys2Proof.Machine.execCommitApply base s
  | .ruleEpochDrainEnd checker => Sys2Proof.Machine.execRuleEpochDrainEnd checker s
  | .functionLoad fn desc => Sys2Proof.Machine.execFunctionLoad fn desc s
  | .functionDisable fn => Sys2Proof.Machine.execFunctionDisable fn s
  | .sqLoad sq desc => Sys2Proof.Machine.execSqLoad sq desc s
  | .sqDisable sq => Sys2Proof.Machine.execSqDisable sq s
  | .cqLoad cq desc => Sys2Proof.Machine.execCqLoad cq desc s
  | .cqDisable cq => Sys2Proof.Machine.execCqDisable cq s
  | .windowTableLoad fn table => Sys2Proof.Machine.execWindowTableLoad fn table s
  | .windowTableDisable fn => Sys2Proof.Machine.execWindowTableDisable fn s
  | .loadDone => Sys2Proof.Machine.execLoadDone s
  | .qengEventAck req source => Sys2Proof.Machine.execQengEventAck req source s
  | .faultAckHard req slot => Sys2Proof.Machine.execFaultAckHard req slot s
  | .faultAckMinor req => Sys2Proof.Machine.execFaultAckMinor req s
  | .faultAckSevere req => Sys2Proof.Machine.execFaultAckSevere req s
  | .storeReqConsWrite value => Sys2Proof.Machine.execStoreReqConsWrite value s
  | .storeRspProdWrite value => Sys2Proof.Machine.execStoreRspProdWrite value s
  | .storeResponse rsp => Sys2Proof.Machine.execStoreResponse rsp s
  | .storeBatchClose => Sys2Proof.Machine.execStoreBatchClose s
  | .storeFetchTimeout tag => Sys2Proof.Machine.execStoreFetchTimeout tag s
  | .storeHeldTimeout cid => Sys2Proof.Machine.execStoreHeldTimeout cid s
  | .storeRspRetry rsp => Sys2Proof.Machine.execStoreRspRetry rsp s
  | .storeBufferFreed => Sys2Proof.Machine.execStoreBufferFreed s
  | .slotAgeTick => Sys2Proof.Machine.execSlotAgeTick s
  | .pkeClusterCtrlGateReq req n on => Sys2Proof.Machine.execPkeClusterCtrlGateReq req n on s
  | .pkeClusterCtrlFence req n on => Sys2Proof.Machine.execPkeClusterCtrlFence req n on s
  | .pkeJobRelease n checkOk residueOk lane => Sys2Proof.Machine.execPkeJobRelease n checkOk residueOk lane s
  | .pkeWipeEnd n => Sys2Proof.Machine.execPkeWipeEnd n s
  | .pkeJobAbort n status => Sys2Proof.Machine.execPkeJobAbort n status s
  | .pkeClusterReady n badPkg testOk => Sys2Proof.Machine.execPkeClusterReady n badPkg testOk s
  | .quarantineReturn n badPkg testOk => Sys2Proof.Machine.execQuarantineReturn n badPkg testOk s
  | .maskSeedDelivery n agree => Sys2Proof.Machine.execMaskSeedDelivery n s agree
  | .maskSeedExpiry n => Sys2Proof.Machine.execMaskSeedExpiry n s
  | .entropyWaitTimeout cid => Sys2Proof.Machine.execEntropyWaitTimeout cid s
  | .skeRequestStart lane => Sys2Proof.Machine.execSkeRequestStart lane s
  | .skeRequestEnd lane checkOk => Sys2Proof.Machine.execSkeRequestEnd lane checkOk s
  | .skeLaneCtrlGateReq req lane on => Sys2Proof.Machine.execSkeLaneCtrlGateReq req lane on s
  | .skeLaneCtrlFence req lane on => Sys2Proof.Machine.execSkeLaneCtrlFence req lane on s
  | .skeLaneCtrlRejoin req lane => Sys2Proof.Machine.execSkeLaneCtrlRejoin req lane s
  | .nonceReservationDone ok0 ok1 => Sys2Proof.Machine.execNonceReservationDone ok0 ok1 s
  | .nonceRotation slot => Sys2Proof.Machine.execNonceRotation slot s
  | .trngWindowEnd src bits => Sys2Proof.Machine.execTrngWindowEnd src bits s
  | .drbgInstantiate agree => Sys2Proof.Machine.execDrbgInstantiate s agree
  | .drbgReseed agree => Sys2Proof.Machine.execDrbgReseed s agree
  | .autoRecalibrate src => Sys2Proof.Machine.execAutoRecalibrate src s
  | .trngSrcCtrlRecal req src => Sys2Proof.Machine.execTrngSrcCtrlRecal req src s
  | .trngSrcCtrlIsolate req src => Sys2Proof.Machine.execTrngSrcCtrlIsolate req src s
  | .recalSweepEnd src windows => Sys2Proof.Machine.execRecalSweepEnd src windows s
  | .mainsCrossing t negs => Sys2Proof.Machine.execMainsCrossing t negs s
  | .cycleMissing => Sys2Proof.Machine.execCycleMissing s
  | .compassTick => Sys2Proof.Machine.execCompassTick s
  | .compassStart elapsed => Sys2Proof.Machine.execCompassStart elapsed s
  | .clockCrossCheck ppm => Sys2Proof.Machine.execClockCrossCheck ppm s
  | .waypointFire n => Sys2Proof.Machine.execWaypointFire n s
  | .waypointEpochRoll n => Sys2Proof.Machine.execWaypointEpochRoll n s
  | .rateWindowEnd tenant => Sys2Proof.Machine.execRateWindowEnd tenant s
  | .arbitrationRound => Sys2Proof.Machine.execArbitrationRound s
  | .sqPollTick sq => Sys2Proof.Machine.execSqPollTick sq s
  | .sqHeaderRead sq r => Sys2Proof.Machine.execSqHeaderRead sq r s
  | .cqRoomPoll cq r => Sys2Proof.Machine.execCqRoomPoll cq r s
  | .coalesceTimer cq => Sys2Proof.Machine.execCoalesceTimer cq s
  | .msixPendingSend fn vec => Sys2Proof.Machine.execMsixPendingSend fn vec s
  | .hostReadTimeout id => Sys2Proof.Machine.execHostReadTimeout id s
  | .linkReset => Sys2Proof.Machine.execLinkReset s
  | .linkUp dropped bar0 vfBar0 => Sys2Proof.Machine.execLinkUp s dropped bar0 vfBar0
  | .vfFlr fn => Sys2Proof.Machine.execVfFlr fn s
  | .pfFlr => Sys2Proof.Machine.execPfFlr s
  | .vfDisable enable num => Sys2Proof.Machine.execVfDisable enable num s
  | .fabricAccess req kind addr len data mishap => Sys2Proof.Machine.execFabricAccess req kind addr len data s mishap
  | .debugAccess kind addr len data => Sys2Proof.Machine.execDebugAccess kind addr len data s
  | .hostMboxPostedWrite fn addr data => Sys2Proof.Machine.execHostMboxPostedWrite fn addr data s
  | .farWindowAccess n off write value => Sys2Proof.Machine.execFarWindowAccess n off write value s
  | .farReadTimeout xtag => Sys2Proof.Machine.execFarReadTimeout xtag s
  | .mpcWdogFeed master => Sys2Proof.Machine.execMpcWdogFeed master s
  | .watchdogMiss pair => Sys2Proof.Machine.execWatchdogMiss pair s
  | .g5RestartEnd facts => Sys2Proof.Machine.execG5RestartEnd facts s
  | .mpcLeaseHoldSet master value => Sys2Proof.Machine.execMpcLeaseHoldSet master value s
  | .leaseTimeout ske n => Sys2Proof.Machine.execLeaseTimeout ske n s
  | .hardEscalation slot => Sys2Proof.Machine.execHardEscalation slot s
  | .clusterResetEnd cluster kat4 kat5 => Sys2Proof.Machine.execClusterResetEnd cluster s kat4 kat5
  | .regionResetEnd region kat4 kat5 => Sys2Proof.Machine.execRegionResetEnd region s kat4 kat5
  | .logSubmit typ => Sys2Proof.Machine.execLogSubmit typ s
  | .logFreezeTimeout => Sys2Proof.Machine.execLogFreezeTimeout s
  | .journalEntryWrite ok => Sys2Proof.Machine.execJournalEntryWrite ok s
  | .pocketRecordCopy => Sys2Proof.Machine.execPocketRecordCopy s
  | .tamperAlarm source pathB detail value => Sys2Proof.Machine.execTamperAlarm source pathB detail value s
  | .tamperDecisionDelayEnd source => Sys2Proof.Machine.execTamperDecisionDelayEnd source s
  | .tamperAlarmClear source => Sys2Proof.Machine.execTamperAlarmClear source s
  | .keeperMaskRotate => Sys2Proof.Machine.execKeeperMaskRotate s
  | .rsGenRetry n nk => Sys2Proof.Machine.execRsGenRetry n nk s
  | .mainPowerOn => Sys2Proof.Machine.execMainPowerOn s
  | .mainPowerLoss cut => Sys2Proof.Machine.execMainPowerLoss s cut
  | .porstNAssert => Sys2Proof.Machine.execPorstNAssert s
  | .boot facts => Sys2Proof.Machine.execBoot facts s
  | .mramScrub bad => Sys2Proof.Machine.execMramScrub bad s
  | .portTransaction port frame => Sys2Proof.Machine.execPortTransaction port frame s
  | .portSessionOpen port => Sys2Proof.Machine.execPortSessionOpen port s
  | .helloAck port frame nonce => Sys2Proof.Machine.execHelloAck port frame nonce s
  | .approve port frame op pos pin digest => Sys2Proof.Machine.execApprove port frame op pos pin digest s
  | .pinSet port frame pos pin pin2 => Sys2Proof.Machine.execPinSet port frame pos pin pin2 s
  | .keepalive port frame => Sys2Proof.Machine.execKeepalive port frame s
  | .discover port front => Sys2Proof.Machine.execDiscover port front s
  | .discoverAck port pos serial life => Sys2Proof.Machine.execDiscoverAck port pos serial life s
  | .assign number => Sys2Proof.Machine.execAssign number s
  | .commandFrame h m => Sys2Proof.Machine.execCommandFrame h m s
  | .responseFrame h status reason info hamper key stamp result => Sys2Proof.Machine.execResponseFrame h status reason info hamper key stamp result s
  | .regRead h off len => Sys2Proof.Machine.execRegRead h off len s
  | .regWrite h off len value => Sys2Proof.Machine.execRegWrite h off len value s
  | .regData h value => Sys2Proof.Machine.execRegData h value s
  | .hostRead h addr len => Sys2Proof.Machine.execHostRead h addr len s
  | .hostWrite h addr data => Sys2Proof.Machine.execHostWrite h addr data s
  | .hostData h data => Sys2Proof.Machine.execHostData h data s
  | .eventFrame h source => Sys2Proof.Machine.execEventFrame h source s
  | .linkFrame port h nak => Sys2Proof.Machine.execLinkFrame port h nak s
  | .ferryIdleLink port => Sys2Proof.Machine.execFerryIdleLink port s
  | .ferryDiscoverTick => Sys2Proof.Machine.execFerryDiscoverTick s
  | .ferryPortTrained port => Sys2Proof.Machine.execFerryPortTrained port s
  | .ferryLinkSilence port => Sys2Proof.Machine.execFerryLinkSilence port s
  | .followerAbsent n => Sys2Proof.Machine.execFollowerAbsent n s
  | .replicationOfferExpiry tenant => Sys2Proof.Machine.execReplicationOfferExpiry tenant s
  | .smbusDevStatus => Sys2Proof.Machine.execSmbusDevStatus s
  | .smbusLanternStatus => Sys2Proof.Machine.execSmbusLanternStatus s
  | .smbusTemperatures => Sys2Proof.Machine.execSmbusTemperatures s
  | .smbusKeeperPower => Sys2Proof.Machine.execSmbusKeeperPower s
  | .smbusFaultCountB => Sys2Proof.Machine.execSmbusFaultCountB s
  | .smbusDeviceSerial => Sys2Proof.Machine.execSmbusDeviceSerial s
  | .smbusAlertResponse => Sys2Proof.Machine.execSmbusAlertResponse s
  | .lanternEdge pins => Sys2Proof.Machine.execLanternEdge s pins
  | .skeLaneSelfTestEnd lane pass => Sys2Proof.Machine.execSkeLaneSelfTestEnd lane pass s
  | .hostReadCompletion id r => Sys2Proof.Machine.execHostReadCompletion id r s
  | .debugChallengeExpiry => Sys2Proof.Machine.execDebugChallengeExpiry s

end Sys2Proof.Machine
end

