-- ==== Sys2Proof/Safety.lean ====
section
/-! DEFINITION. What counts as a sound state and a sound step, and what it is for a command to be let through, in the terms the
claims use. -/

namespace Sys2Proof.Machine

/-! ### Sound states and steps -/

/-- The keys of a table rise strictly, so each stands once. -/
def Amap.rising {α : Type} (m : Amap α) : Prop := m.Pairwise (fun a b => a.1 < b.1)

/-- The one form of a state's sparse parts: memory lists rising addresses and no zero byte; the register file lists each field
once, in rising order. Equal machines are then equal data. -/
def State.canonical (s : State) : Prop := Memory.wf s.mem = true ∧ Amap.rising s.regs

/-- What every command leaves standing, whatever it does: the commands that wait, what the device has put out already, the draws
already made (none is ever made again) and the canonical form. -/
def Keeps (s t : State) : Prop :=
  t.pending = s.pending ∧ s.out <:+ t.out ∧ s.fresh ≤ t.fresh ∧ (s.canonical → t.canonical)

/-! ### Commands that are let through -/

/-- What the door of a message command makes of it where it lets the command in (R225, R226, R242, R284, R431): the state in
which the device takes the command, and the command with the instance that the door gives it. `none`: turned away. -/
def State.door (s : State) (m : Msg) : Option (State × Msg) :=
  let box (fn n : Nat) : Option (State × Msg) :=
    if s.mboxThere fn n ∧ s.get (mboxState fn n) ≠ 1 ∧ s.get (mboxState fn n) ≠ 3 then
      some (((s.noHalf (requesterOf fn)).put (mboxState fn n) 1).put (mboxOverrun fn n) 0,
        { m with inst := fn, origin := mboxOrigin fn n })
    else none
  match m.origin with
  | .mbox fn n => box fn n
  | .internal => box nwInst 0
  | .ring n =>
    match look s.host.sqs n with
    | some q =>
      if s.get (R.qengSqStateState n) = 1 ∧ s.pwr.link ∧ s.dieMRuns then
        some (s.takenUp n q.desc.fn, { m with inst := q.desc.fn, origin := .ring n })
      else none
    | none => none
  | .ferry _ => if s.dieMRuns ∧ s.get R.ferryStatusRole = 2 then some (s, m) else none
  | .firmware => if s.dieMRuns ∧ s.is R.devStatusCustodyUp then some (s, m) else none

/-- The message `m`, sent with opcode `op` in `s`, is let through: its door takes it as `c`, which then stands among the commands in
progress; it passes the checks of R230 and R240; no pause holds it back (R243); it is for this device; and it needs no quorum, or its
class runs at once (R250). `u` is the state in which its act begins: a command of the custody route has found its overlay (R39). -/
def Granted (op : Nat) (m : Msg) (s u : State) (c : Msg) : Prop :=
  ∃ t, (∃ s1 m1, s.door { m with opcode := op } = some (s1, m1) ∧ (s1.take m1).1 = t ∧ c = { m1 with cid := (s1.take m1).2 })
    ∧ t.precheck c = none ∧ t.pauses c = false ∧ t.isFar c = false
    ∧ (t.quorumNeed c = none ∨ ∃ k pp, t.quorumNeed c = some (k, pp) ∧ t.quorumPath k c.tenant pp = .runNow)
    ∧ u = (if c.custody then t.pageOverlay c.opcode else t)

/-- The command `i` ends with the answer `a` (a response, a wait, a job in an engine, a change in the open batch): it leaves the
state `v` to the answer, and then whatever waits on the device goes on (`State.pump`). -/
def Ends (i : Instr) (s v : State) (c : Msg) (a : Answer) : Prop := exec i s = .next ((v.settleAnswer c.cid a).pump)

/-- The command `i` completes with the response `r`, which fits the place it goes to (R230 step 8). -/
def Replies (i : Instr) (s v : State) (c : Msg) (r : Resp) : Prop :=
  overRoom c r.result.length = false → exec i s = .next ((v.complete c.cid r).pump)

/-- The command `i` hands its job to an engine, `v` being the state with it; a symmetric request's result fits the place it goes to. -/
def Queues (i : Instr) (s v : State) (c : Msg) : Prop := overRoom c (v.askedLen c.cid) = false → Ends i s v c .engine

/-- The command `i` makes its change in the open batch, `v` being the state with it; its response fits the place it goes to. -/
def Stages (i : Instr) (s v : State) (c : Msg) : Prop :=
  (∀ r, v.heldAnswer c.cid = some r → overRoom c r.result.length = false) → Ends i s v c .staged

/-- The answer `a` in `v` fits the place it goes to (R230 step 8). -/
def Fits (c : Msg) (v : State) : Answer → Prop
  | .resp r => overRoom c r.result.length = false
  | .engine => overRoom c (v.askedLen c.cid) = false
  | .staged => ∀ r, v.heldAnswer c.cid = some r → overRoom c r.result.length = false
  | .wait _ => True

/-- The command `c`, whose wait is over, runs on in `w` (a command of the custody route has found its overlay, R39): it ends with
the answer `a` and leaves the state `v` to it. -/
def RunsOn (c : Msg) (w v : State) (a : Answer) : Prop :=
  Fits c v a → ∀ t, (if c.custody then t.pageOverlay c.opcode else t) = w → t.runAct c.cid c = v.settleAnswer c.cid a

/-- The command `i`, of opcode `op`, let through with `u` as the state in which its act begins, or run on in `u` after a wait: it ends
with the answer `a` and leaves the state `v` to it. -/
def Runs (i : Instr) (op : Nat) (m : Msg) (s u : State) (c : Msg) (v : State) (a : Answer) : Prop :=
  (Granted op m s u c → Fits c v a → Ends i s v c a) ∧ (c.opcode = op → RunsOn c u v a)

/-- The hamper that `c` names passes steps 1 to 6 of R122 in `u`: a lane is asked to unwrap it (step 7); with the key there, its header
and its key go on as `next` says. -/
def Opens (run : State → Answer → Prop) (u : State) (c : Msg) (next : State → HamperHead → Bytes → Prop) : Prop :=
  ∀ v h b kek, u.findHamper c = (v, .ok (h, b)) → v.get R.mpcWorldStatusKeysLocked = 0 → v.hamperKek h = some kek →
    (v.partOf c.cid 1 = none → v.skeRoom true = true →
      run (v.submitSke { h.job c kek 0 (slice b 48 h.wrapLen) with part := 1, own := true }) .engine) ∧
    (∀ key, v.partOf c.cid 1 = some key → next (if h.isSealed then v else v.touchRoot h.tenant) h key)

/-- A new hamper of `c` for the key `key` with the block `a` can be made in `s` (R79, R104, R233): `h` is its head and `kek` the key that
it is wrapped under. -/
def State.makes (s : State) (c : Msg) (a : Attr) (key : Bytes) (h : HamperHead) (kek : Bytes) : Prop :=
  s.tenantRefusal c.tenant false = none ∧ s.get R.mpcWorldStatusKeysLocked = 0
    ∧ sizeOk (refOf c.hamper).large a.typ key.length = true ∧ s.hamperKek h = some kek
    ∧ ∃ t wg, s.tenant c.tenant = some t ∧ t.topWg = some wg ∧ t.failed = false
        ∧ h = s.newHead t c.tenant c.hamper a wg key.length

/-- The key that `c` has made is kept where its placement can hold it (R104, R124, R233): a lane is asked to wrap it; with the wrap there,
the hamper stands in the open batch, and with LOAD its load into a slot at the commit. -/
def KeepsKey (run : State → Answer → Prop) (v : State) (c : Msg) (a : Attr) (key pub : Bytes) : Prop :=
  ∀ w p h kek, v.placement c.hamper = (w, .page p) → w.makes c a key h kek →
    (w.partOf c.cid 2 = none → w.skeRoom true = true →
      run (w.submitSke { h.job c kek 1 key with part := 2, own := true }) .engine) ∧
    (∀ b, w.partOf c.cid 2 = some b → b.take 48 = h.bytes →
      run ((({ w.touchRoot c.tenant with hs.nextSerial := w.hs.nextSerial + 1 } : State).changePage (refOf c.hamper).page
          (putHamper p (refOf c.hamper) b)).stageDone ⟨c.cid, ⟨St.ok, 0, 0, 0, h.address, 0, pub⟩,
            if a.load ∧ (refOf c.hamper).large = false then some (c.inst, cargoOf h key h.address) else none⟩) .staged)

/-! ### Register accesses that get through -/

/-- The access of kind `k` by `r` to the `len` bytes at offset `off` of the slow window gets through to the block (R321, R327,
R333, R473, Table GI.1): the device runs; a host function reaches it, and the slow window is the PF's; the access is aligned; no
checker on the way drains, and the checker admits it; the block answers. -/
def State.reaches (s : State) (r : Requester) (k : AccKind) (off len : Nat) : Prop :=
  s.pwr.main = true ∧ s.pwr.porstN = true ∧ (reqIsHost r = true → s.hostThere r.sub = true ∧ r.sub = 0)
    ∧ isSlow off = true ∧ (len = 4 ∨ len = 8) ∧ off % len = 0 ∧ s.heldBy (0x30000000 + off) len = none
    ∧ s.judge r k (0x30000000 + off) = .allow ∧ s.blockOut off (k == .write) = false

/-- The offsets of the slow window whose registers act when they are written (Table GI.6, R131, R173, R198, R223, R270, R290, R340,
R344, R373, R375, R379, R382, R430), or whose value is checked as it is written. -/
def actsWhenWritten (w : Nat) : Bool :=
  w == blockOf w + 4 || w == blockOf w + 0xC || (nthReg w 0x7010C 0x10 16).isSome || (nthReg w 0x8010C 0x10 8).isSome
    || (nthReg w 0x90108 0x10 5).isSome || (nthReg w 0xF0104 4 63).isSome
    || [0x2008C, 0x20084, 0x20098, 0x30120, 0xC0044, 0xC0048, 0xC0070, 0x50050, 0x50140, 0xA0068, 0xA007C].contains w
    || (rowsAt w).any (fun x => x.1.acc == .sqc)

/-- The write of `r` to the 32-bit register at `off`, which is no half of a 64-bit register and no MSI-X word, gets through to the
block, whose register is there (R41) and carries no posted write (R56). -/
def State.writes32 (s : State) (r : Requester) (off : Nat) : Prop :=
  s.reaches r .write off 4 ∧ assigned off = true ∧ isWide off = false ∧ (off % 8 = 4 → isWide (off - 4) = false)
    ∧ inPfTable off = false ∧ inPfPba off = false ∧ look s.iface.pwBusy off = none

end Sys2Proof.Machine
end

