-- ==== Sys2Proof/WellFormed.lean ====
section
/-! DEFINITION. Well-formed commands: every number fits its field (the command header, Table CM.1; the descriptors, Tables HQ.3
to HQ.6; the Ferry header, Table FY.2; the indices as the manual counts them), and every string of bytes and every list its
length. The machine does not ask: an operand out of range has the effect that its meaning gives it. -/

namespace Sys2Proof

/-- An operand beside the least number that does not fit it. -/
abbrev Operand := Nat × Nat

/-- The operands of something that may be absent. -/
def optional {α : Type} (f : α → List Operand) : Option α → List Operand
  | some a => f a
  | none => []

/-- The master ID and sub-ID (Table AH.7). -/
def Requester.operands (r : Requester) : List Operand := [(r.master, 2 ^ 8), (r.sub, 2 ^ 8)]

/-- The door's number: mailbox, SQ, XTAG. -/
def Origin.operands : Origin → List Operand
  | .mbox fn box => [(fn, 256), (box, if fn = 0 then 32 else 1)]
  | .internal => []
  | .ring sq => [(sq, 1024)]
  | .ferry xtag => [(xtag, 2 ^ 32)]
  | .firmware => []

/-- The fields of the command header (Table CM.1), the payload's length and the door. -/
def Msg.operands (m : Msg) : List Operand :=
  [(m.opcode, 2 ^ 16), (m.flags, 2 ^ 16), (m.tenant, 4096), (m.inst, 257), (m.tag, 2 ^ 16), (m.target, 2 ^ 8), (m.version, 2 ^ 8),
    (m.payloadLen, 2 ^ 32), (m.payloadAddr, 2 ^ 64), (m.resultAddr, 2 ^ 64), (m.resultLen, 2 ^ 32), (m.key, 2 ^ 32),
    (m.hamper, 2 ^ 64), (m.alg, 2 ^ 16), (m.param, 2 ^ 16), (m.key2, 2 ^ 32), (m.payload.length, m.payloadLen + 1)]
    ++ m.origin.operands

/-- Table HQ.3. -/
def FnDesc.operands (d : FnDesc) : List Operand :=
  [(d.maxInflight, 2 ^ 16), (d.noticeCq, 1024), (d.mboxVector, 2 ^ 16), (d.windows, 2 ^ 8)]

/-- Table HQ.4. -/
def SqDesc.operands (d : SqDesc) : List Operand :=
  [(d.base, 2 ^ 64), (d.header, 2 ^ 64), (d.log2, 2 ^ 8), (d.fn, 256), (d.loc, 256), (d.pollMode, 2 ^ 8),
    (d.pollValue, 2 ^ 16), (d.cq, 2 ^ 16), (d.prefetch, 2 ^ 8), (d.far, 64)]

/-- Table HQ.5. -/
def CqDesc.operands (d : CqDesc) : List Operand :=
  [(d.base, 2 ^ 64), (d.header, 2 ^ 64), (d.log2, 2 ^ 8), (d.fn, 256), (d.loc, 256), (d.vector, 2 ^ 16), (d.coalCount, 256),
    (d.coalUs, 2 ^ 16)]

/-- Table HQ.6. -/
def Window.operands (w : Window) : List Operand := [(w.ibase, 2 ^ 64), (w.pages, 2 ^ 32), (w.list, 2 ^ 64)]

/-- A ring header's index, or the kind of a translation fault. -/
def HeaderRead.operands : HeaderRead → List Operand
  | .index n => [(n, 2 ^ 32)]
  | .failed => []
  | .fault kind => [(kind, 2 ^ 8)]

/-- The TAG and RESULT of a response entry, and a page of 4 KiB. -/
def StoreRsp.operands (r : StoreRsp) : List Operand :=
  optional (fun e => [(e.1, 2 ^ 16), (e.2, 2 ^ 8)]) r.entry ++ optional (fun p => [(p.length, 4097)]) r.page

/-- Table FY.2. -/
def FerryHead.operands (h : FerryHead) : List Operand :=
  [(h.dest, 2 ^ 8), (h.src, 64), (h.ttl, 2 ^ 8), (h.lseq, 2 ^ 16), (h.ack, 2 ^ 16), (h.xtag, 2 ^ 32), (h.credits, 2 ^ 8)]

/-- The units of each part (Table AH.3). -/
def PartsOut.operands (p : PartsOut) : List Operand :=
  [(p.secure, 16), (p.keySlot, 16), (p.cache, 16), (p.shared, 256), (p.normal, 4), (p.pcie, 16), (p.mram, 4), (p.aps, 4)]
/-- The parts out, the four sources N0–N3 and the three strap pins. -/
def BootFacts.operands (f : BootFacts) : List Operand := f.out.operands ++ [(f.n.length, 5), (f.straps, 8)]

/-- A mishap names a unit of Table AH.3. -/
def Mishap.operands : Mishap → List Operand
  | .uncorrectable group unit => [(group, 38), (unit, 16)]
  | _ => []

/-- Up to 4 KiB of host memory. -/
def HostData.operands : HostData → List Operand
  | .data bytes => [(bytes.length, 4097)]
  | .failed => []

/-- The operands of a command. -/
def Instr.operands : Instr → List Operand
  | .deviceInfoGet m => m.operands
  | .identityGet m => m.operands
  | .attestationAnswer m => m.operands
  | .attestationSign m => m.operands
  | .keyGenerate m => m.operands
  | .keyImport m => m.operands
  | .keyExport m => m.operands
  | .keyDerive m => m.operands
  | .keyPublicGet m => m.operands
  | .hamperLoad m => m.operands
  | .slotFree m => m.operands
  | .hamperRewrap m => m.operands
  | .hamperRevoke m => m.operands
  | .hamperReclaim m => m.operands
  | .nonceLimitSet m => m.operands
  | .sign m => m.operands
  | .verify m => m.operands
  | .encrypt m => m.operands
  | .decrypt m => m.operands
  | .macGenerate m => m.operands
  | .macVerify m => m.operands
  | .hash m => m.operands
  | .wrap m => m.operands
  | .unwrap m => m.operands
  | .agree m => m.operands
  | .encapsulate m => m.operands
  | .decapsulate m => m.operands
  | .arithmeticRun m => m.operands
  | .randomGenerate m _ => m.operands
  | .tenantCreate m => m.operands
  | .tenantDelete m => m.operands
  | .tenantQuotaSet m => m.operands
  | .tenantPolicySet m => m.operands
  | .generationRoll m => m.operands
  | .generationRetire m => m.operands
  | .instanceBind m => m.operands
  | .tenantUnlock m => m.operands
  | .tenantInfoGet m => m.operands
  | .custodianEnrol m => m.operands
  | .custodianRemove m => m.operands
  | .quorumPolicySet m => m.operands
  | .portPair m => m.operands
  | .approvalSubmit m => m.operands
  | .operationStatusGet m => m.operands
  | .operationCancel m => m.operands
  | .timeGet m => m.operands
  | .anchorLoad m => m.operands
  | .waypointSet m => m.operands
  | .waypointClear m => m.operands
  | .mainsNominalSet m => m.operands
  | .storeAttach m => m.operands
  | .storeFormat m => m.operands
  | .storeRecheck m => m.operands
  | .storePrune m => m.operands
  | .storeReclaimRange m => m.operands
  | .curveLoad m => m.operands
  | .curveRetire m => m.operands
  | .microcodeInstall m => m.operands
  | .firmwareStage m => m.operands
  | .firmwareActivate m => m.operands
  | .configSet m => m.operands
  | .tamperResponseSet m => m.operands
  | .attestationKeyProvision m => m.operands
  | .noiseRecalibrate m => m.operands
  | .clusterServiceFence m => m.operands
  | .clusterServiceReturn m => m.operands
  | .clusterServicePowerOff m => m.operands
  | .clusterServicePowerOn m => m.operands
  | .clusterServiceRecalibrate m => m.operands
  | .clusterRetire m => m.operands
  | .deviceUnlock m => m.operands
  | .floorRaise m => m.operands
  | .domainJoin m => m.operands
  | .tenantReplicateOffer m => m.operands
  | .tenantReplicateSend m => m.operands
  | .tenantReplicateAccept m => m.operands
  | .tenantReplicateAdopt m => m.operands
  | .logRead m => m.operands
  | .logFreeze m => m.operands
  | .logThaw m => m.operands
  | .logClear m => m.operands
  | .journalAttach m => m.operands
  | .lifecycleTransition m => m.operands
  | .debugChallengeGet m => m.operands
  | .debugOpen m => m.operands
  | .debugPasswordSet m => m.operands
  | .debugKeySet m => m.operands
  | .quorumActRun slot => [(slot, 32)]
  | .quorumTimeout slot => [(slot, 32)]
  | .go fn box => [(fn, 257), (box, 32)]
  | .ack fn box => [(fn, 257), (box, 32)]
  | .abort fn box => [(fn, 257), (box, 32)]
  | .mboxMessageWrite fn box off bytes => [(fn, 257), (box, 32), (off, 4096), (bytes.length, 4097 - off)]
  | .sqDoorbell fn idx => [(fn, 256), (idx, 1024)]
  | .cqDoorbell fn idx => [(fn, 256), (idx, 1024)]
  | .capture fn value => [(fn, 256), (value, 2 ^ 32)]
  | .trngDataRead req part _ => req.operands ++ [(part, 4)]
  | .lowHalfRead req off len => req.operands ++ [(off, 2 ^ 25), (len, 9)]
  | .lowHalfWrite req off value => req.operands ++ [(off, 2 ^ 25), (value, 2 ^ 32)]
  | .registerWrite req off len value _ => req.operands ++ [(off, 2 ^ 25), (len, 9), (value, 2 ^ 64)]
  | .pwWrite req off value => req.operands ++ [(off, 2 ^ 25), (value, 2 ^ 31)]
  | .pwWriteLanded off => [(off, 2 ^ 25)]
  | .sqcClear req off value => req.operands ++ [(off, 2 ^ 25), (value, 2 ^ 32)]
  | .quiesce req base _ => req.operands ++ [(base, 2 ^ 20)]
  | .quiesced base => [(base, 2 ^ 20)]
  | .commitRequest req base groups => req.operands ++ [(base, 2 ^ 20), (groups, 2 ^ 8)]
  | .commitApply base => [(base, 2 ^ 20)]
  | .ruleEpochDrainEnd checker => [(checker, 7)]
  | .functionLoad fn desc => optional FnDesc.operands desc ++ [(fn, 256)]
  | .functionDisable fn => [(fn, 256)]
  | .sqLoad sq desc => optional SqDesc.operands desc ++ [(sq, 1024)]
  | .sqDisable sq => [(sq, 1024)]
  | .cqLoad cq desc => optional CqDesc.operands desc ++ [(cq, 1024)]
  | .cqDisable cq => [(cq, 1024)]
  | .windowTableLoad fn table => ((table.getD []).map Window.operands).flatten ++ [(fn, 256)]
  | .windowTableDisable fn => [(fn, 256)]
  | .loadDone => []
  | .qengEventAck req source => req.operands ++ [(source, 512)]
  | .faultAckHard req slot => req.operands ++ [(slot, 16)]
  | .faultAckMinor req => req.operands
  | .faultAckSevere req => req.operands
  | .storeReqConsWrite value => [(value, 2 ^ 16)]
  | .storeRspProdWrite value => [(value, 2 ^ 16)]
  | .storeResponse rsp => rsp.operands
  | .storeBatchClose => []
  | .storeFetchTimeout tag => [(tag, 2 ^ 16)]
  | .storeHeldTimeout cid => [(cid, 2 ^ 32)]
  | .storeRspRetry rsp => rsp.operands
  | .storeBufferFreed => []
  | .slotAgeTick => []
  | .pkeClusterCtrlGateReq req n _ => req.operands ++ [(n, 16)]
  | .pkeClusterCtrlFence req n _ => req.operands ++ [(n, 16)]
  | .pkeJobRelease n _ _ lane => [(n, 16), (lane, 4)]
  | .pkeWipeEnd n => [(n, 16)]
  | .pkeJobAbort n status => [(n, 16), (status, 2 ^ 16)]
  | .pkeClusterReady n badPkg _ => [(n, 16), (badPkg, 2 ^ 8)]
  | .quarantineReturn n badPkg _ => [(n, 16), (badPkg, 2 ^ 8)]
  | .maskSeedDelivery n _ => [(n, 16)]
  | .maskSeedExpiry n => [(n, 16)]
  | .entropyWaitTimeout cid => [(cid, 2 ^ 32)]
  | .skeRequestStart lane => [(lane, 8)]
  | .skeRequestEnd lane _ => [(lane, 8)]
  | .skeLaneCtrlGateReq req lane _ => req.operands ++ [(lane, 8)]
  | .skeLaneCtrlFence req lane _ => req.operands ++ [(lane, 8)]
  | .skeLaneCtrlRejoin req lane => req.operands ++ [(lane, 8)]
  | .nonceReservationDone _ _ => []
  | .nonceRotation slot => [(slot, 65536)]
  | .trngWindowEnd src bits => [(src, 5), (bits.length, 4097)]
  | .drbgInstantiate _ => []
  | .drbgReseed _ => []
  | .autoRecalibrate src => [(src, 5)]
  | .trngSrcCtrlRecal req src => req.operands ++ [(src, 5)]
  | .trngSrcCtrlIsolate req src => req.operands ++ [(src, 5)]
  | .recalSweepEnd src windows => windows.map (fun w => (w.length, 4097)) ++ [(src, 5), (windows.length, 17)]
  | .mainsCrossing t negs => [(t, 2 ^ 40), (negs.length, 2 ^ 16)]
  | .cycleMissing => []
  | .compassTick => []
  | .compassStart elapsed => [(elapsed, 2 ^ 64)]
  | .clockCrossCheck ppm => [(ppm, 2 ^ 32)]
  | .waypointFire n => [(n, 256)]
  | .waypointEpochRoll n => [(n, 256)]
  | .rateWindowEnd tenant => [(tenant, 4096)]
  | .arbitrationRound => []
  | .sqPollTick sq => [(sq, 1024)]
  | .sqHeaderRead sq r => r.operands ++ [(sq, 1024)]
  | .cqRoomPoll cq r => r.operands ++ [(cq, 1024)]
  | .coalesceTimer cq => [(cq, 1024)]
  | .msixPendingSend fn vec => [(fn, 256), (vec, 2048)]
  | .hostReadTimeout id => [(id, 2 ^ 32)]
  | .linkReset => []
  | .linkUp dropped bar0 vfBar0 => [(dropped, 16), (bar0, 2 ^ 64), (vfBar0, 2 ^ 64)]
  | .vfFlr fn => [(fn, 256)]
  | .pfFlr => []
  | .vfDisable _ num => [(num, 2 ^ 16)]
  | .fabricAccess req _ addr len data e => req.operands ++ e.operands ++ [(addr, 2 ^ 64), (len, 4097), (data.length, 4097)]
  | .debugAccess _ addr len data => [(addr, 2 ^ 64), (len, 4097), (data.length, 4097)]
  | .hostMboxPostedWrite fn addr data => [(fn, 256), (addr, 2 ^ 64), (data.length, 4097)]
  | .farWindowAccess n off _ value => [(n, 64), (off, 0x40000), (value, 2 ^ 64)]
  | .farReadTimeout xtag => [(xtag, 2 ^ 32)]
  | .mpcWdogFeed master => [(master, 2 ^ 8)]
  | .watchdogMiss pair => [(pair, 2)]
  | .g5RestartEnd facts => facts.operands
  | .mpcLeaseHoldSet master value => [(master, 2 ^ 8), (value, 2 ^ 32)]
  | .leaseTimeout _ n => [(n, 16)]
  | .hardEscalation slot => [(slot, 16)]
  | .clusterResetEnd cluster _ _ => [(cluster, 20)]
  | .regionResetEnd region _ _ => [(region, 8)]
  | .logSubmit typ => [(typ, 2 ^ 16)]
  | .logFreezeTimeout => []
  | .journalEntryWrite _ => []
  | .pocketRecordCopy => []
  | .tamperAlarm source _ detail value => [(source, 27), (detail, 2 ^ 8), (value, 2 ^ 16)]
  | .tamperDecisionDelayEnd source => [(source, 27)]
  | .tamperAlarmClear source => [(source, 27)]
  | .keeperMaskRotate => []
  | .rsGenRetry n _ => [(n.length, 5)]
  | .mainPowerOn => []
  | .mainPowerLoss cut => [(cut, 4)]
  | .porstNAssert => []
  | .boot facts => facts.operands
  | .mramScrub bad => bad.map (fun b => (b.1, 2))
  | .portTransaction port frame => [(frame.seq, 2 ^ 32)] ++ [(port, 2)]
  | .portSessionOpen port => [(port, 2)]
  | .helloAck port frame nonce => [(frame.seq, 2 ^ 32)] ++ [(port, 2), (nonce.length, 17)]
  | .approve port frame op pos pin digest => [(frame.seq, 2 ^ 32)] ++ [(port, 2), (op, 2 ^ 32), (pos, 16), (pin.length, 13), (digest.length, 49)]
  | .pinSet port frame pos pin pin2 => [(frame.seq, 2 ^ 32)] ++ [(port, 2), (pos, 16), (pin.length, 13), (pin2.length, 13)]
  | .keepalive port frame => [(frame.seq, 2 ^ 32)] ++ [(port, 2)]
  | .discover port front => [(port, 4), (front, 2 ^ 64)]
  | .discoverAck port pos serial life => [(port, 4), (pos, 64), (serial, 2 ^ 64), (life, 5)]
  | .assign number => [(number, 2 ^ 8)]
  | .commandFrame h m => h.operands ++ m.operands
  | .responseFrame h status reason info hamper key stamp result =>
    h.operands ++ [(status, 2 ^ 16), (reason, 2 ^ 8), (info, 2 ^ 32), (hamper, 2 ^ 64), (key, 2 ^ 32), (stamp, 2 ^ 96), (result.length, 257)]
  | .regRead h off len => h.operands ++ [(off, 2 ^ 25), (len, 9)]
  | .regWrite h off len value => h.operands ++ [(off, 2 ^ 25), (len, 9), (value, 2 ^ 64)]
  | .regData h value => h.operands ++ [(value, 2 ^ 64)]
  | .hostRead h addr len => h.operands ++ [(addr, 2 ^ 64), (len, 4097)]
  | .hostWrite h addr data => h.operands ++ [(addr, 2 ^ 64), (data.length, 257)]
  | .hostData h data => h.operands ++ data.operands
  | .eventFrame h source => h.operands ++ [(source, 512)]
  | .linkFrame port h _ => h.operands ++ [(port, 4)]
  | .ferryIdleLink port => [(port, 4)]
  | .ferryDiscoverTick => []
  | .ferryPortTrained port => [(port, 4)]
  | .ferryLinkSilence port => [(port, 4)]
  | .followerAbsent n => [(n, 64)]
  | .replicationOfferExpiry tenant => [(tenant, 4096)]
  | .smbusDevStatus => []
  | .smbusLanternStatus => []
  | .smbusTemperatures => []
  | .smbusKeeperPower => []
  | .smbusFaultCountB => []
  | .smbusDeviceSerial => []
  | .smbusAlertResponse => []
  | .lanternEdge pins => [(pins, 512)]
  | .skeLaneSelfTestEnd lane _ => [(lane, 8)]
  | .hostReadCompletion id r => r.operands ++ [(id, 2 ^ 32)]
  | .debugChallengeExpiry => []

/-- Every operand of the command fits. -/
def Instr.wf (i : Instr) : Bool := i.operands.all (fun x => decide (x.1 < x.2))

end Sys2Proof
end

