-- ==== Sys2Proof/Certificates/Slice0/Obligations.lean ====
section
/-! DEFINITION. The statements for the provers: the machine first, then what each family of commands does. A statement about a
message command speaks of one that is let through (`Granted`); one about a register access, of one that gets through
(`State.reaches`, `State.writes32`). Each gives the whole next state, so what it does not name is unchanged. -/

open Sys2Proof Sys2Proof.Machine

/-! ### The machine -/

/-- A step takes the command at the front of the queue and is its meaning on the state with the queue's rest; with no command
waiting it is an engine cycle of a device that is powered and out of reset (R374), and nothing at all of one that is not. That time passes
on the empty queue is the model's choice (log entry 1). -/
def Obligations.StepRunsTheFront : Prop :=
  (∀ (c : Instr) (rest : List Instr) (s : State), step { s with pending := c :: rest } = exec c { s with pending := rest }) ∧
  (∀ s : State, s.pending = [] → s.pwr.main = true → s.pwr.porstN = true → s.get R.faultHardOpen = 0 →
    step s = .next (s.incMod R.faultTickTick 1)) ∧
  (∀ s : State, s.pending = [] → s.pwr.main = false ∨ s.pwr.porstN = false → step s = .next s)

/-- State.reset is the device as it leaves Quegora (R4). The factory defaults of the configuration block are
`CfgBlock.shipped`. -/
def Obligations.AsShipped : Prop :=
  State.reset.get R.devStatusLife = 1 ∧ State.reset.get R.lifeDebugLevel = 0 ∧
  State.reset.life.cfg = CfgBlock.shipped ∧ State.reset.life.cfgStored = CfgBlock.shipped ∧
  (∀ t, State.reset.tenant t = none) ∧ (∀ t pos, State.reset.custodian t pos = none) ∧
  (∀ p, (State.reset.port p).paired = false)

/-- The tamper responses outside INTEGRATOR and FIELDED (R356): in MAKER and RETURNED an alarm of any source but ZEROIZE is performed
as LOG, and ZEROIZE's is a SHRED, which alerts and locks at once and waits, by a delay of the keeper's generator (R357), for its second
path; in SCRAPPED no alarm does anything, and no record joins the pocket log. A record carries the number and the time of its
detection (R366). -/
def Obligations.TamperByLifeCycle : Prop :=
  ∀ (s : State) (n detail value serial time response flags : Nat) (b : Bool),
    let t := s.showSensor n detail value
    let said (r : Nat) : Decision := ⟨r, !s.pwr.main, b, false, detail, value, 0, s.keeper.serial, s.get R.keeperThermosClockTicks⟩
    let first : State := ({ t with keeper.serial := t.keeper.serial + 1 } : State).incSat R.keeperTamperCountAlarms
    let stands : State := (first.setPath b n true).putBit R.keeperAlarmedAlarmed n true
    (s.get R.devStatusLife = 0 ∨ s.get R.devStatusLife = 3 → s.watched n = true → s.pathUp b n = false → s.pathUp (!b) n = false →
      (n ≠ 23 → n ≠ 9 → exec (.tamperAlarm n b detail value) s = .next (stands.perform n 0 (said 0) false)) ∧
      (n = 9 → exec (.tamperAlarm n b detail value) s = .next (first.perform n 0 (said 0) false)) ∧
      (n = 23 → exec (.tamperAlarm n b detail value) s = .next ({ stands.alert.lockAct.keeperDelay.1 with
        keeper.deciding := store stands.alert.lockAct.keeperDelay.1.keeper.deciding n { said 4 with
          delay := stands.alert.lockAct.keeperDelay.2 } } : State).showDeciding)) ∧
    (s.get R.devStatusLife = 4 →
      exec (.tamperAlarm n b detail value) s = .next s ∧ s.pocketAdd serial time n response flags detail value = s)

/-- The machine after reset has the canonical form. -/
def Obligations.ResetIsCanonical : Prop := State.reset.canonical

/-- Every step keeps the canonical form of memory and of the register file. -/
def Obligations.StepKeepsCanonical : Prop := ∀ s t : State, s.canonical → step s = .next t → t.canonical

/-- No command ends a run, and none touches what is not its own: a step always answers a next state, in which the queue is the rest of
the queue, everything that the device has put out still stands, newest first, and no draw of random bits is made again. -/
def Obligations.StepGoesOn : Prop :=
  ∀ s : State, ∃ t, step s = .next t ∧ t.pending = s.pending.tail ∧ s.out <:+ t.out ∧ s.fresh ≤ t.fresh

/-- The 64 bytes of a command header (Table CM.1) spell the command again, field by field, for every value that its fields hold;
its INSTANCE is written as zero, and an address or a length of the ring form counts as a byte that must be zero in the mailbox form. -/
def Obligations.HeaderRoundTrip : Prop :=
  ∀ (m : Msg) (ring : Bool) (inst : Nat) (origin : Origin) (payload : Bytes), (∀ x ∈ m.operands, x.1 < x.2) → m.inst = 0 →
    parseHeader (headerBytes m) ring inst origin payload = { m with
      inst := inst
      zeros := if ring then 0 else m.payloadAddr + m.resultAddr + m.resultLen
      payload := payload
      origin := origin
      cid := 0 }

/-! ### Groups 0x01 and 0x04: information, attestation, tenants -/

/-- What the information and attestation commands answer, and that they change nothing but the stamp they issue: DEVICE_INFO_GET and
IDENTITY_GET (Table CM.6) and ATTESTATION_ANSWER (R99, R100); without an attestation key, or under ROOTS_UNMATCHED,
ATTESTATION_ANSWER is refused. ATTESTATION_SIGN keeps the body it has made and hands the public-key engine two jobs over it, ECDSA
P-384 and ML-DSA-65 (R99, R132). -/
def Obligations.InfoAndAttestation : Prop :=
  ∀ (m : Msg) (s u : State) (c : Msg),
    (Granted 0x0101 m s u c → c.payloadLen = 0 →
      Replies (.deviceInfoGet m) s u c (.okay (padTo 8 u.life.serial ++ leBytes 1 (u.get R.devStatusLife)
        ++ leBytes 2 (u.get R.lifeSecurityFloor) ++ padTo 48 u.life.imageDigest ++ padTo 48 u.life.cfgDigest ++ u.limitsBytes))) ∧
    (Granted 0x0102 m s u c → c.payloadLen = 0 → u.keys.idSeeds ≠ [] →
      Replies (.identityGet m) s u c (.okay (p384.public Blind.none u.identityScalar ++ publicOf u 0x21 0 4 u.identitySeed))) ∧
    (Granted 0x0103 m s u c → 16 ≤ c.payloadLen → c.payloadLen ≤ 64 → u.keys.attKey ≠ [] → u.get R.bootStatusRootsUnmatched = 0 →
      Replies (.attestationAnswer m) s u.stamped c (.okay (u.statement 2 (padTo c.payloadLen c.payload)
        ++ Config.hmac384 u.keys.attKey (u.statement 2 (padTo c.payloadLen c.payload))))) ∧
    (∀ b, Granted 0x0104 m s u c → 16 ≤ c.payloadLen → c.payloadLen ≤ 64 → u.keys.idSeeds ≠ [] → u.hasProgram 0x01 = true →
      u.hasProgram 0x31 = true → b = u.statement 1 (padTo c.payloadLen c.payload) →
      Queues (.attestationSign m) s (((u.stamped.keepBody c.cid b).submitPke { Job.of c false 0x01 (runTime u 0x01 1 0 0 0) with
        own := true, priv := true, draws := true, curve := 1, curves := [(1, p384)], key := u.identityScalar
        data := Config.sha384 b }).submitPke { Job.of c false 0x31 (runTime u 0x31 0 1 b.length 0) with
          own := true, priv := true, draws := true, param := 4, key := u.identitySeed, data := b }) c) ∧
    (Granted 0x0103 m s u c → 16 ≤ c.payloadLen → c.payloadLen ≤ 64 →
      (u.keys.attKey = [] ∨ u.get R.bootStatusRootsUnmatched = 1) →
      Replies (.attestationAnswer m) s u c (.of St.attestationKeyAbsent))

/-- TENANT_CREATE (R79): an EMPTY entry becomes ACTIVE with TG 0, an ERASED one with its old TG plus 1; in both a fresh TRK and
WG 0 with a fresh salt are made from the DRBG. The tenant's quota is the command's; its default limit and rotation are none. -/
def Obligations.TenantCreate : Prop :=
  ∀ (m : Msg) (s u : State) (c : Msg) (tg : Nat), Granted 0x0401 m s u c → c.payloadLen = 4 → le c.payload 0 4 ≤ 61184 →
    u.get R.bootStatusRootsUnmatched = 0 → u.life.updating = none → u.canDraw = true →
    (u.tenant c.tenant = none ∧ tg = 0 ∨ ∃ t, u.tenant c.tenant = some t ∧ t.state = 3 ∧ t.tg ≠ 0xFFFFFFFF ∧ tg = t.tg + 1) →
      let r := (u.draw 48).2
      let zeros : Bytes := List.replicate 16 0
      let w := (u.draw 48).1.writeTenant c.tenant ⟨1, 1, tg, [0, 0, 0], r.take 32, [r.drop 32, zeros, zeros], false, []⟩
      Replies (.tenantCreate m) s { w with
        keys.quotas := store w.keys.quotas c.tenant (le c.payload 0 4), keys.limits := drop w.keys.limits c.tenant
        keys.rotating := w.keys.rotating.filter (· != c.tenant) } c (.okay (leBytes 4 tg))

/-- GENERATION_ROLL and GENERATION_RETIRE (R79, R82): a roll takes the lowest WG position that is not live, with the next WG
number and a fresh salt; a retirement records its intent, marks the generation, aborts its jobs and wipes its slots, zeroes the salt,
drops the position and records its completion. While a slot of the generation is held by an aborted job that is being wiped, it waits
for the end of that wipe. -/
def Obligations.Generations : Prop :=
  ∀ (m : Msg) (s u : State) (c : Msg) (t : Tenant) (i : Nat), u.tenantRefusal c.tenant false = none → u.tenant c.tenant = some t →
    (Granted 0x0405 m s u c → c.payloadLen = 0 → (List.range 3).find? (fun i => !bitOf t.live i) = some i →
      t.issued + 1 < 0xFFFFFFFF → u.life.updating = none → u.canDraw = true →
      Replies (.generationRoll m) s ((u.draw 16).1.writeTenant c.tenant { t with
        live := setBit t.live i true, wgs := t.wgs.set i (t.issued + 1), salts := t.salts.set i (u.draw 16).2 }) c
        (.okay (leBytes 4 (t.issued + 1)))) ∧
    (∀ wg v, Granted 0x0406 m s u c → c.payloadLen = 4 → wg = le c.payload 0 4 → t.position wg = some i →
      u.get R.logStatusHeld < 8192 → (c.tenant, wg) ∉ u.keys.dyingWgs →
      v = ((u.actIntent c wg).beginDying c.tenant (some wg) St.generationRetired).wipeSlots
        (fun x => x.tenant == c.tenant && x.wg == wg && x.inuse == 0) →
      (v.keys.slots.any (fun x => x.2.tenant == c.tenant && x.2.wg == wg) = false →
        Replies (.generationRetire m) s (((v.destroyTenantEntry c.tenant { t with
          live := setBit t.live i false, salts := t.salts.set i (List.replicate 16 0) }).unmark c.tenant (some wg)).actComplete c wg) c
          (.of St.ok)) ∧
      (v.keys.slots.any (fun x => x.2.tenant == c.tenant && x.2.wg == wg) = true →
        Ends (.generationRetire m) s v c (.wait [needWipe])))

/-- TENANT_DELETE (R82, R440): the intent, the end of the tenant's jobs and slots, the ERASED entry that keeps its TG, the replica
bit cleared, and the completion record, in that order. While a slot is held by an aborted job that is being wiped, it waits for
the end of that wipe. -/
def Obligations.TenantDelete : Prop :=
  ∀ (m : Msg) (s u : State) (c : Msg) (t : Tenant) (v : State), Granted 0x0402 m s u c → c.payloadLen = 0 →
    u.tenant c.tenant = some t → t.state ≠ 3 → u.get R.logStatusHeld < 8192 → c.tenant ∉ u.keys.dyingTenants →
    v = ((u.actIntent c 0xFFFFFFFF).beginDying c.tenant none St.tenantDeleted).wipeSlots
      (fun x => x.tenant == c.tenant && x.inuse == 0) →
    (v.keys.slots.any (fun x => x.2.tenant == c.tenant) = false →
      Replies (.tenantDelete m) s ((((v.destroyTenantEntry c.tenant { t with
        state := 3, live := 0, trk := [], salts := [], failed := false, raw := [] }).unmark c.tenant none).setReplica c.tenant
        false).actComplete c 0xFFFFFFFF) c (.of St.ok)) ∧
    (v.keys.slots.any (fun x => x.2.tenant == c.tenant) = true → Ends (.tenantDelete m) s v c (.wait [needWipe]))

/-- The settings of a tenant: TENANT_QUOTA_SET (R94), TENANT_POLICY_SET (R193, R195; the limits of its loaded slots come down to the
new one), TENANT_UNLOCK (R77, R79), INSTANCE_BIND
(R268) and TENANT_INFO_GET. Each leaves what it does not name as it was. -/
def Obligations.TenantSettings : Prop :=
  ∀ (m : Msg) (s u : State) (c : Msg),
    (Granted 0x0403 m s u c → c.payloadLen = 4 → le c.payload 0 4 ≤ 61184 → u.tenantRefusal c.tenant true = none →
      Replies (.tenantQuotaSet m) s { u with keys.quotas := store u.keys.quotas c.tenant (le c.payload 0 4) } c (.of St.ok)) ∧
    (Granted 0x0404 m s u c → c.payloadLen = 9 → 1 ≤ le c.payload 0 8 → le c.payload 0 8 ≤ 2 ^ 32 → le c.payload 8 1 ≤ 1 →
      u.tenantRefusal c.tenant true = none →
      Replies (.tenantPolicySet m) s ((u.keys.slots.filter (fun x => x.2.tenant == c.tenant)).foldl
        (fun t x => t.lowerLimit x.1 (le c.payload 0 8)) { u with
          keys.limits := store u.keys.limits c.tenant (le c.payload 0 8)
          keys.rotating := u.keys.rotating.filter (· != c.tenant) ++ (if le c.payload 8 1 = 1 then [c.tenant] else []) }) c
        (.of St.ok)) ∧
    (∀ t, Granted 0x0408 m s u c → c.payloadLen = 0 → u.tenantRefusal c.tenant true = none → u.tenant c.tenant = some t →
      t.failed = false →
      Replies (.tenantUnlock m) s (if t.state = 1 then u else (u.writeTenant c.tenant { t with state := 1 }).restoreDefault) c
        (.of St.ok)) ∧
    (∀ l, Granted 0x0407 m s u c → c.payloadLen = 520 → le c.payload 0 2 ≤ 0x100 → le c.payload 2 6 = 0 →
      l = (List.range 4096).filter (fun t => bitOf ((c.payload.drop 8).getD (t / 8) 0).toNat (t % 8)) →
      Replies (.instanceBind m) s (({ u with host.bindings := (if l = [] then drop u.host.bindings (le c.payload 0 2)
        else store u.host.bindings (le c.payload 0 2) l) } : State).notice (le c.payload 0 2) 7 0 0 0 St.ok) c (.of St.ok)) ∧
    (∀ t, Granted 0x0409 m s u c → c.payloadLen = 0 → u.tenant c.tenant = some t →
      Replies (.tenantInfoGet m) s u c (.okay (leBytes 1 t.state ++ leBytes 4 t.tg ++ leBytes 4 (t.wgs.getD 0 0)
        ++ leBytes 4 (t.wgs.getD 1 0) ++ leBytes 4 (t.wgs.getD 2 0) ++ leBytes 1 t.live ++ leBytes 4 (u.quota c.tenant)
        ++ leBytes 4 (u.holding c.tenant))))

/-! ### Groups 0x05 and 0x06: custodians, quorum, time -/

/-- The acts on custodians and policies: CUSTODIAN_ENROL and CUSTODIAN_REMOVE (R247), QUORUM_POLICY_SET (R249) and PORT_PAIR (R262).
An enrolment fills a free position; a removal leaves every class of its kind enough eligible custodians, takes the custodian's
approvals away and cancels slots that can no longer complete; a policy replaces its class's and cancels that class's slots. A
pairing has the port's new key wrapped by a lane, and then takes it into use and gives it away. -/
def Obligations.CustodianActs : Prop :=
  ∀ (m : Msg) (s u : State) (c : Msg),
    (∀ t pos, Granted 0x0501 m s u c → custPayloadOk c.payload c.payloadLen true = true → t = custTarget c.payload →
      pos = le c.payload 1 1 → u.custodian t pos = none → (t = none ∨ bitOf (le c.payload 5 1) 0 = false) →
      Replies (.custodianEnrol m) s { u with
        quorum.custodians := store u.quorum.custodians (custKey t pos)
          ⟨(Config.sha384 ((c.payload.drop 8).take (c.payloadLen - 8))).take 16, le c.payload 4 1, bitOf (le c.payload 5 1) 0,
            bitOf (le c.payload 5 1) 0, 0, [], 0, le c.payload 6 1⟩
        quorum.tablesFailed := false } c (.of St.ok)) ∧
    (∀ t pos x v, Granted 0x0502 m s u c → custPayloadOk c.payload c.payloadLen false = true → t = custTarget c.payload →
      pos = le c.payload 1 1 → u.custodian t pos = some x →
      v = { u with quorum.custodians := drop u.quorum.custodians (custKey t pos) } →
      (∀ k ∈ classesOf t, (v.policy k (t.getD 0)).m ≤ popcount 16 (v.eligible k (t.getD 0))) →
      (t = none → ∀ k ∈ [7, 10, 12, 13], u.hasPad (u.eligible k 0) = true → v.hasPad (v.eligible k 0) = true) →
      let mine (w : State) (n : Nat) : Bool := match t with
        | none => !w.is (R.quorumSlotClassTenantKind n)
        | some k => w.is (R.quorumSlotClassTenantKind n) && w.get (R.quorumSlotClassTenant n) == k
      Replies (.custodianRemove m) s
        (((List.range 32).foldl (fun w n =>
          if w.get (R.quorumSlotClassState n) = 1 ∧ mine w n then w.putBit (R.quorumSlotApprovalsApproved n) pos false
          else w) v).cancelSlots (fun w n => mine w n && decide (popcount 16 (w.get (R.quorumSlotApprovalsEligible n) &&&
            w.enrolled t) < w.get (R.quorumSlotClassM n)))) c (.of St.ok)) ∧
    (∀ k mask n t ten, Granted 0x0503 m s u c → c.payloadLen = 16 → k = le c.payload 0 1 → n = le c.payload 1 1 →
      mask = le c.payload 2 2 → t = le c.payload 4 4 → ten = le c.payload 8 2 → (k ∈ deviceClasses ∧ ten = 0 ∨ k = 16 ∨ k = 17) →
      ten < 4096 → le c.payload 10 6 = 0 → 1 ≤ n → n ≤ popcount 16 (u.enrolled (tenantOf k ten) &&& mask) → 1000 ≤ t → t ≤ 4000000 →
      (k ∈ [7, 10, 12, 13] → u.hasPort (u.enrolled (tenantOf k ten) &&& mask) = true) →
      (u.get R.devStatusLife = 2 → k < 16 → 2 ≤ n) →
      Replies (.quorumPolicySet m) s
        (({ u with quorum.policies := store u.quorum.policies (policyKey k ten) ⟨some mask, n, t⟩ } : State).cancelSlots
          (fun w i => w.get (R.quorumSlotClassClass i) == k && (decide (k < 16) || w.get (R.quorumSlotClassTenant i) == ten))) c
        (.of St.ok)) ∧
    (∀ p key, Granted 0x0504 m s u c → p = le c.payload 0 1 → p ≤ 1 → le c.payload 1 7 = 0 → c.payloadLen = c.payload.length →
      allZero (slice (c.payload.drop 8) 1 7) = true → u.keys.idSeeds ≠ [] →
      key = u.pairingKey p (((u.port p).pairCount + 1) % 65536) →
      (∀ x, c.payload.length = 16 → le (c.payload.drop 8) 0 1 = 1 → u.kek c uWrap = .ok x → u.skeRoom true = true →
        Queues (.portPair m) s (u.submitSke { blobJob c 1 x.wg [] (pairAttr.bytes ++ key) with part := 3, own := true }) c) ∧
      (∀ v x, c.payload.length = 1297 → le (c.payload.drop 8) 0 1 = 2 →
        u.hybridStart (slice (c.payload.drop 8) 8 1184) (slice (c.payload.drop 8) 1192 97) pairAttr.bytes = (v, .ok x) →
        (v.setPart c.cid 5 x).skeRoom true = true → v.partOf c.cid 3 = none →
        Queues (.portPair m) s ((v.setPart c.cid 5 x).submitSke { blobJob c 1 sealedWg (x.drop 1185) (pairAttr.bytes ++ key) with
          part := 3, own := true }) c)) ∧
    (∀ w p blob, c.opcode = 0x0504 → p = le c.payload 0 1 → p ≤ 1 → le c.payload 1 7 = 0 → c.payloadLen = c.payload.length →
      allZero (slice (c.payload.drop 8) 1 7) = true → w.keys.idSeeds ≠ [] → w.partOf c.cid 3 = some blob →
      (∀ x, c.payload.length = 16 → le (c.payload.drop 8) 0 1 = 1 → w.kek c uWrap = .ok x →
        RunsOn c w (w.pairPort p) (.okay blob)) ∧
      (∀ x, c.payload.length = 1297 → le (c.payload.drop 8) 0 1 = 2 → w.partOf c.cid 5 = some x →
        RunsOn c w ((w.setPart c.cid 5 x).pairPort p) (.okay (x.take 1185 ++ blob))))

/-- APPROVAL_SUBMIT (R252, R256): a token that no check refuses has its signature verified by a PKE job. With the verdict, and the
checks made again, an accepted token sets its custodian's approval bit once; its answer is the number of approvals, M and whether a
port was seen. A refused token is counted, raises a quorum event, and changes nothing else. That the signature is a PKE job, and the
checks are made again after it, is the model's choice (log entry 119). -/
def Obligations.Approvals : Prop :=
  ∀ (m : Msg) (s u : State) (c : Msg) (n pos l : Nat), n = le c.payload 8 4 % 32 → pos = le c.payload 2 1 → l = le c.payload 72 2 →
    let job := tokenJob u c (le c.payload 1 1) (ascii "FV64-APPROVE") (slice c.payload 80 l) (c.payload.take (80 + l))
      (c.payload.drop (80 + l))
    let refused : State := (u.incSat R.quorumTokenRefusedCount).quorumEvent 4 (if u.slotPends (le c.payload 8 4) then n else 0)
    (Granted 0x0505 m s u c →
      (u.tokenRefusal c.payload c.payloadLen = none → u.hasProgram job.prog = true →
        Queues (.approvalSubmit m) s (u.submitPke { job with part := 12, own := true }) c) ∧
      (∀ st why, u.tokenRefusal c.payload c.payloadLen = some (st, why) →
        Replies (.approvalSubmit m) s refused c (.why st why))) ∧
    (c.opcode = 0x0505 →
      (∀ v, u.tokenRefusal c.payload c.payloadLen = none → u.partOf c.cid 12 = some [1] →
        v = (if bitOf (u.get (R.quorumSlotApprovalsApproved n)) pos then u else u.approveBit n pos false) →
        RunsOn c u v (.okay (leBytes 1 (popcount 16 (v.get (R.quorumSlotApprovalsApproved n)))
          ++ leBytes 1 (v.get (R.quorumSlotClassM n)) ++ leBytes 1 (v.get (R.quorumSlotClassPortSeen n))))) ∧
      (u.tokenRefusal c.payload c.payloadLen = none → u.partOf c.cid 12 = some [0] →
        RunsOn c u refused (.why St.tokenInvalid 6)))

/-- OPERATION_STATUS_GET and OPERATION_CANCEL (R237): a live operation's state, a recorded outcome, and the end of a pending
operation, for the starting instance or the PF. -/
def Obligations.Operations : Prop :=
  ∀ (m : Msg) (s u : State) (c : Msg) (op : Nat), op = le c.payload 0 4 → c.payloadLen = 4 →
    (Granted 0x0506 m s u c → u.get (R.quorumSlotClassState (op % 32)) ≠ 0 → u.get (R.quorumSlotIdOperationId (op % 32)) = op →
      Replies (.operationStatusGet m) s u c
        (.okay (leBytes 1 (u.get (R.quorumSlotClassState (op % 32))) ++ leBytes 2 St.quorumPending))) ∧
    (∀ st, Granted 0x0506 m s u c → u.get (R.quorumSlotIdOperationId (op % 32)) ≠ op →
      u.quorum.outcomes.find? (fun o => o.1 == op) = some (op, st) →
      Replies (.operationStatusGet m) s u c (.okay (leBytes 1 4 ++ leBytes 2 st))) ∧
    (∀ a, Granted 0x0507 m s u c → u.slotPends op = true → look u.quorum.acts (op % 32) = some a →
      (c.inst = 0 ∨ c.inst = a.m.inst) →
      Replies (.operationCancel m) s (u.endSlot (op % 32) 3 St.quorumCancelled) c (.of St.ok))

/-- The commands on time: TIME_GET (R298), ANCHOR_LOAD (R306 to R308), whose signature a PKE job verifies, WAYPOINT_SET and
WAYPOINT_CLEAR (R310, R311), where a waypoint set for an instant that has passed fires at once, LATE, and MAINS_NOMINAL_SET (R313). -/
def Obligations.TimeCommands : Prop :=
  ∀ (m : Msg) (s u : State) (c : Msg),
    (Granted 0x0601 m s u c → c.payloadLen = 0 →
      Replies (.timeGet m) s u.stamped c (.okay (leBytes 12 u.stamp
        ++ leBytes 1 (u.get R.compassStatusAligned + 2 * u.get R.compassStatusAnchorHeld + 4 * u.get R.compassStatusClockDisagree)
        ++ leBytes 1 u.nominalHz ++ leBytes 2 0 ++ leBytes 4 u.period ++ leBytes 4 (u.get R.compassAnchorSerialSerial)
        ++ leBytes 8 (u.get R.compassAnchorCycleCycle) ++ leBytes 8 (u.get R.compassAnchorUtcUtcNs)
        ++ leBytes 8 (u.get R.compassRunStartCycle)))) ∧
    (∀ job l, Granted 0x0602 m s u c → u.anchorRefusal c.payload c.payloadLen = none → l = le c.payload 48 2 →
      job = tokenJob u c (le c.payload 1 1) (ascii "FV64-ANCHOR") (slice c.payload 64 l) (c.payload.take (64 + l))
        (c.payload.drop (64 + l)) → u.hasProgram job.prog = true →
      Queues (.anchorLoad m) s (u.submitPke { job with part := 12, own := true }) c) ∧
    (∀ v, c.opcode = 0x0602 → u.anchorRefusal c.payload c.payloadLen = none → u.partOf c.cid 12 = some [1] →
      v = (((u.put R.compassAnchorSerialSerial (le c.payload 4 4)).put R.compassAnchorCycleCycle (le c.payload 8 8)).put
        R.compassAnchorUtcUtcNs (le c.payload 16 8)).put R.compassStatusAnchorHeld 1 →
      RunsOn c u (((if bitOf (le c.payload 2 1) 0 = false then v
        else if le c.payload 8 8 - le c.payload 32 8 = 0 then v.put R.compassStatusAligned 1
        else ({ v with compass.stepDue := le c.payload 8 8 - le c.payload 32 8 } : State).put R.compassStatusStepDue 1).compassEvent
          3 0 0 0).raise 5) (.of St.ok)) ∧
    (∀ n a x v, Granted 0x0603 m s u c → waypointOk c.payload c.payloadLen = true → n = le c.payload 0 1 → a = le c.payload 1 1 →
      x = ⟨a, bitOf (le c.payload 2 1) 0, bitOf (le c.payload 2 1) 1, le c.payload 4 2, le c.payload 6 6, le c.payload 12 4,
        le c.payload 16 4, slice c.payload 20 44, false⟩ →
      v = (({ u with
        compass.waypoints := store u.compass.waypoints n x
        compass.holds := if a = 2 then store u.compass.holds n (le c.payload 20 2) else drop u.compass.holds n } :
          State).dropReleased).setArmed n true →
      (¬(x.cycle < u.compass.count ∨ x.cycle = u.compass.count ∧ x.phase ≤ u.compass.lastPhase) →
        Replies (.waypointSet m) s v c (.of St.ok)) ∧
      (x.cycle < u.compass.count ∨ x.cycle = u.compass.count ∧ x.phase ≤ u.compass.lastPhase →
        Replies (.waypointSet m) s (({ v with compass.waypoints := store v.compass.waypoints n { x with late := true } } :
          State).fireWaypoint n) c (.of St.ok))) ∧
    (∀ n, Granted 0x0604 m s u c → c.payloadLen = 1 → n = le c.payload 0 1 →
      Replies (.waypointClear m) s (({ u with
        compass.waypoints := drop u.compass.waypoints n
        compass.holds := drop u.compass.holds n
        compass.released := u.compass.released.filter (fun r => (drop u.compass.holds n).any (fun h => h.2 == r.1)) } :
          State).setArmed n false) c (.of St.ok)) ∧
    (∀ hz v, Granted 0x0605 m s u c → c.payloadLen = 1 → hz = le c.payload 0 1 → (hz = 50 ∨ hz = 60) →
      u.get R.lifeLimits0Nominal < 4 → u.holdup = true →
      v = ({ u with life.nominals := u.life.nominals ++ [hz] } : State).limitUsed R.lifeLimits0Nominal 2 →
      Replies (.mainsNominalSet m) s ((((v.put R.compassStatusNominal (if hz = 60 then 2 else 1)).put R.compassStatusChanges
        (v.get R.lifeLimits0Nominal)).put R.compassStatusAligned 0).put R.compassStatusAnchorHeld 0) c (.of St.ok))

/-! ### Group 0x07: the store, curves, microcode, configuration and service -/

/-- The acts on the store: STORE_ATTACH (R477, R478), STORE_FORMAT (R115), STORE_RECHECK (R129), STORE_PRUNE (R130) and
STORE_RECLAIM_RANGE (R128), once the nodes they read are there. An attachment of a store that is attached abandons what the
earlier one left; a format closes the open batches first and waits for them. -/
def Obligations.StoreCommands : Prop :=
  ∀ (m : Msg) (s u : State) (c : Msg),
    (∀ req rsp pool rl sl bufs v w, Granted 0x0701 m s u c → c.payloadLen = 32 → req = le c.payload 0 8 → rsp = le c.payload 8 8 →
      pool = le c.payload 16 8 → rl = le c.payload 24 1 → sl = le c.payload 25 1 → bufs = le c.payload 26 2 → 4 ≤ rl → rl ≤ 12 →
      4 ≤ sl → sl ≤ 12 → 16 ≤ bufs → bufs ≤ 4096 → req % 4096 = 0 → rsp % 4096 = 0 → pool % 4096 = 0 → le c.payload 28 4 = 0 →
      w = (if u.hs.attached then u.abandon St.storeUnavailable else u) →
      v = (((((((((({ w with
          hs.attached := true, hs.reqs := [], hs.waiting := [], hs.unposted := [], hs.posting := none, hs.nextTag := 0
          hs.stuck := false } : State).put R.storeReqBaseAddr req).put R.storeRspBaseAddr rsp).put
          R.storePoolBaseAddr pool).put R.storeReqCfgLog2Size rl).put R.storeReqCfgBuffers bufs).put R.storeRspCfgLog2Size sl).put
          R.storeReqProdIndex 0).put R.storeReqConsIndex 0).put R.storeRspProdIndex 0).put R.storeRspConsIndex 0 →
      Replies (.storeAttach m) s ((v.put R.storeRspConsDropped 0).completeAll (fun x =>
        x.stage == .route && x.needs.any (fun n => decide (n < needEntropy)) && u.hs.attached) St.storeUnavailable).reopen c (.of St.ok)) ∧
    (∀ log2 epoch v, Granted 0x0702 m s u c → c.payloadLen = 1 → log2 = le c.payload 0 1 → 10 ≤ log2 → log2 ≤ 30 →
      u.hs.attached = true → epoch = u.get R.keeperStoreEpochRows → epoch < 64 → u.get R.storeStatusReopenWait = 0 →
      u.hs.formatting = none → u.keys.idSeeds ≠ [] →
      (u.hs.batches ≠ [] → Ends (.storeFormat m) s
        ({ u with hs.formatting := some (c.cid, log2, epoch) } : State).closeBatch c (.wait [needStore])) ∧
      (u.hs.batches = [] → v = (((({ u with hs.formatting := none } : State).writeFormat (epoch + 1) log2 (u.opIdOf c)).put
        R.keeperStoreEpochRows (epoch + 1)).setStk).formatRecord log2 →
        Replies (.storeFormat m) s v.zeroFormat.reopen c (.of St.ok))) ∧
    (∀ page v bytes, Granted 0x0703 m s u c → c.payloadLen = 8 → page = le c.payload 0 8 → u.storeGate false = none →
      page < u.storePages → u.readPage page false = (v, .page bytes) →
      Replies (.storeRecheck m) s (v.clearMarks page) c (.of St.ok)) ∧
    (∀ k i v bytes, Granted 0x0704 m s u c → c.payloadLen = 5 → k = le c.payload 0 1 → i = le c.payload 1 4 → k ≤ 9 →
      u.storeGate true = none → (k, i) ∈ u.hs.failed ∨ (k = 5 ∧ i ∈ u.hs.failed5) → u.readNodes (.page []) (pathNodes (i * 8 ^ k) k) = (v, .page bytes) →
      Stages (.storePrune m) s (((v.openBatch.forgetSubtree k i).retagFrom (i * 8 ^ k) k emptyTag).countDirty.stageDone
        ⟨c.cid, Resp.of St.ok, none⟩) c) ∧
    (∀ p n v bytes d, Granted 0x0705 m s u c → c.payloadLen = 10 → p = le c.payload 0 8 → n = le c.payload 8 2 → 1 ≤ n → n ≤ 4096 →
      u.storeGate true = none → p + n ≤ u.storePages → u.readRange ((List.range n).map (fun i => p + i)) = (v, .page bytes) →
      d = v.reclaimPages ((List.range n).map (fun i => p + i)) →
      (d.2.1 = 0 → Replies (.storeReclaimRange m) s d.1 c
        (.okay (leBytes 4 d.2.1 ++ leBytes 4 d.2.2.1 ++ leBytes 4 d.2.2.2))) ∧
      (d.2.1 ≠ 0 → Stages (.storeReclaimRange m) s
        (d.1.stageLast ⟨c.cid, .okay (leBytes 4 d.2.1 ++ leBytes 4 d.2.2.1 ++ leBytes 4 d.2.2.2), none⟩) c))

/-- The acts on curves, microcode and the attestation key: CURVE_LOAD (R153 to R155), which has CURVE_CHECK run as a PKE job and takes
the lowest free handle for a curve that passes it; CURVE_RETIRE (R156); MICROCODE_INSTALL (R142, R143, R145); and
ATTESTATION_KEY_PROVISION (R100, R235), whose transport item a lane opens, under a slot's key or under the two secrets of PKE jobs. -/
def Obligations.CurvesAndPackages : Prop :=
  ∀ (m : Msg) (s u : State) (c : Msg),
    (∀ x, curveOf (c.payload.take c.payloadLen) = some x → u.keys.stk ≠ [] →
      (Granted 0x0706 m s u c → u.hasProgram 0x3C = true →
        Queues (.curveLoad m) s (u.submitPke { Job.of c false 0x3C (runTime u 0x3C 0 x.pbits 0 0) with
          own := true, draws := true, data := c.payload.take c.payloadLen }) c) ∧
      (∀ y n, c.opcode = 0x0706 → u.gotOf c.cid = some y → y.reason = 0 → u.duplicateCurve x = none →
        (List.range 64).find? (fun h => decide (6 ≤ h) && !bitOf (u.get R.pkeCurveMapLoaded) h
          && !bitOf (u.get R.pkeCurveRetiredRetired) h) = some n →
        RunsOn c u (({ u with
          eng.curves := store u.eng.curves n { x with mac := Config.cmac u.keys.stk (x.bytes n) } } : State).putBit
            R.pkeCurveMapLoaded n true) (.okay (leBytes 1 n))) ∧
      (∀ y, c.opcode = 0x0706 → u.gotOf c.cid = some y → y.reason ≠ 0 →
        RunsOn c u u (.why St.curveRejected y.reason)) ∧
      (∀ y n, c.opcode = 0x0706 → u.gotOf c.cid = some y → y.reason = 0 → u.duplicateCurve x = some n →
        RunsOn c u u (.resp ⟨St.curveRejected, 10, 0, 0, 0, 0, leBytes 1 n⟩))) ∧
    (∀ n, Granted 0x0707 m s u c → c.payloadLen = 1 → n = le c.payload 0 1 → 6 ≤ n → n < 64 →
      bitOf (u.get R.pkeCurveRetiredRetired) n = false → bitOf (u.get R.pkeCurveMapLoaded) n = true →
      Replies (.curveRetire m) s (((({ u with eng.curves := drop u.eng.curves n } : State).putBit R.pkeCurveMapLoaded n false).putBit
        R.pkeCurveRetiredRetired n true).freeSlots (fun x => x.typ == 0x10 && x.curve == n)) c (.of St.ok)) ∧
    (∀ n p body v w, Granted 0x0708 m s u c → c.payloadLen = 0 → u.packageOf u.life.pkgBuffer = .ok (n, p, body) →
      v = (({ u with
        eng.bodies := store u.eng.bodies (2 * n + p.copy) body
        eng.packages := store u.eng.packages n p
        eng.packages1 := store u.eng.packages1 n p } : State).putBit R.pkePackagesActive (n - 1) true).logAdd 0x45 0xFFFF
          0xFFFF (leBytes 1 n ++ leBytes 2 p.version) →
      w = (List.range 16).foldl (fun t k => if t.clusterState k = 2 then t.reloadCluster k else t) v →
      Replies (.microcodeInstall m) s (((((List.range 16).filter (fun k =>
        w.clusterState k == 3 || w.clusterState k == 4 || w.clusterState k == 5)).foldl (fun t k =>
          t.setCluster k { t.cluster k with roll := setBit (t.cluster k).roll (n - 1) true }) w).rollNext 16).showRolling) c
        (.of St.ok)) ∧
    (∀ item attr, 9 ≤ c.payloadLen → c.payloadLen ≤ c.payload.length → u.get R.bootStatusRootsUnmatched = 0 →
      item = c.payload.take c.payloadLen → attr = Attr.bytes ⟨5, 0, 0, 48, 0, 0, 0, 0⟩ → allZero (slice item 1 7) = true →
      (∀ x, Granted 0x070D m s u c → le item 0 1 = 1 → u.kek c uUnwrap = .ok x → u.skeRoom true = true →
        Queues (.attestationKeyProvision m) s (u.submitSke { blobJob c 0 x.wg [] (item.drop 8) with part := 3, own := true }) c) ∧
      (∀ i j x y, Granted 0x070D m s u c → le item 0 1 = 2 → 1193 < item.length → u.handleCheck c.inst c.key uDecaps = .ok (i, x) →
        u.handleCheck c.inst c.key2 uAgree = .ok (j, y) → x.typ = 0x20 → y.typ = 0x10 → y.curve = 1 → u.hasProgram 0x2A = true →
        Queues (.attestationKeyProvision m) s (u.submitPke { slotJob u c 0x2A c.key x 4 ((item.drop 8).take 1088) with
          part := 6, own := true }) c) ∧
      (∀ i j x y kem, c.opcode = 0x070D → le item 0 1 = 2 → 1193 < item.length → u.handleCheck c.inst c.key uDecaps = .ok (i, x) →
        u.handleCheck c.inst c.key2 uAgree = .ok (j, y) → x.typ = 0x20 → y.typ = 0x10 → y.curve = 1 → u.partOf c.cid 6 = some kem →
        (u.partOf c.cid 7 = none → u.hasProgram 0x04 = true →
          RunsOn c u (u.submitPke { slotJob u c 0x04 c.key2 y 0 (slice (item.drop 8) 1088 97) with part := 7, own := true }) .engine) ∧
        (∀ ecdh, u.partOf c.cid 7 = some ecdh → u.partOf c.cid 3 = none → u.skeRoom true = true →
          RunsOn c u (u.submitSke { blobJob c 0 x.wg (hybridKek kem ecdh attr) ((item.drop 8).drop 1185) with
            part := 3, own := true }) .engine)) ∧
      (∀ v blob key w, c.opcode = 0x070D → u.openTransport c item attr 0 = (v, .ok blob) →
        transported ⟨5, 0, 0, 48, 0, 0, 0, 0⟩ blob = .ok key → key.length = 48 →
        w = (v.putAttKey v.keys.active (fun x => x.keyP v.keys.dmk v.keys.dmkd) v.keys.dmkd key) →
        RunsOn c u { w.putAttKey w.keys.staged (fun _ => some w.keys.nextDmk) w.keys.nextDmkd key with keys.attKey := key }
          (.of St.ok)))

/-- The acts on firmware, configuration and limits: FIRMWARE_STAGE (R415), FIRMWARE_ACTIVATE (R416), which stages its tables and
waits for the queues to be quiesced, CONFIG_SET (R414),
TAMPER_RESPONSE_SET (R354), NOISE_RECALIBRATE (R220), CLUSTER_RETIRE (R419), DEVICE_UNLOCK (R361) and FLOOR_RAISE (R408). -/
def Obligations.DeviceSettings : Prop :=
  ∀ (m : Msg) (s u : State) (c : Msg),
    (∀ off chunk n, Granted 0x0709 m s u c → 5 ≤ c.payloadLen → chunk = (c.payload.take c.payloadLen).drop 4 → chunk.length ≤ 4000 →
      off = le c.payload 0 4 % 2 ^ 31 → n = 1 - u.get R.bootStatusBank → u.busyLife = false →
      (bitOf (le c.payload 0 4) 31 = true → off + chunk.length ≤ 40960 →
        Replies (.firmwareStage m) s { u with life.pkgBuffer := patch (padTo 40960 u.life.pkgBuffer) off chunk } c (.of St.ok)) ∧
      (bitOf (le c.payload 0 4) 31 = false → off + chunk.length ≤ 0xB00000 →
        Replies (.firmwareStage m) s (((if off = 0 then u.clearMem (bankBase n) 4096 else u).writeMem (bankBase n + off) chunk).put
          (bankVersion n) 0) c (.of St.ok))) ∧
    (∀ n v, Granted 0x070A m s u c → c.payloadLen = 0 → u.busyLife = false → n = 1 - u.get R.bootStatusBank →
      u.bankRefusal n = none →
      u.stageSets (u.bankHead n).digest u.life.cfgDigest (u.get R.devStatusLife) true (u.bankHead n).version = (v, true) →
      Queues (.firmwareActivate m) s { v with life.updating := some (c.cid, .update n) } c) ∧
    (∀ b v, Granted 0x070B m s u c → 4 ≤ c.payloadLen → le c.payload 2 2 = ((c.payload.take c.payloadLen).drop 4).length →
      u.life.cfg.set (le c.payload 0 2) ((c.payload.take c.payloadLen).drop 4) = some b → u.busyLife = false →
      u.putCfg b = (v, true) → Replies (.configSet m) s v.cfgInForce c (.of St.ok)) ∧
    (Granted 0x070C m s u c → u.tamperSetRefusal c.payload c.payloadLen = none → u.thermosChanges c.payload ≠ [] → u.holdup = false →
      Replies (.tamperResponseSet m) s u c (Resp.why St.lifecycleForbidden 3)) ∧
    (∀ t v w x k, Granted 0x070C m s u c → u.tamperSetRefusal c.payload c.payloadLen = none →
      (u.thermosChanges c.payload = [] ∨ u.holdup = true) → k = le c.payload 0 1 →
      t = (if u.thermosChanges c.payload = [] then u else u.limitUsed R.lifeLimits0Thermos 5) →
      v = ((List.range 27).map (fun n => (n, u.askedResponse c.payload n))).foldl (fun t a =>
        (t.put (R.keeperRespMain a.1) a.2.1).put (R.keeperRespThermos a.1) a.2.2) t →
      w = (if k = 2 then (List.range 27).foldl (fun t n =>
          if tamperClass n = le c.payload 1 1 then t.put (R.keeperRespMin n) (le c.payload 2 1) else t) v
        else if k = 3 then (v.put R.keeperTempLimitsLow (le c.payload 4 1)).put R.keeperTempLimitsHigh (le c.payload 5 1) else v) →
      x = (if w.withTamperCopy w.life.cfg = w.life.cfg then w else (w.putCfg (w.withTamperCopy w.life.cfg)).1) →
      Replies (.tamperResponseSet m) s (x.redecide u.responseOf) c (.of St.ok)) ∧
    (∀ n, Granted 0x070E m s u c → c.payloadLen = 1 → n = le c.payload 0 1 → n ≤ 4 → u.lastSourceN n = false → u.trngRuns = true →
      (u.get (R.trngSrcStatusState n) ≠ 4 → Queues (.noiseRecalibrate m) s (u.startSweep n [c.cid]) c) ∧
      (u.get (R.trngSrcStatusState n) = 4 → Queues (.noiseRecalibrate m) s (u.setSource n { u.source n with
        waiting := (u.source n).waiting ++ [c.cid] }) c)) ∧
    (∀ n, Granted 0x0710 m s u c → c.payloadLen = 1 → n = le c.payload 0 1 → n ≤ 15 → bitOf (u.get R.lifeLimits1Retired) n = false →
      (u.clusterState n = 0 ∨ u.clusterState n = 6 ∨ u.clusterState n = 7) → u.holdup = true →
      Replies (.clusterRetire m) s (((u.putBit R.lifeLimits1Retired n true).setClusterState n 8).logAdd 0x41 0xFFFF 0xFFFF
        (leBytes 1 6 ++ leBytes 2 1)) c (.of St.ok)) ∧
    (Granted 0x0711 m s u c → c.payloadLen = 0 → u.lockHeld = false →
      Replies (.deviceUnlock m) s (((u.put R.keeperTamperStateLockFlag 0).put R.keeperTamperStateStrongest 0).setDev
        R.devStatusLocked 0) c (.of St.ok)) ∧
    (∀ f v, Granted 0x0712 m s u c → c.payloadLen = 2 → f = le c.payload 0 2 → u.get R.lifeSecurityFloor < f →
      f ≤ u.get R.lifeSecurityRunning → u.get R.lifeLimits0Floor < 256 → u.holdup = true →
      v = ({ u with life.floors := u.life.floors ++ [f] } : State).limitUsed R.lifeLimits0Floor 1 →
      Replies (.floorRaise m) s ([0, 1].foldl (fun t n => if t.get (bankVersion n) < f then t.put (bankVersion n) 0 else t)
        ((v.put R.lifeSecurityFloor f).zeroPrevious f)) c (.of St.ok))

/-- CLUSTER_SERVICE (R417, R418, Table LC.11): what FENCE, RETURN, POWER_OFF, POWER_ON and RECALIBRATE do with each part that they
take. An action that ends in a later step leaves its command with the service; the others answer at once. -/
def Obligations.ServiceCommands : Prop :=
  ∀ (m : Msg) (s u : State) (c : Msg), c.payloadLen = 8 → le c.payload 6 2 = 0 →
    (Granted 0x070F (m.withByte 5 1) s u c → le c.payload 5 1 = 1 →
      (∀ n, u.partAt c.payload = some (.cluster n) → u.clusterFenced n = false → u.clusterState n ≠ 8 →
        Queues (.clusterServiceFence m) s ((u.gateCluster n false true).addService c 0 n 7).1 c) ∧
      (∀ n, u.partAt c.payload = some (.lane n) → u.laneFenced n = false → u.lastLane n = false →
        Queues (.clusterServiceFence m) s ((u.gateLane n false true).addService c 1 n 0).1 c) ∧
      (∀ n, u.partAt c.payload = some (.pair n) → bitOf u.life.pairsFenced n = false → u.get (pairFld (1 - n)) = 1 →
        Replies (.clusterServiceFence m) s (((({ u with life.pairsFenced := setBit u.life.pairsFenced n true } : State).put
          (pairFld n) 0).setMissed n false).showPairs) c (.of St.ok))) ∧
    (Granted 0x070F (m.withByte 5 2) s u c → le c.payload 5 1 = 2 →
      (∀ n, u.partAt c.payload = some (.cluster n) → (u.clusterState n = 0 ∨ u.clusterState n = 6 ∨ u.clusterState n = 7) →
        bitOf u.pwr.regionOff (n / 4) = false →
        Queues (.clusterServiceReturn m) s ((u.returnCluster n).addService c 0 n 3).1 c) ∧
      (∀ n, u.partAt c.payload = some (.lane n) → u.laneState n = 0 →
        Queues (.clusterServiceReturn m) s (((u.put (R.skeLaneCtrlGateReq n) 0).gateLane n false false).addService c 1 n 2).1 c) ∧
      (∀ n, u.partAt c.payload = some (.pair n) → bitOf u.life.pairsFenced n = true →
        Replies (.clusterServiceReturn m) s ((({ u with
          life.pairsFenced := setBit u.life.pairsFenced n false } : State).pairBack n).showPairs) c (.of St.ok))) ∧
    (Granted 0x070F (m.withByte 5 3) s u c → le c.payload 5 1 = 3 →
      (∀ n, u.partAt c.payload = some (.cluster n) → u.clusterState n ≠ 8 →
        Queues (.clusterServicePowerOff m) s ((u.addService c 0 n 0).1.gateCluster n true true) c) ∧
      (∀ g, u.partAt c.payload = some (.region g) → bitOf u.pwr.regionOff g = false → g ≠ 7 →
        Queues (.clusterServicePowerOff m) s ([0, 1, 2, 3].foldl (fun t i =>
          if t.clusterState (4 * g + i) = 8 then t else t.gateCluster (4 * g + i) true true) (u.addService c 2 g 0).1) c) ∧
      (u.partAt c.payload = some (.region 7) → bitOf u.pwr.regionOff 7 = false →
        (∀ p < 4, u.portCarries p = false ∧ u.get (R.ferryPortUse p) = 0) →
        Replies (.clusterServicePowerOff m) s u.ferryDown c (.of St.ok)) ∧
      (∀ p, u.partAt c.payload = some (.port p) → u.portCarries p = false → u.get (R.ferryPortUse p) = 0 →
        Replies (.clusterServicePowerOff m) s ((({ u with ferry.off := setBit u.ferry.off p true } : State).put
          (R.ferryPortState p) 0).showPorts) c (.of St.ok))) ∧
    (Granted 0x070F (m.withByte 5 4) s u c → le c.payload 5 1 = 4 →
      (∀ n, u.partAt c.payload = some (.cluster n) → u.clusterState n = 0 → bitOf u.pwr.regionOff (n / 4) = false →
        Queues (.clusterServicePowerOn m) s ((u.returnCluster n).addService c 0 n 3).1 c) ∧
      (∀ g, u.partAt c.payload = some (.region g) → bitOf u.pwr.regionOff g = true → g ≠ 7 →
        Queues (.clusterServicePowerOn m) s (([0, 1, 2, 3].foldl (fun t i =>
          if t.clusterState (4 * g + i) = 0 then t.returnCluster (4 * g + i) else t)
            ({ u with pwr.regionOff := setBit u.pwr.regionOff g false } : State)).addService c 2 g 3).1 c) ∧
      (u.partAt c.payload = some (.region 7) → bitOf u.pwr.regionOff 7 = true →
        Replies (.clusterServicePowerOn m) s u.ferryUp c (.of St.ok)) ∧
      (∀ p, u.partAt c.payload = some (.port p) → bitOf u.pwr.regionOff 7 = false → u.get (R.ferryPortState p) = 0 →
        Replies (.clusterServicePowerOn m) s ((({ u with ferry.off := setBit u.ferry.off p false } : State).put
          (R.ferryPortState p) 2).showPorts) c (.of St.ok))) ∧
    (∀ die n src need, Granted 0x070F (m.withByte 5 5) s u c → le c.payload 5 1 = 5 → u.partAt c.payload = some (.sensor die n) →
      src = sensorSource die n → need = Config.freeNat u.fresh % 128 →
      3 ≤ ([2, 3, 4, 5, 6, 7].filter (fun x => x != src && !u.life.sensorsOut.contains x)).length →
      (need ≤ 64 → Replies (.clusterServiceRecalibrate m) s { u.drawn with
        life.sensorsOut := u.life.sensorsOut.filter (· != src), life.sensorTrims := store u.life.sensorTrims src need } c (.of St.ok)) ∧
      (64 < need → Replies (.clusterServiceRecalibrate m) s
        (({ u.drawn with life.sensorsOut := addNew u.life.sensorsOut src } : State).hard
          (if die = 1 then locK 45 n else locM 0xF 36 n) 0x0E 0) c (.of St.limitReached)))

/-- Federation: DOMAIN_JOIN (R437, R438) accepts a certificate that no check of R438 refuses; OFFER, SEND, ACCEPT and ADOPT of
TENANT_REPLICATE (R440) make the offer, the package, the replica entry and the re-wrapped hamper. SEND and ACCEPT have the record
sealed and opened by a lane, and ADOPT has the hamper unwrapped by one and wrapped again by another, and then run on. -/
def Obligations.DomainCommands : Prop :=
  ∀ (m : Msg) (s u : State) (c : Msg),
    (∀ x, Granted 0x0713 m s u c → certOf (c.payload.take c.payloadLen) = some x → u.keys.idSeeds ≠ [] →
      u.certRefusal (c.payload.take c.payloadLen) x = none →
      Replies (.domainJoin m) s (u.acceptCert (c.payload.take c.payloadLen) x) c (.of St.ok)) ∧
    (∀ n d r v o, Granted 0x0714 (m.withByte 0 1) s u c → le c.payload 0 1 = 1 → replicaParts c [0] = some (n, d) →
      u.offerable n = true → u.get R.ferryDomainMember = 1 → u.keys.idSeeds ≠ [] → u.canDraw = true → u.draw 224 = (v, r) →
      o = (⟨r.take 8, slice r 8 128, u.compass.mc + 180000⟩ : Offer) →
      Replies (.tenantReplicateOffer m) s { v with ferry.offers := store v.ferry.offers n o } c
        (.okay (v.offerBody n o ++ v.identitySigs (v.offerBody n o) (r.drop 136)))) ∧
    (∀ n d body t blob, le c.payload 0 1 = 2 → replicaParts c [offerLen + sigsLen] = some (n, d) → body = d.take offerLen →
      le body 8 2 = n → u.keys.idSeeds ≠ [] →
      u.peerRefusal (slice body 10 certLen) (slice body 5528 2049) body (d.drop offerLen) = none → u.tenant n = some t →
      t.state = 1 → t.failed = false → u.canDraw = true → blob = rootAttr.bytes ++ t.record →
      (∀ v x, Granted 0x0714 (m.withByte 0 2) s u c →
        u.hybridStart (slice body 7577 1184) (slice body 8761 97) rootAttr.bytes = (v, .ok x) →
        (v.setPart c.cid 5 x).skeRoom true = true → v.partOf c.cid 3 = none →
        Queues (.tenantReplicateSend m) s
          ((v.setPart c.cid 5 x).submitSke { blobJob c 1 sealedWg (x.drop 1185) blob with part := 3, own := true }) c) ∧
      (∀ x out v pkg, c.opcode = 0x0714 → u.partOf c.cid 5 = some x → u.partOf c.cid 3 = some out → v = u.setPart c.cid 5 x →
        pkg = body.take 8 ++ leBytes 2 n ++ leBytes 4 t.tg ++ leBytes 2 t.live ++ (x.take 1185 ++ out) ++ padTo certLen v.ferry.cert
          ++ v.identityKeys →
        RunsOn c u (v.draw 88).1 (.okay (pkg ++ (v.draw 88).1.identitySigs pkg (v.draw 88).2)))) ∧
    (∀ n d body o ecdh sealed, le c.payload 0 1 = 3 → replicaParts c [packageLen + sigsLen] = some (n, d) → body = d.take packageLen →
      le body 8 2 = n → u.peerRefusal (slice body 1337 certLen) (slice body 6855 2049) body (d.drop packageLen) = none →
      u.heldOffer n (body.take 8) = some o → u.offerable n = true → sealed = slice body 16 1321 →
      p384.agree Blind.none o.scalar (slice sealed 1088 97) = .ok ecdh →
      (Granted 0x0714 (m.withByte 0 3) s u c → u.skeRoom true = true →
        Queues (.tenantReplicateAccept m) s (u.submitSke { blobJob c 0 sealedWg
          (hybridKek (latticeOut 0x2A 1 32 true o.kemSeed (sealed.take 1088) []) ecdh rootAttr.bytes) (sealed.drop 1185) with
            part := 3, own := true }) c) ∧
      (∀ blob v, c.opcode = 0x0714 → u.partOf c.cid 3 = some blob → blob.length = 124 → blob.take 32 = rootAttr.bytes →
        v = (u.destroyTenantEntry n (replicaTenant (le body 14 2) (le body 10 4) (blob.drop 32))).setReplica n true →
        RunsOn c u { v with ferry.offers := drop v.ferry.offers n } (.of St.ok))) ∧
    (∀ n b h, le c.payload 0 1 = 4 → replicaParts c [256, 4096] = some (n, b) → h = headOf b →
      h.format = (if b.length = 4096 then 2 else 1) → (refOf c.hamper).large = decide (b.length = 4096) →
      sizeOk (decide (b.length = 4096)) h.typ h.len = true → h.wrapLen = wrapLenOf h.len → n ∈ u.ferry.replicas → h.tenant = n →
      u.bound c.inst n = true → u.entryRefusal h = none → h.isSealed = false → u.get R.mpcWorldStatusKeysLocked = 0 →
      (∀ kek, Granted 0x0714 (m.withByte 0 4) s u c → u.hamperKek h = some kek → u.skeRoom true = true →
        Queues (.tenantReplicateAdopt m) s
          (u.submitSke { h.job c kek 0 (slice b 48 h.wrapLen) with part := 1, own := true }) c) ∧
      (∀ kek key v p h1, c.opcode = 0x0714 → u.hamperKek h = some kek → u.partOf c.cid 1 = some key →
        u.placement c.hamper = (v, .page p) →
        h1 = { h with serial := v.hs.nextSerial, address := c.hamper + v.hs.nextSerial % 2 ^ 24 * 2 ^ 40 } →
        (∀ k1, v.partOf c.cid 2 = none → v.hamperKek h1 = some k1 → v.skeRoom true = true →
          RunsOn c u (v.submitSke { h1.job c k1 1 key with part := 2, own := true }) .engine) ∧
        (∀ k1 x w, v.partOf c.cid 2 = some x → x.take 48 = h1.bytes → v.hamperKek h1 = some k1 →
          w = ({ v with hs.nextSerial := v.hs.nextSerial + 1 } : State).changePage (refOf c.hamper).page
            (putHamper p (refOf c.hamper) x) →
          RunsOn c u (w.stageDone ⟨c.cid, ⟨St.ok, 0, 0, 0, h1.address, 0, leBytes 8 h1.address⟩, none⟩) .staged)))

/-! ### Groups 0x08 and 0x09: the records, the life cycle and debug -/

/-- The commands on the records: LOG_READ (R386) answers whole records and changes nothing; LOG_FREEZE and LOG_THAW (R385);
LOG_CLEAR (R387) starts the next epoch with LOG_CLEARED; JOURNAL_ATTACH (R389). -/
def Obligations.RecordCommands : Prop :=
  ∀ (m : Msg) (s u : State) (c : Msg),
    (Granted 0x0801 m s u c → c.payloadLen = 3 →
      Replies (.logRead m) s u c
        (.okay (((u.log.recs.drop (le c.payload 0 2)).take (min 63 (le c.payload 2 1))).map LogRec.bytes).flatten)) ∧
    (Granted 0x0802 m s u c → c.payloadLen = 0 → Replies (.logFreeze m) s (u.put R.logStatusFrozen 1) c (.of St.ok)) ∧
    (Granted 0x0803 m s u c → c.payloadLen = 0 → Replies (.logThaw m) s u.logThaw c (.of St.ok)) ∧
    (∀ v, Granted 0x0804 m s u c → c.payloadLen = 0 → v = u.logThaw →
      Replies (.logClear m) s (((((({ v with log.recs := [], log.older := v.log.recs ++ v.log.older.drop v.log.recs.length } : State).put R.logEpochEpoch (v.get R.logEpochEpoch + 1)).put
        R.logStatusHeld 0).put R.logStatusFull 0).logAdd 0x1 c.inst 0xFFFF (leBytes 2 (v.get R.logEpochEpoch)
          ++ leBytes 2 (v.get R.logStatusHeld) ++ leBytes 4 (v.get R.logOverflowCount) ++ leBytes 4 (u.opIdOf c))).put
            R.logOverflowCount 0) c (.of St.ok)) ∧
    (Granted 0x0805 m s u c → c.payloadLen = 17 → le c.payload 0 8 % 4096 = 0 → 6 ≤ le c.payload 8 1 → le c.payload 8 1 ≤ 16 →
      le c.payload 9 8 % 64 = 0 →
      Replies (.journalAttach m) s (({ u with log.ringAddr := le c.payload 0 8, log.headerAddr := le c.payload 9 8 } : State).put
        R.logJournalCfgLog2Size (le c.payload 8 1)) c (.of St.ok))

/-- The life cycle and debug: LIFECYCLE_TRANSITION (R397 to R403) that no check refuses is staged and waits for the queues to be
quiesced; with them quiesced and HOLDUP_SENSE still high it burns the transition, answers and restarts, and with it low it stops, its
intent row burned; DEBUG_CHALLENGE_GET, DEBUG_OPEN, DEBUG_PASSWORD_SET and DEBUG_KEY_SET (R404 to R406). -/
def Obligations.LifeCommands : Prop :=
  ∀ (m : Msg) (s u : State) (c : Msg),
    (∀ v, Granted 0x0901 m s u c → u.transitionRefusal c = none →
      (le c.payload 0 1 = 2 ∧ u.stageFielded = some v ∨ le c.payload 0 1 ≠ 2 ∧ v = u) →
      Queues (.lifecycleTransition m) s { v with
        life.updating := some (c.cid, .transition (u.get R.devStatusLife) (le c.payload 0 1)) } c) ∧
    (∀ cid a b v, s.life.updating = some (cid, .transition a b) → s.blockOut 0x50000 true = false →
      v = (if s.get (R.hdrCtrlQuiesce 0x50000) = 1 then s.put (R.hdrStateQuiesced 0x50000) 1 else s) →
      (v.holdup = true → exec (.quiesced 0x50000) s =
        .next ((({ v with life.updating := none } : State).burnTransition a b).complete cid (.of St.ok)).lifeRestart.pump) ∧
      (v.holdup = false → exec (.quiesced 0x50000) s =
        .next ((({ v with life.updating := none } : State).dropStaged.burnIntent a b).complete cid holdupLow).pump)) ∧
    (Granted 0x0902 m s u c → c.payloadLen = 0 → u.canDraw = true →
      Replies (.debugChallengeGet m) s (({ (u.draw 32).1 with life.challenge := (u.draw 32).2 } : State).put R.lifeDebugChallenge 1)
        c (.okay (u.draw 32).2)) ∧
    (∀ level cred v, Granted 0x0903 m s u c → 4 ≤ c.payloadLen → le c.payload 1 3 = 0 → level = le c.payload 0 1 →
      cred = (c.payload.take c.payloadLen).drop 4 → 1 ≤ level → level ≤ maxLevel (u.get R.devStatusLife) →
      look u.quorum.acting c.cid = none → u.checkCredential level cred = (v, none) →
      Replies (.debugOpen m) s (v.openLevel level) c (.of St.ok)) ∧
    (Granted 0x0903 m s u c → c.payloadLen = 4 → le c.payload 0 1 = 0 → le c.payload 1 3 = 0 →
      Replies (.debugOpen m) s u.debugClose c (.of St.ok)) ∧
    (Granted 0x0904 m s u c → c.payloadLen = 32 → u.get R.lifeLimits0Password < 8 → u.holdup = true →
      Replies (.debugPasswordSet m) s (({ u with life.passwords := u.life.passwords ++ [padTo 32 c.payload] } : State).limitUsed
        R.lifeLimits0Password 3) c (.of St.ok)) ∧
    (Granted 0x0905 m s u c → c.payloadLen = 97 → u.get R.lifeLimits0DebugKey < 4 → u.holdup = true →
      Replies (.debugKeySet m) s (({ u with
        life.debugKeys := u.life.debugKeys ++ [(Config.sha384 (padTo 97 c.payload)).take 32] } : State).limitUsed
          R.lifeLimits0DebugKey 4) c (.of St.ok))

/-! ### Group 0x02: keys, hampers, slots -/

/-- Hampers and slots: HAMPER_LOAD (R122, R123), SLOT_FREE (R93, R95), HAMPER_REWRAP (R127), HAMPER_REVOKE (R126), HAMPER_RECLAIM
(R128) and NONCE_LIMIT_SET (R193). A hamper is unwrapped by a lane, and wrapped again by one; a change of a page stands in the open
batch with its command. -/
def Obligations.HamperCommands : Prop :=
  ∀ (m : Msg) (s u : State) (c : Msg),
    (bareRefusal c = none →
      let run := Runs (.hamperLoad m) 0x0206 m s u c
      ((refOf c.hamper).large = false → Opens run u c (fun v h key => ∀ w handle, v.slotsReady = true →
        v.loadSlot c.inst (cargoOf h key c.hamper) = .ok (w, handle) → run w (.named c.hamper handle))) ∧
      (∀ v h b, (refOf c.hamper).large = true → u.findHamper c = (v, .ok (h, b)) → run v (.named c.hamper 0))) ∧
    (∀ i x, bareRefusal c = none → u.storeGate false = none → i = c.key % 0x10000 → look u.keys.slots i = some x →
      x.doomed = false → x.epoch = c.key / 0x10000 → u.bound c.inst x.tenant = true → u.dying x.tenant x.wg = none →
      Runs (.slotFree m) 0x0207 m s u c (u.freeOrDoom i (x.loader != c.inst)) (.named 0 c.key)) ∧
    (bareRefusal c = none → u.storeGate true = none →
      let run := Runs (.hamperRewrap m) 0x0208 m s u c
      Opens run u c (fun v h key => ∀ w p t wg k1 h1, h.isSealed = false →
        v.readForChange (refOf c.hamper).page = (w, .page p) → v.tenant c.tenant = some t → t.topWg = some wg →
        h1 = { h with wg := wg } → w.hamperKek h1 = some k1 →
        (w.partOf c.cid 2 = none → w.skeRoom true = true →
          run (w.submitSke { h1.job c k1 1 key with part := 2, own := true }) .engine) ∧
        (∀ b, w.partOf c.cid 2 = some b → b.take 48 = h1.bytes →
          run ((({ w with hs.large := w.hs.large.filter (fun e => e.1 != c.hamper) } : State).changePage (refOf c.hamper).page
            (putHamper p (refOf c.hamper) b)).stageDone ⟨c.cid, ⟨St.ok, 0, 0, 0, c.hamper, 0, []⟩, none⟩) .staged))) ∧
    (∀ v p h, bareRefusal c = none → u.storeGate true = none → u.refOk (refOf c.hamper) = true →
      u.readForChange (refOf c.hamper).page = (v, .page p) →
      v.headCheck c.inst c.tenant c.hamper (hamperIn p (refOf c.hamper)) = .ok h →
      (v.dying h.tenant h.wg = none → Runs (.hamperRevoke m) 0x0209 m s u c
        ((v.freeCell (refOf c.hamper) p c.hamper).stageDone ⟨c.cid, ⟨St.ok, 0, 0, 0, c.hamper, 0, []⟩, none⟩) .staged) ∧
      (v.unopenable h = true → Runs (.hamperReclaim m) 0x020A m s u c
        ((v.freeCell (refOf c.hamper) p c.hamper).stageDone ⟨c.cid, ⟨St.ok, 0, 0, 0, c.hamper, 0, []⟩, none⟩) .staged)) ∧
    (∀ p i x, partsOf c = .ok p → p.outLen = 0 → p.aux = [] → p.inp.length = 4 → le p.inp 0 4 ≠ 0 →
      u.handleCheck c.inst c.key uEncrypt = .ok (i, x) →
      Runs (.nonceLimitSet m) 0x020B m s u c
        (({ u with keys.slots := adjust u.keys.slots i (fun y => { y with
          limit := min (min (le p.inp 0 4) (lookD u.keys.limits x.tenant (2 ^ 32))) y.limit }) } : State).noteLow i)
        (.named x.ref c.key))

/-- Keys come and go: KEY_GENERATE (R185, R233), KEY_IMPORT and KEY_EXPORT (R235), KEY_DERIVE (R186) and KEY_PUBLIC_GET. A symmetric
key is drawn, an asymmetric one comes from a keygen program; an imported key comes out of its transport and is validated by a job
(R152); either is then kept in a hamper. An export opens its hamper and wraps the key for its recipient. The program of a validation
job, and that of a public key other than EC_PUBLIC, are the model's choice (log entry 107). -/
def Obligations.KeyCommands : Prop :=
  ∀ (m : Msg) (s u : State) (c : Msg) (p : Parts), partsOf c = .ok p →
    (∀ a v q, c.alg = 0 → c.param ||| 0xC = 0xC → setOf c.param ≤ 2 → p.outLen = 0 → p.inp = [] →
      p.aux.length ≤ 4 → u.attrItem (p.item 0) 1 = .ok a → a.typ ≠ 0x42 → (a.typ = 0x40 → a.size % 1024 = 0) →
      (if a.typ = 0x41 then (ffdhHead a (p.item 1) (p.item 2) (p.item 3)).isSome = true
        else p.item 1 ++ p.item 2 ++ p.item 3 = []) → u.tenantRefusal c.tenant false = none →
      u.placement c.hamper = (v, .page q) → largeType a.typ = (refOf c.hamper).large →
      let run := Runs (.keyGenerate m) 0x0201 m s u c
      (∀ n w k, v.gotOf c.cid = none → symmetricLen a = some n → v.canDraw = true → v.draw n = (w, k) →
        KeepsKey run (w.setGot c.cid (Yield.keep [] k)) c a k []) ∧
      (∀ prog, v.gotOf c.cid = none → symmetricLen a = none → keygenProgram a.typ = some prog → v.hasProgram prog = true →
        run (v.submitPke (v.keygenJob c a prog ((ffdhHead a (p.item 1) (p.item 2) (p.item 3)).getD []))) .engine) ∧
      (∀ y, v.gotOf c.cid = some y → KeepsKey run v c a y.secret y.out)) ∧
    (∀ a body, c.alg = 0 → c.param = 0 → p.outLen = 0 → p.inp = [] → p.aux.length ≤ 2 →
      u.attrItem (p.item 0) 1 = .ok a → body = (p.item 1).drop 8 → 8 ≤ (p.item 1).length → allZero (slice (p.item 1) 1 7) = true →
      let run := Runs (.keyImport m) 0x0202 m s u c
      let kept (v : State) (blob : Bytes) : Prop := ∀ k, transported a blob = .ok k → compositeUsageOk a k = true →
        keySizeOk a k = true → largeType a.typ = (refOf c.hamper).large →
        (a.typ < 0x10 → v.storeGate true = none → keyLenOk v a.typ a.curve k.length = true → KeepsKey run v c a k []) ∧
        (∀ prog, 0x10 ≤ a.typ → v.gotOf c.cid = none → v.storeGate true = none → importProgram a.typ a.usage = some prog →
          v.handleRefusal (handlesOf a.typ a.curve k) = none → v.hasProgram prog = true →
          run (v.submitPke (v.validation c a prog k)) .engine) ∧
        (∀ y, 0x10 ≤ a.typ → v.gotOf c.cid = some y → KeepsKey run v c a k [])
      (∀ x, le (p.item 1) 0 1 = 1 → u.kek c uUnwrap = .ok x →
        (u.partOf c.cid 3 = none → u.skeRoom true = true →
          run (u.submitSke { blobJob c 0 x.wg [] body with part := 3, own := true }) .engine) ∧
        (∀ blob, u.partOf c.cid 3 = some blob → kept u blob)) ∧
      (∀ i j x y, le (p.item 1) 0 1 = 2 → 1185 < body.length → u.handleCheck c.inst c.key uDecaps = .ok (i, x) →
        u.handleCheck c.inst c.key2 uAgree = .ok (j, y) → x.typ = 0x20 → y.typ = 0x10 → y.curve = 1 →
        (u.partOf c.cid 6 = none → u.hasProgram 0x2A = true →
          run (u.submitPke { slotJob u c 0x2A c.key x 4 (body.take 1088) with part := 6, own := true }) .engine) ∧
        (∀ kem, u.partOf c.cid 6 = some kem →
          (u.partOf c.cid 7 = none → u.hasProgram 0x04 = true →
            run (u.submitPke { slotJob u c 0x04 c.key2 y 0 (slice body 1088 97) with part := 7, own := true }) .engine) ∧
          (∀ ecdh, u.partOf c.cid 7 = some ecdh →
            (u.partOf c.cid 3 = none → u.skeRoom true = true →
              run (u.submitSke { blobJob c 0 x.wg (hybridKek kem ecdh (p.item 0)) (body.drop 1185) with
                part := 3, own := true }) .engine) ∧
            (∀ blob, u.partOf c.cid 3 = some blob → kept u blob))))) ∧
    (c.alg = 0 → c.param = 0 → p.outLen = 0 → p.inp = [] → p.aux.length ≤ 1 → allZero (slice (p.item 0) 1 7) = true →
      (le (p.item 0) 0 1 = 1 ∧ (p.item 0).length = 8 ∨ le (p.item 0) 0 1 = 2 ∧ (p.item 0).length = 1289) →
      let run := Runs (.keyExport m) 0x0203 m s u c
      Opens run u c (fun v h k => bitOf h.usage uExport = true →
        let attr := (exportAttr h k).bytes
        (∀ x, le (p.item 0) 0 1 = 1 → v.kek c uWrap = .ok x →
          (v.partOf c.cid 3 = none → v.skeRoom true = true →
            run (v.submitSke { blobJob c 1 x.wg [] (attr ++ k) with part := 3, own := true }) .engine) ∧
          (∀ out, v.partOf c.cid 3 = some out → run v (.resp ⟨St.ok, 0, 0, 0, c.hamper, 0, out⟩))) ∧
        (∀ w x, le (p.item 0) 0 1 = 2 → v.partOf c.cid 5 = none → v.partOf c.cid 3 = none →
          v.hybridStart (slice (p.item 0) 8 1184) (slice (p.item 0) 1192 97) attr = (w, .ok x) → w.partOf c.cid 3 = none →
          (w.setPart c.cid 5 x).skeRoom true = true →
          run ((w.setPart c.cid 5 x).submitSke { blobJob c 1 sealedWg (x.drop 1185) (attr ++ k) with part := 3, own := true })
            .engine) ∧
        (∀ x out, le (p.item 0) 0 1 = 2 → v.partOf c.cid 5 = some x → v.partOf c.cid 3 = some out →
          run (v.setPart c.cid 5 x) (.resp ⟨St.ok, 0, 0, 0, c.hamper, 0, x.take 1185 ++ out⟩)))) ∧
    (∀ a v h x, deriveLengths c p = none → u.attrItem (p.item 0) 1 = .ok a → a.size = p.outLen → u.gotOf c.cid = none →
      u.destGate c = none → u.keyFor c uDerive (algType 0x3C) = (v, .ok (h, x)) → exportBlocked c x.usage = false →
      v.skeRoom (c.param % 4 = 1) = true →
      Runs (.keyDerive m) 0x0204 m s u c (v.submitSke { Job.of c true 0x3C (skeCost 0x3C x.keyLen true p.outLen) with
        wg := x.wg, slots := [h], own := c.param % 4 = 1, aad := p.item 1, extra := p.item 2, iv := p.item 3
        outLen := p.outLen }) .engine) ∧
    (∀ v typ curve k slots, bareRefusal c = none → u.namedKey c = (v, .ok (typ, curve, k, slots)) → 0x10 ≤ typ →
      let run := Runs (.keyPublicGet m) 0x0205 m s u c
      (∀ prog, publicProgram typ = some prog → v.handleRefusal (handlesOf typ curve []) = none →
        (v.gotOf c.cid = none → v.hasProgram prog = true →
          run (v.submitPke (v.withCurves { Job.of c false prog (runTime v prog curve (setOf c.param) 0 0) with
            curve := curve, param := c.param, priv := true, slots := slots, key := if slots = [] then k else [] } [curve])) .engine) ∧
        (∀ y, v.gotOf c.cid = some y → run v (.resp ⟨y.status, y.reason, 0, y.info, c.hamper, y.key, y.out⟩))) ∧
      (publicProgram typ = none →
        run v (.resp ⟨St.ok, 0, 0, 0, c.hamper, c.key, publicKey v typ curve c.param k⟩)))

/-! ### Group 0x03: using keys -/

/-- SIGN and VERIFY (R146, R147, R151, R162): in their form, with a key that its slot or large hamper grants and curves that hold, each
hands one job to the public-key engine; a signature under a slot carries the slot, one under a large hamper the key. A key that does
not serve, or has still to be unwrapped, ends the command as its check says; what the job yields is the answer. -/
def Obligations.SignatureCommands : Prop :=
  ∀ (m : Msg) (s u : State) (c : Msg),
    let signs := Runs (.sign m) 0x0301 m s u c
    let verifies := Runs (.verify m) 0x0302 m s u c
    (∀ y, u.gotOf c.cid = some y → signs u (y.answer c.usedHamper) ∧ verifies u (y.answer 0)) ∧
    (∀ p, u.gotOf c.cid = none → partsOf c = .ok p → p.outLen = 0 → signFlagsOk c c.alg = true → u.hasProgram c.alg = true →
      signInputOk c c.alg p.inp.length = true →
      (signParamOk c.alg c.param = true → contextOk c.alg (p.item 0).length = true → p.aux.length ≤ 1 →
        (c.alg ∈ [0x01, 0x08, 0x0C, 0x31] →
          (∀ v h x, u.keyFor c uSign (· == signType c.alg) = (v, .ok (h, x)) → v.handleRefusal (handlesOf x.typ x.curve []) = none →
            signs (v.submitPke (v.withCurves { Job.ofSlot c c.alg (runTime v c.alg x.curve (setOf c.param) p.inp.length 0) h x with
              param := c.signParam, draws := c.alg = 0x01 ∨ (c.alg = 0x31 ∧ !c.deterministic), extra := p.item 0, data := p.inp }
                [x.curve])) .engine) ∧
          (∀ v e, u.keyFor c uSign (· == signType c.alg) = (v, .error e) → signs v e)) ∧
        (∀ v h k, c.alg = 0x18 → u.largeKey c uSign 0x40 = (v, .ok (h, k)) →
          signs (v.submitPke { Job.ofLarge c 0x18 (runTime v 0x18 0 (le k 0 2) 0 0) h k with extra := p.item 0, data := p.inp })
            .engine) ∧
        (∀ v h k cs, c.alg = 0x38 → u.largeKey c uSign 0x42 = (v, .ok (h, k)) → cs = (componentsOf k).getD [] →
          v.handleRefusal (handlesOf 0x42 0 k) = none → cs.all (componentParamOk c) = true →
          cs.all (componentInputOk c p.inp.length) = true →
          signs (v.submitPke (v.withCurves { Job.ofLarge c 0x38 (compositeTime v c true cs p.inp.length) h k with
            draws := true, extra := p.item 0, data := p.inp } (handlesOf 0x42 0 k))) .engine) ∧
        (∀ v e, (c.alg = 0x18 ∨ c.alg = 0x38) → u.largeKey c uSign (if c.alg = 0x18 then 0x40 else 0x42) = (v, .error e) →
          signs v e)) ∧
      (∀ e, c.alg ∈ [0x02, 0x09, 0x0D, 0x19, 0x32] → (if c.alg = 0x02 then u.curve (c.param % 256) else .ok p256) = .ok e →
        (if c.alg = 0x02 then c.param < 256 else signParamOk c.alg c.param = true) →
        verifyLengths c e (p.item 0).length (p.item 1).length = none → contextOk c.alg (p.item 2).length = true → p.aux.length ≤ 3 →
        verifies (u.submitPke { Job.of c false c.alg (runTime u c.alg (c.param % 256)
            (if c.alg = 0x19 then 8 * (p.item 1).length else setOf c.param) p.inp.length
            (bitLen (ofBe ((p.item 0).drop (p.item 1).length)))) with
          curve := if c.alg = 0x02 then c.param % 256 else 0, param := if c.alg = 0x02 then 0 else c.signParam
          curves := [(c.param % 256, e)], aad := p.item 0, tag := p.item 1, extra := p.item 2, data := p.inp }) .engine))

/-- ENCRYPT and DECRYPT (R177 to R182): a cipher in its form goes to the symmetric engine under one slot, AES-XTS under two of one
TYPE; RSA goes to the public-key engine, decryption with the key of a large hamper. A key that does not serve, or has still to be
unwrapped, ends the command as its check says; what the engine yields is the answer. -/
def Obligations.CipherCommands : Prop :=
  ∀ (m : Msg) (s u : State) (c : Msg),
    let ends (enc : Bool) := Runs (if enc then .encrypt m else .decrypt m) (if enc then 0x0303 else 0x0304) m s u c
    (∀ enc y, u.gotOf c.cid = some y → ends enc u (y.answer c.usedHamper)) ∧
    (∀ p, u.gotOf c.cid = none → partsOf c = .ok p → p.outLen = 0 →
      (∀ (enc : Bool) l use, c.alg ≠ 0x1A → c.alg ≠ 0x1B → use = (if enc then uEncrypt else uDecrypt) →
        l = (⟨p.inp.length, (p.item 0).length, (p.item 1).length, if enc then c.param % 32 else (p.item 2).length, 0, 0⟩ : Lens) →
        cipherReason c.alg enc l = none → (if enc then c.param < 32 else c.param = 0 ∨ c.param = (p.item 2).length) →
        (if enc then p.item 2 = [] ∧ p.aux.length ≤ 3 else p.item 3 = [] ∧ p.aux.length ≤ 4) →
        (enc = true → deviceIv c.alg = true → p.item 1 = []) →
        (∀ v h x cost, u.keyFor c use (fun typ => c.alg == 0x06 || algType c.alg typ) = (v, .ok (h, x)) → v.skeRoom false = true →
          cost = skeCost c.alg x.keyLen enc (p.inp.length + (p.item 0).length) →
          (c.alg ≠ 0x06 → ends enc (v.submitSke { Job.of c true c.alg cost with
            wg := x.wg, slots := [h], aad := p.item 0, iv := p.item 1, tag := p.item 2, data := p.inp }) .engine) ∧
          (∀ j y, c.alg = 0x06 → v.handleCheck c.inst c.key2 use = .ok (j, y) → algType 0x06 x.typ = true → y.typ = x.typ →
            ends enc (v.submitSke { Job.of c true c.alg cost with
              wg := x.wg, slots := [h, c.key2], aad := p.item 0, iv := p.item 1, tag := p.item 2, data := p.inp }) .engine)) ∧
        (∀ v e, u.keyFor c use (fun typ => c.alg == 0x06 || algType c.alg typ) = (v, .error e) → ends enc v e)) ∧
      (∀ n, c.alg = 0x1B → u.hasProgram 0x1B = true → n = rsaModBytes (p.item 1).length → c.param < 3 →
        p.item 0 = [] → 256 ≤ n → n ≤ 1024 → (p.item 2).length ≤ 256 → p.aux.length ≤ 3 → p.inp.length ≤ oaepMax n c.param →
        ends true (u.submitPke { Job.of c false 0x1B (runTime u 0x1B 0 (8 * n) 0 (bitLen (ofBe ((p.item 1).drop n)))) with
          param := c.param, draws := true, aad := p.item 1, extra := p.item 2, data := p.inp, outLen := n }) .engine) ∧
      (c.alg = 0x1A → u.hasProgram 0x1A = true → c.param < 3 → p.item 0 = [] → p.item 1 = [] → p.item 2 = [] →
        (p.item 3).length ≤ 256 → p.aux.length ≤ 4 →
        (∀ v h k, u.largeKey c uDecrypt 0x40 = (v, .ok (h, k)) → p.inp.length = le k 0 2 / 8 →
          ends false (v.submitPke { Job.ofLarge c 0x1A (runTime v 0x1A 0 (le k 0 2) 0 0) h k with
            extra := p.item 3, data := p.inp }) .engine) ∧
        (∀ v e, u.largeKey c uDecrypt 0x40 = (v, .error e) → ends false v e)))

/-- MAC_GENERATE, MAC_VERIFY, HASH, WRAP and UNWRAP (Table SY.1, R182): in their form, each hands one job to the symmetric engine,
under the slot of its key where it takes one. A key that does not serve, or has still to be unwrapped, ends the command as its check
says; what the engine yields is the answer. That PARAM 0 of MAC_GENERATE asks for an HMAC's full length, and a KMAC key below 16 bytes
is refused as KEY_USAGE, is the model's choice (log entry 112). -/
def Obligations.MacHashWrapCommands : Prop :=
  ∀ (m : Msg) (s u : State) (c : Msg),
    let generates := Runs (.macGenerate m) 0x0305 m s u c
    let verifies := Runs (.macVerify m) 0x0306 m s u c
    let wraps (w : Bool) := Runs (if w then .wrap m else .unwrap m) (if w then 0x0308 else 0x0309) m s u c
    (∀ y, u.gotOf c.cid = some y → generates u (y.answer c.usedHamper) ∧ verifies u (y.answer c.usedHamper) ∧
      Runs (.hash m) 0x0307 m s u c u (y.answer 0) ∧ ∀ w, wraps w u (y.answer c.usedHamper)) ∧
    (∀ p, u.gotOf c.cid = none → partsOf c = .ok p →
      (∀ (kmac : Bool), kmac = (c.alg == 0x38 || c.alg == 0x39) → (if kmac then c.param = 0 else p.outLen = 0 ∧ c.param < 32) →
        macOk c.alg ⟨0, 0, 0, if kmac then p.outLen else if c.param = 0 then digestLen c.alg else c.param, 0, 0⟩ = true →
        macOk c.alg ⟨0, 0, 0, 16, 0, (p.item 0).length⟩ = true → macOk c.alg ⟨p.inp.length, 0, 0, 16, 0, 0⟩ = true →
        p.aux.length ≤ 1 →
        (∀ v h x, u.keyFor c uMacGen (algType c.alg) = (v, .ok (h, x)) → (kmac = true → 16 ≤ x.keyLen) → v.skeRoom false = true →
          generates (v.submitSke { Job.of c true c.alg (skeCost c.alg x.keyLen true p.inp.length) with
            wg := x.wg, slots := [h], tag := [], extra := p.item 0, data := p.inp, outLen := p.outLen }) .engine) ∧
        (∀ v e, u.keyFor c uMacGen (algType c.alg) = (v, .error e) → generates v e)) ∧
      (c.param = 0 → p.outLen = 0 → macOk c.alg ⟨0, 0, 0, 16, 0, 0⟩ = true →
        macOk c.alg ⟨0, 0, 0, (p.item 0).length, 0, 0⟩ = true → macOk c.alg ⟨0, 0, 0, 16, 0, (p.item 1).length⟩ = true →
        macOk c.alg ⟨p.inp.length, 0, 0, 16, 0, 0⟩ = true → p.aux.length ≤ 2 →
        (∀ v h x, u.keyFor c uMacVer (algType c.alg) = (v, .ok (h, x)) → (c.alg = 0x38 ∨ c.alg = 0x39 → 16 ≤ x.keyLen) →
          v.skeRoom false = true →
          verifies (v.submitSke { Job.of c true c.alg (skeCost c.alg x.keyLen true p.inp.length) with
            wg := x.wg, slots := [h], tag := p.item 0, extra := p.item 1, data := p.inp, outLen := p.outLen }) .engine) ∧
        (∀ v e, u.keyFor c uMacVer (algType c.alg) = (v, .error e) → verifies v e)) ∧
      (c.param = 0 → p.aux = [] → hashOk c.alg ⟨0, 0, 0, 0, p.outLen, 0⟩ = true →
        hashOk c.alg ⟨p.inp.length, 0, 0, 0, p.outLen, 0⟩ = true → u.skeRoom false = true →
        Runs (.hash m) 0x0307 m s u c (u.submitSke { Job.of c true c.alg (skeCost c.alg 0 true p.inp.length) with
          data := p.inp, outLen := p.outLen }) .engine) ∧
      (∀ (w : Bool), (c.alg = 0x07 ∨ c.alg = 0x08) → c.param = 0 → p.outLen = 0 → p.aux = [] → wrapOk c.alg w p.inp.length = true →
        (∀ v h x, u.keyFor c (if w then uWrap else uUnwrap) (algType c.alg) = (v, .ok (h, x)) → v.skeRoom false = true →
          wraps w (v.submitSke { Job.of c true c.alg (skeCost c.alg x.keyLen w p.inp.length) with
            wg := x.wg, slots := [h], data := p.inp }) .engine) ∧
        (∀ v e, u.keyFor c (if w then uWrap else uUnwrap) (algType c.alg) = (v, .error e) → wraps w v e)))

/-- AGREE (R146, R150), ENCAPSULATE and DECAPSULATE (R163, R151), with a DEST that R234 grants, which must serve before the engine is
asked (R478). The secret that the job yields goes where DEST says: into a slot, into a new hamper, or wrapped to the host; a
rejected input gives zeros in place of a result (R162). -/
def Obligations.SecretCommands : Prop :=
  ∀ (m : Msg) (s u : State) (c : Msg) (p : Parts) (a : Option Attr), partsOf c = .ok p → p.outLen = 0 → p.aux.length ≤ 2 →
    p.inp = [] → u.destBlock c (p.item 1) 2 = .ok a → u.hasProgram c.alg = true → c.param % 4 ≠ 3 →
    let agrees := Runs (.agree m) 0x030A m s u c
    let encapsulates := Runs (.encapsulate m) 0x030B m s u c
    let decapsulates := Runs (.decapsulate m) 0x030C m s u c
    let form (run : State → Answer → Prop) : Prop := c.alg ∈ [0x04, 0x10, 0x11, 0x20] ∧ c.param < 4 ∧ run = agrees
      ∨ c.alg = 0x29 ∧ kemParamOk c.param = true ∧ (p.item 0).length = kemEk (setOf c.param) ∧ run = encapsulates
      ∨ (c.alg = 0x2A ∨ c.alg = 0x39) ∧ kemParamOk c.param = true ∧ run = decapsulates
    (∀ run y, form run → u.gotOf c.cid = some y →
      (∀ wg b v h, y.status = St.ok → c.param % 4 = 0 → u.tenantRefusal c.tenant false = none →
        (u.tenant c.tenant).bind (fun t => t.topWg) = some wg → b = a.getD ⟨6, 0, 2 ^ uDerive, y.secret.length, 0, 0, 0, 0⟩ →
        y.secret ≠ [] → y.secret.length ≤ 128 →
        (a ≠ none → keyLenOk u b.typ b.curve y.secret.length = true ∧ keyValid u b.typ b.curve y.secret = true) →
        u.get R.mpcWorldStatusKeysLocked = 0 → u.slotsReady = true →
        u.loadSlot c.inst ⟨c.tenant, b.typ, b.curve, b.usage, if b.sealed then sealedWg else wg, b.pin, b.sealed, y.secret, 0, 0,
          b.label, 0⟩ = .ok (v, h) → run v (.resp ⟨St.ok, 0, 0, 0, 0, h, y.out⟩)) ∧
      (∀ b, y.status = St.ok → c.param % 4 = 1 → a = some b → keyLenOk u b.typ b.curve y.secret.length = true →
        keyValid u b.typ b.curve y.secret = true → KeepsKey run u c b y.secret y.out) ∧
      (∀ x, y.status = St.ok → c.param % 4 = 2 → u.kek c uWrap = .ok x → x.tenant = c.tenant →
        (u.partOf c.cid 3 = none → u.skeRoom true = true →
          run (u.submitSke { blobJob c 1 x.wg [] y.secret with part := 3, own := true }) .engine) ∧
        (∀ out, u.partOf c.cid 3 = some out → run u (.okay (y.out ++ out)))) ∧
      (y.status ≠ St.ok → run u (.resp ⟨y.status, y.reason, 0, y.info, c.usedHamper, y.key, y.out ++
        if c.param % 4 = 2 then List.replicate (8 * ((y.secret.length + 7) / 8) + 8) 0 else []⟩))) ∧
    (u.gotOf c.cid = none → (c.param % 4 = 1 → u.storeGate true = none) →
      (c.alg ∈ [0x04, 0x10, 0x11] → c.param < 4 →
        let typ := if c.alg = 0x04 then 0x10 else if c.alg = 0x10 then 0x13 else 0x14
        (∀ v h x e, u.keyFor c uAgree (· == typ) = (v, .ok (h, x)) → (if c.alg = 0x04 then v.curve x.curve else .ok p256) = .ok e →
          (p.item 0).length = (if c.alg = 0x04 then 1 + 2 * e.plen else if c.alg = 0x10 then 32 else 56) →
          exportBlocked c x.usage = false →
          agrees (v.submitPke { Job.ofSlot c c.alg (runTime v c.alg x.curve 0 0 0) h x with
            param := 0, curves := [(x.curve, e)], aad := p.item 0 }) .engine) ∧
        (∀ v e, u.keyFor c uAgree (· == typ) = (v, .error e) → agrees v e)) ∧
      (c.alg = 0x20 → c.param < 4 →
        (∀ v h k, u.largeKey c uAgree 0x41 = (v, .ok (h, k)) → (p.item 0).length = le k 0 2 / 8 → exportBlocked c h.usage = false →
          agrees (v.submitPke { Job.ofLarge c 0x20 (runTime v 0x20 0 (le k 0 2) (le k 4 2) (le k 2 2)) h k with
            aad := p.item 0 }) .engine) ∧
        (∀ v e, u.largeKey c uAgree 0x41 = (v, .error e) → agrees v e)) ∧
      (c.alg = 0x29 → kemParamOk c.param = true → (p.item 0).length = kemEk (setOf c.param) →
        encapsulates (u.submitPke { Job.of c false 0x29 (runTime u 0x29 0 (setOf c.param) 0 0) with
          param := c.param, draws := true, aad := p.item 0 }) .engine) ∧
      (c.alg = 0x2A → kemParamOk c.param = true → (p.item 0).length = kemCt (setOf c.param) →
        (∀ v h x, u.keyFor c uDecaps (· == 0x20) = (v, .ok (h, x)) → exportBlocked c x.usage = false →
          decapsulates (v.submitPke { Job.ofSlot c 0x2A (runTime v 0x2A 0 (setOf c.param) 0 0) h x with aad := p.item 0 }) .engine) ∧
        (∀ v e, u.keyFor c uDecaps (· == 0x20) = (v, .error e) → decapsulates v e)) ∧
      (c.alg = 0x39 → kemParamOk c.param = true →
        (∀ v h k cs, u.largeKey c uDecaps 0x42 = (v, .ok (h, k)) → cs = (componentsOf k).getD [] →
          v.handleRefusal (handlesOf 0x42 0 k) = none → peersOk v c cs (p.item 0) = true → exportBlocked c h.usage = false →
          decapsulates (v.submitPke (v.withCurves { Job.ofLarge c 0x39 (compositeTime v c false cs 0) h k with aad := p.item 0 }
            (handlesOf 0x42 0 k))) .engine) ∧
        (∀ v e, u.largeKey c uDecaps 0x42 = (v, .error e) → decapsulates v e)))

/-- ARITHMETIC_RUN (R157, R158) hands its job to the public-key engine and answers what it yields; RANDOM_GENERATE (R210) answers
OUT_LEN bytes of one draw; where the two paths of the AES core disagree in it, the draw is withheld: the DRBG stops and the fault is
SEVERE before the command meets its checks (R214, log entry 114). -/
def Obligations.ArithmeticAndRandom : Prop :=
  ∀ (m : Msg) (s u : State) (c : Msg),
    (∀ y, u.gotOf c.cid = some y → Runs (.arithmeticRun m) 0x030D m s u c u (y.answer 0)) ∧
    (∀ p w, u.gotOf c.cid = none → partsOf c = .ok p → w = c.param % 256 → 2 ≤ w → w ≤ 128 → c.alg ∈ [0x40, 0x41, 0x42, 0x43, 0x44] →
      u.hasProgram c.alg = true → arithLengths c p = none → modulusOk w (ofBe (p.item 0)) = true →
      Runs (.arithmeticRun m) 0x030D m s u c (u.submitPke { Job.of c false c.alg (runTime u c.alg 0 w 0 (8 * (p.item 2).length)) with
        param := w, key2 := p.item 0, data := p.item 1, extra := p.item 2, outLen := 8 * w }) .engine) ∧
    (∀ p, partsOf c = .ok p → c.alg = 0 → c.param = 0 → 1 ≤ p.outLen → p.outLen ≤ 4096 → p.aux = [] → p.inp = [] →
      u.canDraw = true → Runs (.randomGenerate m true) 0x030E m s u c (u.draw p.outLen).1 (.okay (u.draw p.outLen).2)) ∧
    (s.trngRuns = true → exec (.randomGenerate m false) s = exec (.randomGenerate m true)
      ((if s.drbgUp then s.stopDrbg else s).report (plainFault 4 (locM 4 17 5) 9 0)))

/-! ### Registers -/

/-- Reading a register (R41, R42, R43): a 32-bit word is read; the low half of a 64-bit register is read and its high half kept
for this requester; the high half comes from what was kept; an 8-byte read takes both. What the requester's last half access had
left is gone in every case. -/
def Obligations.RegisterReads : Prop :=
  ∀ (s : State) (r : Requester) (off : Nat), assigned off = true →
    let t := s.noHalf r
    let answer (w : State) (n v : Nat) : State := w.answerRead r (0x30000000 + off) [] (leBytes n v) false
    (s.reaches r .read off 4 → isWide off = false → (off % 8 = 4 → isWide (off - 4) = false) →
      exec (.lowHalfRead r off 4) s = .next (answer t 4 (t.word r off))) ∧
    (∀ v, s.reaches r .read off 4 → isWide off = true → off ≠ 0x90060 → v = t.word r off + 2 ^ 32 * t.word r (off + 4) →
      exec (.lowHalfRead r off 4) s = .next (answer
        { t with iface.halves := store t.iface.halves (halfKey r) (.readLatch off (v / 2 ^ 32)) } 4 (v % 2 ^ 32))) ∧
    (∀ h, s.reaches r .read off 4 → isWide off = false → off % 8 = 4 → isWide (off - 4) = true →
      look s.iface.halves (halfKey r) = some (.readLatch (off - 4) h) →
      exec (.lowHalfRead r off 4) s = .next (answer t 4 h)) ∧
    (s.reaches r .read off 8 → isWide off = true → assigned (off + 4) = true → off ≠ 0x90060 →
      exec (.lowHalfRead r off 8) s = .next (answer t 8 (t.word r off + 2 ^ 32 * t.word r (off + 4))))

/-- Reading TRNG_DATA (R217): while the DRBG serves and a word is ready, the whole register or its low half takes one word, and
shows it as valid; the low half keeps the high half for this requester, whose read takes no second word; TRNG_DATA_VALID says
whether the last read took a word. An empty read gives 0, and is recorded. -/
def Obligations.RandomWords : Prop :=
  ∀ (s : State) (r : Requester),
    let t := s.noHalf r
    let taken (rest : List Bytes) : State :=
      { t with trng.fifo := rest, trng.valid := store t.trng.valid (halfKey r) 1 }.fillFifo
    (∀ w rest, s.reaches r .read 0x90060 8 → s.drbgUp = true → s.trng.fifo = w :: rest →
      exec (.trngDataRead r 0 true) s = .next ((taken rest).answerRead r 0x30090060 [] (leBytes 8 (ofLe w)) false)) ∧
    (∀ w rest, s.reaches r .read 0x90060 4 → s.drbgUp = true → s.trng.fifo = w :: rest →
      exec (.trngDataRead r 1 true) s = .next ({ taken rest with
        iface.halves := store (taken rest).iface.halves (halfKey r) (.readLatch 0x90060 (ofLe w / 2 ^ 32)) }.answerRead r 0x30090060 []
        (leBytes 4 (ofLe w % 2 ^ 32)) false)) ∧
    (∀ h, s.reaches r .read 0x90064 4 → look s.iface.halves (halfKey r) = some (.readLatch 0x90060 h) →
      exec (.trngDataRead r 2 true) s = .next (t.answerRead r 0x30090064 [] (leBytes 4 h) false)) ∧
    (s.reaches r .read 0x90068 4 → s.get R.ferryStatusRole ≠ 2 →
      exec (.trngDataRead r 3 true) s = .next (t.answerRead r 0x30090068 [] (leBytes 4 (lookD s.trng.valid (halfKey r) 0)) false)) ∧
    (s.reaches r .read 0x90060 8 → s.drbgUp = true → s.trng.fifo = [] →
      exec (.trngDataRead r 0 true) s = .next ((t.emptyRead r).answerRead r 0x30090060 [] (leBytes 8 0) false)) ∧
    (∀ part w, exec (.trngDataRead r part true) s = .next w → w.trngRuns = true →
      exec (.trngDataRead r part false) s = .next ((if w.drbgUp then w.stopDrbg else w).report (plainFault 4 (locM 4 17 5) 9 0)))

/-- Writing a register (R11, R43, R53, R60, R61): a write that the requester may not make is DENIED; one plain field takes its
bits; one shadowed field takes them in its shadow, and its active value stands; a shadow frozen by a pending commit keeps its
value, and the write is recorded. The low half of a 64-bit register is held and changes nothing until its high half is
written, with which it is written at once. -/
def Obligations.RegisterWrites : Prop :=
  ∀ (s : State) (r : Requester) (off v : Nat) (x : Row × Fld),
    let t := s.noHalf r
    (s.writes32 r off → writeGate r (fieldsOf off) = .denied →
      exec (.registerWrite r off 4 v true) s = .next (t.accessErr r 4 off true)) ∧
    (s.writes32 r off → actsWhenWritten off = false → fieldsOf off = [x] → fieldOpen r x = true → x.1.cls ≠ .idleOnly →
      (x.1.acc = .rw →
        exec (.registerWrite r off 4 v true) s
          = .next (t.put x.2 (merge x.2 (s.get x.2) (8 * (off - x.2.off)) 32 (v % 2 ^ 32)))) ∧
      (x.1.acc = .rws → bitOf (s.get (R.hdrCommitPending (blockOf x.2.off))) (groupAt x) = false →
        exec (.registerWrite r off 4 v true) s = .next { t with
          iface.shadows := store s.iface.shadows x.2.key (merge x.2 (s.shadowOf x.2) (8 * (off - x.2.off)) 32 (v % 2 ^ 32)) }) ∧
      (x.1.acc = .rws → bitOf (s.get (R.hdrCommitPending (blockOf x.2.off))) (groupAt x) = true →
        exec (.registerWrite r off 4 v true) s = .next (t.blockErr (blockOf off) off true))) ∧
    (s.reaches r .write off 4 → assigned off = true → isWide off = true → writeGate r (rowsAt off) = .pass →
      exec (.lowHalfWrite r off v) s
        = .next { t with iface.halves := store t.iface.halves (halfKey r) (.heldWrite off (v % 2 ^ 32)) }) ∧
    (∀ low, s.reaches r .write off 4 → assigned off = true → isWide off = false → off % 8 = 4 → isWide (off - 4) = true →
      look s.iface.halves (halfKey r) = some (.heldWrite (off - 4) low) → writeGate r (rowsAt (off - 4)) = .pass → off ≠ 0x5004C →
      look s.iface.pwBusy (off - 4) = none → look s.iface.pwBusy off = none →
      exec (.registerWrite r off 4 v true) s
        = .next (t.writeFields r (rowsAt (off - 4)) (off - 4) 64 (low + v % 2 ^ 32 * 2 ^ 32)))

/-- A status that clears by its sequence number (R58): written with the number it now holds, and not 0, it lets its event go, and
its other fields read 0 (the model's reading of "released"; log entry 52); any other value changes nothing. -/
def Obligations.SequenceClears : Prop :=
  ∀ (s : State) (r : Requester) (off v : Nat),
    let t := s.noHalf r
    s.writes32 r off → writeGate r (fieldsOf off) = .pass → (rowsAt off).any (fun x => x.1.acc == .sqc) = true →
      off ∉ [0x2008C, 0x20084, 0x20098, 0x30120, 0xC0044, 0xC0048, 0xC0070, 0x50050, 0x50140, 0xA0068, 0xA007C] →
      off ≠ blockOf off + 4 → off ≠ blockOf off + 0xC →
      nthReg off 0x7010C 0x10 16 = none → nthReg off 0x8010C 0x10 8 = none → nthReg off 0x90108 0x10 5 = none →
      nthReg off 0xF0104 4 63 = none →
      (v % 65536 ≠ 0 → v % 65536 = s.get ⟨off, 0, 16, 0⟩ → off ∈ s.iface.sqcHeld →
        exec (.sqcClear r off v) s = .next ((rowsAt off).foldl (fun w x => if x.1.acc = .sqc ∧ x.2.lsb ≠ 0 then w.put x.2 0 else w)
          { t with iface.sqcHeld := s.iface.sqcHeld.filter (· != off) })) ∧
      ((v % 65536 = 0 ∨ v % 65536 ≠ s.get ⟨off, 0, 16, 0⟩ ∨ off ∉ s.iface.sqcHeld) → exec (.sqcClear r off v) s = .next t)

/-- Posted writes (R56, R57): a write sets BUSY and its value is in flight; one that finds BUSY set is dropped as an overrun; when
it lands BUSY falls and the register takes the value, or, lost by a region reset, nothing changes. -/
def Obligations.PostedWrites : Prop :=
  ∀ (s : State) (r : Requester) (off v : Nat),
    let t := s.noHalf r
    (reqIsHost r = true → s.hostThere r.sub = true ∧ r.sub = 0) → s.judge r .write (0x30000000 + off) = .allow → off % 4 = 0 →
      isSlow off = true → assigned off = true → s.blockOut off true = false →
      (look s.iface.pwBusy off = none → writeGate r (fieldsOf off) = .pass →
        exec (.pwWrite r off v) s = .next { t with iface.pwBusy := store s.iface.pwBusy off (v % 2 ^ 31, r) }) ∧
      (look s.iface.pwBusy off ≠ none → exec (.pwWrite r off v) s = .next (t.accessErr r 6 off true)) ∧
      (look s.iface.pwBusy off = some (v, r) → v < 2 ^ 32 →
        exec (.pwWriteLanded off) s
          = .next (({ s with iface.pwBusy := drop s.iface.pwBusy off }).writeFields r (fieldsOf off) off 31 v)) ∧
      (look s.iface.pwBusy off = none → exec (.pwWriteLanded off) s = .next s)

/-! ### Control of blocks, checkers and engines -/

/-- QUIESCE and QUIESCED (R55): a custody pair sets or clears QUIESCE; QENG's also closes the store's open batch (R124); QUIESCED
rises once the block has come to its safe boundary, and falls with QUIESCE, when work held back goes on. With a live update or a
transition waiting, the queues quiesced are its switch or its burns (Table KH.7 step 6, Table LC.4 step 4). -/
def Obligations.BlockControl : Prop :=
  ∀ (s : State) (r : Requester) (base : Nat), base ∈ blockBases → writesAt r base = true →
    let t := s.noHalf r
    (s.writes32 r (base + 4) →
      exec (.quiesce r base true) s = .next (let u := t.put (R.hdrCtrlQuiesce base) 1; if base = 0x50000 then u.closeBatch else u)) ∧
    (s.writes32 r (base + 4) →
      exec (.quiesce r base false) s = .next (let u := (t.put (R.hdrCtrlQuiesce base) 0).put (R.hdrStateQuiesced base) 0
        (if base = 0xF0000 then u.sendAllQueued else u).onward)) ∧
    ((base ≠ 0x50000 ∨ s.life.updating = none) →
      (s.get (R.hdrCtrlQuiesce base) = 1 → s.blockOut base true = false →
        exec (.quiesced base) s = .next (s.put (R.hdrStateQuiesced base) 1)) ∧
      (s.get (R.hdrCtrlQuiesce base) = 0 → exec (.quiesced base) s = .next s)) ∧
    (s.life.updating ≠ none → s.blockOut 0x50000 true = false → exec (.quiesced 0x50000) s =
      .next (if s.get (R.hdrCtrlQuiesce 0x50000) = 1 then s.put (R.hdrStateQuiesced 0x50000) 1 else s).runChange.pump)

/-- Commits of a block with one group (R60, R61): a request makes the group pending; one for a pending group has no further
effect; at the safe boundary the shadows become the active values and the result is 1, or, with a shadow out of range, nothing
is applied and the result is 2 with REASON 1. Compass's commit restarts its run of cycles (Table CT.8). In the PKE and the SKE each
cluster or lane applies at its own boundary, and the commit is applied with the last of them (Table GI.7, log entry 54). -/
def Obligations.Commits : Prop :=
  ∀ (s : State) (r : Requester) (base : Nat), base ∈ [0x40000, 0x70000, 0x80000, 0x90000, 0xA0000, 0xB0000] →
    let t := s.noHalf r
    let pending := bitOf (s.get (R.hdrCommitPending base)) 0
    let all := List.range (if base = 0x70000 then 16 else 8)
    (s.writes32 r (base + 0xC) → writesAt r base = true → pending = false → (base = 0x40000 → s.get R.compassStatusState ≠ 0) →
      exec (.commitRequest r base 1) s = .next (t.putBit (R.hdrCommitPending base) 0 true)) ∧
    (s.writes32 r (base + 0xC) → writesAt r base = true → pending = true → exec (.commitRequest r base 1) s = .next t) ∧
    (pending = true → s.blockOut base true = false → s.outOfRange base = false →
      (base ≠ 0x70000 → base ≠ 0x80000 →
        exec (.commitApply base) s = .next (let u := (s.applyShadows (inBlock base)).commitResult base 0 1 0
          (if base = 0x40000 then u.restartRun else u).onward)) ∧
      (∀ u, base = 0x70000 ∨ base = 0x80000 →
        u = (all.filter (fun n => s.atBoundary base n && !(s.takers base).contains n)).foldl (fun w n => w.setTook base n true) s →
        ((u.takers base).length = all.length →
          exec (.commitApply base) s = .next
            (((all.foldl (fun w n => w.setTook base n false) u).applyShadows (inBlock base)).commitResult base 0 1 0).onward) ∧
        ((u.takers base).length ≠ all.length → exec (.commitApply base) s = .next u.onward))) ∧
    (pending = true → s.blockOut base true = false → s.outOfRange base = true →
      exec (.commitApply base) s = .next (s.commitResult base 0 2 1).onward) ∧
    (pending = false → s.blockOut base true = false → exec (.commitApply base) s = .next s.onward)

/-- Commits of a checker's rules (R325, R333): a request is refused with its REASON, or makes the group pending and starts the
drain; when the drain ends the shadows are the rules, the checker has a new epoch, the commit succeeds, and the accesses held
meanwhile are checked under the new rules in the order they came. A checker whose target is in reset by then reloads (R25, R335). -/
def Obligations.CheckerCommits : Prop :=
  ∀ (s : State) (r : Requester) (c : Nat), c ∈ [0, 1, 2, 4, 5, 6] →
    let t := s.noHalf r
    let asks := s.writes32 r 0xC000C ∧ custodyWriter r = true ∧ bitOf (s.get (R.hdrCommitPending 0xC0000)) c = false
    (∀ why, asks → s.rulesRefusal c = some why →
      exec (.commitRequest r 0xC0000 (2 ^ c)) s = .next (t.commitResult 0xC0000 c 2 why)) ∧
    (asks → s.rulesRefusal c = none →
      exec (.commitRequest r 0xC0000 (2 ^ c)) s
        = .next ((t.putBit (R.hdrCommitPending 0xC0000) c true).put (R.mpcRuleEpochState c) 1)) ∧
    ((s.get (R.mpcRuleEpochState c) = 1 ∨ s.get (R.mpcRuleEpochState c) = 2) →
      let a := s.applyShadows (fun key => decide (0xC1000 + 0x200 * c ≤ key / 64) && decide (key / 64 < 0xC1200 + 0x200 * c))
      let b := (({ a with worlds.ruled := addNew a.worlds.ruled c }.incMod (R.mpcRuleEpochEpoch c) 1).put (R.mpcRuleEpochState c)
        (if s.checkerHeld c then 3 else 0)).commitResult 0xC0000 c 1 0
      exec (.ruleEpochDrainEnd c) s = .next ((s.worlds.held.filter (fun h => h.1 == c)).foldl
        (fun w h => w.fabric h.2.req h.2.kind h.2.addr h.2.len h.2.data)
        { b with worlds.held := b.worlds.held.filter (fun h => h.1 != c) })) ∧
    (s.get (R.mpcRuleEpochState c) = 0 → exec (.ruleEpochDrainEnd c) s = .next s)

/-- Acknowledgments (R290, R379): QENG_EVENT_ACK by the PF clears a pending source, which is pending again where its condition
lasts (Table HQ.9); FAULT_ACK closes a HARD slot, or acknowledges what was recorded of the minor classes, or of SEVERE. -/
def Obligations.Acknowledgments : Prop :=
  ∀ (s : State) (r : Requester) (n : Nat),
    let t := s.noHalf r
    (s.writes32 r 0x50140 → pfWriter r = true → n < 512 → s.eventPending n = true →
      exec (.qengEventAck r n) s = .next (let u := t.putBit (R.qengEventPendingPending (n / 32)) (n % 32) false
        if u.lasting n then u.raise n else u)) ∧
    (s.writes32 r 0x50140 → pfWriter r = true → n < 512 → s.eventPending n = false → exec (.qengEventAck r n) s = .next t) ∧
    (s.writes32 r 0x50140 → pfWriter r = false → exec (.qengEventAck r n) s = .next (t.accessErr r 4 0x50140 true)) ∧
    (s.writes32 r 0x2008C → (custodyWriter r || pfWriter r) = true →
      (n < 16 → exec (.faultAckHard r n) s = .next (t.closeHard n).noteHealth) ∧
      exec (.faultAckMinor r) s = .next { t with fault.unackNote := false, fault.unackSoft := false } ∧
      exec (.faultAckSevere r) s = .next ({ t with fault.unackSevere := false } : State).noteHealth)

/-- The host's store indices (R116, R117, R131): STORE_REQ_CONS lets waiting requests go out as there is room; STORE_RSP_PROD
prompts the device to read; an index that goes backwards or past what there is, is DENIED. -/
def Obligations.StoreIndices : Prop :=
  ∀ (s : State) (v : Nat), v < 65536 →
    let r : Requester := ⟨0x50, 0⟩
    let t := s.noHalf r
    let cons := s.get R.storeReqConsIndex
    (s.writes32 r 0xA0068 → (v + 0x10000 - cons) % 0x10000 ≤ (s.get R.storeReqProdIndex + 0x10000 - cons) % 0x10000 →
      exec (.storeReqConsWrite v) s
        = .next (let u := t.put R.storeReqConsIndex v; u.postAll u.hs.waiting.length).pump) ∧
    (s.writes32 r 0xA0068 → (s.get R.storeReqProdIndex + 0x10000 - cons) % 0x10000 < (v + 0x10000 - cons) % 0x10000 →
      exec (.storeReqConsWrite v) s = .next (t.accessErr r 4 0xA0068 true).pump) ∧
    (s.writes32 r 0xA007C → (v + 0x10000 - s.get R.storeRspConsIndex) % 0x10000 ≤ 2 ^ s.get R.storeRspCfgLog2Size →
      exec (.storeRspProdWrite v) s
        = .next ({ t with hs.stuck := false }.put R.storeRspProdIndex v).askResponse) ∧
    (s.writes32 r 0xA007C → 2 ^ s.get R.storeRspCfgLog2Size < (v + 0x10000 - s.get R.storeRspConsIndex) % 0x10000 →
      exec (.storeRspProdWrite v) s = .next (t.accessErr r 4 0xA007C true))

/-- Gates and fences of PKE clusters and SKE lanes (R173, R174, R198): setting one makes it pending, and it takes effect once no
lease is held; clearing both brings a part that is out back by its load or its self-test, and clearing GATE_REQ of a cluster still
fenced has it load, to be FENCED. A write that changes nothing does nothing; a cluster that Decision 2 or a repair holds goes
FENCED from OFF. The last lane in service cannot be taken out; a RETIRED cluster takes neither. REJOIN lets an ISOLATED lane test
itself. -/
def Obligations.EngineControls : Prop :=
  ∀ (s : State) (r : Requester) (n : Nat) (gate : Bool),
    let t := s.noHalf r
    let may := (reqIsPair r || (gate && reqIsAp r)) = true
    let row (i : Bool → Instr) (g f : Bool → Instr) : Prop := i = if gate then g else f
    let ctrl := if gate then R.pkeClusterCtrlGateReq n else R.pkeClusterCtrlFence n
    let other := if gate then R.pkeClusterCtrlFence n else R.pkeClusterCtrlGateReq n
    let lctrl := if gate then R.skeLaneCtrlGateReq n else R.skeLaneCtrlFence n
    let lother := if gate then R.skeLaneCtrlFence n else R.skeLaneCtrlGateReq n
    (∀ i, row i (.pkeClusterCtrlGateReq r n) (.pkeClusterCtrlFence r n) → n < 16 → may → s.writes32 r (clusterCtrlOff n) →
      (s.clusterState n ≠ 8 → s.is ctrl = false →
        exec (i true) s = .next (((t.put ctrl 1).put (R.pkeClusterStatusGatePending n) 1).settleGate n).onward) ∧
      (s.clusterState n = 0 ∨ s.clusterState n = 7 → s.is ctrl = true → s.is other = false → (s.cluster n).held = false →
        bitOf s.pwr.regionOff (n / 4) = false →
        exec (i false) s = .next (((t.put ctrl 0).put (R.pkeClusterStatusGatePending n) 0).loadCluster n).onward) ∧
      (gate = true → s.clusterState n = 0 → s.is ctrl = true → s.is other = true → (s.cluster n).held = false →
        bitOf s.pwr.regionOff (n / 4) = false →
        exec (i false) s = .next (((t.put ctrl 0).put (R.pkeClusterStatusGatePending n) 1).loadCluster n).onward) ∧
      (s.clusterState n = 0 → s.is ctrl = true → s.is (R.pkeClusterCtrlGateReq n) = gate → (s.cluster n).held = true →
        bitOf s.pwr.regionOff (n / 4) = false →
        exec (i false) s = .next ((t.put ctrl 0).setClusterState n 7).onward) ∧
      (∀ on, s.clusterState n = 8 ∨ s.is ctrl = on → exec (i on) s = .next t.onward)) ∧
    (∀ i, row i (.skeLaneCtrlGateReq r n) (.skeLaneCtrlFence r n) → n < 8 → may → s.writes32 r (laneCtrlOff n) →
      ((s.laneState n ≠ 2 ∧ s.laneState n ≠ 3 ∨ s.lastLane n = false) →
        exec (i true) s = .next (((t.put lctrl 1).put (R.skeLaneStatusGatePending n) 1).settleLane n).onward) ∧
      ((s.laneState n = 2 ∨ s.laneState n = 3) → s.lastLane n = true →
        exec (i true) s = .next (t.blockErr 0x80000 (laneCtrlOff n) false).onward) ∧
      (s.laneState n = 0 → s.get lother ≠ 1 →
        exec (i false) s = .next (((t.put lctrl 0).put (R.skeLaneStatusGatePending n) 0).setLaneState n 1).onward)) ∧
    (n < 8 → reqIsPair r = true → s.writes32 r (laneCtrlOff n) → s.laneState n = 4 →
      exec (.skeLaneCtrlRejoin r n) s = .next (t.put (R.skeLaneCtrlRejoin n) 1).onward)

/-- TRNG_SRC_CTRL (R220 to R223): RECAL takes the source out of service and starts its sweep; ISOLATE isolates it and marks it;
neither takes the last healthy source of N0 to N3. -/
def Obligations.SourceControls : Prop :=
  ∀ (s : State) (r : Requester) (n : Nat), n ≤ 4 → custodyWriter r = true → s.writes32 r (srcCtrlOff n) →
    let t := s.noHalf r
    (s.trngRuns = true → s.get (R.trngSrcStatusState n) ≠ 4 → s.lastSourceN n = false →
      exec (.trngSrcCtrlRecal r n) s = .next (((t.setSource n ⟨false, [], none, (false, 0), (s.source n).isolations, false⟩).put
        (R.trngSrcStatusState n) 4).put (R.trngSrcCtrlRecal n) 1).settleTrng) ∧
    (s.trngRuns = true → s.get (R.trngSrcStatusState n) ≠ 4 → s.lastSourceN n = true →
      exec (.trngSrcCtrlRecal r n) s = .next (t.blockErr 0x90000 (srcCtrlOff n) false)) ∧
    (s.get (R.trngSrcStatusState n) ≠ 3 → s.lastSourceN n = false →
      exec (.trngSrcCtrlIsolate r n) s = .next ((t.isolate n).put (R.trngSrcCtrlIsolate n) 1)) ∧
    (s.get (R.trngSrcStatusState n) ≠ 3 → s.lastSourceN n = true →
      exec (.trngSrcCtrlIsolate r n) s = .next (t.blockErr 0x90000 (srcCtrlOff n) false))

/-- Watchdogs and leases (R340, R341, R344, R346): a fed pair serves; a pair that misses its feed falls out, with a SEVERE fault
while the other serves, and else the secure world hangs; MPC_LEASE_HOLD is written whole and the LEASED bits follow it; a lease
that is not let go within its time is recorded, with a NOTE. -/
def Obligations.WatchdogsAndLeases : Prop :=
  ∀ (s : State) (p v : Nat), p ≤ 1 →
    let r : Requester := ⟨p + 1, 0⟩
    let t := s.noHalf r
    (s.writes32 r 0xC0048 → s.pairRuns p = true →
      exec (.mpcWdogFeed (p + 1)) s = .next ((t.put (pairFld p) 1).setMissed p false).noteHealth) ∧
    (s.is R.keeperTamperStatePurged = false → bitOf s.pwr.regionReset 5 = false → s.life.underway = false → s.is (pairFld p) = true →
      let u := ((s.setMissed p true).put (pairFld p) 0).incSat R.lanternStatusWdogMisses
      exec (.watchdogMiss p) s = .next (if u.is (pairFld (1 - p)) then u.severe (plainFault 4 (locM 5 (18 + p) 0xF) 0x0C 0)
        else (u.regionReset 5).noteHealth).noteHealth) ∧
    (s.writes32 r 0xC0070 → v < 2 ^ 24 →
      let u := (t.put R.mpcLeaseHoldPke (field v 0 16)).put R.mpcLeaseHoldSke (field v 16 8)
      let w := (List.range 16).foldl (fun x n => (x.putB (R.pkeClusterStatusLeased n) (x.pkeLeased n)).settleGate n) u
      exec (.mpcLeaseHoldSet (p + 1) v) s = .next ((List.range 8).foldl (fun x n =>
        (x.putB (R.skeLaneStatusLeased n) (x.skeLeased n)).settleLane n) w).onward) ∧
    (∀ n, n < 16 → s.is (R.pkeClusterStatusGatePending n) = true → exec (.leaseTimeout false n) s = .next
      ((s.sqcEvent R.mpcLeaseEventSeq (fun x => (x.put R.mpcLeaseEventCluster n).put R.mpcLeaseEventUnit 0)).note
        (locM (n / 4) n 0xF) 0x0C 0)) ∧
    (∀ n, n < 8 → s.is (R.skeLaneStatusGatePending n) = true → exec (.leaseTimeout true n) s = .next
      ((s.sqcEvent R.mpcLeaseEventSeq (fun x => (x.put R.mpcLeaseEventCluster 16).put R.mpcLeaseEventUnit n)).note
        (locM 4 16 n) 0x0C 0))

/-! ### Mailboxes, queues and functions -/

/-- Mailboxes (R225 to R227, R50): GO on an IDLE or DONE mailbox takes the snapshot of its header and payload, makes it RUNNING
and runs the command; ACK makes a DONE mailbox IDLE; ABORT ends the command where it has not been dispatched; a write to the area
of a mailbox that runs is dropped with OVERRUN set and DENIED recorded, and any other the function owns lands; CAPTURE latches the
stamp into the function's own latch. Each discards what a half access of the function left (R43). -/
def Obligations.Mailboxes : Prop :=
  ∀ (s : State) (fn box : Nat),
    let t := s.noHalf (requesterOf fn)
    let x := s.noHalf ⟨0x50, fn⟩
    let msg := parseHeader (readBytes s.mem (mboxArea fn box) 64) false fn (mboxOrigin fn box)
      (readBytes s.mem (mboxArea fn box + 64) (min (le (readBytes s.mem (mboxArea fn box) 64) 12 4) 4032))
    let u := ((t.put (mboxState fn box) 1).put (mboxOverrun fn box) 0).take { msg with inst := fn, origin := mboxOrigin fn box }
    (s.mboxThere fn box = true → s.get (mboxState fn box) ≠ 1 → s.get (mboxState fn box) ≠ 3 →
      exec (.go fn box) s = .next (u.1.begin u.2 false).pump) ∧
    (s.mboxThere fn box = true → s.get (mboxState fn box) = 1 → exec (.go fn box) s = .next (t.put (mboxOverrun fn box) 1)) ∧
    (s.mboxThere fn box = true → s.get (mboxState fn box) = 3 →
      exec (.go fn box) s = .next (t.accessErr (requesterOf fn) 4 (doorbellOff fn box) true)) ∧
    (s.mboxThere fn box = true → s.get (mboxState fn box) = 2 → exec (.ack fn box) s = .next (t.put (mboxState fn box) 0)) ∧
    (s.mboxThere fn box = true → s.get (mboxState fn box) ≠ 2 → exec (.ack fn box) s = .next t) ∧
    (∀ cid (c : Cmd), s.mboxThere fn box = true →
      s.host.cmds.find? (fun c => c.2.m.origin == mboxOrigin fn box && c.2.silent.isNone) = some (cid, c) →
      (c.stage = .payload ∨ (c.stage = .route ∧ c.got = none ∧ s.hs.formatting = none) →
        exec (.abort fn box) s = .next (t.complete cid (Resp.of St.cancelled)).pump) ∧
      (c.stage = .held → exec (.abort fn box) s = .next (t.complete cid (Resp.of St.cancelled)).showInbound.pump)) ∧
    (∀ off (bytes : Bytes), fn < 256 → box < (if fn = 0 then 32 else 1) → bytes ≠ [] → off + bytes.length ≤ 4096 →
      s.hostThere fn = true → s.heldBy (mboxArea fn box + off) bytes.length = none →
      s.judge ⟨0x50, fn⟩ .write (mboxArea fn box + off) = .allow →
      (s.get (mboxState fn box) ≠ 1 → exec (.mboxMessageWrite fn box off bytes) s = .next (x.writeMem (mboxArea fn box + off) bytes)) ∧
      (s.get (mboxState fn box) ≠ 1 → exec (.hostMboxPostedWrite fn (mboxArea fn box + off) bytes) s
        = .next (x.writeMem (mboxArea fn box + off) bytes)) ∧
      (s.get (mboxState fn box) = 1 → exec (.mboxMessageWrite fn box off bytes) s = .next ((x.put (mboxOverrun fn box) 1).accessErr
        ⟨0x50, fn⟩ 4 (mboxAreaOff ⟨0x50, fn⟩ fn box off) true))) ∧
    (∀ v, s.hostThere fn = true → bitOf v 0 = true →
      exec (.capture fn v) s = .next { x.stamped with iface.stamps := store x.iface.stamps fn x.stamp })

/-- Doorbells, polls and headers (R39, R49, R277, R278, R282): a doorbell of an enabled queue, or a poll of an enabled SQ, has its
header read, once more where one read is under way; a queue of another function is recorded; a producer index that is in range is
taken and entries are fetched, one out of range puts the queue in ERROR; a CQ header gives room to completions that wait. With the
queue engine absent no header is read. -/
def Obligations.QueueHeaders : Prop :=
  ∀ (s : State) (n fn idx v : Nat) (q : Sq) (c : Cq),
    let x := s.noHalf ⟨0x50, fn⟩
    let askSq (t : State) : State :=
      if q.headerRead then { t with host.sqs := store s.host.sqs n { q with headerAgain := true } }
      else ({ t with host.sqs := store s.host.sqs n { q with headerRead := true } } : State).emit (.headerRead false n)
    let askCq (t : State) : State :=
      if c.headerRead then { t with host.cqs := store s.host.cqs n { c with headerAgain := true } }
      else ({ t with host.cqs := store s.host.cqs n { c with headerRead := true } } : State).emit (.headerRead true n)
    let calm : Sq := { q with headerRead := false, headerAgain := false }
    let calmC : Cq := { c with headerRead := false, headerAgain := false }
    let withSq (m : Amap Sq) : State := { s with host.sqs := m }
    let withCq (c' : Cq) : State := { s with host.cqs := store s.host.cqs n c' }
    let near : Prop := s.hostThere fn = true ∧ idx < (if fn = 0 then 1024 else 256)
    let sqUp : Prop := look s.host.sqs n = some q ∧ s.get (R.qengSqStateState n) = 1 ∧ s.pwr.parts.qeng = false
    let cqUp : Prop := look s.host.cqs n = some c ∧ s.get (R.qengCqStateState n) = 1 ∧ s.pwr.parts.qeng = false
    (near → sqOf s fn idx = some n → sqUp → exec (.sqDoorbell fn idx) s = .next (askSq x)) ∧
    (near → sqOf s fn idx = none → exec (.sqDoorbell fn idx) s = .next (x.accessErr ⟨0x50, fn⟩ 7 (4 * idx) true)) ∧
    (near → cqOf s fn idx = some n → cqUp → exec (.cqDoorbell fn idx) s = .next (askCq x)) ∧
    (near → cqOf s fn idx = none →
      exec (.cqDoorbell fn idx) s = .next (x.accessErr ⟨0x50, fn⟩ 7 ((if fn = 0 then 0x2000 else 0x1000) + 4 * idx) true)) ∧
    (near → s.pwr.parts.qeng = true → (sqOf s fn idx = some n → exec (.sqDoorbell fn idx) s = .next x) ∧
      (cqOf s fn idx = some n → exec (.cqDoorbell fn idx) s = .next x)) ∧
    (sqUp → q.desc.pollMode ≠ 0 → exec (.sqPollTick n) s = .next (askSq s)) ∧
    (sqUp → q.headerRead = true →
      (ringDist q.cons (v % 2 ^ 32) ≤ 2 ^ q.desc.log2 →
        let w := (withSq (store (store s.host.sqs n calm) n { calm with prod := v % 2 ^ 32 })).prefetch n 64
        exec (.sqHeaderRead n (.index v)) s = .next (if q.headerAgain then w.askSqHeader n else w)) ∧
      (2 ^ q.desc.log2 < ringDist q.cons (v % 2 ^ 32) →
        exec (.sqHeaderRead n (.index v)) s = .next ((withSq (store s.host.sqs n calm)).queueError false n 2)) ∧
      exec (.sqHeaderRead n .failed) s = .next ((withSq (store s.host.sqs n calm)).queueError false n 1)) ∧
    (cqUp → ringDist (v % 2 ^ 32) c.prod ≤ 2 ^ c.desc.log2 →
      let w := ((withCq { calmC with cons := v % 2 ^ 32 }).cqHeld n).cqDrain n c.held.length
      exec (.cqRoomPoll n (.index v)) s = .next (if c.headerAgain then w.askCqHeader n else w)) ∧
    (cqUp → 2 ^ c.desc.log2 < ringDist (v % 2 ^ 32) c.prod → exec (.cqRoomPoll n (.index v)) s = .next ((withCq calmC).cqError n 2)) ∧
    (cqUp → exec (.cqRoomPoll n .failed) s = .next ((withCq calmC).cqError n 1))

/-- Messages, arbitration and host reads (R266, R272, R273, R284, R289, R292): the coalescing timer signals what is unsignalled; a
held message goes out once its vector can send, and leaves the PBA; a round counts, takes from the queues in their order and ends at
its boundary, and takes nothing while the queues are quiesced, for a live update too, or the queue engine is absent; the data of a
read goes where it was wanted, and a page-list entry lets its access go on; a read that fails or does not come back ends what it was
for. -/
def Obligations.QueueTraffic : Prop :=
  ∀ (s : State) (n fn : Nat) (c : Cq) (a : Access) (bs : Bytes),
    (look s.host.cqs n = some c → c.timer = true → c.unsignalled ≠ 0 → exec (.coalesceTimer n) s = .next (s.cqSignal n c)) ∧
    (s.host.pba.contains (fn * 2048 + n) = true → s.canSend fn n = true → exec (.msixPendingSend fn n) s
      = .next (({ s with host.pba := s.host.pba.filter (· != fn * 2048 + n) } : State).emit (.msix fn n))) ∧
    (s.dieMRuns = true → bitOf s.pwr.regionReset 6 = false →
      let t := s.incMod R.qengRoundsCount 1
      let off : Prop := s.is (R.hdrCtrlQuiesce 0x50000) = true ∨ s.is (R.hdrCtrlQuiesce 0x60000) = true ∨ s.pwr.parts.qeng = true
        ∨ s.life.updating.isSome = true
      (off → exec .arbitrationRound s = .next (s.roundEnd.afterTake s.host.sqs).pump) ∧
      (¬off → t.order = none → exec .arbitrationRound s = .next (t.roundEnd.afterTake s.host.sqs).pump) ∧
      (∀ n0 order, ¬off → t.order = some (n0, order) → exec .arbitrationRound s
        = .next (((({ t with host.lastStart := n0 } : State).passes order 1 255).roundEnd).afterTake s.host.sqs).pump)) ∧
    (s.host.accesses.find? (fun a => a.id == n) = some a →
      let t : State := { s with host.accesses := s.host.accesses.filter (fun b => b.id != n) }
      (a.listOf = none → exec (.hostReadCompletion n (.data bs)) s = .next (t.gotData a bs).pump) ∧
      (∀ win page u, a.listOf = some (win, page) →
        let go := (t.fillTlb a.fn win page (le bs 0 8)).access a.fn a.addr a.len a.data a.purpose
        (go = (u, .waits) → exec (.hostReadCompletion n (.data bs)) s = .next u.pump) ∧
        (go = (u, .done) → exec (.hostReadCompletion n (.data bs)) s = .next (u.wrote a.purpose).pump)) ∧
      (a.listOf = none → exec (.hostReadCompletion n .failed) s = .next (t.accessFailed a.purpose 4 0x12).pump) ∧
      (a.listOf = none → exec (.hostReadTimeout n) s = .next (t.accessFailed a.purpose 4 0x12)) ∧
      (a.listOf ≠ none → exec (.hostReadTimeout n) s
        = .next ((t.ituFault a.fn a.addr 4 a.data.isSome).accessFailed a.purpose 3 0x10)))

/-- The configuration loader (R270, R271, R275, R287, R288, R473): over a link that is up, and with QENG_CFG_BASE set, a load that
its checks pass acts at once and its outcome stands ready; one they refuse changes nothing but the outcome; LOAD_DONE shows RESULT
and REASON, ends RUNNING and raises source 83, once the drain that the load waits for has ended. -/
def Obligations.ConfigurationLoader : Prop :=
  (∀ (s : State) (n : Nat), s.host.load = none → s.hostThere 0 = true →
    let t := (s.noHalf ⟨0x50, 0⟩).put R.qengLoadStatusRunning 1
    let ready (u : State) (obj action : Nat) (table : List Window) : State :=
      { u with host.load := some ⟨obj, action, n, some (1, 0), table⟩ }
    (s.get R.qengCfgBaseAddr ≠ 0 →
      (∀ d, fnRefusal n (some d) = none → s.fnEnabled n = false → exec (.functionLoad n (some d)) s
        = .next (ready ((({ t with host.fns := store t.host.fns n d } : State).put (R.qengFnStateEnabled n) 1).setMboxEnabled n
          true).countObjects 1 1 [])) ∧
      (∀ d, fnRefusal n (some d) = none → s.fnEnabled n = true → exec (.functionLoad n (some d)) s
        = .next (ready { t with host.inflightNext := store t.host.inflightNext n d } 1 1 [])) ∧
      (s.fnEnabled n = true → s.holdsQueues n = false → exec (.functionDisable n) s
        = .next (ready (t.put (R.qengFnStateEnabled n) 0).countObjects 1 2 [])) ∧
      (s.fnEnabled n = true → s.holdsQueues n = true → exec (.functionDisable n) s
        = .next { t with host.load := some ⟨1, 2, n, some (2, 8), []⟩ }) ∧
      (∀ d, s.sqRefusal n (some d) = none → exec (.sqLoad n (some d)) s
        = .next (ready ((({ t with host.sqGrant := store t.host.sqGrant n d.fn } : State).setSq n ⟨d, 0, 0, 0, false, false, [],
          ((look s.host.sqs n).map Sq.chains).getD []⟩).put (R.qengSqStateState n) 1).countObjects 2 1 [])) ∧
      (∀ q, s.get (R.qengSqStateState n) ≠ 0 → look s.host.sqs n = some q → exec (.sqDisable n) s
        = .next (ready ((t.setSq n { q with entries := [], next := q.cons, headerRead := false, headerAgain := false }).put
          (R.qengSqStateState n) 0).countObjects 2 2 [])) ∧
      (∀ d, s.cqRefusal n (some d) = none → exec (.cqLoad n (some d)) s
        = .next (ready (({ t with
          host.cqGrant := store t.host.cqGrant n d.fn
          host.cqs := store t.host.cqs n ⟨d, 0, 0, [], 0, false, false, false⟩ } : State).put (R.qengCqStateState n) 1).countObjects 3 1 [])) ∧
      (s.get (R.qengCqStateState n) ≠ 0 → s.host.sqs.any (fun q => q.2.desc.cq == n && s.get (R.qengSqStateState q.1) != 0) = false →
        exec (.cqDisable n) s = .next (ready (t.stopCq n) 3 2 [])) ∧
      (∀ w, s.windowRefusal n (some w) = none → exec (.windowTableLoad n (some w)) s = .next (ready t 4 1 w)) ∧
      (s.fnEnabled n = true → exec (.windowTableDisable n) s = .next (ready t 4 2 []))) ∧
    (s.get R.qengCfgBaseAddr = 0 →
      exec (.functionDisable n) s = .next { t with host.load := some ⟨1, 2, n, some (2, 1), []⟩ })) ∧
  (∀ (s : State) (l : Load) (result reason : Nat), s.host.load = some l → l.decided = some (result, reason) →
    let done (t : State) : State := (((({ t with host.load := none } : State).put R.qengLoadStatusRunning 0).put
      R.qengLoadStatusResult result).put R.qengLoadStatusReason reason).incMod R.qengLoadStatusLoads 1 |>.raise 83
    (result = 1 → s.loadDrained l = true → l.object = 4 ∨ (l.object = 1 ∧ l.action = 2) →
      exec .loadDone s = .next (done (s.setWindows l.index l.table))) ∧
    (result = 1 → s.loadDrained l = true → l.object ≠ 4 → ¬(l.object = 1 ∧ l.action = 2) → exec .loadDone s = .next (done s)) ∧
    (result = 1 → s.loadDrained l = false → exec .loadDone s = .next s) ∧
    (result ≠ 1 → exec .loadDone s = .next (done s)))

/-- Function-level resets and the link (R265, R267, R268, R423, R473): an FLR ends a VF's binding, silences its commands, disables
its queues, windows and routes, and returns its mailbox and MSI-X state; the PF's does so to every VF and to itself, and clears
QENG_CFG_BASE and the BAR registers; VF Enable brings NumVFs VFs up, with their mailboxes; nothing of it happens while the host does
not reach the device; the link's fall is a PF FLR; its rise makes a device with no role the front device, notes the lanes that
training dropped (R27) and sets the BAR registers (R45). -/
def Obligations.FunctionResets : Prop :=
  ∀ (s : State) (fn : Nat),
    let flr (t : State) (f : Nat) : State := ((((((({ t with host.bindings := drop t.host.bindings f } : State).silence f
      2).stopQueues f).setWindows f []).unroute f).idleMbox f 0).resetMsix f).setMboxEnabled f false
    let pf : State :=
      let s2 := (((s.liveVfs.foldl flr s).silence 0 2).stopQueues 0).setWindows 0 []
      let s4 := (List.range 32).foldl (fun t b => t.idleMbox 0 b) ((s2.put R.qengCfgBaseAddr 0).put R.qengStatusCfgSet 0)
      { s4.resetMsix 0 with pwr.vfEnable := false, pwr.numVfs := 0, pwr.bar0 := 0, pwr.vfBar0 := 0 }
    (s.hostThere 0 = true →
      (1 ≤ fn → fn ≤ 255 → s.pwr.vfEnable = true → fn ≤ s.pwr.numVfs → exec (.vfFlr fn) s = .next (flr s fn)) ∧
      exec .pfFlr s = .next pf ∧
      (∀ num, num ≤ 255 → exec (.vfDisable false num) s
        = .next { s.liveVfs.foldl flr s with pwr.vfEnable := false, pwr.numVfs := num }) ∧
      (∀ num, num ≤ 255 → s.pwr.vfEnable = false → exec (.vfDisable true num) s
        = .next ((List.range num).foldl (fun t f => t.setMboxEnabled (f + 1) true)
          ({ s with pwr.vfEnable := true, pwr.numVfs := num } : State)))) ∧
    (s.hostThere 0 = false → exec (.vfFlr fn) s = .next s ∧ exec .pfFlr s = .next s ∧
      ∀ on num, exec (.vfDisable on num) s = .next s) ∧
    (exec .linkReset s = .next { pf with pwr.link := false }) ∧
    (∀ dropped bar vfBar, s.pwr.main = true → s.pwr.porstN = true →
      let up := ({ s with pwr.link := true, pwr.parts.pcie := dropped, pwr.bar0 := bar, pwr.vfBar0 := vfBar } : State).showParts
      (s.get R.ferryStatusRole ≠ 2 → up.get R.ferryStatusRole ≠ 0 → exec (.linkUp dropped bar vfBar) s = .next up) ∧
      (s.get R.ferryStatusRole ≠ 2 → up.get R.ferryStatusRole = 0 →
        exec (.linkUp dropped bar vfBar) s = .next (up.put R.ferryStatusRole 1).discoverAll) ∧
      (s.get R.ferryStatusRole = 2 → exec (.linkUp dropped bar vfBar) s = .next s))

/-- Accesses over the fabric (R26 to R28, R34, R322, R326 to R328, R333, R337 to R339, R473): FABRIC_ACCESS of any master that can
reach the device, and DEBUG_ACCESS, complete in every form: held where a checker on the way drains; done whole in the register
space; posted, as a host function's write; else part by part. A part that its checker admits reads or writes its target; one that
it denies is recorded and reads zeros; the debug master's first denied access of a session is recorded, its later ones are counted.
A lockstep disagreement keeps the access in its pair; an uncorrectable error that it meets acts, and answers it. -/
def Obligations.FabricAccesses : Prop :=
  ∀ (s : State) (r : Requester) (k : AccKind) (a n : Nat) (data : Bytes),
    let x := s.noHalf r
    let row (i : Instr) : Prop := (i = .fabricAccess r k a n data .none ∧ (reqIsHost r = true → s.hostThere r.sub = true))
      ∨ (i = .debugAccess k a n data ∧ r = ⟨0x7F, s.get R.lifeDebugLevel⟩)
    let on : Prop := s.pwr.main = true ∧ s.pwr.porstN = true ∧ n ≠ 0
    (∀ i, row i → ¬on → exec i s = .next s) ∧
    (∀ i c, row i → on → s.heldBy a n = some c →
      exec i s = .next { s with worlds.held := s.worlds.held ++ [(c, ⟨r, k, a, n, data⟩)] }) ∧
    (∀ i, row i → on → s.heldBy a n = none →
      (inRegs a = true → exec i s = .next (s.runRegs r k a n data)) ∧
      (inRegs a = false → reqIsHost r = true → k = .write → exec i s = .next (x.postedWrite r.sub a (data.take n))) ∧
      (inRegs a = false → ¬(reqIsHost r = true ∧ k = .write) →
        let q := x.runParts r k (partsAt a n) data
        exec i s = .next (if k = .write then q.1.answerWrite r a q.2.2 else q.1.answerRead r a data q.2.1 q.2.2)) ∧
      (inRegs a = false → a % 4096 + n ≤ 4096 → reqIsHost r = false → r.master ≠ 0x60 →
        (k ≠ .write → s.judge r k a = .allow → s.bankGone a = false → inOwnBell a = false → inCross a = false →
          exec i s = .next (x.emit (.fabricData r a (match sysOffset a with
            | some (bank, o) => x.sysBytes bank o n
            | none => readBytes s.mem a n)))) ∧
        (k = .write → s.judge r k a = .allow → s.bankGone a = false → inOwnBell a = false → inCross a = false → inOwnArea a = false →
          areaOwner a = none → checkerOf a ≠ some 0 → sysOffset a = none → exec i s = .next (x.writeMem a (data.take n))) ∧
        (k ≠ .write → r.master ≠ 0x7F → s.judge r k a = .deny → exec i s
          = .next (((x.violation r k a false false false).emit (.fabricData r a (List.replicate n 0))).emit (.fabricDenied r a))) ∧
        (k = .write → r.master ≠ 0x7F → s.judge r k a = .deny → exec i s
          = .next ((x.violation r k a false false false).emit (.fabricDenied r a))) ∧
        (k = .write → r.master = 0x7F → s.judge r k a = .deny → s.worlds.debugSeen = true → exec i s
          = .next ((x.incSat R.mpcViolCountDebugDenied).emit (.fabricDenied r a))))) ∧
    (∀ e, reqIsHost r = true → s.hostThere r.sub = false → exec (.fabricAccess r k a n data e) s = .next s) ∧
    (reqIsPair r = true → s.pwr.main = true → s.pwr.porstN = true →
      exec (.fabricAccess r k a n data .lockstep) s = .next (s.lockstep r.master)) ∧
    (reqIsPair r = false → exec (.fabricAccess r k a n data .lockstep) s = exec (.fabricAccess r k a n data .none) s) ∧
    (∀ g u, (reqIsHost r = true → s.hostThere r.sub = true) →
      (on → s.admits r k a n = true →
        let t := x.partFails g u ⟨4, groupLoc g u, 1, 0, a, r.master, r.sub, if k = .write then 2 else if k = .fetch then 3 else 1, false⟩
        exec (.fabricAccess r k a n data (.uncorrectable g u)) s
          = .next (if k = .write then t.answerWrite r a true else t.answerRead r a data (List.replicate n 0) true)) ∧
      (s.admits r k a n = false →
        exec (.fabricAccess r k a n data (.uncorrectable g u)) s = exec (.fabricAccess r k a n data .none) s))

/-! ### Events of the store, the PKE, the SKE and the TRNG -/

/-- The store's ring and batch (R112, R116, R117, R119, R124, R475, R476, R478): while the store runs, a response entry is consumed,
frees its TAG, and acts on the request it answers: a page for a fetch, nothing more for a write, which its BARRIER commits, the
commit, the end of a reopen, or a second try; one that answers nothing is counted, one that cannot be read leaves the ring stuck
until a retry. A batch closes with its writes fixed; a freed buffer lets a waiting request out; a timeout gives a fetch up, or ends
a held command with STORE_UNAVAILABLE; a second passes for every slot. -/
def Obligations.StoreEvents : Prop :=
  ∀ (s : State) (r : Req) (tag result cid : Nat) (c : Cmd) (page : Bytes),
    let at_ := s.get R.storeRspConsIndex
    let there : Prop := s.storeRuns = true ∧ s.hs.attached = true ∧ at_ ≠ s.get R.storeRspProdIndex
    let t : State := ({ s with hs.stuck := false } : State).put R.storeRspConsIndex (at_ + 1)
    let done : State := { t with hs.reqs := drop t.hs.reqs tag }
    let key := 2 * r.page + (if r.op = 2 then 1 else 0)
    let fetched (p : Option Bytes) (bad : Bool) : State := { done with hs.fetched := store done.hs.fetched key ⟨p, r.second, bad⟩ }
    let again : Req := { r with again := true, buffer := none }
    let torn : State := ({ (s.ituFault 0 (s.get R.storeRspBaseAddr + 16 * (at_ % 2 ^ s.get R.storeRspCfgLog2Size))
      ((s.storeReach (s.get R.storeRspBaseAddr + 16 * (at_ % 2 ^ s.get R.storeRspCfgLog2Size)) 16 false).getD 4) false) with
        hs.stuck := true } : State)
    (there → look s.hs.reqs tag = none →
      exec (.storeResponse ⟨some (tag, result), none⟩) s = .next (t.incSat R.storeRspConsDropped).onward) ∧
    (there → exec (.storeResponse ⟨none, none⟩) s = .next torn.onward) ∧
    (there → s.hs.stuck = true → exec (.storeRspRetry ⟨none, none⟩) s = .next torn.onward) ∧
    (there → look s.hs.reqs tag = some r → r.stale = true →
      exec (.storeResponse ⟨some (tag, result), some page⟩) s = .next done.onward) ∧
    (there → look s.hs.reqs tag = some r → r.stale = false →
      (r.op = 1 ∨ r.op = 2 →
        exec (.storeResponse ⟨some (tag, 0), some page⟩) s = .next (fetched (some (padTo 4096 page)) false).onward ∧
        (s.hs.stuck = true → exec (.storeRspRetry ⟨some (tag, 0), some page⟩) s
          = .next (fetched (some (padTo 4096 page)) false).onward) ∧
        exec (.storeResponse ⟨some (tag, 2), none⟩) s = .next (fetched none false).onward ∧
        (r.again = true → exec (.storeResponse ⟨some (tag, 1), none⟩) s = .next (fetched none true).onward)) ∧
      (r.op ∈ [1, 2, 3, 4] → r.again = false → exec (.storeResponse ⟨some (tag, 1), none⟩) s = .next (done.post again).onward) ∧
      (r.op = 3 ∨ r.op = 4 → exec (.storeResponse ⟨some (tag, 0), none⟩) s = .next done.onward) ∧
      (r.op = 3 ∨ r.op = 4 → r.again = true → exec (.storeResponse ⟨some (tag, 1), none⟩) s = .next done.failBatch.onward) ∧
      (r.op = 5 → exec (.storeResponse ⟨some (tag, 0), none⟩) s = .next done.commitBatch.onward) ∧
      (r.op = 5 → exec (.storeResponse ⟨some (tag, 1), none⟩) s = .next done.failBatch.onward) ∧
      (r.op = 8 → exec (.storeResponse ⟨some (tag, result), none⟩) s = .next done.reopened.onward)) ∧
    (s.storeRuns = true → s.batchOpen = true → exec .storeBatchClose s
      = .next (((s.onOpen (fun b => { b with phase := 1, writes := s.batchWrites b, root := s.hs.root, serial := s.hs.nextSerial })).put
        R.storeStatusBatchOpen 0).startCommit.barrier).onward) ∧
    (s.storeRuns = true → s.nextPost = some r → exec .storeBufferFreed s
      = .next (({ s with hs.waiting := removeFirst (· == r) s.hs.waiting } : State).postNow r).barrier) ∧
    (s.storeRuns = true → s.nextPost = none → exec .storeBufferFreed s = .next s.barrier) ∧
    (s.storeRuns = true → look s.hs.reqs tag = some r → r.stale = false →
      (r.op = 1 ∨ r.op = 2 → exec (.storeFetchTimeout tag) s = .next ({ s with
        hs.reqs := store s.hs.reqs tag { r with stale := true }
        hs.fetched := store s.hs.fetched key ⟨none, r.second, true⟩ } : State).onward) ∧
      (2 < r.op → exec (.storeFetchTimeout tag) s = .next s)) ∧
    (look s.host.cmds cid = some c → s.is R.storeStatusReopenWait = true → c.stage = .route → c.needs.contains needStore = true →
      exec (.storeHeldTimeout cid) s = .next (s.complete cid (Resp.of St.storeUnavailable)).onward) ∧
    exec .slotAgeTick s = .next { s with keys.slots := s.keys.slots.map (fun x => (x.1, { x.2 with age := saturate 0xFFFF (x.2.age + 1) })) }

/-- PKE clusters (R60, R135, R137, R139, R140, R144, R145, R164, R168, R169, R173, R214): a job that passes its checks at its release
point yields its result, unless a mark suppresses it, and wipes; one that fails them is reported, yields ENGINE_FAULT and wipes; an
abort ends it before that point. The end of a wipe frees slots and lease, lets a pending gate take effect, takes the next job, and
is the cluster's boundary for a commit. A load that the gate admits leads to the self-test, and a self-test that passes to READY
once the cluster has a seed; each that fails fences it. A quarantined cluster loads and tests itself, and is fenced the third time
in its window. A seed falls due, goes into an idle cluster or waits for the end of a job, and lapses. -/
def Obligations.PkeEvents : Prop :=
  ∀ (s : State) (n lane : Nat) (j : Job) (check residue : Bool),
    let runs : Prop := (s.cluster n).job = some j ∧ s.clusterState n = 4
    let fails : Bool := !((check || !hasCheck j.prog) && residue)
    let kind : Nat := if residue then checkKind j.prog else 6
    let at_ := locM (n / 4) n lane
    let y : Yield := { j.run with key := j.slots.headD 0 }
    let w := ((s.endWipe n).setClusterState n 3).settleGate n
    let last (x : State) : State := (x.applyPart 0x70000 (fun i => i == n && x.atBoundary 0x70000 i)).onward
    let fed (x : State) : State := x.feedCluster n (x.eng.pkeQueue.length + 1)
    let near : Prop := n < 16 ∧ bitOf s.pwr.clusterReset n = false ∧ bitOf s.pwr.regionReset (n / 4) = false
    let held (x : State) : State :=
      let h := (x.setCluster n { x.cluster n with held := true, tested := false, returning := false }).setClusterState n 7
      ((h.setCluster n { h.cluster n with roll := 0 }).showRolling).rollNext 16
    let refused (x : State) (p : Nat) : State := (held ((x.sqcEvent R.pkeGateSeq (fun t =>
      (t.put R.pkeGatePackage p).put R.pkeGateCluster n)).raise 97)).hard (locM (n / 4) n 0xF) 7 0
    let loaded (x : State) : State := (x.setLoaded n x.activeBodies).setClusterState n 2
    let passed (x : State) : State :=
      (((x.setCluster n { x.cluster n with tested := true, roll := 0 }).showRolling).rollNext 16).seatReady n
    let failed (x : State) : State := held (x.drawn.pkeFault n (Config.freeNat x.fresh % 4) 7 0x7F (Config.freeNat (x.fresh + 1) % 256)).drawn
    (runs → fails = false →
      (s.jobDying j = none → y.status ≠ St.inputRejected →
        exec (.pkeJobRelease n check residue lane) s = .next ((s.yield j y).setClusterState n 5).onward) ∧
      (s.jobDying j = none → y.status = St.inputRejected →
        exec (.pkeJobRelease n check residue lane) s = .next (((s.incSat R.pkeRejectsRejected).yield j y).setClusterState n 5).onward) ∧
      (∀ st, s.jobDying j = some st →
        exec (.pkeJobRelease n check residue lane) s = .next ((s.yield j (Yield.of st)).setClusterState n 5).onward)) ∧
    (runs → fails = true →
      let t := ((s.drawn.pkeFault n lane kind j.prog (s.jobWords j)).yield j
        (Yield.of ((s.jobDying j).getD St.engineFault))).setClusterState n 5
      exec (.pkeJobRelease n check residue lane) s = .next ((t.logAdd 0x60 0xFFFF j.tenant
        (s.locBytes at_ ++ leBytes 1 kind ++ leBytes 1 j.prog)).report (plainFault 4 at_ 7 kind)).onward) ∧
    (∀ status, runs → abortCause status = true → exec (.pkeJobAbort n status) s
      = .next (((s.yield j (Yield.of status)).incSat R.pkeRejectsAborts).setClusterState n 5).onward) ∧
    (∀ status, abortCause status = false → exec (.pkeJobAbort n status) s = .next s) ∧
    (s.clusterState n = 5 → bitOf s.pwr.clusterReset n = false → bitOf s.pwr.regionReset (n / 4) = false →
      (w.clusterState n = 3 →
        exec (.pkeWipeEnd n) s = .next (last ((w.rollNext 16).feedCluster n (w.eng.pkeQueue.length + 1)))) ∧
      (w.clusterState n ≠ 3 → exec (.pkeWipeEnd n) s = .next (last w))) ∧
    (∀ bad ok, near →
      (s.clusterState n = 1 → s.gateRefusal bad = 0 → exec (.pkeClusterReady n bad ok) s = .next (loaded s).onward) ∧
      (s.clusterState n = 1 → s.gateRefusal bad ≠ 0 →
        exec (.pkeClusterReady n bad ok) s = .next (refused s (s.gateRefusal bad)).onward) ∧
      (s.clusterState n = 2 → (s.cluster n).tested = false →
        exec (.pkeClusterReady n bad ok) s = .next (if ok then passed s else failed s).onward) ∧
      (s.clusterState n = 2 → (s.cluster n).tested = true → s.seeded n = true → (s.cluster n).returning = false →
        let r := (((s.setCluster n { s.cluster n with tested := false, returning := false, idleSince := s.tick }).setClusterState n
          3).settleGate n).rollNext 16
        exec (.pkeClusterReady n bad ok) s = .next (fed r).onward) ∧
      (s.clusterState n = 2 → (s.cluster n).tested = true → s.seeded n = false → s.canDraw = false →
        exec (.pkeClusterReady n bad ok) s = .next s.onward)) ∧
    (∀ bad ok, near → s.is R.devStatusCustodyUp = true → s.clusterState n = 6 →
      ((s.cluster n).quarAt.length < 3 →
        let u := s.loadCluster n
        let v := u.setCluster n { u.cluster n with returning := true }
        (v.gateRefusal bad ≠ 0 → (refused v (v.gateRefusal bad)).clusterState n = 7 →
          exec (.quarantineReturn n bad ok) s = .next (refused v (v.gateRefusal bad)).onward) ∧
        (v.gateRefusal bad = 0 → (loaded v).clusterState n = 2 →
          exec (.quarantineReturn n bad ok) s = .next (if ok then passed (loaded v) else failed (loaded v)).onward)) ∧
      (∀ a b c, (s.cluster n).quarAt = [a, b, c] → a < c + 180000 → exec (.quarantineReturn n bad ok) s = .next (held s).onward)) ∧
    (n < 16 → (s.cluster n).nextSeed = [] → s.seedDue n = true → s.canDraw = true →
      (s.clusterState n = 3 → let t := (s.draw 32).1.seatSeed n (s.draw 32).2
        t.clusterState n = 3 → exec (.maskSeedDelivery n true) s = .next (fed t).onward) ∧
      (s.clusterState n = 4 ∨ s.clusterState n = 5 →
        let t := (s.draw 32).1.setCluster n { s.cluster n with nextSeed := (s.draw 32).2 }
        t.clusterState n = s.clusterState n → exec (.maskSeedDelivery n true) s = .next t.onward)) ∧
    (s.trngRuns = true → exec (.maskSeedDelivery n false) s = .next (((if s.drbgUp then s.stopDrbg else s).report
      (plainFault 4 (locM 4 17 5) 9 0)).seedDelivery n).onward) ∧
    (n < 16 → s.is (R.pkeClusterStatusSeeded n) = true → s.seeded n = false →
      exec (.maskSeedExpiry n) s = .next (s.put (R.pkeClusterStatusSeeded n) 0))

/-- SKE lanes, their nonces and waits for entropy (R60, R165, R181, R183, R190, R191, R195, R196, R198, R216): a READY lane with no
pending gate starts the request the arbitration presents, with its nonce; a request ends well, or releases nothing and zeroes its
destination: with the status of a mark, or after a mismatch, which is recorded and isolates the lane the second time in its window
unless it is the last; its end is the lane's boundary for a commit. A self-test decides whether a lane joins, and one that rejoins
goes OFF or FENCED at once where its gate asks for it. A reservation counts once it stands in both banks, and ends the guard where
it failed in both. A rotation of a slot that is due begins. What waits for entropy past its time ends with ENTROPY_FAILED. -/
def Obligations.SkeEvents : Prop :=
  ∀ (s : State) (n i h cid : Nat) (j j1 : Job) (u : State) (x : Slot) (c : Cmd) (ok : Bool),
    let mayStart : Prop := n < 8 ∧ bitOf s.pwr.regionReset 4 = false ∧ bitOf s.pwr.clusterReset 16 = false ∧ s.laneState n = 2 ∧
      s.is (R.skeLaneStatusGatePending n) = false
    let near : Bool := (s.lane n).mism.any (fun k => decide ((s.get (R.skeLaneReqsCount n) + 2 ^ 32 - k) % 2 ^ 32 < 1000))
    let off : Bool := near && !s.lastLane n
    let seen : State := ((s.sqcEvent R.skeCheckSeq (fun t => ((t.put R.skeCheckLane n).putB R.skeCheckIsolated off).put R.skeCheckAlg
      j.prog)).incSat R.skeCheckCountCount).raise 98
    let noted : State := seen.setLane n { s.lane n with mism := (s.get (R.skeLaneReqsCount n) :: (s.lane n).mism).take 4 }
    let missed : State := (noted.stopSke n St.engineFault).hard (locM 4 16 n) 8 0
    let y : Yield := { j.runSke with info := s.rotationOf j, key := j.slots.headD 0 }
    let ended (x : State) : State := (x.applyPart 0x80000 (fun i => i == n && x.atBoundary 0x80000 i)).onward
    let keep (l : List Nat) : List Nat := (h :: l.filter (· != h)).take 64
    let due : Prop := s.serves = true ∧ s.life.updating = none ∧ look s.keys.slots i = some x ∧ s.keys.rotating.contains x.tenant = true ∧ x.rotateDue = true ∧
      x.successor = none ∧ x.doomed = false
    let msg := ownMsg rotateOp x.tenant (s.get R.ferryStatusSelf) 0 0 (handleOf i x.epoch)
    (mayStart → s.pick true s.requestMayStart = some j → (s.unqueue j).jobStale j = none → (s.unqueue j).giveIv n j = (u, .ok j1) →
      let t := (u.armJob j1).1.setLane n { (u.armJob j1).1.lane n with job := some (u.armJob j1).2 }
      exec (.skeRequestStart n) s = .next (((t.setLaneState n 3).put (R.skeLaneStatusAlg n) (u.armJob j1).2.prog).put
        (R.skeLaneStatusLeased n) 1).onward) ∧
    (mayStart → s.pick true s.requestMayStart = none → exec (.skeRequestStart n) s = .next s.onward) ∧
    ((s.lane n).job = some j →
      (s.jobDying j = none → y.status = St.ok → exec (.skeRequestEnd n true) s = .next (ended ((s.yield j y).clearLane n))) ∧
      (s.jobDying j = none → y.status ≠ St.ok →
        exec (.skeRequestEnd n true) s = .next (ended (((s.zeroDest j).yield j y).clearLane n))) ∧
      (s.jobDying j = none → off = false → exec (.skeRequestEnd n false) s = .next (ended missed)) ∧
      (s.jobDying j = none → off = true → exec (.skeRequestEnd n false) s = .next (ended (missed.setLaneState n 4))) ∧
      (∀ st, s.jobDying j = some st →
        exec (.skeRequestEnd n ok) s = .next (ended (((s.zeroDest j).yield j (Yield.of st)).clearLane n)))) ∧
    (n < 8 → s.laneState n = 1 → exec (.skeLaneSelfTestEnd n ok) s = .next (s.setLaneState n (if ok then 2 else 4)).onward) ∧
    (n < 8 → s.laneState n = 4 → s.is (R.skeLaneCtrlRejoin n) = true →
      let t := s.put (R.skeLaneCtrlRejoin n) 0
      let back := ((t.setLane n { t.lane n with mism := [] }).showMism n).setLaneState n 2
      let gated : Prop := back.is (R.skeLaneCtrlGateReq n) = true ∨ back.is (R.skeLaneCtrlFence n) = true
      (¬gated → exec (.skeLaneSelfTestEnd n true) s = .next back.onward) ∧
      (gated → exec (.skeLaneSelfTestEnd n true) s = .next ((back.put (R.skeLaneStatusGatePending n) 1).settleLane n).onward) ∧
      exec (.skeLaneSelfTestEnd n false) s = .next t.onward) ∧
    (s.eng.reserving = some h →
      exec (.nonceReservationDone true true) s = .next (({ s with
        eng.nonce0 := keep s.eng.nonce0
        eng.nonce1 := keep s.eng.nonce1
        eng.reserving := none } : State).put R.skeNonceReservedH h) ∧
      exec (.nonceReservationDone true false) s = .next { s with eng.nonce0 := keep s.eng.nonce0 } ∧
      exec (.nonceReservationDone false true) s = .next { s with eng.nonce1 := keep s.eng.nonce1 } ∧
      exec (.nonceReservationDone false false) s = .next ({ s with eng.reserving := none } : State).loseBase) ∧
    (due → s.host.cmds.any (fun c => c.2.m.opcode == rotateOp && c.2.m.key == handleOf i x.epoch) = false →
      exec (.nonceRotation i) s = .next ((s.take msg).1.runAct (s.take msg).2 { msg with cid := (s.take msg).2 }).pump) ∧
    (s.drbgUp = false → j.cid = cid →
      (s.eng.pkeQueue = [j] → s.eng.skeQueue = [] → j.ske = false → j.draws = true →
        exec (.entropyWaitTimeout cid) s = .next (s.dropQueue false (· == j) St.entropyFailed).onward) ∧
      (s.eng.pkeQueue = [] → s.eng.skeQueue = [j] → j.ske = true → j.counted = true → guardIv j.prog = false →
        exec (.entropyWaitTimeout cid) s = .next (s.dropQueue true (· == j) St.entropyFailed).onward) ∧
      (s.eng.pkeQueue = [] → s.eng.skeQueue = [] → look s.host.cmds cid = some c → c.stage = .route → c.needs.contains needEntropy = true →
        exec (.entropyWaitTimeout cid) s = .next (s.complete cid (Resp.of St.entropyFailed)).onward))

/-- The TRNG (R201, R205 to R207, R209 to R216, R220 to R222): the first window of a source that starts or was recalibrated is its
start-up test; a window that passes then releases its eight blocks, and such a source joins with it; one that fails is recorded and
isolates its source, and marks NK while the TRNG does not run. The DRBG is instantiated from the entropy and nonce blocks and
reseeded from four blocks, NK's beside them where NK is healthy, with new Key and V, and then serves what waited; where the two
paths of the AES core disagree, it stops with a SEVERE fault. A recalibration begins, and ends with the best setting chosen or with
the source out of service and its previous setting in force. -/
def Obligations.TrngEvents : Prop :=
  ∀ (s : State) (n : Nat) (bits : List Bool) (f : Failure) (u : State) (input : Bytes) (windows : List (List Bool)) (trim est : Nat),
    let x := s.source n
    let st := s.get (R.trngSrcStatusState n)
    let joins : Prop := st = 1 ∨ (st = 4 ∧ x.chosen ≠ none)
    let passed : State := (s.setSource n { x with run := (repetition x.run bits).2 }).release n bits
    let first : State := (u.seated (drbgFresh (input ++ u.personal))).stamped
    let shown : State := let t := first.put R.trngStateDrbg first.serviceOf
      if first.serviceOf = 3 then t.raise 49 else t
    let again : State := u.takeNk.1.seated (drbgReseeded (u.takeNk.1.trng.key, u.takeNk.1.trng.v) (input ++ u.takeNk.2))
    let apart : State := (if s.drbgUp then s.stopDrbg else s).report (plainFault 4 (locM 4 17 5) 9 0)
    (n ≤ 4 → s.trngRuns = true → health x.run bits = none →
      (st = 2 → exec (.trngWindowEnd n bits) s = .next passed.settleTrng.onward) ∧
      (joins → x.tested = true → exec (.trngWindowEnd n bits) s = .next (passed.rejoin n).settleTrng.onward)) ∧
    (n ≤ 4 → s.trngRuns = true → health x.run bits = some f → st = 2 ∨ (joins ∧ x.tested = true) →
      exec (.trngWindowEnd n bits) s = .next ((s.healthEvent n f).isolate n).onward) ∧
    (n ≤ 4 → s.trngRuns = true → joins → x.tested = false →
      (startupOk bits = true → exec (.trngWindowEnd n bits) s = .next (s.setSource n { x with tested := true }).onward) ∧
      (startupOk bits = false → exec (.trngWindowEnd n bits) s = .next ((s.healthEvent n ⟨4, 0, 0⟩).isolate n).onward)) ∧
    (s.trngRuns = false → health (s.source 4).run bits = some f →
      exec (.trngWindowEnd 4 bits) s = .next (s.setTrim 4 { s.trimOf 4 with marked := true }).onward) ∧
    (s.drbgUp = false → s.trngRuns = true → s.trng.erased = false →
      s.get R.trngStateDrbg ≠ 4 ∨ s.nkReady = true → s.freshInput = some (u, input) →
      (shown.trng.stopped = false → exec (.drbgInstantiate true) s = .next shown.showSources.serveDraws) ∧
      (shown.trng.stopped = true → exec (.drbgInstantiate true) s
        = .next (({ shown with trng.stopped := false } : State).raise 51).showSources.serveDraws)) ∧
    (s.drbgUp = false → s.freshInput = none → exec (.drbgInstantiate true) s = .next s.serveDraws) ∧
    (s.drbgUp = true → s.reseedDue = true → s.trngRuns = true →
      (s.healthyN ≠ 0 → s.nkReady = true → s.takeBlocks 4 = some (u, input) →
        exec (.drbgReseed true) s = .next (again.incMod R.trngReseedsCount 1).settleTrng.serveDraws) ∧
      (s.healthyN ≠ 0 → s.nkReady = true → s.takeBlocks 4 = none → exec (.drbgReseed true) s = .next s.serveDraws) ∧
      (s.healthyN = 0 → exec (.drbgReseed true) s = .next s.stopDrbg.serveDraws)) ∧
    (s.trngRuns = true →
      exec (.drbgInstantiate false) s = .next apart.instantiate.serveDraws ∧
      exec (.drbgReseed false) s = .next apart.reseed.serveDraws) ∧
    (n ≤ 4 → st = 3 → x.due = true → s.is R.devStatusCustodyUp = true → s.trngRuns = true →
      exec (.autoRecalibrate n) s = .next (((((s.setSource n ⟨false, [], none, (false, 0), x.isolations, false⟩).put
        (R.trngSrcStatusState n) 4).put (R.trngSrcCtrlRecal n) 1)).settleTrng)) ∧
    (n ≤ 4 → st = 4 → x.chosen = none → s.trngRuns = true →
      (bestTrim windows = some (trim, est) → exec (.recalSweepEnd n windows) s
        = .next ((s.setSource n { x with chosen := some (trim, est) }).put (R.trngSrcStatusTrim n) trim)) ∧
      (bestTrim windows = none → (s.trimOf n).marked = false →
        exec (.recalSweepEnd n windows) s = .next ((s.healthEvent n ⟨5, 0, 0⟩).isolate n)) ∧
      (bestTrim windows = none → (s.trimOf n).marked = true → exec (.recalSweepEnd n windows) s
        = .next ((((s.healthEvent n ⟨5, 0, 0⟩).put (R.trngSrcStatusState n) 3).settleTrng).endRecal n St.limitReached)))

/-! ### Events of Compass -/

/-- Compass (R295 to R298, R300 to R303, R308, R311, R312, R314): the first crossing begins an acquisition; a crossing far before its time
taints the cycle; any other ends it with its tick, which the first two bad cycles of a run keep, and a valid cycle feeds the loop and
its run, a bad one counts. A missing crossing ends the cycle too. A tick moves the count by its state's rule: in LOCKED and STEP a
due aligning step takes its place, and the eighth after a step ends STEP. A start goes on from the held count plus 1. A clock
check of more than 200 ppm is a disagreement, and the third good one in a row ends it. A waypoint that is reached acts, is
recorded, and disarms or moves on; an epoch roll that is due is a GENERATION_ROLL; a rate window lapses. -/
def Obligations.CompassEvents : Prop :=
  ∀ (s : State) (t ppm n elapsed : Nat) (negs : List Nat) (w : Waypoint) (u : State) (r : RateWindow),
    let c := s.compass
    let now := c.cycleAt + t
    let at_ : Nat := if s.tracked = true ∧ c.cycleAt + s.period < now then c.cycleAt + s.period else now
    let hit : Prop := c.running = true ∧ s.cstate ≠ 0 ∧ (s.tracked = false ∨ 49 * s.period ≤ 50 * t)
    let late := c.cycleAt + (if s.tracked then s.period else 190476800)
    let begun : CompassSt := { c with
      running := true
      count := (s.get R.compassHeldCycle + 1) % 2 ^ 48
      lastPhase := 0
      seq := 0
      cycleAt := elapsed
      tickAt := elapsed
      ticked := false
      discarded := false
      badRun := 0
      estimate := 0
      span := 0
      errors := []
      u0 := 0
      heldTicks := 0
      eBase := s.get R.compassHeldCycle
      uBase := 0
      stepDue := 0
      stepTicks := 0 }
    let counted (at_ : Nat) : State :=
      let m : State := { s with compass.tickAt := at_ }
      let k : State := { m.tick1 with compass.stepTicks := c.stepTicks + 1 }
      if s.is R.compassStatusStepDue then m.alignStep
      else if s.cstate = 4 then (if 7 ≤ c.stepTicks then k.enter 2 else k)
      else m.tick1
    let crossed (at_ : Nat) (valid : Bool) : State :=
      if (s.cstate = 2 ∨ s.cstate = 4) ∧ c.ticked = false ∧ (valid = true ∨ c.badRun < 2) then counted at_ else s
    let held : State := { s with
      compass.tickAt := c.tickAt + s.period
      compass.heldTicks := c.heldTicks + 1 }
    let apart : State := ((({ s with compass.agreeRun := 0 } : State).put R.compassStatusClockDisagree 1).compassEvent 5 0 0 0).report
      (plainFault 3 (locM 0xF 32 0xF) 4 5)
    let agreed : State := { s with compass.agreeRun := c.agreeRun + 1 }
    let fired : State := ((u.sqcEvent R.compassWpFireSeq (fun t => (((t.put R.compassWpFireNumber n).putB R.compassWpFireLate
      w.late).putB R.compassWpFireNotAligned false).putB R.compassWpFireFailed false)).incMod R.compassWpCountsFired 1).raise (128 + n)
    let due : State := { s with compass.epochDue := removeFirst (fun e => e.1 == n) c.epochDue }
    let roll := ownMsg 0x0405 (le w.arg 0 2) (s.get R.ferryStatusSelf) n (ofBool w.late) 0
    (c.running = true → s.cstate = 0 → exec (.mainsCrossing t negs) s = .next (((({ s with
      compass.badRun := 0
      compass.estimate := 0
      compass.errors := [] } : State).put R.compassStatusValidRun 0).enter 1).newCycle now)) ∧
    (c.running = true → s.tracked = true → 50 * t < 49 * s.period →
      exec (.mainsCrossing t negs) s = .next { s with compass.discarded := true }) ∧
    (hit → s.validCycle t negs = true → exec (.mainsCrossing t negs) s
      = .next (((((crossed at_ true).loop t now).validDone now).newCycle now).uncertNow)) ∧
    (hit → s.validCycle t negs = false → exec (.mainsCrossing t negs) s
      = .next ((((((crossed at_ false).incSat R.compassCountsImplausible).compassEvent 6 0 0 0).badCycle).newCycle now).uncertNow)) ∧
    (c.running = true → s.cstate ≠ 0 → exec .cycleMissing s
      = .next (((((crossed late false).incSat R.compassCountsMissing).badCycle).newCycle late).uncertNow)) ∧
    (c.running = true →
      (s.cstate ≤ 1 → exec .compassTick s = .next ({ s with compass.tickAt := c.tickAt + 128000000 } : State).tick1) ∧
      (s.cstate = 3 → held.tick1.uncertNow.get R.compassQualityUncert ≠ 0xFFF → exec .compassTick s = .next held.tick1.uncertNow) ∧
      (s.cstate = 3 → held.tick1.uncertNow.get R.compassQualityUncert = 0xFFF →
        exec .compassTick s = .next held.tick1.uncertNow.enterAbsent) ∧
      (s.cstate = 2 ∨ s.cstate = 4 → c.ticked = false →
        exec .compassTick s = .next (counted (c.cycleAt + s.period)))) ∧
    (c.running = false → s.pwr.main = true → exec (.compassStart elapsed) s = .next (((((({ s with compass := begun } : State).put
      R.compassStatusState 0).put R.compassHeldCycle (s.get R.compassHeldCycle + 1)).put R.compassStatusValidRun 0).put
      R.compassPeriodPeriod 0).put R.compassQualityUncert 0xFFF)) ∧
    (c.running = true →
      (200 < ppm → s.is R.compassStatusClockDisagree = false → s.cstate ≠ 3 → exec (.clockCrossCheck ppm) s = .next apart) ∧
      (200 < ppm → s.is R.compassStatusClockDisagree = false → s.cstate = 3 →
        exec (.clockCrossCheck ppm) s = .next apart.enterAbsent) ∧
      (ppm ≤ 200 → c.agreeRun < 2 → exec (.clockCrossCheck ppm) s = .next agreed) ∧
      (ppm ≤ 200 → 2 ≤ c.agreeRun → exec (.clockCrossCheck ppm) s = .next (agreed.put R.compassStatusClockDisagree 0))) ∧
    (look c.waypoints n = some w → s.armed n = true → w.cycle ≤ c.count → w.alignedOnly = false → s.wpAction n w = (u, true) →
      (w.repeats = false → exec (.waypointFire n) s
        = .next (({ fired with compass.waypoints := drop fired.compass.waypoints n } : State).setArmed n false)) ∧
      (∀ next skipped, w.repeats = true → w.left ≠ 1 → nextCycle w.cycle w.period fired.compass.count = (next, skipped) →
        exec (.waypointFire n) s = .next (({ fired with compass.waypoints := store fired.compass.waypoints n { w with
          cycle := next
          left := w.left - 1
          late := false } } : State).put R.compassWpCountsSkipped (saturate 0xFFFF (fired.get R.compassWpCountsSkipped + skipped))))) ∧
    (s.serves = true → c.epochDue.find? (fun e => e.1 == n) = some (n, w) →
      exec (.waypointEpochRoll n) s = .next ((due.take roll).1.begin (due.take roll).2 false).pump) ∧
    (look c.rates n = some r → r.endsAt ≤ c.mc → exec (.rateWindowEnd n) s = .next { s with compass.rates := drop c.rates n })

/-! ### The quorum unit, the custodian ports, resets, records and the keeper -/

/-- The quorum unit and the custodian ports (R237, R253, R254, R258 to R261): a released act runs once, past its checks again, and
waits while QUORUM is quiesced or a live update holds it; a deadline that the count has reached ends its operation. A transaction at
a paired port sends what waits, PIN_SET_REQ while a PIN is pending, or nothing, and judges what came. A session opens with HELLO,
once the DRBG serves its nonce, and is UP with the pad's answer. An APPROVE whose PIN is right counts as a port approval, another
PIN is a failure and says so; a PIN_SET that agrees sets the verifier; a frame that is accepted moves the port's number, one that is
not is discarded. -/
def Obligations.QuorumAndPorts : Prop :=
  ∀ (s : State) (slot port op pos : Nat) (a : Act) (f : PadFrame) (c : Custodian) (nonce pin pin2 digest : Bytes),
    let m : Msg := { a.m with origin := .firmware }
    let u := (s.put (R.quorumSlotClassState slot) 3).take m
    let acting : State := { u.1 with quorum.acting := store u.1.quorum.acting u.2 slot }
    let st := s.get (portFld port)
    let p := s.port port
    let good : Prop := f.empty = false ∧ f.tagOk = true ∧ f.seq = p.rxSeq + 1
    let t : State := s.setPort port { p with
      rxSeq := f.seq
      discards := 0
      silent := 0 }
    let n := op % 32
    let named : Prop := t.slotPends op = true ∧ some (digest.take 8) = (look t.quorum.acts n).map (fun a => a.digest.take 8) ∧
      t.is (R.quorumSlotClassTenantKind n) = false ∧ t.custodian none pos = some c ∧
      bitOf (t.get (R.quorumSlotApprovalsEligible n)) pos = true ∧ c.port = true ∧ c.pinPending = false ∧
      c.suspendUntil ≤ t.compass.count
    let right : Bool := pinOk pin && c.verifier == t.pinVerifier pos pin
    let trusted : State := t.setCustodian pos { c with
      pinFails := 0
      suspendUntil := 0 }
    (s.serves = true → look s.quorum.acts slot = some a → s.get (R.quorumSlotClassState slot) = 2 →
      s.is (R.hdrCtrlQuiesce 0xB0000) = false → s.holdsAct a.m.opcode = false →
      (acting.precheck m = none →
        exec (.quorumActRun slot) s = .next (acting.runAct u.2 { m with cid := u.2 }).pump) ∧
      (∀ why, acting.precheck m = some why → exec (.quorumActRun slot) s = .next (acting.complete u.2 (Resp.of why)).pump)) ∧
    (look s.quorum.acts slot = some a → s.is (R.hdrCtrlQuiesce 0xB0000) = true ∨ s.holdsAct a.m.opcode = true →
      exec (.quorumActRun slot) s = .next s) ∧
    (s.get (R.quorumSlotClassState slot) = 1 → s.get (R.quorumSlotDeadlineCycle slot) ≤ s.compass.count →
      exec (.quorumTimeout slot) s = .next ((s.quorumEvent 2 slot).closeSlot slot St.quorumTimeout)) ∧
    (s.get (R.quorumSlotClassState slot) = 1 → s.compass.count < s.get (R.quorumSlotDeadlineCycle slot) →
      exec (.quorumTimeout slot) s = .next s) ∧
    (p.paired = true → 2 ≤ st →
      (∀ kind body rest, p.queue = (kind, body) :: rest → exec (.portTransaction port f) s
        = .next (((s.setPort port { p with queue := rest }).sendFrame port kind body).judgeFrame port f).1) ∧
      (p.queue = [] → st = 3 → s.pinPendingAt port = some pos → exec (.portTransaction port f) s
        = .next ((s.sendFrame port 0x20 (leBytes 1 pos)).judgeFrame port f).1) ∧
      (p.queue = [] → st = 2 ∨ s.pinPendingAt port = none → exec (.portTransaction port f) s = .next (s.judgeFrame port f).1)) ∧
    (p.paired = true → st = 1 → s.canDraw = true → let (s1, id) := s.draw 16
      exec (.portSessionOpen port) s = .next ((s1.setPort port { p with
        nonce := id
        session := []
        txSeq := 0
        rxSeq := 0
        discards := 0
        silent := 0
        queue := [(0x01, id)] }).setPortState port 2)) ∧
    (s.canDraw = false → exec (.portSessionOpen port) s = .next s) ∧
    (good →
      (st = 2 → exec (.helloAck port f nonce) s = .next ((t.setPort port { t.port port with
        session := kdf (t.port port).key "PORT" ((t.port port).nonce ++ nonce ++ leBytes 1 port) 256 }).setPortState port 3)) ∧
      (st = 3 → named → right = true → bitOf (trusted.get (R.quorumSlotApprovalsApproved n)) pos = false →
        exec (.approve port f op pos pin digest) s = .next ((trusted.approveBit n pos true).padResult port op 0)) ∧
      (st = 3 → named → right = true → bitOf (trusted.get (R.quorumSlotApprovalsApproved n)) pos = true →
        exec (.approve port f op pos pin digest) s = .next (trusted.padResult port op 5)) ∧
      (st = 3 → named → right = false →
        exec (.approve port f op pos pin digest) s = .next ((t.wrongPin port n pos c).padResult port op 1)) ∧
      (st = 3 → t.slotPends op = false → exec (.approve port f op pos pin digest) s = .next (t.padResult port op 3)) ∧
      (st = 3 → t.custodian none pos = some c → c.pinPending = true → c.enrolPort = port → pinOk pin = true →
        exec (.pinSet port f pos pin pin) s = .next ((t.setCustodian pos { c with
          pinPending := false
          verifier := t.pinVerifier pos pin
          pinFails := 0 }).padResult port 0 0) ∧
        (pin2 ≠ pin → exec (.pinSet port f pos pin pin2) s = .next (t.padResult port 0 6))) ∧
      (2 ≤ st → exec (.keepalive port f) s = .next t)) ∧
    (2 ≤ st → f.empty = false → f.tagOk = false → p.discards < 2 → p.silent < 99 → exec (.keepalive port f) s
      = .next ((s.incSat (if port = 0 then R.quorumPortErrDiscardA else R.quorumPortErrDiscardB)).setPort port { p with
        discards := p.discards + 1
        silent := p.silent + 1 }))

/-- Faults that escalate, the ends of resets, and power (R64, R66, R137, R168, R207, R342, R375, R376, R378, R394, R395, R403, R411,
R412, R454, R470): an open HARD fault whose time is up is reported again as SEVERE. A cluster's or a region's reset ends: the
clusters load, the lanes test themselves, the TRNG runs its known-answer tests, a pair joins again. PORST_N and the loss of main
power reset die M, the second clears a halt too and cuts a transition where its burns had come to; a start samples the straps,
takes the parts that pass their test and runs Trailhead, stays halted, or stops in SCRAPPED; a deferred generation of RS is tried
again; the G5 restart, once the DRBG serves, ends with the custody firmware in service or with Trailhead stopped. A scrub reports
what it corrected and what it could not. -/
def Obligations.ResetsAndPower : Prop :=
  ∀ (s : State) (i c g cut cid a b : Nat) (r : FaultRec) (f : BootFacts) (bad : Nat) (n : List Bool) (nk kat4 kat5 : Bool) (u : State),
    let open_ : State := { s with pwr.clusterReset := setBit s.pwr.clusterReset c false }
    let wiped : State := open_.endWipe c
    let tested (t : State) : State := (List.range 8).foldl (fun t n => if t.laneState n = 1 then t.setLaneState n 2 else t) t.commitDevice
    let back_ : State := (({ s with pwr.regionReset := setBit s.pwr.regionReset g false } : State).freePosted g).reloading g 3 0
    let lost (t : State) : State := { t.baseReset with
      pwr := { t.baseReset.pwr with
        main := false
        halted := false } }
    let rows : State := (if b = 2 then s.fieldCfg else s).burnIntent a b
    let straps : State := ({ s with pwr.porstN := true } : State).sampleStraps f
    let starts (t : State) : Prop :=
      let settled : State := (t.put R.keeperRsStatusGenerated 0).settleLife
      (t.pwr.halted = true → exec (.boot f) s
        = .next (((t.setDev R.devStatusBoot 3).put R.bootStatusStop 7).put R.bootStatusStage 4)) ∧
      (t.pwr.halted = false → settled.get R.devStatusLife ≠ 3 → settled.get R.devStatusLife ≠ 4 →
        exec (.boot f) s = .next (((settled.startParts f.out).startTrng f).bootEntropy f)) ∧
      (t.pwr.halted = false → settled.get R.devStatusLife = 3 → settled.is R.keeperRsStatusPresent = true →
        exec (.boot f) s = .next (((settled.shredRs.startParts f.out).startTrng f).bootEntropy f)) ∧
      (t.pwr.halted = false → settled.get R.devStatusLife = 3 → settled.is R.keeperRsStatusPresent = false →
        exec (.boot f) s = .next (((settled.startParts f.out).startTrng f).bootEntropy f)) ∧
      (t.pwr.halted = false → settled.get R.devStatusLife = 4 → settled.is R.keeperRsStatusPresent = true →
        exec (.boot f) s = .next settled.shredRs.scrapped) ∧
      (t.pwr.halted = false → settled.get R.devStatusLife = 4 → settled.is R.keeperRsStatusPresent = false →
        exec (.boot f) s = .next settled.scrapped)
    let back : State := ({ s with life.booting := none } : State).put R.keeperRsStatusGenerated 0
    let served : State := ((u.custodyServes.testCustodians f).stricter.copyRecords).cfgInForce.finishIntents
    (i < 16 → bitOf (s.get R.faultHardOpen) i = true → s.timersRun = true → look s.fault.hard i = some r →
      exec (.hardEscalation i) s = .next (((s.closeHard i).incSat R.faultCountCEscalated).severe { r with
        cls := 4
        escalated := true })) ∧
    (bitOf s.pwr.clusterReset c = true →
      (c < 16 → s.clusterState c = 5 → exec (.clusterResetEnd c kat4 kat5) s
        = .next (((wiped.setCluster c { wiped.cluster c with
          quarAt := (s.compass.mc :: (wiped.cluster c).quarAt).take 3 }).setClusterState c 6).settleGate c).onward) ∧
      (c < 16 → s.clusterState c ≠ 5 → exec (.clusterResetEnd c kat4 kat5) s = .next open_.onward) ∧
      (c = 16 → exec (.clusterResetEnd c kat4 kat5) s = .next (tested open_).onward) ∧
      (c = 17 → exec (.clusterResetEnd c kat4 kat5) s = .next (open_.katEnd kat4 kat5).onward) ∧
      (c = 18 → bitOf s.life.pairsFenced 0 = false → s.is R.devStatusCustodyUp = true →
        exec (.clusterResetEnd c kat4 kat5) s
          = .next ({ open_.put R.mpcWorldStatusPairA 1 with worlds.missedA := false } : State).showPairs.onward) ∧
      (c = 19 → bitOf s.life.pairsFenced 1 = false → s.is R.devStatusCustodyUp = true →
        exec (.clusterResetEnd c kat4 kat5) s
          = .next ({ open_.put R.mpcWorldStatusPairB 1 with worlds.missedB := false } : State).showPairs.onward)) ∧
    (bitOf s.pwr.clusterReset c = false → exec (.clusterResetEnd c kat4 kat5) s = .next s.onward) ∧
    (bitOf s.pwr.regionReset g = true → s.pwr.halted = false →
      (g ≤ 3 → exec (.regionResetEnd g kat4 kat5) s = .next (back_.clustersBack g).onward) ∧
      (g = 4 → exec (.regionResetEnd g kat4 kat5) s = .next ((tested back_).katEnd kat4 kat5).onward) ∧
      (g = 6 ∨ g = 7 → exec (.regionResetEnd g kat4 kat5) s = .next back_.onward)) ∧
    (s.pwr.main = true → s.pwr.porstN = true →
      exec .porstNAssert s = .next s.baseReset ∧
      exec (.mramScrub [(bad, true)]) s = .next (s.soft (locM 0xF 30 bad) 1 0) ∧
      exec (.mramScrub [(bad, false)]) s = .next (s.hard (locM 0xF 30 bad) 1 0)) ∧
    (s.pwr.main = true →
      (s.life.updating = none → exec (.mainPowerLoss cut) s = .next (lost s)) ∧
      (s.life.updating = some (cid, .transition a b) →
        (cut = 0 → exec (.mainPowerLoss cut) s = .next (lost s)) ∧
        (cut = 1 → exec (.mainPowerLoss cut) s = .next (lost (s.burnIntent a b))) ∧
        (cut = 2 → exec (.mainPowerLoss cut) s
          = .next (lost { rows with life.stateRows := rows.life.stateRows.set a tornRow })) ∧
        (cut = 3 → exec (.mainPowerLoss cut) s
          = .next (lost { rows with life.stateRows := burnRows rows.life.stateRows a b })))) ∧
    exec .mainPowerOn s = .next { s with pwr.main := true } ∧
    (s.startDue = true →
      (s.life.underway = false → starts straps) ∧
      (s.life.underway = true → starts s)) ∧
    (s.life.booting = some f → s.get R.bootStatusStop = 2 → exec (.rsGenRetry n nk) s = .next (s.bootSecret { f with
      n := n
      nk := nk })) ∧
    (s.restarting = true →
      (s.canDraw = false → exec (.g5RestartEnd f) s = .next ({ s with life.booting := some f } : State).onward) ∧
      (s.canDraw = true → back.bankVerifies f (back.get R.bootStatusBank) = true →
        (((back.measure f).takeBank f (back.get R.bootStatusBank)).unlockKeys f = (u, true) →
          (served.hs.attached = true →
            exec (.g5RestartEnd f) s = .next (((served.reopen.slotsLost).put R.bootStatusStage 3).noteHealth.onward)) ∧
          (served.hs.attached = false →
            exec (.g5RestartEnd f) s = .next (((served.slotsLost).put R.bootStatusStage 3).noteHealth.onward))) ∧
        (((back.measure f).takeBank f (back.get R.bootStatusBank)).unlockKeys f = (u, false) →
          (u.is R.keeperRsStatusWithheld = true → exec (.g5RestartEnd f) s = .next (u.stop 1).onward) ∧
          (u.is R.keeperRsStatusWithheld = false → exec (.g5RestartEnd f) s = .next (u.stop 5).onward))) ∧
      (s.canDraw = true → back.bankVerifies f (back.get R.bootStatusBank) = false →
        exec (.g5RestartEnd f) s = .next (back.stop 4).onward))

/-- Records, alarms and what expires (R67, R350, R357 to R359, R367, R382, R385, R390, R404, R439): the LOG block writes the record that
stands in LOG_RECORD; a freeze ends with what it held written; the journal's oldest entry goes to its place, after a gap's, and a
failed write detaches it, and its entries wait while G6 resets or LOG is quiesced; pocket records are copied once each while the
log is not frozen, the one kept for a SHRED after them, then the count of those that were lost. The first path of a source that
alarms counts, and answers at once or begins a delay; the second agrees; at the delay's end the erasure is performed, or a
mismatch recorded; an alarm that has passed clears, KEEPER_POWER's never. While NK passes its tests, K is replaced and both copies
of RS rewritten, and the anchor's (R111); a challenge and a replication offer lapse. -/
def Obligations.RecordsAndKeeper : Prop :=
  ∀ (s : State) (typ n v detail value : Nat) (b : Bool) (e : JournalEntry) (rest : List JournalEntry) (p : Pocket) (d : Decision) (o : Offer)
    (ps : List Pocket) (u w : State) (rs : Bytes) (anchor : Nat),
    let size := s.get R.logJournalCfgLog2Size
    let seq := s.get R.logJournalNextSeq
    let at_ := s.log.ringAddr + 64 * (seq % 2 ^ size)
    let told (t : State) : State := (((t.put R.logJournalNextSeq (seq + 1)).emit (.hostWrite 0 s.log.headerAddr (leBytes 8 (seq +
      1)))).hostTell s.log.headerAddr (leBytes 8 (seq + 1))).raise 7
    let took : State := ({ s with log.journal := rest } : State).put R.logJournalCfgBuffered rest.length
    let held (t : State) : State := t.put R.keeperPocketHeld (t.keeper.pocket.length + (if t.keeper.last.isSome then 1 else 0))
    let known : Bool := s.log.recs.any (fun r => r.typ == 0x10 && le r.body 0 4 == p.serial)
    let shown := s.showSensor n detail value
    let first : State := shown.detected.incSat R.keeperTamperCountAlarms
    let said : Decision := {
      response := shown.responseOf n
      battery := !shown.pwr.main
      bFirst := b
      agreed := false
      detail := detail
      value := value
      delay := 0
      serial := shown.keeper.serial
      time := shown.get R.keeperThermosClockTicks }
    let stands : State := if n = 9 then first else (first.setPath b n true).putBit R.keeperAlarmedAlarmed n true
    let begun := stands.alert.lockAct.delayFor n
    let masked (t : State) : State := ({ t with keys.anchor := Twin.of (leBytes 8 anchor) (Config.random t.fresh 8) } : State).drawn
    let after : State := ({ s with keeper.deciding := drop s.keeper.deciding n } : State).showDeciding
    let flags := pocketFlags d.battery true false d.bFirst
    let apart : State := ((after.incSat R.keeperTamperCountMismatches).tamperSeen n 2 true d.battery).pocketAdd d.serial d.time n 2 flags
      d.detail d.value
    (exec (.logSubmit typ) s = .next (s.logAdd (typ % 65536) (le s.logRecordBytes 0 2) (le s.logRecordBytes 2 2)
      (s.logRecordBytes.drop 4))) ∧
    (s.is R.logStatusFrozen = false → exec .logFreezeTimeout s = .next s) ∧
    (s.is R.logStatusFrozen = true → exec .logFreezeTimeout s = .next (s.log.buffer.foldl (fun t r => t.logWrite r)
      ((({ s with log.buffer := [] } : State).put R.logStatusFrozen 0).put R.logStatusBuffered 0))) ∧
    (size ≠ 0 → bitOf s.pwr.regionReset 6 = false → s.is (R.hdrCtrlQuiesce 0x30000) = false →
      (s.log.gap = 0 → s.log.journal = e :: rest → exec (.journalEntryWrite true) s
        = .next (told ((took.emit (.journalWrite at_ seq e.typ e.inst e.stamp e.body)).hostTell at_ (leBytes 8 seq ++ leBytes 2 e.typ ++
          leBytes 2 e.inst ++ leBytes 12 e.stamp ++ padTo 32 e.body ++ leBytes 8 seq)))) ∧
      (s.log.gap ≠ 0 → exec (.journalEntryWrite true) s
        = .next (told ((({ s.stamped with log.gap := 0 } : State).emit (.journalWrite at_ seq 0x40 0xFFFF s.stamp
          (padTo 32 (leBytes 4 s.log.gap)))).hostTell at_ (leBytes 8 seq ++ leBytes 2 0x40 ++ leBytes 2 0xFFFF ++ leBytes 12 s.stamp ++
          padTo 32 (leBytes 4 s.log.gap) ++ leBytes 8 seq)))) ∧
      exec (.journalEntryWrite false) s = .next ((s.put R.logJournalCfgLog2Size 0).raise 7)) ∧
    (bitOf s.pwr.regionReset 6 = true ∨ s.is (R.hdrCtrlQuiesce 0x30000) = true → exec (.journalEntryWrite b) s = .next s) ∧
    (s.is R.logStatusFrozen = true → exec .pocketRecordCopy s = .next s) ∧
    (s.is R.devStatusCustodyUp = true → s.is R.logStatusFrozen = false →
      (s.keeper.pocket = p :: ps → known = false → exec .pocketRecordCopy s
        = .next (held (({ s with keeper.pocket := ps } : State).logAdd 0x10 0xFFFF 0xFFFF p.bytes))) ∧
      (s.keeper.pocket = p :: ps → known = true → exec .pocketRecordCopy s = .next (held { s with keeper.pocket := ps })) ∧
      (s.keeper.pocket = [] → s.keeper.last = some p → known = false → exec .pocketRecordCopy s
        = .next (held (({ s with keeper.last := none } : State).logAdd 0x10 0xFFFF 0xFFFF p.bytes))) ∧
      (s.keeper.pocket = [] → s.keeper.last = none → s.get R.keeperPocketOverflow = 0 → exec .pocketRecordCopy s = .next s) ∧
      (s.keeper.pocket = [] → s.keeper.last = none → s.get R.keeperPocketOverflow ≠ 0 → exec .pocketRecordCopy s
        = .next ((s.logAdd 0x11 0xFFFF 0xFFFF (leBytes 1 (s.get R.keeperPocketOverflow))).put R.keeperPocketOverflow 0))) ∧
    (s.watched n = true → s.pathUp b n = false →
      (shown.pathUp (!b) n = false → said.response < 3 →
        exec (.tamperAlarm n b detail value) s = .next (stands.perform n said.response said false)) ∧
      (shown.pathUp (!b) n = false → 3 ≤ said.response →
        exec (.tamperAlarm n b detail value) s = .next ({ begun.1 with
          keeper.deciding := store begun.1.keeper.deciding n { said with delay := begun.2 } } : State).showDeciding) ∧
      (shown.pathUp (!b) n = true → exec (.tamperAlarm n b detail value) s
        = .next (let t := shown.setPath b n true
            { t with keeper.deciding := adjust t.keeper.deciding n (fun d => { d with agreed := true }) }))) ∧
    (look s.keeper.deciding n = some d →
      (d.agreed = true → exec (.tamperDecisionDelayEnd n) s = .next (after.perform n d.response d true)) ∧
      (d.agreed = false → exec (.tamperDecisionDelayEnd n) s
        = .next (apart.detected.pocketAdd apart.keeper.serial (apart.get R.keeperThermosClockTicks) 25 2 flags 0 0))) ∧
    (n ≠ 26 → exec (.tamperAlarmClear n) s
      = .next (((s.setPath false n false).setPath true n false).putBit R.keeperAlarmedAlarmed n false)) ∧
    exec (.tamperAlarmClear 26) s = .next s ∧
    (s.watched n = false ∨ s.pathUp b n = true → exec (.tamperAlarm n b detail value) s = .next s) ∧
    (s.nkServes = false → exec .keeperMaskRotate s = .next s) ∧
    (s.nkServes = true →
      (s.useRs = (u, some rs) → (u.storeRs rs (Config.random u.fresh 32)).drawn.useAnchor = (w, some anchor) →
        exec .keeperMaskRotate s = .next (masked w)) ∧
      (s.useRs = (u, some rs) → (u.storeRs rs (Config.random u.fresh 32)).drawn.useAnchor = (w, none) →
        exec .keeperMaskRotate s = .next w) ∧
      (s.useRs = (u, none) → u.useAnchor = (w, some anchor) → exec .keeperMaskRotate s = .next (masked w)) ∧
      (s.useRs = (u, none) → u.useAnchor = (w, none) → exec .keeperMaskRotate s = .next w)) ∧
    exec .debugChallengeExpiry s = .next (({ s with life.challenge := [] } : State).put R.lifeDebugChallenge 0) ∧
    (look s.ferry.offers v = some o → s.compass.mc < o.ends → exec (.replicationOfferExpiry v) s = .next s) ∧
    (look s.ferry.offers v = some o → o.ends ≤ s.compass.mc →
      exec (.replicationOfferExpiry v) s = .next { s with ferry.offers := drop s.ferry.offers v })

/-! ### Ferry, LANTERN and SMBus -/

/-- Links and enumeration (R422 to R426, R428, R429, R434): a DISCOVER makes a device with no role a follower of its sender and is
answered and passed on; one from another front device holds the port DOWN; on the front device its own walk comes back. An answer
is numbered by its place, or passed on. ASSIGN sets the number. A port that trains is UP and replays; one that falls silent
retrains, and the ring breaks where it stays silent; a follower that is absent loses its commands. NAK replays, an idle link
carries ACK, and a tick walks again. -/
def Obligations.FerryLinks : Prop :=
  ∀ (s : State) (port front pos serial life number : Nat) (h : FerryHead),
    let st := s.get (R.ferryPortState port)
    let role := s.get R.ferryStatusRole
    let up : Prop := s.ferryRuns = true ∧ port ≤ 3
    let seen : State := s.put (R.ferryPortState port) 3
    let heard : State := (s.setFerryPort port ((s.ferryPort port).heard h false)).put (R.ferryPortState port) 3
    let lost : State := (s.linkError (s.get (R.ferryFollowerPort number)) 2).loseFollower number
    (up → st ≠ 1 → seen.get R.ferryStatusRole = 0 → exec (.discover port front) s
      = .next (({ (seen.put R.ferryStatusRole 2).put (R.ferryPortUse port) 1 with
          ferry.front := some front
          pwr.link := false } : State).answerDiscover port front)) ∧
    (up → st ≠ 1 → seen.get R.ferryStatusRole = 2 →
      (seen.ferry.front ≠ some front → exec (.discover port front) s
        = .next ((seen.put (R.ferryPortState port) 1).put (R.ferryPortReason port) 1)) ∧
      (seen.ferry.front = some front → (List.range 4).any (fun p => seen.get (R.ferryPortUse p) == 1) = true →
        exec (.discover port front) s = .next (seen.answerDiscover port front))) ∧
    (up → st ≠ 1 → seen.get R.ferryStatusRole = 1 →
      (¬(front = s.ownSerial ∧ port = 1) → exec (.discover port front) s
        = .next ((seen.put (R.ferryPortState port) 1).put (R.ferryPortReason port) 1)) ∧
      (port ≤ 2 → pos ≠ 0 → exec (.discoverAck port pos serial life) s = .next (seen.found port pos serial life))) ∧
    (up → st ≠ 1 → seen.get R.ferryStatusRole = 2 → exec (.discoverAck port pos serial life) s
      = .next (seen.ferrySend seen.upstream 2 0xFF 0 true true (leBytes 8 serial ++ leBytes 1 life))) ∧
    (s.ferryRuns = true → role = 2 → 1 ≤ number → number ≤ 63 → exec (.assign number) s = .next (s.put R.ferryStatusSelf number)) ∧
    (s.ferryRuns = true → role = 2 → number = 0 ∨ 63 < number → exec (.assign number) s = .next (s.linkError s.upstream 4)) ∧
    (up → st ≠ 1 → h.crcOk = true →
      exec (.linkFrame port h false) s = .next heard ∧ exec (.linkFrame port h true) s = .next (heard.replay port)) ∧
    (up → st ≠ 1 → h.crcOk = false → exec (.linkFrame port h false) s = .next (s.crcFailed port)) ∧
    (up → st = 3 → exec (.ferryIdleLink port) s = .next (s.linkFrame port false)) ∧
    (s.ferryRuns = true → role = 1 → exec .ferryDiscoverTick s = .next s.closeEnumeration.discoverAll) ∧
    (up → st ≠ 3 → exec (.ferryPortTrained port) s = .next (((seen.put (R.ferryPortReason port) 0).replay port).settleRing.discoverAll)) ∧
    (up → st = 3 → exec (.ferryLinkSilence port) s
      = .next (((s.put (R.ferryPortState port) 2).incSat (R.ferryPortRetrains port)).linkError port 1)) ∧
    (up → st = 2 → role = 1 → s.get R.ferryStatusMode = 2 → port ≤ 1 → exec (.ferryLinkSilence port) s
      = .next ((s.ferry.topo.foldl (fun t x => t.moveFollower x.1 (1 - port)) (s.put R.ferryStatusRingBroken 1)).onward)) ∧
    (0 < number → number ≤ 63 → role = 1 → 2 ≤ s.get (R.ferryFollowerState number) →
      (lost.get R.ferryStatusMode = 2 → exec (.followerAbsent number) s = .next (lost.breakRing (fun k => if k < number then 0
        else 1)).onward) ∧
      (lost.get R.ferryStatusMode ≠ 2 → exec (.followerAbsent number) s = .next lost.onward))

/-- Traffic between devices (R46, R427, R430, R431, R433, R435): a frame for this device, in order and undamaged, acts on it, one
for another goes on with its TTL lowered. A command is taken once it is whole; its answer ends the command that waits; a read is
answered with REG_DATA and ends the far read, a write is done with the PF's rights. Host memory is read and written for a
follower under function 0. A far window of a PRESENT follower sends its access on; one of no follower reads zeros and is
recorded, as does a read that no answer comes to. -/
def Obligations.FerryTraffic : Prop :=
  ∀ (s : State) (h : FerryHead) (m : Msg) (n off len v status reason info hamper key stamp addr source : Nat) (bytes : Bytes),
    let p := s.arrival h
    let t : State := (s.setFerryPort p ((s.ferryPort p).heard h true)).put (R.ferryPortState p) 3
    let arrives : Prop := s.ferryRuns = true ∧ p ≤ 3 ∧ s.get (R.ferryPortState p) ≠ 1 ∧ h.crcOk = true ∧
      h.lseq % 65536 = ((s.ferryPort p).rxSeq + 1) % 65536 ∧ h.ttl ≠ 0
    let here : Prop := arrives ∧ t.get R.ferryStatusRole = 2 ∧ (h.dest = 0xFF ∨ h.dest = t.get R.ferryStatusSelf)
    let front : Prop := arrives ∧ t.get R.ferryStatusRole = 1
    let all : Prop := h.first = true ∧ h.last = true
    let whole : State := { t with ferry.gathered := drop t.ferry.gathered h.xtag }
    let told : Msg := { m with origin := .ferry h.xtag }
    let tag := t.ferry.nextTag
    let asked : State := { t with
      ferry.waits := store t.ferry.waits tag ⟨h.src, none, ⟨0x40, 0⟩, h.xtag⟩
      ferry.nextTag := (tag + 1) % 2 ^ 32 }
    let far : Prop := s.hostThere 0 = true ∧ 1 ≤ n ∧ n ≤ 63
    let calm := s.noHalf ⟨0x50, 0⟩
    let next : State := { calm with ferry.nextTag := (s.ferry.nextTag + 1) % 2 ^ 32 }
    let farAt := 0x1000000 + 0x40000 * n + off
    (here → all → exec (.commandFrame h m) s = .next ((whole.take told).1.begin (whole.take told).2 false).pump) ∧
    (front → all → exec (.responseFrame h status reason info hamper key stamp bytes) s
      = .next (whole.farAnswer h.xtag h.src stamp ⟨status, reason, 0, info, hamper, key, bytes⟩)) ∧
    (arrives → t.get R.ferryStatusRole = 2 → h.dest ≠ 0xFF → h.dest ≠ t.get R.ferryStatusSelf →
      exec (.commandFrame h m) s = .next (t.passOn p 4 h (headerBytes m ++ m.payload)) ∧
      exec (.eventFrame h source) s = .next (t.passOn p 12 h (leBytes 2 source))) ∧
    (here → off < 0x10000 → exec (.regRead h off len) s = .next ((t.regRead ⟨0x60, 0⟩ off len).1.sendMessage
      (t.regRead ⟨0x60, 0⟩ off len).1.upstream 8 0 h.xtag (leBytes len (t.regRead ⟨0x60, 0⟩ off len).2))) ∧
    (here → off < 0x10000 → exec (.regWrite h off len v) s = .next (t.regWrite ⟨0x60, 0⟩ off len v true)) ∧
    (here → 0x10000 ≤ off →
      exec (.regRead h off len) s = .next (t.fabric ⟨0x60, 0⟩ .read (0x30000000 + off) len (leBytes 4 h.xtag)) ∧
      exec (.regWrite h off len v) s = .next (t.fabric ⟨0x60, 0⟩ .write (0x30000000 + off) len (leBytes len v))) ∧
    (∀ q place, front → look t.ferry.waits h.xtag = some ⟨q, none, ⟨0x50, 0⟩, place⟩ → exec (.regData h v) s
      = .next (({ t with ferry.waits := drop t.ferry.waits h.xtag } : State).emit (.readData ⟨0x50, 0⟩ place v))) ∧
    (∀ u, front → asked.access 0 addr len none (.ferryHost tag) = (u, .waits) → exec (.hostRead h addr len) s = .next u) ∧
    (front → all → exec (.hostWrite h addr bytes) s
      = .next (whole.access 0 addr bytes.length (some bytes) (.ferryHost (2 ^ 32))).1) ∧
    (∀ r use, here → all → look t.ferry.waits h.xtag = some ⟨0, none, r, use⟩ → exec (.hostData h (.data bytes)) s
      = .next (({ whole with ferry.waits := drop whole.ferry.waits h.xtag } : State).hostCame use bytes)) ∧
    (front → exec (.eventFrame h source) s = .next t) ∧
    (∀ place, far → s.get R.ferryStatusRole = 1 → s.get (R.ferryFollowerState n) = 3 → calm.farTarget n off = some place →
      (v < 2 ^ 32 → exec (.farWindowAccess n off true v) s
        = .next (next.sendMessage (s.get (R.ferryFollowerPort n)) 7 n s.ferry.nextTag (leBytes 4 place ++ leBytes 1 4 ++ leBytes 4 v))) ∧
      (2 ^ 32 ≤ v → exec (.farWindowAccess n off true v) s
        = .next (next.sendMessage (s.get (R.ferryFollowerPort n)) 7 n s.ferry.nextTag (leBytes 4 place ++ leBytes 1 8 ++ leBytes 8 v))) ∧
      exec (.farWindowAccess n off false 0) s = .next (({ next with
        ferry.waits := store s.ferry.waits s.ferry.nextTag ⟨n, none, ⟨0x50, 0⟩, farAt⟩ } : State).sendMessage
        (s.get (R.ferryFollowerPort n)) 6 n s.ferry.nextTag (leBytes 4 place ++ leBytes 1 4))) ∧
    (off < 0x10000 → calm.farTarget n off = some off) ∧
    (0x10000 ≤ off → off < 0x30000 → calm.farTarget n off = some (0x100000 + (off - 0x10000))) ∧
    (0x40000 ≤ off → calm.farTarget n off = none) ∧
    (far → s.get (R.ferryFollowerState n) ≠ 3 →
      exec (.farWindowAccess n off false 0) s
        = .next ((calm.accessErr ⟨0x50, 0⟩ 8 farAt false).emit (.readData ⟨0x50, 0⟩ farAt 0)) ∧
      exec (.farWindowAccess n off true v) s = .next (calm.accessErr ⟨0x50, 0⟩ 8 farAt true)) ∧
    (far → s.get R.ferryStatusRole = 1 → s.get (R.ferryFollowerState n) = 3 → calm.farTarget n off = none →
      exec (.farWindowAccess n off true v) s = .next (calm.accessErr ⟨0x50, 0⟩ 3 farAt true)) ∧
    (s.hostThere 0 = false → exec (.farWindowAccess n off true v) s = .next s) ∧
    (∀ q place, look s.ferry.waits n = some ⟨q, none, ⟨0x50, 0⟩, place⟩ → exec (.farReadTimeout n) s
      = .next ((({ s with ferry.waits := drop s.ferry.waits n } : State).emit (.readData ⟨0x50, 0⟩ place 0)).accessErr ⟨0x50, 0⟩ 8 place false))

/-- SMBus and LANTERN (R380, R461, R462, Table EL.8): while the supplies are present and PORST_N is high the target answers its
seven reads with the registers they name; the alert response answers while SMB_ALERT_N is low. With an edge come the levels of
GPIO7 to GPIO0 and of HOLDUP_SENSE as the board drives them (log entry 115). At a whole millisecond of the
tick LANTERN rises once the device has been healthy for four, half a millisecond later it falls, and it stands low while the device
is not healthy or has not been for four milliseconds. -/
def Obligations.PinsOfTheBase : Prop :=
  ∀ (s : State) (t0 pins : Nat),
    let u := ((s.put R.sysPinsGpio (field pins 0 8)).putB R.sysPinsHoldup (bitOf pins 8)).noteHealth
    let part := u.tick % cyclesPerMs
    (s.pwr.main = true → s.pwr.porstN = true →
      exec .smbusDevStatus s = .next (s.emit (.smbus (s.regBytes 0x4000))) ∧
      exec .smbusLanternStatus s = .next (s.emit (.smbus (s.regBytes 0x4020))) ∧
      exec .smbusTemperatures s = .next (s.emit (.smbus ((s.regBytes 0xD0054).take 2 ++ s.regBytes 0xD0058))) ∧
      exec .smbusKeeperPower s = .next (s.emit (.smbus (s.regBytes 0xD005C ++ s.regBytes 0xD0060))) ∧
      exec .smbusFaultCountB s = .next (s.emit (.smbus (s.regBytes 0x2007C))) ∧
      exec .smbusDeviceSerial s = .next (s.emit (.smbus (padTo 8 s.life.serial))) ∧
      (s.faultAsserted = true → exec .smbusAlertResponse s
        = .next (s.emit (.smbus [BitVec.ofNat 8 (2 * (0x60 + s.get R.sysPinsStrap % 4))])))) ∧
    (s.faultAsserted = false → exec .smbusAlertResponse s = .next s) ∧
    (part ≠ 0 → part ≠ cyclesPerMs / 2 → exec (.lanternEdge pins) s = .next u) ∧
    (part = 0 → u.fault.healthySince = some t0 → t0 + 4 * cyclesPerMs ≤ u.tick →
      exec (.lanternEdge pins) s = .next ((u.put R.lanternStatusLevel 1).put R.lanternStatusRunning 1)) ∧
    (part = cyclesPerMs / 2 → u.fault.healthySince = some t0 → t0 + 4 * cyclesPerMs ≤ u.tick →
      exec (.lanternEdge pins) s = .next (u.put R.lanternStatusLevel 0)) ∧
    (part = 0 ∨ part = cyclesPerMs / 2 → u.fault.healthySince = none ∨ (u.fault.healthySince = some t0 ∧ u.tick < t0 + 4 * cyclesPerMs) →
      exec (.lanternEdge pins) s = .next ((u.put R.lanternStatusLevel 0).put R.lanternStatusRunning 0))
end

