-- ==== Sys2Proof/Laws/Tables.lean ====
section
/-! SUPPORT. What the table operations do: an entry reads as it was last stored, other entries stand, and every operation keeps
the keys rising. -/

namespace Sys2Proof.Machine

variable {α : Type}

theorem look_drop (m : Amap α) (k j : Nat) : look (drop m k) j = if j = k then none else look m j := by
  induction m with
  | nil => simp [drop, look]
  | cons c m ih =>
    obtain ⟨x, v⟩ := c
    by_cases hx : x = k
    · by_cases hj : j = k
      · subst hj; simpa [drop, hx] using ih
      · simp [drop, look, ih, hx, hj, Ne.symm hj]
    · by_cases hj : x = j
      · subst hj; simp [drop, look, hx]
      · simp [drop, look, hx, hj, ih]

theorem not_mem_drop (m : Amap α) (k : Nat) : ∀ c ∈ drop m k, c.1 ≠ k := by
  induction m with
  | nil => simp [drop]
  | cons c m ih =>
    obtain ⟨x, v⟩ := c
    by_cases hx : x = k
    · simp only [drop, hx, if_true]; exact ih
    · intro c hc
      simp only [drop, hx, if_false, List.mem_cons] at hc
      rcases hc with rfl | hc
      · exact hx
      · exact ih c hc

theorem look_insert (m : Amap α) (k j : Nat) (v : α) (h : ∀ c ∈ m, c.1 ≠ k) :
    look (insert m k v) j = if j = k then some v else look m j := by
  induction m with
  | nil => simp [insert, look, eq_comm]
  | cons c m ih =>
    obtain ⟨x, w⟩ := c
    have hx : x ≠ k := h (x, w) (by simp)
    have hm := ih (fun c hc => h c (by simp [hc]))
    by_cases hlt : k < x
    · by_cases hj : j = k
      · simp [insert, hlt, look, hj]
      · simp [insert, hlt, look, hj, Ne.symm hj]
    · by_cases hj : x = j
      · subst hj; simp [insert, hlt, look, hx]
      · simp [insert, hlt, look, hj, hm]

/-- An entry reads as it was stored; every other entry stands. -/
theorem look_store (m : Amap α) (k j : Nat) (v : α) : look (store m k v) j = if j = k then some v else look m j := by
  rw [store, look_insert _ _ _ _ (not_mem_drop m k), look_drop]
  by_cases hj : j = k <;> simp [hj]

@[simp] theorem look_store_same (m : Amap α) (k : Nat) (v : α) : look (store m k v) k = some v := by simp [look_store]

theorem look_store_ne (m : Amap α) {k j : Nat} (v : α) (h : j ≠ k) : look (store m k v) j = look m j := by simp [look_store, h]

/-- A table of naturals reads as it was stored; every other key stands. -/
theorem lookD_storeD (m : Amap Nat) (k j d e v : Nat) (h : j = k → e = d) :
    lookD (storeD m k d v) j e = if j = k then v else lookD m j e := by
  by_cases hv : v = d
  · by_cases hj : j = k
    · simp [lookD, storeD, hv, look_drop, hj, h hj]
    · simp [lookD, storeD, hv, look_drop, hj]
  · by_cases hj : j = k
    · simp [lookD, storeD, hv, hj]
    · simp [lookD, storeD, hv, look_store, hj]

theorem look_adjust (m : Amap α) (k j : Nat) (f : α → α) :
    look (adjust m k f) j = if j = k then (look m k).map f else look m j := by
  unfold adjust
  cases h : look m k with
  | none => by_cases hj : j = k <;> simp [hj, h]
  | some v => by_cases hj : j = k <;> simp [look_store, hj]

/-! ### Rising keys -/

theorem rising_filter (m : Amap α) (p : Nat × α → Bool) (h : Amap.rising m) : Amap.rising (m.filter p) :=
  List.Pairwise.filter _ h

theorem drop_eq_filter (m : Amap α) (k : Nat) : drop m k = m.filter (fun c => decide (c.1 ≠ k)) := by
  induction m with
  | nil => rfl
  | cons c m ih =>
    obtain ⟨x, v⟩ := c
    by_cases hx : x = k <;> simp [drop, hx, ih]

theorem rising_drop (m : Amap α) (k : Nat) (h : Amap.rising m) : Amap.rising (drop m k) := by
  rw [drop_eq_filter]; exact rising_filter _ _ h

theorem mem_insert (m : Amap α) (k : Nat) (v : α) (c : Nat × α) (h : c ∈ insert m k v) : c = (k, v) ∨ c ∈ m := by
  induction m with
  | nil => simpa [insert] using h
  | cons d m ih =>
    obtain ⟨x, w⟩ := d
    by_cases hlt : k < x
    · simpa [insert, hlt] using h
    · simp only [insert, hlt, if_false, List.mem_cons] at h ⊢
      rcases h with h | h
      · exact .inr (.inl h)
      · rcases ih h with h | h
        · exact .inl h
        · exact .inr (.inr h)

theorem rising_insert (m : Amap α) (k : Nat) (v : α) (h : Amap.rising m) (hk : ∀ c ∈ m, c.1 ≠ k) :
    Amap.rising (insert m k v) := by
  induction m with
  | nil => simp [insert, Amap.rising]
  | cons c m ih =>
    obtain ⟨x, w⟩ := c
    have hx : x ≠ k := hk (x, w) (by simp)
    have h' := List.pairwise_cons.1 h
    by_cases hlt : k < x
    · simp only [insert, hlt, if_true]
      refine List.pairwise_cons.2 ⟨fun d hd => ?_, h⟩
      rcases List.mem_cons.1 hd with rfl | hd
      · exact hlt
      · exact Nat.lt_trans hlt (h'.1 d hd)
    · simp only [insert, hlt, if_false]
      refine List.pairwise_cons.2 ⟨fun d hd => ?_, ih h'.2 (fun c hc => hk c (by simp [hc]))⟩
      rcases mem_insert _ _ _ _ hd with rfl | hd
      · show x < k; omega
      · exact h'.1 d hd

/-- Storing keeps the keys rising. -/
theorem rising_store (m : Amap α) (k : Nat) (v : α) (h : Amap.rising m) : Amap.rising (store m k v) :=
  rising_insert _ _ _ (rising_drop m k h) (not_mem_drop m k)

theorem rising_storeD (m : Amap Nat) (k d v : Nat) (h : Amap.rising m) : Amap.rising (storeD m k d v) := by
  unfold storeD; split
  · exact rising_drop m k h
  · exact rising_store m k v h

end Sys2Proof.Machine
end

