-- ==== Sys2Proof/Laws/Access.lean ====
section
/-! SUPPORT. What a register access that gets through comes to: one aligned access is one part of the fabric, and it acts on the
block whole. -/

namespace Sys2Proof.Machine

/-- Little-endian bytes spell their number back (R15). -/
theorem ofLe_leBytes (n v : Nat) : ofLe (leBytes n v) = v % 256 ^ n := by
  induction n generalizing v with
  | zero => simp [leBytes, ofLe, Nat.mod_one]
  | succ n ih =>
    have h : (BitVec.ofNat 8 v).toNat = v % 256 := by simp
    simp only [leBytes, ofLe, ih, h]
    rw [show 256 ^ (n + 1) = 256 * 256 ^ n from Nat.pow_succ', Nat.mod_mul]

theorem length_leBytes (n v : Nat) : (leBytes n v).length = n := by
  induction n generalizing v with
  | zero => rfl
  | succ n ih => simp [leBytes, ih]

/-- An aligned access of the register space is one part. -/
theorem partsAt_aligned {off len : Nat} (hl : len = 4 ∨ len = 8) (ha : off % len = 0) :
    partsAt (0x30000000 + off) len = [(0x30000000 + off, len)] := by
  have h1 : ∀ k, splitParts (k + 1) (0x30000000 + off) len = [(0x30000000 + off, len)] := by
    intro k
    have hm : min len (4096 - (0x30000000 + off) % 4096) = len := by
      rcases hl with rfl | rfl <;> omega
    have hn : len ≠ 0 := by omega
    cases k with
    | zero => simp [splitParts, hm, hn]
    | succ k => simp [splitParts, hm, hn]
  exact h1 _

/-- A checked part that the checker admits is admitted. -/
theorem checkPart_allow {s : State} {r : Requester} {k : AccKind} {a : Nat} {b : Bool} (h : s.judge r k a = .allow) :
    s.checkPart r k a b = (s, true) := by simp [State.checkPart, h]

/-- A slow-window access leaves the host's BAR for the fabric. -/
theorem placeOf_slow {off : Nat} (h : isSlow off = true) : placeOf 0 off = .fabric (0x30000000 + off) := by
  simp [placeOf, h]

/-- A write that gets through is written in the block. -/
theorem State.reaches.write {s : State} {r : Requester} {off len v : Nat} (h : s.reaches r .write off len) :
    s.write r off len v true = s.regWrite r off len (v % 256 ^ len) true := by
  obtain ⟨hm, hp, hh, hs, hl, ha, hb, hj, -⟩ := h
  have hr : inRegs (0x30000000 + off) = true := by
    simp [isSlow] at hs; simp [inRegs]; omega
  have hl0 : len ≠ 0 := by omega
  have key : s.fabric r .write (0x30000000 + off) len (leBytes len v) = s.regWrite r off len (v % 256 ^ len) true := by
    have ht : (leBytes len v).take len = leBytes len v := List.take_of_length_le (by simp [length_leBytes])
    simp [State.fabric, hm, hp, hl0, hb, State.fabricNow, hr, State.runRegs, partsAt_aligned hl ha, checkPart_allow hj, ht, ofLe_leBytes]
  unfold State.write
  by_cases hq : reqIsHost r = true
  · obtain ⟨h1, h2⟩ := hh hq
    rw [h2] at h1
    simp only [hq, h1, h2, placeOf_slow hs]
    simpa using key
  · simp only [hq]
    simpa using key

/-- A read that gets through is answered with what the block gives. -/
theorem State.reaches.read {s : State} {r : Requester} {off len : Nat} (h : s.reaches r .read off len) :
    s.read r off len
      = (s.regRead r off len).1.answerRead r (0x30000000 + off) [] (leBytes len (s.regRead r off len).2) false := by
  obtain ⟨hm, hp, hh, hs, hl, ha, hb, hj, -⟩ := h
  have hr : inRegs (0x30000000 + off) = true := by
    simp [isSlow] at hs; simp [inRegs]; omega
  have hl0 : len ≠ 0 := by omega
  have key : s.fabric r .read (0x30000000 + off) len []
      = (s.regRead r off len).1.answerRead r (0x30000000 + off) [] (leBytes len (s.regRead r off len).2) false := by
    simp [State.fabric, hm, hp, hl0, hb, State.fabricNow, hr, State.runRegs, partsAt_aligned hl ha, checkPart_allow hj]
  unfold State.read
  by_cases hq : reqIsHost r = true
  · obtain ⟨h1, h2⟩ := hh hq
    rw [h2] at h1
    simp only [hq, h1, h2, placeOf_slow hs]
    simpa using key
  · simp only [hq]
    simpa using key

/-- A written word that is no half of a 64-bit register is written under its rights. -/
theorem State.reaches.writeWord {s : State} {r : Requester} {off v : Nat} (h : s.reaches r .write off 4) (h1 : assigned off = true)
    (h2 : isWide off = false) (h3 : off % 8 = 4 → isWide (off - 4) = false) :
    s.write r off 4 v true = (s.noHalf r).writeWord r off (v % 2 ^ 32) := by
  rw [h.write]
  obtain ⟨-, -, -, hs, -, ha, -, -, hb⟩ := h
  have hb' : (s.noHalf r).blockOut off true = false := by simpa [State.blockOut, State.noHalf, State.takeHalf] using hb
  have h3' : ¬ (off % 8 = 4 ∧ isWide (off - 4) = true) := fun ⟨a, b⟩ => by simp [h3 a] at b
  have key : ∀ half, (s.noHalf r).writeAligned r half off 4 (v % 256 ^ 4) = (s.noHalf r).writeWord r off (v % 2 ^ 32) := by
    intro half
    unfold State.writeAligned State.writeHalf
    rw [hb', h1, h2, if_neg (by decide), if_pos rfl, if_pos rfl, if_neg (by decide), if_neg h3',
      show (256 : Nat) ^ 4 = 2 ^ 32 from rfl, Nat.mod_mod]
  rw [← key (look s.iface.halves (halfKey r))]
  show (if _ then (s.noHalf r).writeAligned r (look s.iface.halves (halfKey r)) off 4 (v % 256 ^ 4) else _) = _
  exact if_pos ⟨rfl, .inl ⟨rfl, ha⟩⟩

/-- A permitted word of the slow window, no MSI-X word, takes its write. -/
theorem writeWord_slow {s : State} {r : Requester} {off v : Nat} (hs : isSlow off = true) (h4 : inPfTable off = false)
    (h5 : inPfPba off = false) (hb : look s.iface.pwBusy off = none) (h6 : writeGate r (fieldsOf off) = .pass) : s.writeWord r off v = s.writeSlow r off v := by
  have hs' := hs
  simp [isSlow] at hs'
  have hv : vfPart off = none := by simp [vfPart]; omega
  have hf : ¬ (off < 0x1000 ∨ (0x2000 ≤ off ∧ off < 0x3000)) := by omega
  simp [State.writeWord, hv, hf, h4, h5, h6, hs, hb]

/-- A permitted write of a 32-bit register of the slow window. -/
theorem State.writes32.slow {s : State} {r : Requester} {off v : Nat} (h : s.writes32 r off)
    (hg : writeGate r (fieldsOf off) = .pass) : s.write r off 4 v true = (s.noHalf r).writeSlow r off (v % 2 ^ 32) := by
  obtain ⟨h0, h1, h2, h3, h4, h5, hb⟩ := h
  rw [h0.writeWord h1 h2 h3, writeWord_slow (s := s.noHalf r) h0.2.2.2.1 h4 h5 hb hg]

/-- A write that its rights turn away. -/
theorem State.writes32.denied {s : State} {r : Requester} {off v : Nat} (h : s.writes32 r off)
    (hg : writeGate r (fieldsOf off) = .denied) : s.write r off 4 v true = (s.noHalf r).accessErr r 4 off true := by
  obtain ⟨h0, h1, h2, h3, h4, h5, hb⟩ := h
  have hb' : look (s.noHalf r).iface.pwBusy off = none := hb
  rw [h0.writeWord h1 h2 h3]
  have hs := h0.2.2.2.1
  simp [isSlow] at hs
  have hv : vfPart off = none := by simp [vfPart]; omega
  have hf : ¬ (off < 0x1000 ∨ (0x2000 ≤ off ∧ off < 0x3000)) := by omega
  simp [State.writeWord, hv, hf, h4, h5, hg, hb']

end Sys2Proof.Machine
end

