-- ==== Sys2Proof/Laws/Doors.lean ====
section
/-! SUPPORT. What the command path comes to for a command that is let through. -/

namespace Sys2Proof.Machine

theorem look_take (s : State) (m : Msg) :
    look (s.take m).1.host.cmds (s.take m).2 = some ⟨{ m with cid := (s.take m).2 }, .route, none, none, none, [], none, []⟩ :=
  look_store_same _ _ _

/-- A taken command that its checks let through runs. -/
theorem begin_granted {t : State} {c : Msg} {x : Cmd} (hl : look t.host.cmds c.cid = some x) (hx : x.m = c)
    (h1 : t.precheck c = none) (hp : t.pauses c = false) (h2 : t.isFar c = false)
    (h3 : t.quorumNeed c = none ∨ ∃ k pp, t.quorumNeed c = some (k, pp) ∧ t.quorumPath k c.tenant pp = .runNow) :
    t.begin c.cid false = t.runAct c.cid c := by
  have hlaunch : t.launch c.cid = t.runAct c.cid c := by
    unfold State.launch
    rw [hl]
    simp only [hx, h2, hp]
    rcases h3 with h | ⟨k, pp, h, h'⟩
    · simp [h]
    · simp [h, h']
  unfold State.begin
  rw [hl]
  simp only [hx, h1]
  split <;> simp [hlaunch]

/-- A message command that is let through runs its act, and then whatever waits goes on. -/
theorem command_granted {op : Nat} {m : Msg} {s u : State} {c : Msg} (h : Granted op m s u c) :
    command op m s = .next (((act c u).1.settleAnswer c.cid (act c u).2).pump) := by
  obtain ⟨t, ⟨s1, m1, hd, rfl, hc⟩, h1, hp, h2, h3, hu⟩ := h
  have hb : (s1.take m1).1.begin (s1.take m1).2 false = (act c u).1.settleAnswer c.cid (act c u).2 := by
    have := begin_granted (t := (s1.take m1).1) (c := c) (x := ⟨c, .route, none, none, none, [], none, []⟩)
      (by rw [hc]; exact look_take s1 m1) rfl h1 hp h2 h3
    rw [show (s1.take m1).2 = c.cid by rw [hc], this, hu]
    rfl
  have key : ∀ t x, (s1.take m1).1 = t → (s1.take m1).2 = x →
      (t.begin x false).pump = ((act c u).1.settleAnswer c.cid (act c u).2).pump := by
    rintro _ _ rfl rfl; rw [hb]
  unfold command
  unfold State.door at hd
  cases ho : m.origin with
  | mbox fn n =>
    simp only [ho, Option.ite_none_right_eq_some, Option.some.injEq, Prod.mk.injEq] at hd
    obtain ⟨⟨a, b, d⟩, rfl, rfl⟩ := hd
    have b' : (s.noHalf (requesterOf fn)).get (mboxState fn n) ≠ 1 := b
    have d' : (s.noHalf (requesterOf fn)).get (mboxState fn n) ≠ 3 := d
    simp only [a, if_true, State.toMbox, b', d', if_false]
    exact congrArg _ (key _ _ rfl rfl)
  | internal =>
    simp only [ho, Option.ite_none_right_eq_some, Option.some.injEq, Prod.mk.injEq] at hd
    obtain ⟨⟨a, b, d⟩, rfl, rfl⟩ := hd
    have b' : (s.noHalf (requesterOf nwInst)).get (mboxState nwInst 0) ≠ 1 := b
    have d' : (s.noHalf (requesterOf nwInst)).get (mboxState nwInst 0) ≠ 3 := d
    simp only [a, if_true, State.toMbox, b', d', if_false]
    exact congrArg _ (key _ _ rfl rfl)
  | ring n =>
    simp only [ho] at hd
    split at hd
    · rename_i q hq
      simp only [Option.ite_none_right_eq_some, Option.some.injEq, Prod.mk.injEq] at hd
      obtain ⟨⟨a, b, d⟩, rfl, rfl⟩ := hd
      simp only [State.toRing, hq, a, b, d]
      exact congrArg _ (key _ _ rfl rfl)
    · cases hd
  | ferry x =>
    simp only [ho, Option.ite_none_right_eq_some, Option.some.injEq, Prod.mk.injEq] at hd
    obtain ⟨a, rfl, rfl⟩ := hd
    simp only [a, and_self, if_true]
    exact congrArg _ (key _ _ rfl rfl)
  | firmware =>
    simp only [ho, Option.ite_none_right_eq_some, Option.some.injEq, Prod.mk.injEq] at hd
    obtain ⟨a, rfl, rfl⟩ := hd
    simp only [a, and_self, if_true]
    exact congrArg _ (key _ _ rfl rfl)

/-- A door does not change the opcode. -/
theorem Granted.opcode {op : Nat} {m : Msg} {s u : State} {c : Msg} (h : Granted op m s u c) : c.opcode = op := by
  obtain ⟨-, ⟨s1, m1, hd, -, rfl⟩, -⟩ := h
  show m1.opcode = op
  unfold State.door at hd
  cases ho : m.origin <;> simp only [ho] at hd <;> split at hd
  all_goals first
    | (cases hd; rfl)
    | (split at hd <;> first | (cases hd; rfl) | cases hd)
    | cases hd

/-- A command whose act answers at once completes with the answer. -/
theorem Granted.replies {op : Nat} {m : Msg} {s u v : State} {c : Msg} {r : Resp} {i : Instr} (h : Granted op m s u c)
    (hi : exec i s = command op m s) (ha : actOf c u = (v, .resp r)) : Replies i s v c r := by
  intro hr
  rw [hi, command_granted h]
  simp [act, ha, hr, State.settleAnswer]

/-- A command whose act waits stands where the answer puts it. -/
theorem Granted.waits {op : Nat} {m : Msg} {s u v : State} {c : Msg} {k : List Nat} {i : Instr} (h : Granted op m s u c)
    (hi : exec i s = command op m s) (ha : actOf c u = (v, .wait k)) : Ends i s v c (.wait k) := by
  unfold Ends
  rw [hi, command_granted h]
  simp [act, ha]

/-- A command whose act hands a job to an engine stands with it. -/
theorem Granted.queues {op : Nat} {m : Msg} {s u v : State} {c : Msg} {i : Instr} (h : Granted op m s u c)
    (hi : exec i s = command op m s) (ha : actOf c u = (v, .engine)) : Queues i s v c := by
  intro hr
  unfold Ends
  rw [hi, command_granted h]
  simp [act, ha, hr]

/-- A command whose change lies in a batch stands committed. -/
theorem Granted.stages {op : Nat} {m : Msg} {s u v : State} {c : Msg} {i : Instr} (h : Granted op m s u c)
    (hi : exec i s = command op m s) (ha : actOf c u = (v, .staged)) : Stages i s v c := by
  intro hr
  unfold Ends
  rw [hi, command_granted h]
  cases hv : v.heldAnswer c.cid with
  | none => simp [act, ha, hv]
  | some r => simp [act, ha, hv, hr r hv]

/-- Paging an overlay in leaves the commands in progress. -/
theorem pageIf_host (b : Bool) (t : State) (op : Nat) : (if b = true then t.pageOverlay op else t).host = t.host := by
  cases b
  · rfl
  · unfold State.pageOverlay; simp only [if_true]; split <;> rfl

/-- A command that has just been taken has no engine's result yet. -/
theorem Granted.gotOf {op : Nat} {m : Msg} {s u : State} {c : Msg} (h : Granted op m s u c) : u.gotOf c.cid = none := by
  obtain ⟨t, ⟨s1, m1, hd, rfl, rfl⟩, -, -, -, -, rfl⟩ := h
  unfold State.gotOf
  rw [pageIf_host, look_take]; rfl

/-- A command that has just been taken holds no part of its result. -/
theorem Granted.partOf {op k : Nat} {m : Msg} {s u : State} {c : Msg} (h : Granted op m s u c) : u.partOf c.cid k = none := by
  obtain ⟨t, ⟨s1, m1, hd, rfl, rfl⟩, -, -, -, -, rfl⟩ := h
  unfold State.partOf
  rw [pageIf_host, look_take]; rfl

/-- A command whose act answers so runs on so. -/
theorem runsOn {c : Msg} {w v : State} {a : Answer} (h : actOf c w = (v, a)) : RunsOn c w v a := by
  intro hf t ht
  unfold State.runAct act
  rw [ht, h]
  cases a with
  | resp r => simp only [Fits] at hf; simp [hf]
  | wait k => rfl
  | engine => simp only [Fits] at hf; simp [hf]
  | staged =>
    simp only [Fits] at hf
    cases hv : v.heldAnswer c.cid with
    | none => simp [hv]
    | some r => simp [hv, hf r hv]

/-- A command whose act answers so ends so, let through or running on. -/
theorem runs {op : Nat} {m : Msg} {s u v : State} {c : Msg} {a : Answer} {i : Instr} (hi : exec i s = command op m s)
    (h : c.opcode = op → actOf c u = (v, a)) : Runs i op m s u c v a :=
  ⟨fun hg hf => by
    have ha := h hg.opcode
    unfold Ends
    rw [hi, command_granted hg]
    unfold act
    rw [ha]
    cases a with
    | resp r => simp only [Fits] at hf; simp [hf]
    | wait k => rfl
    | engine => simp only [Fits] at hf; simp [hf]
    | staged =>
      simp only [Fits] at hf
      cases hv : v.heldAnswer c.cid with
      | none => simp [hv]
      | some r => simp [hv, hf r hv], fun ho => runsOn (h ho)⟩

/-- A command that has just been taken waits for no wipe. -/
theorem Granted.wiping {op : Nat} {m : Msg} {s u : State} {c : Msg} (h : Granted op m s u c) : u.wiping c.cid = false := by
  obtain ⟨t, ⟨s1, m1, hd, rfl, rfl⟩, -, -, -, -, rfl⟩ := h
  unfold State.wiping
  rw [pageIf_host, look_take]; rfl

/-! Parts of a result that an engine makes (R138, R185): asked for, and there. -/

theorem State.pkePart_asks {s : State} {k : Nat} {j : Job} (h : s.partOf j.cid k = none) (hp : s.hasProgram j.prog = true) :
    s.pkePart k j = (s.submitPke { j with part := k, own := true }, .error .engine) := by
  unfold State.pkePart; rw [h]; simp [hp]

theorem State.pkePart_there {s : State} {k : Nat} {j : Job} {b : Bytes} (h : s.partOf j.cid k = some b) :
    s.pkePart k j = (s, .ok b) := by
  unfold State.pkePart; rw [h]

theorem State.askSke_room {s : State} {j : Job} (h : s.skeRoom j.own = true) : s.askSke j = (s.submitSke j, .engine) := by
  unfold State.askSke; rw [if_pos h]

theorem State.lanePart_asks {s : State} {k : Nat} {j : Job} (h : s.partOf j.cid k = none) (hr : s.skeRoom true = true) :
    s.lanePart k j = (s.submitSke { j with part := k, own := true }, .error .engine) := by
  unfold State.lanePart; rw [h]; simp only [State.askSke_room (j := { j with part := k, own := true }) hr]

theorem State.lanePart_there {s : State} {k : Nat} {j : Job} {b : Bytes} (h : s.partOf j.cid k = some b) :
    s.lanePart k j = (s, .ok b) := by
  unfold State.lanePart; rw [h]

/-- Keeping one part leaves the others. -/
theorem State.partOf_setPart_ne (s : State) (cid k i : Nat) (b : Bytes) (h : k ≠ i) : (s.setPart cid i b).partOf cid k = s.partOf cid k := by
  unfold State.partOf State.setPart
  simp only [look_adjust, if_true]
  cases look s.host.cmds cid with
  | none => rfl
  | some c => simp [look_store_ne _ _ h]

/-- A hybrid transport starts, and asks a lane for its blob (R235). -/
theorem State.hybridSeal_asks {s v : State} {m : Msg} {ek point attr blob x : Bytes} (h5 : s.partOf m.cid 5 = none)
    (hx : s.hybridStart ek point attr = (v, .ok x)) (hr : (v.setPart m.cid 5 x).skeRoom true = true) (h3 : v.partOf m.cid 3 = none) :
    s.hybridSeal m ek point attr blob =
      ((v.setPart m.cid 5 x).submitSke { blobJob m 1 sealedWg (x.drop 1185) blob with part := 3, own := true }, .error .engine) := by
  unfold State.hybridSeal
  rw [h5, hx]
  simp only
  rw [State.lanePart_asks (s := v.setPart m.cid 5 x) (k := 3) (j := blobJob m 1 sealedWg (x.drop 1185) blob)
    ((State.partOf_setPart_ne _ _ _ _ _ (by decide)).trans h3) hr]

/-- A hybrid transport whose blob is there ends. -/
theorem State.hybridSeal_there {s : State} {m : Msg} {ek point attr blob x out : Bytes} (h5 : s.partOf m.cid 5 = some x)
    (h3 : s.partOf m.cid 3 = some out) : s.hybridSeal m ek point attr blob = (s.setPart m.cid 5 x, .ok (x.take 1185 ++ out)) := by
  unfold State.hybridSeal
  rw [h5]
  simp only
  rw [State.lanePart_there (s := s.setPart m.cid 5 x) (k := 3) (j := blobJob m 1 sealedWg (x.drop 1185) blob)
    ((State.partOf_setPart_ne _ _ _ _ _ (by decide)).trans h3)]

/-- The unwrap of a hamper is asked of a lane (R122 step 7). -/
theorem State.unwrapKey_asks {s : State} {m : Msg} {h : HamperHead} {b kek : Bytes} (hk : s.get R.mpcWorldStatusKeysLocked = 0)
    (hw : s.hamperKek h = some kek) (h1 : s.partOf m.cid 1 = none) (hr : s.skeRoom true = true) :
    s.unwrapKey m h b = (s.submitSke { h.job m kek 0 (slice b 48 h.wrapLen) with part := 1, own := true }, .error .engine) := by
  unfold State.unwrapKey
  simp only [State.is, hk, hw]
  exact State.lanePart_asks (k := 1) (j := h.job m kek 0 (slice b 48 h.wrapLen)) h1 hr

/-- The unwrap of a hamper that a lane has made. -/
theorem State.unwrapKey_there {s : State} {m : Msg} {h : HamperHead} {b kek key : Bytes} (hk : s.get R.mpcWorldStatusKeysLocked = 0)
    (hw : s.hamperKek h = some kek) (h1 : s.partOf m.cid 1 = some key) : s.unwrapKey m h b = (s, .ok key) := by
  unfold State.unwrapKey
  simp only [State.is, hk, hw]
  exact State.lanePart_there (k := 1) (j := h.job m kek 0 (slice b 48 h.wrapLen)) h1

/-- The wrap of a hamper is asked of a lane (R104). -/
theorem State.wrapPart_asks {s : State} {m : Msg} {h : HamperHead} {key kek : Bytes} (hw : s.hamperKek h = some kek)
    (h1 : s.partOf m.cid 2 = none) (hr : s.skeRoom true = true) :
    s.wrapPart m h key = (s.submitSke { h.job m kek 1 key with part := 2, own := true }, .error .engine) := by
  unfold State.wrapPart
  simp only [h1, hw]
  exact State.lanePart_asks (k := 2) (j := h.job m kek 1 key) h1 hr

/-- The wrap of a hamper that a lane has made under the same head. -/
theorem State.wrapPart_there {s : State} {m : Msg} {h : HamperHead} {key kek b : Bytes} (hw : s.hamperKek h = some kek)
    (h1 : s.partOf m.cid 2 = some b) (hb : b.take 48 = h.bytes) : s.wrapPart m h key = (s, .ok b) := by
  unfold State.wrapPart
  simp only [h1, hb, if_true, hw]
  exact State.lanePart_there (k := 2) (j := h.job m kek 1 key) h1

/-- What opening the hamper that a command names comes to. -/
theorem opens {run : State → Answer → Prop} {u : State} {c : Msg} {next : State → HamperHead → Bytes → Prop}
    (hrun : ∀ v e, u.openHamper c = (v, .error e) → run v e)
    (hn : ∀ v h key, u.openHamper c = (v, .ok (h, key)) → next v h key) : Opens run u c next := by
  intro v h b kek hf hl hk
  refine ⟨fun h1 hr => ?_, fun key h1 => ?_⟩
  · have e : u.openHamper c = (v.submitSke { h.job c kek 0 (slice b 48 h.wrapLen) with part := 1, own := true }, .error .engine) := by
      unfold State.openHamper; simp only [hf, State.unwrapKey_asks hl hk h1 hr]
    exact hrun _ _ e
  · apply hn
    unfold State.openHamper; simp only [hf, State.unwrapKey_there hl hk h1]

/-- What keeping a key comes to. -/
theorem keepsKey {run : State → Answer → Prop} {v : State} {c : Msg} {a : Attr} {key pub : Bytes}
    (hrun : ∀ w e, v.keepKey c a key pub = (w, e) → run w e) : KeepsKey run v c a key pub := by
  intro w p h kek hp ⟨m1, m2, m3, m4, t, wg, m5, m6, m7, m8⟩
  refine ⟨fun h1 hr => hrun _ _ ?_, fun b h1 hb => hrun _ _ ?_⟩
  · unfold State.keepKey State.createHamper
    simp [hp, m1, m2, m3, m5, m6, m7, ← m8, State.is, State.wrapPart_asks m4 h1 hr]
  · unfold State.keepKey State.createHamper
    simp [hp, m1, m2, m3, m5, m6, m7, ← m8, State.is, State.wrapPart_there m4 h1 hb]

/-! The act that an opcode's group names. -/

theorem actOf_key {op : Nat} {u : State} {c : Msg} (h : c.opcode = op) (k : op / 256 ≤ 2 := by decide) : actOf c u = keyAct c u := by
  unfold actOf; rw [h, if_pos (.inr k)]

theorem actOf_crypto {op : Nat} {u : State} {c : Msg} (h : c.opcode = op) (k : op ≠ rotateOp ∧ op / 256 = 3 := by decide) :
    actOf c u = cryptoAct c u := by
  unfold actOf; rw [h, if_neg (by omega), if_pos k.2]

theorem actOf_tenant {op : Nat} {u : State} {c : Msg} (h : c.opcode = op)
    (k : op ≠ rotateOp ∧ 4 ≤ op / 256 ∧ op / 256 ≤ 6 := by decide) : actOf c u = tenantAct c u := by
  unfold actOf; rw [h, if_neg (by omega), if_neg (by omega), if_pos k.2.2]

theorem actOf_device {op : Nat} {u : State} {c : Msg} (h : c.opcode = op) (k : op ≠ rotateOp ∧ 7 ≤ op / 256 := by decide) :
    actOf c u = deviceAct c u := by
  unfold actOf; rw [h, if_neg (by omega), if_neg (by omega), if_neg (by omega)]

theorem Granted.keyAct {op : Nat} {m : Msg} {s u : State} {c : Msg} (h : Granted op m s u c) (k : op / 256 ≤ 2 := by decide) :
    actOf c u = keyAct c u := actOf_key h.opcode k

theorem Granted.cryptoAct {op : Nat} {m : Msg} {s u : State} {c : Msg} (h : Granted op m s u c)
    (k : op ≠ rotateOp ∧ op / 256 = 3 := by decide) : actOf c u = cryptoAct c u := actOf_crypto h.opcode k

theorem Granted.tenantAct {op : Nat} {m : Msg} {s u : State} {c : Msg} (h : Granted op m s u c)
    (k : op ≠ rotateOp ∧ 4 ≤ op / 256 ∧ op / 256 ≤ 6 := by decide) : actOf c u = tenantAct c u := actOf_tenant h.opcode k

theorem Granted.deviceAct {op : Nat} {m : Msg} {s u : State} {c : Msg} (h : Granted op m s u c)
    (k : op ≠ rotateOp ∧ 7 ≤ op / 256 := by decide) : actOf c u = deviceAct c u := actOf_device h.opcode k

end Sys2Proof.Machine
end

