-- ==== Sys2Proof/Laws/Memory.lean ====
section
/-! SUPPORT. What the memory operations do: a byte reads as it was last written, other bytes stand, and every operation keeps
the canonical form. -/

namespace Sys2Proof.Machine

/-! ### Reading after writing -/

theorem readByte_dropByte (m : List Host.Cell) (a b : Nat) : readByte (dropByte m a) b = if b = a then 0 else readByte m b := by
  induction m with
  | nil => simp [dropByte, readByte]
  | cons c m ih =>
    obtain ⟨x, v⟩ := c
    by_cases hx : x = a
    · subst hx
      by_cases hb : b = x
      · subst hb; simpa [dropByte] using ih
      · simp [dropByte, readByte, ih, hb, Ne.symm hb]
    · by_cases hb : x = b
      · subst hb; simp [dropByte, readByte, hx]
      · simp [dropByte, readByte, hx, hb, ih]

theorem readByte_insertByte (m : List Host.Cell) (a b : Nat) (v : Byte) (h : ∀ c ∈ m, c.1 ≠ a) :
    readByte (insertByte m a v) b = if b = a then v else readByte m b := by
  induction m with
  | nil => simp [insertByte, readByte, eq_comm]
  | cons c m ih =>
    obtain ⟨x, w⟩ := c
    have hx : x ≠ a := h (x, w) (by simp)
    have hm := ih (fun c hc => h c (by simp [hc]))
    by_cases hlt : a < x
    · by_cases hb : b = a
      · simp [insertByte, hlt, readByte, hb]
      · simp [insertByte, hlt, readByte, hb, Ne.symm hb]
    · by_cases hb : x = b
      · subst hb; simp [insertByte, hlt, readByte, hx]
      · simp [insertByte, hlt, readByte, hb, hm]

theorem not_mem_dropByte (m : List Host.Cell) (a : Nat) : ∀ c ∈ dropByte m a, c.1 ≠ a := by
  induction m with
  | nil => simp [dropByte]
  | cons c m ih =>
    obtain ⟨x, v⟩ := c
    by_cases hx : x = a
    · simp only [dropByte, hx, if_true]; exact ih
    · intro c hc
      simp only [dropByte, hx, if_false, List.mem_cons] at hc
      rcases hc with rfl | hc
      · exact hx
      · exact ih c hc

/-- A byte reads as it was written; every other byte stands. -/
theorem readByte_writeByte (m : List Host.Cell) (a b : Nat) (v : Byte) :
    readByte (writeByte m a v) b = if b = a then v else readByte m b := by
  by_cases hv : v = 0
  · simp [writeByte, hv, readByte_dropByte]
  · simp only [writeByte, hv, if_false]
    rw [readByte_insertByte _ _ _ _ (not_mem_dropByte m a), readByte_dropByte]
    by_cases hb : b = a <;> simp [hb]

/-- A byte outside the written ones stands. -/
theorem readByte_writeBytes_out (m : List Host.Cell) (a b : Nat) (bs : Bytes) (h : b < a ∨ a + bs.length ≤ b) :
    readByte (writeBytes m a bs) b = readByte m b := by
  induction bs generalizing m a with
  | nil => rfl
  | cons x bs ih =>
    simp only [List.length_cons] at h
    rw [writeBytes, ih _ _ (by omega), readByte_writeByte, if_neg (by omega)]

/-- A byte among the written ones reads as written. -/
theorem readByte_writeBytes_in (m : List Host.Cell) (a i : Nat) (bs : Bytes) (h : i < bs.length) :
    readByte (writeBytes m a bs) (a + i) = bs[i] := by
  induction bs generalizing m a i with
  | nil => simp at h
  | cons x bs ih =>
    cases i with
    | zero => rw [writeBytes, readByte_writeBytes_out _ _ _ _ (by omega), readByte_writeByte]; simp
    | succ i =>
      have := ih (writeByte m a x) (a + 1) i (by simpa using h)
      rw [writeBytes, show a + (i + 1) = a + 1 + i by omega, this]; simp

theorem readByte_not_mem (m : List Host.Cell) (a : Nat) (h : ∀ c ∈ m, c.1 ≠ a) : readByte m a = 0 := by
  induction m with
  | nil => rfl
  | cons c m ih =>
    obtain ⟨x, v⟩ := c
    simp [readByte, h (x, v) (by simp), ih (fun c hc => h c (by simp [hc]))]

/-- A cleared range reads 0; every other byte stands. -/
theorem readByte_clearRange (m : List Host.Cell) (a n b : Nat) :
    readByte (clearRange m a n) b = if a ≤ b ∧ b < a + n then 0 else readByte m b := by
  by_cases hb : a ≤ b ∧ b < a + n
  · rw [if_pos hb]
    refine readByte_not_mem _ _ (fun c hc hcb => ?_)
    simp only [clearRange, List.mem_filter] at hc
    subst hcb
    simp [hb.1, hb.2] at hc
  · rw [if_neg hb]
    induction m with
    | nil => rfl
    | cons c m ih =>
      obtain ⟨x, v⟩ := c
      by_cases hx : x = b
      · subst hx
        have : (!(decide (a ≤ x) && decide (x < a + n))) = true := by simp; omega
        simp only [clearRange, List.filter_cons, this, if_true, readByte]
      · by_cases hk : (!(decide (a ≤ x) && decide (x < a + n))) = true
        · simp only [clearRange, List.filter_cons, hk, if_true, readByte, hx, if_false]; exact ih
        · simp only [clearRange, List.filter_cons, hk, if_false, readByte, hx]; exact ih

/-! ### The canonical form -/

theorem wf_cons (c : Host.Cell) (m : List Host.Cell) :
    Memory.wf (c :: m) = true ↔ c.2 ≠ 0 ∧ (∀ d ∈ m, c.1 < d.1) ∧ Memory.wf m = true := by
  obtain ⟨x, v⟩ := c
  simp [Memory.wf, and_assoc]

theorem wf_filter (m : List Host.Cell) (p : Host.Cell → Bool) (h : Memory.wf m = true) : Memory.wf (m.filter p) = true := by
  induction m with
  | nil => exact h
  | cons c m ih =>
    rw [wf_cons] at h
    by_cases hp : p c
    · rw [List.filter_cons_of_pos hp, wf_cons]
      exact ⟨h.1, fun d hd => h.2.1 d (List.mem_filter.1 hd).1, ih h.2.2⟩
    · rw [List.filter_cons_of_neg hp]; exact ih h.2.2

theorem dropByte_eq_filter (m : List Host.Cell) (a : Nat) : dropByte m a = m.filter (fun c => decide (c.1 ≠ a)) := by
  induction m with
  | nil => rfl
  | cons c m ih =>
    obtain ⟨x, v⟩ := c
    by_cases hx : x = a <;> simp [dropByte, hx, ih]

theorem mem_insertByte (m : List Host.Cell) (a : Nat) (v : Byte) (c : Host.Cell) (h : c ∈ insertByte m a v) :
    c = (a, v) ∨ c ∈ m := by
  induction m with
  | nil => simpa [insertByte] using h
  | cons d m ih =>
    obtain ⟨x, w⟩ := d
    by_cases hlt : a < x
    · simpa [insertByte, hlt] using h
    · simp only [insertByte, hlt, if_false, List.mem_cons] at h ⊢
      rcases h with h | h
      · exact .inr (.inl h)
      · rcases ih h with h | h
        · exact .inl h
        · exact .inr (.inr h)

theorem wf_insertByte (m : List Host.Cell) (a : Nat) (v : Byte) (h : Memory.wf m = true) (hv : v ≠ 0) (ha : ∀ c ∈ m, c.1 ≠ a) :
    Memory.wf (insertByte m a v) = true := by
  induction m with
  | nil => simp only [insertByte, wf_cons]; exact ⟨hv, by simp, rfl⟩
  | cons c m ih =>
    obtain ⟨x, w⟩ := c
    have hx : x ≠ a := ha (x, w) (by simp)
    have h' := (wf_cons _ _).1 h
    by_cases hlt : a < x
    · simp only [insertByte, hlt, if_true]
      rw [wf_cons]
      refine ⟨hv, fun d hd => ?_, h⟩
      rcases List.mem_cons.1 hd with rfl | hd
      · exact hlt
      · exact Nat.lt_trans hlt (h'.2.1 d hd)
    · simp only [insertByte, hlt, if_false]
      rw [wf_cons]
      refine ⟨h'.1, fun d hd => ?_, ih h'.2.2 (fun c hc => ha c (by simp [hc]))⟩
      rcases mem_insertByte _ _ _ _ hd with rfl | hd
      · show x < a; omega
      · exact h'.2.1 d hd

/-- Writing a byte keeps the canonical form. -/
theorem wf_writeByte (m : List Host.Cell) (a : Nat) (v : Byte) (h : Memory.wf m = true) : Memory.wf (writeByte m a v) = true := by
  have hd : Memory.wf (dropByte m a) = true := by rw [dropByte_eq_filter]; exact wf_filter _ _ h
  by_cases hv : v = 0
  · simpa [writeByte, hv] using hd
  · simp only [writeByte, hv, if_false]; exact wf_insertByte _ _ _ hd hv (not_mem_dropByte m a)

/-- Writing bytes keeps the canonical form. -/
theorem wf_writeBytes (m : List Host.Cell) (a : Nat) (bs : Bytes) (h : Memory.wf m = true) :
    Memory.wf (writeBytes m a bs) = true := by
  induction bs generalizing m a with
  | nil => exact h
  | cons x bs ih => exact ih _ _ (wf_writeByte m a x h)

/-- Clearing a range keeps the canonical form. -/
theorem wf_clearRange (m : List Host.Cell) (a n : Nat) (h : Memory.wf m = true) : Memory.wf (clearRange m a n) = true :=
  wf_filter _ _ h

/-- Memories in canonical form that read alike are equal. -/
theorem wf_ext (m n : List Host.Cell) (hm : Memory.wf m = true) (hn : Memory.wf n = true)
    (h : ∀ a, readByte m a = readByte n a) : m = n := by
  induction m generalizing n with
  | nil =>
    cases n with
    | nil => rfl
    | cons d n =>
      have := h d.1
      simp [readByte] at this
      exact absurd this.symm ((wf_cons _ _).1 hn).1
  | cons c m ih =>
    cases n with
    | nil =>
      have := h c.1
      simp [readByte] at this
      exact absurd this ((wf_cons _ _).1 hm).1
    | cons d n =>
      have h1 := (wf_cons _ _).1 hm
      have h2 := (wf_cons _ _).1 hn
      have zm : ∀ a, a ≤ c.1 → readByte m a = 0 := fun a ha =>
        readByte_not_mem _ _ (fun e he hea => by have := h1.2.1 e he; omega)
      have zn : ∀ a, a ≤ d.1 → readByte n a = 0 := fun a ha =>
        readByte_not_mem _ _ (fun e he hea => by have := h2.2.1 e he; omega)
      have key : c.1 = d.1 := by
        rcases Nat.lt_trichotomy c.1 d.1 with hlt | he | hgt
        · have := h c.1
          simp [readByte, Nat.ne_of_gt hlt, zn c.1 (Nat.le_of_lt hlt)] at this
          exact absurd this h1.1
        · exact he
        · have := h d.1
          simp [readByte, Nat.ne_of_gt hgt, zm d.1 (Nat.le_of_lt hgt)] at this
          exact absurd this.symm h2.1
      have val : c.2 = d.2 := by have := h c.1; simpa [readByte, key] using this
      have hcd : c = d := Prod.ext key val
      subst hcd
      rw [ih n h1.2.2 h2.2.2 (fun a => by
        by_cases hac : c.1 = a
        · rw [zm a (by omega), zn a (by omega)]
        · have := h a; simpa [readByte, hac] using this)]

end Sys2Proof.Machine
end

