-- ==== Sys2Proof/Laws/State.lean ====
section
/-! SUPPORT. What the named updates of the state leave of each field, and what a register field reads after a write. -/

namespace Sys2Proof.Machine

/-! ### Updates of one field leave the others -/

@[simp] theorem State.put_mem (s : State) (f : Fld) (v : Nat) : (s.put f v).mem = s.mem := rfl
@[simp] theorem State.put_iface (s : State) (f : Fld) (v : Nat) : (s.put f v).iface = s.iface := rfl
@[simp] theorem State.put_pwr (s : State) (f : Fld) (v : Nat) : (s.put f v).pwr = s.pwr := rfl
@[simp] theorem State.put_fault (s : State) (f : Fld) (v : Nat) : (s.put f v).fault = s.fault := rfl
@[simp] theorem State.put_log (s : State) (f : Fld) (v : Nat) : (s.put f v).log = s.log := rfl
@[simp] theorem State.put_host (s : State) (f : Fld) (v : Nat) : (s.put f v).host = s.host := rfl
@[simp] theorem State.put_keys (s : State) (f : Fld) (v : Nat) : (s.put f v).keys = s.keys := rfl
@[simp] theorem State.put_hs (s : State) (f : Fld) (v : Nat) : (s.put f v).hs = s.hs := rfl
@[simp] theorem State.put_eng (s : State) (f : Fld) (v : Nat) : (s.put f v).eng = s.eng := rfl
@[simp] theorem State.put_trng (s : State) (f : Fld) (v : Nat) : (s.put f v).trng = s.trng := rfl
@[simp] theorem State.put_quorum (s : State) (f : Fld) (v : Nat) : (s.put f v).quorum = s.quorum := rfl
@[simp] theorem State.put_compass (s : State) (f : Fld) (v : Nat) : (s.put f v).compass = s.compass := rfl
@[simp] theorem State.put_worlds (s : State) (f : Fld) (v : Nat) : (s.put f v).worlds = s.worlds := rfl
@[simp] theorem State.put_life (s : State) (f : Fld) (v : Nat) : (s.put f v).life = s.life := rfl
@[simp] theorem State.put_keeper (s : State) (f : Fld) (v : Nat) : (s.put f v).keeper = s.keeper := rfl
@[simp] theorem State.put_ferry (s : State) (f : Fld) (v : Nat) : (s.put f v).ferry = s.ferry := rfl
@[simp] theorem State.put_pending (s : State) (f : Fld) (v : Nat) : (s.put f v).pending = s.pending := rfl
@[simp] theorem State.put_out (s : State) (f : Fld) (v : Nat) : (s.put f v).out = s.out := rfl
@[simp] theorem State.put_fresh (s : State) (f : Fld) (v : Nat) : (s.put f v).fresh = s.fresh := rfl

@[simp] theorem State.putB_mem (s : State) (f : Fld) (b : Bool) : (s.putB f b).mem = s.mem := rfl
@[simp] theorem State.putB_iface (s : State) (f : Fld) (b : Bool) : (s.putB f b).iface = s.iface := rfl
@[simp] theorem State.putB_pwr (s : State) (f : Fld) (b : Bool) : (s.putB f b).pwr = s.pwr := rfl
@[simp] theorem State.putB_fault (s : State) (f : Fld) (b : Bool) : (s.putB f b).fault = s.fault := rfl
@[simp] theorem State.putB_log (s : State) (f : Fld) (b : Bool) : (s.putB f b).log = s.log := rfl
@[simp] theorem State.putB_host (s : State) (f : Fld) (b : Bool) : (s.putB f b).host = s.host := rfl
@[simp] theorem State.putB_keys (s : State) (f : Fld) (b : Bool) : (s.putB f b).keys = s.keys := rfl
@[simp] theorem State.putB_hs (s : State) (f : Fld) (b : Bool) : (s.putB f b).hs = s.hs := rfl
@[simp] theorem State.putB_eng (s : State) (f : Fld) (b : Bool) : (s.putB f b).eng = s.eng := rfl
@[simp] theorem State.putB_trng (s : State) (f : Fld) (b : Bool) : (s.putB f b).trng = s.trng := rfl
@[simp] theorem State.putB_quorum (s : State) (f : Fld) (b : Bool) : (s.putB f b).quorum = s.quorum := rfl
@[simp] theorem State.putB_compass (s : State) (f : Fld) (b : Bool) : (s.putB f b).compass = s.compass := rfl
@[simp] theorem State.putB_worlds (s : State) (f : Fld) (b : Bool) : (s.putB f b).worlds = s.worlds := rfl
@[simp] theorem State.putB_life (s : State) (f : Fld) (b : Bool) : (s.putB f b).life = s.life := rfl
@[simp] theorem State.putB_keeper (s : State) (f : Fld) (b : Bool) : (s.putB f b).keeper = s.keeper := rfl
@[simp] theorem State.putB_ferry (s : State) (f : Fld) (b : Bool) : (s.putB f b).ferry = s.ferry := rfl
@[simp] theorem State.putB_pending (s : State) (f : Fld) (b : Bool) : (s.putB f b).pending = s.pending := rfl
@[simp] theorem State.putB_out (s : State) (f : Fld) (b : Bool) : (s.putB f b).out = s.out := rfl
@[simp] theorem State.putB_fresh (s : State) (f : Fld) (b : Bool) : (s.putB f b).fresh = s.fresh := rfl

@[simp] theorem State.putBit_mem (s : State) (f : Fld) (i : Nat) (b : Bool) : (s.putBit f i b).mem = s.mem := rfl
@[simp] theorem State.putBit_iface (s : State) (f : Fld) (i : Nat) (b : Bool) : (s.putBit f i b).iface = s.iface := rfl
@[simp] theorem State.putBit_pwr (s : State) (f : Fld) (i : Nat) (b : Bool) : (s.putBit f i b).pwr = s.pwr := rfl
@[simp] theorem State.putBit_fault (s : State) (f : Fld) (i : Nat) (b : Bool) : (s.putBit f i b).fault = s.fault := rfl
@[simp] theorem State.putBit_log (s : State) (f : Fld) (i : Nat) (b : Bool) : (s.putBit f i b).log = s.log := rfl
@[simp] theorem State.putBit_host (s : State) (f : Fld) (i : Nat) (b : Bool) : (s.putBit f i b).host = s.host := rfl
@[simp] theorem State.putBit_keys (s : State) (f : Fld) (i : Nat) (b : Bool) : (s.putBit f i b).keys = s.keys := rfl
@[simp] theorem State.putBit_hs (s : State) (f : Fld) (i : Nat) (b : Bool) : (s.putBit f i b).hs = s.hs := rfl
@[simp] theorem State.putBit_eng (s : State) (f : Fld) (i : Nat) (b : Bool) : (s.putBit f i b).eng = s.eng := rfl
@[simp] theorem State.putBit_trng (s : State) (f : Fld) (i : Nat) (b : Bool) : (s.putBit f i b).trng = s.trng := rfl
@[simp] theorem State.putBit_quorum (s : State) (f : Fld) (i : Nat) (b : Bool) : (s.putBit f i b).quorum = s.quorum := rfl
@[simp] theorem State.putBit_compass (s : State) (f : Fld) (i : Nat) (b : Bool) : (s.putBit f i b).compass = s.compass := rfl
@[simp] theorem State.putBit_worlds (s : State) (f : Fld) (i : Nat) (b : Bool) : (s.putBit f i b).worlds = s.worlds := rfl
@[simp] theorem State.putBit_life (s : State) (f : Fld) (i : Nat) (b : Bool) : (s.putBit f i b).life = s.life := rfl
@[simp] theorem State.putBit_keeper (s : State) (f : Fld) (i : Nat) (b : Bool) : (s.putBit f i b).keeper = s.keeper := rfl
@[simp] theorem State.putBit_ferry (s : State) (f : Fld) (i : Nat) (b : Bool) : (s.putBit f i b).ferry = s.ferry := rfl
@[simp] theorem State.putBit_pending (s : State) (f : Fld) (i : Nat) (b : Bool) : (s.putBit f i b).pending = s.pending := rfl
@[simp] theorem State.putBit_out (s : State) (f : Fld) (i : Nat) (b : Bool) : (s.putBit f i b).out = s.out := rfl
@[simp] theorem State.putBit_fresh (s : State) (f : Fld) (i : Nat) (b : Bool) : (s.putBit f i b).fresh = s.fresh := rfl

@[simp] theorem State.incSat_mem (s : State) (f : Fld) : (s.incSat f).mem = s.mem := rfl
@[simp] theorem State.incSat_iface (s : State) (f : Fld) : (s.incSat f).iface = s.iface := rfl
@[simp] theorem State.incSat_pwr (s : State) (f : Fld) : (s.incSat f).pwr = s.pwr := rfl
@[simp] theorem State.incSat_fault (s : State) (f : Fld) : (s.incSat f).fault = s.fault := rfl
@[simp] theorem State.incSat_log (s : State) (f : Fld) : (s.incSat f).log = s.log := rfl
@[simp] theorem State.incSat_host (s : State) (f : Fld) : (s.incSat f).host = s.host := rfl
@[simp] theorem State.incSat_keys (s : State) (f : Fld) : (s.incSat f).keys = s.keys := rfl
@[simp] theorem State.incSat_hs (s : State) (f : Fld) : (s.incSat f).hs = s.hs := rfl
@[simp] theorem State.incSat_eng (s : State) (f : Fld) : (s.incSat f).eng = s.eng := rfl
@[simp] theorem State.incSat_trng (s : State) (f : Fld) : (s.incSat f).trng = s.trng := rfl
@[simp] theorem State.incSat_quorum (s : State) (f : Fld) : (s.incSat f).quorum = s.quorum := rfl
@[simp] theorem State.incSat_compass (s : State) (f : Fld) : (s.incSat f).compass = s.compass := rfl
@[simp] theorem State.incSat_worlds (s : State) (f : Fld) : (s.incSat f).worlds = s.worlds := rfl
@[simp] theorem State.incSat_life (s : State) (f : Fld) : (s.incSat f).life = s.life := rfl
@[simp] theorem State.incSat_keeper (s : State) (f : Fld) : (s.incSat f).keeper = s.keeper := rfl
@[simp] theorem State.incSat_ferry (s : State) (f : Fld) : (s.incSat f).ferry = s.ferry := rfl
@[simp] theorem State.incSat_pending (s : State) (f : Fld) : (s.incSat f).pending = s.pending := rfl
@[simp] theorem State.incSat_out (s : State) (f : Fld) : (s.incSat f).out = s.out := rfl
@[simp] theorem State.incSat_fresh (s : State) (f : Fld) : (s.incSat f).fresh = s.fresh := rfl

@[simp] theorem State.incMod_mem (s : State) (f : Fld) (n : Nat) : (s.incMod f n).mem = s.mem := rfl
@[simp] theorem State.incMod_iface (s : State) (f : Fld) (n : Nat) : (s.incMod f n).iface = s.iface := rfl
@[simp] theorem State.incMod_pwr (s : State) (f : Fld) (n : Nat) : (s.incMod f n).pwr = s.pwr := rfl
@[simp] theorem State.incMod_fault (s : State) (f : Fld) (n : Nat) : (s.incMod f n).fault = s.fault := rfl
@[simp] theorem State.incMod_log (s : State) (f : Fld) (n : Nat) : (s.incMod f n).log = s.log := rfl
@[simp] theorem State.incMod_host (s : State) (f : Fld) (n : Nat) : (s.incMod f n).host = s.host := rfl
@[simp] theorem State.incMod_keys (s : State) (f : Fld) (n : Nat) : (s.incMod f n).keys = s.keys := rfl
@[simp] theorem State.incMod_hs (s : State) (f : Fld) (n : Nat) : (s.incMod f n).hs = s.hs := rfl
@[simp] theorem State.incMod_eng (s : State) (f : Fld) (n : Nat) : (s.incMod f n).eng = s.eng := rfl
@[simp] theorem State.incMod_trng (s : State) (f : Fld) (n : Nat) : (s.incMod f n).trng = s.trng := rfl
@[simp] theorem State.incMod_quorum (s : State) (f : Fld) (n : Nat) : (s.incMod f n).quorum = s.quorum := rfl
@[simp] theorem State.incMod_compass (s : State) (f : Fld) (n : Nat) : (s.incMod f n).compass = s.compass := rfl
@[simp] theorem State.incMod_worlds (s : State) (f : Fld) (n : Nat) : (s.incMod f n).worlds = s.worlds := rfl
@[simp] theorem State.incMod_life (s : State) (f : Fld) (n : Nat) : (s.incMod f n).life = s.life := rfl
@[simp] theorem State.incMod_keeper (s : State) (f : Fld) (n : Nat) : (s.incMod f n).keeper = s.keeper := rfl
@[simp] theorem State.incMod_ferry (s : State) (f : Fld) (n : Nat) : (s.incMod f n).ferry = s.ferry := rfl
@[simp] theorem State.incMod_pending (s : State) (f : Fld) (n : Nat) : (s.incMod f n).pending = s.pending := rfl
@[simp] theorem State.incMod_out (s : State) (f : Fld) (n : Nat) : (s.incMod f n).out = s.out := rfl
@[simp] theorem State.incMod_fresh (s : State) (f : Fld) (n : Nat) : (s.incMod f n).fresh = s.fresh := rfl

@[simp] theorem State.writeMem_regs (s : State) (a : Nat) (bs : Bytes) : (s.writeMem a bs).regs = s.regs := rfl
@[simp] theorem State.writeMem_iface (s : State) (a : Nat) (bs : Bytes) : (s.writeMem a bs).iface = s.iface := rfl
@[simp] theorem State.writeMem_pwr (s : State) (a : Nat) (bs : Bytes) : (s.writeMem a bs).pwr = s.pwr := rfl
@[simp] theorem State.writeMem_fault (s : State) (a : Nat) (bs : Bytes) : (s.writeMem a bs).fault = s.fault := rfl
@[simp] theorem State.writeMem_log (s : State) (a : Nat) (bs : Bytes) : (s.writeMem a bs).log = s.log := rfl
@[simp] theorem State.writeMem_host (s : State) (a : Nat) (bs : Bytes) : (s.writeMem a bs).host = s.host := rfl
@[simp] theorem State.writeMem_keys (s : State) (a : Nat) (bs : Bytes) : (s.writeMem a bs).keys = s.keys := rfl
@[simp] theorem State.writeMem_hs (s : State) (a : Nat) (bs : Bytes) : (s.writeMem a bs).hs = s.hs := rfl
@[simp] theorem State.writeMem_eng (s : State) (a : Nat) (bs : Bytes) : (s.writeMem a bs).eng = s.eng := rfl
@[simp] theorem State.writeMem_trng (s : State) (a : Nat) (bs : Bytes) : (s.writeMem a bs).trng = s.trng := rfl
@[simp] theorem State.writeMem_quorum (s : State) (a : Nat) (bs : Bytes) : (s.writeMem a bs).quorum = s.quorum := rfl
@[simp] theorem State.writeMem_compass (s : State) (a : Nat) (bs : Bytes) : (s.writeMem a bs).compass = s.compass := rfl
@[simp] theorem State.writeMem_worlds (s : State) (a : Nat) (bs : Bytes) : (s.writeMem a bs).worlds = s.worlds := rfl
@[simp] theorem State.writeMem_life (s : State) (a : Nat) (bs : Bytes) : (s.writeMem a bs).life = s.life := rfl
@[simp] theorem State.writeMem_keeper (s : State) (a : Nat) (bs : Bytes) : (s.writeMem a bs).keeper = s.keeper := rfl
@[simp] theorem State.writeMem_ferry (s : State) (a : Nat) (bs : Bytes) : (s.writeMem a bs).ferry = s.ferry := rfl
@[simp] theorem State.writeMem_pending (s : State) (a : Nat) (bs : Bytes) : (s.writeMem a bs).pending = s.pending := rfl
@[simp] theorem State.writeMem_out (s : State) (a : Nat) (bs : Bytes) : (s.writeMem a bs).out = s.out := rfl
@[simp] theorem State.writeMem_fresh (s : State) (a : Nat) (bs : Bytes) : (s.writeMem a bs).fresh = s.fresh := rfl

@[simp] theorem State.clearMem_regs (s : State) (a n : Nat) : (s.clearMem a n).regs = s.regs := rfl
@[simp] theorem State.clearMem_iface (s : State) (a n : Nat) : (s.clearMem a n).iface = s.iface := rfl
@[simp] theorem State.clearMem_pwr (s : State) (a n : Nat) : (s.clearMem a n).pwr = s.pwr := rfl
@[simp] theorem State.clearMem_fault (s : State) (a n : Nat) : (s.clearMem a n).fault = s.fault := rfl
@[simp] theorem State.clearMem_log (s : State) (a n : Nat) : (s.clearMem a n).log = s.log := rfl
@[simp] theorem State.clearMem_host (s : State) (a n : Nat) : (s.clearMem a n).host = s.host := rfl
@[simp] theorem State.clearMem_keys (s : State) (a n : Nat) : (s.clearMem a n).keys = s.keys := rfl
@[simp] theorem State.clearMem_hs (s : State) (a n : Nat) : (s.clearMem a n).hs = s.hs := rfl
@[simp] theorem State.clearMem_eng (s : State) (a n : Nat) : (s.clearMem a n).eng = s.eng := rfl
@[simp] theorem State.clearMem_trng (s : State) (a n : Nat) : (s.clearMem a n).trng = s.trng := rfl
@[simp] theorem State.clearMem_quorum (s : State) (a n : Nat) : (s.clearMem a n).quorum = s.quorum := rfl
@[simp] theorem State.clearMem_compass (s : State) (a n : Nat) : (s.clearMem a n).compass = s.compass := rfl
@[simp] theorem State.clearMem_worlds (s : State) (a n : Nat) : (s.clearMem a n).worlds = s.worlds := rfl
@[simp] theorem State.clearMem_life (s : State) (a n : Nat) : (s.clearMem a n).life = s.life := rfl
@[simp] theorem State.clearMem_keeper (s : State) (a n : Nat) : (s.clearMem a n).keeper = s.keeper := rfl
@[simp] theorem State.clearMem_ferry (s : State) (a n : Nat) : (s.clearMem a n).ferry = s.ferry := rfl
@[simp] theorem State.clearMem_pending (s : State) (a n : Nat) : (s.clearMem a n).pending = s.pending := rfl
@[simp] theorem State.clearMem_out (s : State) (a n : Nat) : (s.clearMem a n).out = s.out := rfl
@[simp] theorem State.clearMem_fresh (s : State) (a n : Nat) : (s.clearMem a n).fresh = s.fresh := rfl

@[simp] theorem State.keepMem_regs (s : State) (a n : Nat) : (s.keepMem a n).regs = s.regs := rfl
@[simp] theorem State.keepMem_iface (s : State) (a n : Nat) : (s.keepMem a n).iface = s.iface := rfl
@[simp] theorem State.keepMem_pwr (s : State) (a n : Nat) : (s.keepMem a n).pwr = s.pwr := rfl
@[simp] theorem State.keepMem_fault (s : State) (a n : Nat) : (s.keepMem a n).fault = s.fault := rfl
@[simp] theorem State.keepMem_log (s : State) (a n : Nat) : (s.keepMem a n).log = s.log := rfl
@[simp] theorem State.keepMem_host (s : State) (a n : Nat) : (s.keepMem a n).host = s.host := rfl
@[simp] theorem State.keepMem_keys (s : State) (a n : Nat) : (s.keepMem a n).keys = s.keys := rfl
@[simp] theorem State.keepMem_hs (s : State) (a n : Nat) : (s.keepMem a n).hs = s.hs := rfl
@[simp] theorem State.keepMem_eng (s : State) (a n : Nat) : (s.keepMem a n).eng = s.eng := rfl
@[simp] theorem State.keepMem_trng (s : State) (a n : Nat) : (s.keepMem a n).trng = s.trng := rfl
@[simp] theorem State.keepMem_quorum (s : State) (a n : Nat) : (s.keepMem a n).quorum = s.quorum := rfl
@[simp] theorem State.keepMem_compass (s : State) (a n : Nat) : (s.keepMem a n).compass = s.compass := rfl
@[simp] theorem State.keepMem_worlds (s : State) (a n : Nat) : (s.keepMem a n).worlds = s.worlds := rfl
@[simp] theorem State.keepMem_life (s : State) (a n : Nat) : (s.keepMem a n).life = s.life := rfl
@[simp] theorem State.keepMem_keeper (s : State) (a n : Nat) : (s.keepMem a n).keeper = s.keeper := rfl
@[simp] theorem State.keepMem_ferry (s : State) (a n : Nat) : (s.keepMem a n).ferry = s.ferry := rfl
@[simp] theorem State.keepMem_pending (s : State) (a n : Nat) : (s.keepMem a n).pending = s.pending := rfl
@[simp] theorem State.keepMem_out (s : State) (a n : Nat) : (s.keepMem a n).out = s.out := rfl
@[simp] theorem State.keepMem_fresh (s : State) (a n : Nat) : (s.keepMem a n).fresh = s.fresh := rfl

@[simp] theorem State.emit_regs (s : State) (o : Out) : (s.emit o).regs = s.regs := rfl
@[simp] theorem State.emit_mem (s : State) (o : Out) : (s.emit o).mem = s.mem := rfl
@[simp] theorem State.emit_iface (s : State) (o : Out) : (s.emit o).iface = s.iface := rfl
@[simp] theorem State.emit_pwr (s : State) (o : Out) : (s.emit o).pwr = s.pwr := rfl
@[simp] theorem State.emit_fault (s : State) (o : Out) : (s.emit o).fault = s.fault := rfl
@[simp] theorem State.emit_log (s : State) (o : Out) : (s.emit o).log = s.log := rfl
@[simp] theorem State.emit_host (s : State) (o : Out) : (s.emit o).host = s.host := rfl
@[simp] theorem State.emit_keys (s : State) (o : Out) : (s.emit o).keys = s.keys := rfl
@[simp] theorem State.emit_hs (s : State) (o : Out) : (s.emit o).hs = s.hs := rfl
@[simp] theorem State.emit_eng (s : State) (o : Out) : (s.emit o).eng = s.eng := rfl
@[simp] theorem State.emit_trng (s : State) (o : Out) : (s.emit o).trng = s.trng := rfl
@[simp] theorem State.emit_quorum (s : State) (o : Out) : (s.emit o).quorum = s.quorum := rfl
@[simp] theorem State.emit_compass (s : State) (o : Out) : (s.emit o).compass = s.compass := rfl
@[simp] theorem State.emit_worlds (s : State) (o : Out) : (s.emit o).worlds = s.worlds := rfl
@[simp] theorem State.emit_life (s : State) (o : Out) : (s.emit o).life = s.life := rfl
@[simp] theorem State.emit_keeper (s : State) (o : Out) : (s.emit o).keeper = s.keeper := rfl
@[simp] theorem State.emit_ferry (s : State) (o : Out) : (s.emit o).ferry = s.ferry := rfl
@[simp] theorem State.emit_pending (s : State) (o : Out) : (s.emit o).pending = s.pending := rfl
@[simp] theorem State.emit_fresh (s : State) (o : Out) : (s.emit o).fresh = s.fresh := rfl

@[simp] theorem State.drawn_regs (s : State) : (s.drawn).regs = s.regs := rfl
@[simp] theorem State.drawn_mem (s : State) : (s.drawn).mem = s.mem := rfl
@[simp] theorem State.drawn_iface (s : State) : (s.drawn).iface = s.iface := rfl
@[simp] theorem State.drawn_pwr (s : State) : (s.drawn).pwr = s.pwr := rfl
@[simp] theorem State.drawn_fault (s : State) : (s.drawn).fault = s.fault := rfl
@[simp] theorem State.drawn_log (s : State) : (s.drawn).log = s.log := rfl
@[simp] theorem State.drawn_host (s : State) : (s.drawn).host = s.host := rfl
@[simp] theorem State.drawn_keys (s : State) : (s.drawn).keys = s.keys := rfl
@[simp] theorem State.drawn_hs (s : State) : (s.drawn).hs = s.hs := rfl
@[simp] theorem State.drawn_eng (s : State) : (s.drawn).eng = s.eng := rfl
@[simp] theorem State.drawn_trng (s : State) : (s.drawn).trng = s.trng := rfl
@[simp] theorem State.drawn_quorum (s : State) : (s.drawn).quorum = s.quorum := rfl
@[simp] theorem State.drawn_compass (s : State) : (s.drawn).compass = s.compass := rfl
@[simp] theorem State.drawn_worlds (s : State) : (s.drawn).worlds = s.worlds := rfl
@[simp] theorem State.drawn_life (s : State) : (s.drawn).life = s.life := rfl
@[simp] theorem State.drawn_keeper (s : State) : (s.drawn).keeper = s.keeper := rfl
@[simp] theorem State.drawn_ferry (s : State) : (s.drawn).ferry = s.ferry := rfl
@[simp] theorem State.drawn_pending (s : State) : (s.drawn).pending = s.pending := rfl
@[simp] theorem State.drawn_out (s : State) : (s.drawn).out = s.out := rfl

@[simp] theorem State.stamped_regs (s : State) : s.stamped.regs = s.regs := rfl
@[simp] theorem State.stamped_mem (s : State) : s.stamped.mem = s.mem := rfl
@[simp] theorem State.stamped_iface (s : State) : s.stamped.iface = s.iface := rfl
@[simp] theorem State.stamped_pwr (s : State) : s.stamped.pwr = s.pwr := rfl
@[simp] theorem State.stamped_fault (s : State) : s.stamped.fault = s.fault := rfl
@[simp] theorem State.stamped_log (s : State) : s.stamped.log = s.log := rfl
@[simp] theorem State.stamped_host (s : State) : s.stamped.host = s.host := rfl
@[simp] theorem State.stamped_keys (s : State) : s.stamped.keys = s.keys := rfl
@[simp] theorem State.stamped_hs (s : State) : s.stamped.hs = s.hs := rfl
@[simp] theorem State.stamped_eng (s : State) : s.stamped.eng = s.eng := rfl
@[simp] theorem State.stamped_trng (s : State) : s.stamped.trng = s.trng := rfl
@[simp] theorem State.stamped_quorum (s : State) : s.stamped.quorum = s.quorum := rfl
@[simp] theorem State.stamped_worlds (s : State) : s.stamped.worlds = s.worlds := rfl
@[simp] theorem State.stamped_life (s : State) : s.stamped.life = s.life := rfl
@[simp] theorem State.stamped_keeper (s : State) : s.stamped.keeper = s.keeper := rfl
@[simp] theorem State.stamped_ferry (s : State) : s.stamped.ferry = s.ferry := rfl
@[simp] theorem State.stamped_pending (s : State) : s.stamped.pending = s.pending := rfl
@[simp] theorem State.stamped_out (s : State) : s.stamped.out = s.out := rfl

@[simp] theorem State.emit_out (s : State) (o : Out) : (s.emit o).out = o :: s.out := rfl
@[simp] theorem State.drawn_fresh (s : State) : s.drawn.fresh = s.fresh + 1 := rfl
@[simp] theorem State.stamped_fresh (s : State) : s.stamped.fresh = s.fresh + 1 := rfl

/-! ### Updates that are no register write leave every register -/

@[simp] theorem State.get_writeMem (s : State) (a : Nat) (bs : Bytes) (g : Fld) : (s.writeMem a bs).get g = s.get g := rfl
@[simp] theorem State.get_clearMem (s : State) (a n : Nat) (g : Fld) : (s.clearMem a n).get g = s.get g := rfl
@[simp] theorem State.get_emit (s : State) (o : Out) (g : Fld) : (s.emit o).get g = s.get g := rfl
@[simp] theorem State.get_drawn (s : State) (g : Fld) : s.drawn.get g = s.get g := rfl
@[simp] theorem State.get_stamped (s : State) (g : Fld) : s.stamped.get g = s.get g := rfl

/-! ### A register field reads as it was written -/

/-- A field reads the written value, cut to its width. -/
@[simp] theorem State.get_put_same (s : State) (f : Fld) (v : Nat) : (s.put f v).get f = v % 2 ^ f.width := by
  simp [State.get, State.put, lookD_storeD]

/-- A field at another place stands. -/
theorem State.get_put_ne (s : State) (f g : Fld) (v : Nat) (h : g.key ≠ f.key) : (s.put f v).get g = s.get g := by
  simp only [State.get, State.put]
  rw [lookD_storeD _ _ _ _ _ _ (fun e => absurd e h), if_neg h]

@[simp] theorem State.get_putB_same (s : State) (f : Fld) (b : Bool) : (s.putB f b).get f = ofBool b % 2 ^ f.width :=
  State.get_put_same s f _

theorem State.get_putB_ne (s : State) (f g : Fld) (b : Bool) (h : g.key ≠ f.key) : (s.putB f b).get g = s.get g :=
  State.get_put_ne s f g _ h

@[simp] theorem State.get_incMod_same (s : State) (f : Fld) (n : Nat) : (s.incMod f n).get f = (s.get f + n) % 2 ^ f.width :=
  State.get_put_same s f _

theorem State.get_incMod_ne (s : State) (f g : Fld) (n : Nat) (h : g.key ≠ f.key) : (s.incMod f n).get g = s.get g :=
  State.get_put_ne s f g _ h

@[simp] theorem State.get_incSat_same (s : State) (f : Fld) :
    (s.incSat f).get f = saturate (2 ^ f.width - 1) (s.get f + 1) % 2 ^ f.width := State.get_put_same s f _

theorem State.get_incSat_ne (s : State) (f g : Fld) (h : g.key ≠ f.key) : (s.incSat f).get g = s.get g :=
  State.get_put_ne s f g _ h

@[simp] theorem State.get_putBit_same (s : State) (f : Fld) (i : Nat) (b : Bool) :
    (s.putBit f i b).get f = setBit (s.get f) i b % 2 ^ f.width := State.get_put_same s f _

theorem State.get_putBit_ne (s : State) (f g : Fld) (i : Nat) (b : Bool) (h : g.key ≠ f.key) :
    (s.putBit f i b).get g = s.get g := State.get_put_ne s f g _ h

/-- Two states with the same register file read alike. -/
theorem State.get_congr {s t : State} (h : t.regs = s.regs) (g : Fld) : t.get g = s.get g := by simp [State.get, h]

end Sys2Proof.Machine
end

