-- ==== Sys2Proof/Laws/Keeps.lean ====
section
/-! SUPPORT. `Keeps` for the primitive updates: what the lemmas of the other Keeps files go through. -/

namespace Sys2Proof.Machine

/-- `Keeps` in terms of the five fields it speaks of. -/
def KeepsParts (a : State) (regs : Amap Nat) (mem : List Host.Cell) (pending : List Instr) (out : List Out) (fresh : Nat) : Prop :=
  pending = a.pending ∧ a.out <:+ out ∧ a.fresh ≤ fresh ∧
    (a.canonical → Memory.wf mem = true ∧ Amap.rising regs)

theorem Keeps.refl (s : State) : Keeps s s := ⟨rfl, List.suffix_refl _, Nat.le_refl _, id⟩

theorem Keeps.trans {s t u : State} (h : Keeps s t) (k : Keeps t u) : Keeps s u :=
  ⟨k.1.trans h.1, h.2.1.trans k.2.1, Nat.le_trans h.2.2.1 k.2.2.1, fun c => k.2.2.2 (h.2.2.2 c)⟩

/-- `Keeps` of a state that is written out, field by field. -/
theorem Keeps.mk_eq {a : State} {regs mem iface pwr fault log host keys hs eng trng quorum compass worlds life keeper ferry pending
    out fresh} :
    Keeps a ⟨regs, mem, iface, pwr, fault, log, host, keys, hs, eng, trng, quorum, compass, worlds, life, keeper, ferry, pending, out,
      fresh⟩ = KeepsParts a regs mem pending out fresh := rfl

theorem KeepsParts.of {a s : State} {regs mem pending out fresh} (e1 : pending = s.pending) (e2 : s.out <:+ out)
    (e3 : s.fresh ≤ fresh) (e4 : Memory.wf s.mem = true → Memory.wf mem = true) (e5 : Amap.rising s.regs → Amap.rising regs)
    (h : Keeps a s) : KeepsParts a regs mem pending out fresh := by
  obtain ⟨h1, h2, h3, h4⟩ := h
  exact ⟨e1.trans h1, h2.trans e2, Nat.le_trans h3 e3, fun c => ⟨e4 (h4 c).1, e5 (h4 c).2⟩⟩

/-- An update of other fields. -/
theorem KeepsParts.same {a s : State} (h : Keeps a s) : KeepsParts a s.regs s.mem s.pending s.out s.fresh := h

/-- An update that leaves register fields out, among other fields. -/
theorem KeepsParts.fewer {a s : State} {p : Nat × Nat → Bool} (h : Keeps a s) :
    KeepsParts a (s.regs.filter p) s.mem s.pending s.out s.fresh :=
  .of rfl (List.suffix_refl _) (Nat.le_refl _) id (rising_filter _ _) h

/-- Several draws, among other updates. -/
theorem KeepsParts.draws {a s : State} {n : Nat} (h : Keeps a s) :
    KeepsParts a s.regs s.mem s.pending s.out (s.fresh + n) :=
  .of rfl (List.suffix_refl _) (Nat.le_add_right _ _) id id h

/-- An update of a state's fields, field by field. -/
theorem Keeps.upd {a s : State} {regs mem iface pwr fault log host keys hs eng trng quorum compass worlds life keeper ferry pending out
    fresh} (h : Keeps a s) (e1 : pending = s.pending) (e2 : s.out <:+ out) (e3 : s.fresh ≤ fresh)
    (e4 : Memory.wf s.mem = true → Memory.wf mem = true) (e5 : Amap.rising s.regs → Amap.rising regs) :
    Keeps a ⟨regs, mem, iface, pwr, fault, log, host, keys, hs, eng, trng, quorum, compass, worlds, life, keeper, ferry, pending, out,
      fresh⟩ :=
  h.trans ⟨e1, e2, e3, fun c => ⟨e4 c.1, e5 c.2⟩⟩

theorem Keeps.ite {a s t : State} {c : Prop} [Decidable c] (h : c → Keeps a s) (k : ¬c → Keeps a t) :
    Keeps a (if c then s else t) := by split <;> simp_all

/-- The state of a pair known by an equation. -/
theorem Keeps.fst {α : Type} {a t : State} {x : α} {p : State × α} (e : p = (t, x)) (h : Keeps a p.1) : Keeps a t := by
  rw [e] at h; exact h

theorem Keeps.map {α β : Type} {a : State} {f : α → β} {p : State × α} (h : Keeps a p.1) : Keeps a (p.map id f).1 := h

theorem Keeps.foldl {α : Type} {a s : State} {f : State → α → State} {l : List α} (hf : ∀ t x, Keeps a t → Keeps a (f t x))
    (h : Keeps a s) : Keeps a (l.foldl f s) := by
  induction l generalizing s with
  | nil => exact h
  | cons x l ih => exact ih (hf s x h)

theorem Keeps.foldl_fst {α β : Type} {a : State} {p : State × β} {f : State × β → α → State × β} {l : List α}
    (hf : ∀ q x, Keeps a q.1 → Keeps a (f q x).1) (h : Keeps a p.1) : Keeps a (l.foldl f p).1 := by
  induction l generalizing p with
  | nil => exact h
  | cons x l ih => exact ih (hf p x h)

theorem State.put_keeps {a s : State} {f : Fld} {v : Nat} (h : Keeps a s) : Keeps a (s.put f v) :=
  h.upd rfl (List.suffix_refl _) (Nat.le_refl _) id (rising_storeD _ _ _ _)

theorem State.writeMem_keeps {a s : State} {x : Nat} {bs : Bytes} (h : Keeps a s) : Keeps a (s.writeMem x bs) :=
  h.upd rfl (List.suffix_refl _) (Nat.le_refl _) (wf_writeBytes _ _ _) id

theorem State.clearMem_keeps {a s : State} {x n : Nat} (h : Keeps a s) : Keeps a (s.clearMem x n) :=
  h.upd rfl (List.suffix_refl _) (Nat.le_refl _) (wf_clearRange _ _ _) id

theorem State.keepMem_keeps {a s : State} {x n : Nat} (h : Keeps a s) : Keeps a (s.keepMem x n) :=
  h.upd rfl (List.suffix_refl _) (Nat.le_refl _) (wf_filter _ _) id

theorem State.emit_keeps {a s : State} {o : Out} (h : Keeps a s) : Keeps a (s.emit o) :=
  h.upd rfl (List.suffix_cons _ _) (Nat.le_refl _) id id

theorem State.drawn_keeps {a s : State} (h : Keeps a s) : Keeps a s.drawn :=
  h.upd rfl (List.suffix_refl _) (Nat.le_succ _) id id

theorem State.stamped_keeps {a s : State} (h : Keeps a s) : Keeps a s.stamped :=
  h.upd rfl (List.suffix_refl _) (Nat.le_succ _) id id

end Sys2Proof.Machine
end

