-- ==== Sys2Proof/Laws/KeepsDeliver.lean ====
section
/-! SUPPORT. `Keeps` for the shared operations, interrupts, journal and response delivery, the quorum stations, the draws and the key banks: one lemma per operation that answers a state,
each proved from the lemmas of the operations it calls. -/

set_option linter.unusedSimpArgs false

namespace Sys2Proof.Machine

theorem State.putBit_keeps {a : State} {s : State} {f : Fld} {i : Nat} {b : Bool} (hs : Keeps a s) :
    Keeps a (State.putBit s f i b) := by
  unfold State.putBit
  with_reducible repeat' first
    | assumption | apply State.put_keeps

theorem State.incMod_keeps {a : State} {s : State} {f : Fld} {n : Nat} (hs : Keeps a s) :
    Keeps a (State.incMod s f n) := by
  unfold State.incMod
  with_reducible repeat' first
    | assumption | apply State.put_keeps

theorem State.incSat_keeps {a : State} {s : State} {f : Fld} (hs : Keeps a s) :
    Keeps a (State.incSat s f) := by
  unfold State.incSat
  with_reducible repeat' first
    | assumption | apply State.put_keeps

theorem State.putB_keeps {a : State} {s : State} {f : Fld} {b : Bool} (hs : Keeps a s) :
    Keeps a (State.putB s f b) := by
  unfold State.putB
  with_reducible repeat' first
    | assumption | apply State.put_keeps

theorem State.setFerryPort_keeps {a : State} {s : State} {p : Nat} {x : FerryPort} (hs : Keeps a s) :
    Keeps a (State.setFerryPort s p x) := by
  unfold State.setFerryPort
  with_reducible repeat' first
    | assumption | simp only [Keeps.mk_eq] | apply KeepsParts.same

theorem State.sqcEvent_keeps {a : State} {s : State} {f : Fld} {g : State → State} (hs : Keeps a s) (hg : ∀ y0, Keeps a y0 → Keeps a (g y0)) :
    Keeps a (State.sqcEvent s f g) := by
  unfold State.sqcEvent
  with_reducible repeat' first
    | assumption | apply hg | apply State.put_keeps | simp only [Keeps.mk_eq] | apply KeepsParts.same | split

theorem State.linkError_keeps {a : State} {s : State} {port : Nat} {kind : Nat} (hs : Keeps a s) :
    Keeps a (State.linkError s port kind) := by
  unfold State.linkError
  with_reducible repeat' first
    | assumption | apply State.sqcEvent_keeps | apply State.put_keeps | intro _

theorem State.ferryOut_keeps {a : State} {s : State} {p : Nat} {f : FerryFrame} (hs : Keeps a s) :
    Keeps a (State.ferryOut s p f) := by
  unfold State.ferryOut
  with_reducible repeat' first
    | assumption | apply State.emit_keeps | apply State.linkError_keeps | apply State.setFerryPort_keeps | split

theorem State.ferrySend_keeps {a : State} {s : State} {p : Nat} {kind : Nat} {dest : Nat} {xtag : Nat} {first : Bool} {last : Bool} {data : Bytes} (hs : Keeps a s) :
    Keeps a (State.ferrySend s p kind dest xtag first last data) := by
  unfold State.ferrySend
  with_reducible repeat' first
    | assumption | apply State.ferryOut_keeps

theorem State.sendMessage_keeps {a : State} {s : State} {p : Nat} {kind : Nat} {dest : Nat} {xtag : Nat} {data : Bytes} (hs : Keeps a s) :
    Keeps a (State.sendMessage s p kind dest xtag data) := by
  unfold State.sendMessage
  with_reducible repeat' first
    | assumption | apply State.ferrySend_keeps | apply Keeps.foldl | intro _

theorem State.msix_keeps {a : State} {s : State} {fn : Nat} {vec : Nat} (hs : Keeps a s) :
    Keeps a (State.msix s fn vec) := by
  unfold State.msix
  with_reducible repeat' first
    | assumption | apply State.emit_keeps | simp only [Keeps.mk_eq] | apply KeepsParts.same | split

theorem State.raise_keeps {a : State} {s : State} {n : Nat} (hs : Keeps a s) :
    Keeps a (State.raise s n) := by
  unfold State.raise
  with_reducible repeat' first
    | assumption | apply State.putBit_keeps | apply State.msix_keeps | apply State.sendMessage_keeps | apply State.emit_keeps
    | simp only [Keeps.mk_eq] | split

theorem State.journal_keeps {a : State} {s : State} {typ : Nat} {inst : Nat} {body : Bytes} (hs : Keeps a s) :
    Keeps a (State.journal s typ inst body) := by
  unfold State.journal
  with_reducible repeat' first
    | assumption | apply State.stamped_keeps | apply State.incMod_keeps | apply State.put_keeps | simp only [Keeps.mk_eq]
    | apply KeepsParts.same

theorem State.sqcJournal_keeps {a : State} {s : State} {f : Fld} {g : State → State} {typ : Nat} {inst : Nat} {body : State → Bytes} (hs : Keeps a s) (hg : ∀ y0, Keeps a y0 → Keeps a (g y0)) :
    Keeps a (State.sqcJournal s f g typ inst body) := by
  unfold State.sqcJournal
  with_reducible repeat' first
    | assumption | apply State.journal_keeps | apply State.sqcEvent_keeps | split

theorem State.countFault_keeps {a : State} {s : State} {cls : Nat} (hs : Keeps a s) :
    Keeps a (State.countFault s cls) := by
  unfold State.countFault
  with_reducible repeat' first
    | assumption | apply State.incSat_keeps | split

theorem State.capture_keeps {a : State} {s : State} {r : FaultRec} (hs : Keeps a s) :
    Keeps a (State.capture s r) := by
  unfold State.capture
  with_reducible repeat' first
    | assumption | apply State.putB_keeps | apply State.stamped_keeps | apply State.put_keeps

theorem State.captureFault_keeps {a : State} {s : State} {r : FaultRec} (hs : Keeps a s) :
    Keeps a (State.captureFault s r) := by
  unfold State.captureFault
  with_reducible repeat' first
    | assumption | apply State.capture_keeps | apply State.sqcEvent_keeps | apply State.put_keeps | intro _ | split

theorem State.ringStore_keeps {a : State} {s : State} {r : FaultRec} (hs : Keeps a s) :
    Keeps a (State.ringStore s r) := by
  unfold State.ringStore
  with_reducible repeat' first
    | assumption | apply State.writeMem_keeps | simp only [Keeps.mk_eq] | split

theorem State.ringFault_keeps {a : State} {s : State} {r : FaultRec} (hs : Keeps a s) :
    Keeps a (State.ringFault s r) := by
  unfold State.ringFault
  with_reducible repeat' first
    | assumption | apply State.ringStore_keeps | apply State.incSat_keeps | apply State.incMod_keeps | simp only [Keeps.mk_eq]
    | apply KeepsParts.same | split

theorem State.unacked_keeps {a : State} {s : State} {cls : Nat} (hs : Keeps a s) :
    Keeps a (State.unacked s cls) := by
  unfold State.unacked
  with_reducible repeat' first
    | assumption | simp only [Keeps.mk_eq] | apply KeepsParts.same | split

theorem State.reportBase_keeps {a : State} {s : State} {r : FaultRec} (hs : Keeps a s) :
    Keeps a (State.reportBase s r) := by
  unfold State.reportBase
  with_reducible repeat' first
    | assumption | apply State.unacked_keeps | apply State.ringFault_keeps | apply State.captureFault_keeps
    | apply State.countFault_keeps | apply State.raise_keeps | split

theorem State.accessErr_keeps {a : State} {s : State} {r : Requester} {kind : Nat} {off : Nat} {write : Bool} (hs : Keeps a s) :
    Keeps a (State.accessErr s r kind off write) := by
  unfold State.accessErr
  with_reducible repeat' first
    | assumption | apply State.reportBase_keeps | apply State.putB_keeps | apply State.incSat_keeps | apply State.sqcJournal_keeps
    | apply State.raise_keeps | apply State.put_keeps | intro _

theorem State.hostTell_keeps {a : State} {s : State} {addr : Nat} {data : Bytes} (hs : Keeps a s) :
    Keeps a (State.hostTell s addr data) := by
  unfold State.hostTell
  with_reducible repeat' first
    | assumption | apply State.sendMessage_keeps | split

theorem State.logLost_keeps {a : State} {s : State} {n : Nat} (hs : Keeps a s) :
    Keeps a (State.logLost s n) := by
  unfold State.logLost
  with_reducible repeat' first
    | assumption | apply State.put_keeps

theorem State.logWrite_keeps {a : State} {s : State} {r : LogRec} (hs : Keeps a s) :
    Keeps a (State.logWrite s r) := by
  unfold State.logWrite
  with_reducible repeat' first
    | assumption | apply State.logLost_keeps | apply State.journal_keeps | apply State.raise_keeps | apply State.put_keeps
    | simp only [Keeps.mk_eq] | apply KeepsParts.same | split

theorem State.logAdd_keeps {a : State} {s : State} {typ : Nat} {inst : Nat} {tenant : Nat} {body : Bytes} (hs : Keeps a s) :
    Keeps a (State.logAdd s typ inst tenant body) := by
  unfold State.logAdd
  with_reducible repeat' first
    | assumption | apply State.logWrite_keeps | apply State.logLost_keeps | apply State.stamped_keeps | apply State.put_keeps
    | simp only [Keeps.mk_eq] | apply KeepsParts.same | split

theorem State.setDev_keeps {a : State} {s : State} {f : Fld} {v : Nat} (hs : Keeps a s) :
    Keeps a (State.setDev s f v) := by
  unfold State.setDev
  with_reducible repeat' first
    | assumption | apply State.raise_keeps | apply State.put_keeps | split

theorem State.setMissing_keeps {a : State} {s : State} {bit : Nat} {b : Bool} (hs : Keeps a s) :
    Keeps a (State.setMissing s bit b) := by
  unfold State.setMissing
  with_reducible repeat' first
    | assumption | apply State.setDev_keeps

theorem State.openHard_keeps {a : State} {s : State} {i : Nat} {r : FaultRec} (hs : Keeps a s) :
    Keeps a (State.openHard s i r) := by
  unfold State.openHard
  with_reducible repeat' first
    | assumption | apply State.putBit_keeps | apply State.put_keeps | simp only [Keeps.mk_eq] | apply KeepsParts.same

theorem State.noteHealth_keeps {a : State} {s : State} (hs : Keeps a s) :
    Keeps a (State.noteHealth s) := by
  unfold State.noteHealth
  with_reducible repeat' first
    | assumption | simp only [Keeps.mk_eq] | apply KeepsParts.same | split

theorem State.closeHard_keeps {a : State} {s : State} {i : Nat} (hs : Keeps a s) :
    Keeps a (State.closeHard s i) := by
  unfold State.closeHard
  with_reducible repeat' first
    | assumption | apply State.putBit_keeps | simp only [Keeps.mk_eq] | apply KeepsParts.same

theorem State.soft_keeps {a : State} {s : State} {loc : Loc} {block : Nat} {kind : Nat} (hs : Keeps a s) :
    Keeps a (State.soft s loc block kind) := by
  unfold State.soft
  with_reducible repeat' first
    | assumption | apply State.reportBase_keeps

theorem State.blockErr_keeps {a : State} {s : State} {base : Nat} {off : Nat} {frozen : Bool} (hs : Keeps a s) :
    Keeps a (State.blockErr s base off frozen) := by
  unfold State.blockErr
  with_reducible repeat' first
    | assumption | apply State.putB_keeps | apply State.incSat_keeps | apply State.sqcEvent_keeps | apply State.put_keeps
    | intro _

theorem State.logThaw_keeps {a : State} {s : State} (hs : Keeps a s) :
    Keeps a (State.logThaw s) := by
  unfold State.logThaw
  with_reducible repeat' first
    | assumption | apply State.logWrite_keeps | apply State.put_keeps | simp only [Keeps.mk_eq] | apply KeepsParts.same
    | apply Keeps.foldl | split

theorem State.takeHalf_keeps {a : State} {s : State} {r : Requester} (hs : Keeps a s) :
    Keeps a (State.takeHalf s r).1 := by
  unfold State.takeHalf
  with_reducible repeat' first
    | assumption | simp only [Keeps.mk_eq] | apply KeepsParts.same

theorem State.noHalf_keeps {a : State} {s : State} {r : Requester} (hs : Keeps a s) :
    Keeps a (State.noHalf s r) := by
  unfold State.noHalf
  with_reducible repeat' first
    | assumption | apply State.takeHalf_keeps

theorem State.hostAsk_keeps {a : State} {s : State} {addr : Nat} {len : Nat} {use : Nat} (hs : Keeps a s) :
    Keeps a (State.hostAsk s addr len use) := by
  unfold State.hostAsk
  with_reducible repeat' first
    | assumption | apply State.sendMessage_keeps | simp only [Keeps.mk_eq] | apply KeepsParts.same

theorem State.note_keeps {a : State} {s : State} {loc : Loc} {block : Nat} {kind : Nat} (hs : Keeps a s) :
    Keeps a (State.note s loc block kind) := by
  unfold State.note
  with_reducible repeat' first
    | assumption | apply State.reportBase_keeps

theorem State.setPins_keeps {a : State} {s : State} {pins : Nat} (hs : Keeps a s) :
    Keeps a (State.setPins s pins) := by
  unfold State.setPins
  with_reducible repeat' first
    | assumption | apply State.putB_keeps | apply State.put_keeps

theorem State.lanternEdge_keeps {a : State} {s0 : State} (hs0 : Keeps a s0) :
    Keeps a (State.lanternEdge s0) := by
  unfold State.lanternEdge
  with_reducible repeat' first
    | assumption | apply State.noteHealth_keeps | apply State.put_keeps | simp only [Keeps.mk_eq] | split

theorem State.ituFault_keeps {a : State} {s : State} {fn : Nat} {addr : Nat} {kind : Nat} {write : Bool} (hs : Keeps a s) :
    Keeps a (State.ituFault s fn addr kind write) := by
  unfold State.ituFault
  with_reducible repeat' first
    | assumption | apply State.putB_keeps | apply State.incSat_keeps | apply State.sqcJournal_keeps | apply State.raise_keeps
    | apply State.put_keeps | intro _

theorem State.setStage_keeps {a : State} {s : State} {cid : Nat} {g : Stage} (hs : Keeps a s) :
    Keeps a (State.setStage s cid g) := by
  unfold State.setStage
  with_reducible repeat' first
    | assumption | simp only [Keeps.mk_eq] | apply KeepsParts.same

theorem State.unreported_keeps {a : State} {s : State} {inst : Nat} {tag : Nat} {opcode : Nat} {status : Nat} {reason : Nat} {cause : Nat} (hs : Keeps a s) :
    Keeps a (State.unreported s inst tag opcode status reason cause) := by
  unfold State.unreported
  with_reducible repeat' first
    | assumption | apply State.journal_keeps

theorem State.cqHeld_keeps {a : State} {s : State} {q : Nat} (hs : Keeps a s) :
    Keeps a (State.cqHeld s q) := by
  unfold State.cqHeld
  with_reducible repeat' first
    | assumption | apply State.putB_keeps | apply State.put_keeps

theorem State.touch_keeps {a : State} {s : State} {fn : Nat} {a2x : Nat} {n : Nat} (hs : Keeps a s) :
    Keeps a (State.touch s fn a2x n) := by
  unfold State.touch
  with_reducible repeat' first
    | assumption | simp only [Keeps.mk_eq] | apply KeepsParts.same | split

theorem State.access_keeps {a : State} {s0 : State} {fn : Nat} {addr : Nat} {len : Nat} {data : Option Bytes} {p : Purpose} (hs0 : Keeps a s0) :
    Keeps a (State.access s0 fn addr len data p).1 := by
  unfold State.access
  with_reducible repeat' first
    | assumption | apply State.touch_keeps | apply State.ituFault_keeps | apply State.incMod_keeps | apply State.emit_keeps
    | simp only [Keeps.mk_eq] | apply KeepsParts.same | apply Keeps.foldl | apply Keeps.foldl_fst | intro _ | split

theorem State.queueError_keeps {a : State} {s : State} {isCq : Bool} {q : Nat} {kind : Nat} (hs : Keeps a s) :
    Keeps a (State.queueError s isCq q kind) := by
  unfold State.queueError
  with_reducible repeat' first
    | assumption | apply State.putB_keeps | apply State.incSat_keeps | apply State.raise_keeps | apply State.sqcEvent_keeps
    | apply State.put_keeps | intro _ | split

theorem State.cqError_keeps {a : State} {s : State} {q : Nat} {kind : Nat} (hs : Keeps a s) :
    Keeps a (State.cqError s q kind) := by
  unfold State.cqError
  with_reducible repeat' first
    | assumption | apply State.queueError_keeps | apply State.unreported_keeps | apply State.put_keeps | simp only [Keeps.mk_eq]
    | apply KeepsParts.same | apply Keeps.foldl | intro _ | split

theorem State.cqSignal_keeps {a : State} {s : State} {q : Nat} {c : Cq} (hs : Keeps a s) :
    Keeps a (State.cqSignal s q c) := by
  unfold State.cqSignal
  with_reducible repeat' first
    | assumption | apply State.msix_keeps | simp only [Keeps.mk_eq] | apply KeepsParts.same | split

theorem State.cqCount_keeps {a : State} {s : State} {q : Nat} {e2x : CqEntry} (hs : Keeps a s) :
    Keeps a (State.cqCount s q e2x) := by
  unfold State.cqCount
  with_reducible repeat' first
    | assumption | apply State.cqSignal_keeps | simp only [Keeps.mk_eq] | apply KeepsParts.same | split

theorem State.cqProd_keeps {a : State} {s : State} {q : Nat} (hs : Keeps a s) :
    Keeps a (State.cqProd s q) := by
  unfold State.cqProd
  with_reducible repeat' first
    | assumption | apply State.cqError_keeps | apply State.access_keeps | split | refine Keeps.fst (by assumption) ?_

theorem State.cqWritten_keeps {a : State} {s : State} {q : Nat} {e2x : CqEntry} (hs : Keeps a s) :
    Keeps a (State.cqWritten s q e2x) := by
  unfold State.cqWritten
  with_reducible repeat' first
    | assumption | apply State.cqProd_keeps | apply State.cqCount_keeps | apply State.cqHeld_keeps | apply State.put_keeps
    | simp only [Keeps.mk_eq] | apply KeepsParts.same | split

theorem State.cqDrain_keeps {a : State} {s : State} {q : Nat} {x2 : Nat} (hs : Keeps a s) :
    Keeps a (State.cqDrain s q x2) := by
  induction x2 generalizing s q with
  | zero =>
    unfold State.cqDrain
    with_reducible repeat' first
      | assumption | apply State.cqWritten_keeps | apply State.cqError_keeps | apply State.access_keeps | simp only [Keeps.mk_eq]
      | split | refine Keeps.fst (by assumption) ?_
  | succ k ih =>
    unfold State.cqDrain
    with_reducible repeat' first
      | assumption | apply ih | apply State.cqWritten_keeps | apply State.cqError_keeps | apply State.access_keeps
      | simp only [Keeps.mk_eq] | split | refine Keeps.fst (by assumption) ?_

theorem State.cqPost_keeps {a : State} {s : State} {q : Nat} {e2x : CqEntry} (hs : Keeps a s) :
    Keeps a (State.cqPost s q e2x) := by
  unfold State.cqPost
  with_reducible repeat' first
    | assumption | apply State.cqDrain_keeps | apply State.cqHeld_keeps | apply State.unreported_keeps | simp only [Keeps.mk_eq]
    | apply KeepsParts.same | split

theorem State.notice_keeps {a : State} {s : State} {inst : Nat} {code : Nat} {info : Nat} {key : Nat} {hamper : Nat} {status : Nat} (hs : Keeps a s) :
    Keeps a (State.notice s inst code info key hamper status) := by
  unfold State.notice
  with_reducible repeat' first
    | assumption | apply State.cqPost_keeps | apply State.incSat_keeps | apply State.raise_keeps | apply State.put_keeps | split

theorem State.portsSend_keeps {a : State} {s : State} {kind : Nat} {body : Bytes} (hs : Keeps a s) :
    Keeps a (State.portsSend s kind body) := by
  unfold State.portsSend
  with_reducible repeat' first
    | assumption | simp only [Keeps.mk_eq] | apply KeepsParts.same

theorem State.closeSlot_keeps {a : State} {s : State} {slot : Nat} {status : Nat} (hs : Keeps a s) :
    Keeps a (State.closeSlot s slot status) := by
  unfold State.closeSlot
  with_reducible repeat' first
    | assumption | apply State.portsSend_keeps | apply State.notice_keeps | apply State.logAdd_keeps | apply State.putBit_keeps
    | apply State.put_keeps | simp only [Keeps.mk_eq] | apply KeepsParts.same | split

theorem State.answerMbox_keeps {a : State} {s : State} {fn : Nat} {box : Nat} {m : Msg} {r : Resp} {far : Option (Nat × Nat)} (hs : Keeps a s) :
    Keeps a (State.answerMbox s fn box m r far) := by
  unfold State.answerMbox
  with_reducible repeat' first
    | assumption | apply State.writeMem_keeps | apply State.stamped_keeps | apply State.incMod_keeps | apply State.msix_keeps
    | apply State.put_keeps | simp only [Keeps.mk_eq] | split

theorem State.takenDown_keeps {a : State} {s : State} {sq : Nat} {fn : Nat} (hs : Keeps a s) :
    Keeps a (State.takenDown s sq fn) := by
  unfold State.takenDown
  with_reducible repeat' first
    | assumption | apply State.put_keeps

theorem State.onChain_keeps {a : State} {s : State} {sq : Nat} {cid : Nat} {f : Chain → Option Chain} (hs : Keeps a s) :
    Keeps a (State.onChain s sq cid f) := by
  unfold State.onChain
  with_reducible repeat' first
    | assumption | simp only [Keeps.mk_eq] | apply KeepsParts.same

theorem State.leaveSq_keeps {a : State} {s : State} {sq : Nat} {cid : Nat} {m : Msg} {r : Resp} {written : Bool} (hs : Keeps a s) :
    Keeps a (State.leaveSq s sq cid m r written).1 := by
  unfold State.leaveSq
  with_reducible repeat' first
    | assumption | apply State.onChain_keeps | apply State.takenDown_keeps | simp only [Keeps.mk_eq] | apply KeepsParts.same

theorem State.ringDone_keeps {a : State} {s : State} {sq : Nat} {cid : Nat} {m : Msg} {r : Resp} {written : Bool} (hs : Keeps a s) :
    Keeps a (State.ringDone s sq cid m r written) := by
  unfold State.ringDone
  with_reducible repeat' first
    | assumption | apply State.leaveSq_keeps | apply State.cqPost_keeps | simp only [Keeps.mk_eq] | split

theorem State.answerRing_keeps {a : State} {s : State} {sq : Nat} {cid : Nat} {m : Msg} {r : Resp} (hs : Keeps a s) :
    Keeps a (State.answerRing s sq cid m r) := by
  unfold State.answerRing
  with_reducible repeat' first
    | assumption | apply State.ringDone_keeps | apply State.access_keeps | apply State.stamped_keeps | simp only [Keeps.mk_eq]
    | apply KeepsParts.same | split | refine Keeps.fst (by assumption) ?_

theorem State.rolled_keeps {a : State} {s : State} {n : Nat} {late : Bool} {status : Nat} (hs : Keeps a s) :
    Keeps a (State.rolled s n late status) := by
  unfold State.rolled
  with_reducible repeat' first
    | assumption | apply State.journal_keeps | apply State.put_keeps | split

theorem State.complete_keeps {a : State} {s : State} {cid : Nat} {r0 : Resp} (hs : Keeps a s) :
    Keeps a (State.complete s cid r0) := by
  unfold State.complete
  with_reducible repeat' first
    | assumption | apply State.rolled_keeps | apply State.answerRing_keeps | apply State.leaveSq_keeps
    | apply State.answerMbox_keeps | apply State.closeSlot_keeps | apply State.unreported_keeps | apply State.stamped_keeps
    | apply State.sendMessage_keeps | apply State.emit_keeps | simp only [Keeps.mk_eq] | apply KeepsParts.same | split

theorem State.quorumEvent_keeps {a : State} {s : State} {kind : Nat} {slot : Nat} (hs : Keeps a s) :
    Keeps a (State.quorumEvent s kind slot) := by
  unfold State.quorumEvent
  with_reducible repeat' first
    | assumption | apply State.raise_keeps | apply State.sqcEvent_keeps | apply State.put_keeps | intro _

theorem State.completeAll_keeps {a : State} {s : State} {p : Cmd → Bool} {status : Nat} (hs : Keeps a s) :
    Keeps a (State.completeAll s p status) := by
  unfold State.completeAll
  with_reducible repeat' first
    | assumption | apply State.complete_keeps | apply Keeps.foldl | intro _

theorem State.take_keeps {a : State} {s : State} {m : Msg} (hs : Keeps a s) :
    Keeps a (State.take s m).1 := by
  unfold State.take
  with_reducible repeat' first
    | assumption | simp only [Keeps.mk_eq] | apply KeepsParts.same

theorem State.nextEntry_keeps {a : State} {s : State} {sq : Nat} (hs : Keeps a s) :
    Keeps a (State.nextEntry s sq).1 := by
  unfold State.nextEntry
  with_reducible repeat' first
    | assumption | apply State.take_keeps | simp only [Keeps.mk_eq] | apply KeepsParts.same | split

theorem State.takenUp_keeps {a : State} {s : State} {sq : Nat} {fn : Nat} (hs : Keeps a s) :
    Keeps a (State.takenUp s sq fn) := by
  unfold State.takenUp
  with_reducible repeat' first
    | assumption | apply State.put_keeps

theorem State.endSlot_keeps {a : State} {s : State} {n : Nat} {kind : Nat} {status : Nat} (hs : Keeps a s) :
    Keeps a (State.endSlot s n kind status) := by
  unfold State.endSlot
  with_reducible repeat' first
    | assumption | apply State.quorumEvent_keeps | apply State.closeSlot_keeps

theorem State.setPort_keeps {a : State} {s : State} {p : Nat} {x : Port} (hs : Keeps a s) :
    Keeps a (State.setPort s p x) := by
  unfold State.setPort
  with_reducible repeat' first
    | assumption | simp only [Keeps.mk_eq] | apply KeepsParts.same | split

theorem State.setPortState_keeps {a : State} {s : State} {p : Nat} {v : Nat} (hs : Keeps a s) :
    Keeps a (State.setPortState s p v) := by
  unfold State.setPortState
  with_reducible repeat' first
    | assumption | apply State.raise_keeps | apply State.put_keeps | split

theorem custodianEnrol_keeps {a : State} {m : Msg} {s : State} (hs : Keeps a s) :
    Keeps a (custodianEnrol m s).1 := by
  unfold custodianEnrol
  with_reducible repeat' first
    | assumption | simp only [Keeps.mk_eq] | apply KeepsParts.same | split

theorem State.cancelSlots_keeps {a : State} {s : State} {p : State → Nat → Bool} (hs : Keeps a s) :
    Keeps a (State.cancelSlots s p) := by
  unfold State.cancelSlots
  with_reducible repeat' first
    | assumption | apply State.endSlot_keeps | apply Keeps.foldl | intro _ | split

theorem custodianRemove_keeps {a : State} {m : Msg} {s : State} (hs : Keeps a s) :
    Keeps a (custodianRemove m s).1 := by
  unfold custodianRemove
  with_reducible repeat' first
    | assumption | apply State.cancelSlots_keeps | apply State.putBit_keeps | simp only [Keeps.mk_eq] | apply KeepsParts.same
    | apply Keeps.foldl | intro _ | split

theorem quorumPolicySet_keeps {a : State} {m : Msg} {s : State} (hs : Keeps a s) :
    Keeps a (quorumPolicySet m s).1 := by
  unfold quorumPolicySet
  with_reducible repeat' first
    | assumption | apply State.cancelSlots_keeps | simp only [Keeps.mk_eq] | apply KeepsParts.same | split

theorem operationStatusGet_keeps {a : State} {m : Msg} {s : State} (hs : Keeps a s) :
    Keeps a (operationStatusGet m s).1 := by
  unfold operationStatusGet
  with_reducible repeat' first
    | assumption | simp only [Keeps.mk_eq] | split

theorem operationCancel_keeps {a : State} {m : Msg} {s : State} (hs : Keeps a s) :
    Keeps a (operationCancel m s).1 := by
  unfold operationCancel
  with_reducible repeat' first
    | assumption | apply State.endSlot_keeps | simp only [Keeps.mk_eq] | split

theorem State.tokenRefused_keeps {a : State} {s : State} {m : Msg} (hs : Keeps a s) :
    Keeps a (State.tokenRefused s m) := by
  unfold State.tokenRefused
  with_reducible repeat' first
    | assumption | apply State.quorumEvent_keeps | apply State.incSat_keeps

theorem State.approveBit_keeps {a : State} {s : State} {n : Nat} {pos : Nat} {byPort : Bool} (hs : Keeps a s) :
    Keeps a (State.approveBit s n pos byPort) := by
  unfold State.approveBit
  with_reducible repeat' first
    | assumption | apply State.quorumEvent_keeps | apply State.putBit_keeps | apply State.put_keeps | simp only [Keeps.mk_eq]
    | split

theorem State.tokenTaken_keeps {a : State} {s : State} {m : Msg} (hs : Keeps a s) :
    Keeps a (State.tokenTaken s m) := by
  unfold State.tokenTaken
  with_reducible repeat' first
    | assumption | apply State.approveBit_keeps | simp only [Keeps.mk_eq] | split

theorem State.openSlot_keeps {a : State} {s : State} {m : Msg} {cls : Nat} {tenant : Nat} {pp : Bool} (hs : Keeps a s) :
    Keeps a (State.openSlot s m cls tenant pp).1 := by
  unfold State.openSlot
  with_reducible repeat' first
    | assumption | apply State.portsSend_keeps | apply State.putB_keeps | apply State.putBit_keeps | apply State.put_keeps
    | simp only [Keeps.mk_eq] | apply KeepsParts.same | split

theorem State.deadline_keeps {a : State} {s : State} {n : Nat} (hs : Keeps a s) :
    Keeps a (State.deadline s n) := by
  unfold State.deadline
  with_reducible repeat' first
    | assumption | apply State.endSlot_keeps | split

theorem State.deadlines_keeps {a : State} {s : State} (hs : Keeps a s) :
    Keeps a (State.deadlines s) := by
  unfold State.deadlines
  with_reducible repeat' first
    | assumption | apply State.deadline_keeps | apply Keeps.foldl

theorem State.setCustodian_keeps {a : State} {s : State} {pos : Nat} {c : Custodian} (hs : Keeps a s) :
    Keeps a (State.setCustodian s pos c) := by
  unfold State.setCustodian
  with_reducible repeat' first
    | assumption | simp only [Keeps.mk_eq] | apply KeepsParts.same

theorem State.portDown_keeps {a : State} {s : State} {p : Nat} (hs : Keeps a s) :
    Keeps a (State.portDown s p) := by
  unfold State.portDown
  with_reducible repeat' first
    | assumption | apply State.setPortState_keeps | apply State.setPort_keeps | apply State.quorumEvent_keeps

theorem State.judgeFrame_keeps {a : State} {s : State} {p : Nat} {f : PadFrame} (hs : Keeps a s) :
    Keeps a (State.judgeFrame s p f).1 := by
  unfold State.judgeFrame
  with_reducible repeat' first
    | assumption | apply State.portDown_keeps | apply State.setPort_keeps | apply State.incSat_keeps | simp only [Keeps.mk_eq]
    | split

theorem State.sendFrame_keeps {a : State} {s : State} {p : Nat} {kind : Nat} {body : Bytes} (hs : Keeps a s) :
    Keeps a (State.sendFrame s p kind body) := by
  unfold State.sendFrame
  with_reducible repeat' first
    | assumption | apply State.setPort_keeps | apply State.emit_keeps

theorem State.portExchange_keeps {a : State} {s : State} {p : Nat} {f : PadFrame} (hs : Keeps a s) :
    Keeps a (State.portExchange s p f) := by
  unfold State.portExchange
  with_reducible repeat' first
    | assumption | apply State.sendFrame_keeps | apply State.judgeFrame_keeps | apply State.setPort_keeps | split

theorem State.helloAck_keeps {a : State} {s : State} {p : Nat} {f : PadFrame} {padNonce : Bytes} (hs : Keeps a s) :
    Keeps a (State.helloAck s p f padNonce) := by
  unfold State.helloAck
  with_reducible repeat' first
    | assumption | apply State.judgeFrame_keeps | apply State.setPortState_keeps | apply State.setPort_keeps
    | simp only [Keeps.mk_eq] | split

theorem State.padResult_keeps {a : State} {s : State} {p : Nat} {op : Nat} {code : Nat} (hs : Keeps a s) :
    Keeps a (State.padResult s p op code) := by
  unfold State.padResult
  with_reducible repeat' first
    | assumption | apply State.setPort_keeps

theorem State.wrongPin_keeps {a : State} {s : State} {p : Nat} {n : Nat} {pos : Nat} {c : Custodian} (hs : Keeps a s) :
    Keeps a (State.wrongPin s p n pos c) := by
  unfold State.wrongPin
  with_reducible repeat' first
    | assumption | apply State.setCustodian_keeps | apply State.quorumEvent_keeps | apply State.logAdd_keeps
    | apply State.incSat_keeps | simp only [Keeps.mk_eq] | split

theorem State.padApprove_keeps {a : State} {s : State} {p : Nat} {op : Nat} {pos : Nat} {pin : Bytes} {digest : Bytes} (hs : Keeps a s) :
    Keeps a (State.padApprove s p op pos pin digest) := by
  unfold State.padApprove
  with_reducible repeat' first
    | assumption | apply State.wrongPin_keeps | apply State.padResult_keeps | apply State.setCustodian_keeps
    | apply State.approveBit_keeps | simp only [Keeps.mk_eq] | split

theorem State.padPinSet_keeps {a : State} {s : State} {p : Nat} {pos : Nat} {pin : Bytes} {pin2 : Bytes} (hs : Keeps a s) :
    Keeps a (State.padPinSet s p pos pin pin2) := by
  unfold State.padPinSet
  with_reducible repeat' first
    | assumption | apply State.padResult_keeps | apply State.setCustodian_keeps | split

theorem State.generate_keeps {a : State} {s : State} {n : Nat} (hs : Keeps a s) :
    Keeps a (State.generate s n) := by
  unfold State.generate
  with_reducible repeat' first
    | assumption | apply State.put_keeps | simp only [Keeps.mk_eq] | apply KeepsParts.same

theorem State.generateMany_keeps {a : State} {s : State} {x1 : Nat} (hs : Keeps a s) :
    Keeps a (State.generateMany s x1) := by
  induction x1 generalizing s with
  | zero =>
    unfold State.generateMany
    with_reducible repeat' first
      | assumption | apply State.generate_keeps
  | succ k ih =>
    unfold State.generateMany
    with_reducible repeat' first
      | assumption | apply ih | apply State.generate_keeps

theorem State.draw_keeps {a : State} {s : State} {n : Nat} (hs : Keeps a s) :
    Keeps a (State.draw s n).1 := by
  unfold State.draw
  with_reducible repeat' first
    | assumption | apply State.generateMany_keeps | apply State.generate_keeps | split

theorem State.rsaPrimes_keeps {a : State} {s : State} {bits : Nat} {e2x : Nat} (hs : Keeps a s) :
    Keeps a (State.rsaPrimes s bits e2x).1 := by
  unfold State.rsaPrimes
  with_reducible repeat' first
    | assumption | apply State.put_keeps | simp only [Keeps.mk_eq] | apply KeepsParts.same

theorem State.openSession_keeps {a : State} {s : State} {p : Nat} (hs : Keeps a s) :
    Keeps a (State.openSession s p) := by
  unfold State.openSession
  with_reducible repeat' first
    | assumption | apply State.setPortState_keeps | apply State.setPort_keeps | apply State.draw_keeps

theorem State.rootOut_keeps {a : State} {s : State} (hs : Keeps a s) :
    Keeps a (State.rootOut s) := by
  unfold State.rootOut
  with_reducible repeat' first
    | assumption | simp only [Keeps.mk_eq] | apply KeepsParts.same | split

theorem State.wipeSlot_keeps {a : State} {s : State} {i : Nat} {tell : Bool} (hs : Keeps a s) :
    Keeps a (State.wipeSlot s i tell) := by
  unfold State.wipeSlot
  with_reducible repeat' first
    | assumption | apply State.notice_keeps | simp only [Keeps.mk_eq] | apply KeepsParts.same | split

theorem State.touchRoot_keeps {a : State} {s : State} {n : Nat} (hs : Keeps a s) :
    Keeps a (State.touchRoot s n) := by
  unfold State.touchRoot
  with_reducible repeat' first
    | assumption | apply State.wipeSlot_keeps | apply State.rootOut_keeps | apply State.incMod_keeps | simp only [Keeps.mk_eq]
    | apply KeepsParts.same | split

theorem State.trim_keeps {a : State} {s : State} {tenant : Nat} {x2 : Nat} (hs : Keeps a s) :
    Keeps a (State.trim s tenant x2) := by
  induction x2 generalizing s tenant with
  | zero =>
    unfold State.trim
    with_reducible repeat' first
      | assumption | apply State.wipeSlot_keeps | apply State.incMod_keeps | split
  | succ k ih =>
    unfold State.trim
    with_reducible repeat' first
      | assumption | apply ih | apply State.wipeSlot_keeps | apply State.incMod_keeps | split

theorem State.loadSlot_keeps {a : State} {s : State} {inst : Nat} {c : Cargo} {t : State} {v} (e : State.loadSlot s inst c = .ok (t, v)) (hs : Keeps a s) :
    Keeps a t := by
  unfold State.loadSlot at e
  split at e
  · cases e
  · extract_lets s0 at e
    have h0 : Keeps a s0 := State.rootOut_keeps (State.trim_keeps hs)
    split at e
    · cases e
    · rename_i i evict heq
      extract_lets s1 epoch x at e
      have h1 : Keeps a s1 := Keeps.ite (fun _ => State.wipeSlot_keeps (State.incMod_keeps h0)) (fun _ => h0)
      simp only [Except.ok.injEq, Prod.mk.injEq] at e
      rw [← e.1]
      exact State.incMod_keeps (by simp only [Keeps.mk_eq]; exact h1)

theorem State.freeOrDoom_keeps {a : State} {s : State} {i : Nat} {tell : Bool} (hs : Keeps a s) :
    Keeps a (State.freeOrDoom s i tell) := by
  unfold State.freeOrDoom
  with_reducible repeat' first
    | assumption | apply State.wipeSlot_keeps | simp only [Keeps.mk_eq] | apply KeepsParts.same | split

theorem State.freeSlots_keeps {a : State} {s : State} {p : Slot → Bool} (hs : Keeps a s) :
    Keeps a (State.freeSlots s p) := by
  unfold State.freeSlots
  with_reducible repeat' first
    | assumption | apply State.freeOrDoom_keeps | apply Keeps.foldl | intro _

theorem State.useSlot_keeps {a : State} {s : State} {i : Nat} (hs : Keeps a s) :
    Keeps a (State.useSlot s i) := by
  unfold State.useSlot
  with_reducible repeat' first
    | assumption | simp only [Keeps.mk_eq] | apply KeepsParts.same

theorem State.leaveSlot_keeps {a : State} {s : State} {i : Nat} (hs : Keeps a s) :
    Keeps a (State.leaveSlot s i) := by
  unfold State.leaveSlot
  with_reducible repeat' first
    | assumption | apply State.wipeSlot_keeps | simp only [Keeps.mk_eq] | apply KeepsParts.same | split

theorem State.setTableSet_keeps {a : State} {s : State} {n : Nat} {t : TableSet} (hs : Keeps a s) :
    Keeps a (State.setTableSet s n t) := by
  unfold State.setTableSet
  with_reducible repeat' first
    | assumption | simp only [Keeps.mk_eq] | apply KeepsParts.same | split

theorem State.writeTenant_keeps {a : State} {s : State} {n : Nat} {t : Tenant} (hs : Keeps a s) :
    Keeps a (State.writeTenant s n t) := by
  unfold State.writeTenant
  with_reducible repeat' first
    | assumption | apply State.setTableSet_keeps | simp only [Keeps.mk_eq] | apply KeepsParts.same | split

theorem State.clearEntry_keeps {a : State} {s : State} {n : Nat} (hs : Keeps a s) :
    Keeps a (State.clearEntry s n) := by
  unfold State.clearEntry
  with_reducible repeat' first
    | assumption | apply State.setTableSet_keeps | apply Keeps.foldl | intro _ | split

theorem State.destroyTenantEntry_keeps {a : State} {s : State} {n : Nat} {t : Tenant} (hs : Keeps a s) :
    Keeps a (State.destroyTenantEntry s n t) := by
  unfold State.destroyTenantEntry
  with_reducible repeat' first
    | assumption | apply State.clearEntry_keeps | apply State.writeTenant_keeps

theorem State.wipeSlots_keeps {a : State} {s : State} {p : Slot → Bool} (hs : Keeps a s) :
    Keeps a (State.wipeSlots s p) := by
  unfold State.wipeSlots
  with_reducible repeat' first
    | assumption | apply State.wipeSlot_keeps | apply Keeps.foldl | intro _

theorem State.loseSlots_keeps {a : State} {s : State} (hs : Keeps a s) :
    Keeps a (State.loseSlots s) := by
  unfold State.loseSlots
  with_reducible repeat' first
    | assumption | simp only [Keeps.mk_eq] | apply KeepsParts.same

theorem State.mendSet_keeps {a : State} {s : State} {n : Nat} (hs : Keeps a s) :
    Keeps a (State.mendSet s n) := by
  unfold State.mendSet
  with_reducible repeat' first
    | assumption | apply State.soft_keeps | apply State.setTableSet_keeps | simp only [Keeps.mk_eq] | split

theorem State.ageSlots_keeps {a : State} {s : State} (hs : Keeps a s) :
    Keeps a (State.ageSlots s) := by
  unfold State.ageSlots
  with_reducible repeat' first
    | assumption | simp only [Keeps.mk_eq] | apply KeepsParts.same

end Sys2Proof.Machine
end

