-- ==== Sys2Proof/Laws/KeepsStore.lean ====
section
/-! SUPPORT. `Keeps` for the store engine: one lemma per operation that answers a state,
each proved from the lemmas of the operations it calls. -/

set_option linter.unusedSimpArgs false

namespace Sys2Proof.Machine

theorem State.readStoreList_keeps {a : State} {s : State} {a1x : Nat} {e2x : Nat × Nat × Nat} (hs : Keeps a s) :
    Keeps a (State.readStoreList s a1x e2x) := by
  unfold State.readStoreList
  with_reducible repeat' first
    | assumption | apply State.incMod_keeps | apply State.emit_keeps | simp only [Keeps.mk_eq] | apply KeepsParts.same

theorem State.tellRequest_keeps {a : State} {s : State} {r : Req} {tag : Nat} {buffer : Option Nat} {bufAt : Nat} {at_ : Nat} (hs : Keeps a s) :
    Keeps a (State.tellRequest s r tag buffer bufAt at_) := by
  unfold State.tellRequest
  with_reducible repeat' first
    | assumption | apply State.hostTell_keeps | split

theorem State.postNow_keeps {a : State} {s : State} {r : Req} (hs : Keeps a s) :
    Keeps a (State.postNow s r) := by
  unfold State.postNow
  with_reducible repeat' first
    | assumption | apply State.tellRequest_keeps | apply State.readStoreList_keeps | apply State.ituFault_keeps
    | apply State.raise_keeps | apply State.emit_keeps | apply State.put_keeps | simp only [Keeps.mk_eq] | apply KeepsParts.same
    | split

theorem State.post_keeps {a : State} {s : State} {r : Req} (hs : Keeps a s) :
    Keeps a (State.post s r) := by
  unfold State.post
  with_reducible repeat' first
    | assumption | apply State.postNow_keeps | simp only [Keeps.mk_eq] | apply KeepsParts.same | split

theorem State.fetchKey_keeps {a : State} {s : State} {key : Nat} {urgent : Bool} {second : Bool} (hs : Keeps a s) :
    Keeps a (State.fetchKey s key urgent second) := by
  unfold State.fetchKey
  with_reducible repeat' first
    | assumption | apply State.post_keeps | simp only [Keeps.mk_eq] | split

theorem State.useNode_keeps {a : State} {s : State} {k : Nat} {i : Nat} (hs : Keeps a s) :
    Keeps a (State.useNode s k i) := by
  unfold State.useNode
  with_reducible repeat' first
    | assumption | simp only [Keeps.mk_eq] | apply KeepsParts.same | split

theorem State.evictNode_keeps {a : State} {s : State} (hs : Keeps a s) :
    Keeps a (State.evictNode s) := by
  unfold State.evictNode
  with_reducible repeat' first
    | assumption | simp only [Keeps.mk_eq] | apply KeepsParts.same | split

theorem State.putNode_keeps {a : State} {s : State} {k : Nat} {i : Nat} {b : Bytes} (hs : Keeps a s) :
    Keeps a (State.putNode s k i b) := by
  unfold State.putNode
  with_reducible repeat' first
    | assumption | apply State.evictNode_keeps | apply State.put_keeps | simp only [Keeps.mk_eq] | apply KeepsParts.same | split

theorem State.descend_keeps {a : State} {s : State} {page : Nat} {stop : Nat} {marks : Bool} {x4 : Nat} {x5 : Bytes} (hs : Keeps a s) :
    Keeps a (State.descend s page stop marks x4 x5).1 := by
  induction x4 generalizing s page stop marks x5 with
  | zero =>
    unfold State.descend
    with_reducible repeat' first
      | assumption | apply State.putNode_keeps | apply State.useNode_keeps | simp only [Keeps.mk_eq] | split
  | succ k ih =>
    unfold State.descend
    with_reducible repeat' first
      | assumption | apply ih | apply State.putNode_keeps | apply State.useNode_keeps | simp only [Keeps.mk_eq] | split

theorem State.fetchKeys_keeps {a : State} {s : State} {keys : List Nat} {urgent : Bool} (hs : Keeps a s) :
    Keeps a (State.fetchKeys s keys urgent) := by
  unfold State.fetchKeys
  with_reducible repeat' first
    | assumption | apply State.fetchKey_keeps | apply Keeps.foldl | intro _

theorem State.countFailed_keeps {a : State} {s : State} (hs : Keeps a s) :
    Keeps a (State.countFailed s) := by
  unfold State.countFailed
  with_reducible repeat' first
    | assumption | apply State.put_keeps

theorem State.markFailed_keeps {a : State} {s : State} {k : Nat} {i : Nat} (hs : Keeps a s) :
    Keeps a (State.markFailed s k i) := by
  unfold State.markFailed
  with_reducible repeat' first
    | assumption | apply State.countFailed_keeps | apply State.logAdd_keeps | apply State.incSat_keeps | apply State.raise_keeps
    | apply State.sqcEvent_keeps | apply State.put_keeps | simp only [Keeps.mk_eq] | apply KeepsParts.same | intro _ | split

theorem State.mismatched_keeps {a : State} {s : State} {k : Nat} {i : Nat} {key : Nat} {second : Bool} (hs : Keeps a s) :
    Keeps a (State.mismatched s k i key second).1 := by
  unfold State.mismatched
  with_reducible repeat' first
    | assumption | apply State.markFailed_keeps | apply State.fetchKey_keeps | simp only [Keeps.mk_eq] | apply KeepsParts.same
    | split

theorem State.readPage_keeps {a : State} {s : State} {page : Nat} {marks : Bool} (hs : Keeps a s) :
    Keeps a (State.readPage s page marks).1 := by
  unfold State.readPage
  with_reducible repeat' first
    | assumption | apply State.mismatched_keeps | apply State.fetchKeys_keeps | apply State.descend_keeps
    | apply State.fetchKey_keeps | simp only [Keeps.mk_eq] | split | refine Keeps.fst (by assumption) ?_

theorem State.readNode_keeps {a : State} {s : State} {k : Nat} {i : Nat} (hs : Keeps a s) :
    Keeps a (State.readNode s k i).1 := by
  unfold State.readNode
  with_reducible repeat' first
    | assumption | apply State.mismatched_keeps | apply State.fetchKeys_keeps | apply State.descend_keeps | split
    | refine Keeps.fst (by assumption) ?_

theorem State.readNodes_keeps {a : State} {s : State} {r : Read} {l : List (Nat × Nat)} (hs : Keeps a s) :
    Keeps a (State.readNodes s r l).1 := by
  unfold State.readNodes
  with_reducible repeat' first
    | assumption | apply State.readNode_keeps | apply Keeps.foldl_fst | intro _ | split | refine Keeps.fst (by assumption) ?_

theorem State.onOpen_keeps {a : State} {s : State} {f : Batch → Batch} (hs : Keeps a s) :
    Keeps a (State.onOpen s f) := by
  unfold State.onOpen
  with_reducible repeat' first
    | assumption | simp only [Keeps.mk_eq] | apply KeepsParts.same | split

theorem State.startCommit_keeps {a : State} {s : State} (hs : Keeps a s) :
    Keeps a (State.startCommit s) := by
  unfold State.startCommit
  with_reducible repeat' first
    | assumption | apply State.post_keeps | simp only [Keeps.mk_eq] | apply KeepsParts.same | apply Keeps.foldl | intro _ | split

theorem State.barrier_keeps {a : State} {s : State} (hs : Keeps a s) :
    Keeps a (State.barrier s) := by
  unfold State.barrier
  with_reducible repeat' first
    | assumption | apply State.post_keeps | apply State.put_keeps | simp only [Keeps.mk_eq] | apply KeepsParts.same | split

theorem State.closeBatch_keeps {a : State} {s : State} (hs : Keeps a s) :
    Keeps a (State.closeBatch s) := by
  unfold State.closeBatch
  with_reducible repeat' first
    | assumption | apply State.barrier_keeps | apply State.startCommit_keeps | apply State.onOpen_keeps | apply State.put_keeps
    | split

theorem State.readForChange_keeps {a : State} {s : State} {page : Nat} (hs : Keeps a s) :
    Keeps a (State.readForChange s page).1 := by
  unfold State.readForChange
  with_reducible repeat' first
    | assumption | apply State.closeBatch_keeps | apply State.readNodes_keeps | apply State.readPage_keeps | split
    | refine Keeps.fst (by assumption) ?_

theorem State.openBatch_keeps {a : State} {s : State} (hs : Keeps a s) :
    Keeps a (State.openBatch s) := by
  unfold State.openBatch
  with_reducible repeat' first
    | assumption | apply State.put_keeps | simp only [Keeps.mk_eq] | apply KeepsParts.same | split

theorem State.countDirty_keeps {a : State} {s : State} (hs : Keeps a s) :
    Keeps a (State.countDirty s) := by
  unfold State.countDirty
  with_reducible repeat' first
    | assumption | apply State.put_keeps

theorem State.retagFrom_keeps {a : State} {s : State} {page : Nat} {low : Nat} {tag : Bytes} (hs : Keeps a s) :
    Keeps a (State.retagFrom s page low tag) := by
  unfold State.retagFrom
  with_reducible repeat' first
    | assumption | apply State.onOpen_keeps | apply State.putNode_keeps | simp only [Keeps.mk_eq] | apply KeepsParts.same
    | apply Keeps.foldl_fst | intro _

theorem State.retag_keeps {a : State} {s : State} {page : Nat} {b : Bytes} (hs : Keeps a s) :
    Keeps a (State.retag s page b) := by
  unfold State.retag
  with_reducible repeat' first
    | assumption | apply State.retagFrom_keeps

theorem State.changePage_keeps {a : State} {s : State} {page : Nat} {b : Bytes} (hs : Keeps a s) :
    Keeps a (State.changePage s page b) := by
  unfold State.changePage
  with_reducible repeat' first
    | assumption | apply State.retag_keeps | apply State.countDirty_keeps | apply State.openBatch_keeps | apply State.onOpen_keeps
    | simp only [Keeps.mk_eq] | apply KeepsParts.same

theorem State.closeIfFull_keeps {a : State} {s : State} (hs : Keeps a s) :
    Keeps a (State.closeIfFull s) := by
  unfold State.closeIfFull
  with_reducible repeat' first
    | assumption | apply State.closeBatch_keeps | split

theorem State.stageDone_keeps {a : State} {s : State} {h1x : Held} (hs : Keeps a s) :
    Keeps a (State.stageDone s h1x) := by
  unfold State.stageDone
  with_reducible repeat' first
    | assumption | apply State.closeIfFull_keeps | apply State.openBatch_keeps | apply State.onOpen_keeps
    | apply State.setStage_keeps

theorem State.clearStore_keeps {a : State} {s : State} (hs : Keeps a s) :
    Keeps a (State.clearStore s) := by
  unfold State.clearStore
  with_reducible repeat' first
    | assumption | apply State.countFailed_keeps | apply State.put_keeps | simp only [Keeps.mk_eq] | apply KeepsParts.same

theorem State.storeReset_keeps {a : State} {s : State} (hs : Keeps a s) :
    Keeps a (State.storeReset s) := by
  unfold State.storeReset
  with_reducible repeat' first
    | assumption | apply State.clearStore_keeps | apply State.put_keeps | simp only [Keeps.mk_eq] | apply KeepsParts.same

theorem State.stageLast_keeps {a : State} {s : State} {h1x : Held} (hs : Keeps a s) :
    Keeps a (State.stageLast s h1x) := by
  unfold State.stageLast
  with_reducible repeat' first
    | assumption | apply State.complete_keeps | apply State.setStage_keeps | simp only [Keeps.mk_eq] | apply KeepsParts.same
    | split

theorem State.clearMarks_keeps {a : State} {s : State} {page : Nat} (hs : Keeps a s) :
    Keeps a (State.clearMarks s page) := by
  unfold State.clearMarks
  with_reducible repeat' first
    | assumption | apply State.countFailed_keeps | simp only [Keeps.mk_eq] | apply KeepsParts.same

theorem State.abandon_keeps {a : State} {s : State} {status : Nat} (hs : Keeps a s) :
    Keeps a (State.abandon s status) := by
  unfold State.abandon
  with_reducible repeat' first
    | assumption | apply State.complete_keeps | apply State.put_keeps | simp only [Keeps.mk_eq] | apply KeepsParts.same
    | apply Keeps.foldl | intro _

theorem State.checkCurves_keeps {a : State} {s : State} (hs : Keeps a s) :
    Keeps a (State.checkCurves s) := by
  unfold State.checkCurves
  with_reducible repeat' first
    | assumption | apply State.logAdd_keeps | apply State.putBit_keeps | simp only [Keeps.mk_eq] | apply KeepsParts.same
    | apply Keeps.foldl | intro _

theorem State.copyRecords1_keeps {a : State} {s : State} {epoch : Nat} (hs : Keeps a s) :
    Keeps a (State.copyRecords1 s epoch) := by
  unfold State.copyRecords1
  with_reducible repeat' first
    | assumption | simp only [Keeps.mk_eq] | apply KeepsParts.same

theorem State.raiseAnchor_keeps {a : State} {s : State} {v : Nat} (hs : Keeps a s) :
    Keeps a (State.raiseAnchor s v) := by
  unfold State.raiseAnchor
  with_reducible repeat' first
    | assumption | apply State.put_keeps | simp only [Keeps.mk_eq] | apply KeepsParts.same | split

theorem State.setStk_keeps {a : State} {s : State} (hs : Keeps a s) :
    Keeps a (State.setStk s) := by
  unfold State.setStk
  with_reducible repeat' first
    | assumption | simp only [Keeps.mk_eq] | apply KeepsParts.same

theorem State.writeRecord_keeps {a : State} {s : State} {r : RootRec} (hs : Keeps a s) :
    Keeps a (State.writeRecord s r) := by
  unfold State.writeRecord
  with_reducible repeat' first
    | assumption | simp only [Keeps.mk_eq] | apply KeepsParts.same

theorem State.formatRecord_keeps {a : State} {s : State} {log2 : Nat} (hs : Keeps a s) :
    Keeps a (State.formatRecord s log2) := by
  unfold State.formatRecord
  with_reducible repeat' first
    | assumption | apply State.writeRecord_keeps | apply State.raiseAnchor_keeps | apply State.logAdd_keeps
    | apply State.put_keeps | simp only [Keeps.mk_eq] | apply KeepsParts.same

theorem State.zeroFormat_keeps {a : State} {s : State} (hs : Keeps a s) :
    Keeps a (State.zeroFormat s) := by
  unfold State.zeroFormat
  with_reducible repeat' first
    | assumption | simp only [Keeps.mk_eq] | apply KeepsParts.same

theorem State.resumeFormat_keeps {a : State} {s : State} (hs : Keeps a s) :
    Keeps a (State.resumeFormat s) := by
  unfold State.resumeFormat
  with_reducible repeat' first
    | assumption | apply State.zeroFormat_keeps | apply State.formatRecord_keeps | simp only [Keeps.mk_eq] | split

theorem State.rollback_keeps {a : State} {s : State} (hs : Keeps a s) :
    Keeps a (State.rollback s) := by
  unfold State.rollback
  with_reducible repeat' first
    | assumption | apply State.logAdd_keeps | apply State.raise_keeps | apply State.put_keeps

theorem State.selectRoot_keeps {a : State} {s0 : State} (hs0 : Keeps a s0) :
    Keeps a (State.selectRoot s0) := by
  unfold State.selectRoot
  with_reducible repeat' first
    | assumption | apply State.rollback_keeps | apply State.resumeFormat_keeps | apply State.setStk_keeps
    | apply State.raiseAnchor_keeps | apply State.copyRecords1_keeps | apply State.checkCurves_keeps
    | apply State.clearStore_keeps | apply State.put_keeps | simp only [Keeps.mk_eq] | apply KeepsParts.same | split

theorem State.reopen_keeps {a : State} {s : State} (hs : Keeps a s) :
    Keeps a (State.reopen s) := by
  unfold State.reopen
  with_reducible repeat' first
    | assumption | apply State.selectRoot_keeps | apply State.post_keeps | apply State.put_keeps | simp only [Keeps.mk_eq] | split

theorem State.writeFormat_keeps {a : State} {s : State} {target : Nat} {log2 : Nat} {opId : Nat} (hs : Keeps a s) :
    Keeps a (State.writeFormat s target log2 opId) := by
  unfold State.writeFormat
  with_reducible repeat' first
    | assumption | simp only [Keeps.mk_eq] | apply KeepsParts.same

theorem State.postFailed_keeps {a : State} {s : State} (hs : Keeps a s) :
    Keeps a (State.postFailed s) := by
  unfold State.postFailed
  with_reducible repeat' first
    | assumption | simp only [Keeps.mk_eq] | apply KeepsParts.same | split

theorem State.postOne_keeps {a : State} {s : State} (hs : Keeps a s) :
    Keeps a (State.postOne s) := by
  unfold State.postOne
  with_reducible repeat' first
    | assumption | apply State.postNow_keeps | simp only [Keeps.mk_eq] | apply KeepsParts.same | split

theorem State.postPlain_keeps {a : State} {s : State} {x1 : Nat} (hs : Keeps a s) :
    Keeps a (State.postPlain s x1) := by
  induction x1 generalizing s with
  | zero =>
    unfold State.postPlain
    with_reducible repeat' first
      | assumption | apply State.postOne_keeps | split
  | succ k ih =>
    unfold State.postPlain
    with_reducible repeat' first
      | assumption | apply ih | apply State.postOne_keeps | split

theorem State.finishHeld_keeps {a : State} {s : State} {h1x : Held} (hs : Keeps a s) :
    Keeps a (State.finishHeld s h1x) := by
  unfold State.finishHeld
  with_reducible repeat' first
    | assumption | apply State.complete_keeps | refine State.loadSlot_keeps (by assumption) ?_ | simp only [Keeps.mk_eq]
    | apply KeepsParts.same | split

theorem State.linkSuccessor_keeps {a : State} {s : State} {l : Nat × Nat × Nat × Nat} (hs : Keeps a s) :
    Keeps a (State.linkSuccessor s l) := by
  unfold State.linkSuccessor
  with_reducible repeat' first
    | assumption | apply State.notice_keeps | apply State.incSat_keeps | apply State.raise_keeps | apply State.sqcEvent_keeps
    | apply State.put_keeps | simp only [Keeps.mk_eq] | apply KeepsParts.same | intro _ | split

theorem State.commitBatch_keeps {a : State} {s : State} (hs : Keeps a s) :
    Keeps a (State.commitBatch s) := by
  unfold State.commitBatch
  with_reducible repeat' first
    | assumption | apply State.linkSuccessor_keeps | apply State.finishHeld_keeps | apply State.writeRecord_keeps
    | apply State.raiseAnchor_keeps | apply State.countDirty_keeps | apply State.barrier_keeps | apply State.startCommit_keeps
    | apply State.post_keeps | apply State.put_keeps | simp only [Keeps.mk_eq] | apply KeepsParts.same | apply Keeps.foldl | split

theorem State.failBatch_keeps {a : State} {s : State} (hs : Keeps a s) :
    Keeps a (State.failBatch s) := by
  unfold State.failBatch
  with_reducible repeat' first
    | assumption | apply State.reopen_keeps | apply State.abandon_keeps

theorem State.releaseStaged_keeps {a : State} {s : State} (hs : Keeps a s) :
    Keeps a (State.releaseStaged s) := by
  unfold State.releaseStaged
  with_reducible repeat' first
    | assumption | apply State.finishHeld_keeps | apply State.complete_keeps | simp only [Keeps.mk_eq] | apply KeepsParts.same
    | apply Keeps.foldl | intro _ | split

theorem State.reopened_keeps {a : State} {s : State} (hs : Keeps a s) :
    Keeps a (State.reopened s) := by
  unfold State.reopened
  with_reducible repeat' first
    | assumption | apply State.releaseStaged_keeps | apply State.put_keeps | simp only [Keeps.mk_eq] | apply KeepsParts.same

theorem State.answer_keeps {a : State} {s : State} {r : Req} {result : Nat} {page : Option Bytes} (hs : Keeps a s) :
    Keeps a (State.answer s r result page) := by
  unfold State.answer
  with_reducible repeat' first
    | assumption | apply State.reopened_keeps | apply State.failBatch_keeps | apply State.commitBatch_keeps
    | apply State.post_keeps | simp only [Keeps.mk_eq] | apply KeepsParts.same | split

theorem State.serveUnposted_keeps {a : State} {s : State} {x1 : Nat} (hs : Keeps a s) :
    Keeps a (State.serveUnposted s x1) := by
  induction x1 generalizing s with
  | zero =>
    unfold State.serveUnposted
    with_reducible repeat' first
      | assumption | apply State.answer_keeps | simp only [Keeps.mk_eq] | apply KeepsParts.same | split
  | succ k ih =>
    unfold State.serveUnposted
    with_reducible repeat' first
      | assumption | apply ih | apply State.answer_keeps | simp only [Keeps.mk_eq] | apply KeepsParts.same | split

theorem State.prefillStep_keeps {a : State} {s : State} {x1 : Nat} (hs : Keeps a s) :
    Keeps a (State.prefillStep s x1) := by
  induction x1 generalizing s with
  | zero =>
    unfold State.prefillStep
    with_reducible repeat' first
      | assumption | apply State.markFailed_keeps | apply State.putNode_keeps | apply State.fetchKey_keeps | apply State.put_keeps
      | simp only [Keeps.mk_eq] | apply KeepsParts.same | apply Keeps.foldl | intro _ | split
  | succ k ih =>
    unfold State.prefillStep
    with_reducible repeat' first
      | assumption | apply ih | apply State.markFailed_keeps | apply State.putNode_keeps | apply State.fetchKey_keeps
      | apply State.put_keeps | simp only [Keeps.mk_eq] | apply KeepsParts.same | apply Keeps.foldl | intro _ | split

theorem State.postWaiting_keeps {a : State} {s : State} (hs : Keeps a s) :
    Keeps a (State.postWaiting s) := by
  unfold State.postWaiting
  with_reducible repeat' first
    | assumption | apply State.postOne_keeps | apply State.barrier_keeps

theorem State.takeResponse_keeps {a : State} {s : State} {rsp : StoreRsp} (hs : Keeps a s) :
    Keeps a (State.takeResponse s rsp) := by
  unfold State.takeResponse
  with_reducible repeat' first
    | assumption | apply State.answer_keeps | apply State.ituFault_keeps | apply State.incSat_keeps | apply State.put_keeps
    | simp only [Keeps.mk_eq] | apply KeepsParts.same | split

theorem State.postOn_keeps {a : State} {s : State} (hs : Keeps a s) :
    Keeps a (State.postOn s) := by
  unfold State.postOn
  with_reducible repeat' first
    | assumption | apply State.postOne_keeps | apply State.postNow_keeps | simp only [Keeps.mk_eq] | apply KeepsParts.same
    | apply Keeps.foldl | intro _ | split

end Sys2Proof.Machine
end

