-- ==== Sys2Proof/Laws/KeepsEngines.lean ====
section
/-! SUPPORT. `Keeps` for the public-key and symmetric engines, the restarts, the parts out of service, the audit records, the Compass, the entropy source and the host queues: one lemma per operation that answers a state,
each proved from the lemmas of the operations it calls. -/

set_option linter.unusedSimpArgs false

namespace Sys2Proof.Machine

theorem State.setQueue_keeps {a : State} {s : State} {ske : Bool} {q : List Job} (hs : Keeps a s) :
    Keeps a (State.setQueue s ske q) := by
  unfold State.setQueue
  with_reducible repeat' first
    | assumption | apply State.put_keeps | simp only [Keeps.mk_eq] | apply KeepsParts.same | split

theorem State.enqueue_keeps {a : State} {s : State} {j : Job} (hs : Keeps a s) :
    Keeps a (State.enqueue s j) := by
  unfold State.enqueue
  with_reducible repeat' first
    | assumption | apply State.setQueue_keeps | simp only [Keeps.mk_eq] | apply KeepsParts.same | split

theorem State.dropPart_keeps {a : State} {s : State} {cid : Nat} {k : Nat} (hs : Keeps a s) :
    Keeps a (State.dropPart s cid k) := by
  unfold State.dropPart
  with_reducible repeat' first
    | assumption | simp only [Keeps.mk_eq] | apply KeepsParts.same

theorem State.unqueue_keeps {a : State} {s : State} {j : Job} (hs : Keeps a s) :
    Keeps a (State.unqueue s j) := by
  unfold State.unqueue
  with_reducible repeat' first
    | assumption | apply State.setQueue_keeps | simp only [Keeps.mk_eq] | apply KeepsParts.same | split

theorem State.yield_keeps {a : State} {s : State} {j : Job} {y : Yield} (hs : Keeps a s) :
    Keeps a (State.yield s j y) := by
  unfold State.yield
  with_reducible repeat' first
    | assumption | apply State.complete_keeps | simp only [Keeps.mk_eq] | apply KeepsParts.same | split

theorem State.armJob_keeps {a : State} {s : State} {j : Job} (hs : Keeps a s) :
    Keeps a (State.armJob s j).1 := by
  unfold State.armJob
  with_reducible repeat' first
    | assumption | apply State.useSlot_keeps | apply Keeps.foldl | intro _

theorem State.setCluster_keeps {a : State} {s : State} {n : Nat} {c : Cluster} (hs : Keeps a s) :
    Keeps a (State.setCluster s n c) := by
  unfold State.setCluster
  with_reducible repeat' first
    | assumption | simp only [Keeps.mk_eq] | apply KeepsParts.same

theorem State.setClusterState_keeps {a : State} {s : State} {n : Nat} {st : Nat} (hs : Keeps a s) :
    Keeps a (State.setClusterState s n st) := by
  unfold State.setClusterState
  with_reducible repeat' first
    | assumption | apply State.setMissing_keeps | apply State.putBit_keeps | apply State.put_keeps

theorem State.showLease_keeps {a : State} {s : State} {n : Nat} (hs : Keeps a s) :
    Keeps a (State.showLease s n) := by
  unfold State.showLease
  with_reducible repeat' first
    | assumption | apply State.putB_keeps

theorem State.drawFor_keeps {a : State} {s : State} {j : Job} (hs : Keeps a s) :
    Keeps a (State.drawFor s j).1 := by
  unfold State.drawFor
  with_reducible repeat' first
    | assumption | apply State.rsaPrimes_keeps | apply State.draw_keeps | split

theorem State.showProgram_keeps {a : State} {s : State} {n : Nat} {j : Job} (hs : Keeps a s) :
    Keeps a (State.showProgram s n j) := by
  unfold State.showProgram
  with_reducible repeat' first
    | assumption | apply State.put_keeps

theorem State.maskRun_keeps {a : State} {s : State} {n : Nat} {j : Job} (hs : Keeps a s) :
    Keeps a (State.maskRun s n j).1 := by
  unfold State.maskRun
  with_reducible repeat' first
    | assumption | apply State.setCluster_keeps | apply State.put_keeps | split

theorem State.startPke_keeps {a : State} {s0 : State} {n : Nat} {j0 : Job} (hs0 : Keeps a s0) :
    Keeps a (State.startPke s0 n j0) := by
  unfold State.startPke
  with_reducible repeat' first
    | assumption | apply State.maskRun_keeps | apply State.showProgram_keeps | apply State.drawFor_keeps
    | apply State.showLease_keeps | apply State.setClusterState_keeps | apply State.setCluster_keeps | apply State.armJob_keeps
    | apply State.yield_keeps | apply State.unqueue_keeps | apply State.incMod_keeps | simp only [Keeps.mk_eq] | split

theorem State.disarmJob_keeps {a : State} {s : State} {j : Job} (hs : Keeps a s) :
    Keeps a (State.disarmJob s j) := by
  unfold State.disarmJob
  with_reducible repeat' first
    | assumption | apply State.leaveSlot_keeps | apply Keeps.foldl | intro _

theorem State.runSoftware_keeps {a : State} {s : State} {j0 : Job} (hs : Keeps a s) :
    Keeps a (State.runSoftware s j0) := by
  unfold State.runSoftware
  with_reducible repeat' first
    | assumption | apply State.disarmJob_keeps | apply State.drawn_keeps | apply State.drawFor_keeps | apply State.armJob_keeps
    | apply State.yield_keeps | split

theorem State.dispatchPke_keeps {a : State} {s : State} {x1 : Nat} (hs : Keeps a s) :
    Keeps a (State.dispatchPke s x1) := by
  induction x1 generalizing s with
  | zero =>
    unfold State.dispatchPke
    with_reducible repeat' first
      | assumption | apply State.runSoftware_keeps | apply State.startPke_keeps | apply State.yield_keeps
      | apply State.unqueue_keeps | split
  | succ k ih =>
    unfold State.dispatchPke
    with_reducible repeat' first
      | assumption | apply ih | apply State.runSoftware_keeps | apply State.startPke_keeps | apply State.yield_keeps
      | apply State.unqueue_keeps | split

theorem State.submitPke_keeps {a : State} {s : State} {j : Job} (hs : Keeps a s) :
    Keeps a (State.submitPke s j) := by
  unfold State.submitPke
  with_reducible repeat' first
    | assumption | apply State.dispatchPke_keeps | apply State.enqueue_keeps | apply State.setStage_keeps

theorem State.pkePart_keeps {a : State} {s : State} {k : Nat} {j : Job} (hs : Keeps a s) :
    Keeps a (State.pkePart s k j).1 := by
  unfold State.pkePart
  with_reducible repeat' first
    | assumption | apply State.submitPke_keeps | split

theorem State.setPart_keeps {a : State} {s : State} {cid : Nat} {k : Nat} {b : Bytes} (hs : Keeps a s) :
    Keeps a (State.setPart s cid k b) := by
  unfold State.setPart
  with_reducible repeat' first
    | assumption | simp only [Keeps.mk_eq] | apply KeepsParts.same

theorem State.wipeCluster_keeps {a : State} {s : State} {n : Nat} (hs : Keeps a s) :
    Keeps a (State.wipeCluster s n) := by
  unfold State.wipeCluster
  with_reducible repeat' first
    | assumption | apply State.setClusterState_keeps

theorem State.abortPke_keeps {a : State} {s : State} {n : Nat} {status : Nat} (hs : Keeps a s) :
    Keeps a (State.abortPke s n status) := by
  unfold State.abortPke
  with_reducible repeat' first
    | assumption | apply State.wipeCluster_keeps | apply State.yield_keeps | apply State.incSat_keeps | split

theorem State.seatSeed_keeps {a : State} {s : State} {n : Nat} {seed : Bytes} (hs : Keeps a s) :
    Keeps a (State.seatSeed s n seed) := by
  unfold State.seatSeed
  with_reducible repeat' first
    | assumption | apply State.setCluster_keeps | apply State.put_keeps

theorem State.endWipe_keeps {a : State} {s : State} {n : Nat} (hs : Keeps a s) :
    Keeps a (State.endWipe s n) := by
  unfold State.endWipe
  with_reducible repeat' first
    | assumption | apply State.seatSeed_keeps | apply State.disarmJob_keeps | apply State.showLease_keeps
    | apply State.setCluster_keeps | simp only [Keeps.mk_eq] | split

theorem State.setLoaded_keeps {a : State} {s : State} {n : Nat} {l : Amap (List Nat)} (hs : Keeps a s) :
    Keeps a (State.setLoaded s n l) := by
  unfold State.setLoaded
  with_reducible repeat' first
    | assumption | apply State.setCluster_keeps | apply State.put_keeps

theorem State.dropSeed_keeps {a : State} {s : State} {n : Nat} (hs : Keeps a s) :
    Keeps a (State.dropSeed s n) := by
  unfold State.dropSeed
  with_reducible repeat' first
    | assumption | apply State.setCluster_keeps | apply State.put_keeps

theorem State.clusterOff_keeps {a : State} {s : State} {n : Nat} (hs : Keeps a s) :
    Keeps a (State.clusterOff s n) := by
  unfold State.clusterOff
  with_reducible repeat' first
    | assumption | apply State.dropSeed_keeps | apply State.setLoaded_keeps | apply State.setClusterState_keeps

theorem State.settleGate_keeps {a : State} {s : State} {n : Nat} (hs : Keeps a s) :
    Keeps a (State.settleGate s n) := by
  unfold State.settleGate
  with_reducible repeat' first
    | assumption | apply State.clusterOff_keeps | apply State.setClusterState_keeps | apply State.put_keeps
    | simp only [Keeps.mk_eq] | split

theorem State.reloadCluster_keeps {a : State} {s : State} {n : Nat} (hs : Keeps a s) :
    Keeps a (State.reloadCluster s n) := by
  unfold State.reloadCluster
  with_reducible repeat' first
    | assumption | apply State.setLoaded_keeps | apply State.setClusterState_keeps | apply State.setCluster_keeps

theorem State.feedCluster_keeps {a : State} {s : State} {n : Nat} {x2 : Nat} (hs : Keeps a s) :
    Keeps a (State.feedCluster s n x2) := by
  induction x2 generalizing s n with
  | zero =>
    unfold State.feedCluster
    with_reducible repeat' first
      | assumption | apply State.startPke_keeps | split
  | succ k ih =>
    unfold State.feedCluster
    with_reducible repeat' first
      | assumption | apply ih | apply State.startPke_keeps | split

theorem State.loadCluster_keeps {a : State} {s : State} {n : Nat} (hs : Keeps a s) :
    Keeps a (State.loadCluster s n) := by
  unfold State.loadCluster
  with_reducible repeat' first
    | assumption | apply State.dropSeed_keeps | apply State.setLoaded_keeps | apply State.setClusterState_keeps
    | apply State.setCluster_keeps

theorem State.seedCluster_keeps {a : State} {s : State} {n : Nat} (hs : Keeps a s) :
    Keeps a (State.seedCluster s n) := by
  unfold State.seedCluster
  with_reducible repeat' first
    | assumption | apply State.seatSeed_keeps | apply State.draw_keeps | split

theorem State.submitSke_keeps {a : State} {s : State} {j : Job} (hs : Keeps a s) :
    Keeps a (State.submitSke s j) := by
  unfold State.submitSke
  with_reducible repeat' first
    | assumption | apply State.enqueue_keeps | apply State.setStage_keeps

theorem State.askSke_keeps {a : State} {s : State} {j : Job} (hs : Keeps a s) :
    Keeps a (State.askSke s j).1 := by
  unfold State.askSke
  with_reducible repeat' first
    | assumption | apply State.submitSke_keeps | split

theorem State.lanePart_keeps {a : State} {s : State} {k : Nat} {j : Job} (hs : Keeps a s) :
    Keeps a (State.lanePart s k j).1 := by
  unfold State.lanePart
  with_reducible repeat' first
    | assumption | apply State.askSke_keeps | split

theorem State.nonceEvent_keeps {a : State} {s : State} {kind : Nat} {slot : Nat} (hs : Keeps a s) :
    Keeps a (State.nonceEvent s kind slot) := by
  unfold State.nonceEvent
  with_reducible repeat' first
    | assumption | apply State.putB_keeps | apply State.raise_keeps | apply State.sqcEvent_keeps | apply State.put_keeps | intro _

theorem State.noteLow_keeps {a : State} {s : State} {i : Nat} (hs : Keeps a s) :
    Keeps a (State.noteLow s i) := by
  unfold State.noteLow
  with_reducible repeat' first
    | assumption | apply State.nonceEvent_keeps | apply State.notice_keeps | simp only [Keeps.mk_eq] | apply KeepsParts.same
    | split

theorem State.lowerLimit_keeps {a : State} {s : State} {i : Nat} {limit : Nat} (hs : Keeps a s) :
    Keeps a (State.lowerLimit s i limit) := by
  unfold State.lowerLimit
  with_reducible repeat' first
    | assumption | apply State.noteLow_keeps | simp only [Keeps.mk_eq] | apply KeepsParts.same

theorem State.rotateFailed_keeps {a : State} {s : State} {i : Nat} {x : Slot} (hs : Keeps a s) :
    Keeps a (State.rotateFailed s i x) := by
  unfold State.rotateFailed
  with_reducible repeat' first
    | assumption | apply State.nonceEvent_keeps | apply State.notice_keeps

theorem State.setLane_keeps {a : State} {s : State} {n : Nat} {l : Lane} (hs : Keeps a s) :
    Keeps a (State.setLane s n l) := by
  unfold State.setLane
  with_reducible repeat' first
    | assumption | simp only [Keeps.mk_eq] | apply KeepsParts.same

theorem State.setLaneState_keeps {a : State} {s : State} {n : Nat} {st : Nat} (hs : Keeps a s) :
    Keeps a (State.setLaneState s n st) := by
  unfold State.setLaneState
  with_reducible repeat' first
    | assumption | apply State.setMissing_keeps | apply State.putBit_keeps | apply State.put_keeps

theorem State.settleLane_keeps {a : State} {s : State} {n : Nat} (hs : Keeps a s) :
    Keeps a (State.settleLane s n) := by
  unfold State.settleLane
  with_reducible repeat' first
    | assumption | apply State.setLaneState_keeps | apply State.put_keeps | split

theorem State.showMism_keeps {a : State} {s : State} {n : Nat} (hs : Keeps a s) :
    Keeps a (State.showMism s n) := by
  unfold State.showMism
  with_reducible repeat' first
    | assumption | apply State.put_keeps

theorem State.clearLane_keeps {a : State} {s : State} {n : Nat} (hs : Keeps a s) :
    Keeps a (State.clearLane s n) := by
  unfold State.clearLane
  with_reducible repeat' first
    | assumption | apply State.showMism_keeps | apply State.settleLane_keeps | apply State.setLaneState_keeps
    | apply State.setLane_keeps | apply State.disarmJob_keeps | apply State.putB_keeps | apply State.incMod_keeps
    | apply State.put_keeps | simp only [Keeps.mk_eq] | split

theorem State.zeroDest_keeps {a : State} {s : State} {j : Job} (hs : Keeps a s) :
    Keeps a (State.zeroDest s j) := by
  unfold State.zeroDest
  with_reducible repeat' first
    | assumption | apply State.drawn_keeps | apply State.access_keeps | apply State.writeMem_keeps | simp only [Keeps.mk_eq]
    | split

theorem State.stopSke_keeps {a : State} {s : State} {n : Nat} {status : Nat} (hs : Keeps a s) :
    Keeps a (State.stopSke s n status) := by
  unfold State.stopSke
  with_reducible repeat' first
    | assumption | apply State.zeroDest_keeps | apply State.clearLane_keeps | apply State.yield_keeps | split

theorem State.loseBase_keeps {a : State} {s : State} (hs : Keeps a s) :
    Keeps a (State.loseBase s) := by
  unfold State.loseBase
  with_reducible repeat' first
    | assumption | apply State.nonceEvent_keeps | simp only [Keeps.mk_eq] | apply KeepsParts.same | split

theorem State.reserve_keeps {a : State} {s : State} {n : Nat} (hs : Keeps a s) :
    Keeps a (State.reserve s n) := by
  unfold State.reserve
  with_reducible repeat' first
    | assumption | apply State.loseBase_keeps | simp only [Keeps.mk_eq] | apply KeepsParts.same | split

theorem State.nonceStart_keeps {a : State} {s : State} (hs : Keeps a s) :
    Keeps a (State.nonceStart s) := by
  unfold State.nonceStart
  with_reducible repeat' first
    | assumption | apply State.reserve_keeps | apply State.loseBase_keeps | apply State.put_keeps | simp only [Keeps.mk_eq]
    | apply KeepsParts.same | split

theorem State.takeNonce_keeps {a : State} {s : State} (hs : Keeps a s) :
    Keeps a (State.takeNonce s).1 := by
  unfold State.takeNonce
  with_reducible repeat' first
    | assumption | apply State.reserve_keeps | apply State.put_keeps | simp only [Keeps.mk_eq] | split

theorem State.countUse_keeps {a : State} {s : State} {i : Nat} (hs : Keeps a s) :
    Keeps a (State.countUse s i) := by
  unfold State.countUse
  with_reducible repeat' first
    | assumption | apply State.noteLow_keeps | simp only [Keeps.mk_eq] | apply KeepsParts.same

theorem State.exhaust_keeps {a : State} {s : State} {i : Nat} (hs : Keeps a s) :
    Keeps a (State.exhaust s i) := by
  unfold State.exhaust
  with_reducible repeat' first
    | assumption | apply State.rotateFailed_keeps | apply State.nonceEvent_keeps | apply State.notice_keeps
    | apply State.incSat_keeps | simp only [Keeps.mk_eq] | apply KeepsParts.same | split

theorem State.giveIv_keeps {a : State} {s : State} {lane : Nat} {j : Job} (hs : Keeps a s) :
    Keeps a (State.giveIv s lane j).1 := by
  unfold State.giveIv
  with_reducible repeat' first
    | assumption | apply State.exhaust_keeps | apply State.countUse_keeps | apply State.takeNonce_keeps | apply State.draw_keeps
    | simp only [Keeps.mk_eq] | split

theorem State.startSke_keeps {a : State} {s : State} {n : Nat} {x2 : Nat} (hs : Keeps a s) :
    Keeps a (State.startSke s n x2) := by
  induction x2 generalizing s n with
  | zero =>
    unfold State.startSke
    with_reducible repeat' first
      | assumption | apply State.giveIv_keeps | apply State.setLaneState_keeps | apply State.setLane_keeps
      | apply State.armJob_keeps | apply State.yield_keeps | apply State.unqueue_keeps | apply State.put_keeps
      | simp only [Keeps.mk_eq] | split | refine Keeps.fst (by assumption) ?_
  | succ k ih =>
    unfold State.startSke
    with_reducible repeat' first
      | assumption | apply ih | apply State.giveIv_keeps | apply State.setLaneState_keeps | apply State.setLane_keeps
      | apply State.armJob_keeps | apply State.yield_keeps | apply State.unqueue_keeps | apply State.put_keeps
      | simp only [Keeps.mk_eq] | split | refine Keeps.fst (by assumption) ?_

theorem State.endSke_keeps {a : State} {s : State} {n : Nat} (hs : Keeps a s) :
    Keeps a (State.endSke s n) := by
  unfold State.endSke
  with_reducible repeat' first
    | assumption | apply State.zeroDest_keeps | apply State.clearLane_keeps | apply State.yield_keeps | split

theorem State.setTook_keeps {a : State} {s : State} {base : Nat} {n : Nat} {b : Bool} (hs : Keeps a s) :
    Keeps a (State.setTook s base n b) := by
  unfold State.setTook
  with_reducible repeat' first
    | assumption | apply State.setLane_keeps | apply State.setCluster_keeps | split

theorem State.reservationDone_keeps {a : State} {s : State} {ok0 : Bool} {ok1 : Bool} (hs : Keeps a s) :
    Keeps a (State.reservationDone s ok0 ok1) := by
  unfold State.reservationDone
  with_reducible repeat' first
    | assumption | apply State.loseBase_keeps | apply State.put_keeps | simp only [Keeps.mk_eq] | apply KeepsParts.same | split

theorem State.warmRange_keeps {a : State} {s : State} {lo : Nat} {hi : Nat} {held : Bool} {skip : Nat → Bool} (hs : Keeps a s) :
    Keeps a (State.warmRange s lo hi held skip) := by
  unfold State.warmRange
  with_reducible repeat' first
    | assumption | simp only [Keeps.mk_eq] | apply KeepsParts.fewer

theorem State.setSource_keeps {a : State} {s : State} {n : Nat} {x : Source} (hs : Keeps a s) :
    Keeps a (State.setSource s n x) := by
  unfold State.setSource
  with_reducible repeat' first
    | assumption | simp only [Keeps.mk_eq] | apply KeepsParts.same

theorem State.showTrim_keeps {a : State} {s : State} {n : Nat} (hs : Keeps a s) :
    Keeps a (State.showTrim s n) := by
  unfold State.showTrim
  with_reducible repeat' first
    | assumption | apply State.put_keeps

theorem State.restartSource_keeps {a : State} {s : State} {n : Nat} (hs : Keeps a s) :
    Keeps a (State.restartSource s n) := by
  unfold State.restartSource
  with_reducible repeat' first
    | assumption | apply State.showTrim_keeps | apply State.setSource_keeps | apply State.complete_keeps | apply State.put_keeps
    | apply Keeps.foldl | intro _

theorem State.trngReset_keeps {a : State} {s : State} (hs : Keeps a s) :
    Keeps a (State.trngReset s) := by
  unfold State.trngReset
  with_reducible repeat' first
    | assumption | apply State.restartSource_keeps | apply State.warmRange_keeps | simp only [Keeps.mk_eq] | apply KeepsParts.same
    | apply Keeps.foldl

theorem State.slotCountsOff_keeps {a : State} {s : State} (hs : Keeps a s) :
    Keeps a (State.slotCountsOff s) := by
  unfold State.slotCountsOff
  with_reducible repeat' first
    | assumption | apply State.put_keeps

theorem State.g5Lost_keeps {a : State} {s : State} (hs : Keeps a s) :
    Keeps a (State.g5Lost s) := by
  unfold State.g5Lost
  with_reducible repeat' first
    | assumption | apply State.storeReset_keeps | apply State.slotCountsOff_keeps | apply State.clearMem_keeps
    | apply State.loseSlots_keeps | apply State.warmRange_keeps | apply State.put_keeps | simp only [Keeps.mk_eq]
    | apply KeepsParts.same

theorem State.setCustodyUp_keeps {a : State} {s : State} {b : Bool} (hs : Keeps a s) :
    Keeps a (State.setCustodyUp s b) := by
  unfold State.setCustodyUp
  with_reducible repeat' first
    | assumption | apply State.setDev_keeps | apply State.putB_keeps

theorem State.setMailboxes_keeps {a : State} {s : State} {v : Nat} (hs : Keeps a s) :
    Keeps a (State.setMailboxes s v) := by
  unfold State.setMailboxes
  with_reducible repeat' first
    | assumption | apply State.put_keeps | apply Keeps.foldl | intro _ | split

theorem State.loseWork_keeps {a : State} {s : State} (hs : Keeps a s) :
    Keeps a (State.loseWork s) := by
  unfold State.loseWork
  with_reducible repeat' first
    | assumption | simp only [Keeps.mk_eq] | apply KeepsParts.same

theorem State.grave_keeps {a : State} {s : State} {r : FaultRec} (hs : Keeps a s) :
    Keeps a (State.grave s r) := by
  unfold State.grave
  with_reducible repeat' first
    | assumption | apply State.loseWork_keeps | apply State.setMailboxes_keeps | apply State.setCustodyUp_keeps
    | apply State.g5Lost_keeps | apply State.trngReset_keeps | apply State.noteHealth_keeps | apply State.setDev_keeps
    | apply State.reportBase_keeps | apply State.countFault_keeps | apply State.put_keeps | simp only [Keeps.mk_eq]
    | apply KeepsParts.same | split

theorem State.resetPke_keeps {a : State} {s : State} {n : Nat} (hs : Keeps a s) :
    Keeps a (State.resetPke s n) := by
  unfold State.resetPke
  with_reducible repeat' first
    | assumption | apply State.dropSeed_keeps | apply State.setLoaded_keeps | apply State.abortPke_keeps

theorem State.dropLanes_keeps {a : State} {s : State} {status : Nat} (hs : Keeps a s) :
    Keeps a (State.dropLanes s status) := by
  unfold State.dropLanes
  with_reducible repeat' first
    | assumption | apply State.stopSke_keeps | apply Keeps.foldl | intro _

theorem State.restartLane_keeps {a : State} {s : State} {n : Nat} {st : Nat} (hs : Keeps a s) :
    Keeps a (State.restartLane s n st) := by
  unfold State.restartLane
  with_reducible repeat' first
    | assumption | apply State.setLaneState_keeps | split

theorem State.skeReset_keeps {a : State} {s : State} (hs : Keeps a s) :
    Keeps a (State.skeReset s) := by
  unfold State.skeReset
  with_reducible repeat' first
    | assumption | apply State.restartLane_keeps | apply State.dropLanes_keeps | apply State.warmRange_keeps
    | apply State.setLane_keeps | apply Keeps.foldl | intro _

theorem State.showInbound_keeps {a : State} {s : State} (hs : Keeps a s) :
    Keeps a (State.showInbound s) := by
  unfold State.showInbound
  with_reducible repeat' first
    | assumption | apply State.put_keeps

theorem State.custodyGone_keeps {a : State} {s : State} (hs : Keeps a s) :
    Keeps a (State.custodyGone s) := by
  unfold State.custodyGone
  with_reducible repeat' first
    | assumption | apply State.showInbound_keeps | apply State.completeAll_keeps

theorem State.freezeLost_keeps {a : State} {s : State} (hs : Keeps a s) :
    Keeps a (State.freezeLost s) := by
  unfold State.freezeLost
  with_reducible repeat' first
    | assumption | apply State.logLost_keeps | apply State.put_keeps | simp only [Keeps.mk_eq] | apply KeepsParts.same

theorem State.g5Reset_keeps {a : State} {s : State} (hs : Keeps a s) :
    Keeps a (State.g5Reset s) := by
  unfold State.g5Reset
  with_reducible repeat' first
    | assumption | apply State.freezeLost_keeps | apply State.custodyGone_keeps | apply State.settleGate_keeps
    | apply State.setCustodyUp_keeps | apply State.g5Lost_keeps | apply State.settleLane_keeps | apply State.showLease_keeps
    | apply State.putB_keeps | apply State.put_keeps | simp only [Keeps.mk_eq] | apply KeepsParts.same | apply Keeps.foldl
    | intro _

theorem State.mboxReset_keeps {a : State} {s : State} (hs : Keeps a s) :
    Keeps a (State.mboxReset s) := by
  unfold State.mboxReset
  with_reducible repeat' first
    | assumption | apply State.put_keeps | simp only [Keeps.mk_eq] | apply KeepsParts.same | apply Keeps.foldl | intro _ | split

theorem State.endChains_keeps {a : State} {s : State} {n : Nat} {x2 : Nat} (hs : Keeps a s) :
    Keeps a (State.endChains s n x2) := by
  induction x2 generalizing s n with
  | zero =>
    unfold State.endChains
    with_reducible repeat' first
      | assumption | apply State.nextEntry_keeps | apply State.complete_keeps | split | refine Keeps.fst (by assumption) ?_
  | succ k ih =>
    unfold State.endChains
    with_reducible repeat' first
      | assumption | apply ih | apply State.nextEntry_keeps | apply State.complete_keeps | split
      | refine Keeps.fst (by assumption) ?_

theorem State.answerAgain_keeps {a : State} {s : State} {c : Nat × Cmd} (hs : Keeps a s) :
    Keeps a (State.answerAgain s c) := by
  unfold State.answerAgain
  with_reducible repeat' first
    | assumption | apply State.answerRing_keeps | split

theorem State.g6Reset_keeps {a : State} {s : State} (hs : Keeps a s) :
    Keeps a (State.g6Reset s) := by
  unfold State.g6Reset
  with_reducible repeat' first
    | assumption | apply State.answerAgain_keeps | apply State.endChains_keeps | apply State.mboxReset_keeps
    | apply State.clearMem_keeps | apply State.warmRange_keeps | apply State.completeAll_keeps | apply State.emit_keeps
    | apply State.put_keeps | simp only [Keeps.mk_eq] | apply KeepsParts.same | apply Keeps.foldl | intro _ | split

theorem State.setFollower_keeps {a : State} {s : State} {n : Nat} {st : Nat} (hs : Keeps a s) :
    Keeps a (State.setFollower s n st) := by
  unfold State.setFollower
  with_reducible repeat' first
    | assumption | apply State.raise_keeps | apply State.putBit_keeps | apply State.put_keeps | split

theorem State.loseFollower_keeps {a : State} {s : State} {n : Nat} (hs : Keeps a s) :
    Keeps a (State.loseFollower s n) := by
  unfold State.loseFollower
  with_reducible repeat' first
    | assumption | apply State.setFollower_keeps | apply State.complete_keeps | apply State.put_keeps | simp only [Keeps.mk_eq]
    | apply KeepsParts.same | apply Keeps.foldl | intro _ | split

theorem State.g7Reset_keeps {a : State} {s : State} (hs : Keeps a s) :
    Keeps a (State.g7Reset s) := by
  unfold State.g7Reset
  with_reducible repeat' first
    | assumption | apply State.loseFollower_keeps | apply State.warmRange_keeps | apply State.put_keeps | simp only [Keeps.mk_eq]
    | apply KeepsParts.same | apply Keeps.foldl | intro _ | split

theorem State.regionLost_keeps {a : State} {s : State} {g : Nat} (hs : Keeps a s) :
    Keeps a (State.regionLost s g) := by
  unfold State.regionLost
  with_reducible repeat' first
    | assumption | apply State.g7Reset_keeps | apply State.g6Reset_keeps | apply State.g5Reset_keeps | apply State.skeReset_keeps
    | apply State.resetPke_keeps | apply State.trngReset_keeps | apply State.setClusterState_keeps | simp only [Keeps.mk_eq]
    | apply Keeps.foldl | intro _ | split

theorem State.closeReset_keeps {a : State} {s : State} {hit : Nat → Nat → Bool} (hs : Keeps a s) :
    Keeps a (State.closeReset s hit) := by
  unfold State.closeReset
  with_reducible repeat' first
    | assumption | apply State.closeHard_keeps | apply Keeps.foldl | intro _ | split

theorem State.reloading_keeps {a : State} {s : State} {g : Nat} {from_ : Nat} {to_ : Nat} (hs : Keeps a s) :
    Keeps a (State.reloading s g from_ to_) := by
  unfold State.reloading
  with_reducible repeat' first
    | assumption | apply State.put_keeps | apply Keeps.foldl | intro _ | split

theorem State.losePosted_keeps {a : State} {s : State} {g : Nat} (hs : Keeps a s) :
    Keeps a (State.losePosted s g) := by
  unfold State.losePosted
  with_reducible repeat' first
    | assumption | simp only [Keeps.mk_eq] | apply KeepsParts.same

theorem State.regionReset_keeps {a : State} {s : State} {g : Nat} (hs : Keeps a s) :
    Keeps a (State.regionReset s g) := by
  unfold State.regionReset
  with_reducible repeat' first
    | assumption | apply State.losePosted_keeps | apply State.reloading_keeps | apply State.closeReset_keeps
    | apply State.regionLost_keeps | simp only [Keeps.mk_eq] | apply KeepsParts.same

theorem State.rememberReset_keeps {a : State} {s : State} {k : Nat} (hs : Keeps a s) :
    Keeps a (State.rememberReset s k) := by
  unfold State.rememberReset
  with_reducible repeat' first
    | assumption | simp only [Keeps.mk_eq] | apply KeepsParts.same

theorem State.severeRegion_keeps {a : State} {s : State} {g : Nat} {r : FaultRec} (hs : Keeps a s) :
    Keeps a (State.severeRegion s g r) := by
  unfold State.severeRegion
  with_reducible repeat' first
    | assumption | apply State.rememberReset_keeps | apply State.regionReset_keeps | apply State.closeReset_keeps
    | apply State.regionLost_keeps | apply State.clusterOff_keeps | apply State.endWipe_keeps | apply State.grave_keeps
    | apply State.setMissing_keeps | apply State.put_keeps | simp only [Keeps.mk_eq] | apply KeepsParts.same | apply Keeps.foldl
    | intro _ | split

theorem State.clusterReset_keeps {a : State} {s : State} {c : Nat} (hs : Keeps a s) :
    Keeps a (State.clusterReset s c) := by
  unfold State.clusterReset
  with_reducible repeat' first
    | assumption | apply State.closeReset_keeps | apply State.skeReset_keeps | apply State.resetPke_keeps
    | apply State.trngReset_keeps | apply State.setClusterState_keeps | apply State.put_keeps | simp only [Keeps.mk_eq]
    | apply KeepsParts.same | split

theorem State.pairsLeft_keeps {a : State} {s : State} (hs : Keeps a s) :
    Keeps a (State.pairsLeft s) := by
  unfold State.pairsLeft
  with_reducible repeat' first
    | assumption | apply State.regionReset_keeps | split

theorem State.severeCluster_keeps {a : State} {s : State} {c : Nat} {r : FaultRec} (hs : Keeps a s) :
    Keeps a (State.severeCluster s c r) := by
  unfold State.severeCluster
  with_reducible repeat' first
    | assumption | apply State.pairsLeft_keeps | apply State.clusterReset_keeps | apply State.severeRegion_keeps
    | apply State.rememberReset_keeps | simp only [Keeps.mk_eq] | split

theorem State.severe_keeps {a : State} {s : State} {r : FaultRec} (hs : Keeps a s) :
    Keeps a (State.severe s r) := by
  unfold State.severe
  with_reducible repeat' first
    | assumption | apply State.severeCluster_keeps | apply State.severeRegion_keeps | apply State.noteHealth_keeps
    | apply State.reportBase_keeps | apply State.countFault_keeps | split

theorem State.escalateFault_keeps {a : State} {s : State} {r : FaultRec} (hs : Keeps a s) :
    Keeps a (State.escalateFault s r) := by
  unfold State.escalateFault
  with_reducible repeat' first
    | assumption | apply State.severe_keeps | apply State.incSat_keeps

theorem State.report_keeps {a : State} {s : State} {r : FaultRec} (hs : Keeps a s) :
    Keeps a (State.report s r) := by
  unfold State.report
  with_reducible repeat' first
    | assumption | apply State.escalateFault_keeps | apply State.severe_keeps | apply State.grave_keeps
    | apply State.noteHealth_keeps | apply State.openHard_keeps | apply State.reportBase_keeps | apply State.countFault_keeps
    | simp only [Keeps.mk_eq] | split

theorem State.hard_keeps {a : State} {s : State} {loc : Loc} {block : Nat} {kind : Nat} (hs : Keeps a s) :
    Keeps a (State.hard s loc block kind) := by
  unfold State.hard
  with_reducible repeat' first
    | assumption | apply State.report_keeps

theorem State.freePosted_keeps {a : State} {s : State} {g : Nat} (hs : Keeps a s) :
    Keeps a (State.freePosted s g) := by
  unfold State.freePosted
  with_reducible repeat' first
    | assumption | simp only [Keeps.mk_eq] | apply KeepsParts.same

theorem State.setTrim_keeps {a : State} {s : State} {n : Nat} {x : Trim} (hs : Keeps a s) :
    Keeps a (State.setTrim s n x) := by
  unfold State.setTrim
  with_reducible repeat' first
    | assumption | simp only [Keeps.mk_eq] | apply KeepsParts.same

theorem State.escalate_keeps {a : State} {s : State} {i : Nat} (hs : Keeps a s) :
    Keeps a (State.escalate s i) := by
  unfold State.escalate
  with_reducible repeat' first
    | assumption | apply State.escalateFault_keeps | apply State.closeHard_keeps | split

theorem State.showPairs_keeps {a : State} {s : State} (hs : Keeps a s) :
    Keeps a (State.showPairs s) := by
  unfold State.showPairs
  with_reducible repeat' first
    | assumption | apply State.setMissing_keeps

theorem State.showPorts_keeps {a : State} {s : State} (hs : Keeps a s) :
    Keeps a (State.showPorts s) := by
  unfold State.showPorts
  with_reducible repeat' first
    | assumption | apply State.setMissing_keeps

theorem State.pageOverlay_keeps {a : State} {s : State} {op : Nat} (hs : Keeps a s) :
    Keeps a (State.pageOverlay s op) := by
  unfold State.pageOverlay
  with_reducible repeat' first
    | assumption | simp only [Keeps.mk_eq] | apply KeepsParts.same | split

theorem State.showParts_keeps {a : State} {s : State} (hs : Keeps a s) :
    Keeps a (State.showParts s) := by
  unfold State.showParts
  with_reducible repeat' first
    | assumption | apply State.setMissing_keeps

theorem State.showReserved_keeps {a : State} {s : State} (hs : Keeps a s) :
    Keeps a (State.showReserved s) := by
  unfold State.showReserved
  with_reducible repeat' first
    | assumption | apply State.put_keeps

theorem State.startParts_keeps {a : State} {s : State} {out : PartsOut} (hs : Keeps a s) :
    Keeps a (State.startParts s out) := by
  unfold State.startParts
  with_reducible repeat' first
    | assumption | apply State.showReserved_keeps | apply State.showParts_keeps | simp only [Keeps.mk_eq] | apply KeepsParts.same

theorem State.loseNodes_keeps {a : State} {s : State} {bank : Nat} (hs : Keeps a s) :
    Keeps a (State.loseNodes s bank) := by
  unfold State.loseNodes
  with_reducible repeat' first
    | assumption | apply State.put_keeps | simp only [Keeps.mk_eq] | apply KeepsParts.same

theorem State.loseSlotBank_keeps {a : State} {s : State} {bank : Nat} (hs : Keeps a s) :
    Keeps a (State.loseSlotBank s bank) := by
  unfold State.loseSlotBank
  with_reducible repeat' first
    | assumption | apply State.showReserved_keeps | apply State.regionReset_keeps | simp only [Keeps.mk_eq]
    | apply KeepsParts.same | split

theorem State.withdraw_keeps {a : State} {s : State} {g : Nat} {u : Nat} (hs : Keeps a s) :
    Keeps a (State.withdraw s g u) := by
  unfold State.withdraw
  with_reducible repeat' first
    | assumption | apply State.loseSlotBank_keeps | apply State.loseNodes_keeps | apply State.showParts_keeps
    | apply State.clearMem_keeps | simp only [Keeps.mk_eq] | apply KeepsParts.same | split

theorem State.partFails_keeps {a : State} {s : State} {g : Nat} {u : Nat} {r : FaultRec} (hs : Keeps a s) :
    Keeps a (State.partFails s g u r) := by
  unfold State.partFails
  with_reducible repeat' first
    | assumption | apply State.withdraw_keeps | apply State.showParts_keeps | apply State.report_keeps | apply State.put_keeps
    | simp only [Keeps.mk_eq] | apply KeepsParts.same | split

theorem State.lockstep_keeps {a : State} {s : State} {master : Nat} (hs : Keeps a s) :
    Keeps a (State.lockstep s master) := by
  unfold State.lockstep
  with_reducible repeat' first
    | assumption | apply State.report_keeps | split

theorem logRead_keeps {a : State} {m : Msg} {s : State} (hs : Keeps a s) :
    Keeps a (logRead m s).1 := by
  unfold logRead
  with_reducible repeat' first
    | assumption | split

theorem logFreeze_keeps {a : State} {m : Msg} {s : State} (hs : Keeps a s) :
    Keeps a (logFreeze m s).1 := by
  unfold logFreeze
  with_reducible repeat' first
    | assumption | apply State.put_keeps | split

theorem logThawCmd_keeps {a : State} {m : Msg} {s : State} (hs : Keeps a s) :
    Keeps a (logThawCmd m s).1 := by
  unfold logThawCmd
  with_reducible repeat' first
    | assumption | apply State.logThaw_keeps | split

theorem logClear_keeps {a : State} {opId : Nat} {m : Msg} {s : State} (hs : Keeps a s) :
    Keeps a (logClear opId m s).1 := by
  unfold logClear
  with_reducible repeat' first
    | assumption | apply State.logThaw_keeps | apply State.logAdd_keeps | apply State.put_keeps | simp only [Keeps.mk_eq]
    | apply KeepsParts.same | split

theorem journalAttach_keeps {a : State} {m : Msg} {s : State} (hs : Keeps a s) :
    Keeps a (journalAttach m s).1 := by
  unfold journalAttach
  with_reducible repeat' first
    | assumption | apply State.put_keeps | simp only [Keeps.mk_eq] | apply KeepsParts.same | split

theorem State.logSubmit_keeps {a : State} {s : State} {typ : Nat} (hs : Keeps a s) :
    Keeps a (State.logSubmit s typ) := by
  unfold State.logSubmit
  with_reducible repeat' first
    | assumption | apply State.logAdd_keeps

theorem State.ackHard_keeps {a : State} {s : State} {slot : Nat} (hs : Keeps a s) :
    Keeps a (State.ackHard s slot) := by
  unfold State.ackHard
  with_reducible repeat' first
    | assumption | apply State.closeHard_keeps | apply State.noteHealth_keeps | split

theorem State.ackMinor_keeps {a : State} {s : State} (hs : Keeps a s) :
    Keeps a (State.ackMinor s) := by
  unfold State.ackMinor
  with_reducible repeat' first
    | assumption | simp only [Keeps.mk_eq] | apply KeepsParts.same

theorem State.ackSevere_keeps {a : State} {s : State} (hs : Keeps a s) :
    Keeps a (State.ackSevere s) := by
  unfold State.ackSevere
  with_reducible repeat' first
    | assumption | apply State.noteHealth_keeps | simp only [Keeps.mk_eq] | apply KeepsParts.same

theorem State.journalDetach_keeps {a : State} {s : State} (hs : Keeps a s) :
    Keeps a (State.journalDetach s) := by
  unfold State.journalDetach
  with_reducible repeat' first
    | assumption | apply State.raise_keeps | apply State.put_keeps

theorem State.journalWrite_keeps {a : State} {s : State} {ok : Bool} (hs : Keeps a s) :
    Keeps a (State.journalWrite s ok) := by
  unfold State.journalWrite
  with_reducible repeat' first
    | assumption | apply State.journalDetach_keeps | apply State.hostTell_keeps | apply State.stamped_keeps
    | apply State.raise_keeps | apply State.emit_keeps | apply State.put_keeps | simp only [Keeps.mk_eq] | apply KeepsParts.same
    | split

theorem timeGet_keeps {a : State} {m : Msg} {s : State} (hs : Keeps a s) :
    Keeps a (timeGet m s).1 := by
  unfold timeGet
  with_reducible repeat' first
    | assumption | apply State.stamped_keeps | split

theorem State.setArmed_keeps {a : State} {s : State} {n : Nat} {b : Bool} (hs : Keeps a s) :
    Keeps a (State.setArmed s n b) := by
  unfold State.setArmed
  with_reducible repeat' first
    | assumption | apply State.putBit_keeps

theorem State.wpAction_keeps {a : State} {s : State} {n : Nat} {w : Waypoint} (hs : Keeps a s) :
    Keeps a (State.wpAction s n w).1 := by
  unfold State.wpAction
  with_reducible repeat' first
    | assumption | apply State.endSlot_keeps | simp only [Keeps.mk_eq] | apply KeepsParts.same | split

theorem State.fireWaypoint_keeps {a : State} {s : State} {n : Nat} (hs : Keeps a s) :
    Keeps a (State.fireWaypoint s n) := by
  unfold State.fireWaypoint
  with_reducible repeat' first
    | assumption | apply State.wpAction_keeps | apply State.setArmed_keeps | apply State.putB_keeps | apply State.journal_keeps
    | apply State.incMod_keeps | apply State.raise_keeps | apply State.sqcEvent_keeps | apply State.put_keeps
    | simp only [Keeps.mk_eq] | apply KeepsParts.same | intro _ | split

theorem State.dropReleased_keeps {a : State} {s : State} (hs : Keeps a s) :
    Keeps a (State.dropReleased s) := by
  unfold State.dropReleased
  with_reducible repeat' first
    | assumption | simp only [Keeps.mk_eq] | apply KeepsParts.same

theorem waypointSet_keeps {a : State} {m : Msg} {s : State} (hs : Keeps a s) :
    Keeps a (waypointSet m s).1 := by
  unfold waypointSet
  with_reducible repeat' first
    | assumption | apply State.dropReleased_keeps | apply State.fireWaypoint_keeps | apply State.setArmed_keeps
    | simp only [Keeps.mk_eq] | apply KeepsParts.same | split

theorem waypointClear_keeps {a : State} {m : Msg} {s : State} (hs : Keeps a s) :
    Keeps a (waypointClear m s).1 := by
  unfold waypointClear
  with_reducible repeat' first
    | assumption | apply State.dropReleased_keeps | apply State.setArmed_keeps | simp only [Keeps.mk_eq] | apply KeepsParts.same
    | split

theorem State.compassEvent_keeps {a : State} {s : State} {kind : Nat} {from_ : Nat} {to_ : Nat} {reason : Nat} (hs : Keeps a s) :
    Keeps a (State.compassEvent s kind from_ to_ reason) := by
  unfold State.compassEvent
  with_reducible repeat' first
    | assumption | apply State.sqcEvent_keeps | apply State.put_keeps | intro _

theorem State.anchorRefused_keeps {a : State} {s : State} {why : Nat} (hs : Keeps a s) :
    Keeps a (State.anchorRefused s why) := by
  unfold State.anchorRefused
  with_reducible repeat' first
    | assumption | apply State.compassEvent_keeps | apply State.raise_keeps

theorem State.anchorTaken_keeps {a : State} {s : State} {p : Bytes} (hs : Keeps a s) :
    Keeps a (State.anchorTaken s p) := by
  unfold State.anchorTaken
  with_reducible repeat' first
    | assumption | apply State.compassEvent_keeps | apply State.raise_keeps | apply State.put_keeps | simp only [Keeps.mk_eq]
    | apply KeepsParts.same | split

theorem State.firePassed_keeps {a : State} {s : State} (hs : Keeps a s) :
    Keeps a (State.firePassed s) := by
  unfold State.firePassed
  with_reducible repeat' first
    | assumption | apply State.fireWaypoint_keeps | simp only [Keeps.mk_eq] | apply KeepsParts.same | apply Keeps.foldl | intro _
    | split

theorem State.restartRun_keeps {a : State} {s : State} (hs : Keeps a s) :
    Keeps a (State.restartRun s) := by
  unfold State.restartRun
  with_reducible repeat' first
    | assumption | apply State.put_keeps

theorem State.enter_keeps {a : State} {s : State} {to_ : Nat} (hs : Keeps a s) :
    Keeps a (State.enter s to_) := by
  unfold State.enter
  with_reducible repeat' first
    | assumption | apply State.compassEvent_keeps | apply State.setDev_keeps | apply State.raise_keeps | apply State.put_keeps
    | split

theorem State.uncertNow_keeps {a : State} {s : State} (hs : Keeps a s) :
    Keeps a (State.uncertNow s) := by
  unfold State.uncertNow
  with_reducible repeat' first
    | assumption | apply State.put_keeps

theorem State.enterAbsent_keeps {a : State} {s : State} (hs : Keeps a s) :
    Keeps a (State.enterAbsent s) := by
  unfold State.enterAbsent
  with_reducible repeat' first
    | assumption | apply State.uncertNow_keeps | apply State.enter_keeps | apply State.put_keeps | simp only [Keeps.mk_eq]
    | apply KeepsParts.same

theorem State.enterHoldover_keeps {a : State} {s : State} (hs : Keeps a s) :
    Keeps a (State.enterHoldover s) := by
  unfold State.enterHoldover
  with_reducible repeat' first
    | assumption | apply State.uncertNow_keeps | apply State.enter_keeps | simp only [Keeps.mk_eq] | apply KeepsParts.same

theorem State.setCount_keeps {a : State} {s : State} {n : Nat} (hs : Keeps a s) :
    Keeps a (State.setCount s n) := by
  unfold State.setCount
  with_reducible repeat' first
    | assumption | apply State.put_keeps | simp only [Keeps.mk_eq] | apply KeepsParts.same

theorem State.moveDeadlines_keeps {a : State} {s : State} {d : Nat} (hs : Keeps a s) :
    Keeps a (State.moveDeadlines s d) := by
  unfold State.moveDeadlines
  with_reducible repeat' first
    | assumption | apply State.put_keeps | apply Keeps.foldl | intro _ | split

theorem State.tick1_keeps {a : State} {s : State} (hs : Keeps a s) :
    Keeps a (State.tick1 s) := by
  unfold State.tick1
  with_reducible repeat' first
    | assumption | apply State.deadlines_keeps | apply State.setCount_keeps | simp only [Keeps.mk_eq] | apply KeepsParts.same

theorem State.moveCount_keeps {a : State} {s : State} {n : Nat} {d : Nat} (hs : Keeps a s) :
    Keeps a (State.moveCount s n d) := by
  unfold State.moveCount
  with_reducible repeat' first
    | assumption | apply State.deadlines_keeps | apply State.moveDeadlines_keeps | apply State.setCount_keeps
    | apply State.firePassed_keeps | apply State.put_keeps | simp only [Keeps.mk_eq] | apply KeepsParts.same

theorem State.step4_keeps {a : State} {s : State} {n : Nat} {d : Nat} (hs : Keeps a s) :
    Keeps a (State.step4 s n d) := by
  unfold State.step4
  with_reducible repeat' first
    | assumption | apply State.moveCount_keeps | apply State.enter_keeps | apply State.compassEvent_keeps
    | apply State.incSat_keeps | apply State.put_keeps | simp only [Keeps.mk_eq] | apply KeepsParts.same

theorem State.alignStep_keeps {a : State} {s : State} (hs : Keeps a s) :
    Keeps a (State.alignStep s) := by
  unfold State.alignStep
  with_reducible repeat' first
    | assumption | apply State.moveCount_keeps | apply State.enter_keeps | apply State.compassEvent_keeps
    | apply State.incSat_keeps | apply State.put_keeps | simp only [Keeps.mk_eq] | apply KeepsParts.same

theorem State.cycleTick_keeps {a : State} {s : State} {at_ : Nat} (hs : Keeps a s) :
    Keeps a (State.cycleTick s at_) := by
  unfold State.cycleTick
  with_reducible repeat' first
    | assumption | apply State.alignStep_keeps | apply State.tick1_keeps | apply State.enter_keeps | simp only [Keeps.mk_eq]
    | apply KeepsParts.same | split

theorem State.resolve_keeps {a : State} {s : State} {now : Nat} (hs : Keeps a s) :
    Keeps a (State.resolve s now) := by
  unfold State.resolve
  with_reducible repeat' first
    | assumption | apply State.step4_keeps | apply State.moveCount_keeps | apply State.tick1_keeps | apply State.enter_keeps
    | apply State.put_keeps | simp only [Keeps.mk_eq] | apply KeepsParts.same | split

theorem State.loop_keeps {a : State} {s : State} {t : Nat} {now : Nat} (hs : Keeps a s) :
    Keeps a (State.loop s t now) := by
  unfold State.loop
  with_reducible repeat' first
    | assumption | apply State.put_keeps | simp only [Keeps.mk_eq] | apply KeepsParts.same | split

theorem State.badCycle_keeps {a : State} {s : State} (hs : Keeps a s) :
    Keeps a (State.badCycle s) := by
  unfold State.badCycle
  with_reducible repeat' first
    | assumption | apply State.enterHoldover_keeps | apply State.enterAbsent_keeps | apply State.put_keeps
    | simp only [Keeps.mk_eq] | apply KeepsParts.same | split

theorem State.validDone_keeps {a : State} {s : State} {now : Nat} (hs : Keeps a s) :
    Keeps a (State.validDone s now) := by
  unfold State.validDone
  with_reducible repeat' first
    | assumption | apply State.resolve_keeps | apply State.put_keeps | simp only [Keeps.mk_eq] | apply KeepsParts.same | split

theorem State.newCycle_keeps {a : State} {s : State} {now : Nat} (hs : Keeps a s) :
    Keeps a (State.newCycle s now) := by
  unfold State.newCycle
  with_reducible repeat' first
    | assumption | simp only [Keeps.mk_eq] | apply KeepsParts.same

theorem State.crossingTick_keeps {a : State} {s : State} {at_ : Nat} {valid : Bool} (hs : Keeps a s) :
    Keeps a (State.crossingTick s at_ valid) := by
  unfold State.crossingTick
  with_reducible repeat' first
    | assumption | apply State.cycleTick_keeps | split

theorem State.crossing_keeps {a : State} {s : State} {t : Nat} {negs : List Nat} (hs : Keeps a s) :
    Keeps a (State.crossing s t negs) := by
  unfold State.crossing
  with_reducible repeat' first
    | assumption | apply State.crossingTick_keeps | apply State.newCycle_keeps | apply State.validDone_keeps
    | apply State.badCycle_keeps | apply State.loop_keeps | apply State.uncertNow_keeps | apply State.enter_keeps
    | apply State.compassEvent_keeps | apply State.incSat_keeps | apply State.put_keeps | simp only [Keeps.mk_eq]
    | apply KeepsParts.same | split

theorem State.missing_keeps {a : State} {s : State} (hs : Keeps a s) :
    Keeps a (State.missing s) := by
  unfold State.missing
  with_reducible repeat' first
    | assumption | apply State.crossingTick_keeps | apply State.newCycle_keeps | apply State.badCycle_keeps
    | apply State.uncertNow_keeps | apply State.incSat_keeps | split

theorem State.compassTick_keeps {a : State} {s : State} (hs : Keeps a s) :
    Keeps a (State.compassTick s) := by
  unfold State.compassTick
  with_reducible repeat' first
    | assumption | apply State.cycleTick_keeps | apply State.tick1_keeps | apply State.enterAbsent_keeps
    | apply State.uncertNow_keeps | simp only [Keeps.mk_eq] | apply KeepsParts.same | split

theorem State.compassStart_keeps {a : State} {s : State} {elapsed : Nat} (hs : Keeps a s) :
    Keeps a (State.compassStart s elapsed) := by
  unfold State.compassStart
  with_reducible repeat' first
    | assumption | apply State.put_keeps | simp only [Keeps.mk_eq] | apply KeepsParts.same | split

theorem State.crossCheck_keeps {a : State} {s : State} {ppm : Nat} (hs : Keeps a s) :
    Keeps a (State.crossCheck s ppm) := by
  unfold State.crossCheck
  with_reducible repeat' first
    | assumption | apply State.enterAbsent_keeps | apply State.report_keeps | apply State.compassEvent_keeps
    | apply State.put_keeps | simp only [Keeps.mk_eq] | apply KeepsParts.same | split

theorem State.showSources_keeps {a : State} {s : State} (hs : Keeps a s) :
    Keeps a (State.showSources s) := by
  unfold State.showSources
  with_reducible repeat' first
    | assumption | apply State.setMissing_keeps | apply State.put_keeps

theorem State.stopDrbg_keeps {a : State} {s : State} (hs : Keeps a s) :
    Keeps a (State.stopDrbg s) := by
  unfold State.stopDrbg
  with_reducible repeat' first
    | assumption | apply State.hard_keeps | apply State.incSat_keeps | apply State.raise_keeps | apply State.put_keeps
    | simp only [Keeps.mk_eq] | apply KeepsParts.same

theorem State.settleTrng_keeps {a : State} {s0 : State} (hs0 : Keeps a s0) :
    Keeps a (State.settleTrng s0) := by
  unfold State.settleTrng
  with_reducible repeat' first
    | assumption | apply State.stopDrbg_keeps | apply State.showSources_keeps | apply State.raise_keeps | apply State.put_keeps
    | simp only [Keeps.mk_eq] | split

theorem State.startSweep_keeps {a : State} {s : State} {n : Nat} {waits : List Nat} (hs : Keeps a s) :
    Keeps a (State.startSweep s n waits) := by
  unfold State.startSweep
  with_reducible repeat' first
    | assumption | apply State.settleTrng_keeps | apply State.setSource_keeps | apply State.put_keeps

theorem noiseRecalibrate_keeps {a : State} {m : Msg} {s : State} (hs : Keeps a s) :
    Keeps a (noiseRecalibrate m s).1 := by
  unfold noiseRecalibrate
  with_reducible repeat' first
    | assumption | apply State.startSweep_keeps | apply State.setSource_keeps | simp only [Keeps.mk_eq] | split

theorem State.fillGo_keeps {a : State} {s : State} {x1 : Nat} (hs : Keeps a s) :
    Keeps a (State.fillGo s x1) := by
  induction x1 generalizing s with
  | zero =>
    unfold State.fillGo
    with_reducible repeat' first
      | assumption | apply State.draw_keeps | simp only [Keeps.mk_eq] | apply KeepsParts.same | split
  | succ k ih =>
    unfold State.fillGo
    with_reducible repeat' first
      | assumption | apply ih | apply State.draw_keeps | simp only [Keeps.mk_eq] | apply KeepsParts.same | split

theorem State.fillFifo_keeps {a : State} {s : State} (hs : Keeps a s) :
    Keeps a (State.fillFifo s) := by
  unfold State.fillFifo
  with_reducible repeat' first
    | assumption | apply State.fillGo_keeps | apply State.put_keeps | split

theorem State.seedDelays_keeps {a : State} {s : State} (hs : Keeps a s) :
    Keeps a (State.seedDelays s) := by
  unfold State.seedDelays
  with_reducible repeat' first
    | assumption | apply State.draw_keeps | simp only [Keeps.mk_eq] | apply KeepsParts.same | split

theorem State.showPool_keeps {a : State} {s : State} (hs : Keeps a s) :
    Keeps a (State.showPool s) := by
  unfold State.showPool
  with_reducible repeat' first
    | assumption | apply State.put_keeps

theorem State.pullBlock_keeps {a : State} {s : State} {n : Nat} (hs : Keeps a s) :
    Keeps a (State.pullBlock s n).1 := by
  unfold State.pullBlock
  with_reducible repeat' first
    | assumption | simp only [Keeps.mk_eq] | apply KeepsParts.same

theorem State.takeBlocks_keeps {a : State} {s : State} {x1 : Nat} {t : State} {v} (e : State.takeBlocks s x1 = some (t, v)) (hs : Keeps a s) :
    Keeps a t := by
  induction x1 generalizing s t v with
  | zero => cases e; exact hs
  | succ k ih =>
    unfold State.takeBlocks at e
    split at e
    · cases e
    · rename_i n _
      obtain ⟨r, hr, e⟩ := Option.map_eq_some_iff.1 e
      cases e
      exact ih hr (by simp only [Keeps.mk_eq]; exact State.pullBlock_keeps (n := n) hs)

theorem State.recalSource_keeps {a : State} {s : State} {n : Nat} (hs : Keeps a s) :
    Keeps a (State.recalSource s n) := by
  unfold State.recalSource
  with_reducible repeat' first
    | assumption | apply State.blockErr_keeps | apply State.startSweep_keeps | split

theorem State.endRecal_keeps {a : State} {s : State} {n : Nat} {status : Nat} (hs : Keeps a s) :
    Keeps a (State.endRecal s n status) := by
  unfold State.endRecal
  with_reducible repeat' first
    | assumption | apply State.showTrim_keeps | apply State.setSource_keeps | apply State.complete_keeps | apply State.put_keeps
    | apply Keeps.foldl | intro _

theorem State.isolate_keeps {a : State} {s : State} {n : Nat} (hs : Keeps a s) :
    Keeps a (State.isolate s n) := by
  unfold State.isolate
  with_reducible repeat' first
    | assumption | apply State.setTrim_keeps | apply State.endRecal_keeps | apply State.settleTrng_keeps
    | apply State.setSource_keeps | apply State.incSat_keeps | apply State.put_keeps

theorem State.isolateSource_keeps {a : State} {s : State} {n : Nat} (hs : Keeps a s) :
    Keeps a (State.isolateSource s n) := by
  unfold State.isolateSource
  with_reducible repeat' first
    | assumption | apply State.isolate_keeps | apply State.blockErr_keeps | apply State.put_keeps | split

theorem State.takeNk_keeps {a : State} {s : State} (hs : Keeps a s) :
    Keeps a (State.takeNk s).1 := by
  unfold State.takeNk
  with_reducible repeat' first
    | assumption | apply State.pullBlock_keeps | simp only [Keeps.mk_eq] | apply KeepsParts.same | split

theorem State.freshInput_keeps {a : State} {s : State} {t : State} {v} (e : State.freshInput s = some (t, v)) (hs : Keeps a s) :
    Keeps a t := by
  unfold State.freshInput at e
  obtain ⟨x, hx, e⟩ := Option.bind_eq_some_iff.1 e
  obtain ⟨y, hy, e⟩ := Option.map_eq_some_iff.1 e
  cases e
  have h1 : Keeps a x.1 := State.takeBlocks_keeps (v := x.2) hx hs
  exact State.takeBlocks_keeps (v := y.2) hy (State.takeNk_keeps (by simp only [Keeps.mk_eq]; exact h1))

theorem State.seededNow_keeps {a : State} {s : State} (hs : Keeps a s) :
    Keeps a (State.seededNow s) := by
  unfold State.seededNow
  with_reducible repeat' first
    | assumption | apply State.put_keeps | simp only [Keeps.mk_eq] | apply KeepsParts.same

theorem State.seated_keeps {a : State} {s : State} {g : Bytes × Bytes} (hs : Keeps a s) :
    Keeps a (State.seated s g) := by
  unfold State.seated
  with_reducible repeat' first
    | assumption | apply State.seededNow_keeps | apply State.showPool_keeps | simp only [Keeps.mk_eq] | apply KeepsParts.same

theorem State.instantiate_keeps {a : State} {s : State} (hs : Keeps a s) :
    Keeps a (State.instantiate s) := by
  unfold State.instantiate
  with_reducible repeat' first
    | assumption | apply State.seated_keeps | refine State.freshInput_keeps (by assumption) ?_ | apply State.showSources_keeps
    | apply State.stamped_keeps | apply State.raise_keeps | apply State.put_keeps | simp only [Keeps.mk_eq]
    | apply KeepsParts.same | split

theorem State.healthEvent_keeps {a : State} {s : State} {n : Nat} {f : Failure} (hs : Keeps a s) :
    Keeps a (State.healthEvent s n f) := by
  unfold State.healthEvent
  with_reducible repeat' first
    | assumption | apply State.soft_keeps | apply State.incSat_keeps | apply State.raise_keeps | apply State.sqcEvent_keeps
    | apply State.put_keeps | intro _

theorem State.startupEnd_keeps {a : State} {s : State} {n : Nat} {ok : Bool} (hs : Keeps a s) :
    Keeps a (State.startupEnd s n ok) := by
  unfold State.startupEnd
  with_reducible repeat' first
    | assumption | apply State.healthEvent_keeps | apply State.isolate_keeps | apply State.setSource_keeps | split

theorem State.startSources_keeps {a : State} {s : State} {n : List Bool} {nk : Bool} (hs : Keeps a s) :
    Keeps a (State.startSources s n nk) := by
  unfold State.startSources
  with_reducible repeat' first
    | assumption | apply State.startupEnd_keeps | apply State.restartSource_keeps | simp only [Keeps.mk_eq] | apply Keeps.foldl
    | intro _ | split

theorem State.katEnd_keeps {a : State} {s : State} {kat4 : Bool} {kat5 : Bool} (hs : Keeps a s) :
    Keeps a (State.katEnd s kat4 kat5) := by
  unfold State.katEnd
  with_reducible repeat' first
    | assumption | apply State.hard_keeps | simp only [Keeps.mk_eq] | apply KeepsParts.same | split

theorem State.release_keeps {a : State} {s : State} {n : Nat} {bits : List Bool} (hs : Keeps a s) :
    Keeps a (State.release s n bits) := by
  unfold State.release
  with_reducible repeat' first
    | assumption | apply State.showPool_keeps | apply State.incMod_keeps | simp only [Keeps.mk_eq] | apply KeepsParts.same

theorem State.rejoin_keeps {a : State} {s : State} {n : Nat} (hs : Keeps a s) :
    Keeps a (State.rejoin s n) := by
  unfold State.rejoin
  with_reducible repeat' first
    | assumption | apply State.setTrim_keeps | apply State.showTrim_keeps | apply State.setSource_keeps
    | apply State.complete_keeps | apply State.put_keeps | simp only [Keeps.mk_eq] | apply Keeps.foldl | intro _ | split

theorem State.windowEnd_keeps {a : State} {s : State} {n : Nat} {bits : List Bool} (hs : Keeps a s) :
    Keeps a (State.windowEnd s n bits) := by
  unfold State.windowEnd
  with_reducible repeat' first
    | assumption | apply State.rejoin_keeps | apply State.release_keeps | apply State.startupEnd_keeps
    | apply State.healthEvent_keeps | apply State.isolate_keeps | apply State.setTrim_keeps | apply State.settleTrng_keeps
    | apply State.setSource_keeps | simp only [Keeps.mk_eq] | split

theorem State.reseed_keeps {a : State} {s : State} (hs : Keeps a s) :
    Keeps a (State.reseed s) := by
  unfold State.reseed
  with_reducible repeat' first
    | assumption | apply State.seated_keeps | apply State.takeNk_keeps | refine State.takeBlocks_keeps (by assumption) ?_
    | apply State.settleTrng_keeps | apply State.stopDrbg_keeps | apply State.incMod_keeps | split

theorem State.coreMismatch_keeps {a : State} {s : State} (hs : Keeps a s) :
    Keeps a (State.coreMismatch s) := by
  unfold State.coreMismatch
  with_reducible repeat' first
    | assumption | apply State.stopDrbg_keeps | apply State.report_keeps | split

theorem State.core_keeps {a : State} {s : State} {agree : Bool} (hs : Keeps a s) :
    Keeps a (State.core s agree) := by
  unfold State.core
  with_reducible repeat' first
    | assumption | apply State.coreMismatch_keeps | split

theorem State.accessFailed_keeps {a : State} {s : State} {p : Purpose} {entryKind : Nat} {reason : Nat} (hs : Keeps a s) :
    Keeps a (State.accessFailed s p entryKind reason) := by
  unfold State.accessFailed
  with_reducible repeat' first
    | assumption | apply State.postFailed_keeps | apply State.complete_keeps | apply State.ringDone_keeps
    | apply State.cqError_keeps | apply State.queueError_keeps | apply State.sendMessage_keeps | simp only [Keeps.mk_eq]
    | apply KeepsParts.same | split

theorem State.setMboxEnabled_keeps {a : State} {s : State} {fn : Nat} {b : Bool} (hs : Keeps a s) :
    Keeps a (State.setMboxEnabled s fn b) := by
  unfold State.setMboxEnabled
  with_reducible repeat' first
    | assumption | apply State.putBit_keeps

theorem State.mboxWrite_keeps {a : State} {s : State} {r : Requester} {fn : Nat} {box : Nat} {off : Nat} {bytes : Bytes} (hs : Keeps a s) :
    Keeps a (State.mboxWrite s r fn box off bytes) := by
  unfold State.mboxWrite
  with_reducible repeat' first
    | assumption | apply State.accessErr_keeps | apply State.writeMem_keeps | apply State.put_keeps | split

theorem State.captureStamp_keeps {a : State} {s : State} {fn : Nat} {value : Nat} (hs : Keeps a s) :
    Keeps a (State.captureStamp s fn value) := by
  unfold State.captureStamp
  with_reducible repeat' first
    | assumption | apply State.stamped_keeps | simp only [Keeps.mk_eq] | apply KeepsParts.same | split

theorem State.askSqHeader_keeps {a : State} {s : State} {n : Nat} (hs : Keeps a s) :
    Keeps a (State.askSqHeader s n) := by
  unfold State.askSqHeader
  with_reducible repeat' first
    | assumption | apply State.emit_keeps | simp only [Keeps.mk_eq] | apply KeepsParts.same | split

theorem State.sqDoorbell_keeps {a : State} {s : State} {r : Requester} {fn : Nat} {idx : Nat} (hs : Keeps a s) :
    Keeps a (State.sqDoorbell s r fn idx) := by
  unfold State.sqDoorbell
  with_reducible repeat' first
    | assumption | apply State.askSqHeader_keeps | apply State.accessErr_keeps | split

theorem State.askCqHeader_keeps {a : State} {s : State} {n : Nat} (hs : Keeps a s) :
    Keeps a (State.askCqHeader s n) := by
  unfold State.askCqHeader
  with_reducible repeat' first
    | assumption | apply State.emit_keeps | simp only [Keeps.mk_eq] | apply KeepsParts.same | split

theorem State.cqDoorbell_keeps {a : State} {s : State} {r : Requester} {fn : Nat} {idx : Nat} (hs : Keeps a s) :
    Keeps a (State.cqDoorbell s r fn idx) := by
  unfold State.cqDoorbell
  with_reducible repeat' first
    | assumption | apply State.askCqHeader_keeps | apply State.accessErr_keeps | split

theorem State.setSq_keeps {a : State} {s : State} {n : Nat} {q : Sq} (hs : Keeps a s) :
    Keeps a (State.setSq s n q) := by
  unfold State.setSq
  with_reducible repeat' first
    | assumption | apply State.put_keeps | simp only [Keeps.mk_eq] | apply KeepsParts.same

theorem State.fetchEntry_keeps {a : State} {s : State} {n : Nat} {q : Sq} {i : Nat} (hs : Keeps a s) :
    Keeps a (State.fetchEntry s n q i) := by
  unfold State.fetchEntry
  with_reducible repeat' first
    | assumption | apply State.queueError_keeps | apply State.access_keeps | split | refine Keeps.fst (by assumption) ?_

theorem State.prefetch_keeps {a : State} {s : State} {n : Nat} {x2 : Nat} (hs : Keeps a s) :
    Keeps a (State.prefetch s n x2) := by
  induction x2 generalizing s n with
  | zero =>
    unfold State.prefetch
    with_reducible repeat' first
      | assumption | apply State.fetchEntry_keeps | simp only [Keeps.mk_eq] | apply KeepsParts.same | split
  | succ k ih =>
    unfold State.prefetch
    with_reducible repeat' first
      | assumption | apply ih | apply State.fetchEntry_keeps | simp only [Keeps.mk_eq] | apply KeepsParts.same | split

theorem State.sqHeaderRead_keeps {a : State} {s : State} {n : Nat} {r : HeaderRead} (hs : Keeps a s) :
    Keeps a (State.sqHeaderRead s n r) := by
  unfold State.sqHeaderRead
  with_reducible repeat' first
    | assumption | apply State.prefetch_keeps | apply State.askSqHeader_keeps | apply State.queueError_keeps
    | apply State.ituFault_keeps | simp only [Keeps.mk_eq] | apply KeepsParts.same | split

theorem State.cqHeaderRead_keeps {a : State} {s : State} {n : Nat} {r : HeaderRead} (hs : Keeps a s) :
    Keeps a (State.cqHeaderRead s n r) := by
  unfold State.cqHeaderRead
  with_reducible repeat' first
    | assumption | apply State.askCqHeader_keeps | apply State.cqDrain_keeps | apply State.cqError_keeps
    | apply State.cqHeld_keeps | apply State.ituFault_keeps | simp only [Keeps.mk_eq] | apply KeepsParts.same | split

theorem State.countObjects_keeps {a : State} {s : State} (hs : Keeps a s) :
    Keeps a (State.countObjects s) := by
  unfold State.countObjects
  with_reducible repeat' first
    | assumption | apply State.put_keeps

theorem State.load_keeps {a : State} {s0 : State} {object : Nat} {action : Nat} {index : Nat} {check : Option Nat} {apply : State → State} {table : List Window} (hs0 : Keeps a s0) (happly : ∀ y0, Keeps a y0 → Keeps a (apply y0)) :
    Keeps a (State.load s0 object action index check apply table) := by
  unfold State.load
  with_reducible repeat' first
    | assumption | apply happly | apply State.noHalf_keeps | apply State.accessErr_keeps | apply State.put_keeps
    | simp only [Keeps.mk_eq] | apply KeepsParts.same | split

theorem State.functionLoad_keeps {a : State} {s : State} {fn : Nat} {d : Option FnDesc} (hs : Keeps a s) :
    Keeps a (State.functionLoad s fn d) := by
  unfold State.functionLoad
  with_reducible repeat' first
    | assumption | apply State.load_keeps | apply State.countObjects_keeps | apply State.setMboxEnabled_keeps
    | apply State.put_keeps | simp only [Keeps.mk_eq] | apply KeepsParts.same | intro _ | split

theorem State.functionDisable_keeps {a : State} {s : State} {fn : Nat} (hs : Keeps a s) :
    Keeps a (State.functionDisable s fn) := by
  unfold State.functionDisable
  with_reducible repeat' first
    | assumption | apply State.load_keeps | apply State.countObjects_keeps | apply State.put_keeps | intro _

theorem State.sqLoad_keeps {a : State} {s : State} {n : Nat} {d : Option SqDesc} (hs : Keeps a s) :
    Keeps a (State.sqLoad s n d) := by
  unfold State.sqLoad
  with_reducible repeat' first
    | assumption | apply State.load_keeps | apply State.countObjects_keeps | apply State.setSq_keeps | apply State.put_keeps
    | simp only [Keeps.mk_eq] | apply KeepsParts.same | intro _ | split

theorem State.stopSq_keeps {a : State} {s : State} {n : Nat} (hs : Keeps a s) :
    Keeps a (State.stopSq s n) := by
  unfold State.stopSq
  with_reducible repeat' first
    | assumption | apply State.countObjects_keeps | apply State.setSq_keeps | apply State.put_keeps | split

theorem State.sqDisable_keeps {a : State} {s : State} {n : Nat} (hs : Keeps a s) :
    Keeps a (State.sqDisable s n) := by
  unfold State.sqDisable
  with_reducible repeat' first
    | assumption | apply State.stopSq_keeps | apply State.load_keeps | intro _

theorem State.cqLoad_keeps {a : State} {s : State} {n : Nat} {d : Option CqDesc} (hs : Keeps a s) :
    Keeps a (State.cqLoad s n d) := by
  unfold State.cqLoad
  with_reducible repeat' first
    | assumption | apply State.load_keeps | apply State.countObjects_keeps | apply State.put_keeps | simp only [Keeps.mk_eq]
    | apply KeepsParts.same | intro _ | split

theorem State.stopCq_keeps {a : State} {s : State} {n : Nat} (hs : Keeps a s) :
    Keeps a (State.stopCq s n) := by
  unfold State.stopCq
  with_reducible repeat' first
    | assumption | apply State.countObjects_keeps | apply State.cqHeld_keeps | apply State.put_keeps | simp only [Keeps.mk_eq]
    | apply KeepsParts.same

theorem State.cqDisable_keeps {a : State} {s : State} {n : Nat} (hs : Keeps a s) :
    Keeps a (State.cqDisable s n) := by
  unfold State.cqDisable
  with_reducible repeat' first
    | assumption | apply State.stopCq_keeps | apply State.load_keeps | intro _

theorem State.dropTlb_keeps {a : State} {s : State} {fn : Nat} (hs : Keeps a s) :
    Keeps a (State.dropTlb s fn) := by
  unfold State.dropTlb
  with_reducible repeat' first
    | assumption | apply State.put_keeps | simp only [Keeps.mk_eq] | apply KeepsParts.same

theorem State.setWindows_keeps {a : State} {s : State} {fn : Nat} {ws : List Window} (hs : Keeps a s) :
    Keeps a (State.setWindows s fn ws) := by
  unfold State.setWindows
  with_reducible repeat' first
    | assumption | apply State.dropTlb_keeps | simp only [Keeps.mk_eq] | apply KeepsParts.same

theorem State.loadDone_keeps {a : State} {s : State} (hs : Keeps a s) :
    Keeps a (State.loadDone s) := by
  unfold State.loadDone
  with_reducible repeat' first
    | assumption | apply State.setWindows_keeps | apply State.incMod_keeps | apply State.raise_keeps | apply State.put_keeps
    | simp only [Keeps.mk_eq] | apply KeepsParts.same | split

theorem State.readFailed_keeps {a : State} {s : State} {id : Nat} (hs : Keeps a s) :
    Keeps a (State.readFailed s id) := by
  unfold State.readFailed
  with_reducible repeat' first
    | assumption | apply State.accessFailed_keeps | apply State.ituFault_keeps | simp only [Keeps.mk_eq] | apply KeepsParts.same
    | split

theorem State.idleMbox_keeps {a : State} {s : State} {fn : Nat} {box : Nat} (hs : Keeps a s) :
    Keeps a (State.idleMbox s fn box) := by
  unfold State.idleMbox
  with_reducible repeat' first
    | assumption | apply State.put_keeps | split

theorem State.silence_keeps {a : State} {s : State} {fn : Nat} {cause : Nat} (hs : Keeps a s) :
    Keeps a (State.silence s fn cause) := by
  unfold State.silence
  with_reducible repeat' first
    | assumption | simp only [Keeps.mk_eq] | apply KeepsParts.same

theorem State.stopQueues_keeps {a : State} {s : State} {fn : Nat} (hs : Keeps a s) :
    Keeps a (State.stopQueues s fn) := by
  unfold State.stopQueues
  with_reducible repeat' first
    | assumption | apply State.stopCq_keeps | apply State.stopSq_keeps | apply Keeps.foldl | intro _

theorem State.unroute_keeps {a : State} {s : State} {fn : Nat} (hs : Keeps a s) :
    Keeps a (State.unroute s fn) := by
  unfold State.unroute
  with_reducible repeat' first
    | assumption | apply State.put_keeps | apply Keeps.foldl | intro _ | split

theorem State.resetMsix_keeps {a : State} {s : State} {fn : Nat} (hs : Keeps a s) :
    Keeps a (State.resetMsix s fn) := by
  unfold State.resetMsix
  with_reducible repeat' first
    | assumption | simp only [Keeps.mk_eq] | apply KeepsParts.same

theorem State.flrVf_keeps {a : State} {s : State} {fn : Nat} (hs : Keeps a s) :
    Keeps a (State.flrVf s fn) := by
  unfold State.flrVf
  with_reducible repeat' first
    | assumption | apply State.resetMsix_keeps | apply State.unroute_keeps | apply State.stopQueues_keeps
    | apply State.silence_keeps | apply State.idleMbox_keeps | apply State.setWindows_keeps | apply State.setMboxEnabled_keeps
    | simp only [Keeps.mk_eq] | apply KeepsParts.same

theorem State.flrPf_keeps {a : State} {s : State} (hs : Keeps a s) :
    Keeps a (State.flrPf s) := by
  unfold State.flrPf
  with_reducible repeat' first
    | assumption | apply State.flrVf_keeps | apply State.resetMsix_keeps | apply State.stopQueues_keeps
    | apply State.silence_keeps | apply State.idleMbox_keeps | apply State.setWindows_keeps | apply State.put_keeps
    | simp only [Keeps.mk_eq] | apply KeepsParts.same | apply Keeps.foldl | intro _

theorem State.setVfs_keeps {a : State} {s : State} {enable : Bool} {num : Nat} (hs : Keeps a s) :
    Keeps a (State.setVfs s enable num) := by
  unfold State.setVfs
  with_reducible repeat' first
    | assumption | apply State.flrVf_keeps | apply State.setMboxEnabled_keeps | simp only [Keeps.mk_eq] | apply KeepsParts.same
    | apply Keeps.foldl | intro _

end Sys2Proof.Machine
end

