-- ==== Sys2Proof/Laws/KeepsWorlds.lean ====
section
/-! SUPPORT. `Keeps` for the tenant worlds, the Keeper, the tamper responses and the engine events: one lemma per operation that answers a state,
each proved from the lemmas of the operations it calls. -/

set_option linter.unusedSimpArgs false

namespace Sys2Proof.Machine

theorem State.setMissed_keeps {a : State} {s : State} {p : Nat} {b : Bool} (hs : Keeps a s) :
    Keeps a (State.setMissed s p b) := by
  unfold State.setMissed
  with_reducible repeat' first
    | assumption | simp only [Keeps.mk_eq] | apply KeepsParts.same | split

theorem State.zeroSecurePages_keeps {a : State} {s : State} (hs : Keeps a s) :
    Keeps a (State.zeroSecurePages s) := by
  unfold State.zeroSecurePages
  with_reducible repeat' first
    | assumption | apply State.clearMem_keeps | apply Keeps.foldl | intro _

theorem State.countPages_keeps {a : State} {s : State} (hs : Keeps a s) :
    Keeps a (State.countPages s) := by
  unfold State.countPages
  with_reducible repeat' first
    | assumption | apply State.put_keeps

theorem State.putRules_keeps {a : State} {s : State} {c : Nat} {x2 : Nat} {x3 : List (Nat × Nat × Nat × Nat × Nat)} (hs : Keeps a s) :
    Keeps a (State.putRules s c x2 x3) := by
  induction x3 generalizing s c x2 with
  | nil =>
    unfold State.putRules
    with_reducible repeat' first
      | assumption | apply State.put_keeps
  | cons x xs ih =>
    unfold State.putRules
    with_reducible repeat' first
      | assumption | apply ih | apply State.put_keeps

theorem State.setPot_keeps {a : State} {s : State} {pages : Nat} (hs : Keeps a s) :
    Keeps a (State.setPot s pages) := by
  unfold State.setPot
  extract_lets pot below above
  simp only [Keeps.mk_eq]
  refine KeepsParts.of rfl (List.suffix_refl _) (Nat.le_refl _) id (fun hr => ?_) hs
  have hpot : ∀ p ∈ pot, 0xC9000 * 64 ≤ p.1 ∧ p.1 < 0xCD000 * 64 := by
    intro p hp
    simp only [pot, List.mem_map, List.mem_range] at hp
    obtain ⟨i, hi, rfl⟩ := hp
    simp only [R.potEntryEntry, Fld.key]
    omega
  refine List.pairwise_append.2 ⟨List.pairwise_append.2 ⟨rising_filter _ _ hr, ?_, fun x hx y hy => ?_⟩, rising_filter _ _ hr,
    fun x hx y hy => ?_⟩
  · refine List.pairwise_map.2 (List.pairwise_lt_range.imp (fun {i j} hij => ?_))
    simp only [R.potEntryEntry, Fld.key]
    omega
  · have h2 := (List.mem_filter.1 hx).2
    have h3 := (hpot y hy).1
    simp only [decide_eq_true_eq] at h2
    omega
  · have h2 := (List.mem_filter.1 hy).2
    simp only [decide_eq_true_eq] at h2
    rcases List.mem_append.1 hx with hx | hx
    · have h4 := (List.mem_filter.1 hx).2
      simp only [decide_eq_true_eq] at h4
      omega
    · have h4 := (hpot x hx).2
      omega

theorem State.commitStanding_keeps {a : State} {s : State} {pages : Nat} (hs : Keeps a s) :
    Keeps a (State.commitStanding s pages) := by
  unfold State.commitStanding
  with_reducible repeat' first
    | assumption | apply State.setPot_keeps | apply State.putRules_keeps | apply State.countPages_keeps | apply State.incMod_keeps
    | simp only [Keeps.mk_eq] | apply KeepsParts.same | apply Keeps.foldl | intro _

theorem State.memWrite_keeps {a : State} {s : State} {r : Requester} {a2x : Nat} {data : Bytes} (hs : Keeps a s) :
    Keeps a (State.memWrite s r a2x data) := by
  unfold State.memWrite
  with_reducible repeat' first
    | assumption | apply State.mboxWrite_keeps | apply State.writeMem_keeps | split

theorem State.violation_keeps {a : State} {s : State} {r : Requester} {k : AccKind} {a3x : Nat} {imprecise : Bool} {dbl : Bool} {split : Bool} (hs : Keeps a s) :
    Keeps a (State.violation s r k a3x imprecise dbl split) := by
  unfold State.violation
  with_reducible repeat' first
    | assumption | apply State.report_keeps | apply State.putB_keeps | apply State.incSat_keeps | apply State.sqcJournal_keeps
    | apply State.put_keeps | intro _

theorem State.debugDenied_keeps {a : State} {s : State} {k : AccKind} {level : Nat} {a3x : Nat} {split : Bool} (hs : Keeps a s) :
    Keeps a (State.debugDenied s k level a3x split) := by
  unfold State.debugDenied
  with_reducible repeat' first
    | assumption | apply State.violation_keeps | apply State.incSat_keeps | simp only [Keeps.mk_eq] | apply KeepsParts.same
    | split

theorem State.checkPart_keeps {a : State} {s : State} {r : Requester} {k : AccKind} {a3x : Nat} {split : Bool} (hs : Keeps a s) :
    Keeps a (State.checkPart s r k a3x split).1 := by
  unfold State.checkPart
  with_reducible repeat' first
    | assumption | apply State.debugDenied_keeps | apply State.violation_keeps | apply State.accessErr_keeps | split

theorem State.commitResult_keeps {a : State} {s : State} {base : Nat} {group : Nat} {result : Nat} {reason : Nat} (hs : Keeps a s) :
    Keeps a (State.commitResult s base group result reason) := by
  unfold State.commitResult
  with_reducible repeat' first
    | assumption | apply State.putBit_keeps | apply State.put_keeps

theorem State.applyShadows_keeps {a : State} {s : State} {p : Nat → Bool} (hs : Keeps a s) :
    Keeps a (State.applyShadows s p) := by
  unfold State.applyShadows
  with_reducible repeat' first
    | assumption | apply State.put_keeps | simp only [Keeps.mk_eq] | apply KeepsParts.same | apply Keeps.foldl | intro _ | split

theorem State.startDrain_keeps {a : State} {s : State} {c : Nat} (hs : Keeps a s) :
    Keeps a (State.startDrain s c) := by
  unfold State.startDrain
  with_reducible repeat' first
    | assumption | apply State.commitResult_keeps | apply State.putBit_keeps | apply State.put_keeps | split

theorem State.feed_keeps {a : State} {s : State} {m : Nat} (hs : Keeps a s) :
    Keeps a (State.feed s m) := by
  unfold State.feed
  with_reducible repeat' first
    | assumption | apply State.setMissed_keeps | apply State.noteHealth_keeps | apply State.put_keeps | split

theorem State.leaseHold_keeps {a : State} {s : State} {v : Nat} (hs : Keeps a s) :
    Keeps a (State.leaseHold s v) := by
  unfold State.leaseHold
  with_reducible repeat' first
    | assumption | apply State.settleGate_keeps | apply State.settleLane_keeps | apply State.putB_keeps | apply State.put_keeps
    | apply Keeps.foldl | intro _

theorem State.postedWrite_keeps {a : State} {s : State} {fn : Nat} {a2x : Nat} {data : Bytes} (hs : Keeps a s) :
    Keeps a (State.postedWrite s fn a2x data) := by
  unfold State.postedWrite
  with_reducible repeat' first
    | assumption | apply State.violation_keeps | apply State.memWrite_keeps | simp only [Keeps.mk_eq] | split

theorem State.zeroChanged_keeps {a : State} {s : State} (hs : Keeps a s) :
    Keeps a (State.zeroChanged s) := by
  unfold State.zeroChanged
  with_reducible repeat' first
    | assumption | apply State.clearMem_keeps | apply Keeps.foldl | intro _

theorem State.nextEpoch_keeps {a : State} {s : State} {c : Nat} (hs : Keeps a s) :
    Keeps a (State.nextEpoch s c) := by
  unfold State.nextEpoch
  with_reducible repeat' first
    | assumption | apply State.zeroChanged_keeps | apply State.applyShadows_keeps | apply State.commitResult_keeps
    | apply State.countPages_keeps | apply State.incMod_keeps | apply State.put_keeps | simp only [Keeps.mk_eq]
    | apply KeepsParts.same | split

theorem State.hang_keeps {a : State} {s : State} (hs : Keeps a s) :
    Keeps a (State.hang s) := by
  unfold State.hang
  with_reducible repeat' first
    | assumption | apply State.regionReset_keeps | apply State.noteHealth_keeps

theorem State.wdogMiss_keeps {a : State} {s : State} {p : Nat} (hs : Keeps a s) :
    Keeps a (State.wdogMiss s p) := by
  unfold State.wdogMiss
  with_reducible repeat' first
    | assumption | apply State.hang_keeps | apply State.setMissed_keeps | apply State.severe_keeps | apply State.noteHealth_keeps
    | apply State.incSat_keeps | apply State.put_keeps | split

theorem State.leaseTimeout_keeps {a : State} {s : State} {ske : Bool} {n : Nat} (hs : Keeps a s) :
    Keeps a (State.leaseTimeout s ske n) := by
  unfold State.leaseTimeout
  with_reducible repeat' first
    | assumption | apply State.note_keeps | apply State.sqcEvent_keeps | apply State.put_keeps | simp only [Keeps.mk_eq] | intro _
    | split

theorem State.storeRs_keeps {a : State} {s : State} {rs : Bytes} {mask : Bytes} (hs : Keeps a s) :
    Keeps a (State.storeRs s rs mask) := by
  unfold State.storeRs
  with_reducible repeat' first
    | assumption | simp only [Keeps.mk_eq] | apply KeepsParts.same

theorem State.detected_keeps {a : State} {s : State} (hs : Keeps a s) :
    Keeps a (State.detected s) := by
  unfold State.detected
  with_reducible repeat' first
    | assumption | simp only [Keeps.mk_eq] | apply KeepsParts.same

theorem State.pocketAdd_keeps {a : State} {s : State} {serial : Nat} {time : Nat} {source : Nat} {response : Nat} {flags : Nat} {detail : Nat} {value : Nat} (hs : Keeps a s) :
    Keeps a (State.pocketAdd s serial time source response flags detail value) := by
  unfold State.pocketAdd
  with_reducible repeat' first
    | assumption | apply State.incSat_keeps | apply State.put_keeps | simp only [Keeps.mk_eq] | apply KeepsParts.same | split

theorem State.pocketNow_keeps {a : State} {s : State} {source : Nat} {response : Nat} {flags : Nat} {detail : Nat} {value : Nat} (hs : Keeps a s) :
    Keeps a (State.pocketNow s source response flags detail value) := by
  unfold State.pocketNow
  with_reducible repeat' first
    | assumption | apply State.pocketAdd_keeps | apply State.detected_keeps

theorem State.withhold_keeps {a : State} {s : State} (hs : Keeps a s) :
    Keeps a (State.withhold s) := by
  unfold State.withhold
  with_reducible repeat' first
    | assumption | apply State.pocketNow_keeps | apply State.report_keeps | apply State.put_keeps | simp only [Keeps.mk_eq]
    | split

theorem State.useRs_keeps {a : State} {s : State} (hs : Keeps a s) :
    Keeps a (State.useRs s).1 := by
  unfold State.useRs
  with_reducible repeat' first
    | assumption | apply State.withhold_keeps | apply State.storeRs_keeps | apply State.soft_keeps | apply State.incSat_keeps
    | apply State.put_keeps | simp only [Keeps.mk_eq] | split

theorem State.stageSets_keeps {a : State} {s : State} {image : Bytes} {cfg : Bytes} {life : Nat} {sigOk : Bool} {version : Nat} (hs : Keeps a s) :
    Keeps a (State.stageSets s image cfg life sigOk version).1 := by
  unfold State.stageSets
  with_reducible repeat' first
    | assumption | apply State.useRs_keeps | apply State.setTableSet_keeps | apply State.put_keeps | simp only [Keeps.mk_eq]
    | apply KeepsParts.same | split | refine Keeps.fst (by assumption) ?_

theorem State.zeroPrevious_keeps {a : State} {s : State} {floor : Nat} (hs : Keeps a s) :
    Keeps a (State.zeroPrevious s floor) := by
  unfold State.zeroPrevious
  with_reducible repeat' first
    | assumption | apply State.setTableSet_keeps | apply Keeps.foldl | intro _ | split

theorem State.switchSets_keeps {a : State} {s : State} (hs : Keeps a s) :
    Keeps a (State.switchSets s) := by
  unfold State.switchSets
  with_reducible repeat' first
    | assumption | apply State.put_keeps | simp only [Keeps.mk_eq] | apply KeepsParts.same

theorem State.putCfg_keeps {a : State} {s : State} {c : CfgBlock} (hs : Keeps a s) :
    Keeps a (State.putCfg s c).1 := by
  unfold State.putCfg
  with_reducible repeat' first
    | assumption | apply State.switchSets_keeps | apply State.stageSets_keeps | apply State.incMod_keeps | apply State.put_keeps
    | simp only [Keeps.mk_eq] | apply KeepsParts.same | split | refine Keeps.fst (by assumption) ?_

theorem State.dropStaged_keeps {a : State} {s : State} (hs : Keeps a s) :
    Keeps a (State.dropStaged s) := by
  unfold State.dropStaged
  with_reducible repeat' first
    | assumption | apply State.setTableSet_keeps | apply State.put_keeps | simp only [Keeps.mk_eq] | apply KeepsParts.same | split

theorem State.shredRs_keeps {a : State} {s : State} (hs : Keeps a s) :
    Keeps a (State.shredRs s) := by
  unfold State.shredRs
  with_reducible repeat' first
    | assumption | apply State.put_keeps | simp only [Keeps.mk_eq] | apply KeepsParts.draws

theorem State.keeperDelay_keeps {a : State} {s : State} (hs : Keeps a s) :
    Keeps a (State.keeperDelay s).1 := by
  unfold State.keeperDelay
  with_reducible repeat' first
    | assumption | simp only [Keeps.mk_eq] | apply KeepsParts.same | apply KeepsParts.draws | split

theorem State.custodyDelay_keeps {a : State} {s : State} (hs : Keeps a s) :
    Keeps a (State.custodyDelay s).1 := by
  unfold State.custodyDelay
  with_reducible repeat' first
    | assumption | simp only [Keeps.mk_eq] | apply KeepsParts.same

theorem State.releaseKeys_keeps {a : State} {s : State} {romOk : Bool} {sigOk : Bool} {linkOk : Bool} {version : Nat} (hs : Keeps a s) :
    Keeps a (State.releaseKeys s romOk sigOk linkOk version) := by
  unfold State.releaseKeys
  with_reducible repeat' first
    | assumption | apply State.useRs_keeps | apply State.put_keeps | simp only [Keeps.mk_eq] | apply KeepsParts.same | split
    | refine Keeps.fst (by assumption) ?_

theorem State.defaultCfg_keeps {a : State} {s : State} (hs : Keeps a s) :
    Keeps a (State.defaultCfg s) := by
  unfold State.defaultCfg
  with_reducible repeat' first
    | assumption | apply State.logAdd_keeps | apply State.put_keeps | simp only [Keeps.mk_eq] | apply KeepsParts.same

theorem State.freshArea_keeps {a : State} {s : State} {cfgOk : Bool} (hs : Keeps a s) :
    Keeps a (State.freshArea s cfgOk) := by
  unfold State.freshArea
  with_reducible repeat' first
    | assumption | apply State.setTableSet_keeps | simp only [Keeps.mk_eq] | apply KeepsParts.same | split

theorem State.openTable_keeps {a : State} {s : State} {set : Nat} {tableF : Bool} (hs : Keeps a s) :
    Keeps a (State.openTable s set tableF) := by
  unfold State.openTable
  with_reducible repeat' first
    | assumption | apply State.logAdd_keeps | simp only [Keeps.mk_eq] | apply KeepsParts.same | apply Keeps.foldl | intro _
    | split

theorem State.selectSet_keeps {a : State} {s0 : State} {cfgOk : Bool} (hs0 : Keeps a s0) :
    Keeps a (State.selectSet s0 cfgOk) := by
  unfold State.selectSet
  with_reducible repeat' first
    | assumption | apply State.openTable_keeps | apply State.defaultCfg_keeps | apply State.put_keeps | simp only [Keeps.mk_eq]
    | apply KeepsParts.same | split

theorem State.openRoots_keeps {a : State} {s0 : State} {cfgOk : Bool} (hs0 : Keeps a s0) :
    Keeps a (State.openRoots s0 cfgOk) := by
  unfold State.openRoots
  with_reducible repeat' first
    | assumption | apply State.mendSet_keeps | apply State.selectSet_keeps | apply State.freshArea_keeps | split

theorem State.genRs_keeps {a : State} {s : State} {n : List Bool} {nk : Bool} (hs : Keeps a s) :
    Keeps a (State.genRs s n nk).1 := by
  unfold State.genRs
  with_reducible repeat' first
    | assumption | refine State.takeBlocks_keeps (by assumption) ?_ | apply State.showPool_keeps | apply State.storeRs_keeps
    | apply State.drawn_keeps | apply State.put_keeps | simp only [Keeps.mk_eq] | apply KeepsParts.same | split

theorem State.keeperStart_keeps {a : State} {s : State} (hs : Keeps a s) :
    Keeps a (State.keeperStart s) := by
  unfold State.keeperStart
  with_reducible repeat' first
    | assumption | simp only [Keeps.mk_eq] | apply KeepsParts.draws | split

theorem State.useAnchor_keeps {a : State} {s : State} (hs : Keeps a s) :
    Keeps a (State.useAnchor s).1 := by
  unfold State.useAnchor
  with_reducible repeat' first
    | assumption | apply State.withhold_keeps | apply State.soft_keeps | simp only [Keeps.mk_eq] | apply KeepsParts.same | split

theorem State.rotateMask_keeps {a : State} {s : State} (hs : Keeps a s) :
    Keeps a (State.rotateMask s) := by
  unfold State.rotateMask
  with_reducible repeat' first
    | assumption | apply State.useAnchor_keeps | apply State.useRs_keeps | apply State.storeRs_keeps | apply State.drawn_keeps
    | simp only [Keeps.mk_eq] | apply KeepsParts.same | split | refine Keeps.fst (by assumption) ?_

theorem State.limitUsed_keeps {a : State} {s : State} {f : Fld} {code : Nat} (hs : Keeps a s) :
    Keeps a (State.limitUsed s f code) := by
  unfold State.limitUsed
  with_reducible repeat' first
    | assumption | apply State.logAdd_keeps | apply State.put_keeps

theorem State.dropQueue_keeps {a : State} {s : State} {ske : Bool} {p : Job → Bool} {status : Nat} (hs : Keeps a s) :
    Keeps a (State.dropQueue s ske p status) := by
  unfold State.dropQueue
  with_reducible repeat' first
    | assumption | apply State.yield_keeps | apply State.setQueue_keeps | apply Keeps.foldl | intro _

theorem State.abortJobs_keeps {a : State} {s : State} {p : Job → Bool} {status : Nat} (hs : Keeps a s) :
    Keeps a (State.abortJobs s p status) := by
  unfold State.abortJobs
  with_reducible repeat' first
    | assumption | apply State.dropQueue_keeps | apply State.stopSke_keeps | apply State.abortPke_keeps | apply Keeps.foldl
    | intro _ | split

theorem State.debugClose_keeps {a : State} {s : State} (hs : Keeps a s) :
    Keeps a (State.debugClose s) := by
  unfold State.debugClose
  with_reducible repeat' first
    | assumption | apply State.logAdd_keeps | apply State.put_keeps | simp only [Keeps.mk_eq] | apply KeepsParts.same | split

theorem deviceUnlock_keeps {a : State} {m : Msg} {s : State} (hs : Keeps a s) :
    Keeps a (deviceUnlock m s).1 := by
  unfold deviceUnlock
  with_reducible repeat' first
    | assumption | apply State.setDev_keeps | apply State.put_keeps | split

theorem State.lockWaiting_keeps {a : State} {s : State} (hs : Keeps a s) :
    Keeps a (State.lockWaiting s) := by
  unfold State.lockWaiting
  with_reducible repeat' first
    | assumption | apply State.completeAll_keeps

theorem State.lockUpdate_keeps {a : State} {s : State} (hs : Keeps a s) :
    Keeps a (State.lockUpdate s) := by
  unfold State.lockUpdate
  with_reducible repeat' first
    | assumption | apply State.dropStaged_keeps | apply State.complete_keeps | simp only [Keeps.mk_eq] | apply KeepsParts.same
    | split

theorem State.lockAct_keeps {a : State} {s : State} (hs : Keeps a s) :
    Keeps a (State.lockAct s) := by
  unfold State.lockAct
  with_reducible repeat' first
    | assumption | apply State.lockUpdate_keeps | apply State.lockWaiting_keeps | apply State.debugClose_keeps
    | apply State.abortJobs_keeps | apply State.setDev_keeps | apply State.raise_keeps | apply State.put_keeps
    | simp only [Keeps.mk_eq] | split

theorem State.alert_keeps {a : State} {s : State} (hs : Keeps a s) :
    Keeps a (State.alert s) := by
  unfold State.alert
  with_reducible repeat' first
    | assumption | apply State.raise_keeps | split

theorem State.purgeAct_keeps {a : State} {s : State} (hs : Keeps a s) :
    Keeps a (State.purgeAct s) := by
  unfold State.purgeAct
  with_reducible repeat' first
    | assumption | apply State.zeroSecurePages_keeps | apply State.regionReset_keeps | apply State.trngReset_keeps
    | apply State.noteHealth_keeps | apply State.abortJobs_keeps | apply State.cancelSlots_keeps | apply State.endSlot_keeps
    | apply State.put_keeps | simp only [Keeps.mk_eq] | apply KeepsParts.same | apply Keeps.foldl | intro _ | split

theorem State.shredAct_keeps {a : State} {s : State} (hs : Keeps a s) :
    Keeps a (State.shredAct s) := by
  unfold State.shredAct
  with_reducible repeat' first
    | assumption | apply State.shredRs_keeps | apply State.setDev_keeps | apply State.put_keeps | simp only [Keeps.mk_eq] | split

theorem State.tamperSeen_keeps {a : State} {s : State} {source : Nat} {r : Nat} {mismatch : Bool} {battery : Bool} (hs : Keeps a s) :
    Keeps a (State.tamperSeen s source r mismatch battery) := by
  unfold State.tamperSeen
  with_reducible repeat' first
    | assumption | apply State.putB_keeps | apply State.sqcEvent_keeps | apply State.put_keeps | intro _

theorem State.perform_keeps {a : State} {s : State} {source : Nat} {r : Nat} {d : Decision} {confirmed : Bool} (hs : Keeps a s) :
    Keeps a (State.perform s source r d confirmed) := by
  unfold State.perform
  with_reducible repeat' first
    | assumption | apply State.tamperSeen_keeps | apply State.shredAct_keeps | apply State.purgeAct_keeps
    | apply State.alert_keeps | apply State.lockAct_keeps | apply State.pocketAdd_keeps | split

theorem State.showDeciding_keeps {a : State} {s : State} (hs : Keeps a s) :
    Keeps a (State.showDeciding s) := by
  unfold State.showDeciding
  with_reducible repeat' first
    | assumption | apply State.putB_keeps

theorem State.delayFor_keeps {a : State} {s : State} {n : Nat} (hs : Keeps a s) :
    Keeps a (State.delayFor s n).1 := by
  unfold State.delayFor
  with_reducible repeat' first
    | assumption | apply State.custodyDelay_keeps | apply State.keeperDelay_keeps | split

theorem State.settleAlarm_keeps {a : State} {s : State} {source : Nat} {d : Decision} (hs : Keeps a s) :
    Keeps a (State.settleAlarm s source d) := by
  unfold State.settleAlarm
  with_reducible repeat' first
    | assumption | apply State.delayFor_keeps | apply State.showDeciding_keeps | apply State.perform_keeps
    | apply State.alert_keeps | apply State.lockAct_keeps | simp only [Keeps.mk_eq] | apply KeepsParts.same | split

theorem State.redecide_keeps {a : State} {s : State} {was : Nat → Nat} (hs : Keeps a s) :
    Keeps a (State.redecide s was) := by
  unfold State.redecide
  with_reducible repeat' first
    | assumption | apply State.settleAlarm_keeps | apply State.detected_keeps | apply Keeps.foldl | intro _ | split

theorem tamperResponseSet_keeps {a : State} {m : Msg} {s : State} (hs : Keeps a s) :
    Keeps a (tamperResponseSet m s).1 := by
  unfold tamperResponseSet
  with_reducible repeat' first
    | assumption | apply State.redecide_keeps | apply State.putCfg_keeps | apply State.limitUsed_keeps | apply State.put_keeps
    | simp only [Keeps.mk_eq] | apply Keeps.foldl | intro _ | split

theorem State.copyPocket_keeps {a : State} {s : State} (hs : Keeps a s) :
    Keeps a (State.copyPocket s) := by
  unfold State.copyPocket
  with_reducible repeat' first
    | assumption | apply State.logAdd_keeps | apply State.put_keeps | simp only [Keeps.mk_eq] | apply KeepsParts.same | split

theorem State.showSensor_keeps {a : State} {s : State} {source : Nat} {detail : Nat} {value : Nat} (hs : Keeps a s) :
    Keeps a (State.showSensor s source detail value) := by
  unfold State.showSensor
  with_reducible repeat' first
    | assumption | apply State.put_keeps | split

theorem State.setPath_keeps {a : State} {s : State} {b : Bool} {n : Nat} {v : Bool} (hs : Keeps a s) :
    Keeps a (State.setPath s b n v) := by
  unfold State.setPath
  with_reducible repeat' first
    | assumption | simp only [Keeps.mk_eq] | apply KeepsParts.same | split

theorem State.alarm_keeps {a : State} {s0 : State} {n : Nat} {pathB : Bool} {detail : Nat} {value : Nat} (hs0 : Keeps a s0) :
    Keeps a (State.alarm s0 n pathB detail value) := by
  unfold State.alarm
  with_reducible repeat' first
    | assumption | apply State.setPath_keeps | apply State.showSensor_keeps | apply State.settleAlarm_keeps
    | apply State.detected_keeps | apply State.incSat_keeps | apply State.putBit_keeps | simp only [Keeps.mk_eq]
    | apply KeepsParts.same | split

theorem State.delayEnd_keeps {a : State} {s : State} {n : Nat} (hs : Keeps a s) :
    Keeps a (State.delayEnd s n) := by
  unfold State.delayEnd
  with_reducible repeat' first
    | assumption | apply State.showDeciding_keeps | apply State.perform_keeps | apply State.tamperSeen_keeps
    | apply State.pocketNow_keeps | apply State.pocketAdd_keeps | apply State.incSat_keeps | simp only [Keeps.mk_eq]
    | apply KeepsParts.same | split

theorem State.showRolling_keeps {a : State} {s : State} (hs : Keeps a s) :
    Keeps a (State.showRolling s) := by
  unfold State.showRolling
  with_reducible repeat' first
    | assumption | apply State.put_keeps

theorem State.rollNext_keeps {a : State} {s : State} {x1 : Nat} (hs : Keeps a s) :
    Keeps a (State.rollNext s x1) := by
  induction x1 generalizing s with
  | zero =>
    unfold State.rollNext
    with_reducible repeat' first
      | assumption | apply State.reloadCluster_keeps | simp only [Keeps.mk_eq] | split
  | succ k ih =>
    unfold State.rollNext
    with_reducible repeat' first
      | assumption | apply ih | apply State.reloadCluster_keeps | simp only [Keeps.mk_eq] | split

theorem State.liftCluster_keeps {a : State} {s : State} {n : Nat} (hs : Keeps a s) :
    Keeps a (State.liftCluster s n) := by
  unfold State.liftCluster
  with_reducible repeat' first
    | assumption | apply State.loadCluster_keeps | apply State.feedCluster_keeps | apply State.setClusterState_keeps
    | apply State.put_keeps | simp only [Keeps.mk_eq] | split

theorem State.gateCluster_keeps {a : State} {s : State} {n : Nat} {gate : Bool} {on : Bool} (hs : Keeps a s) :
    Keeps a (State.gateCluster s n gate on) := by
  unfold State.gateCluster
  with_reducible repeat' first
    | assumption | apply State.liftCluster_keeps | apply State.settleGate_keeps | apply State.putB_keeps | apply State.put_keeps
    | simp only [Keeps.mk_eq] | split

theorem State.gateLane_keeps {a : State} {s : State} {n : Nat} {gate : Bool} {on : Bool} (hs : Keeps a s) :
    Keeps a (State.gateLane s n gate on) := by
  unfold State.gateLane
  with_reducible repeat' first
    | assumption | apply State.blockErr_keeps | apply State.settleLane_keeps | apply State.setLaneState_keeps
    | apply State.putB_keeps | apply State.put_keeps | simp only [Keeps.mk_eq] | split

theorem State.pairBack_keeps {a : State} {s : State} {pair : Nat} (hs : Keeps a s) :
    Keeps a (State.pairBack s pair) := by
  unfold State.pairBack
  with_reducible repeat' first
    | assumption | apply State.put_keeps | simp only [Keeps.mk_eq] | apply KeepsParts.same | split

theorem State.commitDevice_keeps {a : State} {s : State} (hs : Keeps a s) :
    Keeps a (State.commitDevice s) := by
  unfold State.commitDevice
  with_reducible repeat' first
    | assumption | apply State.put_keeps | split

theorem State.rejoinLane_keeps {a : State} {s : State} {n : Nat} (hs : Keeps a s) :
    Keeps a (State.rejoinLane s n) := by
  unfold State.rejoinLane
  with_reducible repeat' first
    | assumption | apply State.put_keeps | split

theorem State.pkeFault_keeps {a : State} {s : State} {n : Nat} {lane : Nat} {kind : Nat} {prog : Nat} {words : Nat} (hs : Keeps a s) :
    Keeps a (State.pkeFault s n lane kind prog words) := by
  unfold State.pkeFault
  with_reducible repeat' first
    | assumption | apply State.incSat_keeps | apply State.raise_keeps | apply State.sqcEvent_keeps | apply State.put_keeps
    | intro _

theorem State.releaseJob_keeps {a : State} {s : State} {n : Nat} {checkOk : Bool} {residueOk : Bool} {lane : Nat} (hs : Keeps a s) :
    Keeps a (State.releaseJob s n checkOk residueOk lane) := by
  unfold State.releaseJob
  with_reducible repeat' first
    | assumption | apply State.pkeFault_keeps | apply State.report_keeps | apply State.wipeCluster_keeps | apply State.drawn_keeps
    | apply State.yield_keeps | apply State.logAdd_keeps | apply State.incSat_keeps | simp only [Keeps.mk_eq] | split

theorem State.endRoll_keeps {a : State} {s : State} {n : Nat} (hs : Keeps a s) :
    Keeps a (State.endRoll s n) := by
  unfold State.endRoll
  with_reducible repeat' first
    | assumption | apply State.rollNext_keeps | apply State.showRolling_keeps | apply State.setCluster_keeps

theorem State.wipeEnd_keeps {a : State} {s : State} {n : Nat} (hs : Keeps a s) :
    Keeps a (State.wipeEnd s n) := by
  unfold State.wipeEnd
  with_reducible repeat' first
    | assumption | apply State.feedCluster_keeps | apply State.rollNext_keeps | apply State.settleGate_keeps
    | apply State.endWipe_keeps | apply State.setClusterState_keeps | simp only [Keeps.mk_eq] | split

theorem State.holdCluster_keeps {a : State} {s : State} {n : Nat} (hs : Keeps a s) :
    Keeps a (State.holdCluster s n) := by
  unfold State.holdCluster
  with_reducible repeat' first
    | assumption | apply State.endRoll_keeps | apply State.setClusterState_keeps | apply State.setCluster_keeps

theorem State.seatReady_keeps {a : State} {s : State} {n : Nat} (hs : Keeps a s) :
    Keeps a (State.seatReady s n) := by
  unfold State.seatReady
  with_reducible repeat' first
    | assumption | apply State.seedCluster_keeps | apply State.feedCluster_keeps | apply State.rollNext_keeps
    | apply State.settleGate_keeps | apply State.setClusterState_keeps | apply State.setCluster_keeps | apply State.incSat_keeps
    | simp only [Keeps.mk_eq] | split

theorem State.clusterLoaded_keeps {a : State} {s : State} {n : Nat} {badPkg : Nat} (hs : Keeps a s) :
    Keeps a (State.clusterLoaded s n badPkg) := by
  unfold State.clusterLoaded
  with_reducible repeat' first
    | assumption | apply State.holdCluster_keeps | apply State.hard_keeps | apply State.setLoaded_keeps
    | apply State.setClusterState_keeps | apply State.raise_keeps | apply State.sqcEvent_keeps | apply State.put_keeps
    | simp only [Keeps.mk_eq] | intro _ | split

theorem State.clusterTested_keeps {a : State} {s : State} {n : Nat} {ok : Bool} (hs : Keeps a s) :
    Keeps a (State.clusterTested s n ok) := by
  unfold State.clusterTested
  with_reducible repeat' first
    | assumption | apply State.seatReady_keeps | apply State.holdCluster_keeps | apply State.pkeFault_keeps
    | apply State.rollNext_keeps | apply State.showRolling_keeps | apply State.drawn_keeps | apply State.setCluster_keeps | split

theorem State.clusterReady_keeps {a : State} {s : State} {n : Nat} {badPkg : Nat} {testOk : Bool} (hs : Keeps a s) :
    Keeps a (State.clusterReady s n badPkg testOk) := by
  unfold State.clusterReady
  with_reducible repeat' first
    | assumption | apply State.clusterTested_keeps | apply State.clusterLoaded_keeps | apply State.seatReady_keeps | split

theorem State.quarantineReturn_keeps {a : State} {s : State} {n : Nat} {badPkg : Nat} {testOk : Bool} (hs : Keeps a s) :
    Keeps a (State.quarantineReturn s n badPkg testOk) := by
  unfold State.quarantineReturn
  with_reducible repeat' first
    | assumption | apply State.clusterTested_keeps | apply State.clusterLoaded_keeps | apply State.holdCluster_keeps
    | apply State.loadCluster_keeps | apply State.setCluster_keeps | simp only [Keeps.mk_eq] | split

theorem State.seedIn_keeps {a : State} {s : State} {n : Nat} (hs : Keeps a s) :
    Keeps a (State.seedIn s n) := by
  unfold State.seedIn
  with_reducible repeat' first
    | assumption | apply State.seedCluster_keeps | apply State.setCluster_keeps | apply State.draw_keeps | simp only [Keeps.mk_eq]
    | split

theorem State.seedDelivery_keeps {a : State} {s : State} {n : Nat} (hs : Keeps a s) :
    Keeps a (State.seedDelivery s n) := by
  unfold State.seedDelivery
  with_reducible repeat' first
    | assumption | apply State.seedIn_keeps | apply State.seatReady_keeps | apply State.feedCluster_keeps
    | simp only [Keeps.mk_eq] | split

theorem State.seedExpiry_keeps {a : State} {s : State} {n : Nat} (hs : Keeps a s) :
    Keeps a (State.seedExpiry s n) := by
  unfold State.seedExpiry
  with_reducible repeat' first
    | assumption | apply State.put_keeps | split

theorem State.requestStart_keeps {a : State} {s : State} {n : Nat} (hs : Keeps a s) :
    Keeps a (State.requestStart s n) := by
  unfold State.requestStart
  with_reducible repeat' first
    | assumption | apply State.startSke_keeps | split

theorem State.laneMismatch_keeps {a : State} {s : State} {n : Nat} {j : Job} (hs : Keeps a s) :
    Keeps a (State.laneMismatch s n j) := by
  unfold State.laneMismatch
  with_reducible repeat' first
    | assumption | apply State.hard_keeps | apply State.stopSke_keeps | apply State.setLaneState_keeps | apply State.setLane_keeps
    | apply State.putB_keeps | apply State.incSat_keeps | apply State.raise_keeps | apply State.sqcEvent_keeps
    | apply State.put_keeps | simp only [Keeps.mk_eq] | intro _ | split

theorem State.requestEnd_keeps {a : State} {s : State} {n : Nat} {checkOk : Bool} (hs : Keeps a s) :
    Keeps a (State.requestEnd s n checkOk) := by
  unfold State.requestEnd
  with_reducible repeat' first
    | assumption | apply State.endSke_keeps | apply State.laneMismatch_keeps | apply State.stopSke_keeps | split

theorem State.laneTested_keeps {a : State} {s : State} {n : Nat} {pass : Bool} (hs : Keeps a s) :
    Keeps a (State.laneTested s n pass) := by
  unfold State.laneTested
  with_reducible repeat' first
    | assumption | apply State.showMism_keeps | apply State.settleLane_keeps | apply State.setLaneState_keeps
    | apply State.setLane_keeps | apply State.put_keeps | simp only [Keeps.mk_eq] | split

theorem State.entropyTimeout_keeps {a : State} {s : State} {cid : Nat} (hs : Keeps a s) :
    Keeps a (State.entropyTimeout s cid) := by
  unfold State.entropyTimeout
  with_reducible repeat' first
    | assumption | apply State.dropQueue_keeps | apply State.complete_keeps | simp only [Keeps.mk_eq] | split

theorem State.lanesBack_keeps {a : State} {s : State} (hs : Keeps a s) :
    Keeps a (State.lanesBack s) := by
  unfold State.lanesBack
  with_reducible repeat' first
    | assumption | apply State.commitDevice_keeps | apply State.setLaneState_keeps | apply Keeps.foldl | intro _ | split

theorem State.clusterBack_keeps {a : State} {s : State} {c : Nat} {kat4 : Bool} {kat5 : Bool} (hs : Keeps a s) :
    Keeps a (State.clusterBack s c kat4 kat5) := by
  unfold State.clusterBack
  with_reducible repeat' first
    | assumption | apply State.lanesBack_keeps | apply State.katEnd_keeps | apply State.pairBack_keeps
    | apply State.showPairs_keeps | apply State.settleGate_keeps | apply State.endWipe_keeps | apply State.setClusterState_keeps
    | apply State.setCluster_keeps | simp only [Keeps.mk_eq] | apply KeepsParts.same | split

theorem State.clustersBack_keeps {a : State} {s : State} {g : Nat} (hs : Keeps a s) :
    Keeps a (State.clustersBack s g) := by
  unfold State.clustersBack
  with_reducible repeat' first
    | assumption | apply State.loadCluster_keeps | apply State.settleGate_keeps | apply State.endWipe_keeps
    | simp only [Keeps.mk_eq] | apply Keeps.foldl | intro _ | split

theorem State.regionBack_keeps {a : State} {s : State} {g : Nat} {kat4 : Bool} {kat5 : Bool} (hs : Keeps a s) :
    Keeps a (State.regionBack s g kat4 kat5) := by
  unfold State.regionBack
  with_reducible repeat' first
    | assumption | apply State.clustersBack_keeps | apply State.lanesBack_keeps | apply State.katEnd_keeps
    | apply State.freePosted_keeps | apply State.reloading_keeps | simp only [Keeps.mk_eq] | apply KeepsParts.same | split

end Sys2Proof.Machine
end

