-- ==== Sys2Proof/Laws/KeepsActs.lean ====
section
/-! SUPPORT. `Keeps` for what the command acts do, the domain, the signed tokens, the life cycle and boot: one lemma per operation that answers a state,
each proved from the lemmas of the operations it calls. -/

set_option linter.unusedSimpArgs false

namespace Sys2Proof.Machine

theorem State.setGot_keeps {a : State} {s : State} {cid : Nat} {y : Yield} (hs : Keeps a s) :
    Keeps a (State.setGot s cid y) := by
  unfold State.setGot
  with_reducible repeat' first
    | assumption | simp only [Keeps.mk_eq] | apply KeepsParts.same

theorem lift_keeps {a : State} {f : Msg → State → State × Resp} {m : Msg} {s : State} (hf : ∀ y0 y1, Keeps a y1 → Keeps a (f y0 y1).1) (hs : Keeps a s) :
    Keeps a (lift f m s).1 := by
  unfold lift
  with_reducible repeat' first
    | assumption | apply hf

theorem deviceInfoGet_keeps {a : State} {m : Msg} {s : State} (hs : Keeps a s) :
    Keeps a (deviceInfoGet m s).1 := by
  unfold deviceInfoGet
  with_reducible repeat' first
    | assumption | split

theorem identityGet_keeps {a : State} {m : Msg} {s : State} (hs : Keeps a s) :
    Keeps a (identityGet m s).1 := by
  unfold identityGet
  with_reducible repeat' first
    | assumption | split

theorem attestationAnswer_keeps {a : State} {m : Msg} {s : State} (hs : Keeps a s) :
    Keeps a (attestationAnswer m s).1 := by
  unfold attestationAnswer
  with_reducible repeat' first
    | assumption | apply State.stamped_keeps | split

theorem State.keepBody_keeps {a : State} {s : State} {cid : Nat} {b : Bytes} (hs : Keeps a s) :
    Keeps a (State.keepBody s cid b) := by
  unfold State.keepBody
  with_reducible repeat' first
    | assumption | simp only [Keeps.mk_eq] | apply KeepsParts.same

theorem attestationSign_keeps {a : State} {m : Msg} {s : State} (hs : Keeps a s) :
    Keeps a (attestationSign m s).1 := by
  unfold attestationSign
  with_reducible repeat' first
    | assumption | apply State.keepBody_keeps | apply State.submitPke_keeps | apply State.stamped_keeps | split

theorem tenantCreate_keeps {a : State} {m : Msg} {s : State} (hs : Keeps a s) :
    Keeps a (tenantCreate m s).1 := by
  unfold tenantCreate
  with_reducible repeat' first
    | assumption | apply State.writeTenant_keeps | apply State.draw_keeps | simp only [Keeps.mk_eq] | apply KeepsParts.same
    | split

theorem State.actIntent_keeps {a : State} {s : State} {m : Msg} {wg : Nat} (hs : Keeps a s) :
    Keeps a (State.actIntent s m wg) := by
  unfold State.actIntent
  with_reducible repeat' first
    | assumption | apply State.logAdd_keeps

theorem State.actComplete_keeps {a : State} {s : State} {m : Msg} {wg : Nat} (hs : Keeps a s) :
    Keeps a (State.actComplete s m wg) := by
  unfold State.actComplete
  with_reducible repeat' first
    | assumption | apply State.logAdd_keeps

theorem State.setReplica_keeps {a : State} {s : State} {n : Nat} {on : Bool} (hs : Keeps a s) :
    Keeps a (State.setReplica s n on) := by
  unfold State.setReplica
  with_reducible repeat' first
    | assumption | apply State.put_keeps | simp only [Keeps.mk_eq] | apply KeepsParts.same

theorem State.unmark_keeps {a : State} {s : State} {n : Nat} {x2 : Option Nat} (hs : Keeps a s) :
    Keeps a (State.unmark s n x2) := by
  unfold State.unmark
  with_reducible repeat' first
    | assumption | simp only [Keeps.mk_eq] | apply KeepsParts.same | split

theorem State.markDying_keeps {a : State} {s : State} {n : Nat} {x2 : Option Nat} (hs : Keeps a s) :
    Keeps a (State.markDying s n x2) := by
  unfold State.markDying
  with_reducible repeat' first
    | assumption | simp only [Keeps.mk_eq] | apply KeepsParts.same | split

theorem State.beginDying_keeps {a : State} {s : State} {n : Nat} {wg : Option Nat} {status : Nat} (hs : Keeps a s) :
    Keeps a (State.beginDying s n wg status) := by
  unfold State.beginDying
  with_reducible repeat' first
    | assumption | apply State.markDying_keeps | apply State.abortJobs_keeps | apply State.completeAll_keeps | split

theorem State.carryOut_keeps {a : State} {s : State} {m : Msg} {wg : Option Nat} {t : Tenant} {status : Nat} (hs : Keeps a s) :
    Keeps a (State.carryOut s m wg t status).1 := by
  unfold State.carryOut
  with_reducible repeat' first
    | assumption | apply State.beginDying_keeps | apply State.unmark_keeps | apply State.setReplica_keeps
    | apply State.actComplete_keeps | apply State.actIntent_keeps | apply State.wipeSlots_keeps
    | apply State.destroyTenantEntry_keeps | simp only [Keeps.mk_eq] | split

theorem tenantDelete_keeps {a : State} {m : Msg} {s : State} (hs : Keeps a s) :
    Keeps a (tenantDelete m s).1 := by
  unfold tenantDelete
  with_reducible repeat' first
    | assumption | apply State.carryOut_keeps | simp only [Keeps.mk_eq] | split

theorem tenantQuotaSet_keeps {a : State} {m : Msg} {s : State} (hs : Keeps a s) :
    Keeps a (tenantQuotaSet m s).1 := by
  unfold tenantQuotaSet
  with_reducible repeat' first
    | assumption | simp only [Keeps.mk_eq] | apply KeepsParts.same | split

theorem tenantPolicySet_keeps {a : State} {m : Msg} {s : State} (hs : Keeps a s) :
    Keeps a (tenantPolicySet m s).1 := by
  unfold tenantPolicySet
  with_reducible repeat' first
    | assumption | apply State.lowerLimit_keeps | simp only [Keeps.mk_eq] | apply KeepsParts.same | apply Keeps.foldl | intro _
    | split

theorem generationRoll_keeps {a : State} {m : Msg} {s : State} (hs : Keeps a s) :
    Keeps a (generationRoll m s).1 := by
  unfold generationRoll
  with_reducible repeat' first
    | assumption | apply State.writeTenant_keeps | apply State.draw_keeps | simp only [Keeps.mk_eq] | split

theorem generationRetire_keeps {a : State} {m : Msg} {s : State} (hs : Keeps a s) :
    Keeps a (generationRetire m s).1 := by
  unfold generationRetire
  with_reducible repeat' first
    | assumption | apply State.carryOut_keeps | simp only [Keeps.mk_eq] | split

theorem instanceBind_keeps {a : State} {m : Msg} {s : State} (hs : Keeps a s) :
    Keeps a (instanceBind m s).1 := by
  unfold instanceBind
  with_reducible repeat' first
    | assumption | apply State.notice_keeps | simp only [Keeps.mk_eq] | apply KeepsParts.same | split

theorem State.restoreDefault_keeps {a : State} {s : State} (hs : Keeps a s) :
    Keeps a (State.restoreDefault s) := by
  unfold State.restoreDefault
  with_reducible repeat' first
    | assumption | apply State.setTableSet_keeps | apply State.put_keeps | simp only [Keeps.mk_eq] | apply KeepsParts.same | split

theorem tenantUnlock_keeps {a : State} {m : Msg} {s : State} (hs : Keeps a s) :
    Keeps a (tenantUnlock m s).1 := by
  unfold tenantUnlock
  with_reducible repeat' first
    | assumption | apply State.restoreDefault_keeps | apply State.writeTenant_keeps | simp only [Keeps.mk_eq] | split

theorem tenantInfoGet_keeps {a : State} {m : Msg} {s : State} (hs : Keeps a s) :
    Keeps a (tenantInfoGet m s).1 := by
  unfold tenantInfoGet
  with_reducible repeat' first
    | assumption | split

theorem State.finishIntent_keeps {a : State} {s : State} {r : LogRec} (hs : Keeps a s) :
    Keeps a (State.finishIntent s r) := by
  unfold State.finishIntent
  with_reducible repeat' first
    | assumption | apply State.setReplica_keeps | apply State.destroyTenantEntry_keeps | apply State.clearEntry_keeps
    | apply State.logAdd_keeps | split

theorem State.finishIntents_keeps {a : State} {s : State} (hs : Keeps a s) :
    Keeps a (State.finishIntents s) := by
  unfold State.finishIntents
  with_reducible repeat' first
    | assumption | apply State.finishIntent_keeps | apply Keeps.foldl

theorem State.keepLarge_keeps {a : State} {s : State} {ref : Nat} {page : Bytes} (hs : Keeps a s) :
    Keeps a (State.keepLarge s ref page) := by
  unfold State.keepLarge
  with_reducible repeat' first
    | assumption | simp only [Keeps.mk_eq] | apply KeepsParts.same | split

theorem State.findHamper_keeps {a : State} {s : State} {m : Msg} (hs : Keeps a s) :
    Keeps a (State.findHamper s m).1 := by
  unfold State.findHamper
  with_reducible repeat' first
    | assumption | apply State.readPage_keeps | apply State.keepLarge_keeps | simp only [Keeps.mk_eq] | split
    | refine Keeps.fst (by assumption) ?_

theorem State.unwrapKey_keeps {a : State} {s : State} {m : Msg} {h2x : HamperHead} {b : Bytes} (hs : Keeps a s) :
    Keeps a (State.unwrapKey s m h2x b).1 := by
  unfold State.unwrapKey
  with_reducible repeat' first
    | assumption | apply State.lanePart_keeps | split

theorem State.openHamper_keeps {a : State} {s : State} {m : Msg} (hs : Keeps a s) :
    Keeps a (State.openHamper s m).1 := by
  unfold State.openHamper
  with_reducible repeat' first
    | assumption | apply State.touchRoot_keeps | apply State.unwrapKey_keeps | apply State.findHamper_keeps | split
    | refine Keeps.fst (by assumption) ?_

theorem State.loadHamper_keeps {a : State} {s : State} {m : Msg} (hs : Keeps a s) :
    Keeps a (State.loadHamper s m).1 := by
  unfold State.loadHamper
  with_reducible repeat' first
    | assumption | refine State.loadSlot_keeps (by assumption) ?_ | apply State.openHamper_keeps | apply State.findHamper_keeps
    | split | refine Keeps.fst (by assumption) ?_

theorem State.placement_keeps {a : State} {s : State} {ref0 : Nat} (hs : Keeps a s) :
    Keeps a (State.placement s ref0).1 := by
  unfold State.placement
  with_reducible repeat' first
    | assumption | apply State.readForChange_keeps | simp only [Keeps.mk_eq] | split | refine Keeps.fst (by assumption) ?_

theorem State.wrapPart_keeps {a : State} {s : State} {m : Msg} {h2x : HamperHead} {key : Bytes} (hs : Keeps a s) :
    Keeps a (State.wrapPart s m h2x key).1 := by
  unfold State.wrapPart
  with_reducible repeat' first
    | assumption | apply State.dropPart_keeps | apply State.lanePart_keeps | simp only [Keeps.mk_eq] | split

theorem State.createHamper_keeps {a : State} {s : State} {m : Msg} {p : Bytes} {tenant : Nat} {ref0 : Nat} {a5x : Attr} {key : Bytes} (hs : Keeps a s) :
    Keeps a (State.createHamper s m p tenant ref0 a5x key).1 := by
  unfold State.createHamper
  with_reducible repeat' first
    | assumption | apply State.changePage_keeps | apply State.wrapPart_keeps | apply State.touchRoot_keeps
    | simp only [Keeps.mk_eq] | apply KeepsParts.same | split | refine Keeps.fst (by assumption) ?_

theorem State.keepKey_keeps {a : State} {s : State} {m : Msg} {a2x : Attr} {key : Bytes} {result : Bytes} (hs : Keeps a s) :
    Keeps a (State.keepKey s m a2x key result).1 := by
  unfold State.keepKey
  with_reducible repeat' first
    | assumption | apply State.stageDone_keeps | apply State.createHamper_keeps | apply State.placement_keeps | split
    | refine Keeps.fst (by assumption) ?_

theorem hamperLoad_keeps {a : State} {m : Msg} {s : State} (hs : Keeps a s) :
    Keeps a (hamperLoad m s).1 := by
  unfold hamperLoad
  with_reducible repeat' first
    | assumption | apply State.loadHamper_keeps | split | refine Keeps.fst (by assumption) ?_

theorem slotFree_keeps {a : State} {m : Msg} {s : State} (hs : Keeps a s) :
    Keeps a (slotFree m s).1 := by
  unfold slotFree
  with_reducible repeat' first
    | assumption | apply State.freeOrDoom_keeps | simp only [Keeps.mk_eq] | split

theorem hamperRewrap_keeps {a : State} {m : Msg} {s : State} (hs : Keeps a s) :
    Keeps a (hamperRewrap m s).1 := by
  unfold hamperRewrap
  with_reducible repeat' first
    | assumption | apply State.stageDone_keeps | apply State.changePage_keeps | apply State.wrapPart_keeps
    | apply State.readForChange_keeps | apply State.openHamper_keeps | simp only [Keeps.mk_eq] | apply KeepsParts.same | split
    | refine Keeps.fst (by assumption) ?_

theorem State.freeCell_keeps {a : State} {s : State} {r : Ref} {p : Bytes} {ref : Nat} (hs : Keeps a s) :
    Keeps a (State.freeCell s r p ref) := by
  unfold State.freeCell
  with_reducible repeat' first
    | assumption | apply State.freeSlots_keeps | apply State.changePage_keeps | simp only [Keeps.mk_eq] | apply KeepsParts.same

theorem hamperRevoke_keeps {a : State} {m : Msg} {s : State} (hs : Keeps a s) :
    Keeps a (hamperRevoke m s).1 := by
  unfold hamperRevoke
  with_reducible repeat' first
    | assumption | apply State.freeCell_keeps | apply State.stageDone_keeps | apply State.readForChange_keeps
    | simp only [Keeps.mk_eq] | split | refine Keeps.fst (by assumption) ?_

theorem hamperReclaim_keeps {a : State} {m : Msg} {s : State} (hs : Keeps a s) :
    Keeps a (hamperReclaim m s).1 := by
  unfold hamperReclaim
  with_reducible repeat' first
    | assumption | apply State.freeCell_keeps | apply State.stageDone_keeps | apply State.readForChange_keeps
    | simp only [Keeps.mk_eq] | split | refine Keeps.fst (by assumption) ?_

theorem nonceLimitSet_keeps {a : State} {m : Msg} {s : State} (hs : Keeps a s) :
    Keeps a (nonceLimitSet m s).1 := by
  unfold nonceLimitSet
  with_reducible repeat' first
    | assumption | apply State.lowerLimit_keeps | split

theorem State.findCell_keeps {a : State} {s : State} {p : Nat} {x2 : Nat} (hs : Keeps a s) :
    Keeps a (State.findCell s p x2).1 := by
  induction x2 generalizing s p with
  | zero =>
    unfold State.findCell
    with_reducible repeat' first
      | assumption | apply State.readForChange_keeps | split | refine Keeps.fst (by assumption) ?_
  | succ k ih =>
    unfold State.findCell
    with_reducible repeat' first
      | assumption | apply ih | apply State.readForChange_keeps | split | refine Keeps.fst (by assumption) ?_

theorem State.successor_keeps {a : State} {s : State} {m : Msg} {x : Slot} (hs : Keeps a s) :
    Keeps a (State.successor s m x).1 := by
  unfold State.successor
  with_reducible repeat' first
    | assumption | apply State.lanePart_keeps

theorem rotateKey_keeps {a : State} {m : Msg} {s : State} (hs : Keeps a s) :
    Keeps a (rotateKey m s).1 := by
  unfold rotateKey
  with_reducible repeat' first
    | assumption | apply State.rotateFailed_keeps | apply State.successor_keeps | apply State.findCell_keeps
    | apply State.stageDone_keeps | apply State.createHamper_keeps | apply State.onOpen_keeps
    | refine State.loadSlot_keeps (by assumption) ?_ | simp only [Keeps.mk_eq] | split | refine Keeps.fst (by assumption) ?_

theorem State.readRange_keeps {a : State} {s : State} {pages : List Nat} (hs : Keeps a s) :
    Keeps a (State.readRange s pages).1 := by
  unfold State.readRange
  with_reducible repeat' first
    | assumption | apply State.readForChange_keeps | apply Keeps.foldl_fst | intro _ | split | refine Keeps.fst (by assumption) ?_

theorem State.reclaimPage_keeps {a : State} {s : State} {page : Nat} {p : Bytes} {n : Nat × Nat × Nat} (hs : Keeps a s) :
    Keeps a (State.reclaimPage s page p n).1 := by
  unfold State.reclaimPage
  with_reducible repeat' first
    | assumption | apply State.freeSlots_keeps | apply State.closeIfFull_keeps | apply State.changePage_keeps
    | simp only [Keeps.mk_eq] | apply KeepsParts.same | apply Keeps.foldl | intro _ | split

theorem State.reclaimPages_keeps {a : State} {s : State} {pages : List Nat} (hs : Keeps a s) :
    Keeps a (State.reclaimPages s pages).1 := by
  unfold State.reclaimPages
  with_reducible repeat' first
    | assumption | apply State.reclaimPage_keeps | apply State.readPage_keeps | apply Keeps.foldl_fst | intro _ | split
    | refine Keeps.fst (by assumption) ?_

theorem storeReclaimRange_keeps {a : State} {m : Msg} {s : State} (hs : Keeps a s) :
    Keeps a (storeReclaimRange m s).1 := by
  unfold storeReclaimRange
  with_reducible repeat' first
    | assumption | apply State.stageLast_keeps | apply State.reclaimPages_keeps | apply State.readRange_keeps
    | simp only [Keeps.mk_eq] | split | refine Keeps.fst (by assumption) ?_

theorem storeRecheck_keeps {a : State} {m : Msg} {s : State} (hs : Keeps a s) :
    Keeps a (storeRecheck m s).1 := by
  unfold storeRecheck
  with_reducible repeat' first
    | assumption | apply State.clearMarks_keeps | apply State.readPage_keeps | simp only [Keeps.mk_eq] | split
    | refine Keeps.fst (by assumption) ?_

theorem State.forgetSubtree_keeps {a : State} {s : State} {k : Nat} {i : Nat} (hs : Keeps a s) :
    Keeps a (State.forgetSubtree s k i) := by
  unfold State.forgetSubtree
  with_reducible repeat' first
    | assumption | apply State.countFailed_keeps | simp only [Keeps.mk_eq] | apply KeepsParts.same

theorem storePrune_keeps {a : State} {m : Msg} {s : State} (hs : Keeps a s) :
    Keeps a (storePrune m s).1 := by
  unfold storePrune
  with_reducible repeat' first
    | assumption | apply State.forgetSubtree_keeps | apply State.stageDone_keeps | apply State.retagFrom_keeps
    | apply State.countDirty_keeps | apply State.openBatch_keeps | apply State.readNodes_keeps | simp only [Keeps.mk_eq] | split
    | refine Keeps.fst (by assumption) ?_

theorem storeAttach_keeps {a : State} {m : Msg} {s : State} (hs : Keeps a s) :
    Keeps a (storeAttach m s).1 := by
  unfold storeAttach
  with_reducible repeat' first
    | assumption | apply State.reopen_keeps | apply State.abandon_keeps | apply State.completeAll_keeps | apply State.put_keeps
    | simp only [Keeps.mk_eq] | apply KeepsParts.same | split

theorem storeFormat_keeps {a : State} {m : Msg} {s : State} (hs : Keeps a s) :
    Keeps a (storeFormat m s).1 := by
  unfold storeFormat
  with_reducible repeat' first
    | assumption | apply State.writeFormat_keeps | apply State.reopen_keeps | apply State.zeroFormat_keeps
    | apply State.formatRecord_keeps | apply State.setStk_keeps | apply State.closeBatch_keeps | apply State.put_keeps
    | simp only [Keeps.mk_eq] | apply KeepsParts.same | split

theorem State.deliver_keeps {a : State} {s : State} {m : Msg} {a2x : Option Attr} {pub : Bytes} {sec : Bytes} (hs : Keeps a s) :
    Keeps a (State.deliver s m a2x pub sec).1 := by
  unfold State.deliver
  with_reducible repeat' first
    | assumption | apply State.keepKey_keeps | refine State.loadSlot_keeps (by assumption) ?_ | apply State.lanePart_keeps
    | simp only [Keeps.mk_eq] | split | refine Keeps.fst (by assumption) ?_

theorem keyGenerate_keeps {a : State} {m : Msg} {s : State} (hs : Keeps a s) :
    Keeps a (keyGenerate m s).1 := by
  unfold keyGenerate
  with_reducible repeat' first
    | assumption | apply State.setGot_keeps | apply State.submitPke_keeps | apply State.draw_keeps | apply State.keepKey_keeps
    | apply State.placement_keeps | simp only [Keeps.mk_eq] | split | refine Keeps.fst (by assumption) ?_

theorem State.openHybrid_keeps {a : State} {s : State} {m : Msg} {x : Slot} {y : Slot} {body : Bytes} {attr : Bytes} (hs : Keeps a s) :
    Keeps a (State.openHybrid s m x y body attr).1 := by
  unfold State.openHybrid
  with_reducible repeat' first
    | assumption | apply State.pkePart_keeps | apply State.lanePart_keeps | split | refine Keeps.fst (by assumption) ?_

theorem State.openTransport_keeps {a : State} {s : State} {m : Msg} {item : Bytes} {attr : Bytes} {pos : Nat} (hs : Keeps a s) :
    Keeps a (State.openTransport s m item attr pos).1 := by
  unfold State.openTransport
  with_reducible repeat' first
    | assumption | apply State.openHybrid_keeps | apply State.lanePart_keeps | simp only [Keeps.mk_eq] | split

theorem State.importKey_keeps {a : State} {s : State} {m : Msg} {a2x : Attr} {key : Bytes} (hs : Keeps a s) :
    Keeps a (State.importKey s m a2x key).1 := by
  unfold State.importKey
  with_reducible repeat' first
    | assumption | apply State.submitPke_keeps | apply State.keepKey_keeps | split

theorem keyImport_keeps {a : State} {m : Msg} {s : State} (hs : Keeps a s) :
    Keeps a (keyImport m s).1 := by
  unfold keyImport
  with_reducible repeat' first
    | assumption | apply State.importKey_keeps | apply State.openTransport_keeps | split | refine Keeps.fst (by assumption) ?_

theorem State.hybridStart_keeps {a : State} {s : State} {ek : Bytes} {point : Bytes} {attr : Bytes} (hs : Keeps a s) :
    Keeps a (State.hybridStart s ek point attr).1 := by
  unfold State.hybridStart
  with_reducible repeat' first
    | assumption | apply State.draw_keeps | simp only [Keeps.mk_eq] | split

theorem State.hybridSeal_keeps {a : State} {s : State} {m : Msg} {ek : Bytes} {point : Bytes} {attr : Bytes} {blob : Bytes} (hs : Keeps a s) :
    Keeps a (State.hybridSeal s m ek point attr blob).1 := by
  unfold State.hybridSeal
  with_reducible repeat' first
    | assumption | apply State.setPart_keeps | apply State.hybridStart_keeps | apply State.lanePart_keeps
    | simp only [Keeps.mk_eq] | split | refine Keeps.fst (by assumption) ?_

theorem keyExport_keeps {a : State} {m : Msg} {s : State} (hs : Keeps a s) :
    Keeps a (keyExport m s).1 := by
  unfold keyExport
  with_reducible repeat' first
    | assumption | apply State.hybridSeal_keeps | apply State.openHamper_keeps | apply State.lanePart_keeps
    | simp only [Keeps.mk_eq] | split | refine Keeps.fst (by assumption) ?_

theorem State.namedKey_keeps {a : State} {s : State} {m : Msg} (hs : Keeps a s) :
    Keeps a (State.namedKey s m).1 := by
  unfold State.namedKey
  with_reducible repeat' first
    | assumption | apply State.openHamper_keeps | split | refine Keeps.fst (by assumption) ?_

theorem keyPublicGet_keeps {a : State} {m : Msg} {s : State} (hs : Keeps a s) :
    Keeps a (keyPublicGet m s).1 := by
  unfold keyPublicGet
  with_reducible repeat' first
    | assumption | apply State.namedKey_keeps | apply State.submitPke_keeps | split | refine Keeps.fst (by assumption) ?_

theorem State.hybridOpen_keeps {a : State} {s : State} {m : Msg} {kemKey : Bytes} {scalar : Bytes} {body : Bytes} {attr : Bytes} (hs : Keeps a s) :
    Keeps a (State.hybridOpen s m kemKey scalar body attr).1 := by
  unfold State.hybridOpen
  with_reducible repeat' first
    | assumption | apply State.lanePart_keeps | split

theorem State.putAttKey_keeps {a : State} {s : State} {set : Option Nat} {kp : TableSet → Option Bytes} {kf : Bytes} {key : Bytes} (hs : Keeps a s) :
    Keeps a (State.putAttKey s set kp kf key) := by
  unfold State.putAttKey
  with_reducible repeat' first
    | assumption | apply State.setTableSet_keeps | split

theorem attestationKeyProvision_keeps {a : State} {m : Msg} {s : State} (hs : Keeps a s) :
    Keeps a (attestationKeyProvision m s).1 := by
  unfold attestationKeyProvision
  with_reducible repeat' first
    | assumption | apply State.putAttKey_keeps | apply State.openTransport_keeps | simp only [Keeps.mk_eq] | apply KeepsParts.same
    | split | refine Keeps.fst (by assumption) ?_

theorem State.settleCurve_keeps {a : State} {s : State} {c : Curve} {reason : Nat} (hs : Keeps a s) :
    Keeps a (State.settleCurve s c reason).1 := by
  unfold State.settleCurve
  with_reducible repeat' first
    | assumption | apply State.putBit_keeps | simp only [Keeps.mk_eq] | apply KeepsParts.same | split

theorem curveLoad_keeps {a : State} {m : Msg} {s : State} (hs : Keeps a s) :
    Keeps a (curveLoad m s).1 := by
  unfold curveLoad
  with_reducible repeat' first
    | assumption | apply State.settleCurve_keeps | apply State.submitPke_keeps | split

theorem curveRetire_keeps {a : State} {m : Msg} {s : State} (hs : Keeps a s) :
    Keeps a (curveRetire m s).1 := by
  unfold curveRetire
  with_reducible repeat' first
    | assumption | apply State.freeSlots_keeps | apply State.putBit_keeps | simp only [Keeps.mk_eq] | apply KeepsParts.same
    | split

theorem State.installPackage_keeps {a : State} {s : State} {id : Nat} {p : Package} {b : PkgBody} (hs : Keeps a s) :
    Keeps a (State.installPackage s id p b) := by
  unfold State.installPackage
  with_reducible repeat' first
    | assumption | apply State.putBit_keeps | simp only [Keeps.mk_eq] | apply KeepsParts.same

theorem microcodeInstall_keeps {a : State} {m : Msg} {s : State} (hs : Keeps a s) :
    Keeps a (microcodeInstall m s).1 := by
  unfold microcodeInstall
  with_reducible repeat' first
    | assumption | apply State.installPackage_keeps | apply State.rollNext_keeps | apply State.reloadCluster_keeps
    | apply State.showRolling_keeps | apply State.setCluster_keeps | apply State.logAdd_keeps | apply Keeps.foldl | intro _
    | split

theorem State.mendPackage_keeps {a : State} {s : State} {id : Nat} (hs : Keeps a s) :
    Keeps a (State.mendPackage s id) := by
  unfold State.mendPackage
  with_reducible repeat' first
    | assumption | apply State.soft_keeps | simp only [Keeps.mk_eq] | apply KeepsParts.same | split

theorem State.mendPackages_keeps {a : State} {s : State} (hs : Keeps a s) :
    Keeps a (State.mendPackages s) := by
  unfold State.mendPackages
  with_reducible repeat' first
    | assumption | apply State.mendPackage_keeps | apply Keeps.foldl

theorem State.keyFor_keeps {a : State} {s : State} {m : Msg} {usage : Nat} {types : Nat → Bool} (hs : Keeps a s) :
    Keeps a (State.keyFor s m usage types).1 := by
  unfold State.keyFor
  with_reducible repeat' first
    | assumption | apply State.loadHamper_keeps | simp only [Keeps.mk_eq] | split | refine Keeps.fst (by assumption) ?_

theorem State.destDone_keeps {a : State} {s : State} {m : Msg} {y : Yield} {a3x : Option Attr} (hs : Keeps a s) :
    Keeps a (State.destDone s m y a3x).1 := by
  unfold State.destDone
  with_reducible repeat' first
    | assumption | apply State.deliver_keeps | split

theorem keyDerive_keeps {a : State} {m : Msg} {s : State} (hs : Keeps a s) :
    Keeps a (keyDerive m s).1 := by
  unfold keyDerive
  with_reducible repeat' first
    | assumption | apply State.destDone_keeps | apply State.keyFor_keeps | apply State.askSke_keeps | split
    | refine Keeps.fst (by assumption) ?_

theorem State.largeKey_keeps {a : State} {s : State} {m : Msg} {usage : Nat} {typ : Nat} (hs : Keeps a s) :
    Keeps a (State.largeKey s m usage typ).1 := by
  unfold State.largeKey
  with_reducible repeat' first
    | assumption | apply State.openHamper_keeps | split | refine Keeps.fst (by assumption) ?_

theorem signLarge_keeps {a : State} {m : Msg} {s : State} {p : Parts} (hs : Keeps a s) :
    Keeps a (signLarge m s p).1 := by
  unfold signLarge
  with_reducible repeat' first
    | assumption | apply State.largeKey_keeps | apply State.submitPke_keeps | simp only [Keeps.mk_eq] | split
    | refine Keeps.fst (by assumption) ?_

theorem sign_keeps {a : State} {m : Msg} {s : State} (hs : Keeps a s) :
    Keeps a (sign m s).1 := by
  unfold sign
  with_reducible repeat' first
    | assumption | apply signLarge_keeps | apply State.submitPke_keeps | apply State.keyFor_keeps | split
    | refine Keeps.fst (by assumption) ?_

theorem verify_keeps {a : State} {m : Msg} {s : State} (hs : Keeps a s) :
    Keeps a (verify m s).1 := by
  unfold verify
  with_reducible repeat' first
    | assumption | apply State.submitPke_keeps | simp only [Keeps.mk_eq] | split

theorem cipherJob_keeps {a : State} {m : Msg} {s : State} {p : Parts} {enc : Bool} (hs : Keeps a s) :
    Keeps a (cipherJob m s p enc).1 := by
  unfold cipherJob
  with_reducible repeat' first
    | assumption | apply State.keyFor_keeps | apply State.askSke_keeps | simp only [Keeps.mk_eq] | split
    | refine Keeps.fst (by assumption) ?_

theorem rsaEncrypt_keeps {a : State} {m : Msg} {s : State} {p : Parts} (hs : Keeps a s) :
    Keeps a (rsaEncrypt m s p).1 := by
  unfold rsaEncrypt
  with_reducible repeat' first
    | assumption | apply State.submitPke_keeps | simp only [Keeps.mk_eq] | split

theorem encrypt_keeps {a : State} {m : Msg} {s : State} (hs : Keeps a s) :
    Keeps a (encrypt m s).1 := by
  unfold encrypt
  with_reducible repeat' first
    | assumption | apply rsaEncrypt_keeps | apply cipherJob_keeps | simp only [Keeps.mk_eq] | split

theorem rsaDecrypt_keeps {a : State} {m : Msg} {s : State} {p : Parts} (hs : Keeps a s) :
    Keeps a (rsaDecrypt m s p).1 := by
  unfold rsaDecrypt
  with_reducible repeat' first
    | assumption | apply State.largeKey_keeps | apply State.submitPke_keeps | split | refine Keeps.fst (by assumption) ?_

theorem decrypt_keeps {a : State} {m : Msg} {s : State} (hs : Keeps a s) :
    Keeps a (decrypt m s).1 := by
  unfold decrypt
  with_reducible repeat' first
    | assumption | apply rsaDecrypt_keeps | apply cipherJob_keeps | simp only [Keeps.mk_eq] | split

theorem macJob_keeps {a : State} {m : Msg} {s : State} {p : Parts} {usage : Nat} {tag : Bytes} {custom : Bytes} (hs : Keeps a s) :
    Keeps a (macJob m s p usage tag custom).1 := by
  unfold macJob
  with_reducible repeat' first
    | assumption | apply State.keyFor_keeps | apply State.askSke_keeps | split | refine Keeps.fst (by assumption) ?_

theorem macGenerate_keeps {a : State} {m : Msg} {s : State} (hs : Keeps a s) :
    Keeps a (macGenerate m s).1 := by
  unfold macGenerate
  with_reducible repeat' first
    | assumption | apply macJob_keeps | simp only [Keeps.mk_eq] | split

theorem macVerify_keeps {a : State} {m : Msg} {s : State} (hs : Keeps a s) :
    Keeps a (macVerify m s).1 := by
  unfold macVerify
  with_reducible repeat' first
    | assumption | apply macJob_keeps | simp only [Keeps.mk_eq] | split

theorem hash_keeps {a : State} {m : Msg} {s : State} (hs : Keeps a s) :
    Keeps a (hash m s).1 := by
  unfold hash
  with_reducible repeat' first
    | assumption | apply State.askSke_keeps | split

theorem wrapData_keeps {a : State} {m : Msg} {s : State} {wrap : Bool} (hs : Keeps a s) :
    Keeps a (wrapData m s wrap).1 := by
  unfold wrapData
  with_reducible repeat' first
    | assumption | apply State.keyFor_keeps | apply State.askSke_keeps | split | refine Keeps.fst (by assumption) ?_

theorem wrap_keeps {a : State} {m : Msg} {s : State} (hs : Keeps a s) :
    Keeps a (wrap m s).1 := by
  unfold wrap
  with_reducible repeat' first
    | assumption | apply wrapData_keeps

theorem unwrap_keeps {a : State} {m : Msg} {s : State} (hs : Keeps a s) :
    Keeps a (unwrap m s).1 := by
  unfold unwrap
  with_reducible repeat' first
    | assumption | apply wrapData_keeps

theorem agreeSlot_keeps {a : State} {m : Msg} {s : State} {peer : Bytes} (hs : Keeps a s) :
    Keeps a (agreeSlot m s peer).1 := by
  unfold agreeSlot
  with_reducible repeat' first
    | assumption | apply State.submitPke_keeps | apply State.keyFor_keeps | simp only [Keeps.mk_eq] | split
    | refine Keeps.fst (by assumption) ?_

theorem agree_keeps {a : State} {m : Msg} {s : State} (hs : Keeps a s) :
    Keeps a (agree m s).1 := by
  unfold agree
  with_reducible repeat' first
    | assumption | apply agreeSlot_keeps | apply State.largeKey_keeps | apply State.submitPke_keeps | apply State.destDone_keeps
    | split | refine Keeps.fst (by assumption) ?_

theorem encapsulate_keeps {a : State} {m : Msg} {s : State} (hs : Keeps a s) :
    Keeps a (encapsulate m s).1 := by
  unfold encapsulate
  with_reducible repeat' first
    | assumption | apply State.submitPke_keeps | apply State.destDone_keeps | split

theorem decapsulateJob_keeps {a : State} {m : Msg} {s : State} {ct : Bytes} (hs : Keeps a s) :
    Keeps a (decapsulateJob m s ct).1 := by
  unfold decapsulateJob
  with_reducible repeat' first
    | assumption | apply State.largeKey_keeps | apply State.submitPke_keeps | apply State.keyFor_keeps | simp only [Keeps.mk_eq]
    | split | refine Keeps.fst (by assumption) ?_

theorem decapsulate_keeps {a : State} {m : Msg} {s : State} (hs : Keeps a s) :
    Keeps a (decapsulate m s).1 := by
  unfold decapsulate
  with_reducible repeat' first
    | assumption | apply decapsulateJob_keeps | apply State.destDone_keeps | split

theorem arithmeticRun_keeps {a : State} {m : Msg} {s : State} (hs : Keeps a s) :
    Keeps a (arithmeticRun m s).1 := by
  unfold arithmeticRun
  with_reducible repeat' first
    | assumption | apply State.submitPke_keeps | simp only [Keeps.mk_eq] | split

theorem randomGenerate_keeps {a : State} {m : Msg} {s : State} (hs : Keeps a s) :
    Keeps a (randomGenerate m s).1 := by
  unfold randomGenerate
  with_reducible repeat' first
    | assumption | apply State.draw_keeps | split

theorem State.pairPort_keeps {a : State} {s : State} {p : Nat} (hs : Keeps a s) :
    Keeps a (State.pairPort s p) := by
  unfold State.pairPort
  with_reducible repeat' first
    | assumption | apply State.setPortState_keeps | apply State.setPort_keeps

theorem portPair_keeps {a : State} {m : Msg} {s : State} (hs : Keeps a s) :
    Keeps a (portPair m s).1 := by
  unfold portPair
  with_reducible repeat' first
    | assumption | apply State.pairPort_keeps | apply State.hybridSeal_keeps | apply State.lanePart_keeps
    | simp only [Keeps.mk_eq] | split | refine Keeps.fst (by assumption) ?_

theorem replicateOffer_keeps {a : State} {m : Msg} {s : State} (hs : Keeps a s) :
    Keeps a (replicateOffer m s).1 := by
  unfold replicateOffer
  with_reducible repeat' first
    | assumption | apply State.draw_keeps | simp only [Keeps.mk_eq] | apply KeepsParts.same | split

theorem replicateSend_keeps {a : State} {m : Msg} {s : State} (hs : Keeps a s) :
    Keeps a (replicateSend m s).1 := by
  unfold replicateSend
  with_reducible repeat' first
    | assumption | apply State.hybridSeal_keeps | apply State.draw_keeps | simp only [Keeps.mk_eq] | split
    | refine Keeps.fst (by assumption) ?_

theorem replicateAccept_keeps {a : State} {m : Msg} {s : State} (hs : Keeps a s) :
    Keeps a (replicateAccept m s).1 := by
  unfold replicateAccept
  with_reducible repeat' first
    | assumption | apply State.hybridOpen_keeps | apply State.setReplica_keeps | apply State.destroyTenantEntry_keeps
    | simp only [Keeps.mk_eq] | apply KeepsParts.same | split | refine Keeps.fst (by assumption) ?_

theorem State.adoptHamper_keeps {a : State} {s : State} {m : Msg} {page : Bytes} {ref0 : Nat} {h4x : HamperHead} {key : Bytes} (hs : Keeps a s) :
    Keeps a (State.adoptHamper s m page ref0 h4x key).1 := by
  unfold State.adoptHamper
  with_reducible repeat' first
    | assumption | apply State.changePage_keeps | apply State.wrapPart_keeps | simp only [Keeps.mk_eq] | apply KeepsParts.same
    | split | refine Keeps.fst (by assumption) ?_

theorem replicateAdopt_keeps {a : State} {m : Msg} {s : State} (hs : Keeps a s) :
    Keeps a (replicateAdopt m s).1 := by
  unfold replicateAdopt
  with_reducible repeat' first
    | assumption | apply State.adoptHamper_keeps | apply State.stageDone_keeps | apply State.placement_keeps
    | apply State.unwrapKey_keeps | simp only [Keeps.mk_eq] | split | refine Keeps.fst (by assumption) ?_

theorem State.keepPast_keeps {a : State} {s : State} {domain : Nat} {index : Nat} {serial : Nat} (hs : Keeps a s) :
    Keeps a (State.keepPast s domain index serial) := by
  unfold State.keepPast
  with_reducible repeat' first
    | assumption | simp only [Keeps.mk_eq] | apply KeepsParts.same

theorem State.acceptCert_keeps {a : State} {s : State} {b : Bytes} {c : Certificate} (hs : Keeps a s) :
    Keeps a (State.acceptCert s b c) := by
  unfold State.acceptCert
  with_reducible repeat' first
    | assumption | apply State.keepPast_keeps | apply State.put_keeps | simp only [Keeps.mk_eq] | apply KeepsParts.same | split

theorem domainJoin_keeps {a : State} {m : Msg} {s : State} (hs : Keeps a s) :
    Keeps a (domainJoin m s).1 := by
  unfold domainJoin
  with_reducible repeat' first
    | assumption | apply State.acceptCert_keeps | simp only [Keeps.mk_eq] | split

theorem State.tokenSigOk_keeps {a : State} {s : State} {m : Msg} {head : Nat} {context : Bytes} (hs : Keeps a s) :
    Keeps a (State.tokenSigOk s m head context).1 := by
  unfold State.tokenSigOk
  with_reducible repeat' first
    | assumption | apply State.pkePart_keeps | simp only [Keeps.mk_eq] | split | refine Keeps.fst (by assumption) ?_

theorem approvalSubmit_keeps {a : State} {m : Msg} {s : State} (hs : Keeps a s) :
    Keeps a (approvalSubmit m s).1 := by
  unfold approvalSubmit
  with_reducible repeat' first
    | assumption | apply State.tokenSigOk_keeps | apply State.tokenTaken_keeps | apply State.tokenRefused_keeps | split
    | refine Keeps.fst (by assumption) ?_

theorem anchorLoad_keeps {a : State} {m : Msg} {s : State} (hs : Keeps a s) :
    Keeps a (anchorLoad m s).1 := by
  unfold anchorLoad
  with_reducible repeat' first
    | assumption | apply State.anchorTaken_keeps | apply State.anchorRefused_keeps | apply State.tokenSigOk_keeps | split
    | refine Keeps.fst (by assumption) ?_

theorem mainsNominalSet_keeps {a : State} {m : Msg} {s : State} (hs : Keeps a s) :
    Keeps a (mainsNominalSet m s).1 := by
  unfold mainsNominalSet
  with_reducible repeat' first
    | assumption | apply State.limitUsed_keeps | apply State.put_keeps | simp only [Keeps.mk_eq] | apply KeepsParts.same | split

theorem State.tokenFailed_keeps {a : State} {s : State} (hs : Keeps a s) :
    Keeps a (State.tokenFailed s) := by
  unfold State.tokenFailed
  with_reducible repeat' first
    | assumption | apply State.put_keeps | simp only [Keeps.mk_eq] | apply KeepsParts.same

theorem State.stageFielded_keeps {a : State} {s : State} {t : State} (e : State.stageFielded s = some t) (hs : Keeps a s) :
    Keeps a t := by
  unfold State.stageFielded at e
  have h1 : Keeps a (s.stageSets s.life.imageDigest s.raisedCfg.digest 2 true (s.get R.lifeSecurityRunning)).1 :=
    State.stageSets_keeps hs
  split at e
  · cases e
  · rename_i s1 heq
    rw [heq] at h1
    cases e
    exact h1

theorem lifecycleTransition_keeps {a : State} {m : Msg} {s : State} (hs : Keeps a s) :
    Keeps a (lifecycleTransition m s).1 := by
  unfold lifecycleTransition
  split
  · dsimp only
    split
    · exact State.tokenFailed_keeps hs
    · exact hs
  · extract_lets x y
    split
    · exact hs
    · rename_i s1 heq
      have h1 : Keeps a s1 := by
        split at heq
        · exact State.stageFielded_keeps heq hs
        · rw [← Option.some.inj heq]; exact hs
      simp only [Keeps.mk_eq]; exact h1

theorem State.openLevel_keeps {a : State} {s : State} {level : Nat} (hs : Keeps a s) :
    Keeps a (State.openLevel s level) := by
  unfold State.openLevel
  with_reducible repeat' first
    | assumption | apply State.logAdd_keeps | apply State.put_keeps | simp only [Keeps.mk_eq] | apply KeepsParts.same

theorem State.credentialFailed_keeps {a : State} {s : State} (hs : Keeps a s) :
    Keeps a (State.credentialFailed s) := by
  unfold State.credentialFailed
  with_reducible repeat' first
    | assumption | apply State.put_keeps | simp only [Keeps.mk_eq] | apply KeepsParts.same

theorem State.useChallenge_keeps {a : State} {s : State} (hs : Keeps a s) :
    Keeps a (State.useChallenge s) := by
  unfold State.useChallenge
  with_reducible repeat' first
    | assumption | apply State.put_keeps | simp only [Keeps.mk_eq] | apply KeepsParts.same

theorem State.checkCredential_keeps {a : State} {s : State} {level : Nat} {cred : Bytes} (hs : Keeps a s) :
    Keeps a (State.checkCredential s level cred).1 := by
  unfold State.checkCredential
  with_reducible repeat' first
    | assumption | apply State.useChallenge_keeps | apply State.credentialFailed_keeps | simp only [Keeps.mk_eq] | split

theorem debugOpen_keeps {a : State} {m : Msg} {s : State} (hs : Keeps a s) :
    Keeps a (debugOpen m s).1 := by
  unfold debugOpen
  with_reducible repeat' first
    | assumption | apply State.debugClose_keeps | apply State.checkCredential_keeps | apply State.openLevel_keeps
    | simp only [Keeps.mk_eq] | split | refine Keeps.fst (by assumption) ?_

theorem debugChallengeGet_keeps {a : State} {m : Msg} {s : State} (hs : Keeps a s) :
    Keeps a (debugChallengeGet m s).1 := by
  unfold debugChallengeGet
  with_reducible repeat' first
    | assumption | apply State.draw_keeps | apply State.put_keeps | simp only [Keeps.mk_eq] | apply KeepsParts.same | split

theorem debugPasswordSet_keeps {a : State} {m : Msg} {s : State} (hs : Keeps a s) :
    Keeps a (debugPasswordSet m s).1 := by
  unfold debugPasswordSet
  with_reducible repeat' first
    | assumption | apply State.limitUsed_keeps | simp only [Keeps.mk_eq] | apply KeepsParts.same | split

theorem debugKeySet_keeps {a : State} {m : Msg} {s : State} (hs : Keeps a s) :
    Keeps a (debugKeySet m s).1 := by
  unfold debugKeySet
  with_reducible repeat' first
    | assumption | apply State.limitUsed_keeps | simp only [Keeps.mk_eq] | apply KeepsParts.same | split

theorem floorRaise_keeps {a : State} {m : Msg} {s : State} (hs : Keeps a s) :
    Keeps a (floorRaise m s).1 := by
  unfold floorRaise
  with_reducible repeat' first
    | assumption | apply State.zeroPrevious_keeps | apply State.limitUsed_keeps | apply State.put_keeps | simp only [Keeps.mk_eq]
    | apply KeepsParts.same | apply Keeps.foldl | intro _ | split

theorem State.cfgInForce_keeps {a : State} {s : State} (hs : Keeps a s) :
    Keeps a (State.cfgInForce s) := by
  unfold State.cfgInForce
  with_reducible repeat' first
    | assumption | simp only [Keeps.mk_eq] | apply KeepsParts.same | split

theorem configSet_keeps {a : State} {m : Msg} {s : State} (hs : Keeps a s) :
    Keeps a (configSet m s).1 := by
  unfold configSet
  with_reducible repeat' first
    | assumption | apply State.cfgInForce_keeps | apply State.putCfg_keeps | simp only [Keeps.mk_eq] | split
    | refine Keeps.fst (by assumption) ?_

theorem firmwareStage_keeps {a : State} {m : Msg} {s : State} (hs : Keeps a s) :
    Keeps a (firmwareStage m s).1 := by
  unfold firmwareStage
  with_reducible repeat' first
    | assumption | apply State.clearMem_keeps | apply State.writeMem_keeps | apply State.put_keeps | simp only [Keeps.mk_eq]
    | apply KeepsParts.same | split

theorem firmwareActivate_keeps {a : State} {m : Msg} {s : State} (hs : Keeps a s) :
    Keeps a (firmwareActivate m s).1 := by
  unfold firmwareActivate
  with_reducible repeat' first
    | assumption | apply State.stageSets_keeps | simp only [Keeps.mk_eq] | apply KeepsParts.same | split
    | refine Keeps.fst (by assumption) ?_

theorem State.addService_keeps {a : State} {s : State} {m : Msg} {kind : Nat} {part : Nat} {goal : Nat} (hs : Keeps a s) :
    Keeps a (State.addService s m kind part goal).1 := by
  unfold State.addService
  with_reducible repeat' first
    | assumption | simp only [Keeps.mk_eq] | apply KeepsParts.same

theorem serviceFence_keeps {a : State} {m : Msg} {s : State} {x2 : Part} (hs : Keeps a s) :
    Keeps a (serviceFence m s x2).1 := by
  unfold serviceFence
  with_reducible repeat' first
    | assumption | apply State.setMissed_keeps | apply State.showPairs_keeps | apply State.addService_keeps
    | apply State.gateLane_keeps | apply State.gateCluster_keeps | apply State.put_keeps | simp only [Keeps.mk_eq]
    | apply KeepsParts.same | split

theorem State.returnCluster_keeps {a : State} {s : State} {n : Nat} (hs : Keeps a s) :
    Keeps a (State.returnCluster s n) := by
  unfold State.returnCluster
  with_reducible repeat' first
    | assumption | apply State.loadCluster_keeps | apply State.setCluster_keeps | apply State.put_keeps

theorem serviceReturn_keeps {a : State} {m : Msg} {s : State} {x2 : Part} (hs : Keeps a s) :
    Keeps a (serviceReturn m s x2).1 := by
  unfold serviceReturn
  with_reducible repeat' first
    | assumption | apply State.returnCluster_keeps | apply State.pairBack_keeps | apply State.showPairs_keeps
    | apply State.addService_keeps | apply State.gateLane_keeps | apply State.put_keeps | simp only [Keeps.mk_eq]
    | apply KeepsParts.same | split

theorem State.ferryDown_keeps {a : State} {s : State} (hs : Keeps a s) :
    Keeps a (State.ferryDown s) := by
  unfold State.ferryDown
  with_reducible repeat' first
    | assumption | apply State.showPorts_keeps | apply State.put_keeps | simp only [Keeps.mk_eq] | apply KeepsParts.fewer
    | apply Keeps.foldl | intro _

theorem servicePowerOff_keeps {a : State} {m : Msg} {s : State} {x2 : Part} (hs : Keeps a s) :
    Keeps a (servicePowerOff m s x2).1 := by
  unfold servicePowerOff
  with_reducible repeat' first
    | assumption | apply State.ferryDown_keeps | apply State.showPorts_keeps | apply State.addService_keeps
    | apply State.gateCluster_keeps | apply State.put_keeps | simp only [Keeps.mk_eq] | apply KeepsParts.same | apply Keeps.foldl
    | intro _ | split

theorem State.ferryUp_keeps {a : State} {s : State} (hs : Keeps a s) :
    Keeps a (State.ferryUp s) := by
  unfold State.ferryUp
  with_reducible repeat' first
    | assumption | apply State.showPorts_keeps | apply State.put_keeps | simp only [Keeps.mk_eq] | apply KeepsParts.same
    | apply Keeps.foldl | intro _

theorem servicePowerOn_keeps {a : State} {m : Msg} {s : State} {x2 : Part} (hs : Keeps a s) :
    Keeps a (servicePowerOn m s x2).1 := by
  unfold servicePowerOn
  with_reducible repeat' first
    | assumption | apply State.ferryUp_keeps | apply State.showPorts_keeps | apply State.returnCluster_keeps
    | apply State.addService_keeps | apply State.put_keeps | simp only [Keeps.mk_eq] | apply KeepsParts.same | apply Keeps.foldl
    | intro _ | split

theorem serviceRecalibrate_keeps {a : State} {_m : Msg} {s : State} {x2 : Part} (hs : Keeps a s) :
    Keeps a (serviceRecalibrate _m s x2).1 := by
  unfold serviceRecalibrate
  with_reducible repeat' first
    | assumption | apply State.hard_keeps | apply State.drawn_keeps | simp only [Keeps.mk_eq] | apply KeepsParts.same | split

theorem serviceAct_keeps {a : State} {action : Nat} {x1 : Msg} {x2 : State} {x3 : Part} (hx2 : Keeps a x2) :
    Keeps a (serviceAct action x1 x2 x3).1 := by
  unfold serviceAct
  with_reducible repeat' first
    | assumption | apply serviceRecalibrate_keeps | apply servicePowerOn_keeps | apply servicePowerOff_keeps
    | apply serviceReturn_keeps | apply serviceFence_keeps | split

theorem clusterService_keeps {a : State} {m : Msg} {s : State} (hs : Keeps a s) :
    Keeps a (clusterService m s).1 := by
  unfold clusterService
  with_reducible repeat' first
    | assumption | apply serviceAct_keeps | simp only [Keeps.mk_eq] | split

theorem clusterRetire_keeps {a : State} {m : Msg} {s : State} (hs : Keeps a s) :
    Keeps a (clusterRetire m s).1 := by
  unfold clusterRetire
  with_reducible repeat' first
    | assumption | apply State.setClusterState_keeps | apply State.logAdd_keeps | apply State.putBit_keeps
    | simp only [Keeps.mk_eq] | split

theorem State.settleServices_keeps {a : State} {s : State} (hs : Keeps a s) :
    Keeps a (State.settleServices s) := by
  unfold State.settleServices
  with_reducible repeat' first
    | assumption | apply State.complete_keeps | simp only [Keeps.mk_eq] | apply KeepsParts.same | apply Keeps.foldl | intro _
    | split

theorem State.showLife_keeps {a : State} {s : State} {state : Nat} {torn : Bool} (hs : Keeps a s) :
    Keeps a (State.showLife s state torn) := by
  unfold State.showLife
  with_reducible repeat' first
    | assumption | apply State.setDev_keeps | apply State.putB_keeps | apply State.put_keeps

theorem State.settleLife_keeps {a : State} {s : State} (hs : Keeps a s) :
    Keeps a (State.settleLife s) := by
  unfold State.settleLife
  with_reducible repeat' first
    | assumption | apply State.showLife_keeps | simp only [Keeps.mk_eq] | apply KeepsParts.same

theorem State.raiseResponses_keeps {a : State} {s : State} (hs : Keeps a s) :
    Keeps a (State.raiseResponses s) := by
  unfold State.raiseResponses
  with_reducible repeat' first
    | assumption | apply State.put_keeps | apply Keeps.foldl | intro _

theorem State.fieldCfg_keeps {a : State} {s : State} (hs : Keeps a s) :
    Keeps a (State.fieldCfg s) := by
  unfold State.fieldCfg
  with_reducible repeat' first
    | assumption | simp only [Keeps.mk_eq] | apply KeepsParts.same

theorem State.lifeRestart_keeps {a : State} {s : State} (hs : Keeps a s) :
    Keeps a (State.lifeRestart s) := by
  unfold State.lifeRestart
  with_reducible repeat' first
    | assumption | apply State.debugClose_keeps | apply State.regionReset_keeps | apply State.setMailboxes_keeps
    | apply State.noteHealth_keeps | apply State.setDev_keeps | simp only [Keeps.mk_eq] | apply KeepsParts.same
    | apply Keeps.foldl

theorem State.burnIntent_keeps {a : State} {s : State} {a1x : Nat} {b : Nat} (hs : Keeps a s) :
    Keeps a (State.burnIntent s a1x b) := by
  unfold State.burnIntent
  with_reducible repeat' first
    | assumption | simp only [Keeps.mk_eq] | apply KeepsParts.same

theorem State.burnTransition_keeps {a : State} {s0 : State} {a1x : Nat} {b : Nat} (hs0 : Keeps a s0) :
    Keeps a (State.burnTransition s0 a1x b) := by
  unfold State.burnTransition
  with_reducible repeat' first
    | assumption | apply State.burnIntent_keeps | apply State.fieldCfg_keeps | apply State.raiseResponses_keeps
    | apply State.settleLife_keeps | apply State.shredRs_keeps | apply State.logAdd_keeps | apply State.put_keeps
    | simp only [Keeps.mk_eq] | apply KeepsParts.same | split

theorem State.cutTransition_keeps {a : State} {s : State} {cut : Nat} (hs : Keeps a s) :
    Keeps a (State.cutTransition s cut) := by
  unfold State.cutTransition
  with_reducible repeat' first
    | assumption | apply State.burnIntent_keeps | apply State.fieldCfg_keeps | simp only [Keeps.mk_eq] | apply KeepsParts.same
    | split

theorem State.runTransition_keeps {a : State} {s0 : State} {cid : Nat} {a2x : Nat} {b : Nat} (hs0 : Keeps a s0) :
    Keeps a (State.runTransition s0 cid a2x b) := by
  unfold State.runTransition
  with_reducible repeat' first
    | assumption | apply State.burnTransition_keeps | apply State.burnIntent_keeps | apply State.lifeRestart_keeps
    | apply State.dropStaged_keeps | apply State.complete_keeps | simp only [Keeps.mk_eq] | apply KeepsParts.same | split

theorem State.leaveImage_keeps {a : State} {s : State} {n : Nat} (hs : Keeps a s) :
    Keeps a (State.leaveImage s n) := by
  unfold State.leaveImage
  with_reducible repeat' first
    | assumption | apply State.silence_keeps | apply State.idleMbox_keeps | apply State.freeSlots_keeps
    | apply State.closeBatch_keeps | apply State.put_keeps | simp only [Keeps.mk_eq] | apply KeepsParts.same

theorem State.enterImage_keeps {a : State} {s : State} {n : Nat} {set : Nat} (hs : Keeps a s) :
    Keeps a (State.enterImage s n set) := by
  unfold State.enterImage
  with_reducible repeat' first
    | assumption | apply State.openTable_keeps | apply State.logAdd_keeps | apply State.put_keeps | simp only [Keeps.mk_eq]
    | apply KeepsParts.same | split

theorem State.returnImage_keeps {a : State} {s : State} {digest : Bytes} (hs : Keeps a s) :
    Keeps a (State.returnImage s digest) := by
  unfold State.returnImage
  with_reducible repeat' first
    | assumption | apply State.regionReset_keeps | apply State.put_keeps | simp only [Keeps.mk_eq] | apply KeepsParts.same

theorem State.switchImage_keeps {a : State} {s : State} {cid : Nat} {n : Nat} (hs : Keeps a s) :
    Keeps a (State.switchImage s cid n) := by
  unfold State.switchImage
  with_reducible repeat' first
    | assumption | apply State.returnImage_keeps | apply State.enterImage_keeps | apply State.leaveImage_keeps
    | apply State.releaseKeys_keeps | apply State.complete_keeps | simp only [Keeps.mk_eq] | apply KeepsParts.same | split

theorem State.runChange_keeps {a : State} {s : State} (hs : Keeps a s) :
    Keeps a (State.runChange s) := by
  unfold State.runChange
  with_reducible repeat' first
    | assumption | apply State.switchImage_keeps | apply State.runTransition_keeps | split

theorem State.drawSlotValues_keeps {a : State} {s : State} (hs : Keeps a s) :
    Keeps a (State.drawSlotValues s) := by
  unfold State.drawSlotValues
  with_reducible repeat' first
    | assumption | apply State.draw_keeps | apply State.generateMany_keeps | apply State.put_keeps | simp only [Keeps.mk_eq]
    | apply KeepsParts.same | split

theorem State.stop_keeps {a : State} {s : State} {code : Nat} (hs : Keeps a s) :
    Keeps a (State.stop s code) := by
  unfold State.stop
  with_reducible repeat' first
    | assumption | apply State.setMailboxes_keeps | apply State.put_keeps

theorem State.takeBank_keeps {a : State} {s : State} {f : BootFacts} {n : Nat} (hs : Keeps a s) :
    Keeps a (State.takeBank s f n) := by
  unfold State.takeBank
  with_reducible repeat' first
    | assumption | apply State.putB_keeps | apply State.put_keeps | simp only [Keeps.mk_eq] | apply KeepsParts.same
    | apply Keeps.foldl | intro _

theorem State.chooseBank_keeps {a : State} {s : State} {f : BootFacts} (hs : Keeps a s) :
    Keeps a (State.chooseBank s f).1 := by
  unfold State.chooseBank
  with_reducible repeat' first
    | assumption | apply State.takeBank_keeps | apply State.put_keeps | simp only [Keeps.mk_eq] | apply KeepsParts.same | split

theorem State.measure_keeps {a : State} {s : State} {f : BootFacts} (hs : Keeps a s) :
    Keeps a (State.measure s f) := by
  unfold State.measure
  with_reducible repeat' first
    | assumption | apply State.drawn_keeps | simp only [Keeps.mk_eq] | apply KeepsParts.same

theorem State.badCopies_keeps {a : State} {s : State} {f : BootFacts} (hs : Keeps a s) :
    Keeps a (State.badCopies s f) := by
  unfold State.badCopies
  with_reducible repeat' first
    | assumption | apply State.soft_keeps | split

theorem State.unlockKeys_keeps {a : State} {s : State} {f : BootFacts} (hs : Keeps a s) :
    Keeps a (State.unlockKeys s f).1 := by
  unfold State.unlockKeys
  with_reducible repeat' first
    | assumption | apply State.openRoots_keeps | apply State.defaultCfg_keeps | apply State.releaseKeys_keeps
    | apply State.badCopies_keeps | apply State.putB_keeps | simp only [Keeps.mk_eq] | split

theorem State.stricter_keeps {a : State} {s : State} (hs : Keeps a s) :
    Keeps a (State.stricter s) := by
  unfold State.stricter
  with_reducible repeat' first
    | assumption | apply State.putCfg_keeps | apply State.put_keeps | simp only [Keeps.mk_eq] | apply Keeps.foldl | intro _
    | split

theorem State.copyRecords_keeps {a : State} {s : State} (hs : Keeps a s) :
    Keeps a (State.copyRecords s) := by
  unfold State.copyRecords
  with_reducible repeat' first
    | assumption | apply State.copyPocket_keeps | apply State.logAdd_keeps | simp only [Keeps.mk_eq] | apply KeepsParts.same
    | apply Keeps.foldl | intro _ | split

theorem State.settleMirror_keeps {a : State} {s : State} (hs : Keeps a s) :
    Keeps a (State.settleMirror s) := by
  unfold State.settleMirror
  with_reducible repeat' first
    | assumption | apply State.logAdd_keeps | simp only [Keeps.mk_eq] | apply KeepsParts.same | apply Keeps.foldl | intro _

theorem State.testCustodians_keeps {a : State} {s : State} {f : BootFacts} (hs : Keeps a s) :
    Keeps a (State.testCustodians s f) := by
  unfold State.testCustodians
  with_reducible repeat' first
    | assumption | apply State.logAdd_keeps | simp only [Keeps.mk_eq] | apply KeepsParts.same | split

theorem State.startPorts_keeps {a : State} {s : State} (hs : Keeps a s) :
    Keeps a (State.startPorts s) := by
  unfold State.startPorts
  with_reducible repeat' first
    | assumption | apply State.setPortState_keeps | apply Keeps.foldl | intro _ | split

theorem State.custodyServes_keeps {a : State} {s : State} (hs : Keeps a s) :
    Keeps a (State.custodyServes s) := by
  unfold State.custodyServes
  with_reducible repeat' first
    | assumption | apply State.nonceStart_keeps | apply State.freePosted_keeps | apply State.commitDevice_keeps
    | apply State.drawSlotValues_keeps | apply State.pairBack_keeps | apply State.reloading_keeps | apply State.setCustodyUp_keeps
    | apply State.put_keeps | simp only [Keeps.mk_eq] | apply KeepsParts.same

theorem State.reloadWaypoints_keeps {a : State} {s : State} (hs : Keeps a s) :
    Keeps a (State.reloadWaypoints s) := by
  unfold State.reloadWaypoints
  with_reducible repeat' first
    | assumption | apply State.firePassed_keeps | apply State.setArmed_keeps | apply Keeps.foldl | intro _

theorem State.startRegions_keeps {a : State} {s : State} (hs : Keeps a s) :
    Keeps a (State.startRegions s) := by
  unfold State.startRegions
  with_reducible repeat' first
    | assumption | apply State.loadCluster_keeps | apply State.setLaneState_keeps | apply State.setClusterState_keeps
    | simp only [Keeps.mk_eq] | apply KeepsParts.same | apply Keeps.foldl | intro _ | split

theorem State.finishBoot_keeps {a : State} {s : State} {f : BootFacts} (hs : Keeps a s) :
    Keeps a (State.finishBoot s f) := by
  unfold State.finishBoot
  with_reducible repeat' first
    | assumption | apply State.commitStanding_keeps | apply State.finishIntents_keeps | apply State.mendPackages_keeps
    | apply State.setMboxEnabled_keeps | apply State.seedDelays_keeps | apply State.fillFifo_keeps
    | apply State.startRegions_keeps | apply State.reloadWaypoints_keeps | apply State.custodyServes_keeps
    | apply State.startPorts_keeps | apply State.testCustodians_keeps | apply State.settleMirror_keeps
    | apply State.copyRecords_keeps | apply State.stricter_keeps | apply State.showPairs_keeps | apply State.cfgInForce_keeps
    | apply State.reopen_keeps | apply State.setMailboxes_keeps | apply State.noteHealth_keeps | apply State.setDev_keeps
    | apply State.put_keeps | simp only [Keeps.mk_eq] | apply KeepsParts.same | split

theorem State.bootImage_keeps {a : State} {s : State} {f : BootFacts} (hs : Keeps a s) :
    Keeps a (State.bootImage s f) := by
  unfold State.bootImage
  with_reducible repeat' first
    | assumption | apply State.finishBoot_keeps | apply State.unlockKeys_keeps | apply State.measure_keeps
    | apply State.chooseBank_keeps | apply State.stop_keeps | split | refine Keeps.fst (by assumption) ?_

theorem State.bootSecret_keeps {a : State} {s : State} {f : BootFacts} (hs : Keeps a s) :
    Keeps a (State.bootSecret s f) := by
  unfold State.bootSecret
  with_reducible repeat' first
    | assumption | apply State.genRs_keeps | apply State.bootImage_keeps | apply State.stop_keeps | apply State.put_keeps
    | simp only [Keeps.mk_eq] | apply KeepsParts.same | split | refine Keeps.fst (by assumption) ?_

theorem State.bootEntropy_keeps {a : State} {s : State} {f : BootFacts} (hs : Keeps a s) :
    Keeps a (State.bootEntropy s f) := by
  unfold State.bootEntropy
  with_reducible repeat' first
    | assumption | apply State.bootSecret_keeps | apply State.draw_keeps | simp only [Keeps.mk_eq] | apply KeepsParts.same | split

theorem State.slotsLost_keeps {a : State} {s : State} (hs : Keeps a s) :
    Keeps a (State.slotsLost s) := by
  unfold State.slotsLost
  with_reducible repeat' first
    | assumption | apply State.notice_keeps | apply Keeps.foldl | intro _ | split

theorem State.restartEnd_keeps {a : State} {s0 : State} {f : BootFacts} (hs0 : Keeps a s0) :
    Keeps a (State.restartEnd s0 f) := by
  unfold State.restartEnd
  with_reducible repeat' first
    | assumption | apply State.slotsLost_keeps | apply State.finishIntents_keeps | apply State.custodyServes_keeps
    | apply State.testCustodians_keeps | apply State.copyRecords_keeps | apply State.stricter_keeps | apply State.unlockKeys_keeps
    | apply State.measure_keeps | apply State.takeBank_keeps | apply State.stop_keeps | apply State.cfgInForce_keeps
    | apply State.reopen_keeps | apply State.noteHealth_keeps | apply State.put_keeps | simp only [Keeps.mk_eq]
    | apply KeepsParts.same | split | refine Keeps.fst (by assumption) ?_

theorem State.resumeBoot_keeps {a : State} {s : State} (hs : Keeps a s) :
    Keeps a (State.resumeBoot s) := by
  unfold State.resumeBoot
  with_reducible repeat' first
    | assumption | apply State.restartEnd_keeps | apply State.bootEntropy_keeps | split

theorem State.baseReset_keeps {a : State} {s0 : State} (hs0 : Keeps a s0) :
    Keeps a (State.baseReset s0) := by
  unfold State.baseReset
  with_reducible repeat' first
    | assumption | apply State.keepMem_keeps | apply State.warmRange_keeps | apply State.put_keeps | simp only [Keeps.mk_eq]
    | apply KeepsParts.same

theorem State.scrapped_keeps {a : State} {s : State} (hs : Keeps a s) :
    Keeps a (State.scrapped s) := by
  unfold State.scrapped
  with_reducible repeat' first
    | assumption | apply State.stop_keeps | apply State.setArmed_keeps | apply State.put_keeps | simp only [Keeps.mk_eq]
    | apply KeepsParts.same | apply Keeps.foldl | intro _

theorem State.firstWindows_keeps {a : State} {s : State} (hs : Keeps a s) :
    Keeps a (State.firstWindows s) := by
  unfold State.firstWindows
  with_reducible repeat' first
    | assumption | apply State.showPool_keeps | apply State.incMod_keeps | apply State.put_keeps | simp only [Keeps.mk_eq]
    | apply KeepsParts.draws | apply Keeps.foldl | intro _ | split

theorem State.startTrng_keeps {a : State} {s : State} {f : BootFacts} (hs : Keeps a s) :
    Keeps a (State.startTrng s f) := by
  unfold State.startTrng
  with_reducible repeat' first
    | assumption | apply State.keeperStart_keeps | apply State.katEnd_keeps | apply State.startSources_keeps
    | apply State.instantiate_keeps | apply State.firstWindows_keeps | apply State.settleTrng_keeps | simp only [Keeps.mk_eq]
    | apply KeepsParts.same | split

theorem State.sampleStraps_keeps {a : State} {s : State} {f : BootFacts} (hs : Keeps a s) :
    Keeps a (State.sampleStraps s f) := by
  unfold State.sampleStraps
  with_reducible repeat' first
    | assumption | apply State.putB_keeps | apply State.put_keeps | simp only [Keeps.mk_eq] | apply KeepsParts.same

theorem State.boot_keeps {a : State} {s : State} {f : BootFacts} (hs : Keeps a s) :
    Keeps a (State.boot s f) := by
  unfold State.boot
  with_reducible repeat' first
    | assumption | apply State.startParts_keeps | apply State.settleLife_keeps | apply State.sampleStraps_keeps
    | apply State.startTrng_keeps | apply State.scrapped_keeps | apply State.bootEntropy_keeps | apply State.shredRs_keeps
    | apply State.setDev_keeps | apply State.put_keeps | simp only [Keeps.mk_eq] | apply KeepsParts.same | split

end Sys2Proof.Machine
end

