-- ==== Sys2Proof/Laws/KeepsCommands.lean ====
section
/-! SUPPORT. `Keeps` for the command path and the rings: one lemma per operation that answers a state,
each proved from the lemmas of the operations it calls. -/

set_option linter.unusedSimpArgs false

namespace Sys2Proof.Machine

theorem keyAct_keeps {a : State} {m : Msg} {s : State} (hs : Keeps a s) :
    Keeps a (keyAct m s).1 := by
  unfold keyAct
  with_reducible repeat' first
    | assumption | apply attestationSign_keeps | apply attestationAnswer_keeps | apply identityGet_keeps
    | apply deviceInfoGet_keeps | apply lift_keeps | apply keyPublicGet_keeps | apply keyExport_keeps | apply keyImport_keeps
    | apply keyGenerate_keeps | apply rotateKey_keeps | apply nonceLimitSet_keeps | apply hamperReclaim_keeps
    | apply hamperRevoke_keeps | apply hamperRewrap_keeps | apply slotFree_keeps | apply hamperLoad_keeps | apply keyDerive_keeps
    | split

theorem cryptoAct_keeps {a : State} {m : Msg} {s : State} (hs : Keeps a s) :
    Keeps a (cryptoAct m s).1 := by
  unfold cryptoAct
  with_reducible repeat' first
    | assumption | apply randomGenerate_keeps | apply arithmeticRun_keeps | apply decapsulate_keeps | apply encapsulate_keeps
    | apply agree_keeps | apply unwrap_keeps | apply wrap_keeps | apply hash_keeps | apply macVerify_keeps
    | apply macGenerate_keeps | apply decrypt_keeps | apply encrypt_keeps | apply verify_keeps | apply sign_keeps | split

theorem tenantAct_keeps {a : State} {m : Msg} {s : State} (hs : Keeps a s) :
    Keeps a (tenantAct m s).1 := by
  unfold tenantAct
  with_reducible repeat' first
    | assumption | apply anchorLoad_keeps | apply approvalSubmit_keeps | apply tenantInfoGet_keeps | apply tenantUnlock_keeps
    | apply instanceBind_keeps | apply generationRetire_keeps | apply generationRoll_keeps | apply tenantPolicySet_keeps
    | apply tenantQuotaSet_keeps | apply tenantDelete_keeps | apply tenantCreate_keeps | apply operationCancel_keeps
    | apply operationStatusGet_keeps | apply quorumPolicySet_keeps | apply custodianRemove_keeps | apply custodianEnrol_keeps
    | apply mainsNominalSet_keeps | apply portPair_keeps | apply waypointClear_keeps | apply waypointSet_keeps
    | apply timeGet_keeps | apply lift_keeps | split

theorem replicate_keeps {a : State} {m : Msg} {s : State} (hs : Keeps a s) :
    Keeps a (replicate m s).1 := by
  unfold replicate
  with_reducible repeat' first
    | assumption | apply replicateAdopt_keeps | apply replicateAccept_keeps | apply replicateSend_keeps
    | apply replicateOffer_keeps | split

theorem deviceAct_keeps {a : State} {m : Msg} {s : State} (hs : Keeps a s) :
    Keeps a (deviceAct m s).1 := by
  unfold deviceAct
  with_reducible repeat' first
    | assumption | apply tamperResponseSet_keeps | apply deviceUnlock_keeps | apply journalAttach_keeps | apply logClear_keeps
    | apply logThawCmd_keeps | apply logFreeze_keeps | apply logRead_keeps | apply clusterRetire_keeps
    | apply clusterService_keeps | apply firmwareActivate_keeps | apply firmwareStage_keeps | apply configSet_keeps
    | apply floorRaise_keeps | apply debugKeySet_keeps | apply debugPasswordSet_keeps | apply debugChallengeGet_keeps
    | apply debugOpen_keeps | apply lifecycleTransition_keeps | apply microcodeInstall_keeps | apply curveRetire_keeps
    | apply curveLoad_keeps | apply attestationKeyProvision_keeps | apply storeFormat_keeps | apply storeAttach_keeps
    | apply storePrune_keeps | apply storeRecheck_keeps | apply storeReclaimRange_keeps | apply noiseRecalibrate_keeps
    | apply domainJoin_keeps | apply replicate_keeps | apply lift_keeps | split

theorem actOf_keeps {a : State} {m : Msg} {s : State} (hs : Keeps a s) :
    Keeps a (actOf m s).1 := by
  unfold actOf
  with_reducible repeat' first
    | assumption | apply deviceAct_keeps | apply tenantAct_keeps | apply cryptoAct_keeps | apply keyAct_keeps | split

theorem act_keeps {a : State} {m : Msg} {s : State} (hs : Keeps a s) :
    Keeps a (act m s).1 := by
  unfold act
  with_reducible repeat' first
    | assumption | apply actOf_keeps | simp only [Keeps.mk_eq] | split

theorem State.settleAnswer_keeps {a : State} {s : State} {cid : Nat} {a2x : Answer} (hs : Keeps a s) :
    Keeps a (State.settleAnswer s cid a2x) := by
  unfold State.settleAnswer
  with_reducible repeat' first
    | assumption | apply State.complete_keeps | apply State.setStage_keeps | simp only [Keeps.mk_eq] | apply KeepsParts.same
    | split

theorem State.runAct_keeps {a : State} {s : State} {cid : Nat} {m : Msg} (hs : Keeps a s) :
    Keeps a (State.runAct s cid m) := by
  unfold State.runAct
  with_reducible repeat' first
    | assumption | apply State.pageOverlay_keeps | apply State.settleAnswer_keeps | apply act_keeps | split

theorem State.sendCommand_keeps {a : State} {s : State} {cid : Nat} {m : Msg} (hs : Keeps a s) :
    Keeps a (State.sendCommand s cid m) := by
  unfold State.sendCommand
  with_reducible repeat' first
    | assumption | apply State.sendMessage_keeps | apply State.put_keeps | simp only [Keeps.mk_eq] | apply KeepsParts.same

theorem State.forward_keeps {a : State} {s : State} {cid : Nat} {m : Msg} (hs : Keeps a s) :
    Keeps a (State.forward s cid m) := by
  unfold State.forward
  with_reducible repeat' first
    | assumption | apply State.sendCommand_keeps | apply State.setStage_keeps | simp only [Keeps.mk_eq] | apply KeepsParts.same
    | split

theorem early_keeps {a : State} {m : Msg} {s : State} {t : State} {v} (e : early m s = some (t, v)) (hs : Keeps a s) :
    Keeps a t := by
  unfold early at e
  have h1 : Keeps a (actOf m s).1 := actOf_keeps hs
  split at e
  · rename_i s1 r heq
    rw [heq] at h1
    split at e
    · cases e; exact h1
    · split at e
      · cases e; exact hs
      · cases e
  · cases e

theorem State.pendAct_keeps {a : State} {s : State} {cid : Nat} {m : Msg} {cls : Nat} {tenant : Nat} {pp : Bool} (hs : Keeps a s) :
    Keeps a (State.pendAct s cid m cls tenant pp) := by
  unfold State.pendAct
  with_reducible repeat' first
    | assumption | apply State.openSlot_keeps | refine early_keeps (by assumption) ?_ | apply State.useChallenge_keeps
    | apply State.complete_keeps | simp only [Keeps.mk_eq] | split

theorem State.launch_keeps {a : State} {s : State} {cid : Nat} (hs : Keeps a s) :
    Keeps a (State.launch s cid) := by
  unfold State.launch
  with_reducible repeat' first
    | assumption | apply State.pendAct_keeps | apply State.forward_keeps | apply State.runAct_keeps
    | apply State.showInbound_keeps | apply State.complete_keeps | apply State.setStage_keeps | split

theorem State.readPayload_keeps {a : State} {s : State} {cid : Nat} {m : Msg} (hs : Keeps a s) :
    Keeps a (State.readPayload s cid m) := by
  unfold State.readPayload
  with_reducible repeat' first
    | assumption | apply State.accessFailed_keeps | apply State.access_keeps | apply State.setStage_keeps
    | simp only [Keeps.mk_eq] | split | refine Keeps.fst (by assumption) ?_

theorem State.begin_keeps {a : State} {s : State} {cid : Nat} {fetch : Bool} (hs : Keeps a s) :
    Keeps a (State.begin s cid fetch) := by
  unfold State.begin
  with_reducible repeat' first
    | assumption | apply State.readPayload_keeps | apply State.launch_keeps | apply State.complete_keeps | split

theorem State.runChains_keeps {a : State} {s : State} {n : Nat} {x2 : Nat} (hs : Keeps a s) :
    Keeps a (State.runChains s n x2) := by
  induction x2 generalizing s n with
  | zero =>
    unfold State.runChains
    with_reducible repeat' first
      | assumption | apply State.begin_keeps | apply State.nextEntry_keeps | apply State.complete_keeps | split
      | refine Keeps.fst (by assumption) ?_
  | succ k ih =>
    unfold State.runChains
    with_reducible repeat' first
      | assumption | apply ih | apply State.begin_keeps | apply State.nextEntry_keeps | apply State.complete_keeps | split
      | refine Keeps.fst (by assumption) ?_

theorem State.advanceChains_keeps {a : State} {s : State} (hs : Keeps a s) :
    Keeps a (State.advanceChains s) := by
  unfold State.advanceChains
  with_reducible repeat' first
    | assumption | apply State.runChains_keeps | apply Keeps.foldl | intro _ | split

theorem State.rerun_keeps {a : State} {s : State} {cid : Nat} {x2 : Nat} (hs : Keeps a s) :
    Keeps a (State.rerun s cid x2) := by
  induction x2 generalizing s cid with
  | zero =>
    unfold State.rerun
    with_reducible repeat' first
      | assumption | apply State.runAct_keeps | apply State.complete_keeps | simp only [Keeps.mk_eq] | split
  | succ k ih =>
    unfold State.rerun
    with_reducible repeat' first
      | assumption | apply ih | apply State.runAct_keeps | apply State.complete_keeps | simp only [Keeps.mk_eq] | split

theorem State.dropFetched_keeps {a : State} {s : State} (hs : Keeps a s) :
    Keeps a (State.dropFetched s) := by
  unfold State.dropFetched
  with_reducible repeat' first
    | assumption | simp only [Keeps.mk_eq] | apply KeepsParts.same

theorem State.storeWork_keeps {a : State} {s : State} (hs : Keeps a s) :
    Keeps a (State.storeWork s) := by
  unfold State.storeWork
  with_reducible repeat' first
    | assumption | apply State.prefillStep_keeps | apply State.serveUnposted_keeps | apply State.postPlain_keeps
    | apply State.barrier_keeps

theorem State.ownWork_keeps {a : State} {s : State} (hs : Keeps a s) :
    Keeps a (State.ownWork s) := by
  unfold State.ownWork
  with_reducible repeat' first
    | assumption | apply State.settleServices_keeps | apply State.resumeBoot_keeps | apply State.seedDelays_keeps
    | apply State.drawSlotValues_keeps | apply State.releaseStaged_keeps | split

theorem State.resumeHeld_keeps {a : State} {s : State} (hs : Keeps a s) :
    Keeps a (State.resumeHeld s) := by
  unfold State.resumeHeld
  with_reducible repeat' first
    | assumption | apply State.launch_keeps | apply State.showInbound_keeps | apply State.setStage_keeps | apply Keeps.foldl
    | intro _ | split

theorem State.pump_keeps {a : State} {s : State} (hs : Keeps a s) :
    Keeps a (State.pump s) := by
  unfold State.pump
  with_reducible repeat' first
    | assumption | apply State.resumeHeld_keeps | apply State.ownWork_keeps | apply State.storeWork_keeps
    | apply State.dropFetched_keeps | apply State.rerun_keeps | apply State.advanceChains_keeps | apply Keeps.foldl | intro _
    | split

theorem State.toMbox_keeps {a : State} {s : State} {r : Requester} {fn : Nat} {box : Nat} {m : Msg} (hs : Keeps a s) :
    Keeps a (State.toMbox s r fn box m) := by
  unfold State.toMbox
  with_reducible repeat' first
    | assumption | apply State.pump_keeps | apply State.begin_keeps | apply State.take_keeps | apply State.accessErr_keeps
    | apply State.put_keeps | simp only [Keeps.mk_eq] | split

theorem State.sendQueued_keeps {a : State} {s : State} {n : Nat} (hs : Keeps a s) :
    Keeps a (State.sendQueued s n) := by
  unfold State.sendQueued
  with_reducible repeat' first
    | assumption | apply State.sendCommand_keeps | simp only [Keeps.mk_eq] | apply KeepsParts.same | split

theorem State.sendAllQueued_keeps {a : State} {s : State} (hs : Keeps a s) :
    Keeps a (State.sendAllQueued s) := by
  unfold State.sendAllQueued
  with_reducible repeat' first
    | assumption | apply State.sendQueued_keeps | apply Keeps.foldl | intro _

theorem State.toRing_keeps {a : State} {s : State} {sq : Nat} {m : Msg} (hs : Keeps a s) :
    Keeps a (State.toRing s sq m) := by
  unfold State.toRing
  with_reducible repeat' first
    | assumption | apply State.takenUp_keeps | apply State.pump_keeps | apply State.begin_keeps | apply State.take_keeps | split

theorem State.go_keeps {a : State} {s : State} {r : Requester} {fn : Nat} {box : Nat} (hs : Keeps a s) :
    Keeps a (State.go s r fn box) := by
  unfold State.go
  with_reducible repeat' first
    | assumption | apply State.toMbox_keeps

theorem State.ack_keeps {a : State} {s : State} {fn : Nat} {box : Nat} (hs : Keeps a s) :
    Keeps a (State.ack s fn box) := by
  unfold State.ack
  with_reducible repeat' first
    | assumption | apply State.put_keeps | split

theorem State.abortRunning_keeps {a : State} {s : State} {cid : Nat} {status : Nat} (hs : Keeps a s) :
    Keeps a (State.abortRunning s cid status) := by
  unfold State.abortRunning
  with_reducible repeat' first
    | assumption | apply State.stopSke_keeps | apply State.abortPke_keeps | split

theorem State.abortCmd_keeps {a : State} {s : State} {cid : Nat} {c : Cmd} (hs : Keeps a s) :
    Keeps a (State.abortCmd s cid c) := by
  unfold State.abortCmd
  with_reducible repeat' first
    | assumption | apply State.abortRunning_keeps | apply State.showInbound_keeps | apply State.dropQueue_keeps
    | apply State.complete_keeps | simp only [Keeps.mk_eq] | apply KeepsParts.same | split

theorem State.abort_keeps {a : State} {s : State} {fn : Nat} {box : Nat} (hs : Keeps a s) :
    Keeps a (State.abort s fn box) := by
  unfold State.abort
  with_reducible repeat' first
    | assumption | apply State.abortCmd_keeps | apply State.pump_keeps | split

theorem State.qengCommit_keeps {a : State} {s : State} {group : Nat} (hs : Keeps a s) :
    Keeps a (State.qengCommit s group) := by
  unfold State.qengCommit
  with_reducible repeat' first
    | assumption | apply State.applyShadows_keeps | apply State.commitResult_keeps | simp only [Keeps.mk_eq] | split

theorem State.consume_keeps {a : State} {s : State} {n : Nat} {q : Sq} {k : Nat} (hs : Keeps a s) :
    Keeps a (State.consume s n q k) := by
  unfold State.consume
  with_reducible repeat' first
    | assumption | apply State.setSq_keeps | apply State.takenUp_keeps | apply Keeps.foldl | intro _

theorem State.useRelease_keeps {a : State} {s : State} {n : Nat} (hs : Keeps a s) :
    Keeps a (State.useRelease s n) := by
  unfold State.useRelease
  with_reducible repeat' first
    | assumption | simp only [Keeps.mk_eq] | apply KeepsParts.same | split

theorem State.takeHead_keeps {a : State} {s0 : State} {n : Nat} (hs0 : Keeps a s0) :
    Keeps a (State.takeHead s0 n) := by
  unfold State.takeHead
  with_reducible repeat' first
    | assumption | apply State.useRelease_keeps | apply State.consume_keeps | apply State.runChains_keeps
    | apply State.begin_keeps | apply State.take_keeps | apply State.complete_keeps | simp only [Keeps.mk_eq]
    | apply KeepsParts.same | split

theorem State.takeBurst_keeps {a : State} {s : State} {n : Nat} {x2 : Nat} (hs : Keeps a s) :
    Keeps a (State.takeBurst s n x2) := by
  induction x2 generalizing s n with
  | zero =>
    unfold State.takeBurst
    with_reducible repeat' first
      | assumption | apply State.takeHead_keeps | split
  | succ k ih =>
    unfold State.takeBurst
    with_reducible repeat' first
      | assumption | apply ih | apply State.takeHead_keeps | split

theorem State.pass_keeps {a : State} {s : State} {order : List Nat} {p : Nat} (hs : Keeps a s) :
    Keeps a (State.pass s order p) := by
  unfold State.pass
  with_reducible repeat' first
    | assumption | apply State.takeBurst_keeps | apply Keeps.foldl | intro _ | split

theorem State.passes_keeps {a : State} {s : State} {order : List Nat} {p : Nat} {x3 : Nat} (hs : Keeps a s) :
    Keeps a (State.passes s order p x3) := by
  induction x3 generalizing s order p with
  | zero =>
    unfold State.passes
    with_reducible repeat' first
      | assumption | apply State.pass_keeps | simp only [Keeps.mk_eq] | split
  | succ k ih =>
    unfold State.passes
    with_reducible repeat' first
      | assumption | apply ih | apply State.pass_keeps | simp only [Keeps.mk_eq] | split

theorem State.rebase_keeps {a : State} {s : State} {ske : Bool} (hs : Keeps a s) :
    Keeps a (State.rebase s ske) := by
  unfold State.rebase
  with_reducible repeat' first
    | assumption | simp only [Keeps.mk_eq] | apply KeepsParts.same | split

theorem State.roundEnd_keeps {a : State} {s : State} (hs : Keeps a s) :
    Keeps a (State.roundEnd s) := by
  unfold State.roundEnd
  with_reducible repeat' first
    | assumption | apply State.rebase_keeps | apply State.qengCommit_keeps | simp only [Keeps.mk_eq] | apply KeepsParts.same

theorem State.writeCons_keeps {a : State} {s : State} {n : Nat} {q : Sq} (hs : Keeps a s) :
    Keeps a (State.writeCons s n q) := by
  unfold State.writeCons
  with_reducible repeat' first
    | assumption | apply State.queueError_keeps | apply State.access_keeps | split | refine Keeps.fst (by assumption) ?_

theorem State.fetchHead_keeps {a : State} {s : State} {n : Nat} (hs : Keeps a s) :
    Keeps a (State.fetchHead s n) := by
  unfold State.fetchHead
  with_reducible repeat' first
    | assumption | apply State.fetchEntry_keeps | simp only [Keeps.mk_eq] | apply KeepsParts.same | split

theorem State.afterTake_keeps {a : State} {s : State} {was : Amap Sq} (hs : Keeps a s) :
    Keeps a (State.afterTake s was) := by
  unfold State.afterTake
  with_reducible repeat' first
    | assumption | apply State.fetchHead_keeps | apply State.writeCons_keeps | apply State.prefetch_keeps | apply Keeps.foldl
    | intro _ | split

theorem State.round_keeps {a : State} {s : State} (hs : Keeps a s) :
    Keeps a (State.round s) := by
  unfold State.round
  with_reducible repeat' first
    | assumption | apply State.afterTake_keeps | apply State.roundEnd_keeps | apply State.passes_keeps | apply State.pump_keeps
    | apply State.incMod_keeps | simp only [Keeps.mk_eq] | apply KeepsParts.same | split

theorem State.wrote_keeps {a : State} {s : State} {p : Purpose} (hs : Keeps a s) :
    Keeps a (State.wrote s p) := by
  unfold State.wrote
  with_reducible repeat' first
    | assumption | apply State.postOn_keeps | apply State.ringDone_keeps | apply State.barrier_keeps | apply State.cqDrain_keeps
    | apply State.cqWritten_keeps | split

theorem State.gotData_keeps {a : State} {s : State} {a1x : Access} {bs : Bytes} (hs : Keeps a s) :
    Keeps a (State.gotData s a1x bs) := by
  unfold State.gotData
  with_reducible repeat' first
    | assumption | apply State.setSq_keeps | apply State.launch_keeps | apply State.sendMessage_keeps | simp only [Keeps.mk_eq]
    | apply KeepsParts.same | split

theorem State.fillTlb_keeps {a : State} {s : State} {fn : Nat} {win : Nat} {page : Nat} {entry : Nat} (hs : Keeps a s) :
    Keeps a (State.fillTlb s fn win page entry) := by
  unfold State.fillTlb
  with_reducible repeat' first
    | assumption | apply State.put_keeps | simp only [Keeps.mk_eq] | apply KeepsParts.same

theorem State.readDone_keeps {a : State} {s : State} {id : Nat} {r : HostData} (hs : Keeps a s) :
    Keeps a (State.readDone s id r) := by
  unfold State.readDone
  with_reducible repeat' first
    | assumption | apply State.fillTlb_keeps | apply State.gotData_keeps | apply State.wrote_keeps | apply State.readFailed_keeps
    | apply State.pump_keeps | apply State.accessFailed_keeps | apply State.access_keeps | simp only [Keeps.mk_eq]
    | apply KeepsParts.same | split | refine Keeps.fst (by assumption) ?_

end Sys2Proof.Machine
end

