-- ==== Sys2Proof/Laws/KeepsRegs.lean ====
section
/-! SUPPORT. `Keeps` for register access, the pair and region checks, the event rows, the Ferry, the BAR windows and the idle cycle: one lemma per operation that answers a state,
each proved from the lemmas of the operations it calls. -/

set_option linter.unusedSimpArgs false

namespace Sys2Proof.Machine

theorem State.onward_keeps {a : State} {s : State} (hs : Keeps a s) :
    Keeps a (State.onward s) := by
  unfold State.onward
  with_reducible repeat' first
    | assumption | apply State.pump_keeps | apply State.dispatchPke_keeps

theorem State.emptyRead_keeps {a : State} {s : State} {r : Requester} (hs : Keeps a s) :
    Keeps a (State.emptyRead s r) := by
  unfold State.emptyRead
  with_reducible repeat' first
    | assumption | apply State.putB_keeps | apply State.incSat_keeps | apply State.sqcJournal_keeps | apply State.put_keeps
    | simp only [Keeps.mk_eq] | apply KeepsParts.same | intro _

theorem State.popRandom_keeps {a : State} {s : State} {r : Requester} (hs : Keeps a s) :
    Keeps a (State.popRandom s r).1 := by
  unfold State.popRandom
  with_reducible repeat' first
    | assumption | apply State.emptyRead_keeps | apply State.fillFifo_keeps | simp only [Keeps.mk_eq] | apply KeepsParts.same
    | split

theorem State.readWide_keeps {a : State} {s : State} {r : Requester} {off : Nat} (hs : Keeps a s) :
    Keeps a (State.readWide s r off).1 := by
  unfold State.readWide
  with_reducible repeat' first
    | assumption | apply State.popRandom_keeps | split

theorem State.readWord_keeps {a : State} {s : State} {r : Requester} {half : Option Half} {w : Nat} (hs : Keeps a s) :
    Keeps a (State.readWord s r half w).1 := by
  unfold State.readWord
  with_reducible repeat' first
    | assumption | apply State.readWide_keeps | simp only [Keeps.mk_eq] | apply KeepsParts.same | split

theorem State.readAligned_keeps {a : State} {s : State} {r : Requester} {half : Option Half} {off : Nat} {len : Nat} (hs : Keeps a s) :
    Keeps a (State.readAligned s r half off len).1 := by
  unfold State.readAligned
  with_reducible repeat' first
    | assumption | apply State.readWord_keeps | apply State.readWide_keeps | apply State.accessErr_keeps | split

theorem State.regRead_keeps {a : State} {s0 : State} {r : Requester} {off : Nat} {len : Nat} (hs0 : Keeps a s0) :
    Keeps a (State.regRead s0 r off len).1 := by
  unfold State.regRead
  with_reducible repeat' first
    | assumption | apply State.readAligned_keeps | apply State.takeHalf_keeps | apply State.accessErr_keeps
    | simp only [Keeps.mk_eq] | split

theorem State.writeDoorbell_keeps {a : State} {s : State} {r : Requester} {fn : Nat} {box : Nat} {v : Nat} (hs : Keeps a s) :
    Keeps a (State.writeDoorbell s r fn box v) := by
  unfold State.writeDoorbell
  with_reducible repeat' first
    | assumption | apply State.abort_keeps | apply State.ack_keeps | apply State.go_keeps | split

theorem State.writeMsix_keeps {a : State} {s : State} {fn : Nat} {o : Nat} {v : Nat} (hs : Keeps a s) :
    Keeps a (State.writeMsix s fn o v) := by
  unfold State.writeMsix
  with_reducible repeat' first
    | assumption | simp only [Keeps.mk_eq] | apply KeepsParts.same

theorem State.writeFast_keeps {a : State} {s : State} {r : Requester} {w : Nat} {v : Nat} (hs : Keeps a s) :
    Keeps a (State.writeFast s r w v) := by
  unfold State.writeFast
  with_reducible repeat' first
    | assumption | apply State.cqDoorbell_keeps | apply State.sqDoorbell_keeps | apply State.captureStamp_keeps
    | apply State.writeDoorbell_keeps | split

theorem State.applyGroup_keeps {a : State} {s : State} {base : Nat} (hs : Keeps a s) :
    Keeps a (State.applyGroup s base) := by
  unfold State.applyGroup
  with_reducible repeat' first
    | assumption | apply State.applyShadows_keeps | apply State.commitResult_keeps | apply State.restartRun_keeps | split

theorem State.requestGroup_keeps {a : State} {s : State} {base : Nat} {g : Nat} (hs : Keeps a s) :
    Keeps a (State.requestGroup s base g) := by
  unfold State.requestGroup
  with_reducible repeat' first
    | assumption | apply State.startDrain_keeps | apply State.applyGroup_keeps | apply State.putBit_keeps
    | simp only [Keeps.mk_eq] | split

theorem State.requestCommit_keeps {a : State} {s : State} {base : Nat} {groups : Nat} (hs : Keeps a s) :
    Keeps a (State.requestCommit s base groups) := by
  unfold State.requestCommit
  with_reducible repeat' first
    | assumption | apply State.requestGroup_keeps | apply Keeps.foldl | intro _

theorem State.setQuiesce_keeps {a : State} {s : State} {base : Nat} {on : Bool} (hs : Keeps a s) :
    Keeps a (State.setQuiesce s base on) := by
  unfold State.setQuiesce
  with_reducible repeat' first
    | assumption | apply State.onward_keeps | apply State.sendAllQueued_keeps | apply State.closeBatch_keeps
    | apply State.putB_keeps | apply State.put_keeps | split

theorem State.maskedBit_keeps {a : State} {s : State} {r : Requester} {w : Nat} {ok : Bool} {v : Nat} {i : Nat} {act : State → Bool → State} (hs : Keeps a s) (hact : ∀ y0 y1, Keeps a y0 → Keeps a (act y0 y1)) :
    Keeps a (State.maskedBit s r w ok v i act) := by
  unfold State.maskedBit
  with_reducible repeat' first
    | assumption | apply hact | apply State.accessErr_keeps | split

theorem State.writeCtrl_keeps {a : State} {s : State} {r : Requester} {base : Nat} {v : Nat} (hs : Keeps a s) :
    Keeps a (State.writeCtrl s r base v) := by
  unfold State.writeCtrl
  with_reducible repeat' first
    | assumption | apply State.maskedBit_keeps | apply State.setQuiesce_keeps | apply State.putB_keeps | intro _

theorem State.writeClusterCtrl_keeps {a : State} {s : State} {r : Requester} {w : Nat} {n : Nat} {v : Nat} (hs : Keeps a s) :
    Keeps a (State.writeClusterCtrl s r w n v) := by
  unfold State.writeClusterCtrl
  with_reducible repeat' first
    | assumption | apply State.maskedBit_keeps | apply State.onward_keeps | apply State.gateCluster_keeps | intro _

theorem State.writeLaneCtrl_keeps {a : State} {s : State} {r : Requester} {w : Nat} {n : Nat} {v : Nat} (hs : Keeps a s) :
    Keeps a (State.writeLaneCtrl s r w n v) := by
  unfold State.writeLaneCtrl
  with_reducible repeat' first
    | assumption | apply State.rejoinLane_keeps | apply State.maskedBit_keeps | apply State.onward_keeps
    | apply State.gateLane_keeps | intro _ | split

theorem State.writeSrcCtrl_keeps {a : State} {s : State} {r : Requester} {w : Nat} {n : Nat} {v : Nat} (hs : Keeps a s) :
    Keeps a (State.writeSrcCtrl s r w n v) := by
  unfold State.writeSrcCtrl
  with_reducible repeat' first
    | assumption | apply State.isolateSource_keeps | apply State.recalSource_keeps | apply State.maskedBit_keeps | intro _ | split

theorem State.writeFaultAck_keeps {a : State} {s : State} {v : Nat} (hs : Keeps a s) :
    Keeps a (State.writeFaultAck s v) := by
  unfold State.writeFaultAck
  with_reducible repeat' first
    | assumption | apply State.ackSevere_keeps | apply State.ackMinor_keeps | apply State.ackHard_keeps | split

theorem State.writeFifoCons_keeps {a : State} {s : State} {r : Requester} {v : Nat} (hs : Keeps a s) :
    Keeps a (State.writeFifoCons s r v) := by
  unfold State.writeFifoCons
  with_reducible repeat' first
    | assumption | apply State.accessErr_keeps | apply State.journal_keeps | apply State.put_keeps | simp only [Keeps.mk_eq]
    | apply KeepsParts.same | apply Keeps.foldl | intro _ | split

theorem State.writeLoad_keeps {a : State} {s : State} {r : Requester} {v : Nat} (hs : Keeps a s) :
    Keeps a (State.writeLoad s r v) := by
  unfold State.writeLoad
  with_reducible repeat' first
    | assumption | apply State.accessErr_keeps | apply State.put_keeps | simp only [Keeps.mk_eq] | apply KeepsParts.same | split

theorem State.eventAck_keeps {a : State} {s : State} {n : Nat} (hs : Keeps a s) :
    Keeps a (State.eventAck s n) := by
  unfold State.eventAck
  with_reducible repeat' first
    | assumption | apply State.raise_keeps | apply State.putBit_keeps | simp only [Keeps.mk_eq] | split

theorem State.postAll_keeps {a : State} {s : State} {x1 : Nat} (hs : Keeps a s) :
    Keeps a (State.postAll s x1) := by
  induction x1 generalizing s with
  | zero =>
    unfold State.postAll
    with_reducible repeat' first
      | assumption | apply State.postWaiting_keeps | split
  | succ k ih =>
    unfold State.postAll
    with_reducible repeat' first
      | assumption | apply ih | apply State.postWaiting_keeps | split

theorem State.writeReqCons_keeps {a : State} {s : State} {r : Requester} {v : Nat} (hs : Keeps a s) :
    Keeps a (State.writeReqCons s r v) := by
  unfold State.writeReqCons
  with_reducible repeat' first
    | assumption | apply State.postAll_keeps | apply State.accessErr_keeps | apply State.put_keeps | simp only [Keeps.mk_eq]
    | split

theorem State.askResponse_keeps {a : State} {s : State} (hs : Keeps a s) :
    Keeps a (State.askResponse s) := by
  unfold State.askResponse
  with_reducible repeat' first
    | assumption | apply State.hostAsk_keeps | split

theorem State.writeRspProd_keeps {a : State} {s : State} {r : Requester} {v : Nat} (hs : Keeps a s) :
    Keeps a (State.writeRspProd s r v) := by
  unfold State.writeRspProd
  with_reducible repeat' first
    | assumption | apply State.askResponse_keeps | apply State.accessErr_keeps | apply State.put_keeps | simp only [Keeps.mk_eq]
    | apply KeepsParts.same | split

theorem State.clearStatus_keeps {a : State} {s : State} {w : Nat} {v : Nat} (hs : Keeps a s) :
    Keeps a (State.clearStatus s w v) := by
  unfold State.clearStatus
  with_reducible repeat' first
    | assumption | apply State.put_keeps | simp only [Keeps.mk_eq] | apply KeepsParts.same | apply Keeps.foldl | intro _ | split

theorem State.writeField_keeps {a : State} {s : State} {x : Row × Fld} {w : Nat} {n : Nat} {v : Nat} (hs : Keeps a s) :
    Keeps a (State.writeField s x w n v) := by
  unfold State.writeField
  with_reducible repeat' first
    | assumption | apply State.put_keeps | simp only [Keeps.mk_eq] | apply KeepsParts.same | split

theorem State.writeFields_keeps {a : State} {s : State} {r : Requester} {fs : List (Row × Fld)} {w : Nat} {n : Nat} {v : Nat} (hs : Keeps a s) :
    Keeps a (State.writeFields s r fs w n v) := by
  unfold State.writeFields
  with_reducible repeat' first
    | assumption | apply State.writeField_keeps | apply State.blockErr_keeps | simp only [Keeps.mk_eq] | apply Keeps.foldl
    | intro _ | split

theorem State.writeSlow_keeps {a : State} {s : State} {r : Requester} {w : Nat} {v : Nat} (hs : Keeps a s) :
    Keeps a (State.writeSlow s r w v) := by
  unfold State.writeSlow
  extract_lets base
  refine Keeps.ite (fun _ => State.writeCtrl_keeps hs) (fun _ => Keeps.ite (fun _ => State.requestCommit_keeps hs) (fun _ => ?_))
  generalize nthReg w 0x7010C 0x10 16 = o1
  generalize nthReg w 0x8010C 0x10 8 = o2
  generalize nthReg w 0x90108 0x10 5 = o3
  generalize nthReg w 0xF0104 4 63 = o4
  rcases o1 with _ | n
  · rcases o2 with _ | n
    · rcases o3 with _ | n
      · rcases o4 with _ | n
        · exact
            Keeps.ite (fun _ => State.writeFaultAck_keeps hs) fun _ =>
            Keeps.ite (fun _ => Keeps.ite (fun _ => State.put_keeps hs) fun _ => State.accessErr_keeps hs) fun _ =>
            Keeps.ite (fun _ => State.writeFifoCons_keeps hs) fun _ =>
            Keeps.ite (fun _ => State.logSubmit_keeps hs) fun _ =>
            Keeps.ite (fun _ => Keeps.ite (fun _ => State.put_keeps hs) fun _ => State.accessErr_keeps hs) fun _ =>
            Keeps.ite (fun _ => Keeps.ite (fun _ => State.feed_keeps hs) fun _ => hs) fun _ =>
            Keeps.ite (fun _ => State.onward_keeps (State.leaseHold_keeps hs)) fun _ =>
            Keeps.ite (fun _ => State.writeLoad_keeps hs) fun _ =>
            Keeps.ite (fun _ => State.eventAck_keeps hs) fun _ =>
            Keeps.ite (fun _ => State.pump_keeps (State.writeReqCons_keeps hs)) fun _ =>
            Keeps.ite (fun _ => State.writeRspProd_keeps hs) fun _ =>
            Keeps.ite (fun _ => State.clearStatus_keeps hs) fun _ => State.writeFields_keeps hs
        · exact Keeps.ite (fun _ => State.put_keeps hs) fun _ => State.accessErr_keeps hs
      · exact State.writeSrcCtrl_keeps hs
    · exact State.writeLaneCtrl_keeps hs
  · exact State.writeClusterCtrl_keeps hs

theorem State.writeWord_keeps {a : State} {s : State} {r : Requester} {w : Nat} {v : Nat} (hs : Keeps a s) :
    Keeps a (State.writeWord s r w v) := by
  unfold State.writeWord
  with_reducible repeat' first
    | assumption | apply State.writeSlow_keeps | apply State.writeFast_keeps | apply State.writeMsix_keeps
    | apply State.cqDoorbell_keeps | apply State.sqDoorbell_keeps | apply State.captureStamp_keeps
    | apply State.writeDoorbell_keeps | apply State.accessErr_keeps | split

theorem State.writeWide_keeps {a : State} {s : State} {r : Requester} {off : Nat} {v : Nat} (hs : Keeps a s) :
    Keeps a (State.writeWide s r off v) := by
  unfold State.writeWide
  with_reducible repeat' first
    | assumption | apply State.writeFields_keeps | apply State.accessErr_keeps | apply State.putB_keeps | split

theorem State.writeHalf_keeps {a : State} {s : State} {r : Requester} {half : Option Half} {w : Nat} {v : Nat} (hs : Keeps a s) :
    Keeps a (State.writeHalf s r half w v) := by
  unfold State.writeHalf
  with_reducible repeat' first
    | assumption | apply State.writeWide_keeps | apply State.writeWord_keeps | apply State.accessErr_keeps
    | simp only [Keeps.mk_eq] | apply KeepsParts.same | split

theorem State.writeAligned_keeps {a : State} {s : State} {r : Requester} {half : Option Half} {off : Nat} {len : Nat} {v : Nat} (hs : Keeps a s) :
    Keeps a (State.writeAligned s r half off len v) := by
  unfold State.writeAligned
  with_reducible repeat' first
    | assumption | apply State.writeHalf_keeps | apply State.writeWide_keeps | apply State.writeWord_keeps
    | apply State.accessErr_keeps | split

theorem State.regWrite_keeps {a : State} {s0 : State} {r : Requester} {off : Nat} {len : Nat} {v : Nat} {full : Bool} (hs0 : Keeps a s0) :
    Keeps a (State.regWrite s0 r off len v full) := by
  unfold State.regWrite
  with_reducible repeat' first
    | assumption | apply State.writeAligned_keeps | apply State.takeHalf_keeps | apply State.accessErr_keeps
    | simp only [Keeps.mk_eq] | split

theorem State.applyPart_keeps {a : State} {s : State} {base : Nat} {here : Nat → Bool} (hs : Keeps a s) :
    Keeps a (State.applyPart s base here) := by
  unfold State.applyPart
  with_reducible repeat' first
    | assumption | apply State.setTook_keeps | apply State.applyShadows_keeps | apply State.commitResult_keeps
    | simp only [Keeps.mk_eq] | apply Keeps.foldl | intro _ | split

theorem State.commitBoundary_keeps {a : State} {s : State} {base : Nat} (hs : Keeps a s) :
    Keeps a (State.commitBoundary s base) := by
  unfold State.commitBoundary
  with_reducible repeat' first
    | assumption | apply State.qengCommit_keeps | apply State.applyPart_keeps | apply State.applyGroup_keeps | split

theorem State.quiescedNow_keeps {a : State} {s : State} {base : Nat} (hs : Keeps a s) :
    Keeps a (State.quiescedNow s base) := by
  unfold State.quiescedNow
  with_reducible repeat' first
    | assumption | apply State.put_keeps | split

theorem State.pwWrite_keeps {a : State} {s0 : State} {r : Requester} {w : Nat} {v : Nat} (hs0 : Keeps a s0) :
    Keeps a (State.pwWrite s0 r w v) := by
  unfold State.pwWrite
  with_reducible repeat' first
    | assumption | apply State.noHalf_keeps | apply State.accessErr_keeps | simp only [Keeps.mk_eq] | apply KeepsParts.same
    | split

theorem State.pwLanded_keeps {a : State} {s : State} {w : Nat} (hs : Keeps a s) :
    Keeps a (State.pwLanded s w) := by
  unfold State.pwLanded
  with_reducible repeat' first
    | assumption | apply State.writeFields_keeps | simp only [Keeps.mk_eq] | apply KeepsParts.same | split

theorem State.answerRead_keeps {a : State} {s : State} {r : Requester} {a2x : Nat} {tag : Bytes} {data : Bytes} {denied : Bool} (hs : Keeps a s) :
    Keeps a (State.answerRead s r a2x tag data denied) := by
  unfold State.answerRead
  with_reducible repeat' first
    | assumption | apply State.sendMessage_keeps | apply State.emit_keeps | split

theorem State.answerWrite_keeps {a : State} {s : State} {r : Requester} {a2x : Nat} {denied : Bool} (hs : Keeps a s) :
    Keeps a (State.answerWrite s r a2x denied) := by
  unfold State.answerWrite
  with_reducible repeat' first
    | assumption | apply State.emit_keeps | split

theorem State.popNotice_keeps {a : State} {s : State} (hs : Keeps a s) :
    Keeps a (State.popNotice s).1 := by
  unfold State.popNotice
  with_reducible repeat' first
    | assumption | apply State.put_keeps | simp only [Keeps.mk_eq] | apply KeepsParts.same | split

theorem State.readBell_keeps {a : State} {s : State} {r : Requester} {a2x : Nat} {n : Nat} (hs : Keeps a s) :
    Keeps a (State.readBell s r a2x n).1 := by
  unfold State.readBell
  with_reducible repeat' first
    | assumption | apply State.accessErr_keeps | simp only [Keeps.mk_eq] | split

theorem State.readTarget_keeps {a : State} {s : State} {r : Requester} {a2x : Nat} {n : Nat} (hs : Keeps a s) :
    Keeps a (State.readTarget s r a2x n).1 := by
  unfold State.readTarget
  with_reducible repeat' first
    | assumption | apply State.readBell_keeps | apply State.popNotice_keeps | split

theorem State.pushNotice_keeps {a : State} {s : State} {data : Bytes} (hs : Keeps a s) :
    Keeps a (State.pushNotice s data) := by
  unfold State.pushNotice
  with_reducible repeat' first
    | assumption | apply State.incSat_keeps | apply State.put_keeps | simp only [Keeps.mk_eq] | apply KeepsParts.same | split

theorem State.writeBell_keeps {a : State} {s : State} {r : Requester} {a2x : Nat} {data : Bytes} (hs : Keeps a s) :
    Keeps a (State.writeBell s r a2x data) := by
  unfold State.writeBell
  with_reducible repeat' first
    | assumption | apply State.writeDoorbell_keeps | apply State.accessErr_keeps | simp only [Keeps.mk_eq] | split

theorem State.writeTarget_keeps {a : State} {s : State} {r : Requester} {a2x : Nat} {data : Bytes} (hs : Keeps a s) :
    Keeps a (State.writeTarget s r a2x data) := by
  unfold State.writeTarget
  with_reducible repeat' first
    | assumption | apply State.memWrite_keeps | apply State.mboxWrite_keeps | apply State.writeBell_keeps
    | apply State.pushNotice_keeps | split

theorem State.runParts_keeps {a : State} {s : State} {r : Requester} {k : AccKind} {parts : List (Nat × Nat)} {data : Bytes} (hs : Keeps a s) :
    Keeps a (State.runParts s r k parts data).1 := by
  unfold State.runParts
  with_reducible repeat' first
    | assumption | apply State.checkPart_keeps | apply State.writeTarget_keeps | apply State.readTarget_keeps
    | apply Keeps.foldl_fst | intro _ | split | refine Keeps.fst (by assumption) ?_

theorem State.runRegs_keeps {a : State} {s : State} {r : Requester} {k : AccKind} {a3x : Nat} {n : Nat} {data : Bytes} (hs : Keeps a s) :
    Keeps a (State.runRegs s r k a3x n data) := by
  unfold State.runRegs
  with_reducible repeat' first
    | assumption | apply State.regRead_keeps | apply State.regWrite_keeps | apply State.noHalf_keeps | apply State.checkPart_keeps
    | apply State.answerWrite_keeps | apply State.answerRead_keeps | simp only [Keeps.mk_eq] | apply Keeps.foldl_fst | intro _
    | split

theorem State.fabricNow_keeps {a : State} {s0 : State} {r : Requester} {k : AccKind} {a3x : Nat} {n : Nat} {data : Bytes} (hs0 : Keeps a s0) :
    Keeps a (State.fabricNow s0 r k a3x n data) := by
  unfold State.fabricNow
  with_reducible repeat' first
    | assumption | apply State.postedWrite_keeps | apply State.runRegs_keeps | apply State.noHalf_keeps
    | apply State.runParts_keeps | apply State.answerWrite_keeps | apply State.answerRead_keeps | split

theorem State.fabric_keeps {a : State} {s : State} {r : Requester} {k : AccKind} {a3x : Nat} {n : Nat} {data : Bytes} (hs : Keeps a s) :
    Keeps a (State.fabric s r k a3x n data) := by
  unfold State.fabric
  with_reducible repeat' first
    | assumption | apply State.fabricNow_keeps | simp only [Keeps.mk_eq] | apply KeepsParts.same | split

theorem State.drainEnd_keeps {a : State} {s : State} {c : Nat} (hs : Keeps a s) :
    Keeps a (State.drainEnd s c) := by
  unfold State.drainEnd
  with_reducible repeat' first
    | assumption | apply State.nextEpoch_keeps | apply State.fabric_keeps | simp only [Keeps.mk_eq] | apply KeepsParts.same
    | apply Keeps.foldl | intro _ | split

theorem State.commitApply_keeps {a : State} {s : State} {base : Nat} (hs : Keeps a s) :
    Keeps a (State.commitApply s base) := by
  unfold State.commitApply
  with_reducible repeat' first
    | assumption | apply State.commitBoundary_keeps | apply State.drainEnd_keeps | apply State.onward_keeps | apply Keeps.foldl
    | split

theorem State.fabricMishap_keeps {a : State} {s : State} {r : Requester} {k : AccKind} {a3x : Nat} {n : Nat} {data : Bytes} {x6 : Mishap} (hs : Keeps a s) :
    Keeps a (State.fabricMishap s r k a3x n data x6) := by
  unfold State.fabricMishap
  with_reducible repeat' first
    | assumption | apply State.lockstep_keeps | apply State.partFails_keeps | apply State.fabric_keeps | apply State.noHalf_keeps
    | apply State.answerWrite_keeps | apply State.answerRead_keeps | split

theorem State.serveDraws_keeps {a : State} {s : State} (hs : Keeps a s) :
    Keeps a (State.serveDraws s) := by
  unfold State.serveDraws
  with_reducible repeat' first
    | assumption | apply State.seedIn_keeps | apply State.seatReady_keeps | apply State.onward_keeps | apply State.fillFifo_keeps
    | apply Keeps.foldl | intro _ | split

theorem State.fetchTimeout_keeps {a : State} {s : State} {tag : Nat} (hs : Keeps a s) :
    Keeps a (State.fetchTimeout s tag) := by
  unfold State.fetchTimeout
  with_reducible repeat' first
    | assumption | apply State.onward_keeps | simp only [Keeps.mk_eq] | apply KeepsParts.same | split

theorem State.runReleased_keeps {a : State} {s : State} {slot : Nat} (hs : Keeps a s) :
    Keeps a (State.runReleased s slot) := by
  unfold State.runReleased
  with_reducible repeat' first
    | assumption | apply State.pump_keeps | apply State.runAct_keeps | apply State.take_keeps | apply State.complete_keeps
    | apply State.put_keeps | simp only [Keeps.mk_eq] | apply KeepsParts.same | split

theorem State.epochRoll_keeps {a : State} {s : State} {n : Nat} (hs : Keeps a s) :
    Keeps a (State.epochRoll s n) := by
  unfold State.epochRoll
  with_reducible repeat' first
    | assumption | apply State.pump_keeps | apply State.begin_keeps | apply State.take_keeps | simp only [Keeps.mk_eq]
    | apply KeepsParts.same | split

theorem State.rotateSlot_keeps {a : State} {s : State} {i : Nat} (hs : Keeps a s) :
    Keeps a (State.rotateSlot s i) := by
  unfold State.rotateSlot
  with_reducible repeat' first
    | assumption | apply State.pump_keeps | apply State.runAct_keeps | apply State.take_keeps | simp only [Keeps.mk_eq] | split

theorem State.farAccess_keeps {a : State} {s0 : State} {n : Nat} {off : Nat} {len : Nat} {write : Bool} {v : Nat} (hs0 : Keeps a s0) :
    Keeps a (State.farAccess s0 n off len write v) := by
  unfold State.farAccess
  with_reducible repeat' first
    | assumption | apply State.noHalf_keeps | apply State.accessErr_keeps | apply State.sendMessage_keeps | apply State.emit_keeps
    | simp only [Keeps.mk_eq] | apply KeepsParts.same | split

theorem State.linkFrame_keeps {a : State} {s : State} {p : Nat} {nak : Bool} (hs : Keeps a s) :
    Keeps a (State.linkFrame s p nak) := by
  unfold State.linkFrame
  with_reducible repeat' first
    | assumption | apply State.emit_keeps

theorem State.replay_keeps {a : State} {s : State} {p : Nat} (hs : Keeps a s) :
    Keeps a (State.replay s p) := by
  unfold State.replay
  with_reducible repeat' first
    | assumption | apply State.emit_keeps | apply Keeps.foldl | intro _

theorem State.retrain_keeps {a : State} {s : State} {p : Nat} (hs : Keeps a s) :
    Keeps a (State.retrain s p) := by
  unfold State.retrain
  with_reducible repeat' first
    | assumption | apply State.incSat_keeps | apply State.linkError_keeps | apply State.put_keeps

theorem State.crcFailed_keeps {a : State} {s : State} {p : Nat} (hs : Keeps a s) :
    Keeps a (State.crcFailed s p) := by
  unfold State.crcFailed
  with_reducible repeat' first
    | assumption | apply State.retrain_keeps | apply State.linkFrame_keeps | apply State.incSat_keeps
    | apply State.setFerryPort_keeps | simp only [Keeps.mk_eq] | split

theorem State.heard_keeps {a : State} {s : State} {p : Nat} {h2x : FerryHead} {sequenced : Bool} {act : State → State} (hs : Keeps a s) (hact : ∀ y0, Keeps a y0 → Keeps a (act y0)) :
    Keeps a (State.heard s p h2x sequenced act) := by
  unfold State.heard
  with_reducible repeat' first
    | assumption | apply hact | apply State.crcFailed_keeps | apply State.linkFrame_keeps | apply State.put_keeps
    | apply State.setFerryPort_keeps | simp only [Keeps.mk_eq] | split

theorem State.passOn_keeps {a : State} {s : State} {p : Nat} {kind : Nat} {h3x : FerryHead} {data : Bytes} (hs : Keeps a s) :
    Keeps a (State.passOn s p kind h3x data) := by
  unfold State.passOn
  with_reducible repeat' first
    | assumption | apply State.ferryOut_keeps | apply State.linkError_keeps | simp only [Keeps.mk_eq] | split

theorem State.frameIn_keeps {a : State} {s : State} {kind : Nat} {role : Nat} {h3x : FerryHead} {data : Bytes} {act : State → State} (hs : Keeps a s) (hact : ∀ y0, Keeps a y0 → Keeps a (act y0)) :
    Keeps a (State.frameIn s kind role h3x data act) := by
  unfold State.frameIn
  with_reducible repeat' first
    | assumption | apply hact | apply State.passOn_keeps | apply State.heard_keeps | apply State.linkError_keeps | intro _ | split

theorem State.gather_keeps {a : State} {s : State} {h1x : FerryHead} {data : Bytes} (hs : Keeps a s) :
    Keeps a (State.gather s h1x data).1 := by
  unfold State.gather
  with_reducible repeat' first
    | assumption | apply State.linkError_keeps | simp only [Keeps.mk_eq] | apply KeepsParts.same | split

theorem State.sendDiscover_keeps {a : State} {s : State} {p : Nat} {front : Nat} (hs : Keeps a s) :
    Keeps a (State.sendDiscover s p front) := by
  unfold State.sendDiscover
  with_reducible repeat' first
    | assumption | apply State.ferrySend_keeps

theorem State.discoverAll_keeps {a : State} {s : State} (hs : Keeps a s) :
    Keeps a (State.discoverAll s) := by
  unfold State.discoverAll
  with_reducible repeat' first
    | assumption | apply State.sendDiscover_keeps | apply Keeps.foldl | intro _ | split

theorem State.answerDiscover_keeps {a : State} {s : State} {port : Nat} {front : Nat} (hs : Keeps a s) :
    Keeps a (State.answerDiscover s port front) := by
  unfold State.answerDiscover
  with_reducible repeat' first
    | assumption | apply State.sendDiscover_keeps | apply State.ferrySend_keeps | apply State.put_keeps | simp only [Keeps.mk_eq]
    | split

theorem State.holdDown_keeps {a : State} {s : State} {p : Nat} {why : Nat} (hs : Keeps a s) :
    Keeps a (State.holdDown s p why) := by
  unfold State.holdDown
  with_reducible repeat' first
    | assumption | apply State.put_keeps

theorem State.sendAssign_keeps {a : State} {s : State} {n : Nat} {port : Nat} {pos : Nat} {serial : Nat} (hs : Keeps a s) :
    Keeps a (State.sendAssign s n port pos serial) := by
  unfold State.sendAssign
  with_reducible repeat' first
    | assumption | apply State.ferrySend_keeps

theorem State.seat_keeps {a : State} {s : State} {n : Nat} {port : Nat} {pos : Nat} {serial : Nat} {life : Nat} (hs : Keeps a s) :
    Keeps a (State.seat s n port pos serial life) := by
  unfold State.seat
  with_reducible repeat' first
    | assumption | apply State.sendAssign_keeps | apply State.setFollower_keeps | apply State.raise_keeps | apply State.put_keeps
    | simp only [Keeps.mk_eq] | apply KeepsParts.same | split

theorem State.settleRing_keeps {a : State} {s : State} (hs : Keeps a s) :
    Keeps a (State.settleRing s) := by
  unfold State.settleRing
  with_reducible repeat' first
    | assumption | apply State.put_keeps | apply Keeps.foldl | intro _ | split

theorem State.unseat_keeps {a : State} {s : State} {n : Nat} (hs : Keeps a s) :
    Keeps a (State.unseat s n) := by
  unfold State.unseat
  with_reducible repeat' first
    | assumption | apply State.setFollower_keeps | apply State.put_keeps | simp only [Keeps.mk_eq] | apply KeepsParts.same

theorem State.renumber_keeps {a : State} {s : State} (hs : Keeps a s) :
    Keeps a (State.renumber s) := by
  unfold State.renumber
  with_reducible repeat' first
    | assumption | apply State.unseat_keeps | apply State.settleRing_keeps | apply State.seat_keeps | apply State.holdDown_keeps
    | apply State.put_keeps | apply Keeps.foldl | intro _ | split

theorem State.found_keeps {a : State} {s : State} {port : Nat} {pos : Nat} {serial : Nat} {life : Nat} (hs : Keeps a s) :
    Keeps a (State.found s port pos serial life) := by
  unfold State.found
  with_reducible repeat' first
    | assumption | apply State.renumber_keeps | apply State.settleRing_keeps | apply State.seat_keeps | apply State.holdDown_keeps
    | simp only [Keeps.mk_eq] | apply KeepsParts.same | split

theorem State.discover_keeps {a : State} {s : State} {port : Nat} {front : Nat} (hs : Keeps a s) :
    Keeps a (State.discover s port front) := by
  unfold State.discover
  with_reducible repeat' first
    | assumption | apply State.renumber_keeps | apply State.settleRing_keeps | apply State.holdDown_keeps
    | apply State.answerDiscover_keeps | apply State.put_keeps | simp only [Keeps.mk_eq] | apply KeepsParts.same | split

theorem State.closeEnumeration_keeps {a : State} {s : State} (hs : Keeps a s) :
    Keeps a (State.closeEnumeration s) := by
  unfold State.closeEnumeration
  with_reducible repeat' first
    | assumption | apply State.put_keeps | simp only [Keeps.mk_eq] | apply KeepsParts.same | apply Keeps.foldl | intro _ | split

theorem State.moveFollower_keeps {a : State} {s : State} {n : Nat} {port : Nat} (hs : Keeps a s) :
    Keeps a (State.moveFollower s n port) := by
  unfold State.moveFollower
  with_reducible repeat' first
    | assumption | apply State.complete_keeps | apply State.put_keeps | simp only [Keeps.mk_eq] | apply KeepsParts.same
    | apply Keeps.foldl | intro _ | split

theorem State.breakRing_keeps {a : State} {s : State} {side : Nat → Nat} (hs : Keeps a s) :
    Keeps a (State.breakRing s side) := by
  unfold State.breakRing
  with_reducible repeat' first
    | assumption | apply State.moveFollower_keeps | apply State.put_keeps | apply Keeps.foldl | intro _

theorem State.farAnswer_keeps {a : State} {s : State} {xtag : Nat} {dev : Nat} {stamp : Nat} {r : Resp} (hs : Keeps a s) :
    Keeps a (State.farAnswer s xtag dev stamp r) := by
  unfold State.farAnswer
  with_reducible repeat' first
    | assumption | apply State.sendQueued_keeps | apply State.pump_keeps | apply State.complete_keeps | apply State.put_keeps
    | simp only [Keeps.mk_eq] | apply KeepsParts.same | split

theorem State.farDone_keeps {a : State} {s : State} {xtag : Nat} {v : Nat} {absent : Bool} (hs : Keeps a s) :
    Keeps a (State.farDone s xtag v absent) := by
  unfold State.farDone
  with_reducible repeat' first
    | assumption | apply State.accessErr_keeps | apply State.emit_keeps | simp only [Keeps.mk_eq] | apply KeepsParts.same | split

theorem State.hostCame_keeps {a : State} {s : State} {use : Nat} {bs : Bytes} (hs : Keeps a s) :
    Keeps a (State.hostCame s use bs) := by
  unfold State.hostCame
  with_reducible repeat' first
    | assumption | apply State.takeResponse_keeps | apply State.askResponse_keeps | apply State.hostAsk_keeps
    | apply State.onward_keeps | simp only [Keeps.mk_eq] | split

theorem State.read_keeps {a : State} {s : State} {r : Requester} {off : Nat} {len : Nat} (hs : Keeps a s) :
    Keeps a (State.read s r off len) := by
  unfold State.read
  with_reducible repeat' first
    | assumption | apply State.farAccess_keeps | apply State.fabric_keeps | apply State.regRead_keeps | apply State.emit_keeps
    | split

theorem State.writePartial_keeps {a : State} {s : State} {r : Requester} {off : Nat} {len : Nat} {v : Nat} (hs : Keeps a s) :
    Keeps a (State.writePartial s r off len v) := by
  unfold State.writePartial
  with_reducible repeat' first
    | assumption | apply State.regWrite_keeps | apply State.noHalf_keeps | apply State.checkPart_keeps
    | apply State.answerWrite_keeps | split | refine Keeps.fst (by assumption) ?_

theorem State.write_keeps {a : State} {s : State} {r : Requester} {off : Nat} {len : Nat} {v : Nat} {full : Bool} (hs : Keeps a s) :
    Keeps a (State.write s r off len v full) := by
  unfold State.write
  with_reducible repeat' first
    | assumption | apply State.writePartial_keeps | apply State.farAccess_keeps | apply State.fabric_keeps
    | apply State.regWrite_keeps | apply State.noHalf_keeps | apply State.accessErr_keeps | split

theorem State.smbusRead_keeps {a : State} {s : State} {data : Bytes} (hs : Keeps a s) :
    Keeps a (State.smbusRead s data) := by
  unfold State.smbusRead
  with_reducible repeat' first
    | assumption | apply State.emit_keeps | split

theorem State.hardTick_keeps {a : State} {s : State} {i : Nat} (hs : Keeps a s) :
    Keeps a (State.hardTick s i) := by
  unfold State.hardTick
  with_reducible repeat' first
    | assumption | apply State.escalate_keeps | apply State.put_keeps | simp only [Keeps.mk_eq] | split

theorem State.hardTimers_keeps {a : State} {s : State} (hs : Keeps a s) :
    Keeps a (State.hardTimers s) := by
  unfold State.hardTimers
  with_reducible repeat' first
    | assumption | apply State.hardTick_keeps | simp only [Keeps.mk_eq] | apply KeepsParts.same | apply Keeps.foldl | split

theorem State.idle_keeps {a : State} {s : State} (hs : Keeps a s) :
    Keeps a (State.idle s) := by
  unfold State.idle
  with_reducible repeat' first
    | assumption | apply State.hardTimers_keeps | apply State.incMod_keeps | split

end Sys2Proof.Machine
end

