-- ==== Sys2Proof/Laws/KeepsExec.lean ====
section
/-! SUPPORT. `Keeps` for every command's meaning: what each leaves standing where it answers a next state. -/

set_option linter.unusedSimpArgs false

namespace Sys2Proof.Machine

theorem next_keeps {a x t : State} (h : (Host.Outcome.next x : Host.Outcome State Fault Refusal) = .next t) (k : Keeps a x) :
    Keeps a t := Host.Outcome.next.inj h ▸ k

theorem command_keeps {op : Nat} {m : Msg} {s t : State} (h : command op m s = .next t) : Keeps s t := by
  unfold command at h
  refine next_keeps h ?_
  have hs := Keeps.refl s
  with_reducible repeat' first
    | assumption | apply State.pump_keeps | apply State.begin_keeps | apply State.toMbox_keeps | apply State.toRing_keeps
    | apply State.noHalf_keeps
    | refine Keeps.fst (by assumption) ?_ | apply State.take_keeps | extract_lets | split

theorem execQuorumTimeout_keeps {slot : Nat} {s : State} {t : State} (h : execQuorumTimeout slot s = .next t) : Keeps s t := by
  unfold execQuorumTimeout at h
  refine next_keeps h ?_
  have hs := Keeps.refl s
  with_reducible repeat' first
    | assumption | apply State.deadline_keeps

theorem execPortTransaction_keeps {port : Nat} {f : PadFrame} {s : State} {t : State} (h : execPortTransaction port f s = .next t) : Keeps s t := by
  unfold execPortTransaction at h
  refine next_keeps h ?_
  have hs := Keeps.refl s
  with_reducible repeat' first
    | assumption | apply State.portExchange_keeps

theorem execHelloAck_keeps {port : Nat} {f : PadFrame} {nonce : Bytes} {s : State} {t : State} (h : execHelloAck port f nonce s = .next t) : Keeps s t := by
  unfold execHelloAck at h
  refine next_keeps h ?_
  have hs := Keeps.refl s
  with_reducible repeat' first
    | assumption | apply State.helloAck_keeps

theorem execApprove_keeps {port : Nat} {f : PadFrame} {op : Nat} {pos : Nat} {pin : Bytes} {digest : Bytes} {s : State} {t : State} (h : execApprove port f op pos pin digest s = .next t) : Keeps s t := by
  unfold execApprove at h
  refine next_keeps h ?_
  have hs := Keeps.refl s
  with_reducible repeat' first
    | assumption | apply State.padApprove_keeps | apply State.judgeFrame_keeps | simp only [Keeps.mk_eq] | split

theorem execPinSet_keeps {port : Nat} {f : PadFrame} {pos : Nat} {pin : Bytes} {pin2 : Bytes} {s : State} {t : State} (h : execPinSet port f pos pin pin2 s = .next t) : Keeps s t := by
  unfold execPinSet at h
  refine next_keeps h ?_
  have hs := Keeps.refl s
  with_reducible repeat' first
    | assumption | apply State.padPinSet_keeps | apply State.judgeFrame_keeps | simp only [Keeps.mk_eq] | split

theorem execKeepalive_keeps {port : Nat} {f : PadFrame} {s : State} {t : State} (h : execKeepalive port f s = .next t) : Keeps s t := by
  unfold execKeepalive at h
  refine next_keeps h ?_
  have hs := Keeps.refl s
  with_reducible repeat' first
    | assumption | apply State.judgeFrame_keeps | split

theorem execPortSessionOpen_keeps {port : Nat} {s : State} {t : State} (h : execPortSessionOpen port s = .next t) : Keeps s t := by
  unfold execPortSessionOpen at h
  refine next_keeps h ?_
  have hs := Keeps.refl s
  with_reducible repeat' first
    | assumption | apply State.openSession_keeps | split

theorem execSlotAgeTick_keeps {s : State} {t : State} (h : execSlotAgeTick s = .next t) : Keeps s t := by
  unfold execSlotAgeTick at h
  refine next_keeps h ?_
  have hs := Keeps.refl s
  with_reducible repeat' first
    | assumption | apply State.ageSlots_keeps

theorem execNonceReservationDone_keeps {ok0 : Bool} {ok1 : Bool} {s : State} {t : State} (h : execNonceReservationDone ok0 ok1 s = .next t) : Keeps s t := by
  unfold execNonceReservationDone at h
  refine next_keeps h ?_
  have hs := Keeps.refl s
  with_reducible repeat' first
    | assumption | apply State.reservationDone_keeps

theorem execHardEscalation_keeps {i : Nat} {s : State} {t : State} (h : execHardEscalation i s = .next t) : Keeps s t := by
  unfold execHardEscalation at h
  refine next_keeps h ?_
  have hs := Keeps.refl s
  with_reducible repeat' first
    | assumption | apply State.escalate_keeps

theorem execLanternEdge_keeps {pins : Nat} {s : State} {t : State} (h : execLanternEdge s pins = .next t) : Keeps s t := by
  unfold execLanternEdge at h
  refine next_keeps h ?_
  have hs := Keeps.refl s
  with_reducible repeat' first
    | assumption | apply State.lanternEdge_keeps | apply State.setPins_keeps

theorem execLogSubmit_keeps {typ : Nat} {s : State} {t : State} (h : execLogSubmit typ s = .next t) : Keeps s t := by
  unfold execLogSubmit at h
  refine next_keeps h ?_
  have hs := Keeps.refl s
  with_reducible repeat' first
    | assumption | apply State.logSubmit_keeps

theorem execLogFreezeTimeout_keeps {s : State} {t : State} (h : execLogFreezeTimeout s = .next t) : Keeps s t := by
  unfold execLogFreezeTimeout at h
  refine next_keeps h ?_
  have hs := Keeps.refl s
  with_reducible repeat' first
    | assumption | apply State.logThaw_keeps

theorem execJournalEntryWrite_keeps {ok : Bool} {s : State} {t : State} (h : execJournalEntryWrite ok s = .next t) : Keeps s t := by
  unfold execJournalEntryWrite at h
  refine next_keeps h ?_
  have hs := Keeps.refl s
  with_reducible repeat' first
    | assumption | apply State.journalWrite_keeps | split

theorem execMainsCrossing_keeps {x0 : Nat} {negs : List Nat} {s : State} {t : State} (h : execMainsCrossing x0 negs s = .next t) : Keeps s t := by
  unfold execMainsCrossing at h
  refine next_keeps h ?_
  have hs := Keeps.refl s
  with_reducible repeat' first
    | assumption | apply State.crossing_keeps

theorem execCycleMissing_keeps {s : State} {t : State} (h : execCycleMissing s = .next t) : Keeps s t := by
  unfold execCycleMissing at h
  refine next_keeps h ?_
  have hs := Keeps.refl s
  with_reducible repeat' first
    | assumption | apply State.missing_keeps

theorem execCompassTick_keeps {s : State} {t : State} (h : execCompassTick s = .next t) : Keeps s t := by
  unfold execCompassTick at h
  refine next_keeps h ?_
  have hs := Keeps.refl s
  with_reducible repeat' first
    | assumption | apply State.compassTick_keeps

theorem execCompassStart_keeps {elapsed : Nat} {s : State} {t : State} (h : execCompassStart elapsed s = .next t) : Keeps s t := by
  unfold execCompassStart at h
  refine next_keeps h ?_
  have hs := Keeps.refl s
  with_reducible repeat' first
    | assumption | apply State.compassStart_keeps

theorem execClockCrossCheck_keeps {ppm : Nat} {s : State} {t : State} (h : execClockCrossCheck ppm s = .next t) : Keeps s t := by
  unfold execClockCrossCheck at h
  refine next_keeps h ?_
  have hs := Keeps.refl s
  with_reducible repeat' first
    | assumption | apply State.crossCheck_keeps

theorem execWaypointFire_keeps {n : Nat} {s : State} {t : State} (h : execWaypointFire n s = .next t) : Keeps s t := by
  unfold execWaypointFire at h
  refine next_keeps h ?_
  have hs := Keeps.refl s
  with_reducible repeat' first
    | assumption | apply State.fireWaypoint_keeps | split

theorem execRateWindowEnd_keeps {tenant : Nat} {s : State} {t : State} (h : execRateWindowEnd tenant s = .next t) : Keeps s t := by
  unfold execRateWindowEnd at h
  refine next_keeps h ?_
  have hs := Keeps.refl s
  with_reducible repeat' first
    | assumption | simp only [Keeps.mk_eq] | apply KeepsParts.same | split

theorem execAutoRecalibrate_keeps {n : Nat} {s : State} {t : State} (h : execAutoRecalibrate n s = .next t) : Keeps s t := by
  unfold execAutoRecalibrate at h
  refine next_keeps h ?_
  have hs := Keeps.refl s
  with_reducible repeat' first
    | assumption | apply State.startSweep_keeps | split

theorem execRecalSweepEnd_keeps {n : Nat} {windows : List (List Bool)} {s : State} {t : State} (h : execRecalSweepEnd n windows s = .next t) : Keeps s t := by
  unfold execRecalSweepEnd at h
  refine next_keeps h ?_
  have hs := Keeps.refl s
  with_reducible repeat' first
    | assumption | apply State.healthEvent_keeps | apply State.isolate_keeps | apply State.endRecal_keeps
    | apply State.settleTrng_keeps | apply State.setSource_keeps | apply State.put_keeps | simp only [Keeps.mk_eq] | split

theorem execCapture_keeps {fn : Nat} {value : Nat} {s : State} {t : State} (h : execCapture fn value s = .next t) : Keeps s t := by
  unfold execCapture at h
  refine next_keeps h ?_
  have hs := Keeps.refl s
  with_reducible repeat' first
    | assumption | apply State.captureStamp_keeps | apply State.noHalf_keeps | split

theorem execSqDoorbell_keeps {fn : Nat} {idx : Nat} {s : State} {t : State} (h : execSqDoorbell fn idx s = .next t) : Keeps s t := by
  unfold execSqDoorbell at h
  refine next_keeps h ?_
  have hs := Keeps.refl s
  with_reducible repeat' first
    | assumption | apply State.sqDoorbell_keeps | apply State.noHalf_keeps | split

theorem execCqDoorbell_keeps {fn : Nat} {idx : Nat} {s : State} {t : State} (h : execCqDoorbell fn idx s = .next t) : Keeps s t := by
  unfold execCqDoorbell at h
  refine next_keeps h ?_
  have hs := Keeps.refl s
  with_reducible repeat' first
    | assumption | apply State.cqDoorbell_keeps | apply State.noHalf_keeps | split

theorem execSqPollTick_keeps {n : Nat} {s : State} {t : State} (h : execSqPollTick n s = .next t) : Keeps s t := by
  unfold execSqPollTick at h
  refine next_keeps h ?_
  have hs := Keeps.refl s
  with_reducible repeat' first
    | assumption | apply State.askSqHeader_keeps | split

theorem execSqHeaderRead_keeps {n : Nat} {r : HeaderRead} {s : State} {t : State} (h : execSqHeaderRead n r s = .next t) : Keeps s t := by
  unfold execSqHeaderRead at h
  refine next_keeps h ?_
  have hs := Keeps.refl s
  with_reducible repeat' first
    | assumption | apply State.sqHeaderRead_keeps

theorem execCqRoomPoll_keeps {n : Nat} {r : HeaderRead} {s : State} {t : State} (h : execCqRoomPoll n r s = .next t) : Keeps s t := by
  unfold execCqRoomPoll at h
  refine next_keeps h ?_
  have hs := Keeps.refl s
  with_reducible repeat' first
    | assumption | apply State.cqHeaderRead_keeps

theorem execCoalesceTimer_keeps {n : Nat} {s : State} {t : State} (h : execCoalesceTimer n s = .next t) : Keeps s t := by
  unfold execCoalesceTimer at h
  refine next_keeps h ?_
  have hs := Keeps.refl s
  with_reducible repeat' first
    | assumption | apply State.cqSignal_keeps | split

theorem execMsixPendingSend_keeps {fn : Nat} {vec : Nat} {s : State} {t : State} (h : execMsixPendingSend fn vec s = .next t) : Keeps s t := by
  unfold execMsixPendingSend at h
  refine next_keeps h ?_
  have hs := Keeps.refl s
  with_reducible repeat' first
    | assumption | apply State.emit_keeps | simp only [Keeps.mk_eq] | apply KeepsParts.same | split

theorem execFunctionLoad_keeps {fn : Nat} {d : Option FnDesc} {s : State} {t : State} (h : execFunctionLoad fn d s = .next t) : Keeps s t := by
  unfold execFunctionLoad at h
  refine next_keeps h ?_
  have hs := Keeps.refl s
  with_reducible repeat' first
    | assumption | apply State.functionLoad_keeps

theorem execFunctionDisable_keeps {fn : Nat} {s : State} {t : State} (h : execFunctionDisable fn s = .next t) : Keeps s t := by
  unfold execFunctionDisable at h
  refine next_keeps h ?_
  have hs := Keeps.refl s
  with_reducible repeat' first
    | assumption | apply State.functionDisable_keeps

theorem execSqLoad_keeps {n : Nat} {d : Option SqDesc} {s : State} {t : State} (h : execSqLoad n d s = .next t) : Keeps s t := by
  unfold execSqLoad at h
  refine next_keeps h ?_
  have hs := Keeps.refl s
  with_reducible repeat' first
    | assumption | apply State.sqLoad_keeps

theorem execSqDisable_keeps {n : Nat} {s : State} {t : State} (h : execSqDisable n s = .next t) : Keeps s t := by
  unfold execSqDisable at h
  refine next_keeps h ?_
  have hs := Keeps.refl s
  with_reducible repeat' first
    | assumption | apply State.sqDisable_keeps

theorem execCqLoad_keeps {n : Nat} {d : Option CqDesc} {s : State} {t : State} (h : execCqLoad n d s = .next t) : Keeps s t := by
  unfold execCqLoad at h
  refine next_keeps h ?_
  have hs := Keeps.refl s
  with_reducible repeat' first
    | assumption | apply State.cqLoad_keeps

theorem execCqDisable_keeps {n : Nat} {s : State} {t : State} (h : execCqDisable n s = .next t) : Keeps s t := by
  unfold execCqDisable at h
  refine next_keeps h ?_
  have hs := Keeps.refl s
  with_reducible repeat' first
    | assumption | apply State.cqDisable_keeps

theorem execWindowTableLoad_keeps {fn : Nat} {x1 : Option (List Window)} {s : State} {t : State} (h : execWindowTableLoad fn x1 s = .next t) : Keeps s t := by
  unfold execWindowTableLoad at h
  refine next_keeps h ?_
  have hs := Keeps.refl s
  with_reducible repeat' first
    | assumption | apply State.load_keeps | intro _ | simp only [id_eq]

theorem execWindowTableDisable_keeps {fn : Nat} {s : State} {t : State} (h : execWindowTableDisable fn s = .next t) : Keeps s t := by
  unfold execWindowTableDisable at h
  refine next_keeps h ?_
  have hs := Keeps.refl s
  with_reducible repeat' first
    | assumption | apply State.load_keeps | intro _ | simp only [id_eq]

theorem execLoadDone_keeps {s : State} {t : State} (h : execLoadDone s = .next t) : Keeps s t := by
  unfold execLoadDone at h
  refine next_keeps h ?_
  have hs := Keeps.refl s
  with_reducible repeat' first
    | assumption | apply State.loadDone_keeps

theorem execHostReadTimeout_keeps {id : Nat} {s : State} {t : State} (h : execHostReadTimeout id s = .next t) : Keeps s t := by
  unfold execHostReadTimeout at h
  refine next_keeps h ?_
  have hs := Keeps.refl s
  with_reducible repeat' first
    | assumption | apply State.readFailed_keeps

theorem execVfFlr_keeps {fn : Nat} {s : State} {t : State} (h : execVfFlr fn s = .next t) : Keeps s t := by
  unfold execVfFlr at h
  refine next_keeps h ?_
  have hs := Keeps.refl s
  with_reducible repeat' first
    | assumption | apply State.flrVf_keeps | split

theorem execPfFlr_keeps {s : State} {t : State} (h : execPfFlr s = .next t) : Keeps s t := by
  unfold execPfFlr at h
  refine next_keeps h ?_
  have hs := Keeps.refl s
  with_reducible repeat' first
    | assumption | apply State.flrPf_keeps | split

theorem execVfDisable_keeps {enable : Bool} {num : Nat} {s : State} {t : State} (h : execVfDisable enable num s = .next t) : Keeps s t := by
  unfold execVfDisable at h
  refine next_keeps h ?_
  have hs := Keeps.refl s
  with_reducible repeat' first
    | assumption | apply State.setVfs_keeps | split

theorem execLinkReset_keeps {s : State} {t : State} (h : execLinkReset s = .next t) : Keeps s t := by
  unfold execLinkReset at h
  refine next_keeps h ?_
  have hs := Keeps.refl s
  with_reducible repeat' first
    | assumption | apply State.flrPf_keeps | simp only [Keeps.mk_eq] | apply KeepsParts.same

theorem execWatchdogMiss_keeps {p : Nat} {s : State} {t : State} (h : execWatchdogMiss p s = .next t) : Keeps s t := by
  unfold execWatchdogMiss at h
  refine next_keeps h ?_
  have hs := Keeps.refl s
  with_reducible repeat' first
    | assumption | apply State.wdogMiss_keeps

theorem execLeaseTimeout_keeps {ske : Bool} {n : Nat} {s : State} {t : State} (h : execLeaseTimeout ske n s = .next t) : Keeps s t := by
  unfold execLeaseTimeout at h
  refine next_keeps h ?_
  have hs := Keeps.refl s
  with_reducible repeat' first
    | assumption | apply State.leaseTimeout_keeps

theorem execKeeperMaskRotate_keeps {s : State} {t : State} (h : execKeeperMaskRotate s = .next t) : Keeps s t := by
  unfold execKeeperMaskRotate at h
  refine next_keeps h ?_
  have hs := Keeps.refl s
  with_reducible repeat' first
    | assumption | apply State.rotateMask_keeps

theorem execTamperAlarm_keeps {source : Nat} {pathB : Bool} {detail : Nat} {value : Nat} {s : State} {t : State} (h : execTamperAlarm source pathB detail value s = .next t) : Keeps s t := by
  unfold execTamperAlarm at h
  refine next_keeps h ?_
  have hs := Keeps.refl s
  with_reducible repeat' first
    | assumption | apply State.alarm_keeps

theorem execTamperDecisionDelayEnd_keeps {source : Nat} {s : State} {t : State} (h : execTamperDecisionDelayEnd source s = .next t) : Keeps s t := by
  unfold execTamperDecisionDelayEnd at h
  refine next_keeps h ?_
  have hs := Keeps.refl s
  with_reducible repeat' first
    | assumption | apply State.delayEnd_keeps

theorem execTamperAlarmClear_keeps {source : Nat} {s : State} {t : State} (h : execTamperAlarmClear source s = .next t) : Keeps s t := by
  unfold execTamperAlarmClear at h
  refine next_keeps h ?_
  have hs := Keeps.refl s
  with_reducible repeat' first
    | assumption | apply State.setPath_keeps | apply State.putBit_keeps | split

theorem execPocketRecordCopy_keeps {s : State} {t : State} (h : execPocketRecordCopy s = .next t) : Keeps s t := by
  unfold execPocketRecordCopy at h
  refine next_keeps h ?_
  have hs := Keeps.refl s
  with_reducible repeat' first
    | assumption | apply State.copyPocket_keeps

theorem execReplicationOfferExpiry_keeps {tenant : Nat} {s : State} {t : State} (h : execReplicationOfferExpiry tenant s = .next t) : Keeps s t := by
  unfold execReplicationOfferExpiry at h
  refine next_keeps h ?_
  have hs := Keeps.refl s
  with_reducible repeat' first
    | assumption | simp only [Keeps.mk_eq] | apply KeepsParts.same | split

theorem execDebugChallengeExpiry_keeps {s : State} {t : State} (h : execDebugChallengeExpiry s = .next t) : Keeps s t := by
  unfold execDebugChallengeExpiry at h
  refine next_keeps h ?_
  have hs := Keeps.refl s
  with_reducible repeat' first
    | assumption | apply State.useChallenge_keeps

theorem execPorstNAssert_keeps {s : State} {t : State} (h : execPorstNAssert s = .next t) : Keeps s t := by
  unfold execPorstNAssert at h
  refine next_keeps h ?_
  have hs := Keeps.refl s
  with_reducible repeat' first
    | assumption | apply State.baseReset_keeps | split

theorem execMainPowerLoss_keeps {cut : Nat} {s : State} {t : State} (h : execMainPowerLoss s cut = .next t) : Keeps s t := by
  unfold execMainPowerLoss at h
  refine next_keeps h ?_
  have hs := Keeps.refl s
  with_reducible repeat' first
    | assumption | apply State.cutTransition_keeps | apply State.baseReset_keeps | simp only [Keeps.mk_eq] | apply KeepsParts.same
    | split

theorem execMainPowerOn_keeps {s : State} {t : State} (h : execMainPowerOn s = .next t) : Keeps s t := by
  unfold execMainPowerOn at h
  refine next_keeps h ?_
  have hs := Keeps.refl s
  with_reducible repeat' first
    | assumption | simp only [Keeps.mk_eq] | apply KeepsParts.same

theorem execBoot_keeps {f : BootFacts} {s : State} {t : State} (h : execBoot f s = .next t) : Keeps s t := by
  unfold execBoot at h
  refine next_keeps h ?_
  have hs := Keeps.refl s
  with_reducible repeat' first
    | assumption | apply State.boot_keeps

theorem execRsGenRetry_keeps {n : List Bool} {nk : Bool} {s : State} {t : State} (h : execRsGenRetry n nk s = .next t) : Keeps s t := by
  unfold execRsGenRetry at h
  refine next_keeps h ?_
  have hs := Keeps.refl s
  with_reducible repeat' first
    | assumption | apply State.bootSecret_keeps | split

theorem execGo_keeps {fn : Nat} {box : Nat} {s : State} {t : State} (h : execGo fn box s = .next t) : Keeps s t := by
  unfold execGo at h
  refine next_keeps h ?_
  have hs := Keeps.refl s
  with_reducible repeat' first
    | assumption | apply State.noHalf_keeps | apply State.go_keeps | split

theorem execAck_keeps {fn : Nat} {box : Nat} {s : State} {t : State} (h : execAck fn box s = .next t) : Keeps s t := by
  unfold execAck at h
  refine next_keeps h ?_
  have hs := Keeps.refl s
  with_reducible repeat' first
    | assumption | apply State.noHalf_keeps | apply State.ack_keeps | split

theorem execAbort_keeps {fn : Nat} {box : Nat} {s : State} {t : State} (h : execAbort fn box s = .next t) : Keeps s t := by
  unfold execAbort at h
  refine next_keeps h ?_
  have hs := Keeps.refl s
  with_reducible repeat' first
    | assumption | apply State.noHalf_keeps | apply State.abort_keeps | split

theorem execArbitrationRound_keeps {s : State} {t : State} (h : execArbitrationRound s = .next t) : Keeps s t := by
  unfold execArbitrationRound at h
  refine next_keeps h ?_
  have hs := Keeps.refl s
  with_reducible repeat' first
    | assumption | apply State.round_keeps | split

theorem execHostReadCompletion_keeps {id : Nat} {r : HostData} {s : State} {t : State} (h : execHostReadCompletion id r s = .next t) : Keeps s t := by
  unfold execHostReadCompletion at h
  refine next_keeps h ?_
  have hs := Keeps.refl s
  with_reducible repeat' first
    | assumption | apply State.readDone_keeps

theorem execRuleEpochDrainEnd_keeps {c : Nat} {s : State} {t : State} (h : execRuleEpochDrainEnd c s = .next t) : Keeps s t := by
  unfold execRuleEpochDrainEnd at h
  refine next_keeps h ?_
  have hs := Keeps.refl s
  with_reducible repeat' first
    | assumption | apply State.drainEnd_keeps

theorem execCommitApply_keeps {base : Nat} {s : State} {t : State} (h : execCommitApply base s = .next t) : Keeps s t := by
  unfold execCommitApply at h
  refine next_keeps h ?_
  have hs := Keeps.refl s
  with_reducible repeat' first
    | assumption | apply State.commitApply_keeps

theorem execFabricAccess_keeps {r : Requester} {k : AccKind} {x2 : Nat} {n : Nat} {data : Bytes} {x5 : Mishap} {s : State} {t : State} (h : execFabricAccess r k x2 n data s x5 = .next t) : Keeps s t := by
  unfold execFabricAccess at h
  refine next_keeps h ?_
  have hs := Keeps.refl s
  with_reducible repeat' first
    | assumption | apply State.fabricMishap_keeps | split

theorem execDebugAccess_keeps {k : AccKind} {x1 : Nat} {n : Nat} {data : Bytes} {s : State} {t : State} (h : execDebugAccess k x1 n data s = .next t) : Keeps s t := by
  unfold execDebugAccess at h
  refine next_keeps h ?_
  have hs := Keeps.refl s
  with_reducible repeat' first
    | assumption | apply State.fabric_keeps

theorem execPkeJobRelease_keeps {n : Nat} {checkOk : Bool} {residueOk : Bool} {lane : Nat} {s : State} {t : State} (h : execPkeJobRelease n checkOk residueOk lane s = .next t) : Keeps s t := by
  unfold execPkeJobRelease at h
  refine next_keeps h ?_
  have hs := Keeps.refl s
  with_reducible repeat' first
    | assumption | apply State.releaseJob_keeps | apply State.onward_keeps

theorem execPkeWipeEnd_keeps {n : Nat} {s : State} {t : State} (h : execPkeWipeEnd n s = .next t) : Keeps s t := by
  unfold execPkeWipeEnd at h
  refine next_keeps h ?_
  have hs := Keeps.refl s
  with_reducible repeat' first
    | assumption | apply State.applyPart_keeps | apply State.wipeEnd_keeps | apply State.onward_keeps

theorem execPkeJobAbort_keeps {n : Nat} {status : Nat} {s : State} {t : State} (h : execPkeJobAbort n status s = .next t) : Keeps s t := by
  unfold execPkeJobAbort at h
  refine next_keeps h ?_
  have hs := Keeps.refl s
  with_reducible repeat' first
    | assumption | apply State.onward_keeps | apply State.abortPke_keeps | split

theorem execPkeClusterReady_keeps {n : Nat} {badPkg : Nat} {testOk : Bool} {s : State} {t : State} (h : execPkeClusterReady n badPkg testOk s = .next t) : Keeps s t := by
  unfold execPkeClusterReady at h
  refine next_keeps h ?_
  have hs := Keeps.refl s
  with_reducible repeat' first
    | assumption | apply State.clusterReady_keeps | apply State.onward_keeps

theorem execQuarantineReturn_keeps {n : Nat} {badPkg : Nat} {testOk : Bool} {s : State} {t : State} (h : execQuarantineReturn n badPkg testOk s = .next t) : Keeps s t := by
  unfold execQuarantineReturn at h
  refine next_keeps h ?_
  have hs := Keeps.refl s
  with_reducible repeat' first
    | assumption | apply State.quarantineReturn_keeps | apply State.onward_keeps | split

theorem execMaskSeedDelivery_keeps {n : Nat} {agree : Bool} {s : State} {t : State} (h : execMaskSeedDelivery n s agree = .next t) : Keeps s t := by
  unfold execMaskSeedDelivery at h
  refine next_keeps h ?_
  have hs := Keeps.refl s
  with_reducible repeat' first
    | assumption | apply State.core_keeps | apply State.seedDelivery_keeps | apply State.onward_keeps

theorem execMaskSeedExpiry_keeps {n : Nat} {s : State} {t : State} (h : execMaskSeedExpiry n s = .next t) : Keeps s t := by
  unfold execMaskSeedExpiry at h
  refine next_keeps h ?_
  have hs := Keeps.refl s
  with_reducible repeat' first
    | assumption | apply State.seedExpiry_keeps

theorem execEntropyWaitTimeout_keeps {cid : Nat} {s : State} {t : State} (h : execEntropyWaitTimeout cid s = .next t) : Keeps s t := by
  unfold execEntropyWaitTimeout at h
  refine next_keeps h ?_
  have hs := Keeps.refl s
  with_reducible repeat' first
    | assumption | apply State.entropyTimeout_keeps | apply State.onward_keeps

theorem execSkeRequestStart_keeps {lane : Nat} {s : State} {t : State} (h : execSkeRequestStart lane s = .next t) : Keeps s t := by
  unfold execSkeRequestStart at h
  refine next_keeps h ?_
  have hs := Keeps.refl s
  with_reducible repeat' first
    | assumption | apply State.requestStart_keeps | apply State.onward_keeps

theorem execSkeRequestEnd_keeps {lane : Nat} {checkOk : Bool} {s : State} {t : State} (h : execSkeRequestEnd lane checkOk s = .next t) : Keeps s t := by
  unfold execSkeRequestEnd at h
  refine next_keeps h ?_
  have hs := Keeps.refl s
  with_reducible repeat' first
    | assumption | apply State.applyPart_keeps | apply State.requestEnd_keeps | apply State.onward_keeps

theorem execSkeLaneSelfTestEnd_keeps {lane : Nat} {pass : Bool} {s : State} {t : State} (h : execSkeLaneSelfTestEnd lane pass s = .next t) : Keeps s t := by
  unfold execSkeLaneSelfTestEnd at h
  refine next_keeps h ?_
  have hs := Keeps.refl s
  with_reducible repeat' first
    | assumption | apply State.laneTested_keeps | apply State.onward_keeps

theorem execTrngWindowEnd_keeps {src : Nat} {bits : List Bool} {s : State} {t : State} (h : execTrngWindowEnd src bits s = .next t) : Keeps s t := by
  unfold execTrngWindowEnd at h
  refine next_keeps h ?_
  have hs := Keeps.refl s
  with_reducible repeat' first
    | assumption | apply State.windowEnd_keeps | apply State.onward_keeps

theorem execDrbgInstantiate_keeps {agree : Bool} {s : State} {t : State} (h : execDrbgInstantiate s agree = .next t) : Keeps s t := by
  unfold execDrbgInstantiate at h
  refine next_keeps h ?_
  have hs := Keeps.refl s
  with_reducible repeat' first
    | assumption | apply State.serveDraws_keeps | apply State.core_keeps | apply State.instantiate_keeps

theorem execDrbgReseed_keeps {agree : Bool} {s : State} {t : State} (h : execDrbgReseed s agree = .next t) : Keeps s t := by
  unfold execDrbgReseed at h
  refine next_keeps h ?_
  have hs := Keeps.refl s
  with_reducible repeat' first
    | assumption | apply State.serveDraws_keeps | apply State.core_keeps | apply State.reseed_keeps

theorem execStoreResponse_keeps {rsp : StoreRsp} {s : State} {t : State} (h : execStoreResponse rsp s = .next t) : Keeps s t := by
  unfold execStoreResponse at h
  refine next_keeps h ?_
  have hs := Keeps.refl s
  with_reducible repeat' first
    | assumption | apply State.takeResponse_keeps | apply State.onward_keeps | split

theorem execStoreRspRetry_keeps {rsp : StoreRsp} {s : State} {t : State} (h : execStoreRspRetry rsp s = .next t) : Keeps s t := by
  unfold execStoreRspRetry at h
  refine next_keeps h ?_
  have hs := Keeps.refl s
  with_reducible repeat' first
    | assumption | apply State.takeResponse_keeps | apply State.onward_keeps | split

theorem execStoreBatchClose_keeps {s : State} {t : State} (h : execStoreBatchClose s = .next t) : Keeps s t := by
  unfold execStoreBatchClose at h
  refine next_keeps h ?_
  have hs := Keeps.refl s
  with_reducible repeat' first
    | assumption | apply State.onward_keeps | apply State.closeBatch_keeps | split

theorem execStoreBufferFreed_keeps {s : State} {t : State} (h : execStoreBufferFreed s = .next t) : Keeps s t := by
  unfold execStoreBufferFreed at h
  refine next_keeps h ?_
  have hs := Keeps.refl s
  with_reducible repeat' first
    | assumption | apply State.postWaiting_keeps | split

theorem execStoreFetchTimeout_keeps {tag : Nat} {s : State} {t : State} (h : execStoreFetchTimeout tag s = .next t) : Keeps s t := by
  unfold execStoreFetchTimeout at h
  refine next_keeps h ?_
  have hs := Keeps.refl s
  with_reducible repeat' first
    | assumption | apply State.fetchTimeout_keeps | split

theorem execStoreHeldTimeout_keeps {cid : Nat} {s : State} {t : State} (h : execStoreHeldTimeout cid s = .next t) : Keeps s t := by
  unfold execStoreHeldTimeout at h
  refine next_keeps h ?_
  have hs := Keeps.refl s
  with_reducible repeat' first
    | assumption | apply State.onward_keeps | apply State.complete_keeps | split

theorem execQuorumActRun_keeps {slot : Nat} {s : State} {t : State} (h : execQuorumActRun slot s = .next t) : Keeps s t := by
  unfold execQuorumActRun at h
  refine next_keeps h ?_
  have hs := Keeps.refl s
  with_reducible repeat' first
    | assumption | apply State.runReleased_keeps | split

theorem execWaypointEpochRoll_keeps {n : Nat} {s : State} {t : State} (h : execWaypointEpochRoll n s = .next t) : Keeps s t := by
  unfold execWaypointEpochRoll at h
  refine next_keeps h ?_
  have hs := Keeps.refl s
  with_reducible repeat' first
    | assumption | apply State.epochRoll_keeps | split

theorem execNonceRotation_keeps {slot : Nat} {s : State} {t : State} (h : execNonceRotation slot s = .next t) : Keeps s t := by
  unfold execNonceRotation at h
  refine next_keeps h ?_
  have hs := Keeps.refl s
  with_reducible repeat' first
    | assumption | apply State.rotateSlot_keeps | split

theorem execG5RestartEnd_keeps {f : BootFacts} {s : State} {t : State} (h : execG5RestartEnd f s = .next t) : Keeps s t := by
  unfold execG5RestartEnd at h
  refine next_keeps h ?_
  have hs := Keeps.refl s
  with_reducible repeat' first
    | assumption | apply State.onward_keeps | apply State.restartEnd_keeps

theorem execClusterResetEnd_keeps {c : Nat} {kat4 : Bool} {kat5 : Bool} {s : State} {t : State} (h : execClusterResetEnd c s kat4 kat5 = .next t) : Keeps s t := by
  unfold execClusterResetEnd at h
  refine next_keeps h ?_
  have hs := Keeps.refl s
  with_reducible repeat' first
    | assumption | apply State.clusterBack_keeps | apply State.onward_keeps

theorem execRegionResetEnd_keeps {g : Nat} {kat4 : Bool} {kat5 : Bool} {s : State} {t : State} (h : execRegionResetEnd g s kat4 kat5 = .next t) : Keeps s t := by
  unfold execRegionResetEnd at h
  refine next_keeps h ?_
  have hs := Keeps.refl s
  with_reducible repeat' first
    | assumption | apply State.regionBack_keeps | apply State.onward_keeps

theorem execLinkFrame_keeps {port : Nat} {x1 : FerryHead} {nak : Bool} {s : State} {t : State} (h : execLinkFrame port x1 nak s = .next t) : Keeps s t := by
  unfold execLinkFrame at h
  refine next_keeps h ?_
  have hs := Keeps.refl s
  with_reducible repeat' first
    | assumption | apply State.heard_keeps | apply State.replay_keeps | intro _ | split

theorem execFerryIdleLink_keeps {port : Nat} {s : State} {t : State} (h : execFerryIdleLink port s = .next t) : Keeps s t := by
  unfold execFerryIdleLink at h
  refine next_keeps h ?_
  have hs := Keeps.refl s
  with_reducible repeat' first
    | assumption | apply State.linkFrame_keeps | split

theorem execLinkUp_keeps {dropped : Nat} {bar0 : Nat} {vfBar0 : Nat} {s : State} {t : State} (h : execLinkUp s dropped bar0 vfBar0 = .next t) : Keeps s t := by
  unfold execLinkUp at h
  refine next_keeps h ?_
  have hs := Keeps.refl s
  with_reducible repeat' first
    | assumption | apply State.discoverAll_keeps | apply State.showParts_keeps | apply State.put_keeps | simp only [Keeps.mk_eq]
    | apply KeepsParts.same | split

theorem execDiscover_keeps {port : Nat} {front : Nat} {s : State} {t : State} (h : execDiscover port front s = .next t) : Keeps s t := by
  unfold execDiscover at h
  refine next_keeps h ?_
  have hs := Keeps.refl s
  with_reducible repeat' first
    | assumption | apply State.discover_keeps

theorem execDiscoverAck_keeps {port : Nat} {pos : Nat} {serial : Nat} {life : Nat} {s : State} {t : State} (h : execDiscoverAck port pos serial life s = .next t) : Keeps s t := by
  unfold execDiscoverAck at h
  refine next_keeps h ?_
  have hs := Keeps.refl s
  with_reducible repeat' first
    | assumption | apply State.found_keeps | apply State.ferrySend_keeps | apply State.put_keeps | simp only [Keeps.mk_eq] | split

theorem execAssign_keeps {number : Nat} {s : State} {t : State} (h : execAssign number s = .next t) : Keeps s t := by
  unfold execAssign at h
  refine next_keeps h ?_
  have hs := Keeps.refl s
  with_reducible repeat' first
    | assumption | apply State.linkError_keeps | apply State.put_keeps | split

theorem execFerryDiscoverTick_keeps {s : State} {t : State} (h : execFerryDiscoverTick s = .next t) : Keeps s t := by
  unfold execFerryDiscoverTick at h
  refine next_keeps h ?_
  have hs := Keeps.refl s
  with_reducible repeat' first
    | assumption | apply State.closeEnumeration_keeps | apply State.discoverAll_keeps | split

theorem execFerryPortTrained_keeps {port : Nat} {s : State} {t : State} (h : execFerryPortTrained port s = .next t) : Keeps s t := by
  unfold execFerryPortTrained at h
  refine next_keeps h ?_
  have hs := Keeps.refl s
  with_reducible repeat' first
    | assumption | apply State.settleRing_keeps | apply State.discoverAll_keeps | apply State.replay_keeps | apply State.put_keeps
    | split

theorem execFerryLinkSilence_keeps {port : Nat} {s : State} {t : State} (h : execFerryLinkSilence port s = .next t) : Keeps s t := by
  unfold execFerryLinkSilence at h
  refine next_keeps h ?_
  have hs := Keeps.refl s
  with_reducible repeat' first
    | assumption | apply State.breakRing_keeps | apply State.retrain_keeps | apply State.onward_keeps | split

theorem execFollowerAbsent_keeps {n : Nat} {s : State} {t : State} (h : execFollowerAbsent n s = .next t) : Keeps s t := by
  unfold execFollowerAbsent at h
  refine next_keeps h ?_
  have hs := Keeps.refl s
  with_reducible repeat' first
    | assumption | apply State.breakRing_keeps | apply State.onward_keeps | apply State.loseFollower_keeps
    | apply State.linkError_keeps | split

theorem execCommandFrame_keeps {x0 : FerryHead} {m : Msg} {s : State} {t : State} (h : execCommandFrame x0 m s = .next t) : Keeps s t := by
  unfold execCommandFrame at h
  refine next_keeps h ?_
  have hs := Keeps.refl s
  with_reducible repeat' first
    | assumption | apply State.gather_keeps | apply State.frameIn_keeps | apply State.pump_keeps | apply State.begin_keeps
    | apply State.take_keeps | intro _ | split | refine Keeps.fst (by assumption) ?_

theorem execResponseFrame_keeps {x0 : FerryHead} {status : Nat} {reason : Nat} {info : Nat} {hamper : Nat} {key : Nat} {stamp : Nat} {result : Bytes} {s : State} {t : State} (h : execResponseFrame x0 status reason info hamper key stamp result s = .next t) : Keeps s t := by
  unfold execResponseFrame at h
  refine next_keeps h ?_
  have hs := Keeps.refl s
  with_reducible repeat' first
    | assumption | apply State.farAnswer_keeps | apply State.gather_keeps | apply State.frameIn_keeps | intro _ | split
    | refine Keeps.fst (by assumption) ?_

theorem execFarWindowAccess_keeps {n : Nat} {off : Nat} {write : Bool} {value : Nat} {s : State} {t : State} (h : execFarWindowAccess n off write value s = .next t) : Keeps s t := by
  unfold execFarWindowAccess at h
  refine next_keeps h ?_
  have hs := Keeps.refl s
  with_reducible repeat' first
    | assumption | apply State.farAccess_keeps | split

theorem execFarReadTimeout_keeps {xtag : Nat} {s : State} {t : State} (h : execFarReadTimeout xtag s = .next t) : Keeps s t := by
  unfold execFarReadTimeout at h
  refine next_keeps h ?_
  have hs := Keeps.refl s
  with_reducible repeat' first
    | assumption | apply State.farDone_keeps

theorem execRegData_keeps {x0 : FerryHead} {value : Nat} {s : State} {t : State} (h : execRegData x0 value s = .next t) : Keeps s t := by
  unfold execRegData at h
  refine next_keeps h ?_
  have hs := Keeps.refl s
  with_reducible repeat' first
    | assumption | apply State.farDone_keeps | apply State.frameIn_keeps | intro _

theorem execRegRead_keeps {x0 : FerryHead} {off : Nat} {len : Nat} {s : State} {t : State} (h : execRegRead x0 off len s = .next t) : Keeps s t := by
  unfold execRegRead at h
  refine next_keeps h ?_
  have hs := Keeps.refl s
  with_reducible repeat' first
    | assumption | apply State.frameIn_keeps | apply State.fabric_keeps | apply State.regRead_keeps
    | apply State.sendMessage_keeps | intro _ | split

theorem execRegWrite_keeps {x0 : FerryHead} {off : Nat} {len : Nat} {value : Nat} {s : State} {t : State} (h : execRegWrite x0 off len value s = .next t) : Keeps s t := by
  unfold execRegWrite at h
  refine next_keeps h ?_
  have hs := Keeps.refl s
  with_reducible repeat' first
    | assumption | apply State.frameIn_keeps | apply State.fabric_keeps | apply State.regWrite_keeps | intro _ | split

theorem execHostRead_keeps {x0 : FerryHead} {addr : Nat} {len : Nat} {s : State} {t : State} (h : execHostRead x0 addr len s = .next t) : Keeps s t := by
  unfold execHostRead at h
  refine next_keeps h ?_
  have hs := Keeps.refl s
  with_reducible repeat' first
    | assumption | apply State.frameIn_keeps | apply State.accessFailed_keeps | apply State.access_keeps | simp only [Keeps.mk_eq]
    | apply KeepsParts.same | intro _ | split | refine Keeps.fst (by assumption) ?_

theorem execHostWrite_keeps {x0 : FerryHead} {addr : Nat} {data : Bytes} {s : State} {t : State} (h : execHostWrite x0 addr data s = .next t) : Keeps s t := by
  unfold execHostWrite at h
  refine next_keeps h ?_
  have hs := Keeps.refl s
  with_reducible repeat' first
    | assumption | apply State.gather_keeps | apply State.frameIn_keeps | apply State.access_keeps | intro _ | split
    | refine Keeps.fst (by assumption) ?_

theorem execHostData_keeps {x0 : FerryHead} {data : HostData} {s : State} {t : State} (h : execHostData x0 data s = .next t) : Keeps s t := by
  unfold execHostData at h
  refine next_keeps h ?_
  have hs := Keeps.refl s
  with_reducible repeat' first
    | assumption | apply State.hostCame_keeps | apply State.gather_keeps | apply State.frameIn_keeps | simp only [Keeps.mk_eq]
    | apply KeepsParts.same | intro _ | split | refine Keeps.fst (by assumption) ?_

theorem execEventFrame_keeps {x0 : FerryHead} {source : Nat} {s : State} {t : State} (h : execEventFrame x0 source s = .next t) : Keeps s t := by
  unfold execEventFrame at h
  refine next_keeps h ?_
  have hs := Keeps.refl s
  with_reducible repeat' first
    | assumption | apply State.frameIn_keeps | intro _ | simp only [id_eq]

theorem execTrngDataRead_keeps {req : Requester} {part : Nat} {agree : Bool} {s : State} {t : State} (h : execTrngDataRead req part s agree = .next t) : Keeps s t := by
  unfold execTrngDataRead at h
  refine next_keeps h ?_
  have hs := Keeps.refl s
  with_reducible repeat' first
    | assumption | apply State.core_keeps | apply State.read_keeps | split

theorem execLowHalfRead_keeps {req : Requester} {off : Nat} {len : Nat} {s : State} {t : State} (h : execLowHalfRead req off len s = .next t) : Keeps s t := by
  unfold execLowHalfRead at h
  refine next_keeps h ?_
  have hs := Keeps.refl s
  with_reducible repeat' first
    | assumption | apply State.read_keeps

theorem execLowHalfWrite_keeps {req : Requester} {off : Nat} {value : Nat} {s : State} {t : State} (h : execLowHalfWrite req off value s = .next t) : Keeps s t := by
  unfold execLowHalfWrite at h
  refine next_keeps h ?_
  have hs := Keeps.refl s
  with_reducible repeat' first
    | assumption | apply State.write_keeps

theorem execRegisterWrite_keeps {req : Requester} {off : Nat} {len : Nat} {value : Nat} {full : Bool} {s : State} {t : State} (h : execRegisterWrite req off len value full s = .next t) : Keeps s t := by
  unfold execRegisterWrite at h
  refine next_keeps h ?_
  have hs := Keeps.refl s
  with_reducible repeat' first
    | assumption | apply State.write_keeps

theorem execSqcClear_keeps {req : Requester} {off : Nat} {value : Nat} {s : State} {t : State} (h : execSqcClear req off value s = .next t) : Keeps s t := by
  unfold execSqcClear at h
  refine next_keeps h ?_
  have hs := Keeps.refl s
  with_reducible repeat' first
    | assumption | apply State.write_keeps

theorem execQuiesce_keeps {req : Requester} {base : Nat} {on : Bool} {s : State} {t : State} (h : execQuiesce req base on s = .next t) : Keeps s t := by
  unfold execQuiesce at h
  refine next_keeps h ?_
  have hs := Keeps.refl s
  with_reducible repeat' first
    | assumption | apply State.write_keeps

theorem execQuiesced_keeps {base : Nat} {s : State} {t : State} (h : execQuiesced base s = .next t) : Keeps s t := by
  unfold execQuiesced at h
  refine next_keeps h ?_
  have hs := Keeps.refl s
  with_reducible repeat' first
    | assumption | apply State.quiescedNow_keeps | apply State.runChange_keeps | apply State.pump_keeps | split

theorem execCommitRequest_keeps {req : Requester} {base : Nat} {groups : Nat} {s : State} {t : State} (h : execCommitRequest req base groups s = .next t) : Keeps s t := by
  unfold execCommitRequest at h
  refine next_keeps h ?_
  have hs := Keeps.refl s
  with_reducible repeat' first
    | assumption | apply State.write_keeps

theorem execQengEventAck_keeps {req : Requester} {source : Nat} {s : State} {t : State} (h : execQengEventAck req source s = .next t) : Keeps s t := by
  unfold execQengEventAck at h
  refine next_keeps h ?_
  have hs := Keeps.refl s
  with_reducible repeat' first
    | assumption | apply State.write_keeps

theorem execFaultAckHard_keeps {req : Requester} {slot : Nat} {s : State} {t : State} (h : execFaultAckHard req slot s = .next t) : Keeps s t := by
  unfold execFaultAckHard at h
  refine next_keeps h ?_
  have hs := Keeps.refl s
  with_reducible repeat' first
    | assumption | apply State.write_keeps

theorem execFaultAckMinor_keeps {req : Requester} {s : State} {t : State} (h : execFaultAckMinor req s = .next t) : Keeps s t := by
  unfold execFaultAckMinor at h
  refine next_keeps h ?_
  have hs := Keeps.refl s
  with_reducible repeat' first
    | assumption | apply State.write_keeps

theorem execFaultAckSevere_keeps {req : Requester} {s : State} {t : State} (h : execFaultAckSevere req s = .next t) : Keeps s t := by
  unfold execFaultAckSevere at h
  refine next_keeps h ?_
  have hs := Keeps.refl s
  with_reducible repeat' first
    | assumption | apply State.write_keeps

theorem execStoreReqConsWrite_keeps {value : Nat} {s : State} {t : State} (h : execStoreReqConsWrite value s = .next t) : Keeps s t := by
  unfold execStoreReqConsWrite at h
  refine next_keeps h ?_
  have hs := Keeps.refl s
  with_reducible repeat' first
    | assumption | apply State.write_keeps

theorem execStoreRspProdWrite_keeps {value : Nat} {s : State} {t : State} (h : execStoreRspProdWrite value s = .next t) : Keeps s t := by
  unfold execStoreRspProdWrite at h
  refine next_keeps h ?_
  have hs := Keeps.refl s
  with_reducible repeat' first
    | assumption | apply State.write_keeps

theorem execPkeClusterCtrlGateReq_keeps {req : Requester} {n : Nat} {on : Bool} {s : State} {t : State} (h : execPkeClusterCtrlGateReq req n on s = .next t) : Keeps s t := by
  unfold execPkeClusterCtrlGateReq at h
  refine next_keeps h ?_
  have hs := Keeps.refl s
  with_reducible repeat' first
    | assumption | apply State.write_keeps | split

theorem execPkeClusterCtrlFence_keeps {req : Requester} {n : Nat} {on : Bool} {s : State} {t : State} (h : execPkeClusterCtrlFence req n on s = .next t) : Keeps s t := by
  unfold execPkeClusterCtrlFence at h
  refine next_keeps h ?_
  have hs := Keeps.refl s
  with_reducible repeat' first
    | assumption | apply State.write_keeps | split

theorem execSkeLaneCtrlGateReq_keeps {req : Requester} {lane : Nat} {on : Bool} {s : State} {t : State} (h : execSkeLaneCtrlGateReq req lane on s = .next t) : Keeps s t := by
  unfold execSkeLaneCtrlGateReq at h
  refine next_keeps h ?_
  have hs := Keeps.refl s
  with_reducible repeat' first
    | assumption | apply State.write_keeps | split

theorem execSkeLaneCtrlFence_keeps {req : Requester} {lane : Nat} {on : Bool} {s : State} {t : State} (h : execSkeLaneCtrlFence req lane on s = .next t) : Keeps s t := by
  unfold execSkeLaneCtrlFence at h
  refine next_keeps h ?_
  have hs := Keeps.refl s
  with_reducible repeat' first
    | assumption | apply State.write_keeps | split

theorem execSkeLaneCtrlRejoin_keeps {req : Requester} {lane : Nat} {s : State} {t : State} (h : execSkeLaneCtrlRejoin req lane s = .next t) : Keeps s t := by
  unfold execSkeLaneCtrlRejoin at h
  refine next_keeps h ?_
  have hs := Keeps.refl s
  with_reducible repeat' first
    | assumption | apply State.write_keeps | split

theorem execTrngSrcCtrlRecal_keeps {req : Requester} {src : Nat} {s : State} {t : State} (h : execTrngSrcCtrlRecal req src s = .next t) : Keeps s t := by
  unfold execTrngSrcCtrlRecal at h
  refine next_keeps h ?_
  have hs := Keeps.refl s
  with_reducible repeat' first
    | assumption | apply State.write_keeps | split

theorem execTrngSrcCtrlIsolate_keeps {req : Requester} {src : Nat} {s : State} {t : State} (h : execTrngSrcCtrlIsolate req src s = .next t) : Keeps s t := by
  unfold execTrngSrcCtrlIsolate at h
  refine next_keeps h ?_
  have hs := Keeps.refl s
  with_reducible repeat' first
    | assumption | apply State.write_keeps | split

theorem execMpcWdogFeed_keeps {master : Nat} {s : State} {t : State} (h : execMpcWdogFeed master s = .next t) : Keeps s t := by
  unfold execMpcWdogFeed at h
  refine next_keeps h ?_
  have hs := Keeps.refl s
  with_reducible repeat' first
    | assumption | apply State.write_keeps

theorem execMpcLeaseHoldSet_keeps {master : Nat} {value : Nat} {s : State} {t : State} (h : execMpcLeaseHoldSet master value s = .next t) : Keeps s t := by
  unfold execMpcLeaseHoldSet at h
  refine next_keeps h ?_
  have hs := Keeps.refl s
  with_reducible repeat' first
    | assumption | apply State.write_keeps

theorem execPwWrite_keeps {req : Requester} {off : Nat} {value : Nat} {s : State} {t : State} (h : execPwWrite req off value s = .next t) : Keeps s t := by
  unfold execPwWrite at h
  refine next_keeps h ?_
  have hs := Keeps.refl s
  with_reducible repeat' first
    | assumption | apply State.pwWrite_keeps | apply State.noHalf_keeps | apply State.checkPart_keeps
    | apply State.answerWrite_keeps | split | refine Keeps.fst (by assumption) ?_

theorem execPwWriteLanded_keeps {off : Nat} {s : State} {t : State} (h : execPwWriteLanded off s = .next t) : Keeps s t := by
  unfold execPwWriteLanded at h
  refine next_keeps h ?_
  have hs := Keeps.refl s
  with_reducible repeat' first
    | assumption | apply State.pwLanded_keeps

theorem execMboxMessageWrite_keeps {fn : Nat} {box : Nat} {off : Nat} {bytes : Bytes} {s : State} {t : State} (h : execMboxMessageWrite fn box off bytes s = .next t) : Keeps s t := by
  unfold execMboxMessageWrite at h
  refine next_keeps h ?_
  have hs := Keeps.refl s
  with_reducible repeat' first
    | assumption | apply State.fabric_keeps | split

theorem execHostMboxPostedWrite_keeps {fn : Nat} {addr : Nat} {data : Bytes} {s : State} {t : State} (h : execHostMboxPostedWrite fn addr data s = .next t) : Keeps s t := by
  unfold execHostMboxPostedWrite at h
  refine next_keeps h ?_
  have hs := Keeps.refl s
  with_reducible repeat' first
    | assumption | apply State.fabric_keeps | split

theorem execSmbusDevStatus_keeps {s : State} {t : State} (h : execSmbusDevStatus s = .next t) : Keeps s t := by
  unfold execSmbusDevStatus at h
  refine next_keeps h ?_
  have hs := Keeps.refl s
  with_reducible repeat' first
    | assumption | apply State.smbusRead_keeps

theorem execSmbusLanternStatus_keeps {s : State} {t : State} (h : execSmbusLanternStatus s = .next t) : Keeps s t := by
  unfold execSmbusLanternStatus at h
  refine next_keeps h ?_
  have hs := Keeps.refl s
  with_reducible repeat' first
    | assumption | apply State.smbusRead_keeps

theorem execSmbusTemperatures_keeps {s : State} {t : State} (h : execSmbusTemperatures s = .next t) : Keeps s t := by
  unfold execSmbusTemperatures at h
  refine next_keeps h ?_
  have hs := Keeps.refl s
  with_reducible repeat' first
    | assumption | apply State.smbusRead_keeps

theorem execSmbusKeeperPower_keeps {s : State} {t : State} (h : execSmbusKeeperPower s = .next t) : Keeps s t := by
  unfold execSmbusKeeperPower at h
  refine next_keeps h ?_
  have hs := Keeps.refl s
  with_reducible repeat' first
    | assumption | apply State.smbusRead_keeps

theorem execSmbusFaultCountB_keeps {s : State} {t : State} (h : execSmbusFaultCountB s = .next t) : Keeps s t := by
  unfold execSmbusFaultCountB at h
  refine next_keeps h ?_
  have hs := Keeps.refl s
  with_reducible repeat' first
    | assumption | apply State.smbusRead_keeps

theorem execSmbusDeviceSerial_keeps {s : State} {t : State} (h : execSmbusDeviceSerial s = .next t) : Keeps s t := by
  unfold execSmbusDeviceSerial at h
  refine next_keeps h ?_
  have hs := Keeps.refl s
  with_reducible repeat' first
    | assumption | apply State.smbusRead_keeps

theorem execSmbusAlertResponse_keeps {s : State} {t : State} (h : execSmbusAlertResponse s = .next t) : Keeps s t := by
  unfold execSmbusAlertResponse at h
  refine next_keeps h ?_
  have hs := Keeps.refl s
  with_reducible repeat' first
    | assumption | apply State.smbusRead_keeps | split

theorem execMramScrub_keeps {bad : List (Nat × Bool)} {s : State} {t : State} (h : execMramScrub bad s = .next t) : Keeps s t := by
  unfold execMramScrub at h
  refine next_keeps h ?_
  have hs := Keeps.refl s
  with_reducible repeat' first
    | assumption | apply State.soft_keeps | apply State.hard_keeps | apply Keeps.foldl | intro _ | split

theorem execDeviceInfoGet_keeps {m : Msg} {s : State} {t : State} (h : execDeviceInfoGet m s = .next t) : Keeps s t := command_keeps h

theorem execIdentityGet_keeps {m : Msg} {s : State} {t : State} (h : execIdentityGet m s = .next t) : Keeps s t := command_keeps h

theorem execAttestationAnswer_keeps {m : Msg} {s : State} {t : State} (h : execAttestationAnswer m s = .next t) : Keeps s t := command_keeps h

theorem execAttestationSign_keeps {m : Msg} {s : State} {t : State} (h : execAttestationSign m s = .next t) : Keeps s t := command_keeps h

theorem execKeyGenerate_keeps {m : Msg} {s : State} {t : State} (h : execKeyGenerate m s = .next t) : Keeps s t := command_keeps h

theorem execKeyImport_keeps {m : Msg} {s : State} {t : State} (h : execKeyImport m s = .next t) : Keeps s t := command_keeps h

theorem execKeyExport_keeps {m : Msg} {s : State} {t : State} (h : execKeyExport m s = .next t) : Keeps s t := command_keeps h

theorem execKeyDerive_keeps {m : Msg} {s : State} {t : State} (h : execKeyDerive m s = .next t) : Keeps s t := command_keeps h

theorem execKeyPublicGet_keeps {m : Msg} {s : State} {t : State} (h : execKeyPublicGet m s = .next t) : Keeps s t := command_keeps h

theorem execHamperLoad_keeps {m : Msg} {s : State} {t : State} (h : execHamperLoad m s = .next t) : Keeps s t := command_keeps h

theorem execSlotFree_keeps {m : Msg} {s : State} {t : State} (h : execSlotFree m s = .next t) : Keeps s t := command_keeps h

theorem execHamperRewrap_keeps {m : Msg} {s : State} {t : State} (h : execHamperRewrap m s = .next t) : Keeps s t := command_keeps h

theorem execHamperRevoke_keeps {m : Msg} {s : State} {t : State} (h : execHamperRevoke m s = .next t) : Keeps s t := command_keeps h

theorem execHamperReclaim_keeps {m : Msg} {s : State} {t : State} (h : execHamperReclaim m s = .next t) : Keeps s t := command_keeps h

theorem execNonceLimitSet_keeps {m : Msg} {s : State} {t : State} (h : execNonceLimitSet m s = .next t) : Keeps s t := command_keeps h

theorem execSign_keeps {m : Msg} {s : State} {t : State} (h : execSign m s = .next t) : Keeps s t := command_keeps h

theorem execVerify_keeps {m : Msg} {s : State} {t : State} (h : execVerify m s = .next t) : Keeps s t := command_keeps h

theorem execEncrypt_keeps {m : Msg} {s : State} {t : State} (h : execEncrypt m s = .next t) : Keeps s t := command_keeps h

theorem execDecrypt_keeps {m : Msg} {s : State} {t : State} (h : execDecrypt m s = .next t) : Keeps s t := command_keeps h

theorem execMacGenerate_keeps {m : Msg} {s : State} {t : State} (h : execMacGenerate m s = .next t) : Keeps s t := command_keeps h

theorem execMacVerify_keeps {m : Msg} {s : State} {t : State} (h : execMacVerify m s = .next t) : Keeps s t := command_keeps h

theorem execHash_keeps {m : Msg} {s : State} {t : State} (h : execHash m s = .next t) : Keeps s t := command_keeps h

theorem execWrap_keeps {m : Msg} {s : State} {t : State} (h : execWrap m s = .next t) : Keeps s t := command_keeps h

theorem execUnwrap_keeps {m : Msg} {s : State} {t : State} (h : execUnwrap m s = .next t) : Keeps s t := command_keeps h

theorem execAgree_keeps {m : Msg} {s : State} {t : State} (h : execAgree m s = .next t) : Keeps s t := command_keeps h

theorem execEncapsulate_keeps {m : Msg} {s : State} {t : State} (h : execEncapsulate m s = .next t) : Keeps s t := command_keeps h

theorem execDecapsulate_keeps {m : Msg} {s : State} {t : State} (h : execDecapsulate m s = .next t) : Keeps s t := command_keeps h

theorem execArithmeticRun_keeps {m : Msg} {s : State} {t : State} (h : execArithmeticRun m s = .next t) : Keeps s t := command_keeps h

theorem execRandomGenerate_keeps {m : Msg} {agree : Bool} {s : State} {t : State} (h : execRandomGenerate m s agree = .next t) : Keeps s t := (State.core_keeps (Keeps.refl s)).trans (command_keeps h)

theorem execTenantCreate_keeps {m : Msg} {s : State} {t : State} (h : execTenantCreate m s = .next t) : Keeps s t := command_keeps h

theorem execTenantDelete_keeps {m : Msg} {s : State} {t : State} (h : execTenantDelete m s = .next t) : Keeps s t := command_keeps h

theorem execTenantQuotaSet_keeps {m : Msg} {s : State} {t : State} (h : execTenantQuotaSet m s = .next t) : Keeps s t := command_keeps h

theorem execTenantPolicySet_keeps {m : Msg} {s : State} {t : State} (h : execTenantPolicySet m s = .next t) : Keeps s t := command_keeps h

theorem execGenerationRoll_keeps {m : Msg} {s : State} {t : State} (h : execGenerationRoll m s = .next t) : Keeps s t := command_keeps h

theorem execGenerationRetire_keeps {m : Msg} {s : State} {t : State} (h : execGenerationRetire m s = .next t) : Keeps s t := command_keeps h

theorem execInstanceBind_keeps {m : Msg} {s : State} {t : State} (h : execInstanceBind m s = .next t) : Keeps s t := command_keeps h

theorem execTenantUnlock_keeps {m : Msg} {s : State} {t : State} (h : execTenantUnlock m s = .next t) : Keeps s t := command_keeps h

theorem execTenantInfoGet_keeps {m : Msg} {s : State} {t : State} (h : execTenantInfoGet m s = .next t) : Keeps s t := command_keeps h

theorem execCustodianEnrol_keeps {m : Msg} {s : State} {t : State} (h : execCustodianEnrol m s = .next t) : Keeps s t := command_keeps h

theorem execCustodianRemove_keeps {m : Msg} {s : State} {t : State} (h : execCustodianRemove m s = .next t) : Keeps s t := command_keeps h

theorem execQuorumPolicySet_keeps {m : Msg} {s : State} {t : State} (h : execQuorumPolicySet m s = .next t) : Keeps s t := command_keeps h

theorem execPortPair_keeps {m : Msg} {s : State} {t : State} (h : execPortPair m s = .next t) : Keeps s t := command_keeps h

theorem execApprovalSubmit_keeps {m : Msg} {s : State} {t : State} (h : execApprovalSubmit m s = .next t) : Keeps s t := command_keeps h

theorem execOperationStatusGet_keeps {m : Msg} {s : State} {t : State} (h : execOperationStatusGet m s = .next t) : Keeps s t := command_keeps h

theorem execOperationCancel_keeps {m : Msg} {s : State} {t : State} (h : execOperationCancel m s = .next t) : Keeps s t := command_keeps h

theorem execTimeGet_keeps {m : Msg} {s : State} {t : State} (h : execTimeGet m s = .next t) : Keeps s t := command_keeps h

theorem execAnchorLoad_keeps {m : Msg} {s : State} {t : State} (h : execAnchorLoad m s = .next t) : Keeps s t := command_keeps h

theorem execWaypointSet_keeps {m : Msg} {s : State} {t : State} (h : execWaypointSet m s = .next t) : Keeps s t := command_keeps h

theorem execWaypointClear_keeps {m : Msg} {s : State} {t : State} (h : execWaypointClear m s = .next t) : Keeps s t := command_keeps h

theorem execMainsNominalSet_keeps {m : Msg} {s : State} {t : State} (h : execMainsNominalSet m s = .next t) : Keeps s t := command_keeps h

theorem execStoreAttach_keeps {m : Msg} {s : State} {t : State} (h : execStoreAttach m s = .next t) : Keeps s t := command_keeps h

theorem execStoreFormat_keeps {m : Msg} {s : State} {t : State} (h : execStoreFormat m s = .next t) : Keeps s t := command_keeps h

theorem execStoreRecheck_keeps {m : Msg} {s : State} {t : State} (h : execStoreRecheck m s = .next t) : Keeps s t := command_keeps h

theorem execStorePrune_keeps {m : Msg} {s : State} {t : State} (h : execStorePrune m s = .next t) : Keeps s t := command_keeps h

theorem execStoreReclaimRange_keeps {m : Msg} {s : State} {t : State} (h : execStoreReclaimRange m s = .next t) : Keeps s t := command_keeps h

theorem execCurveLoad_keeps {m : Msg} {s : State} {t : State} (h : execCurveLoad m s = .next t) : Keeps s t := command_keeps h

theorem execCurveRetire_keeps {m : Msg} {s : State} {t : State} (h : execCurveRetire m s = .next t) : Keeps s t := command_keeps h

theorem execMicrocodeInstall_keeps {m : Msg} {s : State} {t : State} (h : execMicrocodeInstall m s = .next t) : Keeps s t := command_keeps h

theorem execFirmwareStage_keeps {m : Msg} {s : State} {t : State} (h : execFirmwareStage m s = .next t) : Keeps s t := command_keeps h

theorem execFirmwareActivate_keeps {m : Msg} {s : State} {t : State} (h : execFirmwareActivate m s = .next t) : Keeps s t := command_keeps h

theorem execConfigSet_keeps {m : Msg} {s : State} {t : State} (h : execConfigSet m s = .next t) : Keeps s t := command_keeps h

theorem execTamperResponseSet_keeps {m : Msg} {s : State} {t : State} (h : execTamperResponseSet m s = .next t) : Keeps s t := command_keeps h

theorem execAttestationKeyProvision_keeps {m : Msg} {s : State} {t : State} (h : execAttestationKeyProvision m s = .next t) : Keeps s t := command_keeps h

theorem execNoiseRecalibrate_keeps {m : Msg} {s : State} {t : State} (h : execNoiseRecalibrate m s = .next t) : Keeps s t := command_keeps h

theorem execClusterServiceFence_keeps {m : Msg} {s : State} {t : State} (h : execClusterServiceFence m s = .next t) : Keeps s t := command_keeps h

theorem execClusterServiceReturn_keeps {m : Msg} {s : State} {t : State} (h : execClusterServiceReturn m s = .next t) : Keeps s t := command_keeps h

theorem execClusterServicePowerOff_keeps {m : Msg} {s : State} {t : State} (h : execClusterServicePowerOff m s = .next t) : Keeps s t := command_keeps h

theorem execClusterServicePowerOn_keeps {m : Msg} {s : State} {t : State} (h : execClusterServicePowerOn m s = .next t) : Keeps s t := command_keeps h

theorem execClusterServiceRecalibrate_keeps {m : Msg} {s : State} {t : State} (h : execClusterServiceRecalibrate m s = .next t) : Keeps s t := command_keeps h

theorem execClusterRetire_keeps {m : Msg} {s : State} {t : State} (h : execClusterRetire m s = .next t) : Keeps s t := command_keeps h

theorem execDeviceUnlock_keeps {m : Msg} {s : State} {t : State} (h : execDeviceUnlock m s = .next t) : Keeps s t := command_keeps h

theorem execFloorRaise_keeps {m : Msg} {s : State} {t : State} (h : execFloorRaise m s = .next t) : Keeps s t := command_keeps h

theorem execDomainJoin_keeps {m : Msg} {s : State} {t : State} (h : execDomainJoin m s = .next t) : Keeps s t := command_keeps h

theorem execTenantReplicateOffer_keeps {m : Msg} {s : State} {t : State} (h : execTenantReplicateOffer m s = .next t) : Keeps s t := command_keeps h

theorem execTenantReplicateSend_keeps {m : Msg} {s : State} {t : State} (h : execTenantReplicateSend m s = .next t) : Keeps s t := command_keeps h

theorem execTenantReplicateAccept_keeps {m : Msg} {s : State} {t : State} (h : execTenantReplicateAccept m s = .next t) : Keeps s t := command_keeps h

theorem execTenantReplicateAdopt_keeps {m : Msg} {s : State} {t : State} (h : execTenantReplicateAdopt m s = .next t) : Keeps s t := command_keeps h

theorem execLogRead_keeps {m : Msg} {s : State} {t : State} (h : execLogRead m s = .next t) : Keeps s t := command_keeps h

theorem execLogFreeze_keeps {m : Msg} {s : State} {t : State} (h : execLogFreeze m s = .next t) : Keeps s t := command_keeps h

theorem execLogThaw_keeps {m : Msg} {s : State} {t : State} (h : execLogThaw m s = .next t) : Keeps s t := command_keeps h

theorem execLogClear_keeps {m : Msg} {s : State} {t : State} (h : execLogClear m s = .next t) : Keeps s t := command_keeps h

theorem execJournalAttach_keeps {m : Msg} {s : State} {t : State} (h : execJournalAttach m s = .next t) : Keeps s t := command_keeps h

theorem execLifecycleTransition_keeps {m : Msg} {s : State} {t : State} (h : execLifecycleTransition m s = .next t) : Keeps s t := command_keeps h

theorem execDebugChallengeGet_keeps {m : Msg} {s : State} {t : State} (h : execDebugChallengeGet m s = .next t) : Keeps s t := command_keeps h

theorem execDebugOpen_keeps {m : Msg} {s : State} {t : State} (h : execDebugOpen m s = .next t) : Keeps s t := command_keeps h

theorem execDebugPasswordSet_keeps {m : Msg} {s : State} {t : State} (h : execDebugPasswordSet m s = .next t) : Keeps s t := command_keeps h

theorem execDebugKeySet_keeps {m : Msg} {s : State} {t : State} (h : execDebugKeySet m s = .next t) : Keeps s t := command_keeps h

end Sys2Proof.Machine
end

