-- ==== Sys2Proof/Laws/PerInstr.lean ====
section
/-! SUPPORT. What every command satisfies as syntax, one lemma per constructor: a well-formed command's operands all fit. -/

namespace Sys2Proof.Laws.Sized

/-- Every operand of a well-formed command is below the least number that does not fit it. -/
def Statement (i : Instr) : Prop := i.wf = true → ∀ x ∈ i.operands, x.1 < x.2

theorem all (i : Instr) : Statement i := fun h x hx => of_decide_eq_true (List.all_eq_true.1 h x hx)

theorem deviceInfoGet (m : Msg) : Statement (.deviceInfoGet m) := all _
theorem identityGet (m : Msg) : Statement (.identityGet m) := all _
theorem attestationAnswer (m : Msg) : Statement (.attestationAnswer m) := all _
theorem attestationSign (m : Msg) : Statement (.attestationSign m) := all _
theorem keyGenerate (m : Msg) : Statement (.keyGenerate m) := all _
theorem keyImport (m : Msg) : Statement (.keyImport m) := all _
theorem keyExport (m : Msg) : Statement (.keyExport m) := all _
theorem keyDerive (m : Msg) : Statement (.keyDerive m) := all _
theorem keyPublicGet (m : Msg) : Statement (.keyPublicGet m) := all _
theorem hamperLoad (m : Msg) : Statement (.hamperLoad m) := all _
theorem slotFree (m : Msg) : Statement (.slotFree m) := all _
theorem hamperRewrap (m : Msg) : Statement (.hamperRewrap m) := all _
theorem hamperRevoke (m : Msg) : Statement (.hamperRevoke m) := all _
theorem hamperReclaim (m : Msg) : Statement (.hamperReclaim m) := all _
theorem nonceLimitSet (m : Msg) : Statement (.nonceLimitSet m) := all _
theorem sign (m : Msg) : Statement (.sign m) := all _
theorem verify (m : Msg) : Statement (.verify m) := all _
theorem encrypt (m : Msg) : Statement (.encrypt m) := all _
theorem decrypt (m : Msg) : Statement (.decrypt m) := all _
theorem macGenerate (m : Msg) : Statement (.macGenerate m) := all _
theorem macVerify (m : Msg) : Statement (.macVerify m) := all _
theorem hash (m : Msg) : Statement (.hash m) := all _
theorem wrap (m : Msg) : Statement (.wrap m) := all _
theorem unwrap (m : Msg) : Statement (.unwrap m) := all _
theorem agree (m : Msg) : Statement (.agree m) := all _
theorem encapsulate (m : Msg) : Statement (.encapsulate m) := all _
theorem decapsulate (m : Msg) : Statement (.decapsulate m) := all _
theorem arithmeticRun (m : Msg) : Statement (.arithmeticRun m) := all _
theorem randomGenerate (m : Msg) (agree : Bool) : Statement (.randomGenerate m agree) := all _
theorem tenantCreate (m : Msg) : Statement (.tenantCreate m) := all _
theorem tenantDelete (m : Msg) : Statement (.tenantDelete m) := all _
theorem tenantQuotaSet (m : Msg) : Statement (.tenantQuotaSet m) := all _
theorem tenantPolicySet (m : Msg) : Statement (.tenantPolicySet m) := all _
theorem generationRoll (m : Msg) : Statement (.generationRoll m) := all _
theorem generationRetire (m : Msg) : Statement (.generationRetire m) := all _
theorem instanceBind (m : Msg) : Statement (.instanceBind m) := all _
theorem tenantUnlock (m : Msg) : Statement (.tenantUnlock m) := all _
theorem tenantInfoGet (m : Msg) : Statement (.tenantInfoGet m) := all _
theorem custodianEnrol (m : Msg) : Statement (.custodianEnrol m) := all _
theorem custodianRemove (m : Msg) : Statement (.custodianRemove m) := all _
theorem quorumPolicySet (m : Msg) : Statement (.quorumPolicySet m) := all _
theorem portPair (m : Msg) : Statement (.portPair m) := all _
theorem approvalSubmit (m : Msg) : Statement (.approvalSubmit m) := all _
theorem operationStatusGet (m : Msg) : Statement (.operationStatusGet m) := all _
theorem operationCancel (m : Msg) : Statement (.operationCancel m) := all _
theorem timeGet (m : Msg) : Statement (.timeGet m) := all _
theorem anchorLoad (m : Msg) : Statement (.anchorLoad m) := all _
theorem waypointSet (m : Msg) : Statement (.waypointSet m) := all _
theorem waypointClear (m : Msg) : Statement (.waypointClear m) := all _
theorem mainsNominalSet (m : Msg) : Statement (.mainsNominalSet m) := all _
theorem storeAttach (m : Msg) : Statement (.storeAttach m) := all _
theorem storeFormat (m : Msg) : Statement (.storeFormat m) := all _
theorem storeRecheck (m : Msg) : Statement (.storeRecheck m) := all _
theorem storePrune (m : Msg) : Statement (.storePrune m) := all _
theorem storeReclaimRange (m : Msg) : Statement (.storeReclaimRange m) := all _
theorem curveLoad (m : Msg) : Statement (.curveLoad m) := all _
theorem curveRetire (m : Msg) : Statement (.curveRetire m) := all _
theorem microcodeInstall (m : Msg) : Statement (.microcodeInstall m) := all _
theorem firmwareStage (m : Msg) : Statement (.firmwareStage m) := all _
theorem firmwareActivate (m : Msg) : Statement (.firmwareActivate m) := all _
theorem configSet (m : Msg) : Statement (.configSet m) := all _
theorem tamperResponseSet (m : Msg) : Statement (.tamperResponseSet m) := all _
theorem attestationKeyProvision (m : Msg) : Statement (.attestationKeyProvision m) := all _
theorem noiseRecalibrate (m : Msg) : Statement (.noiseRecalibrate m) := all _
theorem clusterServiceFence (m : Msg) : Statement (.clusterServiceFence m) := all _
theorem clusterServiceReturn (m : Msg) : Statement (.clusterServiceReturn m) := all _
theorem clusterServicePowerOff (m : Msg) : Statement (.clusterServicePowerOff m) := all _
theorem clusterServicePowerOn (m : Msg) : Statement (.clusterServicePowerOn m) := all _
theorem clusterServiceRecalibrate (m : Msg) : Statement (.clusterServiceRecalibrate m) := all _
theorem clusterRetire (m : Msg) : Statement (.clusterRetire m) := all _
theorem deviceUnlock (m : Msg) : Statement (.deviceUnlock m) := all _
theorem floorRaise (m : Msg) : Statement (.floorRaise m) := all _
theorem domainJoin (m : Msg) : Statement (.domainJoin m) := all _
theorem tenantReplicateOffer (m : Msg) : Statement (.tenantReplicateOffer m) := all _
theorem tenantReplicateSend (m : Msg) : Statement (.tenantReplicateSend m) := all _
theorem tenantReplicateAccept (m : Msg) : Statement (.tenantReplicateAccept m) := all _
theorem tenantReplicateAdopt (m : Msg) : Statement (.tenantReplicateAdopt m) := all _
theorem logRead (m : Msg) : Statement (.logRead m) := all _
theorem logFreeze (m : Msg) : Statement (.logFreeze m) := all _
theorem logThaw (m : Msg) : Statement (.logThaw m) := all _
theorem logClear (m : Msg) : Statement (.logClear m) := all _
theorem journalAttach (m : Msg) : Statement (.journalAttach m) := all _
theorem lifecycleTransition (m : Msg) : Statement (.lifecycleTransition m) := all _
theorem debugChallengeGet (m : Msg) : Statement (.debugChallengeGet m) := all _
theorem debugOpen (m : Msg) : Statement (.debugOpen m) := all _
theorem debugPasswordSet (m : Msg) : Statement (.debugPasswordSet m) := all _
theorem debugKeySet (m : Msg) : Statement (.debugKeySet m) := all _
theorem quorumActRun (slot : Nat) : Statement (.quorumActRun slot) := all _
theorem quorumTimeout (slot : Nat) : Statement (.quorumTimeout slot) := all _
theorem go (fn : Nat) (box : Nat) : Statement (.go fn box) := all _
theorem ack (fn : Nat) (box : Nat) : Statement (.ack fn box) := all _
theorem abort (fn : Nat) (box : Nat) : Statement (.abort fn box) := all _
theorem mboxMessageWrite (fn : Nat) (box : Nat) (off : Nat) (bytes : Bytes) : Statement (.mboxMessageWrite fn box off bytes) := all _
theorem sqDoorbell (fn : Nat) (idx : Nat) : Statement (.sqDoorbell fn idx) := all _
theorem cqDoorbell (fn : Nat) (idx : Nat) : Statement (.cqDoorbell fn idx) := all _
theorem capture (fn : Nat) (value : Nat) : Statement (.capture fn value) := all _
theorem trngDataRead (req : Requester) (part : Nat) (agree : Bool) : Statement (.trngDataRead req part agree) := all _
theorem lowHalfRead (req : Requester) (off : Nat) (len : Nat) : Statement (.lowHalfRead req off len) := all _
theorem lowHalfWrite (req : Requester) (off : Nat) (value : Nat) : Statement (.lowHalfWrite req off value) := all _
theorem registerWrite (req : Requester) (off : Nat) (len : Nat) (value : Nat) (full : Bool) : Statement (.registerWrite req off len value full) := all _
theorem pwWrite (req : Requester) (off : Nat) (value : Nat) : Statement (.pwWrite req off value) := all _
theorem pwWriteLanded (off : Nat) : Statement (.pwWriteLanded off) := all _
theorem sqcClear (req : Requester) (off : Nat) (value : Nat) : Statement (.sqcClear req off value) := all _
theorem quiesce (req : Requester) (base : Nat) (on : Bool) : Statement (.quiesce req base on) := all _
theorem quiesced (base : Nat) : Statement (.quiesced base) := all _
theorem commitRequest (req : Requester) (base : Nat) (groups : Nat) : Statement (.commitRequest req base groups) := all _
theorem commitApply (base : Nat) : Statement (.commitApply base) := all _
theorem ruleEpochDrainEnd (checker : Nat) : Statement (.ruleEpochDrainEnd checker) := all _
theorem functionLoad (fn : Nat) (desc : Option FnDesc) : Statement (.functionLoad fn desc) := all _
theorem functionDisable (fn : Nat) : Statement (.functionDisable fn) := all _
theorem sqLoad (sq : Nat) (desc : Option SqDesc) : Statement (.sqLoad sq desc) := all _
theorem sqDisable (sq : Nat) : Statement (.sqDisable sq) := all _
theorem cqLoad (cq : Nat) (desc : Option CqDesc) : Statement (.cqLoad cq desc) := all _
theorem cqDisable (cq : Nat) : Statement (.cqDisable cq) := all _
theorem windowTableLoad (fn : Nat) (table : Option (List Window)) : Statement (.windowTableLoad fn table) := all _
theorem windowTableDisable (fn : Nat) : Statement (.windowTableDisable fn) := all _
theorem loadDone : Statement (.loadDone) := all _
theorem qengEventAck (req : Requester) (source : Nat) : Statement (.qengEventAck req source) := all _
theorem faultAckHard (req : Requester) (slot : Nat) : Statement (.faultAckHard req slot) := all _
theorem faultAckMinor (req : Requester) : Statement (.faultAckMinor req) := all _
theorem faultAckSevere (req : Requester) : Statement (.faultAckSevere req) := all _
theorem storeReqConsWrite (value : Nat) : Statement (.storeReqConsWrite value) := all _
theorem storeRspProdWrite (value : Nat) : Statement (.storeRspProdWrite value) := all _
theorem storeResponse (rsp : StoreRsp) : Statement (.storeResponse rsp) := all _
theorem storeBatchClose : Statement (.storeBatchClose) := all _
theorem storeFetchTimeout (tag : Nat) : Statement (.storeFetchTimeout tag) := all _
theorem storeHeldTimeout (cid : Nat) : Statement (.storeHeldTimeout cid) := all _
theorem storeRspRetry (rsp : StoreRsp) : Statement (.storeRspRetry rsp) := all _
theorem storeBufferFreed : Statement (.storeBufferFreed) := all _
theorem slotAgeTick : Statement (.slotAgeTick) := all _
theorem pkeClusterCtrlGateReq (req : Requester) (n : Nat) (on : Bool) : Statement (.pkeClusterCtrlGateReq req n on) := all _
theorem pkeClusterCtrlFence (req : Requester) (n : Nat) (on : Bool) : Statement (.pkeClusterCtrlFence req n on) := all _
theorem pkeJobRelease (n : Nat) (checkOk : Bool) (residueOk : Bool) (lane : Nat) : Statement (.pkeJobRelease n checkOk residueOk lane) := all _
theorem pkeWipeEnd (n : Nat) : Statement (.pkeWipeEnd n) := all _
theorem pkeJobAbort (n : Nat) (status : Nat) : Statement (.pkeJobAbort n status) := all _
theorem pkeClusterReady (n : Nat) (badPkg : Nat) (testOk : Bool) : Statement (.pkeClusterReady n badPkg testOk) := all _
theorem quarantineReturn (n : Nat) (badPkg : Nat) (testOk : Bool) : Statement (.quarantineReturn n badPkg testOk) := all _
theorem maskSeedDelivery (n : Nat) (agree : Bool) : Statement (.maskSeedDelivery n agree) := all _
theorem maskSeedExpiry (n : Nat) : Statement (.maskSeedExpiry n) := all _
theorem entropyWaitTimeout (cid : Nat) : Statement (.entropyWaitTimeout cid) := all _
theorem skeRequestStart (lane : Nat) : Statement (.skeRequestStart lane) := all _
theorem skeRequestEnd (lane : Nat) (checkOk : Bool) : Statement (.skeRequestEnd lane checkOk) := all _
theorem skeLaneCtrlGateReq (req : Requester) (lane : Nat) (on : Bool) : Statement (.skeLaneCtrlGateReq req lane on) := all _
theorem skeLaneCtrlFence (req : Requester) (lane : Nat) (on : Bool) : Statement (.skeLaneCtrlFence req lane on) := all _
theorem skeLaneCtrlRejoin (req : Requester) (lane : Nat) : Statement (.skeLaneCtrlRejoin req lane) := all _
theorem nonceReservationDone (ok0 : Bool) (ok1 : Bool) : Statement (.nonceReservationDone ok0 ok1) := all _
theorem nonceRotation (slot : Nat) : Statement (.nonceRotation slot) := all _
theorem trngWindowEnd (src : Nat) (bits : List Bool) : Statement (.trngWindowEnd src bits) := all _
theorem drbgInstantiate (agree : Bool) : Statement (.drbgInstantiate agree) := all _
theorem drbgReseed (agree : Bool) : Statement (.drbgReseed agree) := all _
theorem autoRecalibrate (src : Nat) : Statement (.autoRecalibrate src) := all _
theorem trngSrcCtrlRecal (req : Requester) (src : Nat) : Statement (.trngSrcCtrlRecal req src) := all _
theorem trngSrcCtrlIsolate (req : Requester) (src : Nat) : Statement (.trngSrcCtrlIsolate req src) := all _
theorem recalSweepEnd (src : Nat) (windows : List (List Bool)) : Statement (.recalSweepEnd src windows) := all _
theorem mainsCrossing (t : Nat) (negs : List Nat) : Statement (.mainsCrossing t negs) := all _
theorem cycleMissing : Statement (.cycleMissing) := all _
theorem compassTick : Statement (.compassTick) := all _
theorem compassStart (elapsed : Nat) : Statement (.compassStart elapsed) := all _
theorem clockCrossCheck (ppm : Nat) : Statement (.clockCrossCheck ppm) := all _
theorem waypointFire (n : Nat) : Statement (.waypointFire n) := all _
theorem waypointEpochRoll (n : Nat) : Statement (.waypointEpochRoll n) := all _
theorem rateWindowEnd (tenant : Nat) : Statement (.rateWindowEnd tenant) := all _
theorem arbitrationRound : Statement (.arbitrationRound) := all _
theorem sqPollTick (sq : Nat) : Statement (.sqPollTick sq) := all _
theorem sqHeaderRead (sq : Nat) (r : HeaderRead) : Statement (.sqHeaderRead sq r) := all _
theorem cqRoomPoll (cq : Nat) (r : HeaderRead) : Statement (.cqRoomPoll cq r) := all _
theorem coalesceTimer (cq : Nat) : Statement (.coalesceTimer cq) := all _
theorem msixPendingSend (fn : Nat) (vec : Nat) : Statement (.msixPendingSend fn vec) := all _
theorem hostReadTimeout (id : Nat) : Statement (.hostReadTimeout id) := all _
theorem linkReset : Statement (.linkReset) := all _
theorem linkUp (a b c : Nat) : Statement (.linkUp a b c) := all _
theorem vfFlr (fn : Nat) : Statement (.vfFlr fn) := all _
theorem pfFlr : Statement (.pfFlr) := all _
theorem vfDisable (enable : Bool) (num : Nat) : Statement (.vfDisable enable num) := all _
theorem fabricAccess (req : Requester) (kind : AccKind) (addr : Nat) (len : Nat) (data : Bytes) (e : Mishap) : Statement (.fabricAccess req kind addr len data e) := all _
theorem debugAccess (kind : AccKind) (addr : Nat) (len : Nat) (data : Bytes) : Statement (.debugAccess kind addr len data) := all _
theorem hostMboxPostedWrite (fn : Nat) (addr : Nat) (data : Bytes) : Statement (.hostMboxPostedWrite fn addr data) := all _
theorem farWindowAccess (n : Nat) (off : Nat) (write : Bool) (value : Nat) : Statement (.farWindowAccess n off write value) := all _
theorem farReadTimeout (xtag : Nat) : Statement (.farReadTimeout xtag) := all _
theorem mpcWdogFeed (master : Nat) : Statement (.mpcWdogFeed master) := all _
theorem watchdogMiss (pair : Nat) : Statement (.watchdogMiss pair) := all _
theorem g5RestartEnd (facts : BootFacts) : Statement (.g5RestartEnd facts) := all _
theorem mpcLeaseHoldSet (master : Nat) (value : Nat) : Statement (.mpcLeaseHoldSet master value) := all _
theorem leaseTimeout (ske : Bool) (n : Nat) : Statement (.leaseTimeout ske n) := all _
theorem hardEscalation (slot : Nat) : Statement (.hardEscalation slot) := all _
theorem clusterResetEnd (cluster : Nat) (kat4 kat5 : Bool) : Statement (.clusterResetEnd cluster kat4 kat5) := all _
theorem regionResetEnd (region : Nat) (kat4 kat5 : Bool) : Statement (.regionResetEnd region kat4 kat5) := all _
theorem logSubmit (typ : Nat) : Statement (.logSubmit typ) := all _
theorem logFreezeTimeout : Statement (.logFreezeTimeout) := all _
theorem journalEntryWrite (ok : Bool) : Statement (.journalEntryWrite ok) := all _
theorem pocketRecordCopy : Statement (.pocketRecordCopy) := all _
theorem tamperAlarm (source : Nat) (pathB : Bool) (detail : Nat) (value : Nat) : Statement (.tamperAlarm source pathB detail value) := all _
theorem tamperDecisionDelayEnd (source : Nat) : Statement (.tamperDecisionDelayEnd source) := all _
theorem tamperAlarmClear (source : Nat) : Statement (.tamperAlarmClear source) := all _
theorem keeperMaskRotate : Statement (.keeperMaskRotate) := all _
theorem rsGenRetry (n : List Bool) (nk : Bool) : Statement (.rsGenRetry n nk) := all _
theorem mainPowerOn : Statement (.mainPowerOn) := all _
theorem mainPowerLoss (cut : Nat) : Statement (.mainPowerLoss cut) := all _
theorem porstNAssert : Statement (.porstNAssert) := all _
theorem boot (facts : BootFacts) : Statement (.boot facts) := all _
theorem mramScrub (bad : List (Nat × Bool)) : Statement (.mramScrub bad) := all _
theorem portTransaction (port : Nat) (frame : PadFrame) : Statement (.portTransaction port frame) := all _
theorem portSessionOpen (port : Nat) : Statement (.portSessionOpen port) := all _
theorem helloAck (port : Nat) (frame : PadFrame) (nonce : Bytes) : Statement (.helloAck port frame nonce) := all _
theorem approve (port : Nat) (frame : PadFrame) (op : Nat) (pos : Nat) (pin : Bytes) (digest : Bytes) : Statement (.approve port frame op pos pin digest) := all _
theorem pinSet (port : Nat) (frame : PadFrame) (pos : Nat) (pin : Bytes) (pin2 : Bytes) : Statement (.pinSet port frame pos pin pin2) := all _
theorem keepalive (port : Nat) (frame : PadFrame) : Statement (.keepalive port frame) := all _
theorem discover (port : Nat) (front : Nat) : Statement (.discover port front) := all _
theorem discoverAck (port : Nat) (pos : Nat) (serial : Nat) (life : Nat) : Statement (.discoverAck port pos serial life) := all _
theorem assign (number : Nat) : Statement (.assign number) := all _
theorem commandFrame (h : FerryHead) (m : Msg) : Statement (.commandFrame h m) := all _
theorem responseFrame (h : FerryHead) (status : Nat) (reason : Nat) (info : Nat) (hamper : Nat) (key : Nat) (stamp : Nat) (result : Bytes) : Statement (.responseFrame h status reason info hamper key stamp result) := all _
theorem regRead (h : FerryHead) (off : Nat) (len : Nat) : Statement (.regRead h off len) := all _
theorem regWrite (h : FerryHead) (off : Nat) (len : Nat) (value : Nat) : Statement (.regWrite h off len value) := all _
theorem regData (h : FerryHead) (value : Nat) : Statement (.regData h value) := all _
theorem hostRead (h : FerryHead) (addr : Nat) (len : Nat) : Statement (.hostRead h addr len) := all _
theorem hostWrite (h : FerryHead) (addr : Nat) (data : Bytes) : Statement (.hostWrite h addr data) := all _
theorem hostData (h : FerryHead) (data : HostData) : Statement (.hostData h data) := all _
theorem eventFrame (h : FerryHead) (source : Nat) : Statement (.eventFrame h source) := all _
theorem linkFrame (port : Nat) (h : FerryHead) (nak : Bool) : Statement (.linkFrame port h nak) := all _
theorem ferryIdleLink (port : Nat) : Statement (.ferryIdleLink port) := all _
theorem ferryDiscoverTick : Statement (.ferryDiscoverTick) := all _
theorem ferryPortTrained (port : Nat) : Statement (.ferryPortTrained port) := all _
theorem ferryLinkSilence (port : Nat) : Statement (.ferryLinkSilence port) := all _
theorem followerAbsent (n : Nat) : Statement (.followerAbsent n) := all _
theorem replicationOfferExpiry (tenant : Nat) : Statement (.replicationOfferExpiry tenant) := all _
theorem smbusDevStatus : Statement (.smbusDevStatus) := all _
theorem smbusLanternStatus : Statement (.smbusLanternStatus) := all _
theorem smbusTemperatures : Statement (.smbusTemperatures) := all _
theorem smbusKeeperPower : Statement (.smbusKeeperPower) := all _
theorem smbusFaultCountB : Statement (.smbusFaultCountB) := all _
theorem smbusDeviceSerial : Statement (.smbusDeviceSerial) := all _
theorem smbusAlertResponse : Statement (.smbusAlertResponse) := all _
theorem lanternEdge (pins : Nat) : Statement (.lanternEdge pins) := all _
theorem skeLaneSelfTestEnd (lane : Nat) (pass : Bool) : Statement (.skeLaneSelfTestEnd lane pass) := all _
theorem hostReadCompletion (id : Nat) (r : HostData) : Statement (.hostReadCompletion id r) := all _
theorem debugChallengeExpiry : Statement (.debugChallengeExpiry) := all _

end Sys2Proof.Laws.Sized
end

