-- ==== Sys2Proof/Tests/Slice0.lean ====
section
/-! SUPPORT. The tests. First, for every statement of Certificates/Slice0/Obligations.lean, that its hypotheses are met together:
`witness_X` shows, clause by clause, a state and operands that meet those of `Obligations.X` (a boundary value of each range where
it has one). What a signature, a digest or an unwrap gives is a free function of Config: a hypothesis that rests on one is met
where the free function says so, and the witness says which. Then an ill-formed command for every check of WellFormed, and the
worked examples of the manual. -/

namespace Sys2Proof.Tests
set_option Elab.async false
open Sys2Proof.Machine

/-- A device in service: as shipped, its custody firmware up, its DRBG in full service, both pairs in service. -/
def up : State :=
  { (((((State.reset.put R.devStatusCustodyUp 1).put R.trngStateDrbg 2).put R.mpcWorldStatusPairA 1).put R.mpcWorldStatusPairB 1).put
    R.mpcWorldStatusKeysLocked 0) with pwr.regionReset := 0 }

/-- A message of the custody firmware for `tenant`, with a payload. -/
def msg (tenant : Nat) (payload : Bytes) : Msg :=
  ⟨0, 0, tenant, 0, 0, 0, 1, payload.length, 0, 0, 0, 0, 0, 0, 0, 0, 0, payload, .firmware, 0⟩

def asSent (op : Nat) (m : Msg) : Msg := { m with opcode := op }
def began (op : Nat) (m : Msg) (s : State) : State := (s.take (asSent op m)).1
def taken (op : Nat) (m : Msg) (s : State) : Msg := { asSent op m with cid := (s.take (asSent op m)).2 }
def stands (op : Nat) (m : Msg) (s : State) : State :=
  if (taken op m s).custody then (began op m s).pageOverlay (taken op m s).opcode else began op m s

def lets (op : Nat) (m : Msg) (s : State) : Bool :=
  decide (m.origin = .firmware) && s.dieMRuns && s.is R.devStatusCustodyUp
    && (began op m s).precheck (taken op m s) == none && !(began op m s).pauses (taken op m s) && !(began op m s).isFar (taken op m s)

theorem granted_of {op : Nat} {m : Msg} {s : State} (h : lets op m s = true) :
    Granted op m s (stands op m s) (taken op m s) := by
  simp only [lets, Bool.and_eq_true, decide_eq_true_eq, beq_iff_eq, Bool.not_eq_true'] at h
  obtain ⟨⟨⟨⟨⟨ho, hr⟩, hc⟩, hp⟩, hw⟩, hf⟩ := h
  refine ⟨began op m s, ⟨s, asSent op m, ?_, rfl, rfl⟩, hp, hw, hf, .inl ?_, rfl⟩
  · simp [State.door, ho, hr, hc, asSent]
  · simp [State.quorumNeed, taken, asSent, ho]

/-- The message is let through, and `h` holds of the state and the command then. -/
def Sends (op : Nat) (m : Msg) (s : State) (h : State → Msg → Prop) : Prop :=
  Granted op m s (stands op m s) (taken op m s) ∧ h (stands op m s) (taken op m s)

theorem sends {op : Nat} {m : Msg} {s : State} {h : State → Msg → Prop} (a : lets op m s = true)
    (b : h (stands op m s) (taken op m s)) : Sends op m s h := ⟨granted_of a, b⟩

/-- The state in which the command `cid` stands with `f` done to it. -/
def given (f : Cmd → Cmd) (cid : Nat) (s : State) : State := { s with host.cmds := adjust s.host.cmds cid f }

/-- Its requests and jobs have given it these parts; its job has given it this. -/
def parts (p : Amap Bytes) (x : Cmd) : Cmd := { x with parts := p }
def ran (y : Yield) (x : Cmd) : Cmd := { x with got := some y }

/-- A command of this opcode, with `f` done to it, runs on in a state of which `h` holds: what `RunsOn` speaks of. -/
def Later (op : Nat) (m : Msg) (s : State) (f : Cmd → Cmd) (h : State → Msg → Prop) : Prop :=
  let c := taken op m s
  let w := given f c.cid (stands op m s)
  c.opcode = op ∧ (if c.custody then w.pageOverlay c.opcode else w) = w ∧ h w c

theorem later {op : Nat} {m : Msg} {s : State} {f : Cmd → Cmd} {h : State → Msg → Prop}
    (a : (stands op m s).overlaysOut = false) (b : h (given f (taken op m s).cid (stands op m s)) (taken op m s)) :
    Later op m s f h := by
  have h0 : (given f (taken op m s).cid (stands op m s)).overlaysOut = false := a
  exact ⟨rfl, by simp [State.pageOverlay, h0], b⟩

def bytes (n : Nat) : Bytes := List.replicate n 1

/-- Cluster 3 is READY with these programs in its microcode store. -/
def ready (progs : List Nat) (s : State) : State :=
  { s.put (R.pkeClusterStatusState 3) 3 with eng.clusters := [(3, { Cluster.new with loaded := [(1, progs)] })] }

/-- The hypotheses of InfoAndAttestation are met. -/
theorem witness_InfoAndAttestation :
    Sends 0x0101 (msg 0 []) up (fun _ c => c.payloadLen = 0) ∧
    Sends 0x0102 (msg 0 []) { up with keys.idSeeds := bytes 56 } (fun u c => c.payloadLen = 0 ∧ u.keys.idSeeds ≠ []) ∧
    Sends 0x0103 (msg 0 (bytes 64)) { up with keys.attKey := bytes 48 }
      (fun u c => 16 ≤ c.payloadLen ∧ c.payloadLen ≤ 64 ∧ u.keys.attKey ≠ [] ∧ u.get R.bootStatusRootsUnmatched = 0) ∧
    Sends 0x0104 (msg 0 (bytes 16)) { ready [0x01, 0x31] up with keys.idSeeds := bytes 56 }
      (fun u c => 16 ≤ c.payloadLen ∧ c.payloadLen ≤ 64 ∧ u.keys.idSeeds ≠ [] ∧ u.hasProgram 0x01 = true ∧ u.hasProgram 0x31 = true) ∧
    Sends 0x0103 (msg 0 (bytes 16)) up (fun u c => 16 ≤ c.payloadLen ∧ c.payloadLen ≤ 64 ∧
      (u.keys.attKey = [] ∨ u.get R.bootStatusRootsUnmatched = 1)) :=
  ⟨sends (by decide +kernel) (by decide +kernel), sends (by decide +kernel) (by decide +kernel),
   sends (by decide +kernel) (by decide +kernel), sends (by decide +kernel) (by decide +kernel),
   sends (by decide +kernel) (by decide +kernel)⟩

/-- The value of a result that is one. -/
def okOf {ε α : Type} : Except ε α → Option α
  | .ok a => some a
  | .error _ => none

/-- A page was read. -/
def isPage : Read → Bool
  | .page _ => true
  | _ => false

/-- Tenant 7's entry: one live write generation, number 3. -/
def tenant (state : Nat) : Tenant := ⟨state, 1, 5, [3, 0, 0], bytes 32, [bytes 16, bytes 16, bytes 16], false, []⟩

def withTenant (state : Nat) : State := { up with keys.tenants := [(7, tenant state)] }

theorem witness_TenantCreate :
    Sends 0x0401 (msg 7 (leBytes 4 61184)) up (fun u c => c.payloadLen = 4 ∧ le c.payload 0 4 ≤ 61184 ∧
      u.get R.bootStatusRootsUnmatched = 0 ∧ u.life.updating = none ∧ u.canDraw = true ∧ u.tenant c.tenant = none) ∧
    Sends 0x0401 (msg 7 (leBytes 4 0)) (withTenant 3) (fun u c => c.payloadLen = 4 ∧ le c.payload 0 4 ≤ 61184 ∧
      u.get R.bootStatusRootsUnmatched = 0 ∧ u.life.updating = none ∧ u.canDraw = true ∧ u.tenant c.tenant = some (tenant 3) ∧
      (tenant 3).state = 3 ∧ (tenant 3).tg ≠ 0xFFFFFFFF) :=
  ⟨sends (by decide +kernel) (by decide +kernel), sends (by decide +kernel) (by decide +kernel)⟩

/-- A key of tenant 7 in working slot 0, which every use is granted, of a TYPE and a length; its cells are
`key`. Its handle is 0x20000. -/
def aSlot (typ : Nat) (key : Bytes) : Slot :=
  ⟨7, 2, typ, key.length - 1, 0, false, false, 0xFFF, 3, 0, 0, key, 0, 0, 0, 0, 2 ^ 32, false, false, false, 0, none, 0, false⟩

/-- Tenant 7 with a key of its generation 3 in slot 0, held by `n` jobs. -/
def withUsedKey (n : Nat) : State :=
  { withTenant 1 with keys.slots := [(0, { aSlot 1 (bytes 32) with inuse := n })] }

theorem witness_Generations :
    Sends 0x0405 (msg 7 []) (withTenant 1) (fun u c => u.tenantRefusal c.tenant false = none ∧ u.tenant c.tenant = some (tenant 1) ∧
      c.payloadLen = 0 ∧ (List.range 3).find? (fun i => !bitOf (tenant 1).live i) = some 1 ∧ (tenant 1).issued + 1 < 0xFFFFFFFF ∧
      u.life.updating = none ∧ u.canDraw = true) ∧
    (∀ n ∈ [0, 1], Sends 0x0406 (msg 7 (leBytes 4 3)) ((withUsedKey n).put R.logStatusHeld 8191) (fun u c =>
      let v := ((u.actIntent c 3).beginDying c.tenant (some 3) St.generationRetired).wipeSlots
        (fun x => x.tenant == c.tenant && x.wg == 3 && x.inuse == 0)
      u.tenantRefusal c.tenant false = none ∧ u.tenant c.tenant = some (tenant 1) ∧ c.payloadLen = 4 ∧ le c.payload 0 4 = 3 ∧
      (tenant 1).position 3 = some 0 ∧ u.get R.logStatusHeld < 8192 ∧ (c.tenant, 3) ∉ u.keys.dyingWgs ∧
      v.keys.slots.any (fun x => x.2.tenant == c.tenant && x.2.wg == 3) = decide (n = 1))) :=
  ⟨sends (by decide +kernel) (by decide +kernel), fun n h => by
    simp only [List.mem_cons, List.not_mem_nil, or_false] at h
    rcases h with rfl | rfl <;> exact sends (by decide +kernel) (by decide +kernel)⟩

theorem witness_TenantDelete :
    ∀ n ∈ [0, 1], Sends 0x0402 (msg 7 []) ((withUsedKey n).put R.logStatusHeld 8191) (fun u c =>
      let v := ((u.actIntent c 0xFFFFFFFF).beginDying c.tenant none St.tenantDeleted).wipeSlots
        (fun x => x.tenant == c.tenant && x.inuse == 0)
      c.payloadLen = 0 ∧ u.tenant c.tenant = some (tenant 1) ∧ (tenant 1).state ≠ 3 ∧ u.get R.logStatusHeld < 8192 ∧
      c.tenant ∉ u.keys.dyingTenants ∧ v.keys.slots.any (fun x => x.2.tenant == c.tenant) = decide (n = 1)) :=
  fun n h => by
    simp only [List.mem_cons, List.not_mem_nil, or_false] at h
    rcases h with rfl | rfl <;> exact sends (by decide +kernel) (by decide +kernel)

theorem witness_TenantSettings :
    Sends 0x0403 (msg 7 (leBytes 4 61184)) (withTenant 2) (fun u c => c.payloadLen = 4 ∧ le c.payload 0 4 ≤ 61184 ∧
      u.tenantRefusal c.tenant true = none) ∧
    Sends 0x0404 (msg 7 (leBytes 8 (2 ^ 32) ++ [1])) (withTenant 1) (fun u c => c.payloadLen = 9 ∧ 1 ≤ le c.payload 0 8 ∧
      le c.payload 0 8 ≤ 2 ^ 32 ∧ le c.payload 8 1 ≤ 1 ∧ u.tenantRefusal c.tenant true = none) ∧
    Sends 0x0408 (msg 7 []) (withTenant 2) (fun u c => c.payloadLen = 0 ∧ u.tenantRefusal c.tenant true = none ∧
      u.tenant c.tenant = some (tenant 2) ∧ (tenant 2).failed = false) ∧
    Sends 0x0407 (msg 0 (leBytes 8 256 ++ bytes 512)) up (fun _ c => c.payloadLen = 520 ∧ le c.payload 0 2 ≤ 0x100 ∧
      le c.payload 2 6 = 0) ∧
    Sends 0x0409 (msg 7 []) (withTenant 3) (fun u c => c.payloadLen = 0 ∧ u.tenant c.tenant = some (tenant 3)) :=
  ⟨sends (by decide +kernel) (by decide +kernel), sends (by decide +kernel) (by decide +kernel),
    sends (by decide +kernel) (by decide +kernel), sends (by decide +kernel) (by decide +kernel),
    sends (by decide +kernel) (by decide +kernel)⟩

/-- A custodian with a pad, none of whose PINs is pending. -/
def custodian : Custodian := ⟨bytes 16, 1, true, false, 0, bytes 32, 0, 0⟩

/-- Four device custodians, each with a pad. -/
def withCustodians : State := { up with quorum.custodians := [(0, custodian), (1, custodian), (2, custodian), (3, custodian)] }

def withSlot (typ : Nat) (key : Bytes) : State :=
  { withTenant 1 with
    keys.slots := [(0, aSlot typ key)]
    host.bindings := [(0, [7])]
    keys.idSeeds := bytes 56 }

/-- The base point of P-384, uncompressed. -/
def basePoint : Bytes := p384.encode (some (p384.gx, p384.gy))

/-- A recipient of a hybrid transport: port 0, FORM 2, an encapsulation key, and the base point. -/
def toPoint : Bytes := leBytes 8 0 ++ [2, 0, 0, 0, 0, 0, 0, 0] ++ bytes 1184 ++ basePoint

/-- The scalar that the DRBG gives in `u` and the base point agree on `e`. -/
def Meets (u : State) (e : Bytes) : Prop :=
  p384.agree Blind.none (beBytes 48 (p384.scalarOf ((u.draw 96).2.drop 32))) basePoint = .ok e

theorem hybrid_starts {u : State} {ek point attr e : Bytes} (hk : kemKeyOk ek 1152 = true) (hp : point = basePoint)
    (hd : u.canDraw = true) (he : Meets u e) : ∃ x, u.hybridStart ek point attr = ((u.draw 96).1, .ok x) := by
  subst hp
  have hb : (okOf (p384.decode basePoint)).isSome = true := by decide +kernel
  unfold State.hybridStart
  rw [if_neg (by simp [hk])]
  split
  · next h => rw [h] at hb; cases hb
  · rw [if_neg (by simp [hd])]
    simp only
    rw [show p384.agree _ _ _ = _ from he]
    exact ⟨_, rfl⟩

theorem witness_CustodianActs :
    Sends 0x0501 (msg 0 ([0, 15, 0, 0, 1, 1, 1, 0] ++ bytes 97)) withCustodians (fun u c =>
      custPayloadOk c.payload c.payloadLen true = true ∧ custTarget c.payload = none ∧ u.custodian none (le c.payload 1 1) = none) ∧
    Sends 0x0501 (msg 0 ([1, 7, 7, 0, 2, 0, 0, 0] ++ bytes 1952)) withCustodians (fun u c =>
      custPayloadOk c.payload c.payloadLen true = true ∧ custTarget c.payload = some 7 ∧
      u.custodian (some 7) (le c.payload 1 1) = none ∧ bitOf (le c.payload 5 1) 0 = false) ∧
    Sends 0x0502 (msg 0 [0, 3, 0, 0, 0, 0, 0, 0]) withCustodians (fun u c =>
      let v := { u with quorum.custodians := drop u.quorum.custodians (custKey none 3) }
      custPayloadOk c.payload c.payloadLen false = true ∧ custTarget c.payload = none ∧ le c.payload 1 1 = 3 ∧
      u.custodian none 3 = some custodian ∧ (∀ k ∈ classesOf none, (v.policy k 0).m ≤ popcount 16 (v.eligible k 0)) ∧
      (∀ k ∈ [7, 10, 12, 13], u.hasPad (u.eligible k 0) = true → v.hasPad (v.eligible k 0) = true)) ∧
    Sends 0x0503 (msg 0 ([13, 4, 15, 0] ++ leBytes 4 4000000 ++ leBytes 8 0)) withCustodians (fun u c =>
      let among := u.enrolled (tenantOf 13 0) &&& le c.payload 2 2
      c.payloadLen = 16 ∧ le c.payload 0 1 = 13 ∧ 13 ∈ deviceClasses ∧ le c.payload 8 2 = 0 ∧ le c.payload 10 6 = 0 ∧
      1 ≤ le c.payload 1 1 ∧ le c.payload 1 1 ≤ popcount 16 among ∧ 1000 ≤ le c.payload 4 4 ∧ le c.payload 4 4 ≤ 4000000 ∧
      u.hasPort among = true ∧ (u.get R.devStatusLife = 2 → 13 < 16 → 2 ≤ le c.payload 1 1)) ∧
    Sends 0x0503 (msg 0 ([17, 1, 1, 0] ++ leBytes 4 1000 ++ [255, 15] ++ leBytes 6 0))
      { up with quorum.custodians := [(0x1000 + 8 * 4095, custodian)] } (fun u c =>
      let among := u.enrolled (tenantOf 17 4095) &&& le c.payload 2 2
      c.payloadLen = 16 ∧ le c.payload 0 1 = 17 ∧ le c.payload 8 2 = 4095 ∧ le c.payload 10 6 = 0 ∧ 1 ≤ le c.payload 1 1 ∧
      le c.payload 1 1 ≤ popcount 16 among ∧ 1000 ≤ le c.payload 4 4 ∧ le c.payload 4 4 ≤ 4000000 ∧ 17 ∉ [7, 10, 12, 13]) ∧
    Sends 0x0504 { msg 0 ([1, 0, 0, 0, 0, 0, 0, 0] ++ [1, 0, 0, 0, 0, 0, 0, 0]) with key2 := 0x20000 } (withSlot 3 (bytes 32))
      (fun u c => le c.payload 0 1 ≤ 1 ∧ le c.payload 1 7 = 0 ∧ c.payloadLen = c.payload.length ∧
        allZero (slice (c.payload.drop 8) 1 7) = true ∧ u.keys.idSeeds ≠ [] ∧ c.payload.length = 16 ∧
        le (c.payload.drop 8) 0 1 = 1 ∧ okOf (u.kek c uWrap) = some (aSlot 3 (bytes 32)) ∧ u.skeRoom true = true) ∧
    Sends 0x0504 (msg 0 toPoint) (withSlot 3 (bytes 32))
      (fun u c => (le c.payload 0 1 ≤ 1 ∧ le c.payload 1 7 = 0 ∧ c.payloadLen = c.payload.length ∧
        allZero (slice (c.payload.drop 8) 1 7) = true ∧ u.keys.idSeeds ≠ [] ∧ c.payload.length = 1297 ∧
        le (c.payload.drop 8) 0 1 = 2) ∧
        ∀ e, Meets u e → ∃ v x, u.hybridStart (slice (c.payload.drop 8) 8 1184) (slice (c.payload.drop 8) 1192 97) pairAttr.bytes =
          (v, .ok x) ∧ (v.setPart c.cid 5 x).skeRoom true = true ∧ v.partOf c.cid 3 = none) ∧
    Later 0x0504 { msg 0 ([1, 0, 0, 0, 0, 0, 0, 0] ++ [1, 0, 0, 0, 0, 0, 0, 0]) with key2 := 0x20000 } (withSlot 3 (bytes 32))
      (parts [(3, bytes 40)]) (fun w c => le c.payload 0 1 ≤ 1 ∧ le c.payload 1 7 = 0 ∧ c.payloadLen = c.payload.length ∧
        allZero (slice (c.payload.drop 8) 1 7) = true ∧ w.keys.idSeeds ≠ [] ∧ w.partOf c.cid 3 = some (bytes 40) ∧
        c.payload.length = 16 ∧ le (c.payload.drop 8) 0 1 = 1 ∧ okOf (w.kek c uWrap) = some (aSlot 3 (bytes 32))) ∧
    Later 0x0504 (msg 0 toPoint) (withSlot 3 (bytes 32)) (parts [(3, bytes 40), (5, bytes 1217)]) (fun w c => le c.payload 0 1 ≤ 1 ∧
      le c.payload 1 7 = 0 ∧ c.payloadLen = c.payload.length ∧ allZero (slice (c.payload.drop 8) 1 7) = true ∧ w.keys.idSeeds ≠ [] ∧
      w.partOf c.cid 3 = some (bytes 40) ∧ c.payload.length = 1297 ∧ le (c.payload.drop 8) 0 1 = 2 ∧
      w.partOf c.cid 5 = some (bytes 1217)) :=
  ⟨sends (by decide +kernel) (by decide +kernel), sends (by decide +kernel) (by decide +kernel),
    sends (by decide +kernel) (by decide +kernel), sends (by decide +kernel) (by decide +kernel),
    sends (by decide +kernel) (by decide +kernel), sends (by decide +kernel) (by decide +kernel),
    sends (by decide +kernel) ⟨by decide +kernel, fun e he => by
      obtain ⟨x, hx⟩ := hybrid_starts (u := stands 0x0504 (msg 0 toPoint) (withSlot 3 (bytes 32)))
        (ek := slice (toPoint.drop 8) 8 1184) (point := slice (toPoint.drop 8) 1192 97) (attr := pairAttr.bytes) (by decide +kernel)
        (by decide +kernel) (by decide +kernel) he
      exact ⟨_, x, hx, rfl, by decide +kernel⟩⟩,
    later (by decide +kernel) (by decide +kernel), later (by decide +kernel) (by decide +kernel)⟩

/-- An operation of class 1 stands in slot 0 under operation ID 32, started by instance 4 with a message of its own. -/
def withOperation : State :=
  { withCustodians.put (R.quorumSlotClassState 0) 1 |>.put (R.quorumSlotIdOperationId 0) 32 |>.put (R.quorumSlotClassClass 0) 1
    |>.put (R.quorumSlotClassM 0) 2 |>.put (R.quorumSlotApprovalsEligible 0) 15 with
    quorum.acts := [(0, ⟨{ msg 7 [] with inst := 4 }, bytes 48, 32, false⟩)] }

theorem witness_Operations :
    Sends 0x0506 (msg 0 (leBytes 4 32)) withOperation (fun u c => c.payloadLen = 4 ∧ le c.payload 0 4 = 32 ∧
      u.get (R.quorumSlotClassState (32 % 32)) ≠ 0 ∧ u.get (R.quorumSlotIdOperationId (32 % 32)) = 32) ∧
    Sends 0x0506 (msg 0 (leBytes 4 31)) { up with quorum.outcomes := [(31, St.quorumTimeout)] } (fun u c =>
      c.payloadLen = 4 ∧ le c.payload 0 4 = 31 ∧ u.get (R.quorumSlotIdOperationId (31 % 32)) ≠ 31 ∧
      u.quorum.outcomes.find? (fun o => o.1 == 31) = some (31, St.quorumTimeout)) ∧
    Sends 0x0507 { msg 0 (leBytes 4 32) with inst := 4 } withOperation (fun u c => c.payloadLen = 4 ∧ le c.payload 0 4 = 32 ∧
      u.slotPends 32 = true ∧ (look u.quorum.acts (32 % 32)).isSome = true ∧ ((look u.quorum.acts 0).map (·.m.inst)) = some c.inst) :=
  ⟨sends (by decide +kernel) (by decide +kernel), sends (by decide +kernel) (by decide +kernel),
    sends (by decide +kernel) (by decide +kernel)⟩

theorem witness_TimeCommands :
    Sends 0x0601 (msg 0 []) up (fun _ c => c.payloadLen = 0) ∧
    Sends 0x0603 (msg 0 ([127, 2, 3, 0] ++ leBytes 2 9 ++ leBytes 6 40 ++ leBytes 4 1 ++ leBytes 4 0 ++ leBytes 2 1023 ++ leBytes 2 256
      ++ leBytes 40 0)) up (fun u c => waypointOk c.payload c.payloadLen = true ∧ le c.payload 1 1 = 2 ∧
        ¬(le c.payload 6 6 < u.compass.count ∨ le c.payload 6 6 = u.compass.count ∧ le c.payload 4 2 ≤ u.compass.lastPhase)) ∧
    Sends 0x0603 (msg 0 ([0, 1, 0, 0] ++ leBytes 60 0)) up (fun u c => waypointOk c.payload c.payloadLen = true ∧
      le c.payload 1 1 ≠ 2 ∧ le c.payload 6 6 = u.compass.count ∧ le c.payload 4 2 ≤ u.compass.lastPhase) ∧
    Sends 0x0604 (msg 0 [127]) up (fun _ c => c.payloadLen = 1) ∧
    Sends 0x0605 (msg 0 [60]) (up.put R.lifeLimits0Nominal 3) (fun u c => c.payloadLen = 1 ∧ le c.payload 0 1 = 60 ∧
      u.get R.lifeLimits0Nominal < 4 ∧ u.holdup = true) :=
  ⟨sends (by decide +kernel) (by decide +kernel), sends (by decide +kernel) (by decide +kernel),
    sends (by decide +kernel) (by decide +kernel), sends (by decide +kernel) (by decide +kernel),
    sends (by decide +kernel) (by decide +kernel)⟩

/-- A tag that stands for no empty child. -/
def aTag : Bytes := bytes 16

/-- A store of 1,024 pages, attached and open, all of it empty. -/
def withStore (s : State) : State :=
  { (s.put R.storeStatusOpen 1).put R.storeEpochPagesLog2 10 with hs.attached := true, hs.root := emptyNode }

/-- The store with `p` in page 0, changed in the open batch; the nodes above it are held. -/
def withPage (s : State) (p : Bytes) : State :=
  { withStore s with
    hs.root := setChild emptyNode 0 aTag
    hs.pinned := [1, 2, 3, 4, 5, 6, 7, 8, 9].map (fun k => (nodeId k 0, setChild emptyNode 0 aTag))
    hs.batches := [{ Batch.new with pages := [(0, p)] }] }

/-- A small hamper's header in cell 0 of page 0, of `tenant` at TG 5 and a WG; its reference is 0. -/
def headFor (tenant wg : Nat) : HamperHead := ⟨1, 0, tenant, 5, wg, 3, 0, 0xFFF, 32, wrapLenOf 32, 0, List.replicate 8 0, 0, 0⟩

/-- A page that holds that hamper. -/
def pageOf (h : HamperHead) : Bytes := padTo 4096 (h.bytes ++ bytes 56)

theorem witness_StoreCommands :
    Sends 0x0701 (msg 0 (leBytes 8 4096 ++ leBytes 8 8192 ++ leBytes 8 0 ++ [4, 12] ++ leBytes 2 4096 ++ leBytes 4 0)) up (fun _ c =>
      c.payloadLen = 32 ∧ 4 ≤ le c.payload 24 1 ∧ le c.payload 24 1 ≤ 12 ∧ 4 ≤ le c.payload 25 1 ∧ le c.payload 25 1 ≤ 12 ∧
      16 ≤ le c.payload 26 2 ∧ le c.payload 26 2 ≤ 4096 ∧ le c.payload 0 8 % 4096 = 0 ∧ le c.payload 8 8 % 4096 = 0 ∧
      le c.payload 16 8 % 4096 = 0 ∧ le c.payload 28 4 = 0) ∧
    Sends 0x0701 (msg 0 (leBytes 8 4096 ++ leBytes 8 8192 ++ leBytes 8 0 ++ [12, 4] ++ leBytes 2 16 ++ leBytes 4 0)) (withStore up)
      (fun u c => c.payloadLen = 32 ∧ 4 ≤ le c.payload 24 1 ∧ le c.payload 24 1 ≤ 12 ∧ 4 ≤ le c.payload 25 1 ∧
        le c.payload 25 1 ≤ 12 ∧ 16 ≤ le c.payload 26 2 ∧ le c.payload 26 2 ≤ 4096 ∧ le c.payload 0 8 % 4096 = 0 ∧
        le c.payload 8 8 % 4096 = 0 ∧ le c.payload 16 8 % 4096 = 0 ∧ le c.payload 28 4 = 0 ∧ u.hs.attached = true) ∧
    Sends 0x0702 (msg 0 [30]) { (withStore up).put R.keeperStoreEpochRows 63 with keys.idSeeds := bytes 56 } (fun u c =>
      c.payloadLen = 1 ∧ 10 ≤ le c.payload 0 1 ∧ le c.payload 0 1 ≤ 30 ∧ u.hs.attached = true ∧ u.get R.keeperStoreEpochRows < 64 ∧
      u.get R.storeStatusReopenWait = 0 ∧ u.hs.formatting = none ∧ u.keys.idSeeds ≠ [] ∧ u.hs.batches = []) ∧
    Sends 0x0702 (msg 0 [10]) { withPage up (bytes 4096) with keys.idSeeds := bytes 56 } (fun u c =>
      c.payloadLen = 1 ∧ 10 ≤ le c.payload 0 1 ∧ le c.payload 0 1 ≤ 30 ∧ u.hs.attached = true ∧ u.get R.keeperStoreEpochRows < 64 ∧
      u.get R.storeStatusReopenWait = 0 ∧ u.hs.formatting = none ∧ u.keys.idSeeds ≠ [] ∧ u.hs.batches ≠ []) ∧
    Sends 0x0703 (msg 0 (leBytes 8 1023)) (withStore up) (fun u c => c.payloadLen = 8 ∧ u.storeGate false = none ∧
      le c.payload 0 8 < u.storePages ∧ isPage (u.readPage (le c.payload 0 8) false).2 = true) ∧
    Sends 0x0704 (msg 0 ([9] ++ leBytes 4 7)) { withStore up with hs.failed := [(9, 7)] } (fun u c => c.payloadLen = 5 ∧
      le c.payload 0 1 ≤ 9 ∧ u.storeGate true = none ∧ (le c.payload 0 1, le c.payload 1 4) ∈ u.hs.failed ∧
      isPage (u.readNodes (.page []) (pathNodes (7 * 8 ^ 9) 9)).2 = true) ∧
    Sends 0x0705 (msg 0 (leBytes 8 1022 ++ leBytes 2 2)) (withStore up) (fun u c => c.payloadLen = 10 ∧ 1 ≤ le c.payload 8 2 ∧
      le c.payload 8 2 ≤ 4096 ∧ u.storeGate true = none ∧ le c.payload 0 8 + le c.payload 8 2 ≤ u.storePages ∧
      isPage (u.readRange [1022, 1023]).2 = true ∧ ((u.readRange [1022, 1023]).1.reclaimPages [1022, 1023]).2.1 = 0) ∧
    Sends 0x0705 (msg 0 (leBytes 8 0 ++ leBytes 2 1)) (withPage up (pageOf (headFor 9 3))) (fun u c => c.payloadLen = 10 ∧
      1 ≤ le c.payload 8 2 ∧ u.storeGate true = none ∧ le c.payload 0 8 + le c.payload 8 2 ≤ u.storePages ∧
      isPage (u.readRange [0]).2 = true ∧ ((u.readRange [0]).1.reclaimPages [0]).2.1 ≠ 0) :=
  ⟨sends (by decide +kernel) (by decide +kernel), sends (by decide +kernel) (by decide +kernel),
    sends (by decide +kernel) (by decide +kernel),
    sends (by decide +kernel) (by decide +kernel), sends (by decide +kernel) (by decide +kernel),
    sends (by decide +kernel) (by decide +kernel), sends (by decide +kernel) (by decide +kernel),
    sends (by decide +kernel) (by decide +kernel)⟩

/-- NIST P-192 as CURVE_LOAD carries it. -/
def p192 : Curve :=
  ⟨192, 1, 0, 0xFFFFFFFFFFFFFFFFFFFFFFFFFFFFFFFEFFFFFFFFFFFFFFFF, 0xFFFFFFFFFFFFFFFFFFFFFFFFFFFFFFFEFFFFFFFFFFFFFFFC,
    0x64210519E59C80E70FA7E9AB72243049FEB8DEECC146B9B1, 0x188DA80EB03090F67CBF20EB43A18800F4FF0AFD82FF1012,
    0x07192B95FFC8DA78631011ED6B24CDD573F977A11E794811, 0xFFFFFFFFFFFFFFFFFFFFFFFF99DEF836146BC9B1B4D22831, []⟩

/-- A curve record (Table PK.9a) with cofactor 1. -/
def recordOf (c : CurveP) : Bytes :=
  [1, 0] ++ leBytes 2 c.pbits ++ [1, 0, 0, 0] ++ leBytes 8 0 ++ beBytes c.plen c.p ++ beBytes c.plen c.a ++ beBytes c.plen c.b
    ++ beBytes c.plen c.gx ++ beBytes c.plen c.gy ++ beBytes (c.plen + 1) c.n

def p192Payload : Bytes := recordOf ⟨192, 1, p192.p, p192.a, p192.b, p192.gx, p192.gy, p192.n⟩

/-- P-192 passes every check of CURVE_CHECK (R155). -/
theorem test_curve_check_p192 : (curveParams p192Payload).checkReason (bytes 4224) = none := by decide +kernel

/-- A key pair of ML-KEM-768 in slot 0 and one of P-384 in slot 1. -/
def withKeyPairs : State :=
  { withSlot 0x20 (bytes 2400) with keys.slots := [(0, aSlot 0x20 (bytes 2400)), (1, { aSlot 0x10 (bytes 48) with curve := 1 })] }

/-- A transport of FORM 2 under both. -/
def hybridItem (n : Nat) : Bytes := leBytes 8 2 ++ bytes (1185 + n)

/-- A package of one program, 0x40, whose digest field and signatures are zeros. -/
def aPackage : Bytes :=
  ascii "QPKM" ++ leBytes 2 1 ++ [1, 0] ++ leBytes 2 9 ++ leBytes 2 1 ++ leBytes 4 64 ++ leBytes 48 0 ++ leBytes 64 0
    ++ padTo 64 [0x40] ++ leBytes 96 0 ++ leBytes 3309 0

/-- It is installed where its digest and its signatures are right, which is for the free functions to say. -/
theorem package_passes (hs : Config.makerSigOk (slice aPackage 0 192) (slice aPackage 192 96) (slice aPackage 288 3309) = true)
    (hd : Config.sha384 (slice aPackage 128 64) = slice aPackage 16 48) {s : State} (ho : s.otherBytes 1 = 0)
    (hp : s.otherPrograms 1 = []) (hn : look s.eng.packages 1 = none) : (okOf (s.packageOf aPackage)).isSome = true := by
  have h1 : le aPackage 6 1 = 1 := by decide +kernel
  have h2 : le aPackage 12 4 = 64 := by decide +kernel
  have h3 : le aPackage 10 2 = 1 := by decide +kernel
  unfold State.packageOf
  simp only [h1, h2, h3, ho, hp, hn, Nat.reduceAdd]
  rw [if_neg (by decide +kernel), if_neg (by simp [hs]), if_neg (by simp [hd])]
  rfl

theorem witness_CurvesAndPackages :
    Sends 0x0706 (msg 0 p192Payload) { ready [0x3C] up with keys.stk := bytes 32 } (fun u c =>
      curveOf (c.payload.take c.payloadLen) = some p192 ∧ u.keys.stk ≠ [] ∧ u.hasProgram 0x3C = true) ∧
    Later 0x0706 (msg 0 p192Payload) { up with keys.stk := bytes 32 } (ran ⟨0, 0, 0, [], [], 0⟩) (fun u c =>
      curveOf (c.payload.take c.payloadLen) = some p192 ∧ u.keys.stk ≠ [] ∧ (u.gotOf c.cid).map (·.reason) = some 0 ∧
      u.duplicateCurve p192 = none ∧ (List.range 64).find? (fun h => decide (6 ≤ h) && !bitOf (u.get R.pkeCurveMapLoaded) h
        && !bitOf (u.get R.pkeCurveRetiredRetired) h) = some 6) ∧
    Later 0x0706 (msg 0 p192Payload) { up with keys.stk := bytes 32 } (ran ⟨0, 9, 0, [], [], 0⟩) (fun u c =>
      curveOf (c.payload.take c.payloadLen) = some p192 ∧ u.keys.stk ≠ [] ∧ (u.gotOf c.cid).map (·.reason) = some 9) ∧
    Later 0x0706 (msg 0 (recordOf p384)) { up with keys.stk := bytes 32 } (ran ⟨0, 0, 0, [], [], 0⟩) (fun u c =>
      u.keys.stk ≠ [] ∧ (u.gotOf c.cid).map (·.reason) = some 0 ∧
      ((curveOf (c.payload.take c.payloadLen)).bind u.duplicateCurve) = some 1) ∧
    Sends 0x0707 (msg 0 [63]) (up.put R.pkeCurveMapLoaded (2 ^ 63)) (fun u c => c.payloadLen = 1 ∧ 6 ≤ le c.payload 0 1 ∧
      le c.payload 0 1 < 64 ∧ bitOf (u.get R.pkeCurveRetiredRetired) (le c.payload 0 1) = false ∧
      bitOf (u.get R.pkeCurveMapLoaded) (le c.payload 0 1) = true) ∧
    Sends 0x0708 (msg 0 []) { up with life.pkgBuffer := aPackage, eng.packages := [], eng.bodies := [] } (fun u c =>
      c.payloadLen = 0 ∧ u.life.pkgBuffer = aPackage ∧ u.otherBytes 1 = 0 ∧ u.otherPrograms 1 = [] ∧ look u.eng.packages 1 = none) ∧
    Sends 0x070D { msg 7 ([1, 0, 0, 0, 0, 0, 0, 0] ++ bytes 88) with key2 := 0x20000 } (withSlot 3 (bytes 32)) (fun u c =>
      9 ≤ c.payloadLen ∧ c.payloadLen ≤ c.payload.length ∧ u.get R.bootStatusRootsUnmatched = 0 ∧
      allZero (slice (c.payload.take c.payloadLen) 1 7) = true ∧
      le (c.payload.take c.payloadLen) 0 1 = 1 ∧ okOf (u.kek c uUnwrap) = some (aSlot 3 (bytes 32)) ∧ u.skeRoom true = true) ∧
    Sends 0x070D { msg 7 (hybridItem 88) with key := 0x20000, key2 := 0x20001 } (ready [0x2A] withKeyPairs) (fun u c =>
      9 ≤ c.payloadLen ∧ c.payloadLen ≤ c.payload.length ∧ u.get R.bootStatusRootsUnmatched = 0 ∧
      allZero (slice (c.payload.take c.payloadLen) 1 7) = true ∧ le (c.payload.take c.payloadLen) 0 1 = 2 ∧
      1193 < (c.payload.take c.payloadLen).length ∧ okOf (u.handleCheck c.inst c.key uDecaps) = some (0, aSlot 0x20 (bytes 2400)) ∧
      okOf (u.handleCheck c.inst c.key2 uAgree) = some (1, { aSlot 0x10 (bytes 48) with curve := 1 }) ∧ u.hasProgram 0x2A = true) ∧
    Later 0x070D { msg 7 (hybridItem 88) with key := 0x20000, key2 := 0x20001 } (ready [0x04] withKeyPairs) (parts [(6, bytes 32)])
      (fun u c => le (c.payload.take c.payloadLen) 0 1 = 2 ∧ 1193 < (c.payload.take c.payloadLen).length ∧
        okOf (u.handleCheck c.inst c.key uDecaps) = some (0, aSlot 0x20 (bytes 2400)) ∧
        okOf (u.handleCheck c.inst c.key2 uAgree) = some (1, { aSlot 0x10 (bytes 48) with curve := 1 }) ∧
        u.partOf c.cid 6 = some (bytes 32) ∧ u.partOf c.cid 7 = none ∧ u.hasProgram 0x04 = true) ∧
    Later 0x070D { msg 7 (hybridItem 88) with key := 0x20000, key2 := 0x20001 } withKeyPairs (parts [(6, bytes 32), (7, bytes 48)])
      (fun u c => okOf (u.handleCheck c.inst c.key uDecaps) = some (0, aSlot 0x20 (bytes 2400)) ∧
        okOf (u.handleCheck c.inst c.key2 uAgree) = some (1, { aSlot 0x10 (bytes 48) with curve := 1 }) ∧
        u.partOf c.cid 6 = some (bytes 32) ∧ u.partOf c.cid 7 = some (bytes 48) ∧ u.partOf c.cid 3 = none ∧ u.skeRoom true = true) ∧
    Later 0x070D { msg 7 ([1, 0, 0, 0, 0, 0, 0, 0] ++ bytes 88) with key2 := 0x20000 } (withSlot 3 (bytes 32))
      (parts [(3, Attr.bytes ⟨5, 0, 0, 48, 0, 0, 0, 0⟩ ++ bytes 48)]) (fun u c =>
        (okOf (u.openTransport c (c.payload.take c.payloadLen) (Attr.bytes ⟨5, 0, 0, 48, 0, 0, 0, 0⟩) 0).2).map
          (fun blob => okOf (transported ⟨5, 0, 0, 48, 0, 0, 0, 0⟩ blob)) = some (some (bytes 48))) :=
  ⟨sends (by decide +kernel) (by decide +kernel), later (by decide +kernel) (by decide +kernel),
    later (by decide +kernel) (by decide +kernel), later (by decide +kernel) (by decide +kernel),
    sends (by decide +kernel) (by decide +kernel), sends (by decide +kernel) (by decide +kernel),
    sends (by decide +kernel) (by decide +kernel), sends (by decide +kernel) (by decide +kernel),
    later (by decide +kernel) (by decide +kernel), later (by decide +kernel) (by decide +kernel),
    later (by decide +kernel) (by decide +kernel)⟩

/-- The keeper holds a root secret, in two copies that agree, the link session stands, and the ROM is the one it knows. -/
def withRs (s : State) : State :=
  { s.put R.keeperRsStatusPresent 1 with
    keeper.session := true
    life.romMeasured := bytes 48
    life.romDigest := bytes 48 }

/-- What the digests and the signatures of the idle bank come to is for the free functions to say; the other hypotheses are met. -/
theorem witness_DeviceSettings :
    Sends 0x0709 (msg 0 (leBytes 4 (2 ^ 31 + 36960) ++ bytes 4000)) up (fun u c =>
      let chunk := (c.payload.take c.payloadLen).drop 4
      5 ≤ c.payloadLen ∧ chunk.length ≤ 4000 ∧ u.busyLife = false ∧ bitOf (le c.payload 0 4) 31 = true ∧
      le c.payload 0 4 % 2 ^ 31 + chunk.length ≤ 40960) ∧
    Sends 0x0709 (msg 0 (leBytes 4 0 ++ [9])) up (fun u c =>
      let chunk := (c.payload.take c.payloadLen).drop 4
      5 ≤ c.payloadLen ∧ chunk.length ≤ 4000 ∧ u.busyLife = false ∧ bitOf (le c.payload 0 4) 31 = false ∧
      le c.payload 0 4 % 2 ^ 31 + chunk.length ≤ 0xB00000) ∧
    Sends 0x070A (msg 0 []) (withRs up) (fun u c => c.payloadLen = 0 ∧ u.busyLife = false ∧
      (u.stageSets (u.bankHead 1).digest u.life.cfgDigest (u.get R.devStatusLife) true (u.bankHead 1).version).2 = true) ∧
    Sends 0x070B (msg 0 ([1, 0, 2, 0] ++ leBytes 2 3072)) (withRs up) (fun u c => 4 ≤ c.payloadLen ∧
      le c.payload 2 2 = ((c.payload.take c.payloadLen).drop 4).length ∧
      u.life.cfg.set (le c.payload 0 2) ((c.payload.take c.payloadLen).drop 4) = some { CfgBlock.shipped with nwPages := 3072 } ∧
      u.busyLife = false ∧ (u.putCfg { CfgBlock.shipped with nwPages := 3072 }).2 = true) ∧
    Sends 0x070C (msg 0 [0, 2, 3, 0xFF, 0, 0, 0, 0]) up (fun u c => u.tamperSetRefusal c.payload c.payloadLen = none ∧
      u.thermosChanges c.payload = []) ∧
    Sends 0x070C (msg 0 [0, 13, 0xFF, 1, 0, 0, 0, 0]) (up.put (R.keeperRespThermos 13) 0) (fun u c =>
      u.tamperSetRefusal c.payload c.payloadLen = none ∧ u.thermosChanges c.payload ≠ [] ∧ u.holdup = true) ∧
    Sends 0x070C (msg 0 [0, 13, 0xFF, 1, 0, 0, 0, 0]) ((up.put (R.keeperRespThermos 13) 0).put R.sysPinsHoldup 0) (fun u c =>
      u.tamperSetRefusal c.payload c.payloadLen = none ∧ u.thermosChanges c.payload ≠ [] ∧ u.holdup = false) ∧
    Sends 0x070C (msg 0 [3, 0, 0xFF, 0xFF, 206, 160, 0, 0]) up (fun u c => u.tamperSetRefusal c.payload c.payloadLen = none) ∧
    Sends 0x070E (msg 0 [4]) (up.put (R.trngSrcStatusState 4) 2) (fun u c => c.payloadLen = 1 ∧ le c.payload 0 1 ≤ 4 ∧
      u.lastSourceN (le c.payload 0 1) = false ∧ u.trngRuns = true ∧ u.get (R.trngSrcStatusState (le c.payload 0 1)) ≠ 4) ∧
    Sends 0x070E (msg 0 [0]) (up.put (R.trngSrcStatusState 0) 4) (fun u c => c.payloadLen = 1 ∧ le c.payload 0 1 ≤ 4 ∧
      u.lastSourceN (le c.payload 0 1) = false ∧ u.trngRuns = true ∧ u.get (R.trngSrcStatusState (le c.payload 0 1)) = 4) ∧
    Sends 0x0710 (msg 0 [15]) up (fun u c => c.payloadLen = 1 ∧ le c.payload 0 1 ≤ 15 ∧
      bitOf (u.get R.lifeLimits1Retired) (le c.payload 0 1) = false ∧ u.clusterState (le c.payload 0 1) = 0 ∧ u.holdup = true) ∧
    Sends 0x0711 (msg 0 []) up (fun u c => c.payloadLen = 0 ∧ u.lockHeld = false) ∧
    Sends 0x0712 (msg 0 (leBytes 2 1)) ((up.put R.lifeSecurityRunning 1).put R.lifeLimits0Floor 255) (fun u c => c.payloadLen = 2 ∧
      u.get R.lifeSecurityFloor < le c.payload 0 2 ∧ le c.payload 0 2 ≤ u.get R.lifeSecurityRunning ∧
      u.get R.lifeLimits0Floor < 256 ∧ u.holdup = true) :=
  ⟨sends (by decide +kernel) (by decide +kernel), sends (by decide +kernel) (by decide +kernel),
    sends (by decide +kernel) (by decide +kernel),
    sends (by decide +kernel) (by decide +kernel), sends (by decide +kernel) (by decide +kernel),
    sends (by decide +kernel) (by decide +kernel), sends (by decide +kernel) (by decide +kernel),
    sends (by decide +kernel) (by decide +kernel), sends (by decide +kernel) (by decide +kernel),
    sends (by decide +kernel) (by decide +kernel), sends (by decide +kernel) (by decide +kernel),
    sends (by decide +kernel) (by decide +kernel), sends (by decide +kernel) (by decide +kernel)⟩

/-- CLUSTER_SERVICE with an ACTION on the part that 5 bytes name. -/
def service (action : Nat) (loc : Bytes) : Msg := (msg 0 (loc ++ [0, 0, 0])).withByte 5 action

/-- The service command is let through in `s`, its form is right, and `h` holds. -/
def Serves (action : Nat) (loc : Bytes) (s : State) (h : State → Msg → Prop) : Prop :=
  Sends 0x070F (service action loc) s (fun u c =>
    c.payloadLen = 8 ∧ le c.payload 6 2 = 0 ∧ le c.payload 5 1 = action ∧ h u c)

theorem witness_ServiceCommands_fence :
    Serves 1 [0, 0, 3, 15, 0xFF] up (fun u c => u.partAt c.payload = some (.cluster 15) ∧ u.clusterState 15 ≠ 7 ∧
      u.clusterState 15 ≠ 8) ∧
    Serves 1 [0, 0, 4, 16, 7] (up.put (R.skeLaneStatusState 0) 2) (fun u c => u.partAt c.payload = some (.lane 7) ∧
      u.laneFenced 7 = false ∧ u.lastLane 7 = false) ∧
    Serves 1 [0, 0, 5, 19, 0xFF] up (fun u c => u.partAt c.payload = some (.pair 1) ∧ bitOf u.life.pairsFenced 1 = false ∧
      u.get (pairFld (1 - 1)) = 1) :=
  ⟨sends (by decide +kernel) (by decide +kernel), sends (by decide +kernel) (by decide +kernel),
    sends (by decide +kernel) (by decide +kernel)⟩

theorem witness_ServiceCommands_return :
    Serves 2 [0, 0, 0, 0, 0xFF] (up.put (R.pkeClusterStatusState 0) 7) (fun u c => u.partAt c.payload = some (.cluster 0) ∧
      u.clusterState 0 = 7 ∧ bitOf u.pwr.regionOff (0 / 4) = false) ∧
    Serves 2 [0, 0, 4, 16, 0] up (fun u c => u.partAt c.payload = some (.lane 0) ∧ u.laneState 0 = 0) ∧
    Serves 2 [0, 0, 5, 18, 0xFF] { up with life.pairsFenced := 1 } (fun u c => u.partAt c.payload = some (.pair 0) ∧
      bitOf u.life.pairsFenced 0 = true) :=
  ⟨sends (by decide +kernel) (by decide +kernel), sends (by decide +kernel) (by decide +kernel),
    sends (by decide +kernel) (by decide +kernel)⟩

theorem witness_ServiceCommands_power :
    Serves 3 [0, 0, 3, 15, 0xFF] up (fun u c => u.partAt c.payload = some (.cluster 15) ∧ u.clusterState 15 ≠ 8) ∧
    Serves 3 [0, 0, 3, 0xFF, 0xFF] up (fun u c => u.partAt c.payload = some (.region 3) ∧ bitOf u.pwr.regionOff 3 = false) ∧
    Serves 3 [0, 0, 7, 0xFF, 0xFF] up (fun u c => u.partAt c.payload = some (.region 7) ∧ bitOf u.pwr.regionOff 7 = false ∧
      ∀ p < 4, u.portCarries p = false ∧ u.get (R.ferryPortUse p) = 0) ∧
    Serves 3 [0, 0, 7, 28, 3] up (fun u c => u.partAt c.payload = some (.port 3) ∧ u.portCarries 3 = false ∧
      u.get (R.ferryPortUse 3) = 0) ∧
    Serves 4 [0, 0, 0, 0, 0xFF] up (fun u c => u.partAt c.payload = some (.cluster 0) ∧ u.clusterState 0 = 0 ∧
      bitOf u.pwr.regionOff (0 / 4) = false) ∧
    Serves 4 [0, 0, 0, 0xFF, 0xFF] { up with pwr.regionOff := 1 } (fun u c => u.partAt c.payload = some (.region 0) ∧
      bitOf u.pwr.regionOff 0 = true) ∧
    Serves 4 [0, 0, 7, 0xFF, 0xFF] { up with pwr.regionOff := 128 } (fun u c => u.partAt c.payload = some (.region 7) ∧
      bitOf u.pwr.regionOff 7 = true) ∧
    Serves 4 [0, 0, 7, 28, 0] up (fun u c => u.partAt c.payload = some (.port 0) ∧ bitOf u.pwr.regionOff 7 = false ∧
      u.get (R.ferryPortState 0) = 0) :=
  ⟨sends (by decide +kernel) (by decide +kernel), sends (by decide +kernel) (by decide +kernel),
    sends (by decide +kernel) (by decide +kernel), sends (by decide +kernel) (by decide +kernel),
    sends (by decide +kernel) (by decide +kernel), sends (by decide +kernel) (by decide +kernel),
    sends (by decide +kernel) (by decide +kernel), sends (by decide +kernel) (by decide +kernel)⟩

/-- Whether the sensor's deviation is within 64 is the free value's. -/
theorem witness_ServiceCommands_recalibrate :
    Serves 5 [0, 1, 0xFF, 45, 1] up (fun u c => u.partAt c.payload = some (.sensor 1 1) ∧
      3 ≤ ([2, 3, 4, 5, 6, 7].filter (fun x => x != sensorSource 1 1 && !u.life.sensorsOut.contains x)).length) ∧
    Serves 5 [0, 0, 0xFF, 36, 0] { up with life.sensorsOut := [2, 3] } (fun u c => u.partAt c.payload = some (.sensor 0 0) ∧
      3 ≤ ([2, 3, 4, 5, 6, 7].filter (fun x => x != sensorSource 0 0 && !u.life.sensorsOut.contains x)).length) :=
  ⟨sends (by decide +kernel) (by decide +kernel), sends (by decide +kernel) (by decide +kernel)⟩

/-- A member of a domain that holds an offer for tenant 7. -/
def member : State :=
  { withStore (((withSlot 3 (bytes 32)).put R.ferryDomainMember 1).put R.ferryDomainIndex 5) with
    keys.tenants := []
    ferry.offers := [(7, ⟨bytes 8, bytes 128, 1⟩)] }

/-- TENANT_REPLICATE in a role, for tenant 7. -/
def replicates (role : Nat) (d : Bytes) : Msg := (msg 7 ([0, 0, 7, 0, 0, 0, 0, 0] ++ d)).withByte 0 role

/-- An offer for tenant 7 whose keys are good; a package for it; a member that holds tenant 7 as a replica. -/
def theOffer : Bytes := bytes 8 ++ leBytes 2 7 ++ bytes 8751 ++ basePoint ++ bytes sigsLen
def thePackage : Bytes := bytes 8 ++ leBytes 2 7 ++ bytes 1094 ++ basePoint ++ bytes (packageLen - 1201 + sigsLen)
def adopter : State :=
  { member with
    keys.tenants := [(7, tenant 1)]
    ferry.replicas := [7] }

/-- The data of a TENANT_REPLICATE. -/
def dataOf (c : Msg) : Bytes := (c.payload.take c.payloadLen).drop 8

theorem parts_are {c : Msg} {lens : List Nat} {n : Nat} (h : (replicaParts c lens).map (·.1) = some n) :
    replicaParts c lens = some (n, dataOf c) := by
  unfold replicaParts at h ⊢
  simp only at h ⊢
  split at h
  · cases h
  · next hc =>
    rw [if_neg hc]
    simp only [Option.map_some, Option.some.injEq] at h
    rw [h]; rfl

/-- The head that ADOPT gives the hamper. -/
def adopted : HamperHead :=
  let v := ((stands 0x0714 (replicates 4 (padTo 256 (headFor 7 3).bytes)) adopter).placement 0).1
  { headFor 7 3 with serial := v.hs.nextSerial, address := v.hs.nextSerial % 2 ^ 24 * 2 ^ 40 }

/-- What the signatures and digests of certificates and packages come to, and what the transports hold, is for the free functions to
say; the other hypotheses are met. -/
theorem witness_DomainCommands :
    Sends 0x0713 (msg 0 ([1, 0] ++ leBytes 2 16383 ++ leBytes 4 1 ++ leBytes 8 2 ++ leBytes 40 0 ++ leBytes 8 0 ++ List.replicate 5454 0))
      { up with keys.idSeeds := bytes 56 } (fun u c => (certOf (c.payload.take c.payloadLen)).isSome = true ∧ u.keys.idSeeds ≠ []) ∧
    Sends 0x0714 (replicates 1 []) member (fun u c => le c.payload 0 1 = 1 ∧ replicaParts c [0] = some (7, []) ∧
      u.offerable 7 = true ∧ u.get R.ferryDomainMember = 1 ∧ u.keys.idSeeds ≠ [] ∧ u.canDraw = true) ∧
    Sends 0x0714 (replicates 2 theOffer) { member with keys.tenants := [(7, tenant 1)] } (fun u c =>
      let body := (dataOf c).take offerLen
      replicaParts c [offerLen + sigsLen] = some (7, dataOf c) ∧ (le c.payload 0 1 = 2 ∧ le body 8 2 = 7 ∧ u.keys.idSeeds ≠ [] ∧
        u.tenant 7 = some (tenant 1) ∧ (tenant 1).state = 1 ∧ (tenant 1).failed = false ∧ u.canDraw = true) ∧
        ∀ e, Meets u e → ∃ v x, u.hybridStart (slice body 7577 1184) (slice body 8761 97) rootAttr.bytes = (v, .ok x) ∧ (v.setPart c.cid 5 x).skeRoom true = true ∧ v.partOf c.cid 3 = none) ∧
    Later 0x0714 (replicates 2 theOffer) { member with keys.tenants := [(7, tenant 1)] } (parts [(3, bytes 132), (5, bytes 1217)])
      (fun u c => u.partOf c.cid 5 = some (bytes 1217) ∧ u.partOf c.cid 3 = some (bytes 132)) ∧
    Sends 0x0714 (replicates 3 thePackage) member (fun u c =>
      let body := (dataOf c).take packageLen
      replicaParts c [packageLen + sigsLen] = some (7, dataOf c) ∧ le c.payload 0 1 = 3 ∧ le body 8 2 = 7 ∧
      u.heldOffer 7 (body.take 8) = some ⟨bytes 8, bytes 128, 1⟩ ∧ u.offerable 7 = true ∧
      (okOf (p384.agree Blind.none (⟨bytes 8, bytes 128, 1⟩ : Offer).scalar
        (slice (slice body 16 1321) 1088 97))).isSome = true ∧ u.skeRoom true = true) ∧
    Later 0x0714 (replicates 3 thePackage) member (parts [(3, rootAttr.bytes ++ bytes 92)]) (fun u c =>
      u.partOf c.cid 3 = some (rootAttr.bytes ++ bytes 92) ∧ (rootAttr.bytes ++ bytes 92).length = 124 ∧
      (rootAttr.bytes ++ bytes 92).take 32 = rootAttr.bytes) ∧
    Sends 0x0714 (replicates 4 (padTo 256 (headFor 7 3).bytes)) adopter (fun u c => le c.payload 0 1 = 4 ∧
      replicaParts c [256, 4096] = some (7, padTo 256 (headFor 7 3).bytes) ∧ headOf (padTo 256 (headFor 7 3).bytes) = headFor 7 3 ∧
      (headFor 7 3).format = 1 ∧ (padTo 256 (headFor 7 3).bytes).length ≠ 4096 ∧
      (refOf c.hamper).large = false ∧ sizeOk false (headFor 7 3).typ (headFor 7 3).len = true ∧
      (headFor 7 3).wrapLen = wrapLenOf (headFor 7 3).len ∧ 7 ∈ u.ferry.replicas ∧ u.bound c.inst 7 = true ∧
      u.entryRefusal (headFor 7 3) = none ∧ (headFor 7 3).isSealed = false ∧ u.get R.mpcWorldStatusKeysLocked = 0 ∧
      (u.hamperKek (headFor 7 3)).isSome = true ∧ u.skeRoom true = true) ∧
    Later 0x0714 (replicates 4 (padTo 256 (headFor 7 3).bytes)) adopter (parts [(1, bytes 32)]) (fun u c =>
      (u.hamperKek (headFor 7 3)).isSome = true ∧ u.partOf c.cid 1 = some (bytes 32) ∧
      let v := (u.placement c.hamper).1
      let h1 := { headFor 7 3 with serial := v.hs.nextSerial, address := c.hamper + v.hs.nextSerial % 2 ^ 24 * 2 ^ 40 }
      isPage (u.placement c.hamper).2 = true ∧ v.partOf c.cid 2 = none ∧ (v.hamperKek h1).isSome = true ∧ v.skeRoom true = true) ∧
    Later 0x0714 (replicates 4 (padTo 256 (headFor 7 3).bytes)) adopter (parts [(1, bytes 32), (2, adopted.bytes ++ bytes 40)])
      (fun u c => u.partOf c.cid 1 = some (bytes 32) ∧
        let v := (u.placement c.hamper).1
        let h1 := { headFor 7 3 with serial := v.hs.nextSerial, address := c.hamper + v.hs.nextSerial % 2 ^ 24 * 2 ^ 40 }
        isPage (u.placement c.hamper).2 = true ∧ (v.hamperKek h1).isSome = true ∧
        (v.partOf c.cid 2).map (fun x => x.take 48) = some h1.bytes) :=
  ⟨sends (by decide +kernel) (by decide +kernel), sends (by decide +kernel) (by decide +kernel),
    sends (by decide +kernel) ⟨parts_are (by decide +kernel), by decide +kernel, fun e he => by
      obtain ⟨x, hx⟩ := hybrid_starts (u := stands 0x0714 (replicates 2 theOffer) { member with keys.tenants := [(7, tenant 1)] })
        (ek := slice ((dataOf (replicates 2 theOffer)).take offerLen) 7577 1184)
        (point := slice ((dataOf (replicates 2 theOffer)).take offerLen) 8761 97) (attr := rootAttr.bytes)
        (by decide +kernel) (by decide +kernel) (by decide +kernel) he
      exact ⟨_, x, hx, rfl, by decide +kernel⟩⟩,
    later (by decide +kernel) (by decide +kernel),
    sends (by decide +kernel) ⟨parts_are (by decide +kernel), by decide +kernel⟩, later (by decide +kernel) (by decide +kernel),
    sends (by decide +kernel) (by decide +kernel), later (by decide +kernel) (by decide +kernel),
    later (by decide +kernel) (by decide +kernel)⟩

theorem witness_RecordCommands :
    Sends 0x0801 (msg 0 [0, 0, 255]) up (fun _ c => c.payloadLen = 3) ∧
    Sends 0x0802 (msg 0 []) up (fun _ c => c.payloadLen = 0) ∧
    Sends 0x0803 (msg 0 []) up (fun _ c => c.payloadLen = 0) ∧
    Sends 0x0804 (msg 0 []) up (fun _ c => c.payloadLen = 0) ∧
    Sends 0x0805 (msg 0 (leBytes 8 4096 ++ [16] ++ leBytes 8 64)) up (fun _ c => c.payloadLen = 17 ∧ le c.payload 0 8 % 4096 = 0 ∧
      6 ≤ le c.payload 8 1 ∧ le c.payload 8 1 ≤ 16 ∧ le c.payload 9 8 % 64 = 0) :=
  ⟨sends (by decide +kernel) (by decide +kernel), sends (by decide +kernel) (by decide +kernel),
    sends (by decide +kernel) (by decide +kernel), sends (by decide +kernel) (by decide +kernel),
    sends (by decide +kernel) (by decide +kernel)⟩

/-- A device whose four tokens are the same 32 bytes. -/
def withTokens : State := { up with life.tokens := List.replicate 4 (Config.sha384 (bytes 32)) }

/-- LIFECYCLE_TRANSITION to a state, with the token. -/
def transition (target : Nat) : Msg := msg 0 (leBytes 8 target ++ bytes 32)

theorem token_fits {s : State} {m : Msg} (hp : m.payloadLen = 40) (hz : le m.payload 1 7 = 0) (hq : look s.quorum.acting m.cid = none)
    (hb : s.backoff (s.get R.lifeDebugTokenFails) s.life.tokenFailAt = none) (ht : transitionOk (s.get R.devStatusLife) (le m.payload 0 1) = true)
    (hd : some (Config.sha384 (slice m.payload 8 32)) = s.life.tokens[le m.payload 0 1 - 1]?)
    (hf : (decide (le m.payload 0 1 = 2) && !s.fieldedReady) = false) (hl : s.busyLife = false) (hi : s.intentsUsed < 16)
    (hh : s.holdup = true) : s.transitionRefusal m = none := by
  have hf' : ¬(le m.payload 0 1 = 2 ∧ (!s.fieldedReady) = true) := by simpa using hf
  unfold State.transitionRefusal
  simp only [hq, Option.isSome_none, Bool.false_eq_true, if_false, hb, ht, ← hd, hl, hh, Bool.not_true, ne_eq, not_true_eq_false]
  rw [if_neg (by omega), if_neg hf', if_neg (by omega)]

theorem withTokens_transition :
    (stands 0x0901 (transition 3) withTokens).transitionRefusal (taken 0x0901 (transition 3) withTokens) = none :=
  token_fits (by decide +kernel) (by decide +kernel) (by decide +kernel) (by decide +kernel) (by decide +kernel)
    (by rw [show slice (taken 0x0901 (transition 3) withTokens).payload 8 32 = bytes 32 by decide +kernel,
          show le (taken 0x0901 (transition 3) withTokens).payload 0 1 - 1 = 2 by decide +kernel]; rfl)
    (by decide +kernel) (by decide +kernel) (by decide +kernel) (by decide +kernel)

/-- A transition waits for the queues, QENG's being held from within or by the host. -/
def switching (b quiesce hold : Nat) : State :=
  { (up.put (R.hdrCtrlQuiesce 0x50000) quiesce).put R.sysPinsHoldup hold with life.updating := some (5, .transition 1 b) }

theorem witness_LifeCommands :
    Sends 0x0901 (transition 3) withTokens (fun u c => u.transitionRefusal c = none ∧ le c.payload 0 1 ≠ 2) ∧
    (stands 0x0901 (transition 2) (withRs withTokens)).stageFielded.isSome = true ∧
    (∀ q ∈ [0, 1], ∀ h ∈ [0, 1],
      let s := switching 3 q h
      let v := if s.get (R.hdrCtrlQuiesce 0x50000) = 1 then s.put (R.hdrStateQuiesced 0x50000) 1 else s
      s.life.updating = some (5, .transition 1 3) ∧ s.blockOut 0x50000 true = false ∧ v.holdup = decide (h = 1)) ∧
    Sends 0x0902 (msg 0 []) up (fun u c => c.payloadLen = 0 ∧ u.canDraw = true) ∧
    Sends 0x0903 (msg 0 [3, 0, 0, 0]) (up.put R.devStatusLife 0) (fun u c => 4 ≤ c.payloadLen ∧ le c.payload 1 3 = 0 ∧
      1 ≤ le c.payload 0 1 ∧ le c.payload 0 1 ≤ maxLevel (u.get R.devStatusLife) ∧ look u.quorum.acting c.cid = none ∧
      (u.checkCredential (le c.payload 0 1) ((c.payload.take c.payloadLen).drop 4)).2 = none) ∧
    Sends 0x0903 (msg 0 [0, 0, 0, 0]) up (fun _ c => c.payloadLen = 4 ∧ le c.payload 0 1 = 0 ∧ le c.payload 1 3 = 0) ∧
    Sends 0x0904 (msg 0 (bytes 32)) (up.put R.lifeLimits0Password 7) (fun u c => c.payloadLen = 32 ∧
      u.get R.lifeLimits0Password < 8 ∧ u.holdup = true) ∧
    Sends 0x0905 (msg 0 (bytes 97)) (up.put R.lifeLimits0DebugKey 3) (fun u c => c.payloadLen = 97 ∧
      u.get R.lifeLimits0DebugKey < 4 ∧ u.holdup = true) :=
  ⟨sends (by decide +kernel) ⟨withTokens_transition, by decide +kernel⟩, by decide +kernel, by decide +kernel, sends (by decide +kernel) (by decide +kernel),
    sends (by decide +kernel) (by decide +kernel), sends (by decide +kernel) (by decide +kernel),
    sends (by decide +kernel) (by decide +kernel), sends (by decide +kernel) (by decide +kernel)⟩

/-- A payload of groups 0x02 and 0x03: IN, the AUX items and OUT_LEN. -/
def packed (inp : Bytes) (aux : List Bytes) (out : Nat) : Bytes :=
  let a := (aux.map (fun x => leBytes 4 x.length ++ x)).flatten
  leBytes 4 inp.length ++ leBytes 4 a.length ++ leBytes 4 out ++ leBytes 4 0 ++ padTo (8 * ((a.length + 7) / 8)) a ++ inp

/-- A message of tenant 7 that names slots 0 and 1. -/
def uses (alg param : Nat) (inp : Bytes) (aux : List Bytes) (out : Nat) : Msg :=
  { msg 7 (packed inp aux out) with
    alg := alg
    param := param
    key := 0x20000
    key2 := 0x20001 }

/-- The two slots hold keys of one TYPE; an empty store is open. -/
def keyed (typ : Nat) (key : Bytes) : State :=
  { withStore (withSlot typ key) with keys.slots := [(0, aSlot typ key), (1, aSlot typ key)] }

/-- The command is let through, and its payload has the parts that were packed. -/
def Uses (op alg param : Nat) (inp : Bytes) (aux : List Bytes) (out : Nat) (s : State) (h : State → Msg → Prop) : Prop :=
  Sends op (uses alg param inp aux out) s (fun u c => okOf (partsOf c) = some ⟨aux, inp, out⟩ ∧ h u c)

/-- The page that a reading gave, with the state after it. -/
def pageAt (r : State × Read) : Option (State × Bytes) :=
  match r with
  | (v, .page b) => some (v, b)
  | _ => none

/-- The state that a reading leaves. -/
def after (r : State × Read) : State := r.1

/-- The device with tenant 7's small hamper in page 0, and slots that are ready to be loaded. -/
def withHamper : State :=
  { (withPage (withSlot 3 (bytes 32)) (pageOf (headFor 7 3))).put R.skeSlotCfgScrambleReady 1 |>.put R.skeSlotCfgMaskReady 1 with
    keys.scramble := bytes 512 }

/-- The reference of a large hamper in page 0, its head, and the device that holds it in the cache. -/
def largeRef : Nat := 2 ^ 34
def largeHead : HamperHead := { headFor 7 3 with format := 2, typ := 0x40, len := 900, wrapLen := wrapLenOf 900, address := largeRef }
def withLarge : State :=
  { withHamper with hs.large := [(largeRef, padTo 4096 (largeHead.bytes ++ bytes 924))] }

/-- The hamper of `h` opens in `u`, but for its unwrap. -/
def opens (u : State) (c : Msg) (h : HamperHead) : Bool :=
  let v := (u.findHamper c).1
  (okOf (u.findHamper c).2).map (·.1) == some h && v.get R.mpcWorldStatusKeysLocked == 0 && (v.hamperKek h).isSome

theorem witness_HamperCommands :
    Sends 0x0206 (uses 0 0 [] [] 0) withHamper (fun u c => bareRefusal c = none ∧ (refOf c.hamper).large = false ∧
      opens u c (headFor 7 3) = true ∧ (u.findHamper c).1.partOf c.cid 1 = none ∧ (u.findHamper c).1.skeRoom true = true) ∧
    Later 0x0206 (uses 0 0 [] [] 0) withHamper (parts [(1, bytes 32)]) (fun u c => bareRefusal c = none ∧
      (refOf c.hamper).large = false ∧ opens u c (headFor 7 3) = true ∧
      let v := (u.findHamper c).1.touchRoot 7
      (u.findHamper c).1.partOf c.cid 1 = some (bytes 32) ∧ v.slotsReady = true ∧
      (okOf (v.loadSlot c.inst (cargoOf (headFor 7 3) (bytes 32) c.hamper))).isSome = true) ∧
    Sends 0x0206 { uses 0 0 [] [] 0 with hamper := largeRef } withLarge (fun u c => bareRefusal c = none ∧
      (refOf c.hamper).large = true ∧ (okOf (u.findHamper c).2).map (·.1) = some largeHead) ∧
    Sends 0x0207 (uses 0 0 [] [] 0) (withStore (withSlot 3 (bytes 32))) (fun u c => bareRefusal c = none ∧ u.storeGate false = none ∧
      c.key % 0x10000 = 0 ∧
      look u.keys.slots 0 = some (aSlot 3 (bytes 32)) ∧ (aSlot 3 (bytes 32)).doomed = false ∧
      (aSlot 3 (bytes 32)).epoch = c.key / 0x10000 ∧ u.bound c.inst 7 = true ∧ u.dying 7 3 = none) ∧
    Sends 0x0208 (uses 0 0 [] [] 0) withHamper (fun u c => bareRefusal c = none ∧ u.storeGate true = none ∧
      opens u c (headFor 7 3) = true ∧ (u.findHamper c).1.partOf c.cid 1 = none ∧ (u.findHamper c).1.skeRoom true = true) ∧
    Sends 0x0209 (uses 0 0 [] [] 0) (withPage (withSlot 3 (bytes 32)) (pageOf (headFor 7 3))) (fun u c =>
      bareRefusal c = none ∧ u.storeGate true = none ∧ u.refOk (refOf c.hamper) = true ∧
      (pageAt (u.readForChange 0)).map (fun r => okOf (r.1.headCheck c.inst c.tenant c.hamper (hamperIn r.2 (refOf c.hamper))))
        = some (some (headFor 7 3)) ∧ u.dying (headFor 7 3).tenant (headFor 7 3).wg = none) ∧
    Sends 0x020A (uses 0 0 [] [] 0) (withPage (withSlot 3 (bytes 32)) (pageOf (headFor 7 2))) (fun u c =>
      bareRefusal c = none ∧ u.storeGate true = none ∧ u.refOk (refOf c.hamper) = true ∧
      (pageAt (u.readForChange 0)).map (fun r => okOf (r.1.headCheck c.inst c.tenant c.hamper (hamperIn r.2 (refOf c.hamper))))
        = some (some (headFor 7 2)) ∧ u.unopenable (headFor 7 2) = true) ∧
    Uses 0x020B 0 0 (leBytes 4 0xFFFFFFFF) [] 0 (keyed 3 (bytes 32)) (fun u c =>
      okOf (u.handleCheck c.inst c.key uEncrypt) = some (0, aSlot 3 (bytes 32))) :=
  ⟨sends (by decide +kernel) (by decide +kernel), later (by decide +kernel) (by decide +kernel),
    sends (by decide +kernel) (by decide +kernel), sends (by decide +kernel) (by decide +kernel),
    sends (by decide +kernel) (by decide +kernel), sends (by decide +kernel) (by decide +kernel), sends (by decide +kernel) (by decide +kernel),
    sends (by decide +kernel) (by decide +kernel)⟩

theorem witness_HamperRewrap :
    (∀ p ∈ ([[(1, bytes 32)], [(1, bytes 32), (2, (headFor 7 3).bytes ++ bytes 40)]] : List (Amap Bytes)),
      Later 0x0208 (uses 0 0 [] [] 0) withHamper (parts p) (fun u c => bareRefusal c = none ∧ u.storeGate true = none ∧
        opens u c (headFor 7 3) = true ∧ (headFor 7 3).isSealed = false ∧
        let v := (u.findHamper c).1.touchRoot 7
        let w := after (v.readForChange (refOf c.hamper).page)
        (u.findHamper c).1.partOf c.cid 1 = some (bytes 32) ∧ isPage (v.readForChange (refOf c.hamper).page).2 = true ∧
        v.tenant c.tenant = some (tenant 1) ∧ (tenant 1).topWg = some 3 ∧ (w.hamperKek (headFor 7 3)).isSome = true ∧
        w.skeRoom true = true ∧
        (w.partOf c.cid 2).map (fun b => b.take 48) = (if p.length = 2 then some (headFor 7 3).bytes else none))) := fun p h => by
  simp only [List.mem_cons, List.not_mem_nil, or_false] at h
  rcases h with rfl | rfl
  · exact later (by decide +kernel) (by decide +kernel)
  · exact later (by decide +kernel) (by decide +kernel)

/-- An attribute block without LOAD. -/
def block (typ curve usage size : Nat) : Attr := ⟨typ, curve, usage, size, 0, 0, 0, 0⟩

/-- The key of `c` can be kept in a new hamper (`KeepsKey`), which a lane is to wrap or has wrapped. -/
def keeps (u : State) (c : Msg) (a : Attr) (key : Bytes) (wrapped : Bool) : Bool :=
  let w := (u.placement c.hamper).1
  isPage (u.placement c.hamper).2 && match w.tenant c.tenant with
  | none => false
  | some t => match t.topWg with
    | none => false
    | some wg =>
      let h := w.newHead t c.tenant c.hamper a wg key.length
      (w.tenantRefusal c.tenant false).isNone && w.get R.mpcWorldStatusKeysLocked == 0 && sizeOk (refOf c.hamper).large a.typ key.length
        && (w.hamperKek h).isSome && !t.failed && match w.partOf c.cid 2 with
          | none => !wrapped && w.skeRoom true
          | some b => wrapped && b.take 48 == h.bytes

/-- The two parts of a transport of FORM 2. -/
def hybridBlob (n : Nat) : Bytes := [2, 0, 0, 0, 0, 0, 0, 0] ++ bytes (1185 + n)

/-- A new hamper of tenant 7 for the key. -/
def newWrap (a : Attr) (n : Nat) : Bytes := ((keyed 3 (bytes 32)).newHead (tenant 1) 7 0 a 3 n).bytes ++ bytes 40

/-- Tenant 7's hamper opens in `u`, and its key is there. -/
def opened (u : State) (c : Msg) (h : HamperHead) (key : Bytes) : Bool :=
  opens u c h && (u.findHamper c).1.partOf c.cid 1 == some key

/-- A small hamper whose key may be exported. -/
def exportable : HamperHead := { headFor 7 3 with usage := 0x1FFF }

/-- Tenant 7's small hamper, whose key may be exported, and the slots `s` has. -/
def exporting (s : State) : State :=
  { withPage s (pageOf exportable) with keys.slots := s.keys.slots, host.bindings := [(0, [7])] }

theorem witness_KeyCommands_generate :
    Uses 0x0201 0 0 [] [(block 3 0 3 32).bytes] 0 (keyed 3 (bytes 32)) (fun u c => okOf (u.attrItem (block 3 0 3 32).bytes 1) =
        some (block 3 0 3 32) ∧ u.tenantRefusal c.tenant false = none ∧ isPage (u.placement c.hamper).2 = true ∧
      largeType 3 = (refOf c.hamper).large ∧ u.gotOf c.cid = none ∧ symmetricLen (block 3 0 3 32) = some 32 ∧ u.canDraw = true ∧
      keeps (((u.draw 32).1).setGot c.cid (Yield.keep [] (u.draw 32).2)) c (block 3 0 3 32) (u.draw 32).2 false = true) ∧
    Uses 0x0201 0 0 [] [(block 0x10 0 4 32).bytes] 0 (ready [0x03] (keyed 3 (bytes 32))) (fun u c =>
      okOf (u.attrItem (block 0x10 0 4 32).bytes 1) = some (block 0x10 0 4 32) ∧ u.tenantRefusal c.tenant false = none ∧
      isPage (u.placement c.hamper).2 = true ∧ largeType 0x10 = (refOf c.hamper).large ∧ symmetricLen (block 0x10 0 4 32) = none ∧
      keygenProgram 0x10 = some 0x03 ∧ u.gotOf c.cid = none ∧ u.hasProgram 0x03 = true) ∧
    (∀ x ∈ ([([], false), ([(2, newWrap (block 0x10 0 4 32) 32)], true)] : List (Amap Bytes × Bool)),
      Later 0x0201 (uses 0 0 [] [(block 0x10 0 4 32).bytes] 0) (keyed 3 (bytes 32))
        (fun d => ran (Yield.keep (bytes 65) (bytes 32)) (parts x.1 d)) (fun u c =>
          okOf (partsOf c) = some ⟨[(block 0x10 0 4 32).bytes], [], 0⟩ ∧ u.gotOf c.cid = some (Yield.keep (bytes 65) (bytes 32)) ∧
          okOf (u.attrItem (block 0x10 0 4 32).bytes 1) = some (block 0x10 0 4 32) ∧ u.tenantRefusal c.tenant false = none ∧
          keeps (u.placement c.hamper).1 c (block 0x10 0 4 32) (bytes 32) x.2 = true)) ∧
    (ffdhHead (block 0x41 0 0x200 2048) (bytes 256) (bytes 256) (bytes 32)).isSome = true :=
  ⟨sends (by decide +kernel) (by decide +kernel), sends (by decide +kernel) (by decide +kernel), fun x h => by
    simp only [List.mem_cons, List.not_mem_nil, or_false] at h
    rcases h with rfl | rfl <;> exact later (by decide +kernel) (by decide +kernel), by decide +kernel⟩

theorem witness_KeyCommands_import :
    Uses 0x0202 0 0 [] [(block 3 0 3 32).bytes, [1, 0, 0, 0, 0, 0, 0, 0] ++ bytes 72] 0 (keyed 3 (bytes 32)) (fun u c =>
      okOf (u.attrItem (block 3 0 3 32).bytes 1) = some (block 3 0 3 32) ∧ okOf (u.kek c uUnwrap) = some (aSlot 3 (bytes 32)) ∧
      u.partOf c.cid 3 = none ∧ u.skeRoom true = true) ∧
    Later 0x0202 (uses 0 0 [] [(block 3 0 3 32).bytes, [1, 0, 0, 0, 0, 0, 0, 0] ++ bytes 72] 0) (keyed 3 (bytes 32))
      (parts [(3, (block 3 0 3 32).bytes ++ bytes 32)]) (fun u c =>
        okOf (u.attrItem (block 3 0 3 32).bytes 1) = some (block 3 0 3 32) ∧ okOf (u.kek c uUnwrap) = some (aSlot 3 (bytes 32)) ∧
        u.partOf c.cid 3 = some ((block 3 0 3 32).bytes ++ bytes 32) ∧
        okOf (transported (block 3 0 3 32) ((block 3 0 3 32).bytes ++ bytes 32)) = some (bytes 32) ∧
        compositeUsageOk (block 3 0 3 32) (bytes 32) = true ∧ keySizeOk (block 3 0 3 32) (bytes 32) = true ∧
        largeType 3 = (refOf c.hamper).large ∧ u.storeGate true = none ∧ keyLenOk u 3 0 32 = true ∧
        keeps u c (block 3 0 3 32) (bytes 32) false = true) ∧
    Later 0x0202 (uses 0 0 [] [(block 0x10 0 4 32).bytes, [1, 0, 0, 0, 0, 0, 0, 0] ++ bytes 72] 0) (ready [0x05] (keyed 3 (bytes 32)))
      (parts [(3, (block 0x10 0 4 32).bytes ++ bytes 32)]) (fun u c =>
        okOf (transported (block 0x10 0 4 32) ((block 0x10 0 4 32).bytes ++ bytes 32)) = some (bytes 32) ∧
        compositeUsageOk (block 0x10 0 4 32) (bytes 32) = true ∧ keySizeOk (block 0x10 0 4 32) (bytes 32) = true ∧
        u.gotOf c.cid = none ∧ u.storeGate true = none ∧ importProgram 0x10 4 = some 0x05 ∧
        u.handleRefusal (handlesOf 0x10 0 (bytes 32)) = none ∧ u.hasProgram 0x05 = true) ∧
    Later 0x0202 (uses 0 0 [] [(block 0x10 0 4 32).bytes, [1, 0, 0, 0, 0, 0, 0, 0] ++ bytes 72] 0) (keyed 3 (bytes 32))
      (fun d => ran ⟨0, 0, 0, [], [], 0⟩ (parts [(3, (block 0x10 0 4 32).bytes ++ bytes 32), (2, newWrap (block 0x10 0 4 32) 32)] d))
      (fun u c => (u.gotOf c.cid).isSome = true ∧ u.partOf c.cid 3 = some ((block 0x10 0 4 32).bytes ++ bytes 32) ∧
        keeps u c (block 0x10 0 4 32) (bytes 32) true = true) ∧
    Uses 0x0202 0 0 [] [(block 3 0 3 32).bytes, hybridBlob 72] 0 (ready [0x2A] (withStore withKeyPairs)) (fun u c =>
      1185 < ((hybridBlob 72).drop 8).length ∧ okOf (u.handleCheck c.inst c.key uDecaps) = some (0, aSlot 0x20 (bytes 2400)) ∧
      okOf (u.handleCheck c.inst c.key2 uAgree) = some (1, { aSlot 0x10 (bytes 48) with curve := 1 }) ∧ u.partOf c.cid 6 = none ∧
      u.hasProgram 0x2A = true) ∧
    Later 0x0202 (uses 0 0 [] [(block 3 0 3 32).bytes, hybridBlob 72] 0) (ready [0x04] (withStore withKeyPairs)) (parts [(6, bytes 32)])
      (fun u c => u.partOf c.cid 6 = some (bytes 32) ∧ u.partOf c.cid 7 = none ∧ u.hasProgram 0x04 = true) ∧
    Later 0x0202 (uses 0 0 [] [(block 3 0 3 32).bytes, hybridBlob 72] 0) (withStore withKeyPairs) (parts [(6, bytes 32), (7, bytes 48)])
      (fun u c => u.partOf c.cid 7 = some (bytes 48) ∧ u.partOf c.cid 3 = none ∧ u.skeRoom true = true) :=
  ⟨sends (by decide +kernel) (by decide +kernel), later (by decide +kernel) (by decide +kernel),
    later (by decide +kernel) (by decide +kernel), later (by decide +kernel) (by decide +kernel),
    sends (by decide +kernel) (by decide +kernel), later (by decide +kernel) (by decide +kernel),
    later (by decide +kernel) (by decide +kernel)⟩

theorem witness_KeyCommands_export :
    Uses 0x0203 0 0 [] [[1, 0, 0, 0, 0, 0, 0, 0]] 0 (exporting (keyed 3 (bytes 32))) (fun u c =>
      opens u c exportable = true ∧ (u.findHamper c).1.partOf c.cid 1 = none ∧
      (u.findHamper c).1.skeRoom true = true) ∧
    Later 0x0203 { uses 0 0 [] [[1, 0, 0, 0, 0, 0, 0, 0]] 0 with key2 := 0x20001 } (exporting (keyed 3 (bytes 32))) (parts [(1, bytes 32)])
      (fun u c => opened u c exportable (bytes 32) = true ∧ bitOf 0x1FFF uExport = true ∧
        let v := (u.findHamper c).1.touchRoot 7
        okOf (v.kek c uWrap) = some (aSlot 3 (bytes 32)) ∧ v.partOf c.cid 3 = none ∧ v.skeRoom true = true) ∧
    Later 0x0203 { uses 0 0 [] [[1, 0, 0, 0, 0, 0, 0, 0]] 0 with key2 := 0x20001 } (exporting (keyed 3 (bytes 32)))
      (parts [(1, bytes 32), (3, bytes 72)]) (fun u c => opened u c exportable (bytes 32) = true ∧
        let v := (u.findHamper c).1.touchRoot 7
        okOf (v.kek c uWrap) = some (aSlot 3 (bytes 32)) ∧ v.partOf c.cid 3 = some (bytes 72)) ∧
    Later 0x0203 (uses 0 0 [] [toPoint.drop 8] 0) (exporting (keyed 3 (bytes 32))) (parts [(1, bytes 32)]) (fun u c =>
      let v := (u.findHamper c).1.touchRoot 7
      (opened u c exportable (bytes 32) = true ∧ le (toPoint.drop 8) 0 1 = 2 ∧ (toPoint.drop 8).length = 1289 ∧
        v.partOf c.cid 5 = none ∧ v.partOf c.cid 3 = none) ∧
      ∀ e, Meets v e → ∃ w x, v.hybridStart (slice (toPoint.drop 8) 8 1184) (slice (toPoint.drop 8) 1192 97)
        (exportAttr exportable (bytes 32)).bytes = (w, .ok x) ∧ w.partOf c.cid 3 = none ∧
          (w.setPart c.cid 5 x).skeRoom true = true) ∧
    Later 0x0203 (uses 0 0 [] [toPoint.drop 8] 0) (exporting (keyed 3 (bytes 32))) (parts [(1, bytes 32), (3, bytes 72), (5, bytes 1217)])
      (fun u c => opened u c exportable (bytes 32) = true ∧
        let v := (u.findHamper c).1.touchRoot 7
        v.partOf c.cid 5 = some (bytes 1217) ∧ v.partOf c.cid 3 = some (bytes 72)) :=
  ⟨sends (by decide +kernel) (by decide +kernel), later (by decide +kernel) (by decide +kernel),
    later (by decide +kernel) (by decide +kernel), later (by decide +kernel) ⟨by decide +kernel, fun e he => by
      obtain ⟨x, hx⟩ := hybrid_starts (ek := slice (toPoint.drop 8) 8 1184) (point := slice (toPoint.drop 8) 1192 97)
        (attr := (exportAttr exportable (bytes 32)).bytes) (by decide +kernel)
        (by decide +kernel) (by decide +kernel) he
      exact ⟨_, x, hx, by decide +kernel, rfl⟩⟩,
    later (by decide +kernel) (by decide +kernel)⟩

theorem witness_KeyCommands_derive_and_public :
    Uses 0x0204 0x3C 0 [] [(block 5 0 0x30 128).bytes, bytes 128, bytes 128] 128 (keyed 6 (bytes 32)) (fun u c =>
      deriveLengths c ⟨[(block 5 0 0x30 128).bytes, bytes 128, bytes 128], [], 128⟩ = none ∧
      okOf (u.attrItem (block 5 0 0x30 128).bytes 1) = some (block 5 0 0x30 128) ∧ u.gotOf c.cid = none ∧ u.destGate c = none ∧
      okOf (u.keyFor c uDerive (algType 0x3C)).2 = some (0x20000, aSlot 6 (bytes 32)) ∧ exportBlocked c 0xFFF = false ∧
      (u.keyFor c uDerive (algType 0x3C)).1.skeRoom (c.param % 4 = 1) = true) ∧
    (∀ n ∈ [0x05, 0x10], Sends 0x0205 (uses 0 0 [] [] 0) (ready [n] (keyed (if n = 5 then 0x10 else 0x13) (bytes 32))) (fun u c =>
      bareRefusal c = none ∧ (okOf (u.namedKey c).2).map (fun k => (k.1, k.2.1, k.2.2.2)) = some (if n = 5 then 0x10 else 0x13, 0, [0x20000]) ∧
      publicProgram (if n = 5 then 0x10 else 0x13) = some n ∧ u.handleRefusal (handlesOf (if n = 5 then 0x10 else 0x13) 0 []) = none ∧
      u.gotOf c.cid = none ∧ u.hasProgram n = true)) ∧
    Later 0x0205 (uses 0 0 [] [] 0) (keyed 0x10 (bytes 32)) (ran ⟨0, 0, 0, bytes 65, [], 0⟩) (fun u c => bareRefusal c = none ∧
      (okOf (u.namedKey c).2).map (fun k => (k.1, k.2.1, k.2.2.2)) = some (0x10, 0, [0x20000]) ∧ publicProgram 0x10 = some 0x05 ∧
      u.handleRefusal (handlesOf 0x10 0 []) = none ∧ (u.gotOf c.cid).isSome = true) ∧
    Later 0x0205 { uses 0 0 [] [] 0 with key := 0, hamper := largeRef } withLarge (parts [(1, bytes 900)]) (fun u c =>
      bareRefusal c = none ∧ okOf (u.namedKey c).2 = some (0x40, 0, bytes 900, []) ∧ publicProgram 0x40 = none) :=
  ⟨sends (by decide +kernel) (by decide +kernel), fun n h => by
    simp only [List.mem_cons, List.not_mem_nil, or_false] at h
    rcases h with rfl | rfl <;> exact sends (by decide +kernel) (by decide +kernel), later (by decide +kernel) (by decide +kernel),
    later (by decide +kernel) (by decide +kernel)⟩

/-- The device with tenant 7 bound to the PF. -/
def bound : State := { up with host.bindings := [(0, [7])] }

/-- KEY grants a use to slot 0, whose TYPE the use takes. -/
def grants (u : State) (c : Msg) (usage : Nat) (types : Nat → Bool) : Bool :=
  (okOf (u.keyFor c usage types).2).map (·.1) == some 0x20000

/-- It grants none. -/
def denies (u : State) (c : Msg) (usage : Nat) (types : Nat → Bool) : Bool := (okOf (u.keyFor c usage types).2).isNone

/-- The device with a large hamper of a TYPE, and a message that names it. -/
def largeOf (typ : Nat) : State :=
  { withHamper with hs.large := [(largeRef, padTo 4096 ({ largeHead with typ := typ }.bytes ++ bytes 924))] }
def usesLarge (alg param : Nat) (inp : Bytes) (aux : List Bytes) : Msg :=
  { uses alg param inp aux 0 with
    key := 0
    hamper := largeRef }

/-- The large hamper holds `key`, whose use is granted; or it is still to be unwrapped. -/
def holds (u : State) (c : Msg) (usage typ : Nat) (key : Option Bytes) : Bool := (okOf (u.largeKey c usage typ).2).map (·.2) == key

/-- The command's job has yielded `y`. -/
def Yields (op : Nat) (m : Msg) (y : Yield) (s : State) (h : State → Msg → Prop) : Prop :=
  Later op m s (ran y) (fun u c => u.gotOf c.cid = some y ∧ h u c)

/-- Two P-256 components of a composite key of a purpose. -/
def composite : Bytes := leBytes 8 2 ++ (([0x10, 0] ++ leBytes 6 32) ++ bytes 32) ++ (([0x10, 0] ++ leBytes 6 32) ++ bytes 32)

def aYield : Yield := ⟨0, 0, 0, bytes 64, [], 0⟩

/-- The bytes of an RSA key of 2,048 bits, as far as a job reads them. -/
def rsaHead : Bytes := leBytes 2 2048 ++ bytes 40

theorem witness_SignatureCommands :
    Yields 0x0301 (uses 0x01 0 (bytes 64) [] 0) aYield (keyed 0x10 (bytes 32)) (fun u c => u.gotOf c.cid = some aYield) ∧
    Uses 0x0301 0x01 0 (bytes 64) [] 0 (ready [0x01] (keyed 0x10 (bytes 32))) (fun u c => u.gotOf c.cid = none ∧
      signFlagsOk c c.alg = true ∧ u.hasProgram c.alg = true ∧ signInputOk c c.alg 64 = true ∧ signParamOk c.alg c.param = true ∧
      contextOk c.alg 0 = true ∧ grants u c uSign (· == signType c.alg) = true ∧ u.handleRefusal (handlesOf 0x10 0 []) = none) ∧
    Uses 0x0301 0x31 8 (bytes 200) [bytes 255] 0 (ready [0x31] (keyed 0x21 (bytes 32))) (fun u c => signFlagsOk c c.alg = true ∧
      u.hasProgram c.alg = true ∧ signInputOk c c.alg 200 = true ∧ signParamOk c.alg c.param = true ∧
      contextOk c.alg 255 = true ∧ grants u c uSign (· == signType c.alg) = true) ∧
    Uses 0x0301 0x08 0 (bytes 20) [] 0 (ready [0x08] (keyed 0x10 (bytes 32))) (fun u c => signFlagsOk c c.alg = true ∧
      u.hasProgram c.alg = true ∧ signInputOk c c.alg 20 = true ∧ signParamOk c.alg c.param = true ∧
      contextOk c.alg 0 = true ∧ denies u c uSign (· == signType c.alg) = true) ∧
    Later 0x0301 (usesLarge 0x18 (8 * 64 + 6) (bytes 64) []) (ready [0x18] (largeOf 0x40)) (parts [(1, rsaHead)]) (fun u c =>
      u.gotOf c.cid = none ∧ signFlagsOk c c.alg = true ∧ u.hasProgram c.alg = true ∧ signInputOk c c.alg 64 = true ∧
      signParamOk c.alg c.param = true ∧ contextOk c.alg 0 = true ∧ holds u c uSign 0x40 (some rsaHead) = true) ∧
    Sends 0x0301 (usesLarge 0x18 (8 * 64 + 6) (bytes 64) []) (ready [0x18] (largeOf 0x40)) (fun u c =>
      u.hasProgram c.alg = true ∧ holds u c uSign 0x40 none = true) ∧
    Later 0x0301 (usesLarge 0x38 0 (bytes 64) []) (ready [0x38] (largeOf 0x42)) (parts [(1, composite)]) (fun u c =>
      signFlagsOk c c.alg = true ∧ u.hasProgram c.alg = true ∧ signInputOk c c.alg 64 = true ∧ signParamOk c.alg c.param = true ∧
      contextOk c.alg 0 = true ∧ holds u c uSign 0x42 (some composite) = true ∧ u.handleRefusal (handlesOf 0x42 0 composite) = none ∧
      ((componentsOf composite).getD []).length = 2 ∧ ((componentsOf composite).getD []).all (componentParamOk c) = true ∧
      ((componentsOf composite).getD []).all (componentInputOk c 64) = true) ∧
    Uses 0x0302 0x02 0 (bytes 20) [bytes 65, bytes 64] 0 (ready [0x02] bound) (fun u c => signFlagsOk c c.alg = true ∧
      u.hasProgram c.alg = true ∧ signInputOk c c.alg 20 = true ∧ okOf (u.curve (c.param % 256)) = some p256 ∧ c.param < 256 ∧
      verifyLengths c p256 65 64 = none ∧ contextOk c.alg 0 = true) ∧
    Uses 0x0302 0x19 0 (bytes 32) [bytes 259, bytes 256] 0 (ready [0x19] bound) (fun u c => signFlagsOk c c.alg = true ∧
      u.hasProgram c.alg = true ∧ signInputOk c c.alg 32 = true ∧ signParamOk c.alg c.param = true ∧
      verifyLengths c p256 259 256 = none ∧ contextOk c.alg 0 = true) :=
  ⟨later (by decide +kernel) (by decide +kernel), sends (by decide +kernel) (by decide +kernel),
    sends (by decide +kernel) (by decide +kernel), sends (by decide +kernel) (by decide +kernel),
    later (by decide +kernel) (by decide +kernel), sends (by decide +kernel) (by decide +kernel),
    later (by decide +kernel) (by decide +kernel), sends (by decide +kernel) (by decide +kernel),
    sends (by decide +kernel) (by decide +kernel)⟩

theorem witness_CipherCommands :
    Yields 0x0304 (uses 0x05 0 (bytes 5) [[], bytes 13, bytes 4] 0) aYield (keyed 1 (bytes 16)) (fun _ _ => True) ∧
    Uses 0x0303 0x04 12 [] [bytes 9] 0 (keyed 3 (bytes 32)) (fun u c => u.gotOf c.cid = none ∧
      cipherReason c.alg true ⟨0, 9, 0, 12, 0, 0⟩ = none ∧ c.param < 32 ∧ grants u c uEncrypt (algType c.alg) = true ∧
      u.skeRoom false = true) ∧
    Uses 0x0303 0x04 12 [] [bytes 9] 0 (keyed 7 (bytes 32)) (fun u c => cipherReason c.alg true ⟨0, 9, 0, 12, 0, 0⟩ = none ∧
      c.param < 32 ∧ denies u c uEncrypt (algType c.alg) = true) ∧
    Uses 0x0303 0x06 0 (bytes 17) [[], bytes 16] 0 (keyed 3 (bytes 32)) (fun u c =>
      cipherReason c.alg true ⟨17, 0, 16, 0, 0, 0⟩ = none ∧ deviceIv c.alg = false ∧ grants u c uEncrypt (fun _ => true) = true ∧
      okOf (u.handleCheck c.inst c.key2 uEncrypt) = some (1, aSlot 3 (bytes 32)) ∧ algType 0x06 3 = true) ∧
    Uses 0x0304 0x05 0 (bytes 5) [[], bytes 13, bytes 4] 0 (keyed 1 (bytes 16)) (fun u c =>
      cipherReason c.alg false ⟨5, 0, 13, 4, 0, 0⟩ = none ∧ grants u c uDecrypt (algType c.alg) = true ∧ u.skeRoom false = true) ∧
    Uses 0x0303 0x1B 0 (bytes 190) [[], bytes 259, bytes 256] 0 (ready [0x1B] bound) (fun u c => u.hasProgram 0x1B = true ∧
      rsaModBytes 259 = 256 ∧ c.param < 3 ∧ 190 ≤ oaepMax 256 c.param) ∧
    Later 0x0304 (usesLarge 0x1A 2 (bytes 256) [[], [], [], bytes 256]) (ready [0x1A] (largeOf 0x40)) (parts [(1, rsaHead)]) (fun u c =>
      u.gotOf c.cid = none ∧ u.hasProgram 0x1A = true ∧ c.param < 3 ∧ holds u c uDecrypt 0x40 (some rsaHead) = true ∧
      le rsaHead 0 2 / 8 = 256) ∧
    Sends 0x0304 (usesLarge 0x1A 0 (bytes 256) []) (ready [0x1A] (largeOf 0x41)) (fun u c => u.hasProgram 0x1A = true ∧
      holds u c uDecrypt 0x40 none = true) :=
  ⟨later (by decide +kernel) (by decide +kernel), sends (by decide +kernel) (by decide +kernel),
    sends (by decide +kernel) (by decide +kernel), sends (by decide +kernel) (by decide +kernel),
    sends (by decide +kernel) (by decide +kernel), sends (by decide +kernel) (by decide +kernel),
    later (by decide +kernel) (by decide +kernel), sends (by decide +kernel) (by decide +kernel)⟩

theorem witness_MacHashWrapCommands :
    (∀ x ∈ [(0x0305, 0x31, 5), (0x0306, 0x31, 5), (0x0307, 0x20, 3), (0x0308, 0x07, 3), (0x0309, 0x07, 3)],
      Yields x.1 (uses x.2.1 0 (bytes 16) [] 0) aYield (keyed x.2.2 (bytes 32)) (fun _ _ => True)) ∧
    Uses 0x0305 0x09 8 (bytes 1) [] 0 (keyed 3 (bytes 32)) (fun u c => c.param < 32 ∧ macOk c.alg ⟨0, 0, 0, 8, 0, 0⟩ = true ∧
      macOk c.alg ⟨0, 0, 0, 16, 0, 0⟩ = true ∧ macOk c.alg ⟨1, 0, 0, 16, 0, 0⟩ = true ∧ grants u c uMacGen (algType c.alg) = true ∧
      u.skeRoom false = true) ∧
    Uses 0x0305 0x31 0 (bytes 1) [] 0 (keyed 5 (bytes 32)) (fun u c => macOk c.alg ⟨0, 0, 0, digestLen c.alg, 0, 0⟩ = true ∧
      macOk c.alg ⟨1, 0, 0, 16, 0, 0⟩ = true ∧ grants u c uMacGen (algType c.alg) = true) ∧
    Uses 0x0305 0x38 0 [] [bytes 256] 64 (keyed 5 (bytes 16)) (fun u c => macOk c.alg ⟨0, 0, 0, 64, 0, 0⟩ = true ∧
      macOk c.alg ⟨0, 0, 0, 16, 0, 256⟩ = true ∧ macOk c.alg ⟨0, 0, 0, 16, 0, 0⟩ = true ∧ grants u c uMacGen (algType c.alg) = true ∧
      16 ≤ (aSlot 5 (bytes 16)).keyLen) ∧
    Uses 0x0305 0x31 16 [] [] 0 (keyed 3 (bytes 32)) (fun u c => macOk c.alg ⟨0, 0, 0, 16, 0, 0⟩ = true ∧
      denies u c uMacGen (algType c.alg) = true) ∧
    Uses 0x0306 0x31 0 [] [bytes 48] 0 (keyed 5 (bytes 32)) (fun u c => macOk c.alg ⟨0, 0, 0, 16, 0, 0⟩ = true ∧
      macOk c.alg ⟨0, 0, 0, 48, 0, 0⟩ = true ∧ grants u c uMacVer (algType c.alg) = true) ∧
    Uses 0x0306 0x31 0 [] [bytes 48] 0 (keyed 3 (bytes 32)) (fun u c => denies u c uMacVer (algType c.alg) = true) ∧
    Uses 0x0307 0x28 0 [] [] 8192 bound (fun u c => hashOk c.alg ⟨0, 0, 0, 0, 8192, 0⟩ = true ∧ u.skeRoom false = true) ∧
    Uses 0x0307 0x20 0 (bytes 3) [] 0 bound (fun _ c => hashOk c.alg ⟨0, 0, 0, 0, 0, 0⟩ = true ∧ hashOk c.alg ⟨3, 0, 0, 0, 0, 0⟩ = true) ∧
    Uses 0x0308 0x07 0 (bytes 16) [] 0 (keyed 3 (bytes 32)) (fun u c => wrapOk c.alg true 16 = true ∧
      grants u c uWrap (algType c.alg) = true) ∧
    Uses 0x0309 0x08 0 (bytes 1024) [] 0 (keyed 3 (bytes 32)) (fun u c => wrapOk c.alg false 1024 = true ∧
      grants u c uUnwrap (algType c.alg) = true) ∧
    Uses 0x0309 0x08 0 (bytes 16) [] 0 (keyed 5 (bytes 32)) (fun u c => wrapOk c.alg false 16 = true ∧
      denies u c uUnwrap (algType c.alg) = true) :=
  ⟨fun x h => by
    simp only [List.mem_cons, List.not_mem_nil, or_false] at h
    rcases h with rfl | rfl | rfl | rfl | rfl <;> exact later (by decide +kernel) (by decide +kernel),
    sends (by decide +kernel) (by decide +kernel), sends (by decide +kernel) (by decide +kernel),
    sends (by decide +kernel) (by decide +kernel), sends (by decide +kernel) (by decide +kernel),
    sends (by decide +kernel) (by decide +kernel), sends (by decide +kernel) (by decide +kernel),
    sends (by decide +kernel) (by decide +kernel), sends (by decide +kernel) (by decide +kernel),
    sends (by decide +kernel) (by decide +kernel), sends (by decide +kernel) (by decide +kernel),
    sends (by decide +kernel) (by decide +kernel)⟩

/-- The slots are there to be loaded. -/
def loadable (s : State) : State :=
  { s.put R.skeSlotCfgScrambleReady 1 |>.put R.skeSlotCfgMaskReady 1 with keys.scramble := bytes 512 }

/-- What a secret's job yields: 32 bytes of secret and a public result. -/
def aSecret : Yield := ⟨0, 0, 0, bytes 768, bytes 32, 0⟩

theorem witness_SecretCommands_dest :
    Yields 0x030B (uses 0x29 0 [] [bytes 800] 0) aSecret (loadable (ready [0x29] (keyed 3 (bytes 32)))) (fun u c =>
      okOf (u.destBlock c [] 2) = some none ∧ u.hasProgram c.alg = true ∧ kemParamOk c.param = true ∧
      u.tenantRefusal c.tenant false = none ∧ (u.tenant c.tenant).bind (fun t => t.topWg) = some 3 ∧
      u.get R.mpcWorldStatusKeysLocked = 0 ∧ u.slotsReady = true ∧
      (okOf (u.loadSlot c.inst ⟨7, 6, 0, 2 ^ uDerive, 3, false, false, bytes 32, 0, 0, 0, 0⟩)).isSome = true) ∧
    Yields 0x030A (uses 0x11 0 [] [bytes 56, (block 6 0 0x100 32).bytes] 0) aSecret (loadable (ready [0x11] (keyed 3 (bytes 32)))) (fun u c =>
      okOf (u.destBlock c (block 6 0 0x100 32).bytes 2) = some (some (block 6 0 0x100 32)) ∧ u.hasProgram c.alg = true ∧
      keyLenOk u 6 0 32 = true ∧ keyValid u 6 0 (bytes 32) = true ∧
      (okOf (u.loadSlot c.inst ⟨7, 6, 0, 0x100, 3, false, false, bytes 32, 0, 0, 0, 0⟩)).isSome = true) ∧
    Yields 0x030C (uses 0x2A 1 [] [bytes 768, (block 6 0 0x100 32).bytes] 0) aSecret (ready [0x2A] (keyed 3 (bytes 32))) (fun u c =>
      okOf (u.destBlock c (block 6 0 0x100 32).bytes 2) = some (some (block 6 0 0x100 32)) ∧ u.hasProgram c.alg = true ∧
      kemParamOk c.param = true ∧ keeps u c (block 6 0 0x100 32) (bytes 32) false = true) ∧
    Yields 0x030B (uses 0x29 2 [] [bytes 800] 0) aSecret (ready [0x29] (keyed 3 (bytes 32))) (fun u c => kemParamOk c.param = true ∧
      okOf (u.kek c uWrap) = some (aSlot 3 (bytes 32)) ∧ (aSlot 3 (bytes 32)).tenant = c.tenant ∧ u.partOf c.cid 3 = none ∧
      u.skeRoom true = true) ∧
    Later 0x030B (uses 0x29 2 [] [bytes 800] 0) (ready [0x29] (keyed 3 (bytes 32))) (fun d => ran aSecret (parts [(3, bytes 40)] d))
      (fun u c => u.gotOf c.cid = some aSecret ∧ okOf (u.kek c uWrap) = some (aSlot 3 (bytes 32)) ∧
        u.partOf c.cid 3 = some (bytes 40)) ∧
    Yields 0x030C (uses 0x39 2 [] [bytes 1] 0) { aSecret with status := St.inputRejected } (ready [0x39] (keyed 3 (bytes 32)))
      (fun u c => okOf (u.destBlock c [] 2) = some none ∧ u.hasProgram c.alg = true ∧ kemParamOk c.param = true) :=
  ⟨later (by decide +kernel) (by decide +kernel), later (by decide +kernel) (by decide +kernel),
    later (by decide +kernel) (by decide +kernel), later (by decide +kernel) (by decide +kernel),
    later (by decide +kernel) (by decide +kernel), later (by decide +kernel) (by decide +kernel)⟩

/-- The head of a finite-field key of 2,048 bits. -/
def ffdhBytes : Bytes := leBytes 2 2048 ++ leBytes 2 256 ++ leBytes 2 256 ++ bytes 40

theorem witness_SecretCommands_jobs :
    Uses 0x030A 0x04 0 [] [bytes 65] 0 (ready [0x04] (keyed 0x10 (bytes 32))) (fun u c => okOf (u.destBlock c [] 2) = some none ∧
      u.hasProgram c.alg = true ∧ u.gotOf c.cid = none ∧ grants u c uAgree (· == 0x10) = true ∧ okOf (u.curve 0) = some p256 ∧
      65 = 1 + 2 * p256.plen ∧ exportBlocked c 0xFFF = false) ∧
    Uses 0x030A 0x11 1 [] [bytes 56, (block 6 0 0x100 32).bytes] 0 (ready [0x11] (keyed 0x14 (bytes 56))) (fun u c =>
      okOf (u.destBlock c (block 6 0 0x100 32).bytes 2) = some (some (block 6 0 0x100 32)) ∧ u.hasProgram c.alg = true ∧
      u.storeGate true = none ∧ grants u c uAgree (· == 0x14) = true ∧ exportBlocked c 0xFFF = false) ∧
    Uses 0x030A 0x10 0 [] [bytes 32] 0 (ready [0x10] (keyed 0x14 (bytes 56))) (fun u c => okOf (u.destBlock c [] 2) = some none ∧
      u.hasProgram c.alg = true ∧ denies u c uAgree (· == 0x13) = true) ∧
    Later 0x030A (usesLarge 0x20 0 [] [bytes 256]) (ready [0x20] (largeOf 0x41)) (parts [(1, ffdhBytes)]) (fun u c =>
      okOf (u.destBlock c [] 2) = some none ∧ u.hasProgram c.alg = true ∧ u.gotOf c.cid = none ∧ c.param < 4 ∧
      holds u c uAgree 0x41 (some ffdhBytes) = true ∧ le ffdhBytes 0 2 / 8 = 256 ∧ exportBlocked c 0xFFF = false) ∧
    Sends 0x030A (usesLarge 0x20 0 [] [bytes 256]) (ready [0x20] (largeOf 0x41)) (fun u c => u.hasProgram c.alg = true ∧
      c.param < 4 ∧ holds u c uAgree 0x41 none = true) ∧
    Uses 0x030B 0x29 8 [] [bytes 1568] 0 (ready [0x29] bound) (fun u c => okOf (u.destBlock c [] 2) = some none ∧
      u.hasProgram c.alg = true ∧ u.gotOf c.cid = none ∧ kemParamOk c.param = true ∧ 1568 = kemEk (setOf c.param)) ∧
    Uses 0x030C 0x2A 0 [] [bytes 768] 0 (ready [0x2A] (keyed 0x20 (bytes 64))) (fun u c => okOf (u.destBlock c [] 2) = some none ∧
      u.hasProgram c.alg = true ∧ kemParamOk c.param = true ∧ 768 = kemCt (setOf c.param) ∧
      grants u c uDecaps (· == 0x20) = true ∧ exportBlocked c 0xFFF = false) ∧
    Uses 0x030C 0x2A 0 [] [bytes 768] 0 (ready [0x2A] (keyed 0x10 (bytes 64))) (fun u c => u.hasProgram c.alg = true ∧
      768 = kemCt (setOf c.param) ∧ denies u c uDecaps (· == 0x20) = true) ∧
    Later 0x030C (usesLarge 0x39 0 [] [leBytes 2 65 ++ bytes 65 ++ leBytes 2 65 ++ bytes 65]) (ready [0x39] (largeOf 0x42))
      (parts [(1, composite)]) (fun u c => okOf (u.destBlock c [] 2) = some none ∧ u.hasProgram c.alg = true ∧
        kemParamOk c.param = true ∧ holds u c uDecaps 0x42 (some composite) = true ∧
        u.handleRefusal (handlesOf 0x42 0 composite) = none ∧
        peersOk u c ((componentsOf composite).getD []) (leBytes 2 65 ++ bytes 65 ++ leBytes 2 65 ++ bytes 65) = true ∧
        exportBlocked c 0xFFF = false) ∧
    Sends 0x030C (usesLarge 0x39 0 [] [bytes 1]) (ready [0x39] (largeOf 0x42)) (fun u c => u.hasProgram c.alg = true ∧
      holds u c uDecaps 0x42 none = true) :=
  ⟨sends (by decide +kernel) (by decide +kernel), sends (by decide +kernel) (by decide +kernel),
    sends (by decide +kernel) (by decide +kernel), later (by decide +kernel) (by decide +kernel),
    sends (by decide +kernel) (by decide +kernel), sends (by decide +kernel) (by decide +kernel),
    sends (by decide +kernel) (by decide +kernel), sends (by decide +kernel) (by decide +kernel),
    later (by decide +kernel) (by decide +kernel), sends (by decide +kernel) (by decide +kernel)⟩

theorem witness_ArithmeticAndRandom :
    Uses 0x030D 0x44 2 [] [beBytes 16 (2 ^ 128 - 1), bytes 16, bytes 8] 0 (ready [0x44] bound) (fun u c => u.gotOf c.cid = none ∧
      u.hasProgram c.alg = true ∧ arithLengths c ⟨[beBytes 16 (2 ^ 128 - 1), bytes 16, bytes 8], [], 0⟩ = none ∧
      modulusOk c.param (ofBe (beBytes 16 (2 ^ 128 - 1))) = true) ∧
    Yields 0x030D (uses 0x44 2 [] [beBytes 16 (2 ^ 128 - 1), bytes 16, bytes 8] 0) aYield bound (fun _ _ => True) ∧
    Uses 0x030E 0 0 [] [] 4096 bound (fun u _ => u.canDraw = true) ∧ up.trngRuns = true ∧ up.drbgUp = true :=
  ⟨sends (by decide +kernel) (by decide +kernel), later (by decide +kernel) (by decide +kernel),
    sends (by decide +kernel) (by decide +kernel), by decide +kernel, by decide +kernel⟩

/-! ### Register accesses -/

/-- Custody pair A, and the PF. -/
def pairA : Requester := ⟨1, 0⟩
def pf : Requester := ⟨0x50, 0⟩

/-- The device with its link up, one rule of the register space's checker granting it to every master. -/
def linked : State :=
  { (((up.put (R.mpcRuleBase 192) 0x30000).put (R.mpcRuleLimit 192) 0x300FF).put (R.mpcRuleRights 192) 7) with
    pwr.link := true
    worlds.ruled := [6] }

/-- The access gets through, and `h` holds. -/
def Gets (s : State) (r : Requester) (k : AccKind) (off len : Nat) (h : Prop) : Prop := s.reaches r k off len ∧ h

/-- The write of the 32-bit register gets through, and `h` holds. -/
def Writes (s : State) (r : Requester) (off : Nat) (h : Prop) : Prop := s.writes32 r off ∧ h

theorem witness_RegisterReads :
    Gets up pairA .read 0x10080 4 (assigned 0x10080 = true ∧ isWide 0x10080 = false) ∧
    Gets up pairA .read 0x40070 4 (assigned 0x40070 = true ∧ isWide 0x40070 = true ∧ 0x40070 ≠ 0x90060) ∧
    Gets { up with iface.halves := [(halfKey pairA, .readLatch 0x40070 9)] } pairA .read 0x40074 4 (assigned 0x40074 = true ∧
      isWide 0x40074 = false ∧ isWide (0x40074 - 4) = true) ∧
    Gets linked pf .read 0x40070 8 (assigned 0x40070 = true ∧ isWide 0x40070 = true ∧ assigned (0x40070 + 4) = true) := by
  unfold Gets State.reaches
  exact ⟨by decide +kernel, by decide +kernel, by decide +kernel, by decide +kernel⟩

/-- The next state an outcome answers. -/
def nextOf (o : Host.Outcome State Fault Refusal) : Option State :=
  match o with
  | .next t => some t
  | _ => none

theorem witness_RandomWords :
    Gets { up with trng.fifo := [bytes 8] } pairA .read 0x90060 8 (up.drbgUp = true) ∧
    Gets { linked with trng.fifo := [bytes 8, bytes 8] } pf .read 0x90060 4 (linked.drbgUp = true) ∧
    Gets { up with iface.halves := [(halfKey pairA, .readLatch 0x90060 5)] } pairA .read 0x90064 4
      (look [(halfKey pairA, Half.readLatch 0x90060 5)] (halfKey pairA) = some (.readLatch 0x90060 5)) ∧
    Gets up pairA .read 0x90068 4 (up.get R.ferryStatusRole ≠ 2) ∧
    Gets up pairA .read 0x90060 8 (up.drbgUp = true ∧ up.trng.fifo = []) ∧
    (∀ part ∈ [0, 1, 2, 3], (nextOf (exec (.trngDataRead pairA part true) up)).map (·.trngRuns) = some true) := by
  unfold Gets State.reaches
  exact ⟨by decide +kernel, by decide +kernel, by decide +kernel, by decide +kernel, by decide +kernel, by decide +kernel⟩

/-- The one field of a register. -/
def oneField (off : Nat) (a : Acc) : Bool :=
  match fieldsOf off with
  | [x] => x.1.acc == a && fieldOpen pairA x && x.1.cls != .idleOnly && !actsWhenWritten off
  | _ => false

theorem witness_RegisterWrites :
    Writes linked pf 0x10080 (writeGate pf (fieldsOf 0x10080) = .denied) ∧
    Writes up pairA 0xA0088 (oneField 0xA0088 .rw = true) ∧
    Writes up pairA 0x80050 (oneField 0x80050 .rws = true ∧
      (fieldsOf 0x80050).all (fun x => !bitOf (up.get (R.hdrCommitPending (blockOf x.2.off))) (groupAt x)) = true) ∧
    Writes (up.put (R.hdrCommitPending 0x80000) 1) pairA 0x80050 (oneField 0x80050 .rws = true ∧
      (fieldsOf 0x80050).all (fun x => bitOf ((up.put (R.hdrCommitPending 0x80000) 1).get (R.hdrCommitPending (blockOf x.2.off)))
        (groupAt x)) = true) ∧
    Gets linked pf .write 0x50048 4 (assigned 0x50048 = true ∧ isWide 0x50048 = true ∧ writeGate pf (rowsAt 0x50048) = .pass) ∧
    Gets { up with iface.halves := [(halfKey pairA, .heldWrite 0x20090 7)] } pairA .write 0x20094 4 (assigned 0x20094 = true ∧
      isWide 0x20094 = false ∧ isWide (0x20094 - 4) = true ∧ writeGate pairA (rowsAt (0x20094 - 4)) = .pass ∧ up.iface.pwBusy = []) := by
  unfold Gets Writes State.writes32 State.reaches
  exact ⟨by decide +kernel, by decide +kernel, by decide +kernel, by decide +kernel, by decide +kernel, by decide +kernel⟩

/-- An access error stands under sequence number 9. -/
def withError : State := { up.put ⟨0x10040, 0, 16, 0⟩ 9 with iface.sqcHeld := [0x10040] }

theorem witness_SequenceClears :
    Writes withError pairA 0x10040 (writeGate pairA (fieldsOf 0x10040) = .pass ∧
      (rowsAt 0x10040).any (fun x => x.1.acc == .sqc) = true ∧ 0x10040 ≠ blockOf 0x10040 + 4 ∧ 0x10040 ≠ blockOf 0x10040 + 0xC ∧
      nthReg 0x10040 0x7010C 0x10 16 = none ∧ nthReg 0x10040 0x8010C 0x10 8 = none ∧ nthReg 0x10040 0x90108 0x10 5 = none ∧
      nthReg 0x10040 0xF0104 4 63 = none ∧ 9 % 65536 = withError.get ⟨0x10040, 0, 16, 0⟩ ∧ 0x10040 ∈ withError.iface.sqcHeld) := by
  unfold Writes State.writes32 State.reaches
  decide +kernel

theorem witness_PostedWrites :
    (up.judge pairA .write (0x30000000 + 0xA0088) = .allow ∧ isSlow 0xA0088 = true ∧ assigned 0xA0088 = true ∧
      up.blockOut 0xA0088 true = false ∧ look up.iface.pwBusy 0xA0088 = none ∧ writeGate pairA (fieldsOf 0xA0088) = .pass) ∧
    (let s := { up with iface.pwBusy := [(0xA0088, (2 ^ 31 - 1, pairA))] }
     s.judge pairA .write (0x30000000 + 0xA0088) = .allow ∧ s.blockOut 0xA0088 true = false ∧
      look s.iface.pwBusy 0xA0088 = some (2 ^ 31 - 1, pairA)) ∧
    (linked.judge pf .write (0x30000000 + 0xA0088) = .allow ∧ linked.hostThere pf.sub = true ∧ reqIsHost pf = true) := by
  decide +kernel

/-! ### Control -/

theorem witness_BlockControl :
    Writes up pairA (0xF0000 + 4) (0xF0000 ∈ blockBases ∧ writesAt pairA 0xF0000 = true) ∧
    Writes up pairA (0x50000 + 4) (0x50000 ∈ blockBases ∧ writesAt pairA 0x50000 = true) ∧
    ((up.put (R.hdrCtrlQuiesce 0x10000) 1).get (R.hdrCtrlQuiesce 0x10000) = 1 ∧ up.blockOut 0x10000 true = false ∧ 0x10000 ∈ blockBases) ∧
    up.get (R.hdrCtrlQuiesce 0x10000) = 0 ∧
    (∀ q ∈ [0, 1], (switching 3 q 1).life.updating ≠ none ∧ (switching 3 q 1).blockOut 0x50000 true = false) := by
  unfold Writes State.writes32 State.reaches
  exact ⟨by decide +kernel, by decide +kernel, by decide +kernel, by decide +kernel, by decide +kernel⟩

/-- A commit of a block is pending; a job runs on cluster 3 and in lane 3. -/
def committing (base : Nat) : State := up.put (R.hdrCommitPending base) 1
def committingBusy (base : Nat) : State :=
  { committing base with
    eng.clusters := [(3, { Cluster.new with job := some (Job.of (msg 7 []) false 1 0) })]
    eng.lanes := [(3, { Lane.new with job := some (Job.of (msg 7 []) true 5 0) })] }

theorem witness_Commits :
    Writes (up.put R.compassStatusState 1) pairA (0x40000 + 0xC) (writesAt pairA 0x40000 = true ∧
      bitOf (up.get (R.hdrCommitPending 0x40000)) 0 = false ∧ (up.put R.compassStatusState 1).get R.compassStatusState ≠ 0) ∧
    Writes (committing 0xB0000) pairA (0xB0000 + 0xC) (bitOf ((committing 0xB0000).get (R.hdrCommitPending 0xB0000)) 0 = true) ∧
    (∀ base ∈ [0x40000, 0xA0000], bitOf ((committing base).get (R.hdrCommitPending base)) 0 = true ∧
      (committing base).blockOut base true = false ∧ (committing base).outOfRange base = false) ∧
    (∀ base ∈ [0x70000, 0x80000], bitOf ((committing base).get (R.hdrCommitPending base)) 0 = true ∧
      (committing base).blockOut base true = false ∧ (committing base).outOfRange base = false ∧
      (List.range (if base = 0x70000 then 16 else 8)).filter (fun n => (committing base).atBoundary base n) =
        List.range (if base = 0x70000 then 16 else 8)) ∧
    (∀ base ∈ [0x70000, 0x80000], (committingBusy base).blockOut base true = false ∧ (committingBusy base).outOfRange base = false ∧
      (committingBusy base).takers base = [] ∧ (committingBusy base).atBoundary base 3 = false) ∧
    ((committing 0xA0000).put R.storeBatchCfgPages 4096).outOfRange 0xA0000 = true := by
  unfold Writes State.writes32 State.reaches
  exact ⟨by decide +kernel, by decide +kernel, by decide +kernel, by decide +kernel, by decide +kernel, by decide +kernel⟩

theorem witness_CheckerCommits :
    Writes ((up.put (R.mpcRuleRights 192) 1).put (R.mpcRuleRights 223) 1) pairA 0xC000C
      (((up.put (R.mpcRuleRights 192) 1).put (R.mpcRuleRights 223) 1).rulesRefusal 6 = some 1) ∧
    Writes up pairA 0xC000C (custodyWriter pairA = true ∧ bitOf (up.get (R.hdrCommitPending 0xC0000)) 0 = false ∧
      up.rulesRefusal 0 = none) ∧
    (up.put (R.mpcRuleEpochState 6) 2).get (R.mpcRuleEpochState 6) = 2 ∧ up.get (R.mpcRuleEpochState 0) = 0 := by
  unfold Writes State.writes32 State.reaches
  exact ⟨by decide +kernel, by decide +kernel, by decide +kernel, by decide +kernel⟩

theorem witness_Acknowledgments :
    Writes (linked.put (R.qengEventPendingPending 15) (2 ^ 31)) pf 0x50140 (pfWriter pf = true ∧
      (linked.put (R.qengEventPendingPending 15) (2 ^ 31)).eventPending 511 = true ∧ linked.eventPending 511 = false) ∧
    Writes up pairA 0x50140 (pfWriter pairA = false) ∧ Writes up pairA 0x2008C ((custodyWriter pairA || pfWriter pairA) = true) := by
  unfold Writes State.writes32 State.reaches
  exact ⟨by decide +kernel, by decide +kernel, by decide +kernel⟩

/-- One request stands in the ring, and the consumer index is about to wrap. -/
def wrapping : State := (linked.put R.storeReqConsIndex 65535).put R.storeReqProdIndex 0

theorem witness_StoreIndices :
    Writes wrapping pf 0xA0068
      ((0 + 0x10000 - wrapping.get R.storeReqConsIndex) % 0x10000
        ≤ (wrapping.get R.storeReqProdIndex + 0x10000 - wrapping.get R.storeReqConsIndex) % 0x10000 ∧
      (wrapping.get R.storeReqProdIndex + 0x10000 - wrapping.get R.storeReqConsIndex) % 0x10000
        < (1 + 0x10000 - wrapping.get R.storeReqConsIndex) % 0x10000) ∧
    Writes (linked.put R.storeRspCfgLog2Size 4) pf 0xA007C
      ((16 + 0x10000 - linked.get R.storeRspConsIndex) % 0x10000 ≤ 2 ^ (linked.put R.storeRspCfgLog2Size 4).get R.storeRspCfgLog2Size ∧
      2 ^ (linked.put R.storeRspCfgLog2Size 4).get R.storeRspCfgLog2Size < (17 + 0x10000 - linked.get R.storeRspConsIndex) % 0x10000) := by
  unfold Writes State.writes32 State.reaches
  exact ⟨by decide +kernel, by decide +kernel⟩

/-- Cluster 15 in a state, its gate request and its fence as given; `hold` where Decision 2 or a repair holds it. -/
def gated (st gate fence : Nat) (hold : Bool) : State :=
  { ((up.put (R.pkeClusterStatusState 15) st).put (R.pkeClusterCtrlGateReq 15) gate).put (R.pkeClusterCtrlFence 15) fence with
    eng.clusters := [(15, { Cluster.new with held := hold })] }

/-- Lane 7 in a state, lane 0 READY where `two`. -/
def lanes (st : Nat) (two : Bool) : State := (up.put (R.skeLaneStatusState 7) st).put (R.skeLaneStatusState 0) (if two then 2 else 0)

theorem witness_EngineControls :
    (∀ s ∈ [gated 3 0 0 false, gated 0 1 0 false, gated 7 0 1 false, gated 0 1 1 false, gated 0 0 1 true, gated 8 0 0 false],
      ∀ gate ∈ [false, true], (s.writes32 pairA (clusterCtrlOff 15)) ∧ (reqIsPair pairA || (gate && reqIsAp pairA)) = true) ∧
    ((gated 3 0 0 false).clusterState 15 ≠ 8 ∧ (gated 3 0 0 false).is (R.pkeClusterCtrlGateReq 15) = false ∧
      (gated 3 0 0 false).is (R.pkeClusterCtrlFence 15) = false) ∧
    ((gated 0 1 0 false).clusterState 15 = 0 ∧ (gated 0 1 0 false).is (R.pkeClusterCtrlGateReq 15) = true ∧
      (gated 0 1 0 false).is (R.pkeClusterCtrlFence 15) = false ∧ ((gated 0 1 0 false).cluster 15).held = false ∧
      bitOf up.pwr.regionOff (15 / 4) = false) ∧
    ((gated 7 0 1 false).clusterState 15 = 7 ∧ (gated 7 0 1 false).is (R.pkeClusterCtrlFence 15) = true ∧
      (gated 7 0 1 false).is (R.pkeClusterCtrlGateReq 15) = false) ∧
    ((gated 0 1 1 false).clusterState 15 = 0 ∧ (gated 0 1 1 false).is (R.pkeClusterCtrlGateReq 15) = true ∧
      (gated 0 1 1 false).is (R.pkeClusterCtrlFence 15) = true ∧ ((gated 0 1 1 false).cluster 15).held = false) ∧
    ((gated 0 0 1 true).clusterState 15 = 0 ∧ (gated 0 0 1 true).is (R.pkeClusterCtrlFence 15) = true ∧
      (gated 0 0 1 true).is (R.pkeClusterCtrlGateReq 15) = false ∧ ((gated 0 0 1 true).cluster 15).held = true ∧
      (gated 0 1 0 true).is (R.pkeClusterCtrlGateReq 15) = true) ∧
    (gated 8 0 0 false).clusterState 15 = 8 ∧
    (∀ s ∈ [lanes 0 false, lanes 2 false, lanes 3 true, lanes 4 false], s.writes32 pairA (laneCtrlOff 7)) ∧
    ((lanes 0 false).laneState 7 = 0 ∧ (lanes 0 false).get (R.skeLaneCtrlFence 7) ≠ 1 ∧ (lanes 0 false).get (R.skeLaneCtrlGateReq 7) ≠ 1) ∧
    ((lanes 3 true).laneState 7 = 3 ∧ (lanes 3 true).lastLane 7 = false) ∧
    ((lanes 2 false).laneState 7 = 2 ∧ (lanes 2 false).lastLane 7 = true) ∧ (lanes 4 false).laneState 7 = 4 := by
  unfold State.writes32 State.reaches
  refine ⟨?_, ?_, ?_, ?_, ?_, ?_, ?_, ?_, ?_, ?_, ?_, ?_⟩ <;> decide +kernel

theorem witness_SourceControls :
    Writes (up.put (R.trngSrcStatusState 4) 2) pairA (srcCtrlOff 4) (up.trngRuns = true ∧
      (up.put (R.trngSrcStatusState 4) 2).get (R.trngSrcStatusState 4) ≠ 4 ∧
      (up.put (R.trngSrcStatusState 4) 2).get (R.trngSrcStatusState 4) ≠ 3 ∧
      (up.put (R.trngSrcStatusState 4) 2).lastSourceN 4 = false) ∧
    Writes (up.put (R.trngSrcStatusState 0) 2) pairA (srcCtrlOff 0) (up.trngRuns = true ∧
      (up.put (R.trngSrcStatusState 0) 2).get (R.trngSrcStatusState 0) ≠ 4 ∧
      (up.put (R.trngSrcStatusState 0) 2).lastSourceN 0 = true) := by
  unfold Writes State.writes32 State.reaches
  exact ⟨by decide +kernel, by decide +kernel⟩

theorem witness_WatchdogsAndLeases :
    Writes up ⟨2, 0⟩ 0xC0048 (up.pairRuns 1 = true) ∧
    (up.is R.keeperTamperStatePurged = false ∧ bitOf up.pwr.regionReset 5 = false ∧ up.life.underway = false ∧
      up.is (pairFld 1) = true) ∧
    Writes up pairA 0xC0070 (2 ^ 24 - 1 < 2 ^ 24) ∧
    (up.put (R.pkeClusterStatusGatePending 15) 1).is (R.pkeClusterStatusGatePending 15) = true ∧
    (up.put (R.skeLaneStatusGatePending 7) 1).is (R.skeLaneStatusGatePending 7) = true := by
  unfold Writes State.writes32 State.reaches
  exact ⟨by decide +kernel, by decide +kernel, by decide +kernel, by decide +kernel, by decide +kernel⟩

/-! ### What rests on a signature -/

/-- A token of custodian 0 for operation 32, its signature all zeros. -/
def token : Bytes :=
  [1, 1, 0, 1, 0, 0, 0, 0] ++ leBytes 4 32 ++ leBytes 4 0 ++ leBytes 8 0 ++ bytes 48 ++ [97, 0, 96, 0] ++ leBytes 4 0 ++ bytes 97
    ++ leBytes 96 0

/-- A custodian who holds the key of the token and of the anchor. -/
def holder : Custodian := { custodian with digest := (Config.sha384 (bytes 97)).take 16 }

/-- The operation waits, and custodian 0 holds the token's key. -/
def withToken : State := { ready [0x02] withOperation with quorum.custodians := [(0, holder)] }

theorem token_key : (token.drop 80).take (le token 72 2) = bytes 97 := by decide +kernel

theorem token_passes {s : State} {c : Custodian} (hc : s.custodian none 0 = some c) (hd : c.digest = (Config.sha384 (bytes 97)).take 16)
    (ht : s.is (R.quorumSlotClassTenantKind 0) = false) (hs : s.slotPends 32 = true) (hk : s.get (R.quorumSlotClassClass 0) = 1)
    (hn : s.get (R.quorumSlotClassTenant 0) = 0) (ha : (look s.quorum.acts 0).map (·.digest) = some (bytes 48))
    (he : bitOf (s.get (R.quorumSlotApprovalsEligible 0)) 0 = true) : s.tokenRefusal token token.length = none := by
  have hop : le token 8 4 = 32 := by decide +kernel
  have hp : le token 2 1 = 0 := by decide +kernel
  have h3 : le token 3 1 = 1 := by decide +kernel
  have h4 : le token 4 2 = 0 := by decide +kernel
  have h5 : le token 16 8 = 0 := by decide +kernel
  have h6 : slice token 24 48 = bytes 48 := by decide +kernel
  unfold State.tokenRefusal
  simp only [hop, hp, h3, h4, h5, h6, token_key, Nat.reduceMod, ht, hs, hk, hn, ha, Bool.false_eq_true, if_false, hc, hd, he]
  rw [if_neg (by decide +kernel)]
  simp

theorem token_stands : (stands 0x0505 (msg 0 token) withToken).tokenRefusal token token.length = none :=
  token_passes (c := holder) rfl rfl (by decide +kernel) (by decide +kernel) (by decide +kernel) (by decide +kernel)
    (by decide +kernel) (by decide +kernel)

theorem token_still_stands : ∀ v ∈ ([0, 1] : Bytes), (given (parts [(12, [v])]) (taken 0x0505 (msg 0 token) withToken).cid
    (stands 0x0505 (msg 0 token) withToken)).tokenRefusal token token.length = none := by
  intro v h
  simp only [List.mem_cons, List.not_mem_nil, or_false] at h
  rcases h with rfl | rfl <;>
    exact token_passes (c := holder) rfl rfl (by decide +kernel) (by decide +kernel) (by decide +kernel) (by decide +kernel)
      (by decide +kernel) (by decide +kernel)

theorem witness_Approvals :
    Sends 0x0505 (msg 0 token) withToken (fun u c =>
      u.tokenRefusal c.payload c.payloadLen = none ∧
      u.hasProgram (tokenJob u c (le c.payload 1 1) (ascii "FV64-APPROVE") (slice c.payload 80 97) (c.payload.take 177)
        (c.payload.drop 177)).prog = true) ∧
    Sends 0x0505 (msg 0 []) withToken (fun u c => u.tokenRefusal c.payload c.payloadLen = some (St.lengthInvalid, 0)) ∧
    (∀ v ∈ ([0, 1] : Bytes), Later 0x0505 (msg 0 token) withToken (parts [(12, [v])]) (fun u c =>
      u.tokenRefusal c.payload c.payloadLen = none ∧ u.partOf c.cid 12 = some [v])) :=
  ⟨sends (by decide +kernel) ⟨token_stands, by decide +kernel⟩, sends (by decide +kernel) (by decide +kernel),
    fun v h => later (by decide +kernel) ⟨token_still_stands v h, rfl⟩⟩

/-- An anchor of KIND 1 with ALIGN: mark 12 stands at the device's count 10. -/
def anchor : Bytes :=
  [1, 1, 1, 50] ++ leBytes 4 1 ++ leBytes 8 12 ++ leBytes 8 77 ++ leBytes 8 0 ++ leBytes 8 10 ++ leBytes 8 0 ++ [97, 0, 96, 0]
    ++ leBytes 12 0 ++ bytes 97 ++ leBytes 96 0

/-- The count is LOCKED, and the anchor's key is configured. -/
def withAnchor : State :=
  { (ready [0x02] up).put R.compassStatusState 2 with
    compass.count := 11
    compass.anchorKeys := [(1, holder.digest)] }

theorem anchor_key : (anchor.drop 64).take (le anchor 48 2) = bytes 97 := by decide +kernel

theorem anchor_passes {s : State} (hc : s.compass.anchorKeys = [(1, (Config.sha384 (bytes 97)).take 16)]) (hn : s.nominalHz = 50)
    (hs : s.get R.compassAnchorSerialSerial = 0) (hl : s.life.serial = leBytes 8 0) (hr : s.get R.compassRunStartCycle = 0)
    (hcount : s.compass.count = 11) (hst : s.cstate = 2) (hd : s.is R.compassStatusStepDue = false) :
    s.anchorRefusal anchor anchor.length = none := by
  have h1 : le anchor 1 1 = 1 := by decide +kernel
  have h2 : bitOf (le anchor 2 1) 0 = true := by decide +kernel
  have h3 : le anchor 8 8 = 12 := by decide +kernel
  have h4 : le anchor 32 8 = 10 := by decide +kernel
  have h5 : le anchor 40 8 = 0 := by decide +kernel
  have h6 : le anchor 4 4 = 1 := by decide +kernel
  have h7 : le anchor 3 1 = 50 := by decide +kernel
  have h8 : slice anchor 24 8 = leBytes 8 0 := by decide +kernel
  unfold State.anchorRefusal
  simp only [h1, h2, h3, h4, h5, h6, h7, h8, anchor_key, hc, hn, hs, hl, hr, hcount, hst, hd]
  rw [if_neg (by decide +kernel)]
  simp

theorem anchor_stands : (stands 0x0602 (msg 0 anchor) withAnchor).anchorRefusal anchor anchor.length = none :=
  anchor_passes rfl (by decide +kernel) (by decide +kernel) (by decide +kernel) (by decide +kernel) (by decide +kernel)
    (by decide +kernel) (by decide +kernel)

theorem anchor_still_stands : (given (parts [(12, [1])]) (taken 0x0602 (msg 0 anchor) withAnchor).cid
    (stands 0x0602 (msg 0 anchor) withAnchor)).anchorRefusal anchor anchor.length = none :=
  anchor_passes rfl (by decide +kernel) (by decide +kernel) (by decide +kernel) (by decide +kernel) (by decide +kernel)
    (by decide +kernel) (by decide +kernel)

theorem witness_TimeCommands_anchor :
    Sends 0x0602 (msg 0 anchor) withAnchor (fun u c => u.anchorRefusal c.payload c.payloadLen = none ∧ le c.payload 48 2 = 97 ∧
      u.hasProgram (tokenJob u c (le c.payload 1 1) (ascii "FV64-ANCHOR") (slice c.payload 64 97) (c.payload.take 161)
        (c.payload.drop 161)).prog = true) ∧
    Later 0x0602 (msg 0 anchor) withAnchor (parts [(12, [1])]) (fun u c =>
      u.anchorRefusal c.payload c.payloadLen = none ∧ u.partOf c.cid 12 = some [1]) :=
  ⟨sends (by decide +kernel) ⟨anchor_stands, by decide +kernel, by decide +kernel⟩,
    later (by decide +kernel) ⟨anchor_still_stands, rfl⟩⟩

/-! ### The machine -/

theorem witness_StepRunsTheFront :
    (State.reset.pending = [] ∧ State.reset.pwr.main = true ∧ State.reset.pwr.porstN = true ∧ State.reset.get R.faultHardOpen = 0) ∧
    ({ State.reset with pwr.main := false } : State).pending = [] ∧ ({ State.reset with pwr.main := false } : State).pwr.main = false := by
  decide +kernel

/-- Alarm `n` of path A finds the source watched and quiet. -/
def quiet (s : State) (n : Nat) : Bool := s.watched n && !s.pathUp false n && !s.pathUp true n

theorem witness_TamperByLifeCycle :
    (let s := up.put R.devStatusLife 0
     s.get R.devStatusLife = 0 ∧ quiet s 0 = true ∧ quiet s 24 = true ∧ quiet s 9 = true ∧ quiet s 23 = true) ∧
    (let s := up.put R.devStatusLife 3
     s.get R.devStatusLife = 3 ∧ quiet s 22 = true ∧ quiet s 9 = true ∧ quiet s 23 = true) ∧
    (up.put R.devStatusLife 4).get R.devStatusLife = 4 := by
  decide +kernel

theorem witness_StepKeepsCanonical : ∃ t, State.reset.canonical ∧ step State.reset = .next t :=
  ⟨_, ⟨by decide +kernel, by simp [Amap.rising, State.reset]⟩, rfl⟩

/-- A message whose every field is at the top of its range. -/
def fullMsg : Msg :=
  ⟨0xFFFF, 0xFFFF, 4095, 0, 0xFFFF, 0xFF, 0xFF, 2 ^ 32 - 1, 2 ^ 64 - 1, 2 ^ 64 - 1, 2 ^ 32 - 1, 2 ^ 32 - 1, 2 ^ 64 - 1, 0xFFFF, 0xFFFF,
    2 ^ 32 - 1, 0, [], .internal, 0⟩

theorem witness_HeaderRoundTrip : (∀ x ∈ fullMsg.operands, x.1 < x.2) ∧ fullMsg.inst = 0 := by decide +kernel

/-! ### Mailboxes, queues and functions -/

/-- The host side up: 255 VFs, and the checker of the mailboxes grants them to the host. -/
def hosted : State :=
  { (((((linked.put (R.mpcRuleBase 160) 0x30100).put (R.mpcRuleLimit 160) 0x30230).put (R.mpcRuleRights 160) 7).setMboxEnabled 0
      true).setMboxEnabled 255 true) with
    pwr.link := true
    pwr.vfEnable := true
    pwr.numVfs := 255
    worlds.ruled := [5, 6] }

/-- A command in progress at a mailbox of the PF. -/
def waiting (stage : Stage) (m : Msg) : Cmd := ⟨{ m with origin := .mbox 0 31 }, stage, none, none, none, [], none, []⟩

def withBox (fn box st : Nat) : State := hosted.put (mboxState fn box) st

theorem witness_Mailboxes :
    ((withBox 255 0 0).mboxThere 255 0 = true ∧ (withBox 255 0 0).get (mboxState 255 0) ≠ 1 ∧ (withBox 255 0 0).get (mboxState 255 0) ≠ 3) ∧
    ((withBox 0 31 2).mboxThere 0 31 = true ∧ (withBox 0 31 2).get (mboxState 0 31) = 2) ∧
    ((withBox nwInst 0 1).mboxThere nwInst 0 = true ∧ (withBox nwInst 0 1).get (mboxState nwInst 0) = 1) ∧
    ((withBox 255 0 3).mboxThere 255 0 = true ∧ (withBox 255 0 3).get (mboxState 255 0) = 3) ∧
    (∀ stage ∈ [Stage.payload, .route, .held],
      let s := { withBox 0 31 1 with host.cmds := [(4, waiting stage (msg 0 []))] }
      s.mboxThere 0 31 = true ∧ s.hs.formatting = none ∧
        s.host.cmds.find? (fun c => c.2.m.origin == mboxOrigin 0 31 && c.2.silent.isNone) = some (4, waiting stage (msg 0 []))) ∧
    (let s := withBox 255 0 0
     s.hostThere 255 = true ∧ s.heldBy (mboxArea 255 0 + 4095) 1 = none ∧
      s.judge ⟨0x50, 255⟩ .write (mboxArea 255 0 + 4095) = .allow ∧ s.get (mboxState 255 0) ≠ 1) ∧
    (let s := withBox 0 31 1
     s.hostThere 0 = true ∧ s.heldBy (mboxArea 0 31) 4096 = none ∧ s.judge ⟨0x50, 0⟩ .write (mboxArea 0 31) = .allow ∧
      s.get (mboxState 0 31) = 1) := by
  decide +kernel

/-- SQ `n` of function 255, of 16 entries, polled, with CQ 3. -/
def sqOf255 : Sq := ⟨⟨0x1000, 0x40, 4, 255, 255, 1, 1, 3, 64, 0, false, true⟩, 0xFFFFFFF8, 0xFFFFFFF8, 0xFFFFFFF8, false, false, [], []⟩

def cqOf255 : Cq := ⟨⟨0x2000, 0x80, 4, 255, 255, 1, 255, 65535, true⟩, 8, 0, [], 2, true, false, false⟩

/-- Both queues up, queue 1023 with its reads issued. -/
def queued : State :=
  { (hosted.put (R.qengSqStateState 1023) 1).put (R.qengCqStateState 3) 1 with
    host.sqs := [(1023, sqOf255)]
    host.cqs := [(3, cqOf255)]
    host.fns := [(255, ⟨1, 0, false, 0xFFFF, 64, true⟩)]
    host.sqGrant := [(1023, 255)]
    host.cqGrant := [(3, 255)] }

def reading (again : Bool) : State := { queued with host.sqs := [(1023, { sqOf255 with headerRead := true, headerAgain := again })] }

theorem witness_QueueHeaders :
    (queued.hostThere 255 = true ∧ sqOf queued 255 255 = some 1023 ∧ look queued.host.sqs 1023 = some sqOf255 ∧
      queued.get (R.qengSqStateState 1023) = 1) ∧
    (reading true).get (R.qengSqStateState 1023) = 1 ∧
    (queued.hostThere 0 = true ∧ sqOf queued 0 1023 = none) ∧
    (cqOf queued 255 255 = some 3 ∧ look queued.host.cqs 3 = some cqOf255 ∧ queued.get (R.qengCqStateState 3) = 1) ∧
    cqOf queued 0 3 = none ∧ sqOf255.desc.pollMode ≠ 0 ∧
    (ringDist sqOf255.cons (8 % 2 ^ 32) ≤ 2 ^ sqOf255.desc.log2 ∧ 2 ^ sqOf255.desc.log2 < ringDist sqOf255.cons (9 % 2 ^ 32)) ∧
    ((look (reading false).host.sqs 1023).map (·.headerRead) = some true ∧ (look (reading false).host.sqs 1023).map (·.headerAgain) = some false) ∧
    (ringDist (0xFFFFFFF8 % 2 ^ 32) cqOf255.prod ≤ 2 ^ cqOf255.desc.log2 ∧ 2 ^ cqOf255.desc.log2 < ringDist (0xFFFFFFF7 % 2 ^ 32) cqOf255.prod) ∧
    queued.pwr.parts.qeng = false ∧
    (let s := { queued with pwr.parts.qeng := true }
     s.hostThere 255 = true ∧ sqOf s 255 255 = some 1023 ∧ cqOf s 255 255 = some 3) := by
  decide +kernel

/-- A read of function 255 in progress: for its page list, or for data. -/
def access_ (list : Option (Nat × Nat)) : Access := ⟨5, 255, 0x1000, 64, none, list, .sqEntry 1023 0⟩

/-- Function 255's one window, of two listed pages. -/
def windowed (list : Option (Nat × Nat)) : State :=
  { queued with
    host.accesses := [access_ list]
    host.windows := [(255, [⟨0x1000, 2, true, false, true, true, 0x8000⟩])] }

theorem witness_QueueTraffic :
    (look queued.host.cqs 3 = some cqOf255 ∧ cqOf255.timer = true ∧ cqOf255.unsignalled ≠ 0) ∧
    (let s := { queued with
        host.pba := [255 * 2048 + 7]
        host.msixOn := [255]
        host.msixTable := [(255 * 0x10000 + 16 * 7 + 12, 0)] }
     s.host.pba.contains (255 * 2048 + 7) = true ∧ s.canSend 255 7 = true) ∧
    (queued.dieMRuns = true ∧ bitOf queued.pwr.regionReset 6 = false ∧ queued.get (R.hdrCtrlQuiesce 0x50000) = 0 ∧
      (queued.incMod R.qengRoundsCount 1).order = none) ∧
    ((queued.put (R.hdrCtrlQuiesce 0x50000) 1).get (R.hdrCtrlQuiesce 0x50000) = 1 ∧ queued.is (R.hdrCtrlQuiesce 0x60000) = false ∧
      queued.pwr.parts.qeng = false ∧ queued.life.updating.isSome = false) ∧
    (({ queued with host.sqs := [(1023, { sqOf255 with entries := [(0xFFFFFFF8, msg 7 [])], prod := 0xFFFFFFF9, next := 0xFFFFFFF9 })] }
      : State).incMod R.qengRoundsCount 1).order = some (1023, [1023]) ∧
    (windowed none).host.accesses.find? (fun a => a.id == 5) = some (access_ none) ∧
    ((windowed (some (0, 0))).host.accesses.find? (fun a => a.id == 5) = some (access_ (some (0, 0))) ∧
      ((({ windowed (some (0, 0)) with host.accesses := [] } : State).fillTlb 255 0 0 (le (leBytes 8 (0x70000 * 4096 + 1)) 0 8)).access 255
        0x1000 64 none (.sqEntry 1023 0)).2 = .waits) ∧
    (let s := windowed (some (0, 0))
     let w : Access := { access_ (some (0, 0)) with data := some (bytes 64) }
     ((({ s with host.accesses := [] } : State).fillTlb 255 0 0 (le (leBytes 8 (0x70000 * 4096 + 1)) 0 8)).access 255
        0x1000 64 w.data (.cqProd 3)).2 = .done) := by
  decide +kernel

/-- The loader idle; function 255 enabled, with no queue. -/
def loading (base : Nat) : State :=
  { (hosted.put R.qengCfgBaseAddr base).put (R.qengFnStateEnabled 255) 1 with host.fns := [(255, ⟨1, 0, false, 0xFFFF, 64, true⟩)] }

/-- The same with CQ 3 of function 255 up, and SQ 1023 where `sq`. -/
def owning (sq : Bool) : State :=
  { (((loading 0x1000).put (R.qengCqStateState 3) 1).put (R.qengSqStateState 1023) (if sq then 1 else 0)) with
    host.sqs := if sq then [(1023, sqOf255)] else []
    host.cqs := [(3, cqOf255)] }

/-- A load that has been decided. -/
def decided (object action result : Nat) : State :=
  { owning true with host.load := some ⟨object, action, 255, some (result, 0), []⟩ }

theorem witness_ConfigurationLoader :
    ((loading 0x1000).host.load = none ∧ (loading 0x1000).get R.qengCfgBaseAddr ≠ 0 ∧ (loading 0x1000).hostThere 0 = true) ∧
    (fnRefusal 255 (some ⟨4096, 1023, true, 0xFFFF, 64, true⟩) = none ∧ (loading 0x1000).fnEnabled 254 = false ∧
      fnRefusal 254 (some ⟨1, 0, false, 0, 0, true⟩) = none) ∧
    ((loading 0x1000).fnEnabled 255 = true ∧ (loading 0x1000).holdsQueues 255 = false ∧ (owning false).holdsQueues 255 = true) ∧
    ((owning false).get R.qengCfgBaseAddr ≠ 0 ∧ (owning false).fnEnabled 255 = true ∧ (owning false).host.load = none) ∧
    (owning false).sqRefusal 1023 (some sqOf255.desc) = none ∧
    ((owning true).get (R.qengSqStateState 1023) ≠ 0 ∧ look (owning true).host.sqs 1023 = some sqOf255) ∧
    (owning false).cqRefusal 1023 (some { cqOf255.desc with loc := 0 }) = none ∧
    ((owning false).get (R.qengCqStateState 3) ≠ 0 ∧
      (owning false).host.sqs.any (fun q => q.2.desc.cq == 3 && (owning false).get (R.qengSqStateState q.1) != 0) = false) ∧
    (owning false).windowRefusal 255 (some [⟨0x1000, 2, true, false, true, true, 0x8000⟩]) = none ∧
    (loading 0).get R.qengCfgBaseAddr = 0 ∧
    ((decided 4 1 1).loadDrained ⟨4, 1, 255, some (1, 0), []⟩ = true ∧ (decided 1 2 1).loadDrained ⟨1, 2, 255, some (1, 0), []⟩ = true ∧
      (decided 2 1 1).loadDrained ⟨2, 1, 255, some (1, 0), []⟩ = true) ∧
    ({ decided 4 1 1 with host.accesses := [access_ none] } : State).loadDrained ⟨4, 1, 255, some (1, 0), []⟩ = false ∧
    (decided 4 1 2).host.load = some ⟨4, 1, 255, some (2, 0), []⟩ := by
  decide +kernel

theorem witness_FunctionResets :
    (hosted.hostThere 0 = true ∧ hosted.pwr.vfEnable = true ∧ 255 ≤ hosted.pwr.numVfs) ∧ linked.pwr.vfEnable = false ∧
    linked.hostThere 0 = true ∧ up.hostThere 0 = false ∧ (hosted.pwr.main = true ∧ hosted.pwr.porstN = true) ∧
    (∀ role ∈ [0, 1], let s := hosted.put R.ferryStatusRole role
      s.get R.ferryStatusRole ≠ 2 ∧ (({ s with pwr.parts.pcie := 15 } : State).showParts).get R.ferryStatusRole = role) ∧
    (hosted.put R.ferryStatusRole 2).get R.ferryStatusRole = 2 := by
  decide +kernel

/-- Address `a` takes a plain access of `n` bytes. -/
def plain (s : State) (a n : Nat) : Prop :=
  0 < n ∧ a % 4096 + n ≤ 4096 ∧ inRegs a = false ∧ s.heldBy a n = none

/-- The debug port open at a level. -/
def debugging (level : Nat) : State := { up.put R.lifeDebugLevel level with worlds.debugSeen := true }

/-- The checker of the register space drains. -/
def draining : State := up.put (R.mpcRuleEpochState 6) 1

theorem witness_FabricAccesses :
    (reqIsHost pairA = false ∧ linked.hostThere pf.sub = true ∧ (debugging 3).get R.lifeDebugLevel = 3) ∧
    (up.pwr.main = true ∧ up.pwr.porstN = true ∧ ({ up with pwr.main := false } : State).pwr.main = false) ∧
    (draining.pwr.main = true ∧ draining.pwr.porstN = true ∧ draining.heldBy 0x30010000 4 = some 6) ∧
    (inRegs 0x300FFFFC = true ∧ up.heldBy 0x300FFFFC 4 = none) ∧
    (plain linked 0x30100000 64 ∧ reqIsHost pf = true ∧ linked.hostThere pf.sub = true) ∧
    (plain up 0x10000FFF 1 ∧ up.judge pairA .read 0x10000FFF = .allow ∧ up.judge pairA .write 0x10000FFF = .allow ∧
      up.bankGone 0x10000FFF = false ∧ inOwnBell 0x10000FFF = false ∧ inCross 0x10000FFF = false ∧ inOwnArea 0x10000FFF = false ∧
      areaOwner 0x10000FFF = none ∧ checkerOf 0x10000FFF ≠ some 0 ∧ sysOffset 0x10000FFF = none ∧ pairA.master ≠ 0x60 ∧
      pairA.master ≠ 0x7F) ∧
    (plain up 0x20B00000 4096 ∧ up.judge pairA .read 0x20B00000 = .allow ∧ up.bankGone 0x20B00000 = false ∧
      sysOffset 0x20B00000 = some (0, 0)) ∧
    (plain up 0x10000000 4096 ∧ up.judge ⟨0x10, 0⟩ .read 0x10000000 = .deny ∧ up.judge ⟨0x10, 0⟩ .write 0x10000000 = .deny ∧
      reqIsHost ⟨0x10, 0⟩ = false) ∧
    ((debugging 3).judge ⟨0x7F, 3⟩ .read 0x12000000 = .allow ∧ (debugging 3).judge ⟨0x7F, 3⟩ .write 0x10000000 = .deny ∧
      plain (debugging 3) 0x12000000 4 ∧ (debugging 3).worlds.debugSeen = true) ∧
    up.hostThere pf.sub = false ∧ (reqIsPair pairA = true ∧ reqIsPair ⟨0x10, 0⟩ = false) ∧
    (up.admits pairA .read 0x10000FFF 2 = true ∧ up.admits ⟨0x10, 0⟩ .read 0x10000000 4 = false ∧
      draining.admits pairA .read 0x30010000 4 = false) := by
  unfold plain
  decide +kernel

/-! ### Events of the store and the engines -/

/-- A request of the store's. -/
def request (op : Nat) (again stale : Bool) : Req := ⟨op, 5, 1, false, [], some 0, again, false, stale⟩

/-- A response stands in the ring of an attached store, and request 9 is outstanding. -/
def answering (r : Req) : State :=
  { (withStore up).put R.storeRspProdIndex 1 with
    hs.attached := true
    hs.reqs := [(9, r)]
    hs.batches := [{ Batch.new with phase := 2 }] }

/-- The response is there for it. -/
def answers (s : State) : Bool :=
  s.storeRuns && s.hs.attached && s.get R.storeRspConsIndex != s.get R.storeRspProdIndex

theorem witness_StoreEvents :
    (answers (answering (request 1 false false)) = true ∧ look (answering (request 1 false false)).hs.reqs 8 = none ∧
      ({ answering (request 1 false false) with hs.stuck := true } : State).hs.stuck = true) ∧
    (∀ x ∈ [(1, true, true), (1, false, false), (2, true, false), (3, false, false), (4, true, false), (5, false, false), (8, false, false)],
      answers (answering (request x.1 x.2.1 x.2.2)) = true ∧
      look (answering (request x.1 x.2.1 x.2.2)).hs.reqs 9 = some (request x.1 x.2.1 x.2.2)) ∧
    ((withPage up (bytes 16)).storeRuns = true ∧ (withPage up (bytes 16)).batchOpen = true) ∧
    (let s := { (((withStore up).put R.storeReqCfgLog2Size 4).put R.storeReqCfgBuffers 16) with hs.waiting := [request 1 false false] }
     s.storeRuns = true ∧ s.nextPost = some (request 1 false false)) ∧
    ((withStore up).storeRuns = true ∧ (withStore up).nextPost = none) ∧
    (let s := { up.put R.storeStatusReopenWait 1 with host.cmds := [(7, ⟨msg 7 [], .route, none, none, none, [needStore], none, []⟩)] }
     (look s.host.cmds 7).map (fun c => (c.stage, c.needs.contains needStore)) = some (.route, true) ∧ s.is R.storeStatusReopenWait = true) := by
  decide +kernel

/-- A job on the slot of tenant 7's key. -/
def aJob (ske : Bool) (prog : Nat) : Job :=
  { Job.of (msg 7 []) ske prog 1000 with
    cid := 4
    wg := 3
    slots := [0x20000]
    priv := true
    key := bytes 32
    iv := bytes 64
    data := bytes 32
    outLen := 32
    curves := [(0, p256)] }

/-- The job runs on cluster 15; cluster 3 is in state `st`. -/
def running (prog st : Nat) : State :=
  { ((withSlot 0x10 (bytes 32)).put (R.pkeClusterStatusState 15) 4).put (R.pkeClusterStatusState 3) st with
    eng.packages := []
    eng.clusters := [(15, { Cluster.new with job := some (aJob false prog) })] }

/-- The yield of the job, with the slot it used. -/
def yielded (j : Job) : Yield := { j.run with key := j.slots.headD 0 }

/-- Cluster 3 in state `st`, with `f` done to it, and its seed good for a time. -/
def clustered (st : Nat) (f : Cluster → Cluster) : State := { running 1 st with eng.clusters := [(3, f { Cluster.new with seedEnds := 100 })] }
def sown (s : State) : State := (s.put (R.pkeClusterStatusSeeded 3) 1).put (R.pkeClusterQuarSeedJobsLeft 3) 200

/-- What a cluster shows that the gate refuses, and one whose body was admitted. -/
def refusedState (s : State) (n p : Nat) : Nat :=
  let x := ((s.sqcEvent R.pkeGateSeq (fun t => (t.put R.pkeGatePackage p).put R.pkeGateCluster n)).raise 97)
  let h := (x.setCluster n { x.cluster n with held := true, tested := false, returning := false }).setClusterState n 7
  ((((h.setCluster n { h.cluster n with roll := 0 }).showRolling).rollNext 16).hard (locM (n / 4) n 0xF) 7 0).clusterState n

def back (s : State) (n : Nat) : State :=
  let u := s.loadCluster n
  u.setCluster n { u.cluster n with returning := true }

/-- The validation of an X25519 key. -/
def validating : Job := { aJob false 0x10 with validate := true, param := 0x13 }

theorem witness_PkeEvents_jobs :
    (let s := { running 1 3 with eng.clusters := [(15, { Cluster.new with job := some validating })] }
     (s.cluster 15).job = some validating ∧ s.clusterState 15 = 4 ∧ s.jobDying validating = none ∧ (yielded validating).status = St.ok) ∧
    ((running 4 3).jobDying (aJob false 4) = none ∧ (yielded (aJob false 4)).status = St.inputRejected) ∧
    ({ running 1 3 with keys.dyingTenants := [7] } : State).jobDying (aJob false 1) ≠ none ∧
    (!((true || !hasCheck 1) && true)) = false ∧ (!((false || !hasCheck 1) && true)) = true ∧ (!((false || !hasCheck 2) && true)) = false ∧
    (!((true || !hasCheck 2) && false)) = true ∧ abortCause St.engineReset = true ∧ abortCause St.ok = false ∧
    (let s := running 1 5
     let w := ((s.endWipe 3).setClusterState 3 3).settleGate 3
     s.clusterState 3 = 5 ∧ bitOf s.pwr.clusterReset 3 = false ∧ bitOf s.pwr.regionReset (3 / 4) = false ∧ w.clusterState 3 = 3) ∧
    (let s := ((running 1 5).put (R.pkeClusterStatusGatePending 3) 1).put (R.pkeClusterCtrlGateReq 3) 1
     s.clusterState 3 = 5 ∧ (((s.endWipe 3).setClusterState 3 3).settleGate 3).clusterState 3 ≠ 3) := by
  decide +kernel

/-- A HARD fault and a refused package stand recorded already, their events pending. -/
def told (s : State) : State :=
  { ((s.put R.faultCaptureClass 3).put (R.qengEventPendingPending 0) 2).put (R.qengEventPendingPending 3) 2 with
    iface.sqcHeld := [R.faultCaptureSeq.off, R.pkeGateSeq.off] }

theorem witness_PkeEvents_clusters :
    ((running 1 1).clusterState 3 = 1 ∧ (running 1 2).clusterState 3 = 2 ∧ bitOf (running 1 1).pwr.clusterReset 3 = false ∧
      bitOf (running 1 1).pwr.regionReset (3 / 4) = false ∧ (running 1 1).gateRefusal 0 = 0 ∧ (running 1 1).gateRefusal 1 ≠ 0 ∧
      ((running 1 2).cluster 3).tested = false) ∧
    (let s := sown (clustered 2 (fun c => { c with tested := true }))
     s.clusterState 3 = 2 ∧ (s.cluster 3).tested = true ∧ s.seeded 3 = true ∧ (s.cluster 3).returning = false) ∧
    (let s := (clustered 2 (fun c => { c with tested := true })).put R.trngStateDrbg 4
     s.clusterState 3 = 2 ∧ (s.cluster 3).tested = true ∧ s.seeded 3 = false ∧ s.canDraw = false) ∧
    (let s := told (clustered 6 (fun c => { c with quarAt := [9, 8] }))
     s.clusterState 3 = 6 ∧ (s.cluster 3).quarAt.length < 3 ∧ s.is R.devStatusCustodyUp = true ∧
      (back s 3).gateRefusal 1 ≠ 0 ∧ refusedState (back s 3) 3 1 = 7 ∧ (back s 3).gateRefusal 0 = 0 ∧
      (((back s 3).setLoaded 3 (back s 3).activeBodies).setClusterState 3 2).clusterState 3 = 2) ∧
    (let s := clustered 6 (fun c => { c with quarAt := [180000, 8, 1] })
     (s.cluster 3).quarAt = [180000, 8, 1] ∧ 180000 < 1 + 180000 ∧ s.clusterState 3 = 6) ∧
    (let s := running 1 3
     (s.cluster 3).nextSeed = [] ∧ s.seedDue 3 = true ∧ s.canDraw = true ∧ s.clusterState 3 = 3 ∧
      ((s.draw 32).1.seatSeed 3 (s.draw 32).2).clusterState 3 = 3) ∧
    (let s := running 1 5
     (s.cluster 3).nextSeed = [] ∧ s.seedDue 3 = true ∧ s.canDraw = true ∧ s.clusterState 3 = 5 ∧
      ((s.draw 32).1.setCluster 3 { s.cluster 3 with nextSeed := (s.draw 32).2 }).clusterState 3 = s.clusterState 3) ∧
    (running 1 3).trngRuns = true ∧
    (((running 1 3).put (R.pkeClusterStatusSeeded 3) 1).is (R.pkeClusterStatusSeeded 3) = true ∧
      ((running 1 3).put (R.pkeClusterStatusSeeded 3) 1).seeded 3 = false) := by
  decide +kernel

/-- The last lane, READY, and the request in its queue. -/
def laneUp (st : Nat) : State :=
  { (withSlot 3 (bytes 32)).put (R.skeLaneStatusState 7) st with eng.skeQueue := [aJob true 5] }

/-- Lane 7 runs the request; `mism` are its mismatches, and lane 0 is READY too. -/
def laneBusyWith (j : Job) (mism : List Nat) : State :=
  { ((withSlot 3 (bytes 32)).put (R.skeLaneStatusState 7) 3).put (R.skeLaneStatusState 0) 2 with
    eng.lanes := [(7, { Lane.new with
      job := some j
      mism := mism })] }
def laneBusy (mism : List Nat) : State := laneBusyWith (aJob true 5) mism

/-- A hash, and a decryption under an XTS key whose halves are equal. -/
def aRequest : Job := { aJob true 0x20 with m := { msg 7 [] with opcode := 0x0307 } }
def badXts : Job := { aJob true 0x06 with m := { msg 7 [] with opcode := 0x0304 }, key2 := bytes 32 }

/-- A key whose rotation is due. -/
def rotating : State :=
  { withSlot 3 (bytes 32) with
    keys.slots := [(0, { aSlot 3 (bytes 32) with rotateDue := true })]
    keys.rotating := [7] }

theorem witness_SkeEvents :
    (let s := laneUp 2
     bitOf s.pwr.regionReset 4 = false ∧ bitOf s.pwr.clusterReset 16 = false ∧ s.laneState 7 = 2 ∧
      s.is (R.skeLaneStatusGatePending 7) = false ∧ s.pick true s.requestMayStart = some (aJob true 5) ∧
      (s.unqueue (aJob true 5)).jobStale (aJob true 5) = none ∧ okOf ((s.unqueue (aJob true 5)).giveIv 7 (aJob true 5)).2 = some (aJob true 5)) ∧
    (let s := { laneUp 2 with eng.skeQueue := [] }
     s.pick true s.requestMayStart = none ∧ s.laneState 7 = 2) ∧
    (((laneBusyWith aRequest []).lane 7).job = some aRequest ∧ (laneBusyWith aRequest []).jobDying aRequest = none ∧
      aRequest.runSke.status = St.ok ∧ (laneBusyWith badXts []).jobDying badXts = none ∧ badXts.runSke.status ≠ St.ok) ∧
    (((laneBusy []).lane 7).job = some (aJob true 5) ∧ (laneBusy []).jobDying (aJob true 5) = none ∧
      ((laneBusy [0]).lane 7).mism.any (fun k => decide (((laneBusy [0]).get (R.skeLaneReqsCount 7) + 2 ^ 32 - k) % 2 ^ 32 < 1000)) = true ∧
      (laneBusy [0]).lastLane 7 = false ∧ ((laneBusy []).lane 7).mism = [] ∧
      ({ laneBusy [] with keys.dyingTenants := [7] } : State).jobDying (aJob true 5) ≠ none) ∧
    ((laneUp 1).laneState 7 = 1 ∧ ∀ g ∈ [0, 1],
      let s := ((laneUp 4).put (R.skeLaneCtrlRejoin 7) 1).put (R.skeLaneCtrlGateReq 7) g
      let t := s.put (R.skeLaneCtrlRejoin 7) 0
      let w := ((t.setLane 7 { t.lane 7 with mism := [] }).showMism 7).setLaneState 7 2
      s.laneState 7 = 4 ∧ s.is (R.skeLaneCtrlRejoin 7) = true ∧ w.is (R.skeLaneCtrlGateReq 7) = decide (g = 1) ∧
        w.is (R.skeLaneCtrlFence 7) = false) ∧
    ({ up with eng.reserving := some 64 } : State).eng.reserving = some 64 ∧
    (rotating.serves = true ∧ rotating.life.updating = none ∧
      look rotating.keys.slots 0 = some { aSlot 3 (bytes 32) with rotateDue := true } ∧
      (aSlot 3 (bytes 32)).successor = none ∧ (aSlot 3 (bytes 32)).doomed = false ∧
      rotating.keys.rotating.contains 7 = true ∧ rotating.host.cmds = []) ∧
    (let s := { up.put R.trngStateDrbg 4 with eng.pkeQueue := [{ aJob false 1 with draws := true }] }
     s.eng.pkeQueue = [{ aJob false 1 with draws := true }] ∧ s.eng.skeQueue = [] ∧ s.drbgUp = false) ∧
    (let j := { aJob true 0x02 with m := { msg 7 [] with opcode := 0x0303 } }
     let s := { up.put R.trngStateDrbg 4 with eng.skeQueue := [j] }
     s.eng.skeQueue = [j] ∧ s.eng.pkeQueue = [] ∧ j.counted = true ∧ guardIv j.prog = false ∧ s.drbgUp = false) ∧
    (let s := { up.put R.trngStateDrbg 4 with host.cmds := [(7, ⟨msg 7 [], .route, none, none, none, [needEntropy], none, []⟩)] }
     s.eng.pkeQueue = [] ∧ s.eng.skeQueue = [] ∧ s.drbgUp = false ∧
      (look s.host.cmds 7).map (fun c => (c.stage, c.needs.contains needEntropy)) = some (.route, true)) := by
  decide +kernel

/-! ### Events of the noise sources and of Compass -/

/-- A lag window that passes: bits of a linear congruential generator. -/
def goodBits : List Bool :=
  (List.range 4096).map (fun i => Nat.testBit ((i * i * 2654435761 + i * 40503 + 12345) / 65536 % 65536 * 48271) 15)

/-- Source `n` in state `st`, past its start-up test where `tested`. -/
def sensing (n st : Nat) (chosen : Option (Nat × Nat)) (tested : Bool) : State :=
  { (up.put (R.trngSrcStatusState n) st) with
    trng.sources := [(n, { Source.new with
      chosen := chosen
      tested := tested
      due := true })] }

/-- Blocks of every source in the pool, and the sources healthy as given. -/
def pooled (drbg : Nat) (healthy : List Nat) : State :=
  { healthy.foldl (fun t n => t.put (R.trngSrcStatusState n) 2) (up.put R.trngStateDrbg drbg) with
    trng.pool := (List.replicate 6 [(0, bytes 32), (1, bytes 32), (4, bytes 32)]).flatten }

/-- A reseed is due. -/
def dueReseed (s : State) : State := s.put R.trngReseedCfgCallsLog2 0 |>.put R.trngCallsSinceReseed 1

theorem good_passes : health (false, 0) goodBits = none := by decide +kernel

theorem witness_TrngEvents_windows :
    ((sensing 3 2 none true).trngRuns = true ∧ (sensing 3 2 none true).get (R.trngSrcStatusState 3) = 2 ∧
      ((sensing 3 2 none true).source 3).run = (false, 0)) ∧
    (∀ tested ∈ [true, false], (sensing 4 1 none tested).get (R.trngSrcStatusState 4) = 1 ∧
      ((sensing 4 1 none tested).source 4).tested = tested ∧ ((sensing 4 1 none tested).source 4).run = (false, 0)) ∧
    ((sensing 4 4 (some (0, 200)) true).get (R.trngSrcStatusState 4) = 4 ∧ ((sensing 4 4 (some (0, 200)) true).source 4).chosen ≠ none) ∧
    (health (false, 0) (List.replicate 64 true)).isSome = true ∧ startupOk (List.replicate 64 true) = false ∧
    startupOk (goodBits.take 1024) = true ∧
    (let s := ({ sensing 4 3 none true with pwr.regionReset := 16 } : State)
     s.trngRuns = false ∧ (health (s.source 4).run (List.replicate 64 true)).isSome = true) ∧
    ((sensing 4 3 none true).get (R.trngSrcStatusState 4) = 3 ∧ ((sensing 4 3 none true).source 4).due = true ∧
      (sensing 4 3 none true).is R.devStatusCustodyUp = true ∧ (sensing 4 3 none true).trngRuns = true) ∧
    (∀ marked ∈ [true, false],
      let s := (sensing 0 4 none true).setTrim 0 ⟨9, 0, marked⟩
      s.get (R.trngSrcStatusState 0) = 4 ∧ (s.source 0).chosen = none ∧ bestTrim [List.replicate 64 true] = none ∧
        (s.trimOf 0).marked = marked) := by
  decide +kernel

theorem witness_TrngEvents_drbg :
    (let s := pooled 0 [0, 1, 4]
     s.drbgUp = false ∧ s.trngRuns = true ∧ s.trng.erased = false ∧ s.get R.trngStateDrbg ≠ 4 ∧ s.freshInput.isSome = true ∧
      s.trng.stopped = false) ∧
    (let s := { pooled 4 [0, 1, 4] with trng.stopped := true }
     s.drbgUp = false ∧ s.nkReady = true ∧ s.freshInput.map (fun u => u.1.trng.stopped) = some true) ∧
    (pooled 0 []).freshInput.isNone = true ∧
    (let s := dueReseed (pooled 2 [0, 1, 4])
     s.drbgUp = true ∧ s.reseedDue = true ∧ s.trngRuns = true ∧ s.healthyN ≠ 0 ∧ s.nkReady = true ∧ (s.takeBlocks 4).isSome = true) ∧
    (let s := dueReseed { pooled 2 [0, 1] with trng.pool := [] }
     s.drbgUp = true ∧ s.reseedDue = true ∧ s.healthyN ≠ 0 ∧ s.nkReady = true ∧ (s.takeBlocks 4).isNone = true) ∧
    (let s := dueReseed (pooled 2 [])
     s.drbgUp = true ∧ s.reseedDue = true ∧ s.trngRuns = true ∧ s.healthyN = 0) := by
  decide +kernel

theorem good_entropy : entropyOk (common goodBits) = true := by decide +kernel

theorem good_trim : (bestTrim [goodBits]).isSome = true := by simp [bestTrim, good_passes, good_entropy]

/-- Compass runs in state `st`, its cycle begun at 5. -/
def timing (st : Nat) : State :=
  { (up.put R.compassStatusState st).put R.compassPeriodPeriod 128000000 with
    compass.running := true
    compass.cycleAt := 5
    compass.count := 40
    compass.estimate := 128000000 }

/-- The one negative-going crossing of a sound cycle. -/
def wave (s : State) : List Nat := [s.period / 2]

theorem witness_CompassEvents :
    ((timing 0).compass.running = true ∧ (timing 0).cstate = 0) ∧
    ((timing 2).tracked = true ∧ 50 * 0 < 49 * (timing 2).period) ∧
    (let s := timing 2
     (s.cstate ≠ 0 ∧ 49 * s.period ≤ 50 * s.period) ∧ s.validCycle s.period (wave s) = true ∧ s.is R.compassStatusStepDue = false ∧
      s.validCycle s.period [] = false) ∧
    (let s := (timing 2).put R.compassStatusStepDue 1
     s.validCycle s.period (wave s) = true ∧ s.is R.compassStatusStepDue = true ∧ s.cstate = 2) ∧
    ((timing 1).cstate ≤ 1 ∧ (timing 1).cstate ≠ 0 ∧ (timing 4).cstate = 4 ∧ (timing 4).compass.ticked = false) ∧
    (let held (s : State) : State := { s with
        compass.tickAt := s.compass.tickAt + s.period
        compass.heldTicks := s.compass.heldTicks + 1 }
     let s := timing 3
     let far : State := { timing 3 with compass.u0 := 2 ^ 80 }
     s.cstate = 3 ∧ (held s).tick1.uncertNow.get R.compassQualityUncert ≠ 0xFFF ∧ far.cstate = 3 ∧
      (held far).tick1.uncertNow.get R.compassQualityUncert = 0xFFF) ∧
    (up.compass.running = false ∧ up.pwr.main = true) ∧
    ((timing 2).is R.compassStatusClockDisagree = false ∧ (timing 2).cstate ≠ 3 ∧ (timing 3).is R.compassStatusClockDisagree = false ∧
      (timing 2).compass.agreeRun < 2 ∧ 2 ≤ ({ timing 2 with compass.agreeRun := 2 } : State).compass.agreeRun) := by
  decide +kernel

/-- Waypoint 127 is set for the present cycle. -/
def waypoint (repeats : Bool) : Waypoint := ⟨1, repeats, false, 0, 40, 3, 2, bytes 44, false⟩

def pointed (repeats : Bool) : State :=
  ({ timing 2 with compass.waypoints := [(127, waypoint repeats)] } : State).setArmed 127 true

theorem witness_CompassEvents_waypoints :
    (look (pointed false).compass.waypoints 127 = some (waypoint false) ∧ (pointed false).armed 127 = true ∧
      (waypoint false).cycle ≤ (pointed false).compass.count ∧ (waypoint false).alignedOnly = false ∧
      ((pointed false).wpAction 127 (waypoint false)).2 = true ∧ (waypoint false).repeats = false) ∧
    ((pointed true).armed 127 = true ∧ ((pointed true).wpAction 127 (waypoint true)).2 = true ∧ (waypoint true).repeats = true ∧
      (waypoint true).left ≠ 1 ∧ nextCycle 40 3 41 = (43, 0)) ∧
    (let s := { timing 2 with compass.epochDue := [(127, waypoint false)] }
     s.serves = true ∧ s.compass.epochDue.find? (fun e => e.1 == 127) = some (127, waypoint false)) ∧
    (let s := { timing 2 with compass.rates := [(7, (⟨9, 0⟩ : RateWindow))] }
     look s.compass.rates 7 = some ⟨9, 0⟩ ∧ (⟨9, 0⟩ : RateWindow).endsAt ≤ s.compass.mc) := by
  decide +kernel

/-! ### The quorum unit, the ports, resets and power -/

/-- Slot 0 released, its command an information command. -/
def released (op : Nat) : State :=
  { withOperation.put (R.quorumSlotClassState 0) 2 with
    quorum.acts := [(0, ⟨{ msg 0 [] with opcode := op }, bytes 48, 32, false⟩)] }

/-- The state in which the released act meets its checks again. -/
def acting (s : State) (m : Msg) : State :=
  let u := (s.put (R.quorumSlotClassState 0) 3).take m
  { u.1 with quorum.acting := store u.1.quorum.acting u.2 0 }

/-- A paired pad, its last accepted frame 6. -/
def padAt (queue : List (Nat × Bytes)) : Port := ⟨1, true, bytes 32, bytes 32, bytes 16, 3, 6, 1, 98, queue⟩

/-- The pad at port B, the port in state `st`. -/
def withPad (st : Nat) (queue : List (Nat × Bytes)) : State :=
  { withOperation.put R.quorumStatusPortB st with quorum.portB := padAt queue }

/-- Custodian 3 is to set a PIN at port B. -/
def settingPin : State :=
  { withPad 3 [] with quorum.custodians := [(3, { custodian with
    pinPending := true
    enrolPort := 1 })] }

def goodFrame : PadFrame := ⟨7, true, false⟩

/-- The port once the good frame is accepted. -/
def accepted (s : State) : State := s.setPort 1 { s.port 1 with
  rxSeq := 7
  discards := 0
  silent := 0 }

/-- The digest of operation 32, and a PIN of twelve digits. -/
def opDigest : Bytes := bytes 48
def aPin : Bytes := List.replicate 12 0x39

/-- What an APPROVE of custodian 3 for operation 32 must name. -/
def names (t : State) : Prop :=
  t.slotPends 32 = true ∧ some (opDigest.take 8) = (look t.quorum.acts 0).map (fun a => a.digest.take 8) ∧
    t.is (R.quorumSlotClassTenantKind 0) = false ∧ (t.custodian none 3).map (fun c => (c.port, c.pinPending)) = some (true, false) ∧
    bitOf (t.get (R.quorumSlotApprovalsEligible 0)) 3 = true ∧ custodian.suspendUntil ≤ t.compass.count

/-- Custodian 3 set the PIN `aPin`. -/
def withPin : State :=
  { withPad 3 [] with quorum.custodians := [(3, { custodian with verifier := (withPad 3 []).pinVerifier 3 aPin })] }

theorem right_pin : (pinOk aPin && (withPad 3 []).pinVerifier 3 aPin == (accepted withPin).pinVerifier 3 aPin) = true := by
  have k : (accepted withPin).keys = (withPad 3 []).keys := by rfl
  have l : (accepted withPin).life = (withPad 3 []).life := by rfl
  have h : (accepted withPin).pinVerifier 3 aPin = (withPad 3 []).pinVerifier 3 aPin := by
    simp only [State.pinVerifier, State.custodianKey, k, l]
  rw [h, beq_self_eq_true, Bool.and_true]
  decide +kernel

theorem witness_QuorumAndPorts :
    ((released 0x0101).serves = true ∧ (look (released 0x0101).quorum.acts 0).isSome = true ∧
      (released 0x0101).get (R.quorumSlotClassState 0) = 2 ∧ (released 0x0101).is (R.hdrCtrlQuiesce 0xB0000) = false ∧
      (released 0x0101).holdsAct 0x0101 = false ∧
      (acting (released 0x0101) { msg 0 [] with opcode := 0x0101 }).precheck { msg 0 [] with opcode := 0x0101 } = none ∧
      (acting (released 0xF00F) { msg 0 [] with opcode := 0xF00F }).precheck { msg 0 [] with opcode := 0xF00F } ≠ none) ∧
    ((released 0x0101).put (R.hdrCtrlQuiesce 0xB0000) 1).is (R.hdrCtrlQuiesce 0xB0000) = true ∧
    ({ released 0x0101 with life.updating := some (5, .transition 1 3) } : State).holdsAct 0x0101 = true ∧
    (let s := { withOperation.put (R.quorumSlotDeadlineCycle 0) 9 with compass.count := 9 }
     s.get (R.quorumSlotClassState 0) = 1 ∧ s.get (R.quorumSlotDeadlineCycle 0) ≤ s.compass.count) ∧
    (withOperation.put (R.quorumSlotDeadlineCycle 0) 9).compass.count < (withOperation.put (R.quorumSlotDeadlineCycle 0) 9).get
      (R.quorumSlotDeadlineCycle 0) ∧
    (((withPad 2 [(1, bytes 16)]).port 1).paired = true ∧ (withPad 2 [(1, bytes 16)]).get (portFld 1) = 2 ∧
      ((withPad 2 [(1, bytes 16)]).port 1).queue = [(1, bytes 16)]) ∧
    (settingPin.get (portFld 1) = 3 ∧ (settingPin.port 1).queue = [] ∧ settingPin.pinPendingAt 1 = some 3) ∧
    ((withPad 3 []).pinPendingAt 1 = none ∧ ((withPad 3 []).port 1).queue = []) ∧
    (((withPad 1 []).port 1).paired = true ∧ (withPad 1 []).get (portFld 1) = 1 ∧ (withPad 1 []).canDraw = true) ∧
    ((withPad 1 []).put R.trngStateDrbg 4).canDraw = false ∧
    (goodFrame.empty = false ∧ goodFrame.tagOk = true ∧ goodFrame.seq = ((withPad 2 []).port 1).rxSeq + 1) ∧
    (withPin.get (portFld 1) = 3 ∧ names (accepted withPin) ∧ bitOf ((accepted withPin).get (R.quorumSlotApprovalsApproved 0)) 3 = false) ∧
    (let s := withPin.put (R.quorumSlotApprovalsApproved 0) 8
     s.get (portFld 1) = 3 ∧ names (accepted s) ∧ bitOf ((accepted s).get (R.quorumSlotApprovalsApproved 0)) 3 = true) ∧
    (pinOk [] = false ∧ (accepted (withPad 3 [])).slotPends 33 = false) ∧
    ((accepted settingPin).custodian none 3 = some { custodian with
      pinPending := true
      enrolPort := 1 } ∧ pinOk aPin = true ∧ (List.replicate 6 0x30 : Bytes) ≠ aPin) ∧
    (((withPad 3 []).port 1).discards < 2 ∧ ((withPad 3 []).port 1).silent < 99) := by
  unfold names
  decide +kernel

/-- What a start finds where every bank and test is good. -/
def soundFacts : BootFacts :=
  ⟨true, true, true, true, true, true, true, [true, true, true, true], true, true, true, true, true, true, 7, true, .none⟩

/-- The device before a start: its life cycle's rows burned in number, its root secret's state as given. -/
def unbooted (rows present : Nat) (halted : Bool) : State :=
  { State.reset.put R.keeperRsStatusPresent present with
    pwr := { State.reset.pwr with halted := halted }
    life := { State.reset.life with stateRows := List.replicate rows 0xFFFFFFFF ++ List.replicate (4 - rows) 0 } }

/-- A start up to the life cycle. -/
def settled (s : State) : State :=
  ((({ s with pwr.porstN := true } : State).sampleStraps soundFacts).put R.keeperRsStatusGenerated 0).settleLife

/-- A MAKER device whose region G5 restarts, its store attached or not. -/
def restarted (attached : Bool) : State :=
  { (((up.put R.devStatusLife 0).put R.devStatusBoot 1).put R.devStatusCustodyUp 0) with
    pwr.regionReset := 0x20
    hs.attached := attached }

/-- The running bank taken again. -/
def rebooted (s : State) : State × Bool :=
  let back := s.put R.keeperRsStatusGenerated 0
  ((back.measure soundFacts).takeBank soundFacts (back.get R.bootStatusBank)).unlockKeys soundFacts

def servedAgain (s : State) : State :=
  (((rebooted s).1.custodyServes.testCustodians soundFacts).stricter.copyRecords).cfgInForce.finishIntents

/-- A device whose keys the keeper refuses: RS is withheld, or the link is not sound. -/
def refused (withheld : Nat) : State :=
  { ((((withRs up).put R.devStatusBoot 1).put R.devStatusCustodyUp 0).put R.keeperRsStatusWithheld withheld) with pwr.regionReset := 0x20 }

theorem witness_ResetsAndPower_resets :
    (let s := { up.put R.faultHardOpen 0x8000 with fault.hard := [(15, (⟨3, locM 4 16 0xF, 8, 0, 0, 0, 0, 0, false⟩ : FaultRec))] }
     bitOf (s.get R.faultHardOpen) 15 = true ∧ s.timersRun = true ∧ (look s.fault.hard 15).isSome = true) ∧
    (let s := { running 1 5 with pwr.clusterReset := 2 ^ 3 + 2 ^ 4 + 2 ^ 16 + 2 ^ 17 + 2 ^ 18 + 2 ^ 19 }
     bitOf s.pwr.clusterReset 3 = true ∧ s.clusterState 3 = 5 ∧ bitOf s.pwr.clusterReset 4 = true ∧ s.clusterState 4 ≠ 5 ∧
      bitOf s.pwr.clusterReset 16 = true ∧ bitOf s.pwr.clusterReset 17 = true ∧ bitOf s.pwr.clusterReset 18 = true ∧
      bitOf s.pwr.clusterReset 19 = true ∧ bitOf s.life.pairsFenced 0 = false ∧ bitOf s.life.pairsFenced 1 = false ∧
      s.is R.devStatusCustodyUp = true) ∧
    bitOf up.pwr.clusterReset 3 = false ∧
    ((∀ g ∈ [0, 3, 4, 6, 7], bitOf State.reset.pwr.regionReset g = true) ∧ State.reset.pwr.halted = false) ∧
    (up.pwr.main = true ∧ up.pwr.porstN = true ∧ up.life.updating = none) ∧
    (switching 3 0 1).life.updating = some (5, .transition 1 3) := by
  decide +kernel

theorem witness_ResetsAndPower_starts :
    ((unbooted 1 0 true).startDue = true ∧ (unbooted 1 0 true).life.underway = false ∧
      (({ unbooted 1 0 true with pwr.porstN := true } : State).sampleStraps soundFacts).pwr.halted = true) ∧
    ((unbooted 2 0 false).startDue = true ∧ (({ unbooted 2 0 false with pwr.porstN := true } : State).sampleStraps
      soundFacts).pwr.halted = false ∧ (settled (unbooted 2 0 false)).get R.devStatusLife = 2) ∧
    (∀ present ∈ [0, 1], (settled (unbooted 3 present false)).get R.devStatusLife = 3 ∧
      (settled (unbooted 3 present false)).is R.keeperRsStatusPresent = decide (present = 1) ∧
      (settled (unbooted 4 present false)).get R.devStatusLife = 4 ∧
      (settled (unbooted 4 present false)).is R.keeperRsStatusPresent = decide (present = 1)) ∧
    (let s := { unbooted 2 0 false with life.underway := true }
     s.startDue = true ∧ s.life.underway = true ∧ s.pwr.halted = false ∧ ((s.put R.keeperRsStatusGenerated 0).settleLife).get R.devStatusLife = 2) ∧
    (let s := { up.put R.bootStatusStop 2 with life.booting := some soundFacts }
     s.life.booting = some soundFacts ∧ s.get R.bootStatusStop = 2) := by
  decide +kernel

theorem witness_ResetsAndPower_restart :
    ((restarted true).restarting = true ∧ (restarted true).canDraw = true ∧
      ((restarted true).put R.keeperRsStatusGenerated 0).bankVerifies soundFacts (((restarted true).put R.keeperRsStatusGenerated 0).get
        R.bootStatusBank) = true ∧
      (rebooted (restarted true)).2 = true ∧ (servedAgain (restarted true)).hs.attached = true) ∧
    ((rebooted (restarted false)).2 = true ∧ (servedAgain (restarted false)).hs.attached = false) ∧
    ((restarted true).put R.trngStateDrbg 4).canDraw = false ∧
    ((refused 1).restarting = true ∧ (rebooted (refused 1)).2 = false ∧ (rebooted (refused 1)).1.is R.keeperRsStatusWithheld = true) ∧
    (let s := (refused 0).put R.keeperRsStatusGenerated 0
     let f := { soundFacts with linkOk := false }
     s.bankVerifies f (s.get R.bootStatusBank) = true ∧
      let r := ((s.measure f).takeBank f (s.get R.bootStatusBank)).unlockKeys f
      r.2 = false ∧ r.1.is R.keeperRsStatusWithheld = false) ∧
    ((restarted true).put R.keeperRsStatusGenerated 0).bankVerifies { soundFacts with bankAOk := false } 0 = false := by
  decide +kernel

/-! ### Records, alarms, Ferry and the base pins -/

/-- A pocket record. -/
def aPocket : Pocket := ⟨3, 9, 0, 4, 0, 1, 2, 40⟩

/-- The journal attached, one entry waiting. -/
def journaling (gap : Nat) : State :=
  { up.put R.logJournalCfgLog2Size 4 with
    log.gap := gap
    log.journal := [⟨0, 0x20, 0, 7, bytes 32⟩] }

/-- A decision of source 0 under way. -/
def deciding (agreed : Bool) : State := { up with keeper.deciding := [(0, ⟨4, false, false, agreed, 1, 2, 0, 9, 40⟩)] }

/-- The responses shipped, in force. -/
def guarded : State := (List.range 27).foldl (fun t n => t.put (R.keeperRespMain n) ((CfgBlock.shipped.responses.getD n (0, 0)).1)) up

/-- The check bits of a copy correct nothing where they are its own. -/
theorem ecc_decodes (b : Bytes) : eccDecode b (eccOf b) = (eccWords b).flatten := by
  unfold eccDecode eccOf
  congr 1
  induction eccWords b with
  | nil => rfl
  | cons w ws ih => simp [ih]

/-- A value held twice, and one whose copies differ while the check bits of both hold. -/
def twice : Twin := Twin.of (bytes 8) (bytes 8)
def torn : Twin := ⟨bytes 8, bytes 8, eccOf (bytes 8), eccOf (bytes 8), bytes 8⟩

theorem twice_agrees : twice.first = twice.second := by
  simp only [twice, Twin.of, Twin.first, Twin.second, ecc_decodes]
  decide +kernel

theorem torn_reads : torn.first ≠ torn.second ∧ torn.read = none := by
  have h : torn.first ≠ torn.second := by
    simp only [torn, Twin.first, Twin.second, ecc_decodes]
    decide +kernel
  refine ⟨h, ?_⟩
  rw [Twin.read, if_neg h]
  simp [Twin.clean0, Twin.clean1, torn]

theorem anchor_serves {s : State} (h : s.keys.anchor = twice) : ∃ w a, s.useAnchor = (w, some a) := by
  simp [State.useAnchor, h, twice_agrees]

theorem anchor_fails {s : State} (h : s.keys.anchor = torn) : ∃ w, s.useAnchor = (w, none) := by
  simp [State.useAnchor, h, torn_reads]

/-- A keeper with its anchor, and RS where it is present. -/
def keeping (present : Nat) (anchor : Twin) : State := { up.put R.keeperRsStatusPresent present with keys.rs := twice, keys.anchor := anchor }

theorem witness_RecordsAndKeeper_masks (anchor : Twin) (h : anchor = twice ∨ anchor = torn) :
    (keeping 1 anchor).nkServes = true ∧
    (∃ u rs, (keeping 1 anchor).useRs = (u, some rs) ∧
      ∃ w a, (u.storeRs rs (Config.random u.fresh 32)).drawn.useAnchor = (w, a) ∧ (a.isSome = true ↔ anchor = twice)) ∧
    (keeping 0 anchor).useRs = (keeping 0 anchor, none) ∧
    ∃ w a, (keeping 0 anchor).useAnchor = (w, a) ∧ (a.isSome = true ↔ anchor = twice) := by
  have hd : torn ≠ twice := fun e => torn_reads.1 (e ▸ twice_agrees)
  refine ⟨rfl, ⟨(keeping 1 anchor).put R.keeperRsStatusCopiesAgree 1, twice.first, ?_, ?_⟩, rfl, ?_⟩
  · have h1 : (keeping 1 anchor).is R.keeperRsStatusPresent = true := rfl
    have h2 : (keeping 1 anchor).keys.rs = twice := rfl
    simp [State.useRs, h1, h2, twice_agrees]
  · rcases h with rfl | rfl
    · obtain ⟨w, a, e⟩ := anchor_serves (s := (((keeping 1 twice).put R.keeperRsStatusCopiesAgree 1).storeRs twice.first
        (Config.random ((keeping 1 twice).put R.keeperRsStatusCopiesAgree 1).fresh 32)).drawn) rfl
      exact ⟨w, some a, e, by simp⟩
    · obtain ⟨w, e⟩ := anchor_fails (s := (((keeping 1 torn).put R.keeperRsStatusCopiesAgree 1).storeRs twice.first
        (Config.random ((keeping 1 torn).put R.keeperRsStatusCopiesAgree 1).fresh 32)).drawn) rfl
      exact ⟨w, none, e, by simp [hd]⟩
  · rcases h with rfl | rfl
    · obtain ⟨w, a, e⟩ := anchor_serves (s := keeping 0 twice) rfl
      exact ⟨w, some a, e, by simp⟩
    · obtain ⟨w, e⟩ := anchor_fails (s := keeping 0 torn) rfl
      exact ⟨w, none, e, by simp [hd]⟩

theorem witness_RecordsAndKeeper :
    ((up.put R.logStatusFrozen 1).is R.logStatusFrozen = true ∧ up.is R.logStatusFrozen = false) ∧
    ((journaling 0).get R.logJournalCfgLog2Size ≠ 0 ∧ (journaling 0).log.gap = 0 ∧ (journaling 0).log.journal = [⟨0, 0x20, 0, 7, bytes 32⟩] ∧
      (journaling 5).log.gap ≠ 0 ∧ bitOf (journaling 0).pwr.regionReset 6 = false ∧
      (journaling 0).is (R.hdrCtrlQuiesce 0x30000) = false) ∧
    (bitOf State.reset.pwr.regionReset 6 = true ∧ (up.put (R.hdrCtrlQuiesce 0x30000) 1).is (R.hdrCtrlQuiesce 0x30000) = true) ∧
    (let s := { up with keeper.pocket := [aPocket] }
     s.is R.devStatusCustodyUp = true ∧ s.is R.logStatusFrozen = false ∧ s.keeper.pocket = [aPocket] ∧ s.log.recs = []) ∧
    (let s := { up with
        keeper.pocket := [aPocket]
        log.recs := [⟨0, 0x10, 0, 0, 0xFFFF, 0xFFFF, leBytes 4 3⟩] }
     s.log.recs.any (fun r => r.typ == 0x10 && le r.body 0 4 == aPocket.serial) = true) ∧
    (let s := { up with keeper.last := some aPocket }
     s.keeper.pocket = [] ∧ s.keeper.last = some aPocket ∧ s.log.recs = []) ∧
    (∀ k ∈ [0, 2], let s := up.put R.keeperPocketOverflow k
     s.keeper.pocket = [] ∧ s.keeper.last = none ∧ s.get R.keeperPocketOverflow = k) ∧
    (∀ n ∈ [11, 9], guarded.get R.devStatusLife = 1 ∧ quiet guarded n = true ∧ (guarded.showSensor n 1 2).pathUp true n = false ∧
      (guarded.showSensor n 1 2).responseOf n < 3) ∧
    (quiet guarded 0 = true ∧ (guarded.showSensor 0 1 2).pathUp true 0 = false ∧ 3 ≤ (guarded.showSensor 0 1 2).responseOf 0) ∧
    (let s := guarded.setPath true 0 true
     s.watched 0 = true ∧ s.pathUp false 0 = false ∧ (s.showSensor 0 1 2).pathUp true 0 = true ∧ s.pathUp true 0 = true) ∧
    up.watched 25 = false ∧
    (look (deciding true).keeper.deciding 0 = some ⟨4, false, false, true, 1, 2, 0, 9, 40⟩ ∧
      look (deciding false).keeper.deciding 0 = some ⟨4, false, false, false, 1, 2, 0, 9, 40⟩) ∧
    (up.put (R.trngSrcStatusState 4) 4).nkServes = false ∧
    (∀ ends ∈ [0, 1], let s := { up with ferry.offers := [(7, (⟨bytes 16, [], ends⟩ : Offer))] }
     (look s.ferry.offers 7).map (·.ends) = some ends ∧ s.compass.mc = 0) := by
  decide +kernel

/-- Ferry up, in a role, port 2 in state `st`. -/
def linking (role st : Nat) : State :=
  { (up.put R.ferryStatusRole role).put (R.ferryPortState 2) st with ferry.front := if role = 2 then some 5 else none }

theorem witness_FerryLinks :
    ((linking 0 3).ferryRuns = true ∧ (linking 0 3).get (R.ferryPortState 2) ≠ 1 ∧ ((linking 0 3).put (R.ferryPortState 2) 3).get
      R.ferryStatusRole = 0) ∧
    (((linking 2 3).put (R.ferryPortState 2) 3).get R.ferryStatusRole = 2 ∧ ((linking 2 3).put (R.ferryPortState 2) 3).ferry.front ≠ some 6) ∧
    (let s := (linking 2 3).put (R.ferryPortUse 0) 1
     (s.put (R.ferryPortState 2) 3).ferry.front = some 5 ∧
      (List.range 4).any (fun p => (s.put (R.ferryPortState 2) 3).get (R.ferryPortUse p) == 1) = true) ∧
    (((linking 1 3).put (R.ferryPortState 2) 3).get R.ferryStatusRole = 1 ∧ ¬(5 = (linking 1 3).ownSerial ∧ 2 = 1)) ∧
    ((linking 2 3).get R.ferryStatusRole = 2 ∧ (linking 1 3).get R.ferryStatusRole = 1) ∧
    ((linking 1 3).get (R.ferryPortState 2) = 3 ∧ (linking 1 2).get (R.ferryPortState 2) ≠ 3) ∧
    (let s := ((linking 1 3).put (R.ferryPortState 0) 2).put R.ferryStatusMode 2
     s.get (R.ferryPortState 0) = 2 ∧ s.get R.ferryStatusRole = 1 ∧ s.get R.ferryStatusMode = 2) ∧
    (let s := ((linking 1 3).put (R.ferryFollowerState 63) 3).put R.ferryStatusMode 2
     let lost := (s.linkError (s.get (R.ferryFollowerPort 63)) 2).loseFollower 63
     s.get R.ferryStatusRole = 1 ∧ 2 ≤ s.get (R.ferryFollowerState 63) ∧ lost.get R.ferryStatusMode = 2) ∧
    (let s := (linking 1 3).put (R.ferryFollowerState 1) 2
     2 ≤ s.get (R.ferryFollowerState 1) ∧ ((s.linkError (s.get (R.ferryFollowerPort 1)) 2).loseFollower 1).get R.ferryStatusMode ≠ 2) := by
  decide +kernel

/-- The head of the only frame of a message, in order on a port that has received nothing. -/
def head (dest src : Nat) : FerryHead := ⟨dest, src, 64, 1, 0, 9, true, true, 0, true⟩

/-- A follower, device 4, and the front device with follower 4, its upstream port 2 and the follower's port 2. -/
def follower : State := ((linking 2 3).put (R.ferryPortUse 2) 1).put R.ferryStatusSelf 4

def front (waits : Amap FarWait) : State :=
  { ((linking 1 3).put (R.ferryFollowerPort 4) 2).put (R.ferryFollowerState 4) 3 with
    ferry.waits := waits
    pwr.link := true }

/-- The frame arrives, in order and undamaged; what the port shows then. -/
def comes (s : State) (h : FerryHead) : Prop :=
  s.ferryRuns = true ∧ s.arrival h ≤ 3 ∧ s.get (R.ferryPortState (s.arrival h)) ≠ 1 ∧ h.crcOk = true ∧
    h.lseq % 65536 = ((s.ferryPort (s.arrival h)).rxSeq + 1) % 65536 ∧ h.ttl ≠ 0

def come (s : State) (h : FerryHead) : State :=
  (s.setFerryPort (s.arrival h) ((s.ferryPort (s.arrival h)).heard h true)).put (R.ferryPortState (s.arrival h)) 3

theorem witness_FerryTraffic :
    (comes follower (head 4 0) ∧ (come follower (head 4 0)).get R.ferryStatusRole = 2 ∧
      (head 4 0).dest = (come follower (head 4 0)).get R.ferryStatusSelf ∧ (head 4 0).first = true ∧ (head 4 0).last = true) ∧
    (comes follower (head 5 0) ∧ (head 5 0).dest ≠ 0xFF ∧ (head 5 0).dest ≠ (come follower (head 5 0)).get R.ferryStatusSelf) ∧
    (comes (front []) (head 0 4) ∧ (come (front []) (head 0 4)).get R.ferryStatusRole = 1) ∧
    look (come (front [(9, ⟨4, none, ⟨0x50, 0⟩, 0x1100000⟩)]) (head 0 4)).ferry.waits 9 = some ⟨4, none, ⟨0x50, 0⟩, 0x1100000⟩ ∧
    (let t : State := { come (front []) (head 0 4) with host.windows := [(0, [⟨0x1000, 2, true, false, true, true, 0x8000⟩])] }
     (t.access 0 0x1000 64 none (.ferryHost 0)).2 = .waits) ∧
    (let s := { follower with ferry.waits := [(9, (⟨0, none, ⟨0x40, 0⟩, 0⟩ : FarWait))] }
     look (come s (head 4 0)).ferry.waits 9 = some ⟨0, none, ⟨0x40, 0⟩, 0⟩) ∧
    ((front []).hostThere 0 = true ∧ (front []).get R.ferryStatusRole = 1 ∧ (front []).get (R.ferryFollowerState 4) = 3 ∧
      (front []).get (R.ferryFollowerState 63) ≠ 3 ∧ up.hostThere 0 = false) ∧
    (let calm := (front []).noHalf ⟨0x50, 0⟩
     calm.farTarget 4 0xFFFF = some 0xFFFF ∧ calm.farTarget 4 0x2FFFF = some 0x11FFFF ∧ calm.farTarget 4 0x40000 = none) ∧
    look (front [(9, ⟨4, none, ⟨0x50, 0⟩, 0x1100000⟩)]).ferry.waits 9 = some ⟨4, none, ⟨0x50, 0⟩, 0x1100000⟩ := by
  unfold comes
  decide +kernel

/-- A healthy device whose tick stands at `tick`. -/
def beating (tick : Nat) : State := { (up.put R.devStatusBoot 1).put R.faultTickTick tick with fault.healthySince := some 0 }

/-- What the edge finds, the board driving GPIO0 and HOLDUP_SENSE high. -/
def pinned (s : State) : State := ((s.put R.sysPinsGpio (field 257 0 8)).putB R.sysPinsHoldup (bitOf 257 8)).noteHealth

theorem witness_PinsOfTheBase :
    ((pinned (beating 1)).tick % cyclesPerMs ≠ 0 ∧ (pinned (beating 1)).tick % cyclesPerMs ≠ cyclesPerMs / 2) ∧
    (up.pwr.main = true ∧ up.pwr.porstN = true ∧ up.faultAsserted = false ∧ (up.put R.faultHardOpen 1).faultAsserted = true) ∧
    (let u := pinned (beating (4 * cyclesPerMs))
     u.tick % cyclesPerMs = 0 ∧ u.fault.healthySince = some 0 ∧ 0 + 4 * cyclesPerMs ≤ u.tick) ∧
    (let u := pinned (beating (4 * cyclesPerMs + cyclesPerMs / 2))
     u.tick % cyclesPerMs = cyclesPerMs / 2 ∧ u.fault.healthySince = some 0 ∧ 0 + 4 * cyclesPerMs ≤ u.tick) ∧
    (let u := pinned (beating (cyclesPerMs / 2))
     u.tick % cyclesPerMs = cyclesPerMs / 2 ∧ u.fault.healthySince = some 0 ∧ u.tick < 0 + 4 * cyclesPerMs) ∧
    (let u := pinned ((beating cyclesPerMs).put R.faultHardOpen 1)
     u.tick % cyclesPerMs = 0 ∧ u.fault.healthySince = none) := by
  decide +kernel

/-! ### Ill-formed commands are refused -/

/-- Every command of the list is ill-formed. -/
def illFormed (l : List Instr) : Bool := l.all (fun i => !i.wf)

/-- The command header, field by field, and the doors. -/
theorem test_wf_msg :
    illFormed ([{ msg 0 [] with opcode := 2 ^ 16 }, { msg 0 [] with flags := 2 ^ 16 }, msg 4096 [], { msg 0 [] with inst := 257 },
      { msg 0 [] with tag := 2 ^ 16 }, { msg 0 [] with target := 2 ^ 8 }, { msg 0 [] with version := 2 ^ 8 },
      { msg 0 [] with payloadLen := 2 ^ 32 }, { msg 0 [] with payloadAddr := 2 ^ 64 }, { msg 0 [] with resultAddr := 2 ^ 64 },
      { msg 0 [] with resultLen := 2 ^ 32 }, { msg 0 [] with key := 2 ^ 32 }, { msg 0 [] with hamper := 2 ^ 64 },
      { msg 0 [] with alg := 2 ^ 16 }, { msg 0 [] with param := 2 ^ 16 }, { msg 0 [] with key2 := 2 ^ 32 },
      { msg 0 (bytes 2) with payloadLen := 1 }, { msg 0 [] with origin := .mbox 256 0 }, { msg 0 [] with origin := .mbox 0 32 },
      { msg 0 [] with origin := .mbox 1 1 }, { msg 0 [] with origin := .ring 1024 }, { msg 0 [] with origin := .ferry (2 ^ 32) }].map
      .timeGet) = true ∧ (Instr.timeGet (msg 0 [])).wf = true := by decide +kernel

/-- The descriptors and what the device reads of host memory. -/
theorem test_wf_descriptors :
    illFormed [.functionLoad 0 (some ⟨2 ^ 16, 0, false, 0, 0, true⟩), .functionLoad 0 (some ⟨0, 1024, false, 0, 0, true⟩),
      .functionLoad 0 (some ⟨0, 0, false, 2 ^ 16, 0, true⟩), .functionLoad 0 (some ⟨0, 0, false, 0, 256, true⟩),
      .sqLoad 0 (some { sqOf255.desc with base := 2 ^ 64 }), .sqLoad 0 (some { sqOf255.desc with header := 2 ^ 64 }),
      .sqLoad 0 (some { sqOf255.desc with log2 := 256 }), .sqLoad 0 (some { sqOf255.desc with fn := 256 }),
      .sqLoad 0 (some { sqOf255.desc with loc := 256 }), .sqLoad 0 (some { sqOf255.desc with pollMode := 256 }),
      .sqLoad 0 (some { sqOf255.desc with pollValue := 2 ^ 16 }), .sqLoad 0 (some { sqOf255.desc with cq := 2 ^ 16 }),
      .sqLoad 0 (some { sqOf255.desc with prefetch := 256 }), .sqLoad 0 (some { sqOf255.desc with far := 64 }),
      .cqLoad 0 (some { cqOf255.desc with base := 2 ^ 64 }), .cqLoad 0 (some { cqOf255.desc with header := 2 ^ 64 }),
      .cqLoad 0 (some { cqOf255.desc with log2 := 256 }), .cqLoad 0 (some { cqOf255.desc with fn := 256 }),
      .cqLoad 0 (some { cqOf255.desc with loc := 256 }), .cqLoad 0 (some { cqOf255.desc with vector := 2 ^ 16 }),
      .cqLoad 0 (some { cqOf255.desc with coalCount := 256 }), .cqLoad 0 (some { cqOf255.desc with coalUs := 2 ^ 16 }),
      .windowTableLoad 0 (some [⟨2 ^ 64, 0, true, false, true, true, 0⟩]), .windowTableLoad 0 (some [⟨0, 2 ^ 32, true, false, true, true, 0⟩]),
      .windowTableLoad 0 (some [⟨0, 0, true, false, true, true, 2 ^ 64⟩]), .sqHeaderRead 0 (.index (2 ^ 32)), .sqHeaderRead 0 (.fault 256),
      .storeResponse ⟨some (2 ^ 16, 0), none⟩, .storeResponse ⟨some (0, 256), none⟩, .storeResponse ⟨none, some (bytes 4097)⟩,
      .hostReadCompletion 0 (.data (bytes 4097)), .hostReadCompletion (2 ^ 32) .failed] = true ∧
    (Instr.sqLoad 1023 (some sqOf255.desc)).wf = true ∧ (Instr.cqLoad 1023 (some cqOf255.desc)).wf = true := by decide +kernel

/-- Register and fabric accesses, and the numbers of parts. -/
theorem test_wf_indices :
    illFormed [.lowHalfRead ⟨256, 0⟩ 0 4, .lowHalfRead ⟨0, 256⟩ 0 4, .lowHalfRead pf (2 ^ 25) 4, .lowHalfRead pf 0 9,
      .lowHalfWrite pf 0 (2 ^ 32), .registerWrite pf 0 8 (2 ^ 64) true, .registerWrite pf 0 9 0 true, .pwWrite pf 0 (2 ^ 31),
      .sqcClear pf 0 (2 ^ 32), .quiesce pf (2 ^ 20) true, .quiesced (2 ^ 20), .commitRequest pf 0 256, .commitApply (2 ^ 20),
      .ruleEpochDrainEnd 7, .trngDataRead pf 4 true, .capture 256 1, .sqDoorbell 0 1024, .cqDoorbell 256 0, .go 257 0, .ack 0 32, .abort 257 0,
      .mboxMessageWrite 0 0 4096 [], .mboxMessageWrite 0 0 4095 (bytes 2), .quorumActRun 32, .quorumTimeout 32, .qengEventAck pf 512,
      .faultAckHard pf 16, .storeReqConsWrite (2 ^ 16), .storeRspProdWrite (2 ^ 16), .storeFetchTimeout (2 ^ 16), .storeHeldTimeout (2 ^ 32),
      .pkeClusterCtrlGateReq pf 16 true, .pkeClusterCtrlFence pf 16 true, .pkeJobRelease 16 true true 0, .pkeJobRelease 0 true true 4,
      .pkeWipeEnd 16, .pkeJobAbort 0 (2 ^ 16), .pkeClusterReady 0 256 true, .quarantineReturn 16 0 true, .maskSeedDelivery 16 true,
      .maskSeedExpiry 16, .entropyWaitTimeout (2 ^ 32), .skeRequestStart 8, .skeRequestEnd 8 true, .skeLaneCtrlGateReq pf 8 true,
      .skeLaneCtrlFence pf 8 true, .skeLaneCtrlRejoin pf 8, .skeLaneSelfTestEnd 8 true, .nonceRotation 65536] = true := by decide +kernel

theorem test_wf_events :
    illFormed [.trngWindowEnd 5 [], .autoRecalibrate 5, .trngSrcCtrlRecal pf 5, .trngSrcCtrlIsolate pf 5, .recalSweepEnd 5 [],
      .recalSweepEnd 0 (List.replicate 17 []), .mainsCrossing (2 ^ 40) [], .compassStart (2 ^ 64), .clockCrossCheck (2 ^ 32), .waypointFire 256,
      .waypointEpochRoll 256, .rateWindowEnd 4096, .sqPollTick 1024, .cqRoomPoll 1024 .failed, .coalesceTimer 1024, .msixPendingSend 0 2048,
      .hostReadTimeout (2 ^ 32), .vfFlr 256, .vfDisable false (2 ^ 16), .fabricAccess pf .read (2 ^ 64) 4 [] .none, .fabricAccess pf .read 0 4097 [] .none,
      .fabricAccess pairA .read 0 4 [] (.uncorrectable 38 0), .linkUp 16 0 0, .linkUp 0 (2 ^ 64) 0, .mainPowerLoss 4, .lanternEdge 512,
      .debugAccess .read (2 ^ 64) 4 [], .hostMboxPostedWrite 256 0 [], .farWindowAccess 64 0 false 0, .farWindowAccess 1 0x40000 false 0,
      .farReadTimeout (2 ^ 32), .mpcWdogFeed 256, .watchdogMiss 2, .mpcLeaseHoldSet 1 (2 ^ 32), .leaseTimeout false 16, .hardEscalation 16,
      .clusterResetEnd 20 true true, .regionResetEnd 8 true true, .boot { soundFacts with out := { PartsOut.none with mram := 4 } }, .logSubmit (2 ^ 16), .tamperAlarm 27 false 0 0, .tamperAlarm 0 false 256 0,
      .tamperDecisionDelayEnd 27, .tamperAlarmClear 27, .rsGenRetry (List.replicate 5 true) true, .boot { soundFacts with straps := 8 },
      .mramScrub [(2, true)], .portTransaction 2 goodFrame, .portSessionOpen 2, .helloAck 0 goodFrame (bytes 17),
      .approve 0 goodFrame (2 ^ 32) 0 [] [], .approve 0 goodFrame 0 16 [] [], .approve 0 goodFrame 0 0 (bytes 13) [],
      .pinSet 0 goodFrame 0 [] (bytes 13), .keepalive 0 { goodFrame with seq := 2 ^ 32 }, .discover 4 0, .discoverAck 0 64 0 0,
      .discoverAck 0 0 0 5, .assign 256, .regRead { head 4 0 with src := 64 } 0 4, .regWrite (head 4 0) 0 4 (2 ^ 64), .regData (head 256 0) 0,
      .hostRead (head 4 0) (2 ^ 64) 4, .hostWrite (head 4 0) 0 (bytes 257), .hostData { head 4 0 with lseq := 2 ^ 16 } .failed,
      .eventFrame (head 4 0) 512, .responseFrame (head 4 0) (2 ^ 16) 0 0 0 0 0 [], .responseFrame (head 4 0) 0 0 0 0 0 (2 ^ 96) [],
      .linkFrame 4 (head 4 0) true, .ferryIdleLink 4, .ferryPortTrained 4, .ferryLinkSilence 4, .followerAbsent 64,
      .replicationOfferExpiry 4096] = true := by decide +kernel

/-! ### The manual's worked examples -/

/-- No row of the opcode table gives bits: no word spells a command. -/
theorem test_no_word : decodeTableWord 32 0x12345678 = none ∧ State.reset.withFetchWord 32 0x12345678 = State.reset := ⟨rfl, rfl⟩

/-- The example of an RWM register (Table SC.6): a write of 0x0002_0002 to PKE_CTRL, which holds 1, sets SHADOW_VIEW alone;
0x0000_0002, with no mask, changes nothing. -/
theorem test_rwm :
    (match exec (.registerWrite pairA 0x70004 4 0x00020002 true) (up.put (R.hdrCtrlQuiesce 0x70000) 1) with
      | .next t => (t.get (R.hdrCtrlQuiesce 0x70000), t.get (R.hdrCtrlShadowView 0x70000))
      | _ => (9, 9)) = (1, 1) ∧
    (match exec (.registerWrite pairA 0x70004 4 0x00000002 true) (up.put (R.hdrCtrlQuiesce 0x70000) 1) with
      | .next t => (t.get (R.hdrCtrlQuiesce 0x70000), t.get (R.hdrCtrlShadowView 0x70000))
      | _ => (9, 9)) = (1, 0) := by decide +kernel

/-- R80's example: the 38 bytes that give tenant 12's KWK of TG 3 and WG 7. -/
theorem test_kwk_input (trk salt : Bytes) (h : salt.length = 16) :
    kwkOf trk 12 3 7 salt = (Config.hmac384 trk ([0, 0, 0, 1, 0x4B, 0x57, 0x4B, 0, 0, 0x0C, 0, 0, 0, 3, 0, 0, 0, 7] ++ salt
      ++ [0, 0, 1, 0])).take 32 := by
  rcases salt with _ | ⟨a, salt⟩
  · simp at h
  · rfl

/-- Table HS.4: the path of page 0x0123_4567, at levels 1, 5 and 9. -/
theorem test_path :
    (nodePage 1 (0x1234567 / 8 ^ 1), nodeOffset (0x1234567 / 8 ^ 1)) = (74565, 0x600) ∧
    (nodePage 5 (0x1234567 / 8 ^ 5), nodeOffset (0x1234567 / 8 ^ 5)) = (4792338, 0x300) ∧
    (nodePage 9 (0x1234567 / 8 ^ 9), nodeOffset (0x1234567 / 8 ^ 9)) = (4793490, 0) := by decide +kernel

theorem fold_zeros (n : Nat) : (List.replicate n false).foldl foldBit 0 = 0 := by
  induction n with
  | zero => rfl
  | succ n ih => rw [List.replicate_succ, List.foldl_cons, show foldBit 0 false = 0 by decide, ih]

/-- R202's example: 508 zeros, then 1, 0, 1, 1. -/
theorem test_condition :
    condition (List.replicate 508 false ++ [true, false, true, true]) = List.replicate 14 0 ++ [0x05, 0xB1] := by
  rw [condition, List.foldl_append, fold_zeros]
  decide +kernel

/-- R192's example: device 0x25, lane 5, EPOCH 3. -/
theorem test_nonce :
    nonceBytes 0x25 5 3 0x12C400007 = [0x00, 0x4B, 0x40, 0x03, 0x00, 0x00, 0x00, 0x01, 0x2C, 0x40, 0x00, 0x07] := by decide +kernel

/-- R171's example of EXP with L = 2,048 and E = 256, and P-256 signing at 72,000 engine cycles (R286). -/
theorem test_run_times : runTime up 0x44 0 32 0 256 = 274832 ∧ runTime up 0x01 0 256 0 0 = 72000 := by decide +kernel

/-- R286's example: a charge of 80,000 at SHARE 32. -/
theorem test_charge :
    (let s := { (up.put (R.qengTenantShareShare 12) 32) with eng.pkeQueue := [{ aJob false 1 with tenant := 12, cost := 80000 }] }
     look (s.unqueue { aJob false 1 with tenant := 12, cost := 80000 }).host.vtime (2 * 12)) = some 640000 := by decide +kernel

/-- R301's example: u0 = 8, and 500 ticks; the end of HOLDOVER after 45,905. -/
theorem test_holdover :
    uncertCode (holdoverU 8 500) = 0x3F9 ∧ holdoverU 8 2651 < 32768 ∧ ¬ holdoverU 8 2652 < 32768 ∧ uncertCode (holdoverU 8 45905) = 0xFFF ∧
    uncertCode (holdoverU 8 45904) ≠ 0xFFF := by decide +kernel

/-- Table CT.3: at its eighth valid cycle the count takes 1,000,063, and Compass is LOCKED. -/
theorem test_resolve :
    (let s := { (up.put R.compassStatusState 1).put R.compassStatusNominal 2 with
        compass.running := true
        compass.count := 1000008
        compass.eBase := 1000000
        compass.heldPeriod := 106702080 }
     ((s.resolve 6722240000).compass.count, (s.resolve 6722240000).cstate)) = (1000063, 2) := by decide +kernel

/-- R328's example: AP0's write across a NORMAL page and a SECURE one: the first part is admitted, the second denied. -/
theorem test_split :
    (let s := (up.put (R.potEntryEntry 0) 2).put (R.potEntryEntry 1) 1
     s.judge ⟨0x10, 0⟩ .write 0x12000FFC = .allow ∧ s.judge ⟨0x10, 0⟩ .write 0x12001000 = .deny) := by decide +kernel

end Sys2Proof.Tests
end

section
/-! SUPPORT and SETTLED. The command header's bytes (Table CM.1), a write to a register of the slow window (chapter 2), and the device as
shipped (R4). -/

namespace Sys2Proof.Machine

/-! ### Reading a number back from a row of little-endian fields -/

/-- The field at the front of a byte string spells its number, cut to the field's width (R15). -/
theorem le_leBytes_append (n v : Nat) (rest : Bytes) : le (leBytes n v ++ rest) 0 n = v % 256 ^ n := by
  have h : (leBytes n v ++ rest).take n = leBytes n v := List.take_left' (length_leBytes n v)
  rw [le, List.drop_zero, h, ofLe_leBytes]

/-- A field past the front one is read from the rest. -/
theorem le_leBytes_append_of_le (n v off len : Nat) (rest : Bytes) (h : n ≤ off) :
    le (leBytes n v ++ rest) off len = le rest (off - n) len := by
  rw [le, le, List.drop_append, length_leBytes, List.drop_eq_nil_of_le (by rw [length_leBytes]; exact h), List.nil_append]

/-- The last field of a byte string. -/
theorem le_leBytes (n v : Nat) : le (leBytes n v) 0 n = v % 256 ^ n := by
  simpa using le_leBytes_append n v []

/-! ### The command header -/

/-- The bytes of a command header spell each field cut to its width (Table CM.1), TENANT to its 12 bits; what TENANT and INSTANCE have
in bits that must be zero is counted in `zeros`, and so are the addresses and the length of the ring form in the mailbox form. Each
field is read past the fields before it. -/
theorem parseHeader_headerBytes (m : Msg) (ring : Bool) (inst : Nat) (origin : Origin) (payload : Bytes) :
    parseHeader (headerBytes m) ring inst origin payload =
      { opcode := m.opcode % 2 ^ 16, flags := m.flags % 2 ^ 16, tenant := m.tenant % 2 ^ 16 % 4096, inst := inst
        tag := m.tag % 2 ^ 16, target := m.target % 2 ^ 8, version := m.version % 2 ^ 8, payloadLen := m.payloadLen % 2 ^ 32
        payloadAddr := m.payloadAddr % 2 ^ 64, resultAddr := m.resultAddr % 2 ^ 64, resultLen := m.resultLen % 2 ^ 32
        key := m.key % 2 ^ 32, hamper := m.hamper % 2 ^ 64, alg := m.alg % 2 ^ 16, param := m.param % 2 ^ 16, key2 := m.key2 % 2 ^ 32
        zeros := m.tenant % 2 ^ 16 / 4096 + m.inst % 2 ^ 16
          + if ring then 0 else m.payloadAddr % 2 ^ 64 + m.resultAddr % 2 ^ 64 + m.resultLen % 2 ^ 32
        payload := payload, origin := origin, cid := 0 } := by
  simp [parseHeader, headerBytes, le_leBytes_append_of_le, le_leBytes_append, le_leBytes]

/-- Settles O7: the header's bytes spell each field cut to its width, and every field of `m` fits its width. -/
theorem headerRoundTrip : Obligations.HeaderRoundTrip := by
  intro m ring inst origin payload fits hinst
  simp only [Msg.operands, List.cons_append, List.nil_append, List.forall_mem_cons] at fits
  obtain ⟨hopcode, hflags, htenant, -, htag, htarget, hversion, hpayloadLen, hpayloadAddr, hresultAddr, hresultLen, hkey, hhamper,
    halg, hparam, hkey2, -, -⟩ := fits
  have htenant16 : m.tenant < 2 ^ 16 := Nat.lt_trans htenant (by decide)
  rw [parseHeader_headerBytes, Nat.mod_eq_of_lt hopcode, Nat.mod_eq_of_lt hflags, Nat.mod_eq_of_lt htenant16,
    Nat.mod_eq_of_lt htenant, Nat.mod_eq_of_lt htag, Nat.mod_eq_of_lt htarget, Nat.mod_eq_of_lt hversion,
    Nat.mod_eq_of_lt hpayloadLen, Nat.mod_eq_of_lt hpayloadAddr, Nat.mod_eq_of_lt hresultAddr, Nat.mod_eq_of_lt hresultLen,
    Nat.mod_eq_of_lt hkey, Nat.mod_eq_of_lt hhamper, Nat.mod_eq_of_lt halg, Nat.mod_eq_of_lt hparam, Nat.mod_eq_of_lt hkey2,
    Nat.div_eq_of_lt htenant, hinst, Nat.zero_mod, Nat.zero_add]

/-! ### Writing a register: what the requester's last half access left -/

@[simp] theorem State.get_noHalf (s : State) (r : Requester) (f : Fld) : (s.noHalf r).get f = s.get f := rfl
@[simp] theorem State.shadowOf_noHalf (s : State) (r : Requester) (f : Fld) : (s.noHalf r).shadowOf f = s.shadowOf f := rfl
@[simp] theorem State.shadows_noHalf (s : State) (r : Requester) : (s.noHalf r).iface.shadows = s.iface.shadows := rfl
@[simp] theorem State.pwBusy_noHalf (s : State) (r : Requester) : (s.noHalf r).iface.pwBusy = s.iface.pwBusy := rfl
@[simp] theorem State.blockOut_noHalf (s : State) (r : Requester) (off : Nat) (write : Bool) :
    (s.noHalf r).blockOut off write = s.blockOut off write := rfl

/-- A written word takes with it what the requester's last half access left (R43). -/
theorem State.reaches.writeHalf {s : State} {r : Requester} {off v : Nat} (h : s.reaches r .write off 4) (ha : assigned off = true) :
    s.write r off 4 v true = (s.noHalf r).writeHalf r (look s.iface.halves (halfKey r)) off (v % 2 ^ 32) := by
  have hwrite := h.write (v := v)
  obtain ⟨-, -, -, -, -, haligned, -, -, hanswers⟩ := h
  have hout : (s.noHalf r).blockOut off true = false := by simpa using hanswers
  have hshape : s.regWrite r off 4 (v % 256 ^ 4) true
      = (s.noHalf r).writeAligned r (look s.iface.halves (halfKey r)) off 4 (v % 256 ^ 4) := if_pos ⟨rfl, .inl ⟨rfl, haligned⟩⟩
  have hhalf : (s.noHalf r).writeAligned r (look s.iface.halves (halfKey r)) off 4 (v % 256 ^ 4)
      = (s.noHalf r).writeHalf r (look s.iface.halves (halfKey r)) off (v % 256 ^ 4) := by
    unfold State.writeAligned
    simp only [hout, ha, Bool.false_eq_true, if_false, if_true]
  exact hwrite.trans (hshape.trans hhalf)

/-! ### Fields -/

/-- A word with a field that the requester may write lets the write pass (R53). -/
theorem writeGate_pass {r : Requester} {fs : List (Row × Fld)} {x : Row × Fld} (hx : x ∈ fs) (ho : fieldOpen r x = true) :
    writeGate r fs = .pass := if_pos (List.any_eq_true.2 ⟨x, hx, ho⟩)

/-- Whether the shadow of a field is frozen by a commit of its group that is pending (R61). -/
def State.frozen (s : State) (x : Row × Fld) : Bool :=
  x.1.acc == .rws && bitOf (s.get (R.hdrCommitPending (blockOf x.2.off))) (groupAt x)

/-- A plain field takes its bits (R11). -/
theorem State.writeField_rw {s : State} {x : Row × Fld} {w n v : Nat} (h : x.1.acc = .rw) :
    s.writeField x w n v = s.put x.2 (merge x.2 (s.get x.2) (8 * (w - x.2.off)) n v) := by
  simp [State.writeField, h]

/-- A shadowed field takes its bits in its shadow (R60). -/
theorem State.writeField_rws {s : State} {x : Row × Fld} {w n v : Nat} (h : x.1.acc = .rws)
    (hp : bitOf (s.get (R.hdrCommitPending (blockOf x.2.off))) (groupAt x) = false) :
    s.writeField x w n v = { s with
      iface.shadows := store s.iface.shadows x.2.key (merge x.2 (s.shadowOf x.2) (8 * (w - x.2.off)) n v) } := by
  simp [State.writeField, h, hp]

/-- A frozen shadow keeps its value (R61). -/
theorem State.writeField_frozen {s : State} {x : Row × Fld} {w n v : Nat} (h : s.frozen x = true) : s.writeField x w n v = s := by
  simp only [State.frozen, Bool.and_eq_true, beq_iff_eq] at h
  simp [State.writeField, h]

/-- One field that the requester may write, and that does not wait for an idle block, is written alone; a frozen shadow is recorded in
the block's _ERR (R61). -/
theorem State.writeFields_single {s : State} {r : Requester} {x : Row × Fld} {w n v : Nat} (ho : fieldOpen r x = true)
    (hi : x.1.cls ≠ .idleOnly) :
    s.writeFields r [x] w n v = if s.frozen x then s.blockErr (blockOf w) w true else s.writeField x w n v := by
  have hmine : [x].filter (fieldOpen r) = [x] := by simp [ho]
  by_cases hf : s.frozen x = true
  · have hkept : s.writeField x w n v = s := State.writeField_frozen hf
    rw [if_pos hf]
    rw [State.frozen] at hf
    simp [State.writeFields, hmine, hi, hf, hkept]
  · rw [if_neg hf]
    rw [State.frozen, Bool.not_eq_true] at hf
    simp [State.writeFields, hmine, hi, hf]

/-! ### Words -/

/-- A register without an act of its own takes the write in its fields. -/
theorem State.writeSlow_fields {s : State} {r : Requester} {w v : Nat} (h : actsWhenWritten w = false) :
    s.writeSlow r w v = s.writeFields r (fieldsOf w) w 32 v := by
  simp only [actsWhenWritten, Bool.or_eq_false_iff, beq_eq_false_iff_ne, Option.isSome_eq_false_iff, Option.isNone_iff_eq_none] at h
  obtain ⟨⟨⟨⟨⟨⟨⟨hctrl, hcommit⟩, hcluster⟩, hlane⟩, hsource⟩, haperture⟩, hlist⟩, hsqc⟩ := h
  simp only [List.contains_cons, Bool.or_eq_false_iff, beq_eq_false_iff_ne] at hlist
  simp [State.writeSlow, hctrl, hcommit, hcluster, hlane, hsource, haperture, hlist, hsqc]

/-- A write that gets through to a register with one open field, which neither acts nor waits for an idle block. -/
theorem State.writes32.single {s : State} {r : Requester} {off v : Nat} {x : Row × Fld} (h : s.writes32 r off)
    (ha : actsWhenWritten off = false) (hx : fieldsOf off = [x]) (ho : fieldOpen r x = true) (hi : x.1.cls ≠ .idleOnly) :
    s.write r off 4 v true = if s.frozen x then (s.noHalf r).blockErr (blockOf off) off true
      else (s.noHalf r).writeField x off 32 (v % 2 ^ 32) := by
  have hgate : writeGate r (fieldsOf off) = .pass := writeGate_pass (by simp [hx]) ho
  rw [h.slow hgate, State.writeSlow_fields ha, hx]
  exact State.writeFields_single ho hi

/-- The low half of a 64-bit register is held (R43). -/
theorem State.writeHalf_low {s : State} {r : Requester} {half : Option Half} {w v : Nat} (hw : isWide w = true)
    (hg : writeGate r (rowsAt w) = .pass) :
    s.writeHalf r half w v
      = { s with iface.halves := store s.iface.halves (halfKey r) (.heldWrite w (v % 2 ^ 32)) } := by
  unfold State.writeHalf
  rw [if_pos hw, hg]

/-- The high half of a 64-bit register takes the held low half with it (R43). -/
theorem State.writeHalf_high {s : State} {r : Requester} {w low v : Nat} (hn : isWide w = false) (ha : w % 8 = 4)
    (hw : isWide (w - 4) = true) :
    s.writeHalf r (some (.heldWrite (w - 4) low)) w v = s.writeWide r (w - 4) (low + v % 2 ^ 32 * 2 ^ 32) := by
  unfold State.writeHalf
  rw [hn, if_neg Bool.false_ne_true, if_pos ⟨ha, hw⟩]
  simp only [↓reduceIte]

/-- Both halves of a 64-bit register without a posted write, other than QENG_CFG_BASE, are written at once (R42). -/
theorem State.writeWide_fields {s : State} {r : Requester} {off v : Nat} (hlow : look s.iface.pwBusy off = none)
    (hhigh : look s.iface.pwBusy (off + 4) = none) (hg : writeGate r (rowsAt off) = .pass) (hoff : off ≠ 0x50048) :
    s.writeWide r off v = s.writeFields r (rowsAt off) off 64 v := by
  simp [State.writeWide, hlow, hhigh, hg, hoff]

/-! ### The meanings of the two commands -/

/-- REGISTER_WRITE is a write of its requester. -/
theorem exec_registerWrite (r : Requester) (off len v : Nat) (full : Bool) (s : State) :
    exec (.registerWrite r off len v full) s = .next (s.write r off len v full) := rfl

/-- LOW_HALF_WRITE is a whole 4-byte write of its requester. -/
theorem exec_lowHalfWrite (r : Requester) (off v : Nat) (s : State) :
    exec (.lowHalfWrite r off v) s = .next (s.write r off 4 v true) := rfl

/-- Settles O33, clause by clause: the gate, the one field by its access code, and the two halves of a 64-bit register. -/
theorem registerWrites : Obligations.RegisterWrites := by
  intro s r off v x
  simp only [exec_registerWrite, exec_lowHalfWrite, Host.Outcome.next.injEq]
  refine ⟨fun h hg => h.denied hg, fun h ha hx ho hi => ⟨fun hrw => ?_, fun hrws hp => ?_, fun hrws hp => ?_⟩,
    fun h ha hw hg => ?_, fun low h ha hn h8 hw hheld hg hoff hlow hhigh => ?_⟩
  · have hf : s.frozen x = false := by simp [State.frozen, hrw]
    rw [h.single ha hx ho hi, hf, if_neg Bool.false_ne_true, State.writeField_rw hrw, State.get_noHalf]
  · have hf : s.frozen x = false := by simp [State.frozen, hp]
    rw [h.single ha hx ho hi, hf, if_neg Bool.false_ne_true, State.writeField_rws (s := s.noHalf r) hrws hp, State.shadowOf_noHalf,
      State.shadows_noHalf]
  · have hf : s.frozen x = true := by simp [State.frozen, hrws, hp]
    rw [h.single ha hx ho hi, if_pos hf]
  · rw [h.writeHalf ha, State.writeHalf_low hw hg, Nat.mod_mod]
  · have hsum : off - 4 + 4 = off := by omega
    rw [h.writeHalf ha, hheld, State.writeHalf_high hn h8 hw, Nat.mod_mod,
      State.writeWide_fields (s := s.noHalf r) hlow (by rw [hsum]; exact hhigh) hg (by omega)]

/-! ### The device as shipped -/

/-- A state without custodians has none at any position. -/
theorem State.custodian_eq_none {s : State} (h : s.quorum.custodians = []) (tenant : Option Nat) (pos : Nat) :
    s.custodian tenant pos = none := by
  simp [State.custodian, h, look]

/-- A state without tenant entries has no tenant. -/
theorem State.tenant_eq_none {s : State} (h : s.keys.tenants = []) (n : Nat) : s.tenant n = none := by
  simp [State.tenant, h, look]

/-- A state whose two ports are unpaired has no paired port. -/
theorem State.port_unpaired {s : State} (ha : s.quorum.portA = .unpaired) (hb : s.quorum.portB = .unpaired) (p : Nat) :
    (s.port p).paired = false := by
  simp only [State.port, ha, hb, ite_self]
  rfl

/-- Settles O2: LIFE and DEBUG_LEVEL read their Cold values, and the tables of tenants, custodians and pairings are empty. -/
theorem asShipped : Obligations.AsShipped :=
  ⟨by decide, by decide, rfl, rfl, State.tenant_eq_none rfl, State.custodian_eq_none rfl, State.port_unpaired rfl rfl⟩

end Sys2Proof.Machine
end

section
/-! SUPPORT and SETTLED. The canonical form of memory and of the register file: the state after reset has it, and every step keeps it. -/

namespace Sys2Proof.Machine

/-- Every command leaves standing what `Keeps` names: its meaning does. -/
theorem exec_keeps : ∀ {c : Instr} {s t : State}, exec c s = .next t → Keeps s t
  | .deviceInfoGet .., _, _, h => execDeviceInfoGet_keeps h
  | .identityGet .., _, _, h => execIdentityGet_keeps h
  | .attestationAnswer .., _, _, h => execAttestationAnswer_keeps h
  | .attestationSign .., _, _, h => execAttestationSign_keeps h
  | .keyGenerate .., _, _, h => execKeyGenerate_keeps h
  | .keyImport .., _, _, h => execKeyImport_keeps h
  | .keyExport .., _, _, h => execKeyExport_keeps h
  | .keyDerive .., _, _, h => execKeyDerive_keeps h
  | .keyPublicGet .., _, _, h => execKeyPublicGet_keeps h
  | .hamperLoad .., _, _, h => execHamperLoad_keeps h
  | .slotFree .., _, _, h => execSlotFree_keeps h
  | .hamperRewrap .., _, _, h => execHamperRewrap_keeps h
  | .hamperRevoke .., _, _, h => execHamperRevoke_keeps h
  | .hamperReclaim .., _, _, h => execHamperReclaim_keeps h
  | .nonceLimitSet .., _, _, h => execNonceLimitSet_keeps h
  | .sign .., _, _, h => execSign_keeps h
  | .verify .., _, _, h => execVerify_keeps h
  | .encrypt .., _, _, h => execEncrypt_keeps h
  | .decrypt .., _, _, h => execDecrypt_keeps h
  | .macGenerate .., _, _, h => execMacGenerate_keeps h
  | .macVerify .., _, _, h => execMacVerify_keeps h
  | .hash .., _, _, h => execHash_keeps h
  | .wrap .., _, _, h => execWrap_keeps h
  | .unwrap .., _, _, h => execUnwrap_keeps h
  | .agree .., _, _, h => execAgree_keeps h
  | .encapsulate .., _, _, h => execEncapsulate_keeps h
  | .decapsulate .., _, _, h => execDecapsulate_keeps h
  | .arithmeticRun .., _, _, h => execArithmeticRun_keeps h
  | .randomGenerate .., _, _, h => execRandomGenerate_keeps h
  | .tenantCreate .., _, _, h => execTenantCreate_keeps h
  | .tenantDelete .., _, _, h => execTenantDelete_keeps h
  | .tenantQuotaSet .., _, _, h => execTenantQuotaSet_keeps h
  | .tenantPolicySet .., _, _, h => execTenantPolicySet_keeps h
  | .generationRoll .., _, _, h => execGenerationRoll_keeps h
  | .generationRetire .., _, _, h => execGenerationRetire_keeps h
  | .instanceBind .., _, _, h => execInstanceBind_keeps h
  | .tenantUnlock .., _, _, h => execTenantUnlock_keeps h
  | .tenantInfoGet .., _, _, h => execTenantInfoGet_keeps h
  | .custodianEnrol .., _, _, h => execCustodianEnrol_keeps h
  | .custodianRemove .., _, _, h => execCustodianRemove_keeps h
  | .quorumPolicySet .., _, _, h => execQuorumPolicySet_keeps h
  | .portPair .., _, _, h => execPortPair_keeps h
  | .approvalSubmit .., _, _, h => execApprovalSubmit_keeps h
  | .operationStatusGet .., _, _, h => execOperationStatusGet_keeps h
  | .operationCancel .., _, _, h => execOperationCancel_keeps h
  | .timeGet .., _, _, h => execTimeGet_keeps h
  | .anchorLoad .., _, _, h => execAnchorLoad_keeps h
  | .waypointSet .., _, _, h => execWaypointSet_keeps h
  | .waypointClear .., _, _, h => execWaypointClear_keeps h
  | .mainsNominalSet .., _, _, h => execMainsNominalSet_keeps h
  | .storeAttach .., _, _, h => execStoreAttach_keeps h
  | .storeFormat .., _, _, h => execStoreFormat_keeps h
  | .storeRecheck .., _, _, h => execStoreRecheck_keeps h
  | .storePrune .., _, _, h => execStorePrune_keeps h
  | .storeReclaimRange .., _, _, h => execStoreReclaimRange_keeps h
  | .curveLoad .., _, _, h => execCurveLoad_keeps h
  | .curveRetire .., _, _, h => execCurveRetire_keeps h
  | .microcodeInstall .., _, _, h => execMicrocodeInstall_keeps h
  | .firmwareStage .., _, _, h => execFirmwareStage_keeps h
  | .firmwareActivate .., _, _, h => execFirmwareActivate_keeps h
  | .configSet .., _, _, h => execConfigSet_keeps h
  | .tamperResponseSet .., _, _, h => execTamperResponseSet_keeps h
  | .attestationKeyProvision .., _, _, h => execAttestationKeyProvision_keeps h
  | .noiseRecalibrate .., _, _, h => execNoiseRecalibrate_keeps h
  | .clusterServiceFence .., _, _, h => execClusterServiceFence_keeps h
  | .clusterServiceReturn .., _, _, h => execClusterServiceReturn_keeps h
  | .clusterServicePowerOff .., _, _, h => execClusterServicePowerOff_keeps h
  | .clusterServicePowerOn .., _, _, h => execClusterServicePowerOn_keeps h
  | .clusterServiceRecalibrate .., _, _, h => execClusterServiceRecalibrate_keeps h
  | .clusterRetire .., _, _, h => execClusterRetire_keeps h
  | .deviceUnlock .., _, _, h => execDeviceUnlock_keeps h
  | .floorRaise .., _, _, h => execFloorRaise_keeps h
  | .domainJoin .., _, _, h => execDomainJoin_keeps h
  | .tenantReplicateOffer .., _, _, h => execTenantReplicateOffer_keeps h
  | .tenantReplicateSend .., _, _, h => execTenantReplicateSend_keeps h
  | .tenantReplicateAccept .., _, _, h => execTenantReplicateAccept_keeps h
  | .tenantReplicateAdopt .., _, _, h => execTenantReplicateAdopt_keeps h
  | .logRead .., _, _, h => execLogRead_keeps h
  | .logFreeze .., _, _, h => execLogFreeze_keeps h
  | .logThaw .., _, _, h => execLogThaw_keeps h
  | .logClear .., _, _, h => execLogClear_keeps h
  | .journalAttach .., _, _, h => execJournalAttach_keeps h
  | .lifecycleTransition .., _, _, h => execLifecycleTransition_keeps h
  | .debugChallengeGet .., _, _, h => execDebugChallengeGet_keeps h
  | .debugOpen .., _, _, h => execDebugOpen_keeps h
  | .debugPasswordSet .., _, _, h => execDebugPasswordSet_keeps h
  | .debugKeySet .., _, _, h => execDebugKeySet_keeps h
  | .quorumActRun .., _, _, h => execQuorumActRun_keeps h
  | .quorumTimeout .., _, _, h => execQuorumTimeout_keeps h
  | .go .., _, _, h => execGo_keeps h
  | .ack .., _, _, h => execAck_keeps h
  | .abort .., _, _, h => execAbort_keeps h
  | .mboxMessageWrite .., _, _, h => execMboxMessageWrite_keeps h
  | .sqDoorbell .., _, _, h => execSqDoorbell_keeps h
  | .cqDoorbell .., _, _, h => execCqDoorbell_keeps h
  | .capture .., _, _, h => execCapture_keeps h
  | .trngDataRead .., _, _, h => execTrngDataRead_keeps h
  | .lowHalfRead .., _, _, h => execLowHalfRead_keeps h
  | .lowHalfWrite .., _, _, h => execLowHalfWrite_keeps h
  | .registerWrite .., _, _, h => execRegisterWrite_keeps h
  | .pwWrite .., _, _, h => execPwWrite_keeps h
  | .pwWriteLanded .., _, _, h => execPwWriteLanded_keeps h
  | .sqcClear .., _, _, h => execSqcClear_keeps h
  | .quiesce .., _, _, h => execQuiesce_keeps h
  | .quiesced .., _, _, h => execQuiesced_keeps h
  | .commitRequest .., _, _, h => execCommitRequest_keeps h
  | .commitApply .., _, _, h => execCommitApply_keeps h
  | .ruleEpochDrainEnd .., _, _, h => execRuleEpochDrainEnd_keeps h
  | .functionLoad .., _, _, h => execFunctionLoad_keeps h
  | .functionDisable .., _, _, h => execFunctionDisable_keeps h
  | .sqLoad .., _, _, h => execSqLoad_keeps h
  | .sqDisable .., _, _, h => execSqDisable_keeps h
  | .cqLoad .., _, _, h => execCqLoad_keeps h
  | .cqDisable .., _, _, h => execCqDisable_keeps h
  | .windowTableLoad .., _, _, h => execWindowTableLoad_keeps h
  | .windowTableDisable .., _, _, h => execWindowTableDisable_keeps h
  | .loadDone .., _, _, h => execLoadDone_keeps h
  | .qengEventAck .., _, _, h => execQengEventAck_keeps h
  | .faultAckHard .., _, _, h => execFaultAckHard_keeps h
  | .faultAckMinor .., _, _, h => execFaultAckMinor_keeps h
  | .faultAckSevere .., _, _, h => execFaultAckSevere_keeps h
  | .storeReqConsWrite .., _, _, h => execStoreReqConsWrite_keeps h
  | .storeRspProdWrite .., _, _, h => execStoreRspProdWrite_keeps h
  | .storeResponse .., _, _, h => execStoreResponse_keeps h
  | .storeBatchClose .., _, _, h => execStoreBatchClose_keeps h
  | .storeFetchTimeout .., _, _, h => execStoreFetchTimeout_keeps h
  | .storeHeldTimeout .., _, _, h => execStoreHeldTimeout_keeps h
  | .storeRspRetry .., _, _, h => execStoreRspRetry_keeps h
  | .storeBufferFreed .., _, _, h => execStoreBufferFreed_keeps h
  | .slotAgeTick .., _, _, h => execSlotAgeTick_keeps h
  | .pkeClusterCtrlGateReq .., _, _, h => execPkeClusterCtrlGateReq_keeps h
  | .pkeClusterCtrlFence .., _, _, h => execPkeClusterCtrlFence_keeps h
  | .pkeJobRelease .., _, _, h => execPkeJobRelease_keeps h
  | .pkeWipeEnd .., _, _, h => execPkeWipeEnd_keeps h
  | .pkeJobAbort .., _, _, h => execPkeJobAbort_keeps h
  | .pkeClusterReady .., _, _, h => execPkeClusterReady_keeps h
  | .quarantineReturn .., _, _, h => execQuarantineReturn_keeps h
  | .maskSeedDelivery .., _, _, h => execMaskSeedDelivery_keeps h
  | .maskSeedExpiry .., _, _, h => execMaskSeedExpiry_keeps h
  | .entropyWaitTimeout .., _, _, h => execEntropyWaitTimeout_keeps h
  | .skeRequestStart .., _, _, h => execSkeRequestStart_keeps h
  | .skeRequestEnd .., _, _, h => execSkeRequestEnd_keeps h
  | .skeLaneCtrlGateReq .., _, _, h => execSkeLaneCtrlGateReq_keeps h
  | .skeLaneCtrlFence .., _, _, h => execSkeLaneCtrlFence_keeps h
  | .skeLaneCtrlRejoin .., _, _, h => execSkeLaneCtrlRejoin_keeps h
  | .nonceReservationDone .., _, _, h => execNonceReservationDone_keeps h
  | .nonceRotation .., _, _, h => execNonceRotation_keeps h
  | .trngWindowEnd .., _, _, h => execTrngWindowEnd_keeps h
  | .drbgInstantiate .., _, _, h => execDrbgInstantiate_keeps h
  | .drbgReseed .., _, _, h => execDrbgReseed_keeps h
  | .autoRecalibrate .., _, _, h => execAutoRecalibrate_keeps h
  | .trngSrcCtrlRecal .., _, _, h => execTrngSrcCtrlRecal_keeps h
  | .trngSrcCtrlIsolate .., _, _, h => execTrngSrcCtrlIsolate_keeps h
  | .recalSweepEnd .., _, _, h => execRecalSweepEnd_keeps h
  | .mainsCrossing .., _, _, h => execMainsCrossing_keeps h
  | .cycleMissing .., _, _, h => execCycleMissing_keeps h
  | .compassTick .., _, _, h => execCompassTick_keeps h
  | .compassStart .., _, _, h => execCompassStart_keeps h
  | .clockCrossCheck .., _, _, h => execClockCrossCheck_keeps h
  | .waypointFire .., _, _, h => execWaypointFire_keeps h
  | .waypointEpochRoll .., _, _, h => execWaypointEpochRoll_keeps h
  | .rateWindowEnd .., _, _, h => execRateWindowEnd_keeps h
  | .arbitrationRound .., _, _, h => execArbitrationRound_keeps h
  | .sqPollTick .., _, _, h => execSqPollTick_keeps h
  | .sqHeaderRead .., _, _, h => execSqHeaderRead_keeps h
  | .cqRoomPoll .., _, _, h => execCqRoomPoll_keeps h
  | .coalesceTimer .., _, _, h => execCoalesceTimer_keeps h
  | .msixPendingSend .., _, _, h => execMsixPendingSend_keeps h
  | .hostReadTimeout .., _, _, h => execHostReadTimeout_keeps h
  | .linkReset .., _, _, h => execLinkReset_keeps h
  | .linkUp .., _, _, h => execLinkUp_keeps h
  | .vfFlr .., _, _, h => execVfFlr_keeps h
  | .pfFlr .., _, _, h => execPfFlr_keeps h
  | .vfDisable .., _, _, h => execVfDisable_keeps h
  | .fabricAccess .., _, _, h => execFabricAccess_keeps h
  | .debugAccess .., _, _, h => execDebugAccess_keeps h
  | .hostMboxPostedWrite .., _, _, h => execHostMboxPostedWrite_keeps h
  | .farWindowAccess .., _, _, h => execFarWindowAccess_keeps h
  | .farReadTimeout .., _, _, h => execFarReadTimeout_keeps h
  | .mpcWdogFeed .., _, _, h => execMpcWdogFeed_keeps h
  | .watchdogMiss .., _, _, h => execWatchdogMiss_keeps h
  | .g5RestartEnd .., _, _, h => execG5RestartEnd_keeps h
  | .mpcLeaseHoldSet .., _, _, h => execMpcLeaseHoldSet_keeps h
  | .leaseTimeout .., _, _, h => execLeaseTimeout_keeps h
  | .hardEscalation .., _, _, h => execHardEscalation_keeps h
  | .clusterResetEnd .., _, _, h => execClusterResetEnd_keeps h
  | .regionResetEnd .., _, _, h => execRegionResetEnd_keeps h
  | .logSubmit .., _, _, h => execLogSubmit_keeps h
  | .logFreezeTimeout .., _, _, h => execLogFreezeTimeout_keeps h
  | .journalEntryWrite .., _, _, h => execJournalEntryWrite_keeps h
  | .pocketRecordCopy .., _, _, h => execPocketRecordCopy_keeps h
  | .tamperAlarm .., _, _, h => execTamperAlarm_keeps h
  | .tamperDecisionDelayEnd .., _, _, h => execTamperDecisionDelayEnd_keeps h
  | .tamperAlarmClear .., _, _, h => execTamperAlarmClear_keeps h
  | .keeperMaskRotate .., _, _, h => execKeeperMaskRotate_keeps h
  | .rsGenRetry .., _, _, h => execRsGenRetry_keeps h
  | .mainPowerOn .., _, _, h => execMainPowerOn_keeps h
  | .mainPowerLoss .., _, _, h => execMainPowerLoss_keeps h
  | .porstNAssert .., _, _, h => execPorstNAssert_keeps h
  | .boot .., _, _, h => execBoot_keeps h
  | .mramScrub .., _, _, h => execMramScrub_keeps h
  | .portTransaction .., _, _, h => execPortTransaction_keeps h
  | .portSessionOpen .., _, _, h => execPortSessionOpen_keeps h
  | .helloAck .., _, _, h => execHelloAck_keeps h
  | .approve .., _, _, h => execApprove_keeps h
  | .pinSet .., _, _, h => execPinSet_keeps h
  | .keepalive .., _, _, h => execKeepalive_keeps h
  | .discover .., _, _, h => execDiscover_keeps h
  | .discoverAck .., _, _, h => execDiscoverAck_keeps h
  | .assign .., _, _, h => execAssign_keeps h
  | .commandFrame .., _, _, h => execCommandFrame_keeps h
  | .responseFrame .., _, _, h => execResponseFrame_keeps h
  | .regRead .., _, _, h => execRegRead_keeps h
  | .regWrite .., _, _, h => execRegWrite_keeps h
  | .regData .., _, _, h => execRegData_keeps h
  | .hostRead .., _, _, h => execHostRead_keeps h
  | .hostWrite .., _, _, h => execHostWrite_keeps h
  | .hostData .., _, _, h => execHostData_keeps h
  | .eventFrame .., _, _, h => execEventFrame_keeps h
  | .linkFrame .., _, _, h => execLinkFrame_keeps h
  | .ferryIdleLink .., _, _, h => execFerryIdleLink_keeps h
  | .ferryDiscoverTick .., _, _, h => execFerryDiscoverTick_keeps h
  | .ferryPortTrained .., _, _, h => execFerryPortTrained_keeps h
  | .ferryLinkSilence .., _, _, h => execFerryLinkSilence_keeps h
  | .followerAbsent .., _, _, h => execFollowerAbsent_keeps h
  | .replicationOfferExpiry .., _, _, h => execReplicationOfferExpiry_keeps h
  | .smbusDevStatus .., _, _, h => execSmbusDevStatus_keeps h
  | .smbusLanternStatus .., _, _, h => execSmbusLanternStatus_keeps h
  | .smbusTemperatures .., _, _, h => execSmbusTemperatures_keeps h
  | .smbusKeeperPower .., _, _, h => execSmbusKeeperPower_keeps h
  | .smbusFaultCountB .., _, _, h => execSmbusFaultCountB_keeps h
  | .smbusDeviceSerial .., _, _, h => execSmbusDeviceSerial_keeps h
  | .smbusAlertResponse .., _, _, h => execSmbusAlertResponse_keeps h
  | .lanternEdge .., _, _, h => execLanternEdge_keeps h
  | .skeLaneSelfTestEnd .., _, _, h => execSkeLaneSelfTestEnd_keeps h
  | .hostReadCompletion .., _, _, h => execHostReadCompletion_keeps h
  | .debugChallengeExpiry .., _, _, h => execDebugChallengeExpiry_keeps h

/-- The front command runs on the state with the queue's rest. -/
theorem step_cons {s : State} {c : Instr} {rest : List Instr} (h : s.pending = c :: rest) :
    step s = exec c { s with pending := rest } := by
  simp [step, h]

/-- With no command waiting a step is one engine cycle. -/
theorem step_nil {s : State} (h : s.pending = []) : step s = .next s.idle := by
  simp [step, h]

/-- A step keeps the canonical form, by the commands' `Keeps` and the engine cycle's. -/
theorem step_canonical {s t : State} (hs : s.canonical) (h : step s = .next t) : t.canonical := by
  cases hp : s.pending with
  | nil =>
    rw [step_nil hp] at h
    obtain ⟨-, -, -, hcanonical⟩ := next_keeps h (State.idle_keeps (Keeps.refl s))
    exact hcanonical hs
  | cons c rest =>
    rw [step_cons hp] at h
    obtain ⟨-, -, -, hcanonical⟩ := exec_keeps h
    exact hcanonical hs

/-- Settles O4: reset lists no memory, and its two fields stand in rising order. -/
theorem resetIsCanonical : Obligations.ResetIsCanonical := by
  refine ⟨rfl, ?_⟩
  unfold Amap.rising
  decide

/-- Settles O5: every command's meaning keeps the form, and so does the engine cycle of an empty queue. -/
theorem stepKeepsCanonical : Obligations.StepKeepsCanonical := fun _ _ => step_canonical

end Sys2Proof.Machine
end

section
/-! SUPPORT and SETTLED. Reading a register (R41 to R43): what the answer of a read of 4 or 8 bytes holds, and what it leaves of the
requester's last half access. -/

namespace Sys2Proof.Machine

/-- A word that is no half of a 64-bit register reads itself. -/
theorem State.readWord_narrow {s : State} {r : Requester} {half : Option Half} {w : Nat} (hw : isWide w = false)
    (hlow : w % 8 = 4 → isWide (w - 4) = false) : s.readWord r half w = (s, s.word r w) := by
  have hhigh : ¬ (w % 8 = 4 ∧ isWide (w - 4) = true) := fun ⟨h8, h⟩ => Bool.false_ne_true ((hlow h8).symm.trans h)
  unfold State.readWord
  rw [hw, if_neg Bool.false_ne_true, if_neg hhigh]

/-- A 64-bit register without a side effect reads both its words at one instant (R42). -/
theorem State.readWide_words {s : State} {r : Requester} {off : Nat} (h : off ≠ 0x90060) :
    s.readWide r off = (s, s.word r off + 2 ^ 32 * s.word r (off + 4)) := if_neg h

/-- The low half of a 64-bit register is read, and its high half is kept for the requester (R43). -/
theorem State.readWord_low {s : State} {r : Requester} {half : Option Half} {w : Nat} (hw : isWide w = true) (h : w ≠ 0x90060) :
    s.readWord r half w =
      let v := s.word r w + 2 ^ 32 * s.word r (w + 4)
      ({ s with iface.halves := store s.iface.halves (halfKey r) (.readLatch w (v / 2 ^ 32)) }, v % 2 ^ 32) := by
  unfold State.readWord
  rw [hw, if_pos rfl, State.readWide_words h]

/-- The high half of a 64-bit register comes from what the read of its low half kept (R43). -/
theorem State.readWord_latched {s : State} {r : Requester} {w v : Nat} (hw : isWide w = false) (h8 : w % 8 = 4)
    (hlow : isWide (w - 4) = true) : s.readWord r (some (.readLatch (w - 4) v)) w = (s, v) := by
  unfold State.readWord
  rw [hw, if_neg Bool.false_ne_true, if_pos ⟨h8, hlow⟩]
  exact if_pos rfl

/-- A read that gets through is answered with what the block reads, the requester's last half access gone (R43). -/
theorem State.reaches.readAligned {s t : State} {r : Requester} {off len v : Nat} (h : s.reaches r .read off len)
    (hr : (s.noHalf r).readAligned r (look s.iface.halves (halfKey r)) off len = (t, v)) :
    s.read r off len = t.answerRead r (0x30000000 + off) [] (leBytes len v) false := by
  have hread := h.read
  obtain ⟨-, -, -, -, hlen, haligned, -, -, -⟩ := h
  have hshape : (len = 4 ∧ off % 4 = 0) ∨ (len = 8 ∧ off % 8 = 0) := by
    rcases hlen with rfl | rfl
    · exact .inl ⟨rfl, haligned⟩
    · exact .inr ⟨rfl, haligned⟩
  have hreg : s.regRead r off len = (s.noHalf r).readAligned r (look s.iface.halves (halfKey r)) off len := if_pos hshape
  rw [hread, hreg, hr]

/-- The block answers the read of a requester whose last half access is gone. -/
theorem State.reaches.answers {s : State} {r : Requester} {off len : Nat} (h : s.reaches r .read off len) :
    (s.noHalf r).blockOut off false = false := by
  obtain ⟨-, -, -, -, -, -, -, -, hanswers⟩ := h
  exact hanswers

/-- A 4-byte read that gets through. -/
theorem State.reaches.read_word {s t : State} {r : Requester} {off v : Nat} (h : s.reaches r .read off 4) (ha : assigned off = true)
    (hr : (s.noHalf r).readWord r (look s.iface.halves (halfKey r)) off = (t, v)) :
    s.read r off 4 = t.answerRead r (0x30000000 + off) [] (leBytes 4 v) false :=
  h.readAligned (by
    rw [State.readAligned, h.answers, if_neg Bool.false_ne_true, if_pos rfl, if_pos ha, hr])

/-- An 8-byte read of a 64-bit register that gets through. -/
theorem State.reaches.read_wide {s t : State} {r : Requester} {off v : Nat} (h : s.reaches r .read off 8) (ha : assigned off = true)
    (ha4 : assigned (off + 4) = true) (hw : isWide off = true) (hr : (s.noHalf r).readWide r off = (t, v)) :
    s.read r off 8 = t.answerRead r (0x30000000 + off) [] (leBytes 8 v) false :=
  h.readAligned (by
    rw [State.readAligned, h.answers, if_neg Bool.false_ne_true, if_neg (by decide), if_pos ha, if_pos ha4, if_pos hw, hr])

/-- LOW_HALF_READ is a read of its requester. -/
theorem exec_lowHalfRead (r : Requester) (off len : Nat) (s : State) :
    exec (.lowHalfRead r off len) s = .next (s.read r off len) := rfl

/-- Settles O31: the four shapes of a read that gets through, a whole word, the low half, the latched high half and both halves. -/
theorem registerReads : Obligations.RegisterReads := by
  intro s r off ha
  simp only [exec_lowHalfRead, Host.Outcome.next.injEq]
  refine ⟨fun h hw hlow => ?_, fun v h hw hoff hv => ?_, fun v h hw h8 hlow hlatch => ?_, fun h hw ha4 hoff => ?_⟩
  · exact h.read_word ha (State.readWord_narrow hw hlow)
  · subst hv
    exact h.read_word ha (State.readWord_low hw hoff)
  · exact h.read_word ha (hlatch ▸ State.readWord_latched hw h8 hlow)
  · exact h.read_wide ha ha4 hw (State.readWide_words hoff)

end Sys2Proof.Machine
end

section
/-! SUPPORT and SETTLED. Statuses that clear by their sequence number (R58), and posted writes (R56, R57). -/

namespace Sys2Proof.Machine

/-! ### Clearing by a sequence number -/

/-- Only the low 16 bits of the written value are looked at (R58). -/
theorem State.clearStatus_mod (s : State) (w v : Nat) : s.clearStatus w (v % 2 ^ 32) = s.clearStatus w v := by
  have hlow : v % 2 ^ 32 % 65536 = v % 65536 := by omega
  simp only [State.clearStatus, hlow]

/-- The number that the status holds lets its event go, and its other fields read 0 (R58). -/
theorem State.clearStatus_current {s : State} {w v : Nat} (h0 : v % 65536 ≠ 0) (hv : v % 65536 = s.get ⟨w, 0, 16, 0⟩)
    (hheld : w ∈ s.iface.sqcHeld) :
    s.clearStatus w v = (rowsAt w).foldl (fun t x => if x.1.acc = .sqc ∧ x.2.lsb ≠ 0 then t.put x.2 0 else t)
      { s with iface.sqcHeld := s.iface.sqcHeld.filter (· != w) } := if_pos ⟨h0, hv, hheld⟩

/-- Any other number changes nothing (R58). -/
theorem State.clearStatus_other {s : State} {w v : Nat}
    (h : v % 65536 = 0 ∨ v % 65536 ≠ s.get ⟨w, 0, 16, 0⟩ ∨ w ∉ s.iface.sqcHeld) : s.clearStatus w v = s := by
  refine if_neg fun ⟨h0, hv, hheld⟩ => ?_
  rcases h with h | h | h
  · exact h0 h
  · exact h hv
  · exact h hheld

/-- A register whose only act is that its status clears takes the write so (R58). -/
theorem State.writeSlow_status {s : State} {r : Requester} {w v : Nat} (hsqc : (rowsAt w).any (fun x => x.1.acc == .sqc) = true)
    (hlist : w ∉ [0x2008C, 0x20084, 0x20098, 0x30120, 0xC0044, 0xC0048, 0xC0070, 0x50050, 0x50140, 0xA0068, 0xA007C])
    (hctrl : w ≠ blockOf w + 4) (hcommit : w ≠ blockOf w + 0xC) (hcluster : nthReg w 0x7010C 0x10 16 = none)
    (hlane : nthReg w 0x8010C 0x10 8 = none) (hsource : nthReg w 0x90108 0x10 5 = none) (haperture : nthReg w 0xF0104 4 63 = none) :
    s.writeSlow r w v = s.clearStatus w v := by
  simp only [List.mem_cons, List.not_mem_nil, or_false, not_or] at hlist
  simp [State.writeSlow, hctrl, hcommit, hcluster, hlane, hsource, haperture, hlist, hsqc]

/-- SQC_CLEAR is a whole 4-byte write of its requester. -/
theorem exec_sqcClear (r : Requester) (off v : Nat) (s : State) :
    exec (.sqcClear r off v) s = .next (s.write r off 4 (v % 2 ^ 32) true) := rfl

/-- Settles O34: the write reaches the status, which looks at the number alone. -/
theorem sequenceClears : Obligations.SequenceClears := by
  intro s r off v t h hgate hsqc hlist hctrl hcommit hcluster hlane hsource haperture
  have hwrite : exec (.sqcClear r off v) s = .next (t.clearStatus off v) := by
    rw [exec_sqcClear, h.slow hgate, State.writeSlow_status hsqc hlist hctrl hcommit hcluster hlane hsource haperture,
      State.clearStatus_mod, State.clearStatus_mod]
  rw [hwrite]
  exact ⟨fun h0 hv hheld => congrArg _ (State.clearStatus_current h0 hv hheld), fun hother => congrArg _ (State.clearStatus_other hother)⟩

/-! ### Posted writes -/

/-- A posted write to a register that is there, of a block that answers, is dropped while one is in flight (R56). -/
theorem State.pwWrite_busy {s : State} {r : Requester} {w v : Nat} (h4 : w % 4 = 0) (hslow : isSlow w = true)
    (ha : assigned w = true) (hout : s.blockOut w true = false) (hbusy : look s.iface.pwBusy w ≠ none) :
    s.pwWrite r w v = (s.noHalf r).accessErr r 6 w true := by
  simp [State.pwWrite, h4, hslow, ha, hout, Option.isSome_iff_ne_none.2 hbusy]

/-- With none in flight, one that its rights let pass sets BUSY, its value in flight (R56). -/
theorem State.pwWrite_free {s : State} {r : Requester} {w v : Nat} (h4 : w % 4 = 0) (hslow : isSlow w = true)
    (ha : assigned w = true) (hout : s.blockOut w true = false) (hfree : look s.iface.pwBusy w = none)
    (hgate : writeGate r (fieldsOf w) = .pass) :
    s.pwWrite r w v = { s.noHalf r with iface.pwBusy := store s.iface.pwBusy w (v % 2 ^ 31, r) } := by
  simp [State.pwWrite, h4, hslow, ha, hout, hfree, hgate]

/-- A value in flight lands in its register, and BUSY falls (R56). -/
theorem State.pwLanded_flight {s : State} {r : Requester} {w v : Nat} (hflight : look s.iface.pwBusy w = some (v, r))
    (hv : v < 2 ^ 32) (hout : s.blockOut w true = false) :
    s.pwLanded w = ({ s with iface.pwBusy := drop s.iface.pwBusy w }).writeFields r (fieldsOf w) w 31 v := by
  have hlands : ¬ (v ≥ 2 ^ 32 ∨ s.blockOut w true = true) := by simp only [hout, Bool.false_eq_true, or_false]; omega
  simp only [State.pwLanded, hflight, if_neg hlands]

/-- With none in flight nothing lands (R57). -/
theorem State.pwLanded_none {s : State} {w : Nat} (h : look s.iface.pwBusy w = none) : s.pwLanded w = s := by
  simp only [State.pwLanded, h]

/-- PW_WRITE of a requester that reaches the slow window and that its checker admits. -/
theorem exec_pwWrite_allow {s : State} {r : Requester} {off v : Nat}
    (hhost : reqIsHost r = true → s.hostThere r.sub = true ∧ r.sub = 0) (hj : s.judge r .write (0x30000000 + off) = .allow) :
    exec (.pwWrite r off v) s = .next (s.pwWrite r off v) := by
  have hreach : ¬ (reqIsHost r = true ∧ ((!s.hostThere r.sub) = true ∨ r.sub ≠ 0)) := by
    rintro ⟨hr, hno⟩
    obtain ⟨hthere, hsub⟩ := hhost hr
    rcases hno with hno | hno
    · simp [hthere] at hno
    · exact hno hsub
  show execPwWrite r off v s = _
  rw [execPwWrite, if_neg hreach, checkPart_allow hj]

/-- PW_WRITE_LANDED is the landing. -/
theorem exec_pwWriteLanded (off : Nat) (s : State) : exec (.pwWriteLanded off) s = .next (s.pwLanded off) := rfl

/-- Settles O35: BUSY decides what a posted write does, and what lands. -/
theorem postedWrites : Obligations.PostedWrites := by
  intro s r off v t hhost hj h4 hslow ha hout
  rw [exec_pwWrite_allow hhost hj, exec_pwWriteLanded]
  exact ⟨fun hfree hgate => congrArg _ (State.pwWrite_free h4 hslow ha hout hfree hgate),
    fun hbusy => congrArg _ (State.pwWrite_busy h4 hslow ha hout hbusy),
    fun hflight hv => congrArg _ (State.pwLanded_flight hflight hv hout), fun hfree => congrArg _ (State.pwLanded_none hfree)⟩

end Sys2Proof.Machine
end

section
/-! SUPPORT and SETTLED. The header registers of a block: QUIESCE and QUIESCED (R55), and commits of a block with one group (R60, R61). -/

namespace Sys2Proof.Machine

/-! ### The common header -/

/-- The first 64 bytes of a block are its own, in the slow window (Table GI.6). -/
theorem blockOf_header {base o : Nat} (hb : base ∈ blockBases) (ho : o < 0x40) : blockOf (base + o) = base ∧ isSlow (base + o) = true := by
  simp only [blockBases, List.mem_cons, List.not_mem_nil, or_false] at hb
  constructor
  · unfold blockOf
    dsimp only
    split <;> omega
  · simp only [isSlow, Bool.and_eq_true, decide_eq_true_eq]
    omega

/-- The registers of the header stand at each block. -/
theorem rowsAt_header {base o : Nat} (hb : base ∈ blockBases) (ho : o < 0x40) :
    rowsAt (base + o) = headerRows.filterMap (headerAt base (base + o)) := by
  obtain ⟨hblock, hslow⟩ := blockOf_header hb ho
  rw [rowsAt, hblock, if_pos ⟨hslow, by omega⟩]

/-- The shape of the header's rows: each stands once, within the header, in the first word. -/
theorem headerRows_shape : ∀ row ∈ headerRows, row.count ≤ 1 ∧ row.fld.off < 0x40 ∧ row.fld.lsb < 32 ∧ 0 < row.fld.width := by decide

/-- Each of the header's fields has bits in its word. -/
theorem header_mem_fieldsOf {base : Nat} {row : Row} (hb : base ∈ blockBases) (hrow : row ∈ headerRows) :
    ∃ f, f.off = base + row.fld.off ∧ (row, f) ∈ fieldsOf (base + row.fld.off) := by
  obtain ⟨hcount, hoff, hlsb, hwidth⟩ := headerRows_shape row hrow
  let f : Fld := { row.fld with
    off := base + row.fld.off
    cold := if row.fld.off = 0 ∧ row.fld.lsb = 0 then blockCode base else row.fld.cold }
  have hat : headerAt base (base + row.fld.off) row = some (row, f) := by
    simp [headerAt, Row.at, hcount, f]
  have hmem : (row, f) ∈ rowsAt (base + row.fld.off) := by
    rw [rowsAt_header hb hoff]
    exact List.mem_filterMap.2 ⟨row, hrow, hat⟩
  have hword : inWord (base + row.fld.off) f = true := by simp [inWord, f]; omega
  exact ⟨f, rfl, List.mem_filter.2 ⟨List.mem_append_left _ (List.mem_append_left _ hmem), hword⟩⟩

/-- Who writes a block's fields as the pairs do writes those of its header. -/
theorem writesAt_header {r : Requester} {base o : Nat} (hb : base ∈ blockBases) (ho : o < 0x40) :
    writesAt r (base + o) = writesAt r base := by
  simp only [blockBases, List.mem_cons, List.not_mem_nil, or_false] at hb
  have hset : (0x70000 ≤ base + o ∧ base + o < 0x90000) ↔ (0x70000 ≤ base ∧ base < 0x90000) := by omega
  simp only [writesAt, hset]

/-- A pair's write to a header register that the pairs write passes (R53); QENG_COMMIT has rights of its own (R294). -/
theorem writeGate_header {r : Requester} {base : Nat} {row : Row} (hb : base ∈ blockBases) (hrow : row ∈ headerRows)
    (hacc : row.acc ≠ .ro) (hwriter : row.writer = .pairs) (hr : writesAt r base = true) (hqeng : base + row.fld.off ≠ 0x5000C) :
    writeGate r (fieldsOf (base + row.fld.off)) = .pass := by
  obtain ⟨f, hoff, hmem⟩ := header_mem_fieldsOf hb hrow
  obtain ⟨-, hsmall, -, -⟩ := headerRows_shape row hrow
  have hack : base + row.fld.off ≠ 0x50140 := by
    simp only [blockBases, List.mem_cons, List.not_mem_nil, or_false] at hb
    omega
  refine writeGate_pass hmem ?_
  simp [fieldOpen, hoff, hqeng, hack, hacc, mayWrite, hwriter, writesAt_header hb hsmall, hr]

/-! ### QUIESCE -/

/-- A write to _CTRL is one of its masked bits. -/
theorem State.writeSlow_ctrl {s : State} {r : Requester} {base v : Nat} (hb : base ∈ blockBases) :
    s.writeSlow r (base + 4) v = s.writeCtrl r base v := by
  obtain ⟨hblock, -⟩ := blockOf_header hb (o := 4) (by decide)
  rw [State.writeSlow, hblock]
  exact if_pos rfl

/-- A masked write of bit 0 alone writes that bit, and not bit 1 (Table SC.6). -/
theorem masked_maskedValue (on : Bool) : masked (maskedValue 0 on % 2 ^ 32) 0 = some on ∧ masked (maskedValue 0 on % 2 ^ 32) 1 = none := by
  cases on <;> decide

/-- The masked bit 0 of _CTRL is QUIESCE (Table GI.6). -/
theorem State.writeCtrl_quiesce (s : State) (r : Requester) (base : Nat) (on : Bool) :
    s.writeCtrl r base (maskedValue 0 on % 2 ^ 32) = s.setQuiesce base on := by
  obtain ⟨hquiesce, hview⟩ := masked_maskedValue on
  simp only [State.writeCtrl, State.maskedBit, hquiesce, hview, if_true]

/-- QUIESCE by who writes the block as the pairs do, where it gets through (R55). -/
theorem exec_quiesce_pass {s : State} {r : Requester} {base : Nat} {on : Bool} (hb : base ∈ blockBases) (hr : writesAt r base = true)
    (h : s.writes32 r (base + 4)) : exec (.quiesce r base on) s = .next ((s.noHalf r).setQuiesce base on) := by
  have hqeng : base + 4 ≠ 0x5000C := by
    simp only [blockBases, List.mem_cons, List.not_mem_nil, or_false] at hb
    omega
  have hgate : writeGate r (fieldsOf (base + 4)) = .pass :=
    writeGate_header (row := ⟨R.hdrCtrlQuiesce 0, .rwm, .live, .value, 1, 0, .pairs⟩) hb (by decide) (by decide) rfl hr hqeng
  show Host.Outcome.next (s.write r (base + 4) 4 (maskedValue 0 on) true) = _
  rw [h.slow hgate, State.writeSlow_ctrl hb, State.writeCtrl_quiesce]

/-- QUIESCED rises where QUIESCE is set and the block answers (R55). -/
theorem State.quiescedNow_eq {s : State} {base : Nat} (hb : base ∈ blockBases) (hout : s.blockOut base true = false) :
    s.quiescedNow base = if s.get (R.hdrCtrlQuiesce base) = 1 then s.put (R.hdrStateQuiesced base) 1 else s := by
  simp [State.quiescedNow, hb, hout, State.is]

/-- It stands where QUIESCE is clear. -/
theorem State.quiescedNow_clear {s : State} {base : Nat} (h : s.get (R.hdrCtrlQuiesce base) = 0) : s.quiescedNow base = s := by
  simp [State.quiescedNow, State.is, h]

/-- QUIESCED raises QUIESCED, and in the queue engine a waiting change goes on. -/
theorem exec_quiesced (base : Nat) (s : State) :
    exec (.quiesced base) s = .next (if base = 0x50000 ∧ s.life.updating.isSome ∧ !s.blockOut base true
      then (s.quiescedNow base).runChange.pump else s.quiescedNow base) := rfl

/-- QUIESCED of a block that no change waits for (R55). -/
theorem exec_quiesced_plain {s : State} {base : Nat} (h : base ≠ 0x50000 ∨ s.life.updating = none) :
    exec (.quiesced base) s = .next (s.quiescedNow base) := by
  have hnone : ¬ (base = 0x50000 ∧ s.life.updating.isSome = true ∧ (!s.blockOut base true) = true) := by
    rintro ⟨hbase, hwaits, -⟩
    rcases h with h | h
    · exact h hbase
    · simp [h] at hwaits
  rw [exec_quiesced, if_neg hnone]

/-- QUIESCED of the queues while a live update or a transition waits for it (Table KH.7 step 6, Table LC.4 step 4). -/
theorem exec_quiesced_change {s : State} {base : Nat} (hbase : base = 0x50000) (h : s.life.updating ≠ none)
    (hout : s.blockOut base true = false) : exec (.quiesced base) s = .next (s.quiescedNow base).runChange.pump := by
  rw [exec_quiesced, if_pos ⟨hbase, Option.isSome_iff_ne_none.2 h, by rw [hout]; rfl⟩]

/-- QUIESCE set; QENG's closes the store's open batch (R55, R124). -/
theorem State.setQuiesce_set (s : State) (base : Nat) : s.setQuiesce base true =
    let u := s.put (R.hdrCtrlQuiesce base) 1
    if base = 0x50000 then u.closeBatch else u := by
  simp only [State.setQuiesce, State.putB, ofBool, if_true]

/-- QUIESCE cleared: QUIESCED falls with it, and work held back goes on (R55). -/
theorem State.setQuiesce_clear (s : State) (base : Nat) : s.setQuiesce base false =
    let u := (s.put (R.hdrCtrlQuiesce base) 0).put (R.hdrStateQuiesced base) 0
    (if base = 0xF0000 then u.sendAllQueued else u).onward := by
  simp only [State.setQuiesce, State.putB, ofBool, Bool.false_eq_true, if_false]

/-- Settles O36: the masked write sets or clears QUIESCE, and QUIESCED follows at the boundary. -/
theorem blockControl : Obligations.BlockControl := by
  intro s r base hb hr t
  refine ⟨fun h => ?_, fun h => ?_, fun hplain => ⟨fun hset hout => ?_, fun hclear => ?_⟩, fun hwaits hout => ?_⟩
  · rw [exec_quiesce_pass hb hr h, State.setQuiesce_set]
  · rw [exec_quiesce_pass hb hr h, State.setQuiesce_clear]
  · rw [exec_quiesced_plain hplain, State.quiescedNow_eq hb hout, if_pos hset]
  · rw [exec_quiesced_plain hplain, State.quiescedNow_clear hclear]
  · rw [exec_quiesced_change rfl hwaits hout, State.quiescedNow_eq (by decide) hout]

/-! ### Commits -/

/-- Who writes as the pairs do is not the PF. -/
theorem pfWriter_of_writesAt {r : Requester} {w : Nat} (h : writesAt r w = true) : pfWriter r = false := by
  have hmaster : r.master = 1 ∨ r.master = 2 ∨ r.master = 0x7F := by
    unfold writesAt at h
    split at h
    · simp only [reqIsPair, Bool.or_eq_true, beq_iff_eq] at h; omega
    · simp only [custodyWriter, reqIsPair, Bool.or_eq_true, beq_iff_eq] at h; omega
  rcases hmaster with h | h | h <;> simp [pfWriter, h]

/-- A write to _COMMIT is a request of its groups (Table GI.6). -/
theorem State.writeSlow_commit {s : State} {r : Requester} {base v : Nat} (hb : base ∈ blockBases) (hr : writesAt r base = true) :
    s.writeSlow r (base + 0xC) v = s.requestCommit base v := by
  obtain ⟨hblock, -⟩ := blockOf_header hb (o := 0xC) (by decide)
  rw [State.writeSlow, hblock]
  simp [pfWriter_of_writesAt hr]

/-- A request of group 0 of a block that has it alone (R61). -/
theorem State.requestCommit_one {s : State} {base : Nat} (hg : groupsOf base = [0]) : s.requestCommit base 1 = s.requestGroup base 0 := by
  rw [State.requestCommit, hg]
  rfl

/-- A pending group is left (R61). -/
theorem State.requestGroup_pending {s : State} {base g : Nat} (h : bitOf (s.get (R.hdrCommitPending base)) g = true) :
    s.requestGroup base g = s := if_pos h

/-- A group of a block without rules becomes pending (R60), unless Compass is ABSENT. -/
theorem State.requestGroup_rises {s : State} {base g : Nat} (h : bitOf (s.get (R.hdrCommitPending base)) g = false)
    (hc : base ≠ 0xC0000) (hc8 : base ≠ 0xC8000) (hcompass : base = 0x40000 → s.get R.compassStatusState ≠ 0) :
    s.requestGroup base g = s.putBit (R.hdrCommitPending base) g true := by
  have hlater : ¬ (base = 0x40000 ∧ (s.putBit (R.hdrCommitPending base) g true).get R.compassStatusState = 0) := by
    rintro ⟨rfl, habsent⟩
    rw [State.get_putBit_ne _ _ _ _ _ (by decide)] at habsent
    exact hcompass rfl habsent
  rw [State.requestGroup, h, if_neg Bool.false_ne_true, if_neg hc, if_neg hc8]
  exact if_neg hlater

/-- COMMIT_REQUEST by who writes the block as the pairs do, where it gets through (R60). -/
theorem exec_commitRequest_pass {s : State} {r : Requester} {base : Nat} (hb : base ∈ blockBases) (hqeng : base ≠ 0x50000)
    (hg : groupsOf base = [0]) (hr : writesAt r base = true) (h : s.writes32 r (base + 0xC)) :
    exec (.commitRequest r base 1) s = .next ((s.noHalf r).requestGroup base 0) := by
  have hgate : writeGate r (fieldsOf (base + 0xC)) = .pass :=
    writeGate_header (row := ⟨R.hdrCommitRequest 0, .wo, .live, .value, 1, 0, .pairs⟩) hb (by decide) (by decide) rfl hr
      (fun he => hqeng (Nat.add_right_cancel he))
  show Host.Outcome.next (s.write r (base + 0xC) 4 1 true) = _
  rw [h.slow hgate, State.writeSlow_commit hb hr, Nat.mod_eq_of_lt (by decide), State.requestCommit_one hg]

/-- Group 0 applies at the block's boundary: shadows in range become active (R60). -/
theorem State.applyGroup_applied {s : State} {base : Nat} (hp : bitOf (s.get (R.hdrCommitPending base)) 0 = true)
    (hrange : s.outOfRange base = false) :
    s.applyGroup base = (let u := (s.applyShadows (inBlock base)).commitResult base 0 1 0
      if base = 0x40000 then u.restartRun else u) := by
  rw [State.applyGroup, hp, if_neg (by decide), hrange, if_neg Bool.false_ne_true]

/-- A cluster or lane that is at its boundary applies; the commit is applied with the last of them (Table GI.7). -/
theorem State.applyPart_some {s : State} {base : Nat} {here : Nat → Bool} (hp : bitOf (s.get (R.hdrCommitPending base)) 0 = true)
    (hrange : s.outOfRange base = false) :
    s.applyPart base here = (
      let all := List.range (if base = 0x70000 then 16 else 8)
      let u := (all.filter (fun n => here n && !(s.takers base).contains n)).foldl (fun t n => t.setTook base n true) s
      if (u.takers base).length = all.length then
        ((all.foldl (fun t n => t.setTook base n false) u).applyShadows (inBlock base)).commitResult base 0 1 0
      else u) := by
  rw [State.applyPart, hp, if_neg (by decide), hrange, if_neg Bool.false_ne_true]

/-- The boundary of a block with one group: in the PKE and the SKE each cluster or lane has its own (Table GI.7). -/
theorem State.commitBoundary_one {s : State} {base : Nat} (hg : groupsOf base = [0]) (hqeng : base ≠ 0x50000) (hc : base ≠ 0xC0000)
    (hc8 : base ≠ 0xC8000) :
    s.commitBoundary base
      = if base = 0x70000 ∨ base = 0x80000 then s.applyPart base (s.atBoundary base) else s.applyGroup base := by
  simp [State.commitBoundary, hqeng, hc, hc8, hg]

/-- With no commit pending the boundary changes nothing. -/
theorem State.commitBoundary_idle {s : State} {base : Nat} (hg : groupsOf base = [0]) (hqeng : base ≠ 0x50000) (hc : base ≠ 0xC0000)
    (hc8 : base ≠ 0xC8000) (hp : bitOf (s.get (R.hdrCommitPending base)) 0 = false) : s.commitBoundary base = s := by
  rw [State.commitBoundary_one hg hqeng hc hc8]
  simp [State.applyPart, State.applyGroup, hp]

/-- A shadow out of range refuses the commit whole (R60). -/
theorem State.commitBoundary_refused {s : State} {base : Nat} (hg : groupsOf base = [0]) (hqeng : base ≠ 0x50000) (hc : base ≠ 0xC0000)
    (hc8 : base ≠ 0xC8000) (hp : bitOf (s.get (R.hdrCommitPending base)) 0 = true) (hrange : s.outOfRange base = true) :
    s.commitBoundary base = s.commitResult base 0 2 1 := by
  rw [State.commitBoundary_one hg hqeng hc hc8]
  simp [State.applyPart, State.applyGroup, hp, hrange]

/-- COMMIT_APPLY of a block without rules that answers (R60). -/
theorem exec_commitApply_answers {s : State} {base : Nat} (hc : base ≠ 0xC0000) (hc8 : base ≠ 0xC8000)
    (hout : s.blockOut base true = false) : exec (.commitApply base) s = .next (s.commitBoundary base).onward := by
  show Host.Outcome.next (s.commitApply base) = _
  rw [State.commitApply, if_neg hc, if_neg hc8, hout, if_neg Bool.false_ne_true]

/-- Settles O37: the request makes group 0 pending, and the boundary applies or refuses it. -/
theorem commits : Obligations.Commits := by
  intro s r base hmem t pending all
  obtain ⟨hb, hg, hqeng, hc, hc8⟩ : base ∈ blockBases ∧ groupsOf base = [0] ∧ base ≠ 0x50000 ∧ base ≠ 0xC0000 ∧ base ≠ 0xC8000 :=
    (by decide : ∀ b ∈ [0x40000, 0x70000, 0x80000, 0x90000, 0xA0000, 0xB0000],
      b ∈ blockBases ∧ groupsOf b = [0] ∧ b ≠ 0x50000 ∧ b ≠ 0xC0000 ∧ b ≠ 0xC8000) base hmem
  refine ⟨fun h hr hp hcompass => ?_, fun h hr hp => ?_, fun hp hout hrange => ⟨fun hpke hske => ?_, ?_⟩, fun hp hout hrange => ?_,
    fun hp hout => ?_⟩
  · rw [exec_commitRequest_pass hb hqeng hg hr h, State.requestGroup_rises (s := s.noHalf r) hp hc hc8 hcompass]
  · rw [exec_commitRequest_pass hb hqeng hg hr h, State.requestGroup_pending (s := s.noHalf r) hp]
  · rw [exec_commitApply_answers hc hc8 hout, State.commitBoundary_one hg hqeng hc hc8, if_neg (by simp [hpke, hske]),
      State.applyGroup_applied hp hrange]
  · rintro u hengine rfl
    rw [exec_commitApply_answers hc hc8 hout, State.commitBoundary_one hg hqeng hc hc8, if_pos hengine, State.applyPart_some hp hrange]
    exact ⟨fun hall => congrArg _ (congrArg _ (if_pos hall)), fun hsome => congrArg _ (congrArg _ (if_neg hsome))⟩
  · rw [exec_commitApply_answers hc hc8 hout, State.commitBoundary_refused hg hqeng hc hc8 hp hrange]
  · rw [exec_commitApply_answers hc hc8 hout, State.commitBoundary_idle hg hqeng hc hc8 hp]

end Sys2Proof.Machine
end

section
/-! SUPPORT and SETTLED. Doorbells, polls and the headers of queues (R39, R49, R277, R278, R282). -/

namespace Sys2Proof.Machine

/-! ### Asking for a header -/

/-- The header of an enabled SQ is read, once more after a read under way (R49). -/
theorem State.askSqHeader_enabled {s : State} {n : Nat} {q : Sq} (hq : look s.host.sqs n = some q)
    (hst : s.get (R.qengSqStateState n) = 1) (hqeng : s.pwr.parts.qeng = false) :
    s.askSqHeader n = if q.headerRead then { s with host.sqs := store s.host.sqs n { q with headerAgain := true } }
      else ({ s with host.sqs := store s.host.sqs n { q with headerRead := true } } : State).emit (.headerRead false n) := by
  have hreads : ¬ (s.get (R.qengSqStateState n) ≠ 1 ∨ s.pwr.parts.qeng = true) := by simp [hst, hqeng]
  simp only [State.askSqHeader, hq, if_neg hreads]

/-- An absent queue engine reads no SQ header (R39). -/
theorem State.askSqHeader_absent {s : State} (n : Nat) (hqeng : s.pwr.parts.qeng = true) : s.askSqHeader n = s := by
  unfold State.askSqHeader
  split
  · rfl
  · exact if_pos (.inr hqeng)

/-- A header of an enabled CQ is read, and what was read is looked at. -/
theorem State.cqHeader_enabled {s : State} {n : Nat} (hst : s.get (R.qengCqStateState n) = 1) (hqeng : s.pwr.parts.qeng = false) :
    ¬ (s.get (R.qengCqStateState n) ≠ 1 ∨ s.pwr.parts.qeng = true) := by
  simp [hst, hqeng]

/-- The header of an enabled CQ is read, once more after a read under way (R49). -/
theorem State.askCqHeader_enabled {s : State} {n : Nat} {c : Cq} (hc : look s.host.cqs n = some c)
    (hst : s.get (R.qengCqStateState n) = 1) (hqeng : s.pwr.parts.qeng = false) :
    s.askCqHeader n = if c.headerRead then { s with host.cqs := store s.host.cqs n { c with headerAgain := true } }
      else ({ s with host.cqs := store s.host.cqs n { c with headerRead := true } } : State).emit (.headerRead true n) := by
  simp only [State.askCqHeader, hc, if_neg (State.cqHeader_enabled hst hqeng)]

/-- An absent queue engine reads no CQ header (R39). -/
theorem State.askCqHeader_absent {s : State} (n : Nat) (hqeng : s.pwr.parts.qeng = true) : s.askCqHeader n = s := by
  unfold State.askCqHeader
  split
  · rfl
  · exact if_pos (.inr hqeng)

/-! ### Doorbells and polls -/

/-- A function that reaches the device rings an SQ doorbell of its BAR; what its last half access left goes (R43, R49). -/
theorem exec_sqDoorbell_near {s : State} {fn idx : Nat}
    (h : s.hostThere fn = true ∧ idx < (if fn = 0 then 1024 else 256)) :
    exec (.sqDoorbell fn idx) s = .next ((s.noHalf ⟨0x50, fn⟩).sqDoorbell ⟨0x50, fn⟩ fn idx) := by
  show execSqDoorbell fn idx s = _
  rw [execSqDoorbell, if_pos h]

/-- It rings a CQ doorbell of its BAR so. -/
theorem exec_cqDoorbell_near {s : State} {fn idx : Nat}
    (h : s.hostThere fn = true ∧ idx < (if fn = 0 then 1024 else 256)) :
    exec (.cqDoorbell fn idx) s = .next ((s.noHalf ⟨0x50, fn⟩).cqDoorbell ⟨0x50, fn⟩ fn idx) := by
  show execCqDoorbell fn idx s = _
  rw [execCqDoorbell, if_pos h]

/-- The doorbell of the function's own SQ asks for its header (R49). -/
theorem State.sqDoorbell_own {s : State} {r : Requester} {fn idx n : Nat} (h : sqOf s fn idx = some n) :
    s.sqDoorbell r fn idx = s.askSqHeader n := by
  simp only [State.sqDoorbell, h]

/-- The doorbell of an SQ that is not the function's is recorded (R49). -/
theorem State.sqDoorbell_foreign {s : State} {r : Requester} {fn idx : Nat} (h : sqOf s fn idx = none) :
    s.sqDoorbell r fn idx = s.accessErr r 7 (4 * idx) true := by
  simp only [State.sqDoorbell, h]

/-- The doorbell of the function's own CQ asks for its header (R49, R282). -/
theorem State.cqDoorbell_own {s : State} {r : Requester} {fn idx n : Nat} (h : cqOf s fn idx = some n) :
    s.cqDoorbell r fn idx = s.askCqHeader n := by
  simp only [State.cqDoorbell, h]

/-- The doorbell of a CQ that is not the function's is recorded (R49). -/
theorem State.cqDoorbell_foreign {s : State} {r : Requester} {fn idx : Nat} (h : cqOf s fn idx = none) :
    s.cqDoorbell r fn idx = s.accessErr r 7 ((if fn = 0 then 0x2000 else 0x1000) + 4 * idx) true := by
  simp only [State.cqDoorbell, h]

/-- A poll of an SQ in a poll mode has the effect of a doorbell (R278). -/
theorem exec_sqPollTick_polls {s : State} {n : Nat} {q : Sq} (hq : look s.host.sqs n = some q) (hp : q.desc.pollMode ≠ 0) :
    exec (.sqPollTick n) s = .next (s.askSqHeader n) := by
  show execSqPollTick n s = _
  simp only [execSqPollTick, hq, if_neg hp]

/-! ### The header that was read -/

/-- The SQ with no header read under way. -/
def Sq.unread (q : Sq) : Sq := { q with headerRead := false, headerAgain := false }
/-- The CQ with no header read under way. -/
def Cq.unread (c : Cq) : Cq := { c with headerRead := false, headerAgain := false }

/-- A header read of an SQ that the device has asked for is looked at. -/
theorem State.sqHeader_awaited {s : State} {n : Nat} {q : Sq} (hst : s.get (R.qengSqStateState n) = 1)
    (hqeng : s.pwr.parts.qeng = false) (hread : q.headerRead = true) :
    ¬ ((!q.headerRead) = true ∨ s.get (R.qengSqStateState n) ≠ 1 ∨ s.pwr.parts.qeng = true) := by
  simp [hst, hqeng, hread]

section
variable {s : State} {n : Nat} {q : Sq} (hq : look s.host.sqs n = some q) (hst : s.get (R.qengSqStateState n) = 1)
  (hqeng : s.pwr.parts.qeng = false) (hread : q.headerRead = true)
include hq hst hqeng hread

/-- A producer index in range is taken, and entries are fetched (R278, R279). -/
theorem State.sqHeaderRead_inRange {v : Nat} (hv : ringDist q.cons (v % 2 ^ 32) ≤ 2 ^ q.desc.log2) :
    s.sqHeaderRead n (.index v) =
      let w := ({ s with host.sqs := store (store s.host.sqs n q.unread) n { q.unread with prod := v % 2 ^ 32 } } : State).prefetch n 64
      if q.headerAgain then w.askSqHeader n else w := by
  simp only [State.sqHeaderRead, hq, if_neg (State.sqHeader_awaited hst hqeng hread), if_neg (Nat.not_lt.2 hv)]
  rfl

/-- One out of range puts the queue in ERROR (R278). -/
theorem State.sqHeaderRead_outOfRange {v : Nat} (hv : 2 ^ q.desc.log2 < ringDist q.cons (v % 2 ^ 32)) :
    s.sqHeaderRead n (.index v) = ({ s with host.sqs := store s.host.sqs n q.unread } : State).queueError false n 2 := by
  simp only [State.sqHeaderRead, hq, if_neg (State.sqHeader_awaited hst hqeng hread), if_pos hv]
  rfl

/-- So does a read that fails (R278). -/
theorem State.sqHeaderRead_failed :
    s.sqHeaderRead n .failed = ({ s with host.sqs := store s.host.sqs n q.unread } : State).queueError false n 1 := by
  simp only [State.sqHeaderRead, hq, if_neg (State.sqHeader_awaited hst hqeng hread)]
  rfl

end

section
variable {s : State} {n : Nat} {c : Cq} (hc : look s.host.cqs n = some c) (hst : s.get (R.qengCqStateState n) = 1)
  (hqeng : s.pwr.parts.qeng = false)
include hc hst hqeng

/-- A consumer index in range gives room to the completions that wait (R282). -/
theorem State.cqHeaderRead_inRange {v : Nat} (hv : ringDist (v % 2 ^ 32) c.prod ≤ 2 ^ c.desc.log2) :
    s.cqHeaderRead n (.index v) =
      let w := (({ s with host.cqs := store s.host.cqs n { c.unread with cons := v % 2 ^ 32 } } : State).cqHeld n).cqDrain n c.held.length
      if c.headerAgain then w.askCqHeader n else w := by
  simp only [State.cqHeaderRead, hc, if_neg (State.cqHeader_enabled hst hqeng), if_neg (Nat.not_lt.2 hv)]
  rfl

/-- One out of range puts the queue in ERROR. -/
theorem State.cqHeaderRead_outOfRange {v : Nat} (hv : 2 ^ c.desc.log2 < ringDist (v % 2 ^ 32) c.prod) :
    s.cqHeaderRead n (.index v) = ({ s with host.cqs := store s.host.cqs n c.unread } : State).cqError n 2 := by
  simp only [State.cqHeaderRead, hc, if_neg (State.cqHeader_enabled hst hqeng), if_pos hv]
  rfl

/-- So does a read that fails. -/
theorem State.cqHeaderRead_failed :
    s.cqHeaderRead n .failed = ({ s with host.cqs := store s.host.cqs n c.unread } : State).cqError n 1 := by
  simp only [State.cqHeaderRead, hc, if_neg (State.cqHeader_enabled hst hqeng)]
  rfl

end

/-- SQ_HEADER_READ is the end of the header's read. -/
theorem exec_sqHeaderRead (n : Nat) (r : HeaderRead) (s : State) : exec (.sqHeaderRead n r) s = .next (s.sqHeaderRead n r) := rfl

/-- CQ_ROOM_POLL is the end of the header's read. -/
theorem exec_cqRoomPoll (n : Nat) (r : HeaderRead) (s : State) : exec (.cqRoomPoll n r) s = .next (s.cqHeaderRead n r) := rfl

/-- Settles O45, clause by clause: the doorbells and the poll ask for a header, and what was read decides the rest. -/
theorem queueHeaders : Obligations.QueueHeaders := by
  intro s n fn idx v q c x askSq askCq calm calmC withSq withCq near sqUp cqUp
  refine ⟨fun hnear hof ⟨hq, hst, hqeng⟩ => ?_, fun hnear hof => ?_, fun hnear hof ⟨hc, hst, hqeng⟩ => ?_, fun hnear hof => ?_,
    fun hnear hqeng => ⟨fun hof => ?_, fun hof => ?_⟩, fun ⟨hq, hst, hqeng⟩ hp => ?_,
    fun ⟨hq, hst, hqeng⟩ hread => ⟨fun hv => ?_, fun hv => ?_, ?_⟩, fun ⟨hc, hst, hqeng⟩ hv => ?_, fun ⟨hc, hst, hqeng⟩ hv => ?_,
    fun ⟨hc, hst, hqeng⟩ => ?_⟩
  · rw [exec_sqDoorbell_near hnear, State.sqDoorbell_own (s := s.noHalf ⟨0x50, fn⟩) hof]
    exact congrArg _ (State.askSqHeader_enabled (s := x) hq hst hqeng)
  · rw [exec_sqDoorbell_near hnear, State.sqDoorbell_foreign (s := s.noHalf ⟨0x50, fn⟩) hof]
  · rw [exec_cqDoorbell_near hnear, State.cqDoorbell_own (s := s.noHalf ⟨0x50, fn⟩) hof]
    exact congrArg _ (State.askCqHeader_enabled (s := x) hc hst hqeng)
  · rw [exec_cqDoorbell_near hnear, State.cqDoorbell_foreign (s := s.noHalf ⟨0x50, fn⟩) hof]
  · rw [exec_sqDoorbell_near hnear, State.sqDoorbell_own (s := s.noHalf ⟨0x50, fn⟩) hof,
      State.askSqHeader_absent (s := s.noHalf ⟨0x50, fn⟩) n hqeng]
  · rw [exec_cqDoorbell_near hnear, State.cqDoorbell_own (s := s.noHalf ⟨0x50, fn⟩) hof,
      State.askCqHeader_absent (s := s.noHalf ⟨0x50, fn⟩) n hqeng]
  · rw [exec_sqPollTick_polls hq hp]
    exact congrArg _ (State.askSqHeader_enabled hq hst hqeng)
  · rw [exec_sqHeaderRead, State.sqHeaderRead_inRange hq hst hqeng hread hv]
    rfl
  · rw [exec_sqHeaderRead, State.sqHeaderRead_outOfRange hq hst hqeng hread hv]
    rfl
  · rw [exec_sqHeaderRead, State.sqHeaderRead_failed hq hst hqeng hread]
    rfl
  · rw [exec_cqRoomPoll, State.cqHeaderRead_inRange hc hst hqeng hv]
    rfl
  · rw [exec_cqRoomPoll, State.cqHeaderRead_outOfRange hc hst hqeng hv]
    rfl
  · rw [exec_cqRoomPoll, State.cqHeaderRead_failed hc hst hqeng]
    rfl

end Sys2Proof.Machine
end

section
/-! SUPPORT and SETTLED. Faults that escalate, the ends of resets, the loss of power, and starts (R64, R66, R342, R375, R376, R378, R411,
R454, R470). -/

namespace Sys2Proof.Machine

/-! ### Escalation (R375) -/

/-- The timer of an open HARD slot that runs reports its fault again as SEVERE (R375). -/
theorem exec_hardEscalation_open {s : State} {i : Nat} {r : FaultRec} (hi : i < 16) (hopen : bitOf (s.get R.faultHardOpen) i = true)
    (hruns : s.timersRun = true) (hr : look s.fault.hard i = some r) :
    exec (.hardEscalation i) s
      = .next (((s.closeHard i).incSat R.faultCountCEscalated).severe { r with cls := 4, escalated := true }) := by
  show Host.Outcome.next (s.escalate i) = _
  rw [State.escalate, if_pos ⟨hi, hopen, hruns⟩, hr]
  rfl

/-! ### The ends of a cluster's reset (R168, R207, R376) -/

/-- The state in which cluster `c` is out of reset. -/
def State.clusterOpen (s : State) (c : Nat) : State := { s with pwr.clusterReset := setBit s.pwr.clusterReset c false }

/-- CLUSTER_RESET_END is the cluster's return, and then whatever waited. -/
theorem exec_clusterResetEnd (c : Nat) (s : State) (kat4 kat5 : Bool) :
    exec (.clusterResetEnd c kat4 kat5) s = .next (s.clusterBack c kat4 kat5).onward := rfl

/-- A cluster that is not in reset does not come back. -/
theorem State.clusterBack_none {s : State} {c : Nat} {kat4 kat5 : Bool} (h : bitOf s.pwr.clusterReset c = false) :
    s.clusterBack c kat4 kat5 = s := by
  rw [State.clusterBack, h]
  exact if_pos rfl

section
variable {s : State} {c : Nat} {kat4 kat5 : Bool} (hreset : bitOf s.pwr.clusterReset c = true)
include hreset

/-- A PKE cluster that is being wiped comes back QUARANTINED (R168). -/
theorem State.clusterBack_wiped (hc : c < 16) (hst : s.clusterState c = 5) :
    s.clusterBack c kat4 kat5 =
      let u := (s.clusterOpen c).endWipe c
      ((u.setCluster c { u.cluster c with quarAt := (s.compass.mc :: (u.cluster c).quarAt).take 3 }).setClusterState c 6).settleGate c := by
  have hst' : ({ s with pwr.clusterReset := setBit s.pwr.clusterReset c false } : State).clusterState c = 5 := hst
  rw [State.clusterBack, hreset, if_neg (by decide)]
  simp only [if_pos (Nat.le_of_lt_succ hc), if_pos hst']
  rfl

/-- Another PKE cluster is out of reset (R376). -/
theorem State.clusterBack_pke (hc : c < 16) (hst : s.clusterState c ≠ 5) : s.clusterBack c kat4 kat5 = s.clusterOpen c := by
  have hst' : ({ s with pwr.clusterReset := setBit s.pwr.clusterReset c false } : State).clusterState c ≠ 5 := hst
  rw [State.clusterBack, hreset, if_neg (by decide)]
  simp only [if_pos (Nat.le_of_lt_succ hc), if_neg hst']
  rfl

/-- The SKE's lanes test themselves (R198). -/
theorem State.clusterBack_ske (hc : c = 16) : s.clusterBack c kat4 kat5 = (s.clusterOpen c).lanesBack := by
  subst hc
  rw [State.clusterBack, hreset, if_neg (by decide)]
  rfl

/-- The TRNG runs its known-answer tests (R207). -/
theorem State.clusterBack_trng (hc : c = 17) : s.clusterBack c kat4 kat5 = (s.clusterOpen c).katEnd kat4 kat5 := by
  subst hc
  rw [State.clusterBack, hreset, if_neg (by decide)]
  rfl

/-- A custody pair joins again (R376). -/
theorem State.clusterBack_pair (hc : 18 ≤ c) : s.clusterBack c kat4 kat5 = ((s.clusterOpen c).pairBack (c - 18)).showPairs := by
  rw [State.clusterBack, hreset, if_neg (by decide)]
  simp only [if_neg (show ¬ c ≤ 15 by omega), if_neg (show ¬ c = 16 by omega), if_neg (show ¬ c = 17 by omega)]
  rfl

end

/-- Pair A serves again where no fence holds it and the custody firmware is up. -/
theorem State.pairBack_a {s : State} (hfence : bitOf s.life.pairsFenced 0 = false) (hup : s.is R.devStatusCustodyUp = true) :
    s.pairBack 0 = { s.put R.mpcWorldStatusPairA 1 with worlds.missedA := false } := by
  simp [State.pairBack, hfence, hup]

/-- So does pair B. -/
theorem State.pairBack_b {s : State} (hfence : bitOf s.life.pairsFenced 1 = false) (hup : s.is R.devStatusCustodyUp = true) :
    s.pairBack 1 = { s.put R.mpcWorldStatusPairB 1 with worlds.missedB := false } := by
  simp [State.pairBack, hfence, hup]

/-! ### The ends of a region's reset (R64) -/

/-- The state in which region `g` is out of reset, its posted writes gone and its checkers active again (R57, R335). -/
def State.regionOpen (s : State) (g : Nat) : State :=
  (({ s with pwr.regionReset := setBit s.pwr.regionReset g false } : State).freePosted g).reloading g 3 0

/-- A region other than G5 that was in reset comes back, of a die that is not halted. -/
theorem exec_regionResetEnd_back {s : State} {g : Nat} {kat4 kat5 : Bool} (hreset : bitOf s.pwr.regionReset g = true)
    (hhalt : s.pwr.halted = false) (h7 : g ≤ 7) (h5 : g ≠ 5) :
    exec (.regionResetEnd g kat4 kat5) s = .next (if g = 4 then (s.regionOpen g).lanesBack.katEnd kat4 kat5
      else if g ≤ 3 then (s.regionOpen g).clustersBack g else s.regionOpen g).onward := by
  have hback : ¬ (g > 7 ∨ g = 5 ∨ (!bitOf s.pwr.regionReset g) = true ∨ s.pwr.halted = true) := by
    simp [hreset, hhalt, h5, h7]
  show Host.Outcome.next (s.regionBack g kat4 kat5).onward = _
  rw [State.regionBack, if_neg hback]
  rfl

/-! ### PORST_N, the scrub, and the loss of power (R378, R403, R454, R470) -/

section
variable {s : State}

/-- PORST_N resets a powered die M (R454). -/
theorem exec_porstNAssert_high (hmain : s.pwr.main = true) (hporst : s.pwr.porstN = true) :
    exec .porstNAssert s = .next s.baseReset := by
  show execPorstNAssert s = _
  rw [execPorstNAssert, if_pos ⟨hmain, hporst⟩]

/-- A scrub reports a word that the other bank repairs as SOFT (R470). -/
theorem exec_mramScrub_mended {bad : Nat} (hmain : s.pwr.main = true) (hporst : s.pwr.porstN = true) :
    exec (.mramScrub [(bad, true)]) s = .next (s.soft (locM 0xF 30 bad) 1 0) := by
  show execMramScrub [(bad, true)] s = _
  rw [execMramScrub, if_pos ⟨hmain, hporst⟩, List.foldl_cons, List.foldl_nil, if_pos rfl]

/-- It reports one that no bank repairs as HARD (R470). -/
theorem exec_mramScrub_lost {bad : Nat} (hmain : s.pwr.main = true) (hporst : s.pwr.porstN = true) :
    exec (.mramScrub [(bad, false)]) s = .next (s.hard (locM 0xF 30 bad) 1 0) := by
  show execMramScrub [(bad, false)] s = _
  rw [execMramScrub, if_pos ⟨hmain, hporst⟩, List.foldl_cons, List.foldl_nil, if_neg Bool.false_ne_true]

/-- Without main power die M is reset, and no halt lasts (R378). -/
def State.unpowered (s : State) : State :=
  { s.baseReset with
    pwr := { s.baseReset.pwr with
      main := false
      halted := false } }

/-- The loss of main power cuts a transition, and resets die M (R378, R403). -/
theorem exec_mainPowerLoss_powered {cut : Nat} (hmain : s.pwr.main = true) :
    exec (.mainPowerLoss cut) s = .next (s.cutTransition cut).unpowered := by
  show execMainPowerLoss s cut = _
  rw [execMainPowerLoss, if_pos hmain]
  rfl

/-- No transition is cut where none waits. -/
theorem State.cutTransition_none {cut : Nat} (h : s.life.updating = none) : s.cutTransition cut = s := by
  simp only [State.cutTransition, h]

/-- How far the burns of a transition had come (R403): not begun; the intent row; a row of its own torn; all of them. -/
theorem State.cutTransition_burns {cut cid a b : Nat} (h : s.life.updating = some (cid, .transition a b)) :
    s.cutTransition cut =
      let rows := (if b = 2 then s.fieldCfg else s).burnIntent a b
      if cut = 0 then s else if cut = 1 then s.burnIntent a b
      else if cut = 2 then { rows with life.stateRows := rows.life.stateRows.set a tornRow }
      else { rows with life.stateRows := burnRows rows.life.stateRows a b } := by
  simp only [State.cutTransition, h]

end

/-! ### Starts (R411, R412) -/

/-- Where Trailhead begins: with the straps sampled as PORST_N rises, or, at a restart of the life cycle, as it stands (R454). -/
def State.startsFrom (s : State) (f : BootFacts) : State :=
  if s.life.underway then s else ({ s with pwr.porstN := true } : State).sampleStraps f

/-- The life cycle at a start, settled with no secret generated yet (R394). -/
def State.settledStart (s : State) : State := (s.put R.keeperRsStatusGenerated 0).settleLife

section
variable {s t : State} {f : BootFacts} (hdue : s.startDue = true) (ht : s.startsFrom f = t)
include hdue ht

/-- A start of a die that is halted, or not. -/
theorem State.boot_due : s.boot f = if t.pwr.halted then ((t.setDev R.devStatusBoot 3).put R.bootStatusStop 7).put R.bootStatusStage 4
    else
      let u := t.settledStart
      let life := u.get R.devStatusLife
      let w := if (life = 3 ∨ life = 4) ∧ u.is R.keeperRsStatusPresent then u.shredRs else u
      if life = 4 then w.scrapped else ((w.startParts f.out).startTrng f).bootEntropy f := by
  have hdue' : ¬ (!s.startDue) = true := by simp [hdue]
  rw [State.boot, if_neg hdue']
  unfold State.startsFrom at ht
  unfold State.settledStart
  simp only [ht]

/-- A halted die stays halted (R378). -/
theorem exec_boot_halted (hhalt : t.pwr.halted = true) :
    exec (.boot f) s = .next (((t.setDev R.devStatusBoot 3).put R.bootStatusStop 7).put R.bootStatusStage 4) := by
  show Host.Outcome.next (s.boot f) = _
  rw [State.boot_due hdue ht, if_pos hhalt]

variable (hhalt : t.pwr.halted = false) {u : State} (hu : t.settledStart = u)
include hhalt hu

/-- In MAKER, INTEGRATOR and FIELDED Trailhead runs (R411). -/
theorem exec_boot_serves (h3 : u.get R.devStatusLife ≠ 3) (h4 : u.get R.devStatusLife ≠ 4) :
    exec (.boot f) s = .next (((u.startParts f.out).startTrng f).bootEntropy f) := by
  show Host.Outcome.next (s.boot f) = _
  rw [State.boot_due hdue ht, hu]
  simp [hhalt, h3, h4]

/-- In RETURNED it runs without a root secret (R394). -/
theorem exec_boot_returned (h3 : u.get R.devStatusLife = 3) :
    exec (.boot f) s = .next ((((if u.is R.keeperRsStatusPresent then u.shredRs else u).startParts f.out).startTrng f).bootEntropy f) := by
  show Host.Outcome.next (s.boot f) = _
  rw [State.boot_due hdue ht, hu]
  simp [hhalt, h3]

/-- In SCRAPPED it stops, without a root secret too (R395). -/
theorem exec_boot_scrapped (h4 : u.get R.devStatusLife = 4) :
    exec (.boot f) s = .next (if u.is R.keeperRsStatusPresent then u.shredRs else u).scrapped := by
  show Host.Outcome.next (s.boot f) = _
  rw [State.boot_due hdue ht, hu]
  simp [hhalt, h4]

end

/-- A generation of RS that was deferred is tried again (R66). -/
theorem exec_rsGenRetry_deferred {s : State} {f : BootFacts} {n : List Bool} {nk : Bool} (hf : s.life.booting = some f)
    (hstop : s.get R.bootStatusStop = 2) : exec (.rsGenRetry n nk) s = .next (s.bootSecret { f with n := n, nk := nk }) := by
  show execRsGenRetry n nk s = _
  simp only [execRsGenRetry, hf, if_pos hstop]

/-! ### The G5 restart (R342) -/

/-- G5_RESTART_END is the restart's end, and then whatever waited. -/
theorem exec_g5RestartEnd (f : BootFacts) (s : State) : exec (.g5RestartEnd f) s = .next (s.restartEnd f).onward := rfl

section
variable {s : State} {f : BootFacts} (hrestarts : s.restarting = true)
include hrestarts

/-- The restart waits for the DRBG. -/
theorem State.restartEnd_waits (hdraw : s.canDraw = false) : s.restartEnd f = { s with life.booting := some f } := by
  rw [State.restartEnd, hrestarts, if_neg (by decide), hdraw]
  exact if_pos rfl

variable (hdraw : s.canDraw = true) {t : State}
  (ht : ({ s with life.booting := none } : State).put R.keeperRsStatusGenerated 0 = t)
include hdraw ht

/-- The running bank no longer verifies: Trailhead stops (R410). -/
theorem State.restartEnd_noBank (hbank : t.bankVerifies f (t.get R.bootStatusBank) = false) : s.restartEnd f = t.stop 4 := by
  rw [State.restartEnd, hrestarts, if_neg (by decide), hdraw, if_neg (by decide)]
  simp only [ht, hbank, Bool.not_false, if_true]

variable (hbank : t.bankVerifies f (t.get R.bootStatusBank) = true) {u : State}
include hbank

/-- The keeper refuses its keys: Trailhead stops. -/
theorem State.restartEnd_refused (hu : ((t.measure f).takeBank f (t.get R.bootStatusBank)).unlockKeys f = (u, false)) :
    s.restartEnd f = u.stop (if u.is R.keeperRsStatusWithheld then 1 else 5) := by
  rw [State.restartEnd, hrestarts, if_neg (by decide), hdraw, if_neg (by decide)]
  simp only [ht, hbank, hu, Bool.not_true, Bool.false_eq_true, if_false]

/-- The keeper releases its keys: the custody firmware serves, and tells every function that its slots are lost. -/
theorem State.restartEnd_serves (hu : ((t.measure f).takeBank f (t.get R.bootStatusBank)).unlockKeys f = (u, true)) {w : State}
    (hw : ((u.custodyServes.testCustodians f).stricter.copyRecords).cfgInForce.finishIntents = w) :
    s.restartEnd f = (((if w.hs.attached then w.reopen else w).slotsLost).put R.bootStatusStage 3).noteHealth := by
  rw [State.restartEnd, hrestarts, if_neg (by decide), hdraw, if_neg (by decide)]
  simp only [ht, hbank, hu, hw, Bool.not_true, Bool.false_eq_true, if_false]

end

/-- Settles O56, clause by clause: escalation, the ends of resets, the supplies, starts, and the G5 restart. -/
theorem resetsAndPower : Obligations.ResetsAndPower := by
  intro s i c g cut cid a b r f bad n nk kat4 kat5 u open_ wiped tested back_ lost rows straps starts back served
  have hstarts : ∀ t, s.startDue = true → s.startsFrom f = t → starts t := fun t hdue ht =>
    ⟨exec_boot_halted hdue ht, fun hhalt => exec_boot_serves hdue ht hhalt rfl,
      fun hhalt h3 hp => by rw [exec_boot_returned hdue ht hhalt rfl h3, State.settledStart, if_pos hp],
      fun hhalt h3 hp => by rw [exec_boot_returned hdue ht hhalt rfl h3, State.settledStart, hp, if_neg Bool.false_ne_true],
      fun hhalt h4 hp => by rw [exec_boot_scrapped hdue ht hhalt rfl h4, State.settledStart, if_pos hp],
      fun hhalt h4 hp => by rw [exec_boot_scrapped hdue ht hhalt rfl h4, State.settledStart, hp, if_neg Bool.false_ne_true]⟩
  refine ⟨exec_hardEscalation_open, fun hreset => ⟨fun hc hst => ?_, fun hc hst => ?_, fun hc => ?_, fun hc => ?_, fun hc hfence hup => ?_,
    fun hc hfence hup => ?_⟩, fun hreset => ?_, fun hreset hhalt => ⟨fun hg => ?_, fun hg => ?_, fun hg => ?_⟩,
    fun hmain hporst => ⟨exec_porstNAssert_high hmain hporst, exec_mramScrub_mended hmain hporst, exec_mramScrub_lost hmain hporst⟩,
    fun hmain => ⟨fun hnone => ?_, fun hwaits => ?_⟩, rfl, fun hdue => ⟨fun hlife => hstarts _ hdue (if_neg (by simp [hlife])),
      fun hlife => hstarts _ hdue (if_pos hlife)⟩, exec_rsGenRetry_deferred,
    fun hrestarts => ⟨fun hdraw => ?_, fun hdraw hbank => ⟨fun hu => ⟨fun hattached => ?_, fun hattached => ?_⟩,
      fun hu => ⟨fun hwithheld => ?_, fun hwithheld => ?_⟩⟩, fun hdraw hbank => ?_⟩⟩
  · rw [exec_clusterResetEnd, State.clusterBack_wiped hreset hc hst]
    rfl
  · rw [exec_clusterResetEnd, State.clusterBack_pke hreset hc hst]
    rfl
  · rw [exec_clusterResetEnd, State.clusterBack_ske hreset hc]
    rfl
  · rw [exec_clusterResetEnd, State.clusterBack_trng hreset hc]
    rfl
  · subst hc
    rw [exec_clusterResetEnd, State.clusterBack_pair hreset (by decide), State.pairBack_a (s := s.clusterOpen 18) hfence hup]
    rfl
  · subst hc
    rw [exec_clusterResetEnd, State.clusterBack_pair hreset (by decide), State.pairBack_b (s := s.clusterOpen 19) hfence hup]
    rfl
  · rw [exec_clusterResetEnd, State.clusterBack_none hreset]
  · rw [exec_regionResetEnd_back hreset hhalt (by omega) (by omega), if_neg (by omega), if_pos hg]
    rfl
  · rw [exec_regionResetEnd_back hreset hhalt (by omega) (by omega), if_pos hg]
    rfl
  · rw [exec_regionResetEnd_back hreset hhalt (by omega) (by omega), if_neg (by omega), if_neg (by omega)]
    rfl
  · rw [exec_mainPowerLoss_powered hmain, State.cutTransition_none hnone]
    rfl
  · rw [exec_mainPowerLoss_powered hmain, State.cutTransition_burns hwaits]
    refine ⟨?_, ?_, ?_, ?_⟩ <;> rintro rfl <;> rfl
  · rw [exec_g5RestartEnd, State.restartEnd_waits hrestarts hdraw]
  · rw [exec_g5RestartEnd, State.restartEnd_serves hrestarts hdraw (t := back) rfl hbank hu (w := served) rfl, if_pos hattached]
  · rw [exec_g5RestartEnd, State.restartEnd_serves hrestarts hdraw (t := back) rfl hbank hu (w := served) rfl, hattached,
      if_neg Bool.false_ne_true]
  · rw [exec_g5RestartEnd, State.restartEnd_refused hrestarts hdraw (t := back) rfl hbank hu, if_pos hwithheld]
  · rw [exec_g5RestartEnd, State.restartEnd_refused hrestarts hdraw (t := back) rfl hbank hu, hwithheld, if_neg Bool.false_ne_true]
  · rw [exec_g5RestartEnd, State.restartEnd_noBank hrestarts hdraw (t := back) rfl hbank]

end Sys2Proof.Machine
end

section
/-! SUPPORT and SETTLED. Traffic between devices: frames that are taken or passed on (R427), commands and answers (R431), register and
host accesses (R430, R433), and the far-device windows (R46). -/

namespace Sys2Proof.Machine

/-! ### Frames -/

/-- The state in which the sequenced frame `h` has been heard on the port that it arrives on. -/
def State.received (s : State) (h : FerryHead) : State :=
  (s.setFerryPort (s.arrival h) ((s.ferryPort (s.arrival h)).heard h true)).put (R.ferryPortState (s.arrival h)) 3

/-- The sequenced frame `h` comes in order and undamaged on a port that is not DOWN, with life left (R427, R428, Table FY.2). -/
def State.accepts (s : State) (h : FerryHead) : Prop :=
  s.ferryRuns = true ∧ s.arrival h ≤ 3 ∧ s.get (R.ferryPortState (s.arrival h)) ≠ 1 ∧ h.crcOk = true ∧
    h.lseq % 65536 = ((s.ferryPort (s.arrival h)).rxSeq + 1) % 65536 ∧ h.ttl ≠ 0

/-- An accepted frame is heard before anything comes of it. -/
theorem State.accepts.heard {s : State} {h : FerryHead} (ha : s.accepts h) (act : State → State) :
    s.heard (s.arrival h) h true act = act (s.received h) := by
  obtain ⟨hruns, hport, hup, hcrc, hseq, -⟩ := ha
  have hdown : ¬ ((!s.ferryRuns) = true ∨ s.arrival h > 3 ∨ s.get (R.ferryPortState (s.arrival h)) = 1) := by
    simp only [hruns, hup, Bool.not_true, Bool.false_eq_true, or_false, false_or]; omega
  have hcrc' : ¬ (!h.crcOk) = true := by simp [hcrc]
  have hseq' : ¬ (true = true ∧ h.lseq % 65536 ≠ ((s.ferryPort (s.arrival h)).rxSeq + 1) % 65536) := fun hs => hs.2 hseq
  rw [State.heard, if_neg hdown, if_neg hcrc']
  exact if_neg hseq'

/-- An accepted frame is passed on where it is another device's, and acts where its kind is for this device's role. -/
theorem State.accepts.frameIn {s : State} {h : FerryHead} (ha : s.accepts h) (kind role : Nat) (data : Bytes) (act : State → State) :
    s.frameIn kind role h data act =
      if (s.received h).get R.ferryStatusRole = 2 ∧ h.dest ≠ 0xFF ∧ h.dest ≠ (s.received h).get R.ferryStatusSelf
      then (s.received h).passOn (s.arrival h) kind h data
      else if (s.received h).get R.ferryStatusRole = role then act (s.received h) else s.received h := by
  have httl : h.ttl ≠ 0 := by obtain ⟨-, -, -, -, -, httl⟩ := ha; exact httl
  rw [State.frameIn, ha.heard]
  exact if_neg httl

/-- On a follower a frame for another device goes on (Table FY.2). -/
theorem State.accepts.passes {s : State} {h : FerryHead} (ha : s.accepts h) {kind role : Nat} {data : Bytes} {act : State → State}
    (hrole : (s.received h).get R.ferryStatusRole = 2) (hall : h.dest ≠ 0xFF) (hother : h.dest ≠ (s.received h).get R.ferryStatusSelf) :
    s.frameIn kind role h data act = (s.received h).passOn (s.arrival h) kind h data := by
  rw [ha.frameIn, if_pos ⟨hrole, hall, hother⟩]

/-- The follower takes the frame `h`: it is accepted, and for this device or for all. -/
def State.takesFrame (s : State) (h : FerryHead) : Prop :=
  s.accepts h ∧ (s.received h).get R.ferryStatusRole = 2 ∧ (h.dest = 0xFF ∨ h.dest = (s.received h).get R.ferryStatusSelf)

/-- The front device takes the frame `h`. -/
def State.frontTakes (s : State) (h : FerryHead) : Prop := s.accepts h ∧ (s.received h).get R.ferryStatusRole = 1

/-- A frame that the follower takes acts. -/
theorem State.takesFrame.frameIn {s : State} {h : FerryHead} (hh : s.takesFrame h) (kind : Nat) (data : Bytes) (act : State → State) :
    s.frameIn kind 2 h data act = act (s.received h) := by
  obtain ⟨ha, hrole, hdest⟩ := hh
  have hmine : ¬ ((s.received h).get R.ferryStatusRole = 2 ∧ h.dest ≠ 0xFF ∧ h.dest ≠ (s.received h).get R.ferryStatusSelf) :=
    fun ⟨_, hall, hother⟩ => hdest.elim hall hother
  rw [ha.frameIn, if_neg hmine, if_pos hrole]

/-- A frame that the front device takes acts. -/
theorem State.frontTakes.frameIn {s : State} {h : FerryHead} (hf : s.frontTakes h) (kind : Nat) (data : Bytes) (act : State → State) :
    s.frameIn kind 1 h data act = act (s.received h) := by
  obtain ⟨ha, hrole⟩ := hf
  have hfront : ¬ ((s.received h).get R.ferryStatusRole = 2 ∧ h.dest ≠ 0xFF ∧ h.dest ≠ (s.received h).get R.ferryStatusSelf) :=
    fun ⟨hfollower, _, _⟩ => by omega
  rw [ha.frameIn, if_neg hfront, if_pos hrole]

/-- A message of one frame is whole with it (R427). -/
theorem State.gather_single {s : State} {h : FerryHead} {data : Bytes} (hall : h.first = true ∧ h.last = true) :
    s.gather h data = ({ s with ferry.gathered := drop s.ferry.gathered h.xtag }, some data) := by
  obtain ⟨hfirst, hlast⟩ := hall
  simp [State.gather, hfirst, hlast]

/-! ### What the frames do -/

section
variable {s : State} {h : FerryHead}

/-- A command that is whole is taken, and begins (R431). -/
theorem exec_commandFrame_takes {m : Msg} (hh : s.takesFrame h) (hall : h.first = true ∧ h.last = true) :
    exec (.commandFrame h m) s = .next (
      let whole : State := { s.received h with ferry.gathered := drop (s.received h).ferry.gathered h.xtag }
      let told : Msg := { m with origin := .ferry h.xtag }
      ((whole.take told).1.begin (whole.take told).2 false).pump) := by
  show Host.Outcome.next (s.frameIn 4 2 h _ _) = _
  rw [hh.frameIn, State.gather_single hall]

/-- A command for another device goes on (R431). -/
theorem exec_commandFrame_passes {m : Msg} (ha : s.accepts h) (hrole : (s.received h).get R.ferryStatusRole = 2) (hall : h.dest ≠ 0xFF)
    (hother : h.dest ≠ (s.received h).get R.ferryStatusSelf) :
    exec (.commandFrame h m) s = .next ((s.received h).passOn (s.arrival h) 4 h (headerBytes m ++ m.payload)) :=
  congrArg Host.Outcome.next (ha.passes hrole hall hother)

/-- An event for another device goes on (R435). -/
theorem exec_eventFrame_passes {source : Nat} (ha : s.accepts h) (hrole : (s.received h).get R.ferryStatusRole = 2) (hall : h.dest ≠ 0xFF)
    (hother : h.dest ≠ (s.received h).get R.ferryStatusSelf) :
    exec (.eventFrame h source) s = .next ((s.received h).passOn (s.arrival h) 12 h (leBytes 2 source)) :=
  congrArg Host.Outcome.next (ha.passes hrole hall hother)

/-- An event that reaches the front device is heard, and nothing more comes of it here (R435). -/
theorem exec_eventFrame_front {source : Nat} (hf : s.frontTakes h) : exec (.eventFrame h source) s = .next (s.received h) :=
  congrArg Host.Outcome.next (hf.frameIn _ _ _)

/-- An answer that is whole ends the command that waits (R431). -/
theorem exec_responseFrame_front {status reason info hamper key stamp : Nat} {bytes : Bytes} (hf : s.frontTakes h)
    (hall : h.first = true ∧ h.last = true) :
    exec (.responseFrame h status reason info hamper key stamp bytes) s = .next (
      let whole : State := { s.received h with ferry.gathered := drop (s.received h).ferry.gathered h.xtag }
      whole.farAnswer h.xtag h.src stamp ⟨status, reason, 0, info, hamper, key, bytes⟩) := by
  show Host.Outcome.next (s.frameIn 5 1 h _ _) = _
  rw [hf.frameIn, State.gather_single hall]

/-- A read of the fast window is answered with REG_DATA (R430). -/
theorem exec_regRead_fast {off len : Nat} (hh : s.takesFrame h) (hoff : off < 0x10000) :
    exec (.regRead h off len) s = .next (
      let x := (s.received h).regRead ⟨0x60, 0⟩ off len
      x.1.sendMessage x.1.upstream 8 0 h.xtag (leBytes len x.2)) := by
  show Host.Outcome.next (s.frameIn 6 2 h _ _) = _
  rw [hh.frameIn, if_pos hoff]
  rfl

/-- A read of anything else goes over the fabric (R430). -/
theorem exec_regRead_fabric {off len : Nat} (hh : s.takesFrame h) (hoff : 0x10000 ≤ off) :
    exec (.regRead h off len) s = .next ((s.received h).fabric ⟨0x60, 0⟩ .read (0x30000000 + off) len (leBytes 4 h.xtag)) := by
  show Host.Outcome.next (s.frameIn 6 2 h _ _) = _
  rw [hh.frameIn, if_neg (Nat.not_lt.2 hoff)]
  rfl

/-- A write of the fast window is done with the PF's rights (R430). -/
theorem exec_regWrite_fast {off len v : Nat} (hh : s.takesFrame h) (hoff : off < 0x10000) :
    exec (.regWrite h off len v) s = .next ((s.received h).regWrite ⟨0x60, 0⟩ off len v true) := by
  show Host.Outcome.next (s.frameIn 7 2 h _ _) = _
  rw [hh.frameIn, if_pos hoff]
  rfl

/-- A write of anything else goes over the fabric (R430). -/
theorem exec_regWrite_fabric {off len v : Nat} (hh : s.takesFrame h) (hoff : 0x10000 ≤ off) :
    exec (.regWrite h off len v) s = .next ((s.received h).fabric ⟨0x60, 0⟩ .write (0x30000000 + off) len (leBytes len v)) := by
  show Host.Outcome.next (s.frameIn 7 2 h _ _) = _
  rw [hh.frameIn, if_neg (Nat.not_lt.2 hoff)]
  rfl

/-- A far read that the host waits for is answered with its data, and waits no more (R430). -/
theorem State.farDone_read {v q place : Nat} {b : Bool} {xtag : Nat}
    (hw : look s.ferry.waits xtag = some ⟨q, none, ⟨0x50, 0⟩, place⟩) :
    s.farDone xtag v b =
      let t := ({ s with ferry.waits := drop s.ferry.waits xtag } : State).emit (.readData ⟨0x50, 0⟩ place v)
      if b then t.accessErr ⟨0x50, 0⟩ 8 place false else t := by
  unfold State.farDone
  rw [hw]
  exact if_neg (fun hne => hne rfl)

/-- REG_DATA ends the far read (R430). -/
theorem exec_regData_front {v q place : Nat} (hf : s.frontTakes h)
    (hw : look (s.received h).ferry.waits h.xtag = some ⟨q, none, ⟨0x50, 0⟩, place⟩) :
    exec (.regData h v) s = .next (({ s.received h with ferry.waits := drop (s.received h).ferry.waits h.xtag } : State).emit
      (.readData ⟨0x50, 0⟩ place v)) := by
  show Host.Outcome.next (s.frameIn 8 1 h _ _) = _
  rw [hf.frameIn, State.farDone_read hw, if_neg Bool.false_ne_true]

/-- The front device with a follower's read of host memory noted under its next XTAG (R433). -/
def State.notedRead (t : State) (h : FerryHead) : State :=
  { t with
    ferry.waits := store t.ferry.waits t.ferry.nextTag ⟨h.src, none, ⟨0x40, 0⟩, h.xtag⟩
    ferry.nextTag := (t.ferry.nextTag + 1) % 2 ^ 32 }

/-- A follower's read of host memory is issued under function 0 (R433). -/
theorem exec_hostRead_waits {addr len : Nat} {u : State} (hf : s.frontTakes h)
    (hu : ((s.received h).notedRead h).access 0 addr len none (.ferryHost (s.received h).ferry.nextTag) = (u, .waits)) :
    exec (.hostRead h addr len) s = .next u := by
  show Host.Outcome.next (s.frameIn 9 1 h _ _) = _
  rw [hf.frameIn]
  unfold State.notedRead at hu
  simp only [hu]

/-- A follower's write of host memory is issued under function 0 (R433). -/
theorem exec_hostWrite_front {addr : Nat} {bytes : Bytes} (hf : s.frontTakes h) (hall : h.first = true ∧ h.last = true) :
    exec (.hostWrite h addr bytes) s = .next (
      let whole : State := { s.received h with ferry.gathered := drop (s.received h).ferry.gathered h.xtag }
      (whole.access 0 addr bytes.length (some bytes) (.ferryHost (2 ^ 32))).1) := by
  show Host.Outcome.next (s.frameIn 10 1 h _ _) = _
  rw [hf.frameIn, State.gather_single hall]

/-- The data of a follower's own read of host memory goes where it was wanted (R433). -/
theorem exec_hostData_takes {bytes : Bytes} {r : Requester} {use : Nat} (hh : s.takesFrame h) (hall : h.first = true ∧ h.last = true)
    (hw : look (s.received h).ferry.waits h.xtag = some ⟨0, none, r, use⟩) :
    exec (.hostData h (.data bytes)) s = .next (
      let whole : State := { s.received h with ferry.gathered := drop (s.received h).ferry.gathered h.xtag }
      ({ whole with ferry.waits := drop whole.ferry.waits h.xtag } : State).hostCame use bytes) := by
  show Host.Outcome.next (s.frameIn 11 2 h _ _) = _
  rw [hh.frameIn, hw, State.gather_single hall]
  rfl

end

/-! ### Far-device windows -/

section
variable {s : State} {n off len v : Nat}

/-- The window's first places are the follower's fast window (Table GI.2). -/
theorem State.farTarget_fast (hoff : off < 0x10000) : s.farTarget n off = some off := if_pos hoff

/-- The next are its message areas. -/
theorem State.farTarget_areas (hlow : 0x10000 ≤ off) (hoff : off < 0x30000) :
    s.farTarget n off = some (0x100000 + (off - 0x10000)) := by
  rw [State.farTarget, if_neg (Nat.not_lt.2 hlow), if_pos hoff]

/-- Past the aperture there is nothing. -/
theorem State.farTarget_none (hoff : 0x40000 ≤ off) : s.farTarget n off = none := by
  rw [State.farTarget, if_neg (by omega), if_neg (by omega), if_neg (by omega)]

/-- An access to the window of a follower that is not PRESENT reads zeros, and is recorded (R430). -/
theorem State.farAccess_absent {write : Bool} (hn : 1 ≤ n ∧ n ≤ 63) (h : s.get (R.ferryFollowerState n) ≠ 3) :
    s.farAccess n off len write v =
      let t := (s.noHalf ⟨0x50, 0⟩).accessErr ⟨0x50, 0⟩ 8 (farOff n off) write
      if write then t else t.emit (.readData ⟨0x50, 0⟩ (farOff n off) 0) := by
  have hwindow : ¬ (n = 0 ∨ n > 63) := by omega
  have habsent : (s.noHalf ⟨0x50, 0⟩).get R.ferryStatusRole ≠ 1 ∨ (s.noHalf ⟨0x50, 0⟩).get (R.ferryFollowerState n) ≠ 3 := .inr h
  rw [State.farAccess, if_neg hwindow, if_pos habsent]

/-- The window of a PRESENT follower is one that the front device serves. -/
theorem State.farWindow_present (hn : 1 ≤ n ∧ n ≤ 63) (hrole : s.get R.ferryStatusRole = 1) (h : s.get (R.ferryFollowerState n) = 3) :
    ¬ (n = 0 ∨ n > 63) ∧
      ¬ ((s.noHalf ⟨0x50, 0⟩).get R.ferryStatusRole ≠ 1 ∨ (s.noHalf ⟨0x50, 0⟩).get (R.ferryFollowerState n) ≠ 3) := by
  refine ⟨by omega, ?_⟩
  simp [hrole, h]

/-- Of a PRESENT follower, the access goes by its place there, where it has one. -/
theorem State.farAccess_present {write : Bool} {place : Nat} (hn : 1 ≤ n ∧ n ≤ 63) (hrole : s.get R.ferryStatusRole = 1)
    (h : s.get (R.ferryFollowerState n) = 3) (hplace : (s.noHalf ⟨0x50, 0⟩).farTarget n off = some place) :
    s.farAccess n off len write v =
      let next : State := { s.noHalf ⟨0x50, 0⟩ with ferry.nextTag := (s.ferry.nextTag + 1) % 2 ^ 32 }
      let port := s.get (R.ferryFollowerPort n)
      if write then next.sendMessage port 7 n s.ferry.nextTag (leBytes 4 place ++ leBytes 1 len ++ leBytes len v)
      else ({ next with ferry.waits := store s.ferry.waits s.ferry.nextTag ⟨n, none, ⟨0x50, 0⟩, farOff n off⟩ } : State).sendMessage
        port 6 n s.ferry.nextTag (leBytes 4 place ++ leBytes 1 len) := by
  obtain ⟨hwindow, hpresent⟩ := State.farWindow_present hn hrole h
  rw [State.farAccess, if_neg hwindow, if_neg hpresent, hplace]
  rfl

/-- Where it has none, the write is recorded (R46). -/
theorem State.farAccess_unassigned (hn : 1 ≤ n ∧ n ≤ 63) (hrole : s.get R.ferryStatusRole = 1)
    (h : s.get (R.ferryFollowerState n) = 3) (hplace : (s.noHalf ⟨0x50, 0⟩).farTarget n off = none) :
    s.farAccess n off len true v = (s.noHalf ⟨0x50, 0⟩).accessErr ⟨0x50, 0⟩ 3 (farOff n off) true := by
  obtain ⟨hwindow, hpresent⟩ := State.farWindow_present hn hrole h
  rw [State.farAccess, if_neg hwindow, if_neg hpresent, hplace]
  rfl

/-- FAR_WINDOW_ACCESS of a host that reaches the device; 8 bytes where the value needs them. -/
theorem exec_farWindowAccess_there {write : Bool} (h : s.hostThere 0 = true) :
    exec (.farWindowAccess n off write v) s = .next (s.farAccess n off (if v < 2 ^ 32 then 4 else 8) write v) := by
  show execFarWindowAccess n off write v s = _
  rw [execFarWindowAccess, if_pos h]

/-- The access of a host that does not reach the device is lost (R473). -/
theorem exec_farWindowAccess_gone {write : Bool} (h : s.hostThere 0 = false) : exec (.farWindowAccess n off write v) s = .next s := by
  show execFarWindowAccess n off write v s = _
  rw [execFarWindowAccess, h, if_neg Bool.false_ne_true]

/-- A far read that no answer comes to reads zeros, and is recorded (R430). -/
theorem exec_farReadTimeout_read {q place : Nat} (hw : look s.ferry.waits n = some ⟨q, none, ⟨0x50, 0⟩, place⟩) :
    exec (.farReadTimeout n) s = .next ((({ s with ferry.waits := drop s.ferry.waits n } : State).emit
      (.readData ⟨0x50, 0⟩ place 0)).accessErr ⟨0x50, 0⟩ 8 place false) := by
  show Host.Outcome.next (s.farDone n 0 true) = _
  rw [State.farDone_read hw, if_pos rfl]

end

/-- Settles O59, clause by clause: the frames by their kinds, then the far-device windows. -/
theorem ferryTraffic : Obligations.FerryTraffic := by
  intro s h m n off len v status reason info hamper key stamp addr source bytes p t arrives here front all whole told tag asked far calm
    next farAt
  refine ⟨exec_commandFrame_takes, exec_responseFrame_front,
    fun ha hrole hall hother => ⟨exec_commandFrame_passes ha hrole hall hother, exec_eventFrame_passes ha hrole hall hother⟩,
    exec_regRead_fast, exec_regWrite_fast, fun hh hoff => ⟨exec_regRead_fabric hh hoff, exec_regWrite_fabric hh hoff⟩,
    fun q place => exec_regData_front, fun u => exec_hostRead_waits, exec_hostWrite_front, fun r use => exec_hostData_takes,
    exec_eventFrame_front, ?_, State.farTarget_fast, State.farTarget_areas, State.farTarget_none, ?_, ?_, exec_farWindowAccess_gone,
    fun q place => exec_farReadTimeout_read⟩
  · rintro place ⟨hthere, hn⟩ hrole hpresent hplace
    refine ⟨fun hv => ?_, fun hv => ?_, ?_⟩
    · rw [exec_farWindowAccess_there hthere, State.farAccess_present hn hrole hpresent hplace, if_pos hv]
      rfl
    · rw [exec_farWindowAccess_there hthere, State.farAccess_present hn hrole hpresent hplace, if_neg (Nat.not_lt.2 hv)]
      rfl
    · rw [exec_farWindowAccess_there hthere, State.farAccess_present hn hrole hpresent hplace]
      rfl
  · rintro ⟨hthere, hn⟩ habsent
    constructor
    · rw [exec_farWindowAccess_there hthere, State.farAccess_absent hn habsent]
      rfl
    · rw [exec_farWindowAccess_there hthere, State.farAccess_absent hn habsent]
      rfl
  · rintro ⟨hthere, hn⟩ hrole hpresent hplace
    rw [exec_farWindowAccess_there hthere, State.farAccess_unassigned hn hrole hpresent hplace]
    rfl

end Sys2Proof.Machine
end

section
/-! SUPPORT and SETTLED. The information and attestation commands (R99, R100, R132). -/

namespace Sys2Proof.Machine

/-! ### Which act an opcode names -/

/-- An act that answers at once answers with its response. -/
theorem lift_eq {f : Msg → State → State × Resp} {m : Msg} {s v : State} {r : Resp} (h : f m s = (v, r)) :
    lift f m s = (v, .resp r) := by
  simp only [lift, h]

section
variable {op : Nat} {m : Msg} {s u : State} {c : Msg} {g : Msg → State → State × Answer} (h : Granted op m s u c)
  (hg : actOf c u = g c u)
include h hg

/-- The command let through does what its group's table `g` gives every command with its opcode. -/
theorem Granted.acts {f : Msg → State → State × Answer} {a : State × Answer} (ha : f c u = a)
    (hf : ∀ d : Msg, g { d with opcode := op } u = f { d with opcode := op } u) : actOf c u = a := by
  have hc : c = { c with opcode := op } := by rw [← h.opcode]
  rw [hg, ← ha, hc]
  exact hf c

/-- Where the table gives an act that answers at once, the command completes with its response. -/
theorem Granted.answers {i : Instr} {f : Msg → State → State × Resp} {v : State} {r : Resp} (hi : exec i s = command op m s)
    (hr : f c u = (v, r)) (hf : ∀ d : Msg, g { d with opcode := op } u = lift f { d with opcode := op } u) : Replies i s v c r :=
  h.replies hi (h.acts hg (lift_eq hr) hf)

end

/-! ### Information and attestation -/

section
variable {m : Msg} {s : State}

/-- DEVICE_INFO_GET without a payload reads the device out (Table CM.6). -/
theorem deviceInfoGet_reads (h : m.payloadLen = 0) :
    deviceInfoGet m s = (s, .okay (padTo 8 s.life.serial ++ leBytes 1 (s.get R.devStatusLife) ++ leBytes 2 (s.get R.lifeSecurityFloor)
      ++ padTo 48 s.life.imageDigest ++ padTo 48 s.life.cfgDigest ++ s.limitsBytes)) := if_neg (by simp [h])

/-- IDENTITY_GET reads the public identity keys of a device that has its seeds. -/
theorem identityGet_reads (h : m.payloadLen = 0) (hseeds : s.keys.idSeeds ≠ []) :
    identityGet m s = (s, .okay (p384.public Blind.none s.identityScalar ++ publicOf s 0x21 0 4 s.identitySeed)) := by
  rw [identityGet, if_neg (by simp [h]), if_neg (by simp [hseeds])]
  rfl

/-- ATTESTATION_ANSWER states the device under the attestation key, with a stamp (R99). -/
theorem attestationAnswer_states (h16 : 16 ≤ m.payloadLen) (h64 : m.payloadLen ≤ 64) (hkey : s.keys.attKey ≠ [])
    (hroots : s.get R.bootStatusRootsUnmatched = 0) :
    attestationAnswer m s = (s.stamped, .okay (s.statement 2 (padTo m.payloadLen m.payload)
      ++ Config.hmac384 s.keys.attKey (s.statement 2 (padTo m.payloadLen m.payload)))) := by
  rw [attestationAnswer, if_neg (by omega), if_neg (by simp [hkey, State.is, hroots])]

/-- Without the key, or with roots that match no set, it is refused (R100). -/
theorem attestationAnswer_refused (h16 : 16 ≤ m.payloadLen) (h64 : m.payloadLen ≤ 64)
    (habsent : s.keys.attKey = [] ∨ s.get R.bootStatusRootsUnmatched = 1) :
    attestationAnswer m s = (s, .of St.attestationKeyAbsent) := by
  rw [attestationAnswer, if_neg (by omega), if_pos (by simpa [State.is] using habsent)]

/-- ATTESTATION_SIGN of a command without a result yet keeps the body and asks for both its signatures (R99, R132). -/
theorem attestationSign_asks (h16 : 16 ≤ m.payloadLen) (h64 : m.payloadLen ≤ 64) (hseeds : s.keys.idSeeds ≠ [])
    (hgot : s.gotOf m.cid = none) (hec : s.hasProgram 0x01 = true) (hml : s.hasProgram 0x31 = true) :
    attestationSign m s =
      let b := s.statement 1 (padTo m.payloadLen m.payload)
      (((s.stamped.keepBody m.cid b).submitPke { Job.of m false 0x01 (runTime s 0x01 1 0 0 0) with
        own := true, priv := true, draws := true, curve := 1, curves := [(1, p384)], key := s.identityScalar
        data := Config.sha384 b }).submitPke { Job.of m false 0x31 (runTime s 0x31 0 1 b.length 0) with
          own := true, priv := true, draws := true, param := 4, key := s.identitySeed, data := b }, .engine) := by
  have hprograms : [0x01, 0x31].filter (fun p => !s.hasProgram p) = [] := by simp [hec, hml]
  rw [attestationSign, if_neg (by omega), if_neg (by simp [hseeds]), hgot]
  simp only [hprograms]

end

/-- Settles O8: each act in its good case, and ATTESTATION_ANSWER's refusal. -/
theorem infoAndAttestation : Obligations.InfoAndAttestation := by
  intro m s u c
  refine ⟨fun h hlen => ?_, fun h hlen hseeds => ?_, fun h h16 h64 hkey hroots => ?_,
    fun b h h16 h64 hseeds hec hml hb => ?_, fun h h16 h64 habsent => ?_⟩
  · exact h.answers h.keyAct rfl (deviceInfoGet_reads hlen) fun _ => rfl
  · exact h.answers h.keyAct rfl (identityGet_reads hlen hseeds) fun _ => rfl
  · exact h.answers h.keyAct rfl (attestationAnswer_states h16 h64 hkey hroots) fun _ => rfl
  · subst hb
    exact h.queues rfl (h.acts h.keyAct (attestationSign_asks h16 h64 hseeds h.gotOf hec hml) fun _ => rfl)
  · exact h.answers h.keyAct rfl (attestationAnswer_refused h16 h64 habsent) fun _ => rfl

end Sys2Proof.Machine
end

section
/-! SUPPORT and SETTLED. Tenants: their entries and generations (R79), their destruction (R82, R440), and their settings (R77, R94, R193,
R195, R268). -/

namespace Sys2Proof.Machine

/-! ### Tenants and their generations -/

section
variable {m : Msg} {s : State}

/-- TENANT_CREATE of an EMPTY entry, or of an ERASED one whose TG can still rise, makes its root record from the DRBG (R79). -/
theorem tenantCreate_makes {tg : Nat} (hlen : m.payloadLen = 4) (hquota : le m.payload 0 4 ≤ maxQuota)
    (hroots : s.get R.bootStatusRootsUnmatched = 0) (hupdate : s.life.updating = none) (hdraw : s.canDraw = true)
    (hold : s.tenant m.tenant = none ∧ tg = 0 ∨ ∃ t, s.tenant m.tenant = some t ∧ t.state = 3 ∧ t.tg ≠ 0xFFFFFFFF ∧ tg = t.tg + 1) :
    tenantCreate m s =
      let r := (s.draw 48).2
      let zeros : Bytes := List.replicate 16 0
      let w := (s.draw 48).1.writeTenant m.tenant ⟨1, 1, tg, [0, 0, 0], r.take 32, [r.drop 32, zeros, zeros], false, []⟩
      ({ w with
        keys.quotas := store w.keys.quotas m.tenant (le m.payload 0 4), keys.limits := drop w.keys.limits m.tenant
        keys.rotating := w.keys.rotating.filter (· != m.tenant) }, .okay (leBytes 4 tg)) := by
  have hform : ¬ (m.payloadLen ≠ 4 ∨ le m.payload 0 4 > maxQuota) := by omega
  have hwait : ¬ s.life.updating.isSome = true := by simp [hupdate]
  have hdrbg : ¬ (!s.canDraw) = true := by simp [hdraw]
  have hunmatched : s.is R.bootStatusRootsUnmatched = false := by simp [State.is, hroots]
  rcases hold with ⟨hnone, rfl⟩ | ⟨t, hsome, hstate, htg, rfl⟩
  · simp only [tenantCreate, if_neg hform, if_neg hwait, if_neg hdrbg, hunmatched, hnone]
    rfl
  · simp only [tenantCreate, if_neg hform, if_neg hwait, if_neg hdrbg, hunmatched, hsome, Option.map_some, Option.getD_some, hstate]
    simp [htg]

/-- GENERATION_ROLL takes the lowest position that is not live (R79). -/
theorem generationRoll_takes {t : Tenant} {i : Nat} (hlen : m.payloadLen = 0) (hupdate : s.life.updating = none)
    (href : s.tenantRefusal m.tenant false = none) (ht : s.tenant m.tenant = some t)
    (hi : (List.range 3).find? (fun i => !bitOf t.live i) = some i) (hissued : t.issued + 1 < 0xFFFFFFFF) (hdraw : s.canDraw = true) :
    generationRoll m s = ((s.draw 16).1.writeTenant m.tenant { t with
      live := setBit t.live i true, wgs := t.wgs.set i (t.issued + 1), salts := t.salts.set i (s.draw 16).2 },
      .okay (leBytes 4 (t.issued + 1))) := by
  rw [generationRoll, if_neg (by simp [hlen]), if_neg (by simp [hupdate]), href, ht]
  simp only [hi, if_neg (Nat.not_le.2 hissued), hdraw, Bool.not_true, Bool.false_eq_true, if_false, setNth]

/-! ### Destruction (R82) -/

/-- Whether a slot is one that R82 reaches, of a whole tenant. -/
theorem Slot.reached_tenant (n : Nat) (x : Slot) : x.reached n none = (x.tenant == n) := by simp [Slot.reached]

/-- Whether a slot is one that R82 reaches, of one wrap generation. -/
theorem Slot.reached_generation (n wg : Nat) (x : Slot) : x.reached n (some wg) = (x.tenant == n && x.wg == wg) := rfl

/-- Steps 1 to 3 of R82, and the wipe of the slots that no job holds. -/
def State.destroying (s : State) (m : Msg) (wg : Option Nat) (status : Nat) : State :=
  ((s.actIntent m (wg.getD 0xFFFFFFFF)).beginDying m.tenant wg status).wipeSlots (fun x => x.reached m.tenant wg && x.inuse == 0)

variable {wg : Option Nat} {t : Tenant} {status : Nat}

/-- An act that has just been taken waits where a job still holds a slot. -/
theorem State.carryOut_waits (hnew : s.wiping m.cid = false)
    (hheld : (s.destroying m wg status).keys.slots.any (fun x => x.2.reached m.tenant wg) = true) :
    s.carryOut m wg t status = (s.destroying m wg status, .wait [needWipe]) := by
  simp only [State.carryOut, hnew, Bool.false_eq_true, if_false]
  exact if_pos hheld

/-- With no slot held it writes the entry, ends the mark, clears a deleted tenant's replica bit, and records its completion. -/
theorem State.carryOut_ends (hnew : s.wiping m.cid = false)
    (hfree : (s.destroying m wg status).keys.slots.any (fun x => x.2.reached m.tenant wg) = false) :
    s.carryOut m wg t status =
      let written := ((s.destroying m wg status).destroyTenantEntry m.tenant t).unmark m.tenant wg
      ((if wg.isNone then written.setReplica m.tenant false else written).actComplete m (wg.getD 0xFFFFFFFF), .of St.ok) := by
  simp only [State.carryOut, hnew, Bool.false_eq_true, if_false]
  exact if_neg (by rw [Bool.not_eq_true]; exact hfree)

/-- With no slot held a retirement writes the entry, ends the mark and records its completion. -/
theorem State.carryOut_retires {w : Nat} (hnew : s.wiping m.cid = false)
    (hfree : (s.destroying m (some w) status).keys.slots.any (fun x => x.2.tenant == m.tenant && x.2.wg == w) = false) :
    s.carryOut m (some w) t status
      = ((((s.destroying m (some w) status).destroyTenantEntry m.tenant t).unmark m.tenant (some w)).actComplete m w, .of St.ok) := by
  simp only [State.carryOut_ends (wg := some w) hnew hfree, Option.isNone_some, Bool.false_eq_true, if_false, Option.getD_some]

/-- A deletion clears the tenant's replica bit too (R440). -/
theorem State.carryOut_deletes (hnew : s.wiping m.cid = false)
    (hfree : (s.destroying m none status).keys.slots.any (fun x => x.2.tenant == m.tenant) = false) :
    s.carryOut m none t status = (((((s.destroying m none status).destroyTenantEntry m.tenant t).unmark m.tenant none).setReplica
      m.tenant false).actComplete m 0xFFFFFFFF, .of St.ok) := by
  have hnone : (s.destroying m none status).keys.slots.any (fun x => x.2.reached m.tenant none) = false := by
    simpa only [Slot.reached_tenant] using hfree
  simp only [State.carryOut_ends hnew hnone, Option.isNone_none, if_true, Option.getD_none]

/-- GENERATION_RETIRE of a live generation is carried out (R82). -/
theorem generationRetire_carriesOut {i : Nat} (hlen : m.payloadLen = 4) (hnew : s.wiping m.cid = false)
    (href : s.tenantRefusal m.tenant false = none) (ht : s.tenant m.tenant = some t) (hi : t.position (le m.payload 0 4) = some i)
    (hroom : s.get R.logStatusHeld < 8192) (hdying : (m.tenant, le m.payload 0 4) ∉ s.keys.dyingWgs) :
    generationRetire m s = s.carryOut m (some (le m.payload 0 4)) (t.without i) St.generationRetired := by
  simp [generationRetire, hlen, hnew, href, ht, hi, hdying, State.actRoom, hroom]

/-- TENANT_DELETE of an ACTIVE or LOCKED tenant is carried out (R82). -/
theorem tenantDelete_carriesOut (hlen : m.payloadLen = 0) (hnew : s.wiping m.cid = false) (ht : s.tenant m.tenant = some t)
    (hstate : t.state ≠ 3) (hroom : s.get R.logStatusHeld < 8192) (hdying : m.tenant ∉ s.keys.dyingTenants) :
    tenantDelete m s = s.carryOut m none t.erased St.tenantDeleted := by
  simp [tenantDelete, hlen, hnew, ht, hstate, hdying, State.actRoom, hroom]

end

/-! ### The settings of a tenant -/

section
variable {m : Msg} {s : State}

/-- TENANT_QUOTA_SET stores the quota (R94). -/
theorem tenantQuotaSet_stores (hlen : m.payloadLen = 4) (hquota : le m.payload 0 4 ≤ maxQuota)
    (href : s.tenantRefusal m.tenant true = none) :
    tenantQuotaSet m s = ({ s with keys.quotas := store s.keys.quotas m.tenant (le m.payload 0 4) }, .of St.ok) := by
  rw [tenantQuotaSet, if_neg (by omega), href]

/-- TENANT_POLICY_SET stores the default limit and the rotation, and lowers the limits of the tenant's slots (R193, R195). -/
theorem tenantPolicySet_stores (hlen : m.payloadLen = 9) (hlow : 1 ≤ le m.payload 0 8) (hhigh : le m.payload 0 8 ≤ 2 ^ 32)
    (hrot : le m.payload 8 1 ≤ 1) (href : s.tenantRefusal m.tenant true = none) :
    tenantPolicySet m s = ((s.keys.slots.filter (fun x => x.2.tenant == m.tenant)).foldl
      (fun t x => t.lowerLimit x.1 (le m.payload 0 8)) { s with
        keys.limits := store s.keys.limits m.tenant (le m.payload 0 8)
        keys.rotating := s.keys.rotating.filter (· != m.tenant) ++ (if le m.payload 8 1 = 1 then [m.tenant] else []) }, .of St.ok) := by
  have hrotating : (if le m.payload 8 1 = 1 then s.keys.rotating.filter (· != m.tenant) ++ [m.tenant]
      else s.keys.rotating.filter (· != m.tenant))
      = s.keys.rotating.filter (· != m.tenant) ++ (if le m.payload 8 1 = 1 then [m.tenant] else []) := by
    split
    · rfl
    · rw [List.append_nil]
  rw [tenantPolicySet, if_neg (by omega), href]
  simp only [hrotating]

/-- TENANT_UNLOCK makes a LOCKED entry ACTIVE, and leaves an ACTIVE one (R77, R79). -/
theorem tenantUnlock_unlocks {t : Tenant} (hlen : m.payloadLen = 0) (href : s.tenantRefusal m.tenant true = none)
    (ht : s.tenant m.tenant = some t) (hfailed : t.failed = false) :
    tenantUnlock m s = (if t.state = 1 then s else (s.writeTenant m.tenant { t with state := 1 }).restoreDefault, .of St.ok) := by
  rw [tenantUnlock, if_neg (by simp [hlen]), href, ht]
  simp only [hfailed, Bool.false_eq_true, if_false]
  split <;> rfl

/-- INSTANCE_BIND replaces the binding of INST whole and tells INST so (R268). -/
theorem instanceBind_binds {l : List Nat} (hlen : m.payloadLen = 520) (hinst : le m.payload 0 2 ≤ nwInst) (hzero : le m.payload 2 6 = 0)
    (hl : l = (List.range 4096).filter (fun t => bitOf ((m.payload.drop 8).getD (t / 8) 0).toNat (t % 8))) :
    instanceBind m s = (({ s with host.bindings := (if l = [] then drop s.host.bindings (le m.payload 0 2)
      else store s.host.bindings (le m.payload 0 2) l) } : State).notice (le m.payload 0 2) 7 0 0 0 St.ok, .of St.ok) := by
  rw [instanceBind, if_neg (by omega)]
  simp only [← hl, List.isEmpty_iff]

/-- TENANT_INFO_GET reads the entry, the quota and the slots held out. -/
theorem tenantInfoGet_reads {t : Tenant} (hlen : m.payloadLen = 0) (ht : s.tenant m.tenant = some t) :
    tenantInfoGet m s = (s, .okay (leBytes 1 t.state ++ leBytes 4 t.tg ++ leBytes 4 (t.wgs.getD 0 0) ++ leBytes 4 (t.wgs.getD 1 0)
      ++ leBytes 4 (t.wgs.getD 2 0) ++ leBytes 1 t.live ++ leBytes 4 (s.quota m.tenant) ++ leBytes 4 (s.holding m.tenant))) := by
  rw [tenantInfoGet, if_neg (by simp [hlen]), ht]
  rfl

end

/-- Settles O12, act by act. -/
theorem tenantSettings : Obligations.TenantSettings := by
  intro m s u c
  refine ⟨fun h hlen hquota href => ?_, fun h hlen hlow hhigh hrot href => ?_, fun t h hlen href ht hfailed => ?_,
    fun l h hlen hinst hzero hl => ?_, fun t h hlen ht => ?_⟩
  · exact h.answers h.tenantAct rfl (tenantQuotaSet_stores hlen hquota href) fun _ => rfl
  · exact h.answers h.tenantAct rfl (tenantPolicySet_stores hlen hlow hhigh hrot href) fun _ => rfl
  · exact h.answers h.tenantAct rfl (tenantUnlock_unlocks hlen href ht hfailed) fun _ => rfl
  · exact h.answers h.tenantAct rfl (instanceBind_binds hlen hinst hzero hl) fun _ => rfl
  · exact h.answers h.tenantAct rfl (tenantInfoGet_reads hlen ht) fun _ => rfl

end Sys2Proof.Machine

namespace Sys2Proof

/-! ### Settled

Outside `Machine`, where the acts TENANT_CREATE and TENANT_DELETE bear these names. -/

open Machine

/-- Settles O9: an EMPTY entry and an ERASED one are made alike, at TG 0 or past the old one. -/
theorem tenantCreate : Obligations.TenantCreate := by
  intro m s u c tg h hlen hquota hroots hupdate hdraw hold
  exact h.replies rfl (h.acts h.tenantAct (tenantCreate_makes hlen hquota hroots hupdate hdraw hold) fun _ => rfl)

/-- Settles O10: a roll takes its position, and a retirement is carried out, or waits for the wipe of a slot that a job holds. -/
theorem generations : Obligations.Generations := by
  intro m s u c t i href ht
  refine ⟨fun h hlen hi hissued hupdate hdraw => ?_, fun wg v h hlen hwg hi hroom hdying hv => ?_⟩
  · exact h.replies rfl (h.acts h.tenantAct (generationRoll_takes hlen hupdate href ht hi hissued hdraw) fun _ => rfl)
  · subst hwg
    have hact := h.acts h.tenantAct (generationRetire_carriesOut hlen h.wiping href ht hi hroom hdying) fun _ => rfl
    have hdestroying : v = u.destroying c (some (le c.payload 0 4)) St.generationRetired := by
      simp only [hv, State.destroying, Slot.reached_generation, Option.getD_some]
    rw [hdestroying]
    exact ⟨fun hfree => h.replies rfl (hact.trans (State.carryOut_retires h.wiping hfree)),
      fun hheld => h.waits rfl (hact.trans (State.carryOut_waits h.wiping hheld))⟩

/-- Settles O11: the deletion is carried out, or waits for the wipe of a slot that a job holds. -/
theorem tenantDelete : Obligations.TenantDelete := by
  intro m s u c t v h hlen ht hstate hroom hdying hv
  have hact := h.acts h.tenantAct (tenantDelete_carriesOut hlen h.wiping ht hstate hroom hdying) fun _ => rfl
  have hdestroying : v = u.destroying c none St.tenantDeleted := by
    simp only [hv, State.destroying, Slot.reached_tenant, Option.getD_none]
  rw [hdestroying]
  exact ⟨fun hfree => h.replies rfl (hact.trans (State.carryOut_deletes h.wiping hfree)),
    fun hheld => h.waits rfl (hact.trans (State.carryOut_waits h.wiping (by simpa only [Slot.reached_tenant] using hheld)))⟩

end Sys2Proof
end

section
/-! SUPPORT and SETTLED. The log, the operations journal and the pocket log (R367, R382, R385, R390), tamper alarms (R350, R357 to R359),
the keeper's masks (R67, R111), and what lapses (R404, R439). -/

namespace Sys2Proof.Machine

/-! ### The security log and the operations journal -/

section
variable {s : State}

/-- The end of a freeze changes nothing of a log that runs. -/
theorem State.logThaw_running (h : s.is R.logStatusFrozen = false) : s.logThaw = s := by
  rw [State.logThaw, h, if_neg Bool.false_ne_true]

/-- A frozen log runs again, and writes what it held in order (R385). -/
theorem State.logThaw_frozen (h : s.is R.logStatusFrozen = true) :
    s.logThaw = s.log.buffer.foldl (fun t r => t.logWrite r)
      ((({ s with log.buffer := [] } : State).put R.logStatusFrozen 0).put R.logStatusBuffered 0) := if_pos h

/-- JOURNAL_ENTRY_WRITE of a LOG block that QUIESCE stops. -/
theorem exec_journalEntryWrite_quiesced {ok : Bool} (h : s.is (R.hdrCtrlQuiesce 0x30000) = true) :
    exec (.journalEntryWrite ok) s = .next s := congrArg Host.Outcome.next (if_pos h)

/-- JOURNAL_ENTRY_WRITE of one that is not. -/
theorem exec_journalEntryWrite_runs {ok : Bool} (h : s.is (R.hdrCtrlQuiesce 0x30000) = false) :
    exec (.journalEntryWrite ok) s = .next (s.journalWrite ok) := by
  show execJournalEntryWrite ok s = _
  rw [execJournalEntryWrite, h, if_neg Bool.false_ne_true]

/-- Entries wait while G6 resets (Table FL.7). -/
theorem State.journalWrite_resets {ok : Bool} (h : bitOf s.pwr.regionReset 6 = true) : s.journalWrite ok = s := if_pos (.inr h)

/-- With an entry of `s` written, `t` tells the ring's header the next sequence number, and the host that the journal has grown (R390). -/
def State.journalTold (s t : State) : State :=
  let next := s.get R.logJournalNextSeq + 1
  (((t.put R.logJournalNextSeq next).emit (.hostWrite 0 s.log.headerAddr (leBytes 8 next))).hostTell s.log.headerAddr
    (leBytes 8 next)).raise 7

variable (hsize : s.get R.logJournalCfgLog2Size ≠ 0) (hreset : bitOf s.pwr.regionReset 6 = false)
include hsize hreset

/-- The journal is attached, and its region runs. -/
theorem State.journal_attached : ¬ (s.get R.logJournalCfgLog2Size = 0 ∨ bitOf s.pwr.regionReset 6 = true) := by simp [hsize, hreset]

/-- A write that fails detaches the journal (R390). -/
theorem State.journalWrite_failed : s.journalWrite false = (s.put R.logJournalCfgLog2Size 0).raise 7 := by
  rw [State.journalWrite, if_neg (State.journal_attached hsize hreset)]
  rfl

/-- The oldest entry goes to its place (R390). -/
theorem State.journalWrite_entry {e : JournalEntry} {rest : List JournalEntry} (hgap : s.log.gap = 0) (hj : s.log.journal = e :: rest) :
    s.journalWrite true =
      let seq := s.get R.logJournalNextSeq
      let place := s.log.ringAddr + 64 * (seq % 2 ^ s.get R.logJournalCfgLog2Size)
      s.journalTold (((({ s with log.journal := rest } : State).put R.logJournalCfgBuffered rest.length).emit
        (.journalWrite place seq e.typ e.inst e.stamp e.body)).hostTell place (leBytes 8 seq ++ leBytes 2 e.typ ++ leBytes 2 e.inst
          ++ leBytes 12 e.stamp ++ padTo 32 e.body ++ leBytes 8 seq)) := by
  rw [State.journalWrite, if_neg (State.journal_attached hsize hreset)]
  simp only [hgap, hj]
  rfl

/-- After a gap JOURNAL_GAP goes first, with how many entries were lost (R390). -/
theorem State.journalWrite_gap (hgap : s.log.gap ≠ 0) :
    s.journalWrite true =
      let seq := s.get R.logJournalNextSeq
      let place := s.log.ringAddr + 64 * (seq % 2 ^ s.get R.logJournalCfgLog2Size)
      s.journalTold ((({ s.stamped with log.gap := 0 } : State).emit (.journalWrite place seq 0x40 0xFFFF s.stamp
        (padTo 32 (leBytes 4 s.log.gap)))).hostTell place (leBytes 8 seq ++ leBytes 2 0x40 ++ leBytes 2 0xFFFF ++ leBytes 12 s.stamp
          ++ padTo 32 (leBytes 4 s.log.gap) ++ leBytes 8 seq)) := by
  rw [State.journalWrite, if_neg (State.journal_attached hsize hreset)]
  simp only [if_pos hgap]
  rfl

end

/-! ### The pocket log (R367) -/

section
variable {s : State}

/-- Whether the security log holds the record of the pocket record `p` already. -/
def State.pocketKnown (s : State) (p : Pocket) : Bool := s.log.recs.any (fun r => r.typ == 0x10 && le r.body 0 4 == p.serial)

/-- KEEPER_POCKET.HELD follows the pocket log. -/
def State.showPocket (s : State) : State :=
  s.put R.keeperPocketHeld (s.keeper.pocket.length + (if s.keeper.last.isSome then 1 else 0))

/-- The security log takes the pocket record `p`, whose place is free already. -/
def State.recordPocket (s : State) (p : Pocket) : State :=
  (if s.pocketKnown p then s else s.logAdd 0x10 0xFFFF 0xFFFF p.bytes).showPocket

/-- A record that the log does not hold is written there. -/
theorem State.recordPocket_new {p : Pocket} (h : s.pocketKnown p = false) :
    s.recordPocket p = (s.logAdd 0x10 0xFFFF 0xFFFF p.bytes).showPocket := by
  rw [State.recordPocket, h, if_neg Bool.false_ne_true]

/-- One that it holds is not written again. -/
theorem State.recordPocket_known {p : Pocket} (h : s.pocketKnown p = true) : s.recordPocket p = s.showPocket := by
  rw [State.recordPocket, if_pos h]

/-- Nothing is copied while the log is frozen (R385). -/
theorem State.copyPocket_frozen (h : s.is R.logStatusFrozen = true) : s.copyPocket = s := if_pos (.inr h)

variable (hup : s.is R.devStatusCustodyUp = true) (hruns : s.is R.logStatusFrozen = false)
include hup hruns

/-- The custody firmware is up and the log runs, so pocket records are copied. -/
theorem State.pocket_copies : ¬ ((!s.is R.devStatusCustodyUp) = true ∨ s.is R.logStatusFrozen = true) := by simp [hup, hruns]

/-- The first pocket record goes. -/
theorem State.copyPocket_first {p : Pocket} {ps : List Pocket} (hp : s.keeper.pocket = p :: ps) :
    s.copyPocket = ({ s with keeper.pocket := ps } : State).recordPocket p := by
  rw [State.copyPocket, if_neg (State.pocket_copies hup hruns)]
  simp only [hp]
  rfl

/-- With none left, the record kept for a SHRED goes. -/
theorem State.copyPocket_last {p : Pocket} (hp : s.keeper.pocket = []) (hl : s.keeper.last = some p) :
    s.copyPocket = ({ s with keeper.last := none } : State).recordPocket p := by
  rw [State.copyPocket, if_neg (State.pocket_copies hup hruns)]
  simp only [hp, hl]
  rfl

/-- With no record left, the count of those that were lost goes. -/
theorem State.copyPocket_overflow (hp : s.keeper.pocket = []) (hl : s.keeper.last = none) :
    s.copyPocket = if s.get R.keeperPocketOverflow = 0 then s
      else (s.logAdd 0x11 0xFFFF 0xFFFF (leBytes 1 (s.get R.keeperPocketOverflow))).put R.keeperPocketOverflow 0 := by
  rw [State.copyPocket, if_neg (State.pocket_copies hup hruns)]
  simp only [hp, hl]

end

/-! ### Alarms and decisions (R350, R357 to R359) -/

section
variable {s : State} {n detail value : Nat} {b : Bool}

/-- A path of a source that is not watched, or that alarms already, does nothing more. -/
theorem State.alarm_ignored (h : s.watched n = false ∨ s.pathUp b n = true) : s.alarm n b detail value = s := by
  have hignored : (!s.watched n) = true ∨ s.pathUp b n = true := by simpa using h
  rw [State.alarm, if_pos hignored]

/-- A weak response is performed at once (R358). -/
theorem State.settleAlarm_performs {d : Decision} (h : d.response < 3) : s.settleAlarm n d = s.perform n d.response d false :=
  if_neg (Nat.not_le.2 h)

/-- A PURGE or SHRED alerts and locks at once, and waits for the second path (R358). -/
theorem State.settleAlarm_delays {d : Decision} (h : 3 ≤ d.response) :
    s.settleAlarm n d =
      let begun := s.alert.lockAct.delayFor n
      ({ begun.1 with keeper.deciding := store begun.1.keeper.deciding n { d with delay := begun.2 } } : State).showDeciding := if_pos h

/-- The first path of source `n` stands alarmed in `s`; a CELL change clears at once (Table TK.2). -/
def State.alarmStands (s : State) (n : Nat) (b : Bool) : State :=
  let first := s.detected.incSat R.keeperTamperCountAlarms
  if n = 9 then first else (first.setPath b n true).putBit R.keeperAlarmedAlarmed n true

section
variable (hwatched : s.watched n = true) (hdown : s.pathUp b n = false)
include hwatched hdown

/-- A path of a watched source that does not alarm yet is looked at. -/
theorem State.alarm_counts : ¬ ((!s.watched n) = true ∨ s.pathUp b n = true) := by simp [hwatched, hdown]

/-- The first path counts, and its response begins (R357). -/
theorem State.alarm_first (hother : (s.showSensor n detail value).pathUp (!b) n = false) :
    s.alarm n b detail value =
      let shown := s.showSensor n detail value
      (shown.alarmStands n b).settleAlarm n (shown.decision n b false detail value) := by
  rw [State.alarm, if_neg (State.alarm_counts hwatched hdown)]
  simp only [hother, Bool.false_eq_true, if_false, State.alarmStands]
  split <;> rfl

/-- The second path agrees with the decision under way (R358). -/
theorem State.alarm_second (hother : (s.showSensor n detail value).pathUp (!b) n = true) :
    s.alarm n b detail value =
      let t := (s.showSensor n detail value).setPath b n true
      { t with keeper.deciding := adjust t.keeper.deciding n (fun d => { d with agreed := true }) } := by
  rw [State.alarm, if_neg (State.alarm_counts hwatched hdown)]
  simp only [hother, if_true]

end

/-- At the delay's end the erasure that both paths want is performed (R358). -/
theorem State.delayEnd_agreed {d : Decision} (hd : look s.keeper.deciding n = some d) (h : d.agreed = true) :
    s.delayEnd n = (({ s with keeper.deciding := drop s.keeper.deciding n } : State).showDeciding).perform n d.response d true := by
  simp only [State.delayEnd, hd, h, if_true]

/-- One that a single path wants is a mismatch, recorded with the source and as source 25 (R358, R359). -/
theorem State.delayEnd_mismatch {d : Decision} (hd : look s.keeper.deciding n = some d) (h : d.agreed = false) :
    s.delayEnd n =
      let after := ({ s with keeper.deciding := drop s.keeper.deciding n } : State).showDeciding
      let flags := pocketFlags d.battery true false d.bFirst
      (((after.incSat R.keeperTamperCountMismatches).tamperSeen n 2 true d.battery).pocketAdd d.serial d.time n 2 flags d.detail
        d.value).pocketNow 25 2 flags 0 0 := by
  simp only [State.delayEnd, hd, h, Bool.false_eq_true, if_false]

/-- An alarm that has passed clears; KEEPER_POWER's never does (R350, Table TK.2). -/
theorem exec_tamperAlarmClear (n : Nat) (s : State) :
    exec (.tamperAlarmClear n) s = .next (if n = 26 then s
      else ((s.setPath false n false).setPath true n false).putBit R.keeperAlarmedAlarmed n false) := rfl

end

/-! ### The keeper's masks (R67, R111) -/

section
variable {s u w : State} {rs : Bytes} {anchor : Nat}

/-- Both copies of RS under a fresh K (R67). -/
def State.maskRs (s : State) (rs : Bytes) : State := (s.storeRs rs (Config.random s.fresh 32)).drawn

/-- Both copies of the anchor under a fresh mask of their own (R111). -/
def State.maskAnchor (s : State) (anchor : Nat) : State :=
  ({ s with keys.anchor := Twin.of (leBytes 8 anchor) (Config.random s.fresh 8) } : State).drawn

/-- What a use of the anchor gives is masked again, where it gives one. -/
def State.remaskAnchor (s : State) : State := (s.useAnchor.2).elim s.useAnchor.1 s.useAnchor.1.maskAnchor

theorem State.remaskAnchor_some (h : s.useAnchor = (w, some anchor)) : s.remaskAnchor = w.maskAnchor anchor := by
  simp only [State.remaskAnchor, h, Option.elim]

theorem State.remaskAnchor_none (h : s.useAnchor = (w, none)) : s.remaskAnchor = w := by
  simp only [State.remaskAnchor, h, Option.elim]

/-- While NK does not pass its tests the masks stay (R201). -/
theorem State.rotateMask_idle (h : s.nkServes = false) : s.rotateMask = s := by
  rw [State.rotateMask, h]
  rfl

/-- While it does, RS is masked again where a use of it gives one, and then the anchor. -/
theorem State.rotateMask_serves (h : s.nkServes = true) :
    s.rotateMask = ((s.useRs.2).elim s.useRs.1 s.useRs.1.maskRs).remaskAnchor := by
  rw [State.rotateMask, h, State.remaskAnchor, if_neg (by decide)]
  rcases s.useRs with ⟨u, _ | rs⟩
  · dsimp only [Option.elim]
    rcases u.useAnchor with ⟨w, _ | v⟩ <;> rfl
  · dsimp only [Option.elim, State.maskRs]
    rcases (u.storeRs rs (Config.random u.fresh 32)).drawn.useAnchor with ⟨w, _ | v⟩ <;> rfl

theorem State.rotateMask_rs (h : s.nkServes = true) (hrs : s.useRs = (u, some rs)) : s.rotateMask = (u.maskRs rs).remaskAnchor := by
  simp only [State.rotateMask_serves h, hrs, Option.elim]

theorem State.rotateMask_noRs (h : s.nkServes = true) (hrs : s.useRs = (u, none)) : s.rotateMask = u.remaskAnchor := by
  simp only [State.rotateMask_serves h, hrs, Option.elim]

end

/-! ### What lapses -/

/-- A replication offer that is held lapses at its end (R439). -/
theorem exec_replicationOfferExpiry_held {s : State} {tenant : Nat} {o : Offer} (ho : look s.ferry.offers tenant = some o) :
    exec (.replicationOfferExpiry tenant) s
      = .next (if o.ends ≤ s.compass.mc then { s with ferry.offers := drop s.ferry.offers tenant } else s) := by
  show execReplicationOfferExpiry tenant s = _
  simp only [execReplicationOfferExpiry, ho]

/-! ### The commands of this family that are one operation -/

theorem exec_pocketRecordCopy (s : State) : exec .pocketRecordCopy s = .next s.copyPocket := rfl
theorem exec_logFreezeTimeout (s : State) : exec .logFreezeTimeout s = .next s.logThaw := rfl
theorem exec_keeperMaskRotate (s : State) : exec .keeperMaskRotate s = .next s.rotateMask := rfl
theorem exec_tamperAlarm (n : Nat) (b : Bool) (detail value : Nat) (s : State) :
    exec (.tamperAlarm n b detail value) s = .next (s.alarm n b detail value) := rfl
theorem exec_tamperDecisionDelayEnd (n : Nat) (s : State) : exec (.tamperDecisionDelayEnd n) s = .next (s.delayEnd n) := rfl

/-- Settles O57, clause by clause: the log and the journal, the pocket log, the alarms, the keeper's masks, and what lapses. -/
theorem recordsAndKeeper : Obligations.RecordsAndKeeper := by
  intro s typ n v detail value b e rest p d o ps u w rs anchor size seq at_ told took held known shown first said stands begun masked
    after flags apart
  simp only [exec_pocketRecordCopy, exec_logFreezeTimeout, exec_keeperMaskRotate, exec_tamperAlarm, exec_tamperDecisionDelayEnd,
    Host.Outcome.next.injEq]
  refine ⟨rfl, State.logThaw_running, State.logThaw_frozen,
    fun hsize hreset hquiesce => ⟨fun hgap hj => ?_, fun hgap => ?_, ?_⟩, fun hwaits => ?_,
    State.copyPocket_frozen, fun hup hruns => ⟨fun hp hk => ?_, fun hp hk => ?_, fun hp hl hk => ?_, fun hp hl h0 => ?_,
      fun hp hl h0 => ?_⟩,
    fun hwatched hdown => ⟨fun hother hweak => ?_, fun hother hstrong => ?_, State.alarm_second hwatched hdown⟩,
    fun hd => ⟨State.delayEnd_agreed hd, State.delayEnd_mismatch hd⟩, fun hn => ?_, ?_, State.alarm_ignored, State.rotateMask_idle,
    fun hserves => ⟨fun hrs ha => ?_, fun hrs ha => ?_, fun hrs ha => ?_, fun hrs ha => ?_⟩, rfl,
    fun ho hheld => ?_, fun ho hends => ?_⟩
  · rw [exec_journalEntryWrite_runs hquiesce, State.journalWrite_entry hsize hreset hgap hj]
    rfl
  · rw [exec_journalEntryWrite_runs hquiesce, State.journalWrite_gap hsize hreset hgap]
    rfl
  · rw [exec_journalEntryWrite_runs hquiesce, State.journalWrite_failed hsize hreset]
  · cases hquiesce : s.is (R.hdrCtrlQuiesce 0x30000) with
    | true => exact exec_journalEntryWrite_quiesced hquiesce
    | false =>
      have hreset : bitOf s.pwr.regionReset 6 = true := by simpa [hquiesce] using hwaits
      rw [exec_journalEntryWrite_runs hquiesce, State.journalWrite_resets hreset]
  · rw [State.copyPocket_first hup hruns hp]
    exact State.recordPocket_new hk
  · rw [State.copyPocket_first hup hruns hp]
    exact State.recordPocket_known hk
  · rw [State.copyPocket_last hup hruns hp hl]
    exact State.recordPocket_new hk
  · rw [State.copyPocket_overflow hup hruns hp hl, if_pos h0]
  · rw [State.copyPocket_overflow hup hruns hp hl, if_neg h0]
  · rw [State.alarm_first hwatched hdown hother]
    exact State.settleAlarm_performs hweak
  · rw [State.alarm_first hwatched hdown hother]
    exact State.settleAlarm_delays hstrong
  · rw [exec_tamperAlarmClear, if_neg hn]
  · rw [exec_tamperAlarmClear, if_pos rfl]
  · rw [State.rotateMask_rs hserves hrs]
    exact State.remaskAnchor_some ha
  · rw [State.rotateMask_rs hserves hrs]
    exact State.remaskAnchor_none ha
  · rw [State.rotateMask_noRs hserves hrs, State.remaskAnchor_some ha]
    rfl
  · rw [State.rotateMask_noRs hserves hrs, State.remaskAnchor_none ha]
  · rw [exec_replicationOfferExpiry_held ho, if_neg (Nat.not_le.2 hheld)]
  · rw [exec_replicationOfferExpiry_held ho, if_pos hends]

end Sys2Proof.Machine
end

section
/-! SUPPORT and SETTLED. The store's response ring, its batch and its timeouts (R112, R116, R117, R119, R124, R475, R476, R478). -/

namespace Sys2Proof.Machine

/-! ### The answer to a request (R119, R476) -/

/-- The key under which the page that a fetch brings is kept. -/
def Req.pageKey (r : Req) : Nat := 2 * r.page + (if r.op = 2 then 1 else 0)

/-- The state in which the page of the fetch `r` reads so. -/
def State.fetchedAs (s : State) (r : Req) (page : Option Bytes) (failed : Bool) : State :=
  { s with hs.fetched := store s.hs.fetched r.pageKey ⟨page, r.second, failed⟩ }

section
variable {s : State} {r : Req}

/-- A fetch that brought its page. -/
theorem State.answer_page (b : Bytes) (hop : r.op = 1 ∨ r.op = 2) : s.answer r 0 (some b) = s.fetchedAs r (some b) false := if_pos hop

/-- A fetch of a page that is ABSENT. -/
theorem State.answer_absent (hop : r.op = 1 ∨ r.op = 2) : s.answer r 2 none = s.fetchedAs r none false := if_pos hop

/-- A fetch that failed twice. -/
theorem State.answer_undelivered (hop : r.op = 1 ∨ r.op = 2) (hagain : r.again = true) :
    s.answer r 1 none = s.fetchedAs r none true := (if_pos hop).trans (if_pos hagain)

/-- A fetch or a write that failed once is posted again. -/
theorem State.answer_retried (hop : r.op ∈ [1, 2, 3, 4]) (hagain : r.again = false) :
    s.answer r 1 none = s.post { r with again := true, buffer := none } := by
  have honce : ¬ r.again = true := by simp [hagain]
  by_cases hfetch : r.op = 1 ∨ r.op = 2
  · exact (if_pos hfetch).trans (if_neg honce)
  · have hwrite : r.op = 3 ∨ r.op = 4 := by
      simp only [List.mem_cons, List.not_mem_nil, or_false] at hop
      omega
    exact (if_neg hfetch).trans ((if_pos hwrite).trans ((if_neg (by decide)).trans (if_neg honce)))

/-- A write that the host has taken: its BARRIER is what commits it (R112). -/
theorem State.answer_written (hop : r.op = 3 ∨ r.op = 4) (page : Option Bytes) : s.answer r 0 page = s :=
  (if_neg (by omega)).trans (if_pos hop)

/-- A write that failed twice ends its batch (R476). -/
theorem State.answer_writeFailed (hop : r.op = 3 ∨ r.op = 4) (hagain : r.again = true) (page : Option Bytes) :
    s.answer r 1 page = s.failBatch :=
  (if_neg (by omega)).trans ((if_pos hop).trans ((if_neg (by decide)).trans (if_pos hagain)))

/-- The answer to a BARRIER commits its batch, or ends it (R112, R476). -/
theorem State.answer_barrier (hop : r.op = 5) (result : Nat) (page : Option Bytes) :
    s.answer r result page = if result = 0 then s.commitBatch else s.failBatch := by
  simp only [State.answer, hop]
  rfl

/-- The answer to REOPEN opens the store, whatever it says (R118). -/
theorem State.answer_reopen (hop : r.op = 8) (result : Nat) (page : Option Bytes) : s.answer r result page = s.reopened := by
  simp only [State.answer, hop]
  rfl

end

/-! ### A response entry (R116, R119, R475) -/

/-- The store runs, and the host has written a response entry that the device has not consumed. -/
def State.responseThere (s : State) : Prop :=
  s.storeRuns = true ∧ s.hs.attached = true ∧ s.get R.storeRspConsIndex ≠ s.get R.storeRspProdIndex

/-- The state in which the response entry at STORE_RSP_CONS is consumed. -/
def State.responseRead (s : State) : State :=
  ({ s with hs.stuck := false } : State).put R.storeRspConsIndex (s.get R.storeRspConsIndex + 1)

/-- The state in which the entry has freed its TAG. -/
def State.tagFreed (s : State) (tag : Nat) : State := { s.responseRead with hs.reqs := drop s.responseRead.hs.reqs tag }

section
variable {s : State} {tag : Nat} {page : Option Bytes} (hthere : s.responseThere)
include hthere

/-- With an entry there the device does not turn back. -/
theorem State.response_taken : ¬ ((!s.hs.attached) = true ∨ s.get R.storeRspConsIndex = s.get R.storeRspProdIndex) := by
  obtain ⟨-, hattached, hindex⟩ := hthere
  simp [hattached, hindex]

/-- An entry that cannot be read is a translation fault, and the ring is stuck (R475). -/
theorem State.takeResponse_unread : s.takeResponse ⟨none, page⟩ =
    let a := s.get R.storeRspBaseAddr + 16 * (s.get R.storeRspConsIndex % 2 ^ s.get R.storeRspCfgLog2Size)
    ({ (s.ituFault 0 a ((s.storeReach a 16 false).getD 4) false) with hs.stuck := true } : State) :=
  if_neg (State.response_taken hthere)

/-- An entry that names no outstanding request is counted (R116). -/
theorem State.takeResponse_stray {result : Nat} (hreq : look s.hs.reqs tag = none) :
    s.takeResponse ⟨some (tag, result), page⟩ = s.responseRead.incSat R.storeRspConsDropped := by
  rw [State.takeResponse, if_neg (State.response_taken hthere)]
  simp only [State.put_hs, hreq, State.responseRead]

variable {r : Req} (hreq : look s.hs.reqs tag = some r)
include hreq

/-- An entry that answers a request frees its TAG and acts on it, unless the answer only frees the TAG (R119, R478), and unless the
page of a fetch could not be read. -/
theorem State.takeResponse_answers {result : Nat} (hpage : r.op = 1 ∨ r.op = 2 → result = 0 → page.isNone = false) :
    s.takeResponse ⟨some (tag, result), page⟩
      = if r.stale then s.tagFreed tag else (s.tagFreed tag).answer r result (page.map (padTo 4096)) := by
  have hread : ¬ ((r.op = 1 ∨ r.op = 2) ∧ result = 0 ∧ page.isNone = true) := by
    rintro ⟨hop, hresult, hnone⟩
    simp [hpage hop hresult] at hnone
  rw [State.takeResponse, if_neg (State.response_taken hthere)]
  simp only [State.put_hs, hreq, if_neg hread, State.tagFreed, State.responseRead]

/-- The answer to a request that still counts. -/
theorem State.takeResponse_live {result : Nat} (hstale : r.stale = false)
    (hpage : r.op = 1 ∨ r.op = 2 → result = 0 → page.isNone = false) :
    s.takeResponse ⟨some (tag, result), page⟩ = (s.tagFreed tag).answer r result (page.map (padTo 4096)) := by
  rw [State.takeResponse_answers hthere hreq hpage, if_neg (by simp [hstale])]

end

/-! ### The events -/

section
variable {s : State}

/-- STORE_RESPONSE takes the entry that is there. -/
theorem exec_storeResponse_there (hthere : s.responseThere) (rsp : StoreRsp) :
    exec (.storeResponse rsp) s = .next (s.takeResponse rsp).onward := by
  show execStoreResponse rsp s = _
  rw [execStoreResponse, if_pos hthere.1]

/-- STORE_RSP_RETRY of a stuck ring reads the entry again (R475). -/
theorem exec_storeRspRetry_stuck (hthere : s.responseThere) (hstuck : s.hs.stuck = true) (rsp : StoreRsp) :
    exec (.storeRspRetry rsp) s = .next (s.takeResponse rsp).onward := by
  show execStoreRspRetry rsp s = _
  rw [execStoreRspRetry, if_pos ⟨hthere.1, hstuck⟩]

/-- STORE_RESPONSE to a request that still counts does what its answer does. -/
theorem exec_storeResponse_answer {tag result : Nat} {page : Option Bytes} {r : Req} {v : State} (hthere : s.responseThere)
    (hreq : look s.hs.reqs tag = some r) (hstale : r.stale = false)
    (hv : (s.tagFreed tag).answer r result (page.map (padTo 4096)) = v)
    (hpage : r.op = 1 ∨ r.op = 2 → result = 0 → page.isNone = false) :
    exec (.storeResponse ⟨some (tag, result), page⟩) s = .next v.onward := by
  rw [exec_storeResponse_there hthere, State.takeResponse_live hthere hreq hstale hpage, hv]

/-- STORE_BATCH_CLOSE closes an open batch (R124). -/
theorem exec_storeBatchClose_open (hruns : s.storeRuns = true) (hopen : s.batchOpen = true) :
    exec .storeBatchClose s = .next (((s.onOpen (fun b => { b with
      phase := 1, writes := s.batchWrites b, root := s.hs.root, serial := s.hs.nextSerial })).put
        R.storeStatusBatchOpen 0).startCommit.barrier).onward := by
  show execStoreBatchClose s = _
  rw [execStoreBatchClose, if_pos hruns, State.closeBatch, if_pos hopen]

/-- STORE_BUFFER_FREED posts what can go out next, and the BARRIER after the last write (R117). -/
theorem exec_storeBufferFreed_runs (hruns : s.storeRuns = true) : exec .storeBufferFreed s = .next s.postOne.barrier := by
  show execStoreBufferFreed s = _
  rw [execStoreBufferFreed, if_pos hruns, State.postWaiting]

/-- STORE_FETCH_TIMEOUT of an outstanding request. -/
theorem exec_storeFetchTimeout_runs {tag : Nat} (hruns : s.storeRuns = true) :
    exec (.storeFetchTimeout tag) s = .next (s.fetchTimeout tag) := by
  show execStoreFetchTimeout tag s = _
  rw [execStoreFetchTimeout, if_pos hruns]

variable {tag : Nat} {r : Req} (hreq : look s.hs.reqs tag = some r)
include hreq

/-- A fetch that is given up: its commands see that its page did not come, and its answer will only free its TAG (R119). -/
theorem State.fetchTimeout_fetch (hop : r.op = 1 ∨ r.op = 2) (hstale : r.stale = false) :
    s.fetchTimeout tag = ({ s with
      hs.reqs := store s.hs.reqs tag { r with stale := true }
      hs.fetched := store s.hs.fetched r.pageKey ⟨none, r.second, true⟩ } : State).onward := by
  have hfetch : (r.op = 1 ∨ r.op = 2) ∧ (!r.stale) = true := ⟨hop, by simp [hstale]⟩
  simp only [State.fetchTimeout, hreq, if_pos hfetch, Req.pageKey]

/-- Any other request waits on. -/
theorem State.fetchTimeout_other (hop : 2 < r.op) : s.fetchTimeout tag = s := by
  have hother : ¬ ((r.op = 1 ∨ r.op = 2) ∧ (!r.stale) = true) := by omega
  simp only [State.fetchTimeout, hreq, if_neg hother]

end

/-- STORE_HELD_TIMEOUT of a command held for the store while it reopens (R478). -/
theorem exec_storeHeldTimeout_held {s : State} {cid : Nat} {c : Cmd} (hc : look s.host.cmds cid = some c)
    (hwaits : s.is R.storeStatusReopenWait = true) (hstage : c.stage = .route) (hneeds : c.needs.contains needStore = true) :
    exec (.storeHeldTimeout cid) s = .next (s.complete cid (Resp.of St.storeUnavailable)).onward := by
  show execStoreHeldTimeout cid s = _
  simp only [execStoreHeldTimeout, hc]
  rw [if_pos ⟨hwaits, hstage, hneeds⟩]

/-- Settles O50, clause by clause: what a response entry does by the request that it answers, the batch and the buffers, the timeouts,
and a second of every slot's age. -/
theorem storeEvents : Obligations.StoreEvents := by
  intro s r tag result cid c page at_ there t done key fetched again torn
  refine ⟨fun hthere hreq => ?_, fun hthere => ?_, fun hthere hstuck => ?_, fun hthere hreq hstale => ?_,
    fun hthere hreq hstale => ⟨fun hop => ⟨?_, fun hstuck => ?_, ?_, fun hagain => ?_⟩, fun hop hagain => ?_, fun hop => ?_,
      fun hop hagain => ?_, fun hop => ?_, fun hop => ?_, fun hop => ?_⟩,
    exec_storeBatchClose_open, fun hruns hnext => ?_, fun hruns hnext => ?_,
    fun hruns hreq hstale => ⟨fun hop => ?_, fun hop => ?_⟩, exec_storeHeldTimeout_held, rfl⟩
  · rw [exec_storeResponse_there hthere, State.takeResponse_stray hthere hreq]
    rfl
  · rw [exec_storeResponse_there hthere, State.takeResponse_unread hthere]
  · rw [exec_storeRspRetry_stuck hthere hstuck, State.takeResponse_unread hthere]
  · rw [exec_storeResponse_there hthere, State.takeResponse_answers hthere hreq fun _ _ => rfl, if_pos hstale]
    rfl
  · exact exec_storeResponse_answer hthere hreq hstale (State.answer_page _ hop) fun _ _ => rfl
  · rw [exec_storeRspRetry_stuck hthere hstuck, State.takeResponse_live hthere hreq hstale fun _ _ => rfl]
    exact congrArg (fun x : State => Host.Outcome.next x.onward) (State.answer_page _ hop)
  · exact exec_storeResponse_answer hthere hreq hstale (State.answer_absent hop) (by omega)
  · exact exec_storeResponse_answer hthere hreq hstale (State.answer_undelivered hop hagain) (by omega)
  · exact exec_storeResponse_answer hthere hreq hstale (State.answer_retried hop hagain) (by omega)
  · exact exec_storeResponse_answer hthere hreq hstale (State.answer_written hop _) (by omega)
  · exact exec_storeResponse_answer hthere hreq hstale (State.answer_writeFailed hop hagain _) (by omega)
  · exact exec_storeResponse_answer hthere hreq hstale (State.answer_barrier hop 0 _) (by omega)
  · exact exec_storeResponse_answer hthere hreq hstale (State.answer_barrier hop 1 _) (by omega)
  · exact exec_storeResponse_answer hthere hreq hstale (State.answer_reopen hop _ _) (by omega)
  · rw [exec_storeBufferFreed_runs hruns, State.postOne, hnext]
  · rw [exec_storeBufferFreed_runs hruns, State.postOne, hnext]
  · rw [exec_storeFetchTimeout_runs hruns, State.fetchTimeout_fetch hreq hop hstale]
    rfl
  · rw [exec_storeFetchTimeout_runs hruns, State.fetchTimeout_other hreq hop]

end Sys2Proof.Machine
end

section
/-! SUPPORT and SETTLED. The host's store indices (R116, R117, R131). -/

namespace Sys2Proof.Machine

/-- The PF may write both indices of the host (R131). -/
theorem writeGate_storeIndex : ∀ w ∈ [0xA0068, 0xA007C], writeGate ⟨0x50, 0⟩ (fieldsOf w) = .pass := by decide

section
variable {s : State} {r : Requester} {v : Nat}

/-- A write to STORE_REQ_CONS is one of its index, and what waits goes on. -/
theorem State.writeSlow_reqCons : s.writeSlow r 0xA0068 v = (s.writeReqCons r (v % 65536)).pump := by
  simp [State.writeSlow, blockOf, nthReg]

/-- A write to STORE_RSP_PROD is one of its index. -/
theorem State.writeSlow_rspProd : s.writeSlow r 0xA007C v = s.writeRspProd r (v % 65536) := by
  simp [State.writeSlow, blockOf, nthReg]

/-- An index up to STORE_REQ_PROD is taken, and waiting requests go out as there is room (R117). -/
theorem State.writeReqCons_taken (h : (v + 0x10000 - s.get R.storeReqConsIndex) % 0x10000
      ≤ (s.get R.storeReqProdIndex + 0x10000 - s.get R.storeReqConsIndex) % 0x10000) :
    s.writeReqCons r v = (let u := s.put R.storeReqConsIndex v; u.postAll u.hs.waiting.length) := if_pos h

/-- One that goes backwards or past STORE_REQ_PROD is DENIED (R131). -/
theorem State.writeReqCons_denied (h : (s.get R.storeReqProdIndex + 0x10000 - s.get R.storeReqConsIndex) % 0x10000
      < (v + 0x10000 - s.get R.storeReqConsIndex) % 0x10000) :
    s.writeReqCons r v = s.accessErr r 4 0xA0068 true := if_neg (Nat.not_le.2 h)

/-- An index up to the ring's size ahead of STORE_RSP_CONS is taken, and prompts the device to read (R116). -/
theorem State.writeRspProd_taken
    (h : (v + 0x10000 - s.get R.storeRspConsIndex) % 0x10000 ≤ 2 ^ s.get R.storeRspCfgLog2Size) :
    s.writeRspProd r v = (({ s with hs.stuck := false } : State).put R.storeRspProdIndex v).askResponse := if_pos h

/-- One farther ahead is DENIED (R131). -/
theorem State.writeRspProd_denied
    (h : 2 ^ s.get R.storeRspCfgLog2Size < (v + 0x10000 - s.get R.storeRspConsIndex) % 0x10000) :
    s.writeRspProd r v = s.accessErr r 4 0xA007C true := if_neg (Nat.not_le.2 h)

/-- STORE_REQ_CONS_WRITE that gets through. -/
theorem exec_storeReqConsWrite_reaches (hv : v < 65536) (h : s.writes32 ⟨0x50, 0⟩ 0xA0068) :
    exec (.storeReqConsWrite v) s = .next ((s.noHalf ⟨0x50, 0⟩).writeReqCons ⟨0x50, 0⟩ v).pump := by
  have hindex : v % 2 ^ 32 % 65536 = v := by omega
  show Host.Outcome.next (s.write ⟨0x50, 0⟩ 0xA0068 4 v true) = _
  rw [h.slow (writeGate_storeIndex _ (by decide)), State.writeSlow_reqCons, hindex]

/-- STORE_RSP_PROD_WRITE that gets through. -/
theorem exec_storeRspProdWrite_reaches (hv : v < 65536) (h : s.writes32 ⟨0x50, 0⟩ 0xA007C) :
    exec (.storeRspProdWrite v) s = .next ((s.noHalf ⟨0x50, 0⟩).writeRspProd ⟨0x50, 0⟩ v) := by
  have hindex : v % 2 ^ 32 % 65536 = v := by omega
  show Host.Outcome.next (s.write ⟨0x50, 0⟩ 0xA007C 4 v true) = _
  rw [h.slow (writeGate_storeIndex _ (by decide)), State.writeSlow_rspProd, hindex]

end

/-- Settles O40: each index is taken within its range, and DENIED past it. -/
theorem storeIndices : Obligations.StoreIndices := by
  intro s v hv r t cons
  refine ⟨fun h hrange => ?_, fun h hpast => ?_, fun h hrange => ?_, fun h hpast => ?_⟩
  · rw [exec_storeReqConsWrite_reaches hv h, State.writeReqCons_taken (s := s.noHalf r) hrange]
  · rw [exec_storeReqConsWrite_reaches hv h, State.writeReqCons_denied (s := s.noHalf r) hpast]
  · rw [exec_storeRspProdWrite_reaches hv h, State.writeRspProd_taken (s := s.noHalf r) hrange]
  · rw [exec_storeRspProdWrite_reaches hv h, State.writeRspProd_denied (s := s.noHalf r) hpast]

end Sys2Proof.Machine
end

section
/-! SUPPORT and SETTLED. The acts on the store (R115, R128 to R130, R477, R478). -/

namespace Sys2Proof.Machine

/-! ### STORE_ATTACH (R477, R478) -/

/-- The store without what an earlier attachment left. -/
def State.detached (s : State) : State := if s.hs.attached then s.abandon St.storeUnavailable else s

/-- The rings and the pool of a STORE_ATTACH payload, attached and empty. -/
def State.ringsOf (s : State) (p : Bytes) : State :=
  ((((((((((({ s with
    hs.attached := true, hs.reqs := [], hs.waiting := [], hs.unposted := [], hs.posting := none, hs.nextTag := 0
    hs.stuck := false } : State).put R.storeReqBaseAddr (le p 0 8)).put R.storeRspBaseAddr (le p 8 8)).put
    R.storePoolBaseAddr (le p 16 8)).put R.storeReqCfgLog2Size (le p 24 1)).put R.storeReqCfgBuffers (le p 26 2)).put
    R.storeRspCfgLog2Size (le p 25 1)).put R.storeReqProdIndex 0).put R.storeReqConsIndex 0).put R.storeRspProdIndex 0).put
    R.storeRspConsIndex 0).put R.storeRspConsDropped 0

section
variable {m : Msg} {s : State}

/-- STORE_ATTACH of rings and a pool in range: what the earlier attachment left ends, and the store reopens. -/
theorem storeAttach_attaches (hlen : m.payloadLen = 32) (hrl : 4 ≤ le m.payload 24 1 ∧ le m.payload 24 1 ≤ 12)
    (hsl : 4 ≤ le m.payload 25 1 ∧ le m.payload 25 1 ≤ 12) (hbufs : 16 ≤ le m.payload 26 2 ∧ le m.payload 26 2 ≤ 4096)
    (hreq : le m.payload 0 8 % 4096 = 0) (hrsp : le m.payload 8 8 % 4096 = 0) (hpool : le m.payload 16 8 % 4096 = 0)
    (hzero : le m.payload 28 4 = 0) :
    storeAttach m s = (((s.detached.ringsOf m.payload).completeAll (fun x =>
      x.stage == .route && x.needs.any (fun n => decide (n < needEntropy)) && s.hs.attached) St.storeUnavailable).reopen, .of St.ok) :=
  if_neg (by omega)

/-! ### STORE_FORMAT (R115) -/

section
variable (hlen : m.payloadLen = 1) (hlog2 : 10 ≤ le m.payload 0 1 ∧ le m.payload 0 1 ≤ 30) (hattached : s.hs.attached = true)
  (hepoch : s.get R.keeperStoreEpochRows < 64) (hreopen : s.get R.storeStatusReopenWait = 0) (hidle : s.hs.formatting = none)
  (hseeds : s.keys.idSeeds ≠ [])
include hlen hlog2 hattached hepoch hreopen hidle hseeds

/-- STORE_FORMAT of an attached store that is open to it has its open batch closed first, and runs once no batch is left. -/
theorem storeFormat_eq : storeFormat m s =
    if s.hs.batches = [] then
      ((((((({ s with hs.formatting := none } : State).writeFormat (s.get R.keeperStoreEpochRows + 1) (le m.payload 0 1) (s.opIdOf m)).put
        R.keeperStoreEpochRows (s.get R.keeperStoreEpochRows + 1)).setStk).formatRecord (le m.payload 0 1)).zeroFormat).reopen, .of St.ok)
    else (({ s with hs.formatting := some (m.cid, le m.payload 0 1, s.get R.keeperStoreEpochRows) } : State).closeBatch,
      .wait [needStore]) := by
  have hform : ¬ (m.payloadLen ≠ 1 ∨ le m.payload 0 1 < 10 ∨ le m.payload 0 1 > 30) := by omega
  have hready : s.is R.storeStatusReopenWait = false := by simp [State.is, hreopen]
  rw [storeFormat, if_neg hform, if_neg (by simp [hattached]), if_neg (Nat.not_le.2 hepoch), if_neg (by simp [hready, hidle]),
    if_neg (by simp [hseeds])]
  cases hbatches : s.hs.batches <;> rfl

end

/-! ### STORE_RECHECK, STORE_PRUNE and STORE_RECLAIM_RANGE (R128 to R130) -/

/-- STORE_RECHECK of a page that verifies clears the marks over it (R129). -/
theorem storeRecheck_clears {v : State} {bytes : Bytes} (hlen : m.payloadLen = 8) (hgate : s.storeGate false = none)
    (hpage : le m.payload 0 8 < s.storePages) (hread : s.readPage (le m.payload 0 8) false = (v, .page bytes)) :
    storeRecheck m s = (v.clearMarks (le m.payload 0 8), .of St.ok) := by
  rw [storeRecheck, if_neg (by simp [hlen]), hgate]
  simp only [if_neg (Nat.not_le.2 hpage), hread]

/-- STORE_PRUNE of a subtree that is marked failed takes it out of the tree in the open batch (R130). -/
theorem storePrune_prunes {k i : Nat} {v : State} {bytes : Bytes} (hk : k = le m.payload 0 1) (hi : i = le m.payload 1 4)
    (hlen : m.payloadLen = 5) (hlevel : k ≤ 9) (hgate : s.storeGate true = none)
    (hmarked : (k, i) ∈ s.hs.failed ∨ (k = 5 ∧ i ∈ s.hs.failed5))
    (hread : s.readNodes (.page []) (pathNodes (i * 8 ^ k) k) = (v, .page bytes)) :
    storePrune m s = (((v.openBatch.forgetSubtree k i).retagFrom (i * 8 ^ k) k emptyTag).countDirty.stageDone
      ⟨m.cid, Resp.of St.ok, none⟩, .staged) := by
  subst hk hi
  have hform : ¬ (m.payloadLen ≠ 5 ∨ le m.payload 0 1 > 9) := by omega
  have hfailed : (s.hs.failed.contains (le m.payload 0 1, le m.payload 1 4)
      || (le m.payload 0 1 == 5 && s.hs.failed5.contains (le m.payload 1 4))) = true := by
    simpa only [Bool.or_eq_true, Bool.and_eq_true, beq_iff_eq, List.contains_iff_mem] using hmarked
  rw [storePrune, if_neg hform, hgate]
  simp only [hfailed, Bool.not_true, Bool.false_eq_true, if_false, hread]

/-- STORE_RECLAIM_RANGE of pages that are there reclaims them one by one (R128); with a cell freed its answer waits for the batch. -/
theorem storeReclaimRange_reclaims {p n : Nat} {v : State} {bytes : Bytes} (hp : p = le m.payload 0 8) (hn : n = le m.payload 8 2)
    (hlen : m.payloadLen = 10) (hcount : 1 ≤ n ∧ n ≤ 4096) (hgate : s.storeGate true = none) (hrange : p + n ≤ s.storePages)
    (hread : s.readRange ((List.range n).map (fun i => p + i)) = (v, .page bytes)) :
    storeReclaimRange m s =
      let d := v.reclaimPages ((List.range n).map (fun i => p + i))
      let r := Resp.okay (leBytes 4 d.2.1 ++ leBytes 4 d.2.2.1 ++ leBytes 4 d.2.2.2)
      if d.2.1 = 0 then (d.1, .resp r) else (d.1.stageLast ⟨m.cid, r, none⟩, .staged) := by
  subst hp hn
  have hform : ¬ (m.payloadLen ≠ 10 ∨ le m.payload 8 2 = 0 ∨ le m.payload 8 2 > 4096) := by omega
  rw [storeReclaimRange, if_neg hform, hgate]
  simp only [if_neg (Nat.not_lt.2 hrange), hread]

end

/-- Settles O17, act by act. -/
theorem storeCommands : Obligations.StoreCommands := by
  intro m s u c
  refine ⟨?_, ?_, ?_, ?_, ?_⟩
  · rintro req rsp pool rl sl bufs v w h hlen rfl rfl rfl rfl rfl rfl hrl hrl' hsl hsl' hbufs hbufs' hreq hrsp hpool hzero rfl rfl
    exact h.replies rfl (h.acts h.deviceAct
      (storeAttach_attaches hlen ⟨hrl, hrl'⟩ ⟨hsl, hsl'⟩ ⟨hbufs, hbufs'⟩ hreq hrsp hpool hzero) fun _ => rfl)
  · rintro log2 epoch v h hlen rfl hlow hhigh hattached rfl hepoch hreopen hidle hseeds
    have hact := h.acts h.deviceAct (storeFormat_eq hlen ⟨hlow, hhigh⟩ hattached hepoch hreopen hidle hseeds) fun _ => rfl
    refine ⟨fun hbatches => h.waits rfl (hact.trans (if_neg hbatches)), ?_⟩
    rintro hbatches rfl
    exact h.replies rfl (hact.trans (if_pos hbatches))
  · rintro page v bytes h hlen rfl hgate hpage hread
    exact h.replies rfl (h.acts h.deviceAct (storeRecheck_clears hlen hgate hpage hread) fun _ => rfl)
  · intro k i v bytes h hlen hk hi hlevel hgate hmarked hread
    exact h.stages rfl (h.acts h.deviceAct (storePrune_prunes hk hi hlen hlevel hgate hmarked hread) fun _ => rfl)
  · rintro p n v bytes d h hlen hp hn hlow hhigh hgate hrange hread rfl
    have hact := h.acts h.deviceAct (storeReclaimRange_reclaims hp hn hlen ⟨hlow, hhigh⟩ hgate hrange hread) fun _ => rfl
    exact ⟨fun hnone => h.replies rfl (hact.trans (if_pos hnone)), fun hsome => h.stages rfl (hact.trans (if_neg hsome))⟩

end Sys2Proof.Machine
end

section
/-! SUPPORT and SETTLED. Hampers and slots (R93, R95, R122, R123, R126 to R128, R193). -/

namespace Sys2Proof.Machine

/-- A command of group 0x02 ends as its act `f` does, let through or running on. -/
theorem runs_key {op : Nat} {i : Instr} {m : Msg} {s u v : State} {c : Msg} {a : Answer} {f : Msg → State → State × Answer}
    (hi : exec i s = command op m s) (ha : f c u = (v, a))
    (hf : ∀ d : Msg, keyAct { d with opcode := op } u = f { d with opcode := op } u) (k : op / 256 ≤ 2 := by decide) :
    Runs i op m s u c v a := by
  refine runs hi fun hop => ?_
  have hc : c = { c with opcode := op } := by rw [← hop]
  rw [actOf_key hop k, ← ha, hc]
  exact hf c

section
variable {m : Msg} {s v : State} {h : HamperHead} {key : Bytes} (hbare : bareRefusal m = none)
include hbare

/-! ### HAMPER_LOAD (R122, R123) -/

/-- HAMPER_LOAD of a small hamper that does not open, or not yet, ends as its opening does. -/
theorem hamperLoad_unopened {e : Answer} (hsmall : (refOf m.hamper).large = false) (ho : s.openHamper m = (v, .error e)) :
    hamperLoad m s = (v, e) := by
  simp only [hamperLoad, hbare, State.loadHamper, hsmall, Bool.false_eq_true, if_false, ho]

/-- A small hamper that opens is loaded into a slot (R122 step 8). -/
theorem hamperLoad_loads {w : State} {handle : Nat} (hsmall : (refOf m.hamper).large = false)
    (ho : s.openHamper m = (v, .ok (h, key))) (hready : v.slotsReady = true)
    (hload : v.loadSlot m.inst (cargoOf h key m.hamper) = .ok (w, handle)) : hamperLoad m s = (w, .named m.hamper handle) := by
  simp only [hamperLoad, hbare, State.loadHamper, hsmall, Bool.false_eq_true, if_false, ho, hready, Bool.not_true, hload]

/-- A large hamper fills its cache and has no handle (R123). -/
theorem hamperLoad_large {b : Bytes} (hlarge : (refOf m.hamper).large = true) (hfind : s.findHamper m = (v, .ok (h, b))) :
    hamperLoad m s = (v, .named m.hamper 0) := by
  simp only [hamperLoad, hbare, State.loadHamper, hlarge, if_true, hfind]

/-! ### SLOT_FREE (R93, R95) -/

/-- SLOT_FREE of a handle that names its slot's load frees the slot, and tells whoever else loaded it (R291). -/
theorem slotFree_frees {x : Slot} (hgate : s.storeGate false = none) (hx : look s.keys.slots (m.key % 0x10000) = some x)
    (hdoomed : x.doomed = false) (hepoch : x.epoch = m.key / 0x10000) (hbound : s.bound m.inst x.tenant = true)
    (hdying : s.dying x.tenant x.wg = none) :
    slotFree m s = (s.freeOrDoom (m.key % 0x10000) (x.loader != m.inst), .named 0 m.key) := by
  have hheld : ¬ (x.doomed = true ∨ x.epoch ≠ m.key / 0x10000) := by simp [hdoomed, hepoch]
  simp only [slotFree, hbare, hgate, hx, if_neg hheld, hbound, Bool.not_true, Bool.false_eq_true, if_false, hdying]

/-! ### HAMPER_REWRAP (R127) -/

variable (hgate : s.storeGate true = none)
include hgate

/-- HAMPER_REWRAP of a hamper that does not open, or not yet, ends as its opening does. -/
theorem hamperRewrap_unopened {e : Answer} (ho : s.openHamper m = (v, .error e)) : hamperRewrap m s = (v, e) := by
  simp only [hamperRewrap, hbare, hgate, ho]

section
variable {w x : State} {p : Bytes} {t : Tenant} {wg : Nat} (ho : s.openHamper m = (v, .ok (h, key))) (hsealed : h.isSealed = false)
  (hread : v.readForChange (refOf m.hamper).page = (w, .page p)) (ht : v.tenant m.tenant = some t) (hwg : t.topWg = some wg)
include ho hsealed hread ht hwg

/-- An opened hamper that is not sealed, its page read for a change, waits for its wrap under the highest live WG. -/
theorem hamperRewrap_unwrapped {e : Answer} (hwrap : w.wrapPart m { h with wg := wg } key = (x, .error e)) :
    hamperRewrap m s = (x, e) := by
  simp only [hamperRewrap, hbare, hgate, ho, hsealed, Bool.false_eq_true, if_false, hread, ht, Option.bind_some, hwg, hwrap]

/-- With the wrap there it takes the old hamper's place in the open batch. -/
theorem hamperRewrap_rewraps {b : Bytes} (hwrap : w.wrapPart m { h with wg := wg } key = (x, .ok b)) :
    hamperRewrap m s = ((({ x with hs.large := x.hs.large.filter (fun e => e.1 != m.hamper) } : State).changePage
      (refOf m.hamper).page (putHamper p (refOf m.hamper) b)).stageDone
        ⟨m.cid, ⟨St.ok, 0, 0, 0, m.hamper, 0, []⟩, none⟩, .staged) := by
  simp only [hamperRewrap, hbare, hgate, ho, hsealed, Bool.false_eq_true, if_false, hread, ht, Option.bind_some, hwg, hwrap]

end

/-! ### HAMPER_REVOKE and HAMPER_RECLAIM (R126, R128) -/

variable {p : Bytes} (href : s.refOk (refOf m.hamper) = true) (hread : s.readForChange (refOf m.hamper).page = (v, .page p))
  (hhead : v.headCheck m.inst m.tenant m.hamper (hamperIn p (refOf m.hamper)) = .ok h)
include href hread hhead

/-- HAMPER_REVOKE frees the cell of a hamper of its tenant, whose generation is not dying, in the open batch. -/
theorem hamperRevoke_frees (hdying : v.dying h.tenant h.wg = none) :
    hamperRevoke m s = ((v.freeCell (refOf m.hamper) p m.hamper).stageDone
      ⟨m.cid, ⟨St.ok, 0, 0, 0, m.hamper, 0, []⟩, none⟩, .staged) := by
  simp only [hamperRevoke, hbare, hgate, href, Bool.not_true, Bool.false_eq_true, if_false, hread, hhead, hdying]

/-- HAMPER_RECLAIM frees the cell of a hamper that can no longer open so. -/
theorem hamperReclaim_frees (hdead : v.unopenable h = true) :
    hamperReclaim m s = ((v.freeCell (refOf m.hamper) p m.hamper).stageDone
      ⟨m.cid, ⟨St.ok, 0, 0, 0, m.hamper, 0, []⟩, none⟩, .staged) := by
  simp only [hamperReclaim, hbare, hgate, href, Bool.not_true, Bool.false_eq_true, if_false, hread, hhead, hdead, if_true]

end

/-! ### NONCE_LIMIT_SET (R193) -/

/-- NONCE_LIMIT_SET lowers the limit of a slot whose key encrypts, to the tenant's default at most. -/
theorem nonceLimitSet_lowers {m : Msg} {s : State} {p : Parts} {i : Nat} {x : Slot} (hp : partsOf m = .ok p) (hout : p.outLen = 0)
    (haux : p.aux = []) (hlen : p.inp.length = 4) (hlimit : le p.inp 0 4 ≠ 0) (hkey : s.handleCheck m.inst m.key uEncrypt = .ok (i, x)) :
    nonceLimitSet m s
      = (s.lowerLimit i (min (le p.inp 0 4) (lookD s.keys.limits x.tenant (2 ^ 32))), .named x.ref m.key) := by
  have hform : ¬ (p.inp.length ≠ 4 ∨ le p.inp 0 4 = 0) := by omega
  simp [nonceLimitSet, hp, hout, haux, if_neg hform, hkey]

/-- Settles O24, act by act: an opening asks a lane and then goes on with the key, as HAMPER_REWRAP's wrap does. -/
theorem hamperCommands : Obligations.HamperCommands := by
  intro m s u c
  refine ⟨fun hbare => ⟨fun hsmall => ?_, fun v h b hlarge hfind => ?_⟩, ?_, fun hbare hgate => ?_,
    fun v p h hbare hgate href hread hhead => ⟨fun hdying => ?_, fun hdead => ?_⟩, fun p i x hp hout haux hlen hlimit hkey => ?_⟩
  · exact opens (fun v e ho => runs_key rfl (hamperLoad_unopened hbare hsmall ho) fun _ => rfl)
      fun v h key ho w handle hready hload => runs_key rfl (hamperLoad_loads hbare hsmall ho hready hload) fun _ => rfl
  · exact runs_key rfl (hamperLoad_large hbare hlarge hfind) fun _ => rfl
  · rintro i x hbare hgate rfl hx hdoomed hepoch hbound hdying
    exact runs_key rfl (slotFree_frees hbare hgate hx hdoomed hepoch hbound hdying) fun _ => rfl
  · refine opens (fun v e ho => runs_key rfl (hamperRewrap_unopened hbare hgate ho) fun _ => rfl) ?_
    rintro v h key ho w p t wg k1 h1 hsealed hread ht hwg rfl hkek
    refine ⟨fun hnone hroom => ?_, fun b hpart hhead => ?_⟩
    · exact runs_key rfl
        (hamperRewrap_unwrapped hbare hgate ho hsealed hread ht hwg (State.wrapPart_asks hkek hnone hroom)) fun _ => rfl
    · exact runs_key rfl
        (hamperRewrap_rewraps hbare hgate ho hsealed hread ht hwg (State.wrapPart_there hkek hpart hhead)) fun _ => rfl
  · exact runs_key rfl (hamperRevoke_frees hbare hgate href hread hhead hdying) fun _ => rfl
  · exact runs_key rfl (hamperReclaim_frees hbare hgate href hread hhead hdead) fun _ => rfl
  · exact runs_key rfl (nonceLimitSet_lowers hp hout haux hlen hlimit hkey) fun _ => rfl

end Sys2Proof.Machine
end

section
/-! SUPPORT. The acts of group 0x03: how a command ends as its act does, and the checks that their forms share (R146, R147, R230). -/

namespace Sys2Proof.Machine

/-- A command of group 0x03 ends as its act `f` does, let through or running on. -/
theorem runs_crypto {op : Nat} {i : Instr} {m : Msg} {s u v : State} {c : Msg} {a : Answer} {f : Msg → State → State × Answer}
    (hi : exec i s = command op m s) (ha : f c u = (v, a))
    (hf : ∀ d : Msg, cryptoAct { d with opcode := op } u = f { d with opcode := op } u)
    (k : op ≠ rotateOp ∧ op / 256 = 3 := by decide) : Runs i op m s u c v a := by
  refine runs hi fun hop => ?_
  have hc : c = { c with opcode := op } := by rw [← hop]
  rw [actOf_crypto hop k, ← ha, hc]
  exact hf c

/-- A program that a package holds and that the opcode takes is not refused (R146). -/
theorem State.algRefusal_none {s : State} {prog : Nat} {progs : List Nat} (hprog : s.hasProgram prog = true) (hmem : prog ∈ progs) :
    s.algRefusal prog progs = none := by
  simp [State.algRefusal, hprog, hmem]

/-- A form is refused where one of its parts fails: with none that does, it is not. -/
theorem firstBad_none {l : List (Bool × Nat)} (h : ∀ x ∈ l, x.1 = false) : firstBad l = none := by
  induction l with
  | nil => rfl
  | cons x l ih =>
    have hx : x.1 = false := h x (by simp)
    rw [firstBad, hx, if_neg Bool.false_ne_true]
    exact ih fun y hy => h y (by simp [hy])

end Sys2Proof.Machine
end

section
/-! SUPPORT and SETTLED. ARITHMETIC_RUN and RANDOM_GENERATE (R157, R158, R210, R214). -/

namespace Sys2Proof.Machine

section
variable {m : Msg} {s : State} {p : Parts}

/-- ARITHMETIC_RUN answers what its job yields. -/
theorem arithmeticRun_answers {y : Yield} (hgot : s.gotOf m.cid = some y) : arithmeticRun m s = (s, y.answer 0) := by
  simp only [arithmeticRun, hgot]

/-- ARITHMETIC_RUN in its form, under a modulus of the declared size, hands its job to the engine (R157, R158). -/
theorem arithmeticRun_asks {w : Nat} (hgot : s.gotOf m.cid = none) (hp : partsOf m = .ok p) (hw : w = m.param % 256) (hlow : 2 ≤ w)
    (hhigh : w ≤ 128) (halg : m.alg ∈ [0x40, 0x41, 0x42, 0x43, 0x44]) (hprog : s.hasProgram m.alg = true)
    (hlen : arithLengths m p = none) (hmod : modulusOk w (ofBe (p.item 0)) = true) :
    arithmeticRun m s = (s.submitPke { Job.of m false m.alg (runTime s m.alg 0 w 0 (8 * (p.item 2).length)) with
      param := w, key2 := p.item 0, data := p.item 1, extra := p.item 2, outLen := 8 * w }, .engine) := by
  subst hw
  have hsize : ¬ (m.param % 256 < 2 ∨ m.param % 256 > 128) := by omega
  simp only [arithmeticRun, hgot, hp, State.algRefusal_none hprog halg, if_neg hsize, hlen, hmod, Bool.not_true, Bool.false_eq_true,
    if_false]

/-- RANDOM_GENERATE in its form answers OUT_LEN bytes of one draw (R210). -/
theorem randomGenerate_draws (hp : partsOf m = .ok p) (halg : m.alg = 0) (hparam : m.param = 0) (hlow : 1 ≤ p.outLen)
    (hhigh : p.outLen ≤ 4096) (haux : p.aux = []) (hinp : p.inp = []) (hdraw : s.canDraw = true) :
    randomGenerate m s = ((s.draw p.outLen).1, .okay (s.draw p.outLen).2) := by
  have hform : firstBad [(m.alg != 0 || m.param != 0 || decide (p.outLen < 1 ∨ p.outLen > 4096), 0), (!p.aux.isEmpty, 1),
      (!p.inp.isEmpty, 0xFF)] = none :=
    firstBad_none (by simp [halg, hparam, haux, hinp, hhigh, Nat.ne_of_gt hlow])
  simp only [randomGenerate, hp, hform, hdraw, Bool.not_true, Bool.false_eq_true, if_false]

/-- The two paths of the AES core disagree: the DRBG stops and the fault is SEVERE (R214, log entry 114). -/
theorem State.core_mismatch (hruns : s.trngRuns = true) :
    s.core false = (if s.drbgUp then s.stopDrbg else s).report (plainFault 4 (locM 4 17 5) 9 0) := if_pos hruns

end

/-- Settles O30, act by act. -/
theorem arithmeticAndRandom : Obligations.ArithmeticAndRandom := by
  intro m s u c
  refine ⟨fun y hgot => ?_, fun p w hgot hp hw hlow hhigh halg hprog hlen hmod => ?_,
    fun p hp halg hparam hlow hhigh haux hinp hdraw => ?_, fun hruns => ?_⟩
  · exact runs_crypto rfl (arithmeticRun_answers hgot) fun _ => rfl
  · exact runs_crypto rfl (arithmeticRun_asks hgot hp hw hlow hhigh halg hprog hlen hmod) fun _ => rfl
  · exact runs_crypto rfl (randomGenerate_draws hp halg hparam hlow hhigh haux hinp hdraw) fun _ => rfl
  · rw [← State.core_mismatch hruns]
    rfl

end Sys2Proof.Machine
end

section
/-! SUPPORT and SETTLED. SIGN and VERIFY (R146, R147, R151, R162). -/

namespace Sys2Proof.Machine

section
variable {m : Msg} {s : State} {y : Yield} (hgot : s.gotOf m.cid = some y)
include hgot

/-- SIGN answers what its job yields. -/
theorem sign_answers : sign m s = (s, y.answer m.usedHamper) := by
  simp only [sign, hgot]

/-- VERIFY answers what its job yields. -/
theorem verify_answers : verify m s = (s, y.answer 0) := by
  simp only [verify, hgot]

end

/-! ### The key of a signature -/

/-- SIGN under a slot, its form checked. -/
def signSlot (m : Msg) (s : State) (p : Parts) : State × Answer :=
  match s.keyFor m uSign (· == signType m.alg) with
  | (v, .error e) => (v, e)
  | (v, .ok (h, x)) =>
    match v.handleRefusal (handlesOf x.typ x.curve []) with
    | some st => (v, .of st)
    | none =>
      (v.submitPke (v.withCurves { Job.ofSlot m m.alg (runTime v m.alg x.curve (setOf m.param) p.inp.length 0) h x with
        param := m.signParam, draws := m.alg = 0x01 ∨ (m.alg = 0x31 ∧ !m.deterministic), extra := p.item 0, data := p.inp } [x.curve]),
        .engine)

section
variable {m : Msg} {s v : State} {p : Parts}

/-- A slot that does not serve ends SIGN, or has it wait, as its check says. -/
theorem signSlot_refused {e : Answer} (hkey : s.keyFor m uSign (· == signType m.alg) = (v, .error e)) : signSlot m s p = (v, e) := by
  rw [signSlot, hkey]

/-- A signature under a slot carries the slot. -/
theorem signSlot_asks {h : Nat} {x : Slot} (hkey : s.keyFor m uSign (· == signType m.alg) = (v, .ok (h, x)))
    (hcurves : v.handleRefusal (handlesOf x.typ x.curve []) = none) :
    signSlot m s p = (v.submitPke (v.withCurves { Job.ofSlot m m.alg (runTime v m.alg x.curve (setOf m.param) p.inp.length 0) h x with
      param := m.signParam, draws := m.alg = 0x01 ∨ (m.alg = 0x31 ∧ !m.deterministic), extra := p.item 0, data := p.inp } [x.curve]),
      .engine) := by
  simp only [signSlot, hkey, hcurves]

/-- A large hamper that does not serve ends SIGN, or has it wait, as its check says. -/
theorem signLarge_refused {e : Answer} (hkey : s.largeKey m uSign (if m.alg = 0x18 then 0x40 else 0x42) = (v, .error e)) :
    signLarge m s p = (v, e) := by
  rw [signLarge, hkey]

/-- An RSA signature carries the key of its large hamper. -/
theorem signLarge_rsa {h : HamperHead} {k : Bytes} (halg : m.alg = 0x18) (hkey : s.largeKey m uSign 0x40 = (v, .ok (h, k))) :
    signLarge m s p = (v.submitPke { Job.ofLarge m 0x18 (runTime v 0x18 0 (le k 0 2) 0 0) h k with extra := p.item 0, data := p.inp },
      .engine) := by
  rw [signLarge, if_pos halg, hkey]
  simp only [halg]
  rfl

/-- A composite signature carries the key, and the curves of its components as they stand (R151, R161). -/
theorem signLarge_composite {h : HamperHead} {k : Bytes} {cs : List Component} (halg : m.alg = 0x38)
    (hkey : s.largeKey m uSign 0x42 = (v, .ok (h, k))) (hcs : cs = (componentsOf k).getD [])
    (hcurves : v.handleRefusal (handlesOf 0x42 0 k) = none) (hparams : cs.all (componentParamOk m) = true)
    (hinputs : cs.all (componentInputOk m p.inp.length) = true) :
    signLarge m s p = (v.submitPke (v.withCurves { Job.ofLarge m 0x38 (compositeTime v m true cs p.inp.length) h k with
      draws := true, extra := p.item 0, data := p.inp } (handlesOf 0x42 0 k)), .engine) := by
  subst hcs
  have hrsa : ¬ m.alg = 0x18 := by omega
  rw [signLarge, if_neg hrsa, hkey]
  simp only [if_pos halg, if_neg hrsa, hcurves, hparams, hinputs, Bool.not_true, Bool.false_eq_true, if_false]
  simp only [halg, decide_true]

end

section
variable {m : Msg} {s : State} {p : Parts} (hgot : s.gotOf m.cid = none) (hp : partsOf m = .ok p) (hout : p.outLen = 0)
  (hflags : signFlagsOk m m.alg = true) (hprog : s.hasProgram m.alg = true) (hinp : signInputOk m m.alg p.inp.length = true)
include hgot hp hout hflags hprog hinp

/-- SIGN in its form, with a program that it takes, signs under a large hamper's key for RSA and composite keys, else under a slot. -/
theorem sign_eq (hparam : signParamOk m.alg m.param = true) (hcontext : contextOk m.alg (p.item 0).length = true)
    (haux : p.aux.length ≤ 1) (halg : m.alg ∈ [0x01, 0x08, 0x0C, 0x18, 0x31, 0x38]) :
    sign m s = if m.alg = 0x18 ∨ m.alg = 0x38 then signLarge m s p else signSlot m s p := by
  have hform : firstBad [(!signParamOk m.alg m.param ∨ !signFlagsOk m m.alg ∨ p.outLen ≠ 0, 0), (!contextOk m.alg (p.item 0).length, 1),
      (decide (p.aux.length > 1), 2), (!signInputOk m m.alg p.inp.length, 0xFF)] = none :=
    firstBad_none (by simp [hparam, hflags, hout, hcontext, haux, hinp])
  simp only [sign, hgot, hp, State.algRefusal_none hprog halg, hform]
  rfl

/-! ### VERIFY -/

/-- VERIFY in its form hands its job to the engine with the curve as it stands (R146, R161, log entry 40). -/
theorem verify_asks {e : CurveP} (halg : m.alg ∈ [0x02, 0x09, 0x0D, 0x19, 0x32])
    (hcurve : (if m.alg = 0x02 then s.curve (m.param % 256) else .ok p256) = .ok e)
    (hparam : if m.alg = 0x02 then m.param < 256 else signParamOk m.alg m.param = true)
    (hlen : verifyLengths m e (p.item 0).length (p.item 1).length = none) (hcontext : contextOk m.alg (p.item 2).length = true)
    (haux : p.aux.length ≤ 3) :
    verify m s = (s.submitPke { Job.of m false m.alg (runTime s m.alg (m.param % 256)
        (if m.alg = 0x19 then 8 * (p.item 1).length else setOf m.param) p.inp.length
        (bitLen (ofBe ((p.item 0).drop (p.item 1).length)))) with
      curve := if m.alg = 0x02 then m.param % 256 else 0, param := if m.alg = 0x02 then 0 else m.signParam
      curves := [(m.param % 256, e)], aad := p.item 0, tag := p.item 1, extra := p.item 2, data := p.inp }, .engine) := by
  have hhead : firstBad [((if m.alg = 0x02 then decide (m.param ≥ 256) else !signParamOk m.alg m.param) ∨ !signFlagsOk m m.alg
      ∨ p.outLen ≠ 0, 0)] = none := by
    refine firstBad_none ?_
    by_cases hec : m.alg = 0x02
    · rw [if_pos hec] at hparam
      simp [hec ▸ hflags, hout, hec, hparam]
    · rw [if_neg hec] at hparam
      simp [hflags, hout, hec, hparam]
  have htail : firstBad [(!contextOk m.alg (p.item 2).length, 3), (decide (p.aux.length > 3), 4),
      (!signInputOk m m.alg p.inp.length, 0xFF)] = none :=
    firstBad_none (by simp [hcontext, haux, hinp])
  simp only [verify, hgot, hp, State.algRefusal_none hprog halg, beq_iff_eq, hcurve, hhead, hlen, htail]

end

/-- Settles O26, act by act: the key by its place, and what the job yields. -/
theorem signatureCommands : Obligations.SignatureCommands := by
  intro m s u c signs verifies
  have hsign : ∀ {v : State} {a : Answer}, sign c u = (v, a) → signs v a := fun h => runs_crypto rfl h fun _ => rfl
  have hverify : ∀ {v : State} {a : Answer}, verify c u = (v, a) → verifies v a := fun h => runs_crypto rfl h fun _ => rfl
  refine ⟨fun y hgot => ⟨hsign (sign_answers hgot), hverify (verify_answers hgot)⟩,
    fun p hgot hp hout hflags hprog hinp => ⟨fun hparam hcontext haux => ?_, fun e halg hcurve hparam hlen hcontext haux =>
      hverify (verify_asks hgot hp hout hflags hprog hinp halg hcurve hparam hlen hcontext haux)⟩⟩
  have hslot : c.alg ∈ [0x01, 0x08, 0x0C, 0x31] → sign c u = signSlot c u p := fun halg => by
    simp only [List.mem_cons, List.not_mem_nil, or_false] at halg
    rw [sign_eq hgot hp hout hflags hprog hinp hparam hcontext haux (by simp; omega), if_neg (by omega)]
  have hlarge : c.alg = 0x18 ∨ c.alg = 0x38 → sign c u = signLarge c u p := fun halg => by
    rw [sign_eq hgot hp hout hflags hprog hinp hparam hcontext haux (by simp; omega), if_pos halg]
  refine ⟨fun halg => ⟨fun v h x hkey hcurves => ?_, fun v e hkey => ?_⟩, fun v h k halg hkey => ?_,
    fun v h k cs halg hkey hcs hcurves hparams hinputs => ?_, fun v e halg hkey => ?_⟩
  · exact hsign ((hslot halg).trans (signSlot_asks hkey hcurves))
  · exact hsign ((hslot halg).trans (signSlot_refused hkey))
  · exact hsign ((hlarge (.inl halg)).trans (signLarge_rsa halg hkey))
  · exact hsign ((hlarge (.inr halg)).trans (signLarge_composite halg hkey hcs hcurves hparams hinputs))
  · exact hsign ((hlarge halg).trans (signLarge_refused hkey))

end Sys2Proof.Machine
end

section
/-! SUPPORT and SETTLED. AGREE, ENCAPSULATE and DECAPSULATE, and where their secrets go (R146, R150, R151, R162, R163, R234, R478). -/

namespace Sys2Proof.Machine

/-! ### Where a secret goes (R234) -/

section
variable {m : Msg} {s v : State} {a : Option Attr} {pub sec : Bytes}

/-- DEST 0: the secret goes into a slot, as a key-derivation secret where the command has no block (log entry 78). -/
theorem State.deliver_slot {wg h : Nat} {b : Attr} (hdest : m.param % 4 = 0) (href : s.tenantRefusal m.tenant false = none)
    (hwg : (s.tenant m.tenant).bind (fun t => t.topWg) = some wg) (hb : b = a.getD ⟨6, 0, 2 ^ uDerive, sec.length, 0, 0, 0, 0⟩)
    (hsec : sec ≠ []) (hlen : sec.length ≤ 128)
    (hkey : a ≠ none → keyLenOk s b.typ b.curve sec.length = true ∧ keyValid s b.typ b.curve sec = true)
    (hlock : s.get R.mpcWorldStatusKeysLocked = 0) (hready : s.slotsReady = true)
    (hload : s.loadSlot m.inst ⟨m.tenant, b.typ, b.curve, b.usage, if b.sealed then sealedWg else wg, b.pin, b.sealed, sec, 0, 0,
      b.label, 0⟩ = .ok (v, h)) : s.deliver m a pub sec = (v, .resp ⟨St.ok, 0, 0, 0, 0, h, pub⟩) := by
  have hlocked : s.is R.mpcWorldStatusKeysLocked = false := by simp [State.is, hlock]
  have hfits : ¬ (sec.isEmpty = true ∨ sec.length > 128 ∨ (a.isSome = true ∧ (!keyLenOk s b.typ b.curve sec.length) = true)) := by
    simp only [List.isEmpty_iff, hsec, Nat.not_lt.2 hlen, false_or, Option.isSome_iff_ne_none, Bool.not_eq_true', not_and,
      Bool.not_eq_false]
    exact fun ha => (hkey ha).1
  have hvalid : ¬ (a.isSome = true ∧ (!keyValid s b.typ b.curve sec) = true) := by
    simp only [Option.isSome_iff_ne_none, Bool.not_eq_true', not_and, Bool.not_eq_false]
    exact fun ha => (hkey ha).2
  simp only [State.deliver, if_pos hdest, href, hwg, ← hb, if_neg hfits, if_neg hvalid, hlocked, hready, hload, Bool.not_true,
    Bool.false_eq_true, if_false]

/-- DEST 1: the secret is kept as a new hamper. -/
theorem State.deliver_hamper {b : Attr} (hdest : m.param % 4 = 1) (ha : a = some b)
    (hlen : keyLenOk s b.typ b.curve sec.length = true) (hvalid : keyValid s b.typ b.curve sec = true) :
    s.deliver m a pub sec = s.keepKey m b sec pub := by
  subst ha
  simp [State.deliver, hdest, hlen, hvalid]

section
variable {x : Slot} (hdest : m.param % 4 = 2) (hkek : s.kek m uWrap = .ok x) (htenant : x.tenant = m.tenant)
include hdest hkek htenant

/-- DEST 2: a lane is asked to wrap the secret for the host. -/
theorem State.deliver_asks (hnone : s.partOf m.cid 3 = none) (hroom : s.skeRoom true = true) :
    s.deliver m a pub sec = (s.submitSke { blobJob m 1 x.wg [] sec with part := 3, own := true }, .engine) := by
  have hask : s.lanePart 3 (blobJob m 1 x.wg [] sec)
      = (s.submitSke { blobJob m 1 x.wg [] sec with part := 3, own := true }, .error .engine) := State.lanePart_asks hnone hroom
  simp [State.deliver, hdest, hkek, htenant, hask]

/-- With the wrap there, it goes to the host behind the public result. -/
theorem State.deliver_wrapped {out : Bytes} (hsome : s.partOf m.cid 3 = some out) :
    s.deliver m a pub sec = (s, .okay (pub ++ out)) := by
  have hthere : s.lanePart 3 (blobJob m 1 x.wg [] sec) = (s, .ok out) := State.lanePart_there hsome
  simp [State.deliver, hdest, hkek, htenant, hthere]

end

/-- A job that is done well has its secret delivered. -/
theorem State.destDone_ok {y : Yield} (hy : y.status = St.ok) : s.destDone m y a = s.deliver m a y.out y.secret := if_pos hy

/-- One that is not makes no key, and gives the zeros of a full result (R162). -/
theorem State.destDone_rejected {y : Yield} (hy : y.status ≠ St.ok) :
    s.destDone m y a = (s, .resp ⟨y.status, y.reason, 0, y.info, m.usedHamper, y.key, y.out ++
      if m.param % 4 = 2 then List.replicate (8 * ((y.secret.length + 7) / 8) + 8) 0 else []⟩) := if_neg hy

/-- Only DEST 1 waits for the store (R478). -/
theorem State.destGate_none (h : m.param % 4 = 1 → s.storeGate true = none) : s.destGate m = none := by
  by_cases hdest : m.param % 4 = 1
  · rw [State.destGate, if_pos hdest, h hdest]
  · rw [State.destGate, if_neg hdest]

end

/-! ### The key of an agreement -/

/-- AGREE under the key of a large hamper, its form checked: FFDH (R150). -/
def agreeLarge (m : Msg) (s : State) (peer : Bytes) : State × Answer :=
  match s.largeKey m uAgree 0x41 with
  | (v, .error e) => (v, e)
  | (v, .ok (h, k)) =>
    if peer.length ≠ le k 0 2 / 8 then (v, badPart 1)
    else if exportBlocked m h.usage then (v, .of St.keyUsage)
    else (v.submitPke { Job.ofLarge m 0x20 (runTime v 0x20 0 (le k 0 2) (le k 4 2) (le k 2 2)) h k with aad := peer }, .engine)

section
variable {m : Msg} {s v : State} {peer : Bytes} {e : Answer}

/-- A large hamper that does not serve ends AGREE, or has it wait, as its check says. -/
theorem agreeLarge_refused (hkey : s.largeKey m uAgree 0x41 = (v, .error e)) : agreeLarge m s peer = (v, e) := by
  rw [agreeLarge, hkey]

/-- FFDH carries the key of its large hamper. -/
theorem agreeLarge_asks {h : HamperHead} {k : Bytes} (hkey : s.largeKey m uAgree 0x41 = (v, .ok (h, k)))
    (hlen : peer.length = le k 0 2 / 8) (hexport : exportBlocked m h.usage = false) :
    agreeLarge m s peer = (v.submitPke { Job.ofLarge m 0x20 (runTime v 0x20 0 (le k 0 2) (le k 4 2) (le k 2 2)) h k with aad := peer },
      .engine) := by
  simp [agreeLarge, hkey, hlen, hexport]

/-- The slot TYPE that an agreement takes. -/
def agreeType (alg : Nat) : Nat := if alg = 0x04 then 0x10 else if alg = 0x10 then 0x13 else 0x14

/-- A slot that does not serve ends AGREE, or has it wait, as its check says. -/
theorem agreeSlot_refused (hkey : s.keyFor m uAgree (· == agreeType m.alg) = (v, .error e)) : agreeSlot m s peer = (v, e) := by
  simp only [agreeType] at hkey
  rw [agreeSlot, hkey]

/-- An agreement on a curve carries its slot, and the curve as it stands. -/
theorem agreeSlot_asks {h : Nat} {x : Slot} {k : CurveP} (hkey : s.keyFor m uAgree (· == agreeType m.alg) = (v, .ok (h, x)))
    (hcurve : (if m.alg = 0x04 then v.curve x.curve else .ok p256) = .ok k)
    (hlen : peer.length = (if m.alg = 0x04 then 1 + 2 * k.plen else if m.alg = 0x10 then 32 else 56))
    (hexport : exportBlocked m x.usage = false) :
    agreeSlot m s peer = (v.submitPke { Job.ofSlot m m.alg (runTime v m.alg x.curve 0 0 0) h x with
      param := 0, curves := [(x.curve, k)], aad := peer }, .engine) := by
  simp only [agreeType] at hkey
  simp [agreeSlot, hkey, hcurve, hlen, hexport]

/-- A slot that does not serve ends DECAPSULATE, or has it wait, as its check says. -/
theorem decapsulateJob_refused (halg : m.alg = 0x2A) (hlen : peer.length = kemCt (setOf m.param))
    (hkey : s.keyFor m uDecaps (· == 0x20) = (v, .error e)) : decapsulateJob m s peer = (v, e) := by
  simp [decapsulateJob, halg, hlen, hkey]

/-- ML-KEM decapsulation carries its slot (R163). -/
theorem decapsulateJob_asks {h : Nat} {x : Slot} (halg : m.alg = 0x2A) (hlen : peer.length = kemCt (setOf m.param))
    (hkey : s.keyFor m uDecaps (· == 0x20) = (v, .ok (h, x))) (hexport : exportBlocked m x.usage = false) :
    decapsulateJob m s peer
      = (v.submitPke { Job.ofSlot m 0x2A (runTime v 0x2A 0 (setOf m.param) 0 0) h x with aad := peer }, .engine) := by
  simp [decapsulateJob, halg, hlen, hkey, hexport]

/-- So does a large hamper that does not. -/
theorem decapsulateJob_composite_refused (halg : m.alg = 0x39) (hkey : s.largeKey m uDecaps 0x42 = (v, .error e)) :
    decapsulateJob m s peer = (v, e) := by
  simp [decapsulateJob, halg, hkey]

/-- COMPOSITE_DECAPS carries the key, and the curves of its components as they stand (R151, R161). -/
theorem decapsulateJob_composite {h : HamperHead} {k : Bytes} {cs : List Component} (halg : m.alg = 0x39)
    (hkey : s.largeKey m uDecaps 0x42 = (v, .ok (h, k))) (hcs : cs = (componentsOf k).getD [])
    (hcurves : v.handleRefusal (handlesOf 0x42 0 k) = none) (hpeers : peersOk v m cs peer = true)
    (hexport : exportBlocked m h.usage = false) :
    decapsulateJob m s peer = (v.submitPke (v.withCurves { Job.ofLarge m 0x39 (compositeTime v m false cs 0) h k with aad := peer }
      (handlesOf 0x42 0 k)), .engine) := by
  subst hcs
  simp [decapsulateJob, halg, hkey, hcurves, hpeers, hexport]

end

/-! ### The forms of the three commands -/

/-- What a command of the three does once its form is checked: it delivers what its job yielded, and with none yet, once DEST serves,
does `ask`. -/
def State.deliversOr (s : State) (m : Msg) (a : Option Attr) (ask : State × Answer) : State × Answer :=
  match s.gotOf m.cid, s.destGate m with
  | some y, _ => s.destDone m y a
  | none, some e => (s, e)
  | none, none => ask

section
variable {m : Msg} {s : State} {a : Option Attr} {ask : State × Answer}

/-- With the yield there, it is delivered. -/
theorem State.deliversOr_done {y : Yield} (hgot : s.gotOf m.cid = some y) : s.deliversOr m a ask = s.destDone m y a := by
  rw [State.deliversOr, hgot]

/-- With none yet and DEST served, the engine is asked. -/
theorem State.deliversOr_asks (hgot : s.gotOf m.cid = none) (hgate : s.destGate m = none) : s.deliversOr m a ask = ask := by
  rw [State.deliversOr, hgot, hgate]

end

section
variable {m : Msg} {s : State} {p : Parts} {a : Option Attr} (hp : partsOf m = .ok p) (hout : p.outLen = 0) (haux : p.aux.length ≤ 2)
  (hinp : p.inp = []) (hblock : s.destBlock m (p.item 1) 2 = .ok a) (hprog : s.hasProgram m.alg = true)
include hp hout haux hinp hblock hprog

/-- AGREE in its form: what its job yielded is delivered; with none yet and DEST served, the key is looked for. -/
theorem agree_eq (halg : m.alg ∈ [0x04, 0x10, 0x11, 0x20]) (hparam : m.param < 4) :
    agree m s = s.deliversOr m a (if m.alg = 0x20 then agreeLarge m s (p.item 0) else agreeSlot m s (p.item 0)) := by
  have hhead : firstBad [(decide (m.param ≥ 4) || p.outLen != 0, 0)] = none := firstBad_none (by simp [hparam, hout])
  have htail : firstBad [(decide (p.aux.length > 2), 3), (!p.inp.isEmpty, 0xFF)] = none := firstBad_none (by simp [haux, hinp])
  simp only [agree, hp, State.algRefusal_none hprog halg, hhead, hblock, htail]
  rfl

/-- ENCAPSULATE in its form: with none yet, the engine is asked. -/
theorem encapsulate_eq (halg : m.alg = 0x29) (hparam : kemParamOk m.param = true) (hlen : (p.item 0).length = kemEk (setOf m.param)) :
    encapsulate m s = s.deliversOr m a (s.submitPke { Job.of m false 0x29 (runTime s 0x29 0 (setOf m.param) 0 0) with
      param := m.param, draws := true, aad := p.item 0 }, .engine) := by
  have hhead : firstBad [(!kemParamOk m.param || p.outLen != 0, 0), ((p.item 0).length != kemEk (setOf m.param), 1)] = none :=
    firstBad_none (by simp [hparam, hout, hlen])
  have htail : firstBad [(decide (p.aux.length > 2), 3), (!p.inp.isEmpty, 0xFF)] = none := firstBad_none (by simp [haux, hinp])
  simp only [encapsulate, hp, State.algRefusal_none (progs := [0x29]) hprog (by simp [halg]), hhead, hblock, htail]
  rfl

/-- DECAPSULATE in its form: with none yet, the key is looked for. -/
theorem decapsulate_eq (halg : m.alg = 0x2A ∨ m.alg = 0x39) (hparam : kemParamOk m.param = true) :
    decapsulate m s = s.deliversOr m a (decapsulateJob m s (p.item 0)) := by
  have hhead : firstBad [(!kemParamOk m.param || p.outLen != 0, 0)] = none := firstBad_none (by simp [hparam, hout])
  have htail : firstBad [(decide (p.aux.length > 2), 3), (!p.inp.isEmpty, 0xFF)] = none := firstBad_none (by simp [haux, hinp])
  simp only [decapsulate, hp, State.algRefusal_none (progs := [0x2A, 0x39]) hprog (by simpa using halg), hhead, hblock, htail]
  rfl

end

/-- Settles O29: what a job yielded goes where DEST says, alike for the three commands; with none yet, each asks the engine. -/
theorem secretCommands : Obligations.SecretCommands := by
  intro m s u c p a hp hout haux hinp hblock hprog hdest agrees encapsulates decapsulates form
  have hagree : ∀ {v : State} {e : Answer}, agree c u = (v, e) → agrees v e := fun h => runs_crypto rfl h fun _ => rfl
  have hencaps : ∀ {v : State} {e : Answer}, encapsulate c u = (v, e) → encapsulates v e := fun h => runs_crypto rfl h fun _ => rfl
  have hdecaps : ∀ {v : State} {e : Answer}, decapsulate c u = (v, e) → decapsulates v e := fun h => runs_crypto rfl h fun _ => rfl
  have hdone : ∀ run y, form run → u.gotOf c.cid = some y → ∀ v e, u.destDone c y a = (v, e) → run v e := by
    rintro run y (⟨halg, hparam, rfl⟩ | ⟨halg, hparam, hlen, rfl⟩ | ⟨halg, hparam, rfl⟩) hgot v e hend
    · exact hagree (by rw [agree_eq hp hout haux hinp hblock hprog halg hparam, State.deliversOr_done hgot, hend])
    · exact hencaps (by rw [encapsulate_eq hp hout haux hinp hblock hprog halg hparam hlen, State.deliversOr_done hgot, hend])
    · exact hdecaps (by rw [decapsulate_eq hp hout haux hinp hblock hprog halg hparam, State.deliversOr_done hgot, hend])
  refine ⟨fun run y hform hgot => ⟨fun wg b v h hok hslot href hwg hb hsec hlen hkey hlock hready hload => ?_,
      fun b hok hhamper ha hlen hvalid => ?_, fun x hok hhost hkek htenant => ⟨fun hnone hroom => ?_, fun out hsome => ?_⟩,
      fun hbad => ?_⟩, fun hgot hstore => ?_⟩
  · exact hdone run y hform hgot _ _
      ((State.destDone_ok hok).trans (State.deliver_slot hslot href hwg hb hsec hlen hkey hlock hready hload))
  · exact keepsKey fun w e hkeep => hdone run y hform hgot _ _
      ((State.destDone_ok hok).trans ((State.deliver_hamper hhamper ha hlen hvalid).trans hkeep))
  · exact hdone run y hform hgot _ _ ((State.destDone_ok hok).trans (State.deliver_asks hhost hkek htenant hnone hroom))
  · exact hdone run y hform hgot _ _ ((State.destDone_ok hok).trans (State.deliver_wrapped hhost hkek htenant hsome))
  · exact hdone run y hform hgot _ _ (State.destDone_rejected hbad)
  · have hgate : u.destGate c = none := State.destGate_none hstore
    have hslot : c.alg ∈ [0x04, 0x10, 0x11] → c.param < 4 → agree c u = agreeSlot c u (p.item 0) := fun halg hparam => by
      simp only [List.mem_cons, List.not_mem_nil, or_false] at halg
      rw [agree_eq hp hout haux hinp hblock hprog (by simp; omega) hparam, State.deliversOr_asks hgot hgate]
      exact if_neg (by omega)
    have hlarge : c.alg = 0x20 → c.param < 4 → agree c u = agreeLarge c u (p.item 0) := fun halg hparam => by
      rw [agree_eq hp hout haux hinp hblock hprog (by simp [halg]) hparam, State.deliversOr_asks hgot hgate]
      exact if_pos halg
    have hkem : c.alg = 0x2A ∨ c.alg = 0x39 → kemParamOk c.param = true → decapsulate c u = decapsulateJob c u (p.item 0) :=
      fun halg hparam => by rw [decapsulate_eq hp hout haux hinp hblock hprog halg hparam, State.deliversOr_asks hgot hgate]
    refine ⟨fun halg hparam => ⟨fun v h x e hkey hcurve hlen hexport => ?_, fun v e hkey => ?_⟩,
      fun halg hparam => ⟨fun v h k hkey hlen hexport => ?_, fun v e hkey => ?_⟩, fun halg hparam hlen => ?_,
      fun halg hparam hlen => ⟨fun v h x hkey hexport => ?_, fun v e hkey => ?_⟩,
      fun halg hparam => ⟨fun v h k cs hkey hcs hcurves hpeers hexport => ?_, fun v e hkey => ?_⟩⟩
    · exact hagree ((hslot halg hparam).trans (agreeSlot_asks hkey hcurve hlen hexport))
    · exact hagree ((hslot halg hparam).trans (agreeSlot_refused hkey))
    · exact hagree ((hlarge halg hparam).trans (agreeLarge_asks hkey hlen hexport))
    · exact hagree ((hlarge halg hparam).trans (agreeLarge_refused hkey))
    · exact hencaps (by rw [encapsulate_eq hp hout haux hinp hblock hprog halg hparam hlen, State.deliversOr_asks hgot hgate])
    · exact hdecaps ((hkem (.inl halg) hparam).trans (decapsulateJob_asks halg hlen hkey hexport))
    · exact hdecaps ((hkem (.inl halg) hparam).trans (decapsulateJob_refused halg hlen hkey))
    · exact hdecaps ((hkem (.inr halg) hparam).trans (decapsulateJob_composite halg hkey hcs hcurves hpeers hexport))
    · exact hdecaps ((hkem (.inr halg) hparam).trans (decapsulateJob_composite_refused halg hkey))

end Sys2Proof.Machine
end

section
/-! SUPPORT and SETTLED. Curves, microcode and the attestation key (R100, R142, R143, R145, R153 to R156, R235). -/

namespace Sys2Proof.Machine

/-- A command of groups 0x07 to 0x09 that runs on does what its group's table gives every command with its opcode. -/
theorem runsOn_device {op : Nat} {u v : State} {c : Msg} {a : Answer} {f : Msg → State → State × Answer} (hop : c.opcode = op)
    (ha : f c u = (v, a)) (hf : ∀ d : Msg, deviceAct { d with opcode := op } u = f { d with opcode := op } u)
    (k : op ≠ rotateOp ∧ 7 ≤ op / 256 := by decide) : RunsOn c u v a := by
  have hc : c = { c with opcode := op } := by rw [← hop]
  refine runsOn ?_
  rw [actOf_device hop k, ← ha, hc]
  exact hf c

/-! ### CURVE_LOAD and CURVE_RETIRE (R153 to R156) -/

section
variable {m : Msg} {s : State} {x : Curve}

section
variable (hx : curveOf (m.payload.take m.payloadLen) = some x) (hstk : s.keys.stk ≠ [])
include hx hstk

/-- CURVE_LOAD of a curve record has CURVE_CHECK run as a PKE job of its own (R155, log entry 20). -/
theorem curveLoad_asks (hgot : s.gotOf m.cid = none) (hprog : s.hasProgram 0x3C = true) :
    curveLoad m s = (s.submitPke { Job.of m false 0x3C (runTime s 0x3C 0 x.pbits 0 0) with
      own := true, draws := true, data := m.payload.take m.payloadLen }, .engine) := by
  simp [curveLoad, hx, hstk, hgot, hprog]

/-- With the check run, the curve is settled by its reason. -/
theorem curveLoad_settles {y : Yield} (hgot : s.gotOf m.cid = some y) : curveLoad m s = s.settleCurve x y.reason := by
  simp [curveLoad, hx, hstk, hgot]

end

/-- A curve that fails a condition is refused with the condition's number. -/
theorem State.settleCurve_rejected {reason : Nat} (h : reason ≠ 0) : s.settleCurve x reason = (s, .why St.curveRejected reason) :=
  if_pos h

/-- A curve that is there already is refused with its handle. -/
theorem State.settleCurve_duplicate {n : Nat} (hdup : s.duplicateCurve x = some n) :
    s.settleCurve x 0 = (s, .resp ⟨St.curveRejected, 10, 0, 0, 0, 0, leBytes 1 n⟩) := by
  simp [State.settleCurve, hdup]

/-- A curve that passes takes the lowest free handle. -/
theorem State.settleCurve_loads {n : Nat} (hdup : s.duplicateCurve x = none) (hfree : s.freeHandle = some n) :
    s.settleCurve x 0 = (({ s with
      eng.curves := store s.eng.curves n { x with mac := Config.cmac s.keys.stk (x.bytes n) } } : State).putBit
        R.pkeCurveMapLoaded n true, .okay (leBytes 1 n)) := by
  simp [State.settleCurve, hdup, hfree]

/-- CURVE_RETIRE of a loaded curve retires its handle and frees the slots on it (R156). -/
theorem curveRetire_retires {n : Nat} (hlen : m.payloadLen = 1) (hn : n = le m.payload 0 1) (hlow : 6 ≤ n) (hhigh : n < 64)
    (hretired : bitOf (s.get R.pkeCurveRetiredRetired) n = false) (hloaded : bitOf (s.get R.pkeCurveMapLoaded) n = true) :
    curveRetire m s = (((({ s with eng.curves := drop s.eng.curves n } : State).putBit R.pkeCurveMapLoaded n false).putBit
      R.pkeCurveRetiredRetired n true).freeSlots (fun x => x.typ == 0x10 && x.curve == n), .of St.ok) := by
  subst hn
  simp only [curveRetire, hlen, ne_eq, not_true_eq_false, if_false, if_neg (Nat.not_lt.2 hlow), hretired, hloaded, hhigh,
    Nat.not_le.2 hhigh, Bool.false_eq_true, and_false, Bool.not_true, or_self]

end

/-! ### MICROCODE_INSTALL (R142, R143, R145) -/

/-- The clusters that are READY or at work, which a roll reaches. -/
def State.rollReaches (s : State) : List Nat :=
  (List.range 16).filter (fun k => s.clusterState k == 3 || s.clusterState k == 4 || s.clusterState k == 5)

/-- MICROCODE_INSTALL of an accepted package installs it as `v`, has the clusters that test themselves load again, and its roll begins. -/
theorem microcodeInstall_installs {m : Msg} {s v w : State} {n : Nat} {p : Package} {body : PkgBody} (hlen : m.payloadLen = 0)
    (hpackage : s.packageOf s.life.pkgBuffer = .ok (n, p, body))
    (hv : (s.installPackage n p body).logAdd 0x45 0xFFFF 0xFFFF (leBytes 1 n ++ leBytes 2 p.version) = v)
    (hw : (List.range 16).foldl (fun t k => if t.clusterState k = 2 then t.reloadCluster k else t) v = w) :
    microcodeInstall m s = (((w.rollReaches.foldl (fun t k =>
      t.setCluster k { t.cluster k with roll := setBit (t.cluster k).roll (n - 1) true }) w).rollNext 16).showRolling, .of St.ok) := by
  have hform : ¬ m.payloadLen ≠ 0 := by simp [hlen]
  rw [microcodeInstall, if_neg hform, hpackage]
  dsimp only
  rw [hv, hw, State.rollReaches]

/-! ### ATTESTATION_KEY_PROVISION (R100, R235) -/

/-- The block of the attestation key: TYPE 0x05 of 48 bytes. -/
def attKeyAttr : Attr := ⟨5, 0, 0, 48, 0, 0, 0, 0⟩

section
variable {m : Msg} {s v : State} (hlow : 9 ≤ m.payloadLen) (hlen : m.payloadLen ≤ m.payload.length)
  (hroots : s.get R.bootStatusRootsUnmatched = 0)
include hlow hlen hroots

/-- While the transport item is not open yet, ATTESTATION_KEY_PROVISION waits for it. -/
theorem attestationKeyProvision_waits {e : Answer}
    (hopen : s.openTransport m (m.payload.take m.payloadLen) attKeyAttr.bytes 0 = (v, .error e)) :
    attestationKeyProvision m s = (v, e) := by
  have hmatched : s.is R.bootStatusRootsUnmatched = false := by simp [State.is, hroots]
  simp only [attKeyAttr] at hopen
  rw [attestationKeyProvision, if_neg (by omega), hmatched]
  simp only [hopen, Bool.false_eq_true, if_false]

/-- With the item open, its key goes into the device entry of every table that a key is held for. -/
theorem attestationKeyProvision_provisions {blob key : Bytes}
    (hopen : s.openTransport m (m.payload.take m.payloadLen) attKeyAttr.bytes 0 = (v, .ok blob))
    (hkey : transported attKeyAttr blob = .ok key) (hsize : key.length = 48) :
    attestationKeyProvision m s =
      let w := v.putAttKey v.keys.active (fun x => x.keyP v.keys.dmk v.keys.dmkd) v.keys.dmkd key
      ({ w.putAttKey w.keys.staged (fun _ => some w.keys.nextDmk) w.keys.nextDmkd key with keys.attKey := key }, .of St.ok) := by
  have hmatched : s.is R.bootStatusRootsUnmatched = false := by simp [State.is, hroots]
  simp only [attKeyAttr] at hopen hkey
  rw [attestationKeyProvision, if_neg (by omega), hmatched]
  simp only [hopen, hkey, hsize, ne_eq, not_true_eq_false, Bool.false_eq_true, if_false]

end

section
variable {m : Msg} {s : State} {item attr : Bytes} {x y : Slot} {i j pos : Nat} (hzero : allZero (slice item 1 7) = true)
include hzero

/-- Under the key of a slot, a lane is asked to open the item. -/
theorem State.openTransport_slot (hlen : 9 ≤ item.length) (htype : le item 0 1 = 1) (hkek : s.kek m uUnwrap = .ok x)
    (hnone : s.partOf m.cid 3 = none) (hroom : s.skeRoom true = true) : s.openTransport m item attr pos
      = (s.submitSke { blobJob m 0 x.wg [] (item.drop 8) with part := 3, own := true }, .error .engine) := by
  have hitem : ¬ (item.length < 8 ∨ (!allZero (slice item 1 7)) = true) := by simp [hzero]; omega
  rw [State.openTransport, if_neg hitem, if_pos htype, hkek]
  exact State.lanePart_asks (k := 3) (j := blobJob m 0 x.wg [] (item.drop 8)) hnone hroom

/-- A hybrid item is opened under the slots of KEY and KEY2. -/
theorem State.openTransport_hybrid (htype : le item 0 1 = 2) (hbody : 1193 < item.length)
    (hdecaps : s.handleCheck m.inst m.key uDecaps = .ok (i, x)) (hagree : s.handleCheck m.inst m.key2 uAgree = .ok (j, y))
    (hx : x.typ = 0x20) (hy : y.typ = 0x10) (hcurve : y.curve = 1) :
    s.openTransport m item attr pos = s.openHybrid m x y (item.drop 8) attr := by
  have hitem : ¬ (item.length < 8 ∨ (!allZero (slice item 1 7)) = true) := by simp [hzero]; omega
  have hlong : ¬ (item.drop 8).length ≤ 1185 := by rw [List.length_drop]; omega
  rw [State.openTransport, if_neg hitem, if_neg (by omega), if_pos htype, if_neg hlong, hdecaps, hagree]
  simp [hx, hy, hcurve]

end

section
variable {m : Msg} {s : State} {x y : Slot} {body attr kem ecdh : Bytes}

/-- The first secret is asked of a PKE job under the slot of KEY. -/
theorem State.openHybrid_decaps (hnone : s.partOf m.cid 6 = none) (hprog : s.hasProgram 0x2A = true) :
    s.openHybrid m x y body attr
      = (s.submitPke { slotJob s m 0x2A m.key x 4 (body.take 1088) with part := 6, own := true }, .error .engine) := by
  have hask : s.pkePart 6 (slotJob s m 0x2A m.key x 4 (body.take 1088)) = _ := State.pkePart_asks hnone hprog
  rw [State.openHybrid, hask]

variable (hkem : s.partOf m.cid 6 = some kem)
include hkem

/-- The second, of one under the slot of KEY2. -/
theorem State.openHybrid_agree (hnone : s.partOf m.cid 7 = none) (hprog : s.hasProgram 0x04 = true) :
    s.openHybrid m x y body attr
      = (s.submitPke { slotJob s m 0x04 m.key2 y 0 (slice body 1088 97) with part := 7, own := true }, .error .engine) := by
  have hthere : s.pkePart 6 (slotJob s m 0x2A m.key x 4 (body.take 1088)) = (s, .ok kem) := State.pkePart_there hkem
  have hask : s.pkePart 7 (slotJob s m 0x04 m.key2 y 0 (slice body 1088 97)) = _ := State.pkePart_asks hnone hprog
  rw [State.openHybrid, hthere]
  simp only [hask]

/-- With both there, a lane is asked to open the item under the KEK that they give. -/
theorem State.openHybrid_opens (hecdh : s.partOf m.cid 7 = some ecdh) (hnone : s.partOf m.cid 3 = none) (hroom : s.skeRoom true = true) :
    s.openHybrid m x y body attr = (s.submitSke { blobJob m 0 x.wg (hybridKek kem ecdh attr) (body.drop 1185) with
      part := 3, own := true }, .error .engine) := by
  have hkemThere : s.pkePart 6 (slotJob s m 0x2A m.key x 4 (body.take 1088)) = (s, .ok kem) := State.pkePart_there hkem
  have hecdhThere : s.pkePart 7 (slotJob s m 0x04 m.key2 y 0 (slice body 1088 97)) = (s, .ok ecdh) := State.pkePart_there hecdh
  rw [State.openHybrid, hkemThere]
  simp only [hecdhThere]
  exact State.lanePart_asks (k := 3) (j := blobJob m 0 x.wg (hybridKek kem ecdh attr) (body.drop 1185)) hnone hroom

end

/-- Settles O18, act by act: a curve by what CURVE_CHECK found, a package, and the attestation key by what is open of its item. -/
theorem curvesAndPackages : Obligations.CurvesAndPackages := by
  intro m s u c
  refine ⟨fun x hx hstk => ⟨fun h hprog => ?_, fun y n hop hgot hreason hdup hfree => ?_, fun y hop hgot hreason => ?_,
      fun y n hop hgot hreason hdup => ?_⟩,
    fun n h hlen hn hlow hhigh hretired hloaded => ?_, fun n p body v w h hlen hpackage hv hw => ?_,
    fun item attr hlow hlen hroots hitem hattr hzero => ?_⟩
  · exact h.queues rfl (h.acts h.deviceAct (curveLoad_asks hx hstk h.gotOf hprog) fun _ => rfl)
  · refine runsOn_device hop ((curveLoad_settles hx hstk hgot).trans ?_) fun _ => rfl
    rw [hreason]
    exact State.settleCurve_loads hdup hfree
  · exact runsOn_device hop ((curveLoad_settles hx hstk hgot).trans (State.settleCurve_rejected hreason)) fun _ => rfl
  · refine runsOn_device hop ((curveLoad_settles hx hstk hgot).trans ?_) fun _ => rfl
    rw [hreason]
    exact State.settleCurve_duplicate hdup
  · exact h.replies rfl (h.acts h.deviceAct (curveRetire_retires hlen hn hlow hhigh hretired hloaded) fun _ => rfl)
  · exact h.replies rfl (h.acts h.deviceAct (microcodeInstall_installs hlen hpackage hv.symm hw.symm) fun _ => rfl)
  · subst hitem hattr
    have hitemLen : 9 ≤ (c.payload.take c.payloadLen).length := by rw [List.length_take]; omega
    have hwaits : ∀ {v : State} {e : Answer},
        u.openTransport c (c.payload.take c.payloadLen) attKeyAttr.bytes 0 = (v, .error e) → attestationKeyProvision c u = (v, e) :=
      attestationKeyProvision_waits hlow hlen hroots
    refine ⟨fun x h htype hkek hroom => ?_, fun i j x y h htype hbody hdecaps hagree hx hy hcurve hprog => ?_,
      fun i j x y kem hop htype hbody hdecaps hagree hx hy hcurve hkem => ⟨fun hnone hprog => ?_, fun ecdh hecdh hnone hroom => ?_⟩,
      fun v blob key w hop hopen hkey hsize hw => ?_⟩
    · have hopen := State.openTransport_slot (attr := attKeyAttr.bytes) (pos := 0) hzero hitemLen htype hkek h.partOf hroom
      exact h.queues rfl (h.acts h.deviceAct (hwaits hopen) fun _ => rfl)
    · have hhybrid := State.openTransport_hybrid (attr := attKeyAttr.bytes) (pos := 0) hzero htype hbody hdecaps hagree hx hy hcurve
      exact h.queues rfl (h.acts h.deviceAct (hwaits (hhybrid.trans (State.openHybrid_decaps h.partOf hprog))) fun _ => rfl)
    · have hhybrid := State.openTransport_hybrid (attr := attKeyAttr.bytes) (pos := 0) hzero htype hbody hdecaps hagree hx hy hcurve
      exact runsOn_device hop (hwaits (hhybrid.trans (State.openHybrid_agree hkem hnone hprog))) fun _ => rfl
    · have hhybrid := State.openTransport_hybrid (attr := attKeyAttr.bytes) (pos := 0) hzero htype hbody hdecaps hagree hx hy hcurve
      exact runsOn_device hop (hwaits (hhybrid.trans (State.openHybrid_opens hkem hecdh hnone hroom))) fun _ => rfl
    · subst hw
      exact runsOn_device hop (attestationKeyProvision_provisions hlow hlen hroots hopen hkey hsize) fun _ => rfl

end Sys2Proof.Machine
end

section
/-! SUPPORT and SETTLED. Gates and fences of PKE clusters and SKE lanes (R173, R174, R198). -/

namespace Sys2Proof.Machine

/-! ### The rights of the two control registers -/

/-- A row of the register tables stands at the offset of each of its copies, where that is no block's header and no rule slot. -/
theorem layout_mem_fieldsOf {row : Row} {w : Nat} {f : Fld} (hrow : row ∈ layout) (hat : row.at w = some f)
    (hheader : 0x40 ≤ w - blockOf w) (hslot : w < 0xC1600) (hword : inWord w f = true) : (row, f) ∈ fieldsOf w := by
  have hmem : (row, f) ∈ rowsAt w := by
    rw [rowsAt, if_neg (by omega), if_neg (by omega)]
    exact List.mem_filterMap.2 ⟨row, hrow, by rw [hat]; rfl⟩
  exact List.mem_filter.2 ⟨List.mem_append_left _ (List.mem_append_left _ hmem), hword⟩

/-- The control registers of clusters and lanes stand in the PKE and SKE sets, past the header. -/
theorem blockOf_clusterCtrl {n : Nat} (hn : n < 16) : blockOf (clusterCtrlOff n) = 0x70000 := by
  rw [blockOf, clusterCtrlOff]
  rw [if_neg (by omega)]
  omega

theorem blockOf_laneCtrl {n : Nat} (hn : n < 8) : blockOf (laneCtrlOff n) = 0x80000 := by
  rw [blockOf, laneCtrlOff]
  rw [if_neg (by omega)]
  omega

/-- A pair or an application core writes a GATE_REQ (R174, R199). -/
theorem fieldOpen_gateReq {r : Requester} {row : Row} {f : Fld} (hacc : row.acc = .rwm) (hwriter : row.writer = .pairsAndAps)
    (hoff : 0x70000 ≤ f.off ∧ f.off < 0x90000) (hr : (reqIsPair r || reqIsAp r) = true) : fieldOpen r (row, f) = true := by
  have hcommit : f.off ≠ 0x5000C := by omega
  have hack : f.off ≠ 0x50140 := by omega
  simpa [fieldOpen, hcommit, hack, hacc, mayWrite, hwriter, writesAt, hoff] using hr

/-- Who writes a GATE_REQ of a cluster has its control register's gate pass. -/
theorem writeGate_clusterCtrl {r : Requester} {n : Nat} (hn : n < 16) (hr : (reqIsPair r || reqIsAp r) = true) :
    writeGate r (fieldsOf (clusterCtrlOff n)) = .pass := by
  have hrow : (⟨R.pkeClusterCtrlGateReq 0, .rwm, .live, .value, 16, 16, .pairsAndAps⟩ : Row) ∈ layout := by decide
  have hat : Row.at ⟨R.pkeClusterCtrlGateReq 0, .rwm, .live, .value, 16, 16, .pairsAndAps⟩ (clusterCtrlOff n)
      = some ⟨clusterCtrlOff n, 0, 1, 0⟩ := by
    rw [Row.at, if_neg (by decide), if_pos (by simp only [R.pkeClusterCtrlGateReq, clusterCtrlOff]; omega)]
    rfl
  have hmem := layout_mem_fieldsOf hrow hat (by rw [blockOf_clusterCtrl hn, clusterCtrlOff]; omega) (by rw [clusterCtrlOff]; omega)
    (by simp [inWord])
  exact writeGate_pass hmem (fieldOpen_gateReq rfl rfl (by simp only [clusterCtrlOff]; omega) hr)

/-- Who writes a GATE_REQ of a lane has its control register's gate pass. -/
theorem writeGate_laneCtrl {r : Requester} {n : Nat} (hn : n < 8) (hr : (reqIsPair r || reqIsAp r) = true) :
    writeGate r (fieldsOf (laneCtrlOff n)) = .pass := by
  have hrow : (⟨R.skeLaneCtrlGateReq 0, .rwm, .live, .value, 8, 16, .pairsAndAps⟩ : Row) ∈ layout := by decide
  have hat : Row.at ⟨R.skeLaneCtrlGateReq 0, .rwm, .live, .value, 8, 16, .pairsAndAps⟩ (laneCtrlOff n)
      = some ⟨laneCtrlOff n, 0, 1, 0⟩ := by
    rw [Row.at, if_neg (by decide), if_pos (by simp only [R.skeLaneCtrlGateReq, laneCtrlOff]; omega)]
    rfl
  have hmem := layout_mem_fieldsOf hrow hat (by rw [blockOf_laneCtrl hn, laneCtrlOff]; omega) (by rw [laneCtrlOff]; omega)
    (by simp [inWord])
  exact writeGate_pass hmem (fieldOpen_gateReq rfl rfl (by simp only [laneCtrlOff]; omega) hr)

/-! ### A masked write of one bit -/

/-- A masked write of bit `i` alone writes that bit, and no other of the first three (Table SC.6). -/
theorem masked_maskedValue_bit (on : Bool) : ∀ i < 3, ∀ k < 3, masked (maskedValue i on % 2 ^ 32) k = if k = i then some on else none := by
  cases on <;> decide

section
variable {s : State} {r : Requester} {n : Nat}

/-- A write to PKE_CLUSTER_CTRL is one of its masked bits. -/
theorem State.writeSlow_clusterCtrl {v : Nat} (hn : n < 16) :
    s.writeSlow r (clusterCtrlOff n) v = s.writeClusterCtrl r (clusterCtrlOff n) n v := by
  have hnth : nthReg (clusterCtrlOff n) 0x7010C 0x10 16 = some n := by
    have hindex : (clusterCtrlOff n - 0x7010C) / 0x10 = n := by rw [clusterCtrlOff]; omega
    rw [nthReg, if_pos (by rw [hindex, clusterCtrlOff]; omega), hindex]
  rw [State.writeSlow, blockOf_clusterCtrl hn]
  rw [if_neg (by rw [clusterCtrlOff]; omega), if_neg (by rw [clusterCtrlOff]; omega), hnth]

/-- A write to SKE_LANE_CTRL is one of its masked bits. -/
theorem State.writeSlow_laneCtrl {v : Nat} (hn : n < 8) :
    s.writeSlow r (laneCtrlOff n) v = s.writeLaneCtrl r (laneCtrlOff n) n v := by
  have hcluster : nthReg (laneCtrlOff n) 0x7010C 0x10 16 = none := if_neg (by rw [laneCtrlOff]; omega)
  have hnth : nthReg (laneCtrlOff n) 0x8010C 0x10 8 = some n := by
    have hindex : (laneCtrlOff n - 0x8010C) / 0x10 = n := by rw [laneCtrlOff]; omega
    rw [nthReg, if_pos (by rw [hindex, laneCtrlOff]; omega), hindex]
  rw [State.writeSlow, blockOf_laneCtrl hn]
  rw [if_neg (by rw [laneCtrlOff]; omega), if_neg (by rw [laneCtrlOff]; omega), hcluster, hnth]

variable {gate on : Bool}

/-- The masked bits 0 and 1 of PKE_CLUSTER_CTRL are GATE_REQ and FENCE (R173, R174). -/
theorem State.writeClusterCtrl_bit {w : Nat} (hmay : (reqIsPair r || (gate && reqIsAp r)) = true) :
    s.writeClusterCtrl r w n (maskedValue (if gate then 0 else 1) on % 2 ^ 32) = (s.gateCluster n gate on).onward := by
  cases gate with
  | true => simp [State.writeClusterCtrl, State.maskedBit, masked_maskedValue_bit, -Nat.reducePow]
  | false =>
    have hpair : reqIsPair r = true := by simpa using hmay
    simp [State.writeClusterCtrl, State.maskedBit, masked_maskedValue_bit, hpair, -Nat.reducePow]

/-- The masked bits 0 and 1 of SKE_LANE_CTRL are GATE_REQ and FENCE (R198, R199). -/
theorem State.writeLaneCtrl_bit {w : Nat} (hmay : (reqIsPair r || (gate && reqIsAp r)) = true) :
    s.writeLaneCtrl r w n (maskedValue (if gate then 0 else 1) on % 2 ^ 32) = (s.gateLane n gate on).onward := by
  cases gate with
  | true => simp [State.writeLaneCtrl, State.maskedBit, masked_maskedValue_bit, -Nat.reducePow]
  | false =>
    have hpair : reqIsPair r = true := by simpa using hmay
    simp [State.writeLaneCtrl, State.maskedBit, masked_maskedValue_bit, hpair, -Nat.reducePow]

/-- The masked bit 2 of SKE_LANE_CTRL is REJOIN. -/
theorem State.writeLaneCtrl_rejoin {w : Nat} (hpair : reqIsPair r = true) :
    s.writeLaneCtrl r w n (maskedValue 2 true % 2 ^ 32) = (s.rejoinLane n).onward := by
  simp [State.writeLaneCtrl, State.maskedBit, masked_maskedValue_bit, hpair, -Nat.reducePow]

/-! ### The commands that write them -/

/-- A command that writes a gate or a fence of cluster `n`, where it gets through. -/
theorem exec_clusterCtrl {i : Bool → Instr} (hi : i = if gate then .pkeClusterCtrlGateReq r n else .pkeClusterCtrlFence r n)
    (hn : n < 16) (hmay : (reqIsPair r || (gate && reqIsAp r)) = true) (h : s.writes32 r (clusterCtrlOff n)) :
    exec (i on) s = .next ((s.noHalf r).gateCluster n gate on).onward := by
  have hwrite : exec (i on) s = .next (s.write r (clusterCtrlOff n) 4 (maskedValue (if gate then 0 else 1) on) true) := by
    subst hi
    cases gate <;> exact congrArg Host.Outcome.next (if_pos hn)
  have hr : (reqIsPair r || reqIsAp r) = true := by
    simp only [Bool.or_eq_true, Bool.and_eq_true] at hmay ⊢
    exact hmay.imp id And.right
  rw [hwrite, h.slow (writeGate_clusterCtrl hn hr), State.writeSlow_clusterCtrl hn, State.writeClusterCtrl_bit hmay]

/-- A command that writes a gate or a fence of lane `n`, where it gets through. -/
theorem exec_laneCtrl {i : Bool → Instr} (hi : i = if gate then .skeLaneCtrlGateReq r n else .skeLaneCtrlFence r n)
    (hn : n < 8) (hmay : (reqIsPair r || (gate && reqIsAp r)) = true) (h : s.writes32 r (laneCtrlOff n)) :
    exec (i on) s = .next ((s.noHalf r).gateLane n gate on).onward := by
  have hwrite : exec (i on) s = .next (s.write r (laneCtrlOff n) 4 (maskedValue (if gate then 0 else 1) on) true) := by
    subst hi
    cases gate <;> exact congrArg Host.Outcome.next (if_pos hn)
  have hr : (reqIsPair r || reqIsAp r) = true := by
    simp only [Bool.or_eq_true, Bool.and_eq_true] at hmay ⊢
    exact hmay.imp id And.right
  rw [hwrite, h.slow (writeGate_laneCtrl hn hr), State.writeSlow_laneCtrl hn, State.writeLaneCtrl_bit hmay]

/-- A pair's REJOIN, where it gets through. -/
theorem exec_laneRejoin (hn : n < 8) (hpair : reqIsPair r = true) (h : s.writes32 r (laneCtrlOff n)) :
    exec (.skeLaneCtrlRejoin r n) s = .next ((s.noHalf r).rejoinLane n).onward := by
  have hwrite : exec (.skeLaneCtrlRejoin r n) s = .next (s.write r (laneCtrlOff n) 4 (maskedValue 2 true) true) :=
    congrArg Host.Outcome.next (if_pos hn)
  rw [hwrite, h.slow (writeGate_laneCtrl hn (by simp [hpair])), State.writeSlow_laneCtrl hn, State.writeLaneCtrl_rejoin hpair]

end

/-! ### What a gate or a fence does (R173) -/

/-- GATE_REQ of cluster `n`, or its FENCE. -/
def clusterCtrl (gate : Bool) (n : Nat) : Fld := if gate then R.pkeClusterCtrlGateReq n else R.pkeClusterCtrlFence n

/-- GATE_REQ of lane `n`, or its FENCE. -/
def laneCtrl (gate : Bool) (n : Nat) : Fld := if gate then R.skeLaneCtrlGateReq n else R.skeLaneCtrlFence n

/-- A cleared bit reads clear. -/
theorem State.is_put_zero (s : State) (f : Fld) : (s.put f 0).is f = false := by
  simp [State.is]

/-- A field at another place reads as it stood. -/
theorem State.is_put_ne (s : State) (f g : Fld) (v : Nat) (h : g.key ≠ f.key) : (s.put f v).is g = s.is g := by
  rw [State.is, State.is, State.get_put_ne s f g v h]

section
variable {s : State} {n : Nat} {gate : Bool}

/-- Neither control bit of a cluster is its STATE. -/
theorem State.clusterState_putCtrl (v : Nat) : (s.put (clusterCtrl gate n) v).clusterState n = s.clusterState n :=
  State.get_put_ne _ _ _ _ (by
    cases gate <;> simp only [Fld.key, clusterCtrl, R.pkeClusterStatusState, R.pkeClusterCtrlGateReq, R.pkeClusterCtrlFence,
      if_true, Bool.false_eq_true, if_false, ne_eq] <;> omega)

/-- GATE_REQ and FENCE of a cluster stand apart. -/
theorem State.is_putCtrl_other (v : Nat) : (s.put (clusterCtrl gate n) v).is (clusterCtrl (!gate) n) = s.is (clusterCtrl (!gate) n) :=
  State.is_put_ne _ _ _ _ (by cases gate <;> simp [Fld.key, clusterCtrl, R.pkeClusterCtrlGateReq, R.pkeClusterCtrlFence])

/-- Neither control bit of a lane is its STATE. -/
theorem State.laneState_putCtrl (v : Nat) : (s.put (laneCtrl gate n) v).laneState n = s.laneState n :=
  State.get_put_ne _ _ _ _ (by
    cases gate <;> simp only [Fld.key, laneCtrl, R.skeLaneStatusState, R.skeLaneCtrlGateReq, R.skeLaneCtrlFence,
      if_true, Bool.false_eq_true, if_false, ne_eq] <;> omega)

/-- GATE_REQ and FENCE of a lane stand apart. -/
theorem State.is_putLaneCtrl_other (v : Nat) : (s.put (laneCtrl gate n) v).is (laneCtrl (!gate) n) = s.is (laneCtrl (!gate) n) :=
  State.is_put_ne _ _ _ _ (by cases gate <;> simp [Fld.key, laneCtrl, R.skeLaneCtrlGateReq, R.skeLaneCtrlFence])

/-- A gate or fence that rises is pending, and takes effect once no lease is held. -/
theorem State.gateCluster_rises (hn : n < 16) (hst : s.clusterState n ≠ 8) (hf : s.is (clusterCtrl gate n) = false) :
    s.gateCluster n gate true = ((s.put (clusterCtrl gate n) 1).put (R.pkeClusterStatusGatePending n) 1).settleGate n := by
  have hchange : ¬ (n ≥ 16 ∨ s.clusterState n = 8 ∨ s.is (clusterCtrl gate n) = true) := by simp [hst, hf, hn]
  exact (if_neg hchange).trans (if_pos rfl)

/-- One that falls is lifted. -/
theorem State.gateCluster_falls (hn : n < 16) (hst : s.clusterState n ≠ 8) (hf : s.is (clusterCtrl gate n) = true) :
    s.gateCluster n gate false = (s.put (clusterCtrl gate n) 0).liftCluster n := by
  have hchange : ¬ (n ≥ 16 ∨ s.clusterState n = 8 ∨ s.is (clusterCtrl gate n) = false) := by simp [hst, hf, hn]
  exact (if_neg hchange).trans (if_neg Bool.false_ne_true)

/-- A write that changes nothing does nothing, and a RETIRED cluster takes none. -/
theorem State.gateCluster_idle {on : Bool} (h : s.clusterState n = 8 ∨ s.is (clusterCtrl gate n) = on) : s.gateCluster n gate on = s :=
  if_pos (.inr h)

section
variable (hon : bitOf s.pwr.regionOff (n / 4) = false) (hgate : s.is (R.pkeClusterCtrlGateReq n) = false)
include hon hgate

/-- With its gate cleared, a cluster of a region that is on is lifted by what still holds it. -/
theorem State.liftCluster_ungated : s.liftCluster n =
    if (s.cluster n).held then (if s.clusterState n = 0 then s.setClusterState n 7 else s)
    else if s.is (R.pkeClusterCtrlFence n) then
      (if s.clusterState n = 0 then (s.put (R.pkeClusterStatusGatePending n) 1).loadCluster n else s)
    else
      let t := s.put (R.pkeClusterStatusGatePending n) 0
      if s.clusterState n = 0 ∨ s.clusterState n = 7 then t.loadCluster n
      else if s.clusterState n = 3 then t.feedCluster n (t.eng.pkeQueue.length + 1)
      else t := by
  rw [State.liftCluster, hon, hgate, if_neg (by simp), if_neg Bool.false_ne_true]

/-- One that Decision 2 or a repair holds goes FENCED from OFF. -/
theorem State.liftCluster_held (hst : s.clusterState n = 0) (hheld : (s.cluster n).held = true) :
    s.liftCluster n = s.setClusterState n 7 := by
  rw [State.liftCluster_ungated hon hgate, if_pos hheld, if_pos hst]

variable (hfree : (s.cluster n).held = false)
include hfree

/-- One that is still fenced loads from OFF, to be FENCED. -/
theorem State.liftCluster_fenced (hst : s.clusterState n = 0) (hfence : s.is (R.pkeClusterCtrlFence n) = true) :
    s.liftCluster n = (s.put (R.pkeClusterStatusGatePending n) 1).loadCluster n := by
  rw [State.liftCluster_ungated hon hgate, hfree, if_neg Bool.false_ne_true, if_pos hfence, if_pos hst]

/-- One that nothing holds any more loads from OFF or FENCED. -/
theorem State.liftCluster_loads (hst : s.clusterState n = 0 ∨ s.clusterState n = 7) (hfence : s.is (R.pkeClusterCtrlFence n) = false) :
    s.liftCluster n = (s.put (R.pkeClusterStatusGatePending n) 0).loadCluster n := by
  rw [State.liftCluster_ungated hon hgate, hfree, hfence, if_neg Bool.false_ne_true, if_neg Bool.false_ne_true, if_pos hst]

end

/-! ### What a gate or a fence of a lane does (R198) -/

/-- A gate or fence of a lane that is not the last in service is pending, and takes effect once no lease is held. -/
theorem State.gateLane_rises (hn : n < 8) (h : s.laneState n ≠ 2 ∧ s.laneState n ≠ 3 ∨ s.lastLane n = false) :
    s.gateLane n gate true = ((s.put (laneCtrl gate n) 1).put (R.skeLaneStatusGatePending n) 1).settleLane n := by
  have hstays : ¬ (true = true ∧ (s.laneState n = 2 ∨ s.laneState n = 3) ∧ s.lastLane n = true) := by
    rintro ⟨-, hst, hlast⟩
    rcases h with h | h
    · omega
    · simp [h] at hlast
  rw [State.gateLane, if_neg (Nat.not_le.2 hn)]
  exact (if_neg hstays).trans (if_pos rfl)

/-- The last lane in service cannot be taken out. -/
theorem State.gateLane_last (hn : n < 8) (hst : s.laneState n = 2 ∨ s.laneState n = 3) (hlast : s.lastLane n = true) :
    s.gateLane n gate true = s.blockErr 0x80000 (laneCtrlOff n) false := by
  rw [State.gateLane, if_neg (Nat.not_le.2 hn)]
  exact if_pos ⟨rfl, hst, hlast⟩

/-- Clearing both brings a lane that is OFF back by its self-test. -/
theorem State.gateLane_ungates (hn : n < 8) (hst : s.laneState n = 0) (hother : s.is (laneCtrl (!gate) n) = false) :
    s.gateLane n gate false
      = ((s.put (laneCtrl gate n) 0).put (R.skeLaneStatusGatePending n) 0).setLaneState n 1 := by
  have hclear : ¬ ((s.put (laneCtrl gate n) 0).is (R.skeLaneCtrlGateReq n) = true
      ∨ (s.put (laneCtrl gate n) 0).is (R.skeLaneCtrlFence n) = true) := by
    have hsame := State.is_put_zero s (laneCtrl gate n)
    have hstands := (State.is_putLaneCtrl_other (s := s) (n := n) (gate := gate) 0).trans hother
    cases gate <;> simp_all [laneCtrl]
  have hoff : ((s.put (laneCtrl gate n) 0).put (R.skeLaneStatusGatePending n) 0).laneState n = 0 := by
    have hapart : (R.skeLaneStatusState n).key ≠ (R.skeLaneStatusGatePending n).key := by
      simp [Fld.key, R.skeLaneStatusState, R.skeLaneStatusGatePending]
    exact (State.get_put_ne _ _ _ _ hapart).trans ((State.laneState_putCtrl 0).trans hst)
  rw [State.gateLane, if_neg (Nat.not_le.2 hn)]
  exact (if_neg (by simp)).trans ((if_neg Bool.false_ne_true).trans ((if_neg hclear).trans (if_pos hoff)))

/-- REJOIN of an ISOLATED lane has it test itself. -/
theorem State.rejoinLane_isolated (hn : n < 8) (hst : s.laneState n = 4) : s.rejoinLane n = s.put (R.skeLaneCtrlRejoin n) 1 :=
  if_pos ⟨hn, hst⟩

end

/-- Settles O41: each command is a write of its bit, and the bit's effect is the gate's or the fence's. -/
theorem engineControls : Obligations.EngineControls := by
  intro s r n gate t may row ctrl other lctrl lother
  have hother : other = clusterCtrl (!gate) n := by cases gate <;> rfl
  have hlother : lother = laneCtrl (!gate) n := by cases gate <;> rfl
  refine ⟨fun i hi hn hmay h => ⟨fun hst hf => ?_, fun hst hf hclear hheld hon => ?_, fun hgate hst hf hset hheld hon => ?_,
      fun hst hf hgate hheld hon => ?_, fun on hidle => ?_⟩,
    fun i hi hn hmay h => ⟨fun hfree => ?_, fun hst hlast => ?_, fun hst hclear => ?_⟩, fun hn hpair h hst => ?_⟩
  · rw [exec_clusterCtrl hi hn hmay h, State.gateCluster_rises (s := t) hn hst hf]
    rfl
  · rw [exec_clusterCtrl hi hn hmay h, State.gateCluster_falls (s := t) hn (by show s.clusterState n ≠ 8; omega) hf]
    have hsame := State.is_put_zero t (clusterCtrl gate n)
    have hstands : (t.put (clusterCtrl gate n) 0).is (clusterCtrl (!gate) n) = false :=
      (State.is_putCtrl_other 0).trans (hother ▸ hclear)
    have hst' := (State.clusterState_putCtrl (s := t) (gate := gate) (n := n) 0)
    rw [State.liftCluster_loads (s := t.put (clusterCtrl gate n) 0) hon (by cases gate <;> assumption) hheld (by rw [hst']; exact hst)
      (by cases gate <;> assumption)]
    rfl
  · subst hgate
    rw [exec_clusterCtrl hi hn hmay h, State.gateCluster_falls (s := t) hn (by show s.clusterState n ≠ 8; omega) hf]
    rw [State.liftCluster_fenced (s := t.put (clusterCtrl true n) 0) hon (State.is_put_zero t _) hheld
      ((State.clusterState_putCtrl 0).trans hst) ((State.is_putCtrl_other 0).trans (hother ▸ hset))]
    rfl
  · have hungated : (t.put (clusterCtrl gate n) 0).is (R.pkeClusterCtrlGateReq n) = false := by
      cases gate with
      | true => exact State.is_put_zero t _
      | false => exact (State.is_putCtrl_other (gate := false) 0).trans hgate
    rw [exec_clusterCtrl hi hn hmay h, State.gateCluster_falls (s := t) hn (by show s.clusterState n ≠ 8; omega) hf,
      State.liftCluster_held (s := t.put (clusterCtrl gate n) 0) hon hungated ((State.clusterState_putCtrl 0).trans hst) hheld]
    rfl
  · rw [exec_clusterCtrl hi hn hmay h, State.gateCluster_idle (s := t) hidle]
  · rw [exec_laneCtrl hi hn hmay h, State.gateLane_rises (s := t) hn hfree]
    rfl
  · rw [exec_laneCtrl hi hn hmay h, State.gateLane_last (s := t) hn hst hlast]
  · have hclear' : t.is (laneCtrl (!gate) n) = false := by
      rw [← hlother, State.is, beq_eq_false_iff_ne]
      exact hclear
    rw [exec_laneCtrl hi hn hmay h, State.gateLane_ungates (s := t) hn hst hclear']
    rfl
  · rw [exec_laneRejoin hn hpair h, State.rejoinLane_isolated (s := t) hn hst]

end Sys2Proof.Machine
end

section
/-! SUPPORT and SETTLED. PKE clusters: release, wipe, load, quarantine and seeds (R135 to R140, R164, R168, R169, R173). -/

namespace Sys2Proof.Machine

/-! ### A job's release and abort (R139, R140, R168) -/

section
variable {s : State} {n lane : Nat} {j : Job} {check residue : Bool}

/-- A job that passes its checks yields its result, and the cluster wipes. -/
theorem State.releaseJob_passes (hj : (s.cluster n).job = some j) (hst : s.clusterState n = 4)
    (hpass : ((check || !hasCheck j.prog) && residue) = true) (hmark : s.jobDying j = none) :
    s.releaseJob n check residue lane
      = ((if j.run.status = St.inputRejected then s.incSat R.pkeRejectsRejected else s).yield j
        { j.run with key := j.slots.headD 0 }).wipeCluster n := by
  simp only [State.releaseJob, hj, hst, hpass, hmark, ne_eq, not_true_eq_false, if_false, if_true]

/-- A mark suppresses what a job that passes its checks yields. -/
theorem State.releaseJob_suppressed {st : Nat} (hj : (s.cluster n).job = some j) (hst : s.clusterState n = 4)
    (hpass : ((check || !hasCheck j.prog) && residue) = true) (hmark : s.jobDying j = some st) :
    s.releaseJob n check residue lane = (s.yield j (Yield.of st)).wipeCluster n := by
  simp only [State.releaseJob, hj, hst, hpass, hmark, ne_eq, not_true_eq_false, if_false, if_true]

/-- The KIND of the check that failed. -/
def failKind (j : Job) (residue : Bool) : Nat := if residue then checkKind j.prog else 6

/-- A job that fails a check is recorded, yields ENGINE_FAULT, or its mark's status, wipes and is reported. -/
theorem State.releaseJob_fails (hj : (s.cluster n).job = some j) (hst : s.clusterState n = 4)
    (hpass : ((check || !hasCheck j.prog) && residue) = false) :
    s.releaseJob n check residue lane
      = ((((s.drawn.pkeFault n lane (failKind j residue) j.prog (s.jobWords j)).yield j
          (Yield.of ((s.jobDying j).getD St.engineFault))).wipeCluster n).logAdd 0x60 0xFFFF j.tenant
        (s.locBytes (locM (n / 4) n lane) ++ leBytes 1 (failKind j residue) ++ leBytes 1 j.prog)).report
          (plainFault 4 (locM (n / 4) n lane) 7 (failKind j residue)) := by
  simp only [State.releaseJob, failKind, hj, hst, hpass, ne_eq, not_true_eq_false, if_false, Bool.false_eq_true]

/-- An abort before the release point ends the job with its cause's status. -/
theorem State.abortPke_runs {status : Nat} (hj : (s.cluster n).job = some j) (hst : s.clusterState n = 4) :
    s.abortPke n status = ((s.yield j (Yield.of status)).incSat R.pkeRejectsAborts).wipeCluster n := by
  simp only [State.abortPke, hj, hst, if_true]

end

/-! ### The end of a wipe (R137, R173) -/

/-- Cluster `n` once its wipe is over: its slots and lease are free, and a pending gate has taken effect. -/
def State.wiped (s : State) (n : Nat) : State := ((s.endWipe n).setClusterState n 3).settleGate n

section
variable {s : State} {n : Nat}

/-- A wipe that ends outside a reset leaves the cluster in service with its next job, or out of it. -/
theorem State.wipeEnd_wiping (hst : s.clusterState n = 5) (hc : bitOf s.pwr.clusterReset n = false)
    (hr : bitOf s.pwr.regionReset (n / 4) = false) :
    s.wipeEnd n = if (s.wiped n).clusterState n = 3
      then ((s.wiped n).rollNext 16).feedCluster n ((s.wiped n).eng.pkeQueue.length + 1) else s.wiped n := by
  have hwipes : ¬ (s.clusterState n ≠ 5 ∨ bitOf s.pwr.clusterReset n = true ∨ bitOf s.pwr.regionReset (n / 4) = true) := by
    simp [hst, hc, hr]
  exact if_neg hwipes

end

/-! ### Load and self-test (R135, R144, R169) -/

section
variable {s : State} {n bad : Nat} {ok : Bool}

/-- A cluster takes part where neither it nor its region is in reset. -/
theorem State.clusterFree_eq (hn : n < 16) (hc : bitOf s.pwr.clusterReset n = false) (hr : bitOf s.pwr.regionReset (n / 4) = false) :
    s.clusterFree n = true := by
  simp [State.clusterFree, hn, hc, hr]

/-- The load gate admits the bodies: the cluster holds their programs and tests itself. -/
theorem State.clusterLoaded_admitted (h : s.gateRefusal bad = 0) :
    s.clusterLoaded n bad = (s.setLoaded n s.activeBodies).setClusterState n 2 :=
  if_neg (not_not_intro h)

/-- The load gate refuses a body: the cluster is held, with a HARD fault. -/
theorem State.clusterLoaded_refused (h : s.gateRefusal bad ≠ 0) :
    s.clusterLoaded n bad = (((s.sqcEvent R.pkeGateSeq (fun t =>
      (t.put R.pkeGatePackage (s.gateRefusal bad)).put R.pkeGateCluster n)).raise 97).holdCluster n).hard (locM (n / 4) n 0xF) 7 0 :=
  if_pos h

/-- In LOADING the load ends. -/
theorem State.clusterReady_loading (hfree : s.clusterFree n = true) (hst : s.clusterState n = 1) :
    s.clusterReady n bad ok = s.clusterLoaded n bad := by
  simp only [State.clusterReady, hfree, hst, Bool.not_true, Bool.false_eq_true, if_false, if_true]

/-- In SELF_TEST the self-test ends. -/
theorem State.clusterReady_testing (hfree : s.clusterFree n = true) (hst : s.clusterState n = 2) (ht : (s.cluster n).tested = false) :
    s.clusterReady n bad ok = s.clusterTested n ok := by
  simp [State.clusterReady, hfree, hst, ht]

/-- A cluster that has passed its self-test waits for its seed. -/
theorem State.clusterReady_tested (hfree : s.clusterFree n = true) (hst : s.clusterState n = 2) (ht : (s.cluster n).tested = true) :
    s.clusterReady n bad ok = s.seatReady n := by
  simp [State.clusterReady, hfree, hst, ht]

/-- A seeded cluster is in service: a pending gate or roll takes effect, or it takes its first job. -/
theorem State.seatReady_seeded (hst : s.clusterState n = 2) (ht : (s.cluster n).tested = true) (hseed : s.seeded n = true)
    (hret : (s.cluster n).returning = false) :
    s.seatReady n = let r := (((s.setCluster n { s.cluster n with tested := false, returning := false, idleSince := s.tick }).setClusterState
      n 3).settleGate n).rollNext 16
      r.feedCluster n (r.eng.pkeQueue.length + 1) := by
  simp [State.seatReady, hst, ht, hseed, hret]

/-- A cluster without a seed waits while the DRBG does not serve. -/
theorem State.seatReady_unseeded (hseed : s.seeded n = false) (hdraw : s.canDraw = false) : s.seatReady n = s := by
  simp [State.seatReady, State.seedCluster, hseed, hdraw]

end

/-! ### The return from quarantine (R169) -/

section
variable {s : State} {n bad : Nat} {ok : Bool}

/-- The third quarantine within 180,000 mc holds the cluster. -/
theorem State.quarantineReturn_third {a b c : Nat} (hfree : s.clusterFree n = true) (hst : s.clusterState n = 6)
    (hq : (s.cluster n).quarAt = [a, b, c]) (hnear : a < c + 180000) : s.quarantineReturn n bad ok = s.holdCluster n := by
  simp [State.quarantineReturn, hfree, hst, hq, hnear]

/-- A cluster that returns from quarantine: it loads. -/
def State.returningCluster (s : State) (n : Nat) : State :=
  (s.loadCluster n).setCluster n { (s.loadCluster n).cluster n with returning := true }

/-- With fewer quarantines than three the cluster loads, and where the gate admits it tests itself. -/
theorem State.quarantineReturn_again (hfree : s.clusterFree n = true) (hst : s.clusterState n = 6)
    (hq : (s.cluster n).quarAt.length < 3) :
    s.quarantineReturn n bad ok = if ((s.returningCluster n).clusterLoaded n bad).clusterState n = 2
      then ((s.returningCluster n).clusterLoaded n bad).clusterTested n ok else (s.returningCluster n).clusterLoaded n bad := by
  have hreturns : ¬ ((!s.clusterFree n) = true ∨ s.clusterState n ≠ 6) := by simp [hfree, hst]
  rw [State.quarantineReturn, if_neg hreturns]
  match hlist : (s.cluster n).quarAt, hq with
  | [], _ => rfl
  | [_], _ => rfl
  | [_, _], _ => rfl

end

/-! ### Masking seeds (R164) -/

section
variable {s : State} {n : Nat}

/-- A READY cluster whose seed is due gets it at once. -/
theorem State.seedIn_ready (hn : n < 16) (hst : s.clusterState n = 3) (hnext : (s.cluster n).nextSeed = []) (hdue : s.seedDue n = true)
    (hdraw : s.canDraw = true) : s.seedIn n = (s.draw 32).1.seatSeed n (s.draw 32).2 := by
  have hn' : ¬ n ≥ 16 := Nat.not_le.mpr hn
  simp [State.seedIn, State.seedCluster, hn', hst, hnext, hdue, hdraw]

/-- A cluster at work whose seed is due keeps it for the end of its job. -/
theorem State.seedIn_busy (hn : n < 16) (hst : s.clusterState n = 4 ∨ s.clusterState n = 5) (hnext : (s.cluster n).nextSeed = [])
    (hdue : s.seedDue n = true) (hdraw : s.canDraw = true) :
    s.seedIn n = (s.draw 32).1.setCluster n { s.cluster n with nextSeed := (s.draw 32).2 } := by
  have hn' : ¬ n ≥ 16 := Nat.not_le.mpr hn
  obtain hst | hst := hst <;> simp [State.seedIn, hn', hst, hnext, hdue, hdraw]

/-- A READY cluster that has its seed takes a job. -/
theorem State.seedDelivery_ready (h : (s.seedIn n).clusterState n = 3) :
    s.seedDelivery n = (s.seedIn n).feedCluster n ((s.seedIn n).eng.pkeQueue.length + 1) := by
  simp [State.seedDelivery, h]

/-- A cluster at work goes on with its job. -/
theorem State.seedDelivery_busy (h : (s.seedIn n).clusterState n = 4 ∨ (s.seedIn n).clusterState n = 5) :
    s.seedDelivery n = s.seedIn n := by
  obtain h | h := h <;> simp [State.seedDelivery, h]

end

/-- Settles O51: each event of a cluster is the branch of its operation that the cluster's state and its checks select. -/
theorem pkeEvents : Obligations.PkeEvents := by
  unfold Obligations.PkeEvents
  intro s n lane j check residue runs fails kind at_ y w last fed near held refused loaded passed failed
  refine ⟨?release, ?failure, ?abort, ?noCause, ?wipe, ?ready, ?quarantine, ?seed, ?mismatch, ?expiry⟩
  case release =>
    rintro ⟨hj, hst⟩ hfails
    have hpass : ((check || !hasCheck j.prog) && residue) = true := by simpa only [fails, Bool.not_eq_false'] using hfails
    refine ⟨fun hmark hy => ?_, fun hmark hy => ?_, fun st hmark => ?_⟩
    · exact congrArg (fun t => Host.Outcome.next t.onward) ((State.releaseJob_passes hj hst hpass hmark).trans (by rw [if_neg hy]))
    · exact congrArg (fun t => Host.Outcome.next t.onward) ((State.releaseJob_passes hj hst hpass hmark).trans (by rw [if_pos hy]))
    · exact congrArg (fun t => Host.Outcome.next t.onward) (State.releaseJob_suppressed hj hst hpass hmark)
  case failure =>
    rintro ⟨hj, hst⟩ hfails
    have hpass : ((check || !hasCheck j.prog) && residue) = false := by simpa only [fails, Bool.not_eq_true'] using hfails
    exact congrArg (fun t => Host.Outcome.next t.onward) (State.releaseJob_fails hj hst hpass)
  case abort =>
    rintro status ⟨hj, hst⟩ hcause
    exact congrArg Host.Outcome.next ((if_pos hcause).trans (congrArg State.onward (State.abortPke_runs hj hst)))
  case noCause =>
    intro status hcause
    exact congrArg Host.Outcome.next (if_neg (by simp [hcause]))
  case wipe =>
    intro hst hc hr
    exact ⟨fun hw => congrArg (fun t => Host.Outcome.next (last t)) ((State.wipeEnd_wiping hst hc hr).trans (if_pos hw)),
      fun hw => congrArg (fun t => Host.Outcome.next (last t)) ((State.wipeEnd_wiping hst hc hr).trans (if_neg hw))⟩
  case ready =>
    rintro bad ok ⟨hn, hc, hr⟩
    have hfree := State.clusterFree_eq hn hc hr
    refine ⟨fun hst hbad => ?_, fun hst hbad => ?_, fun hst ht => ?_, fun hst ht hseed hret => ?_, fun hst ht hseed hdraw => ?_⟩ <;>
      refine congrArg (fun t => Host.Outcome.next (State.onward t)) ?_
    · exact (State.clusterReady_loading hfree hst).trans (State.clusterLoaded_admitted hbad)
    · exact (State.clusterReady_loading hfree hst).trans (State.clusterLoaded_refused hbad)
    · exact (State.clusterReady_testing hfree hst ht).trans (by cases ok <;> rfl)
    · exact (State.clusterReady_tested hfree hst ht).trans (State.seatReady_seeded hst ht hseed hret)
    · exact (State.clusterReady_tested hfree hst ht).trans (State.seatReady_unseeded hseed hdraw)
  case quarantine =>
    rintro bad ok ⟨hn, hc, hr⟩ hup hst
    have hfree := State.clusterFree_eq hn hc hr
    have hexec : exec (.quarantineReturn n bad ok) s = .next (s.quarantineReturn n bad ok).onward :=
      congrArg Host.Outcome.next (if_pos hup)
    refine ⟨fun hq => ⟨fun hbad h7 => ?_, fun hbad h2 => ?_⟩, fun a b c hq hnear => ?_⟩ <;>
      refine hexec.trans (congrArg (fun t => Host.Outcome.next (State.onward t)) ?_)
    · have hload : (s.returningCluster n).clusterLoaded n bad = _ := State.clusterLoaded_refused hbad
      rw [State.quarantineReturn_again hfree hst hq, hload]
      exact if_neg (fun h2 => absurd (h7.symm.trans h2) (by decide))
    · have hload : (s.returningCluster n).clusterLoaded n bad = _ := State.clusterLoaded_admitted hbad
      rw [State.quarantineReturn_again hfree hst hq, hload]
      exact (if_pos h2).trans (by cases ok <;> rfl)
    · exact State.quarantineReturn_third hfree hst hq hnear
  case seed =>
    intro hn hnext hdue hdraw
    refine ⟨fun hst => ?_, fun hst => ?_⟩ <;>
      refine fun ht => congrArg (fun u => Host.Outcome.next (State.onward u)) ?_
    · have hin := State.seedIn_ready hn hst hnext hdue hdraw
      exact (State.seedDelivery_ready (hin ▸ ht)).trans (congrArg fed hin)
    · have hin := State.seedIn_busy hn hst hnext hdue hdraw
      have hbusy : (s.seedIn n).clusterState n = 4 ∨ (s.seedIn n).clusterState n = 5 := by rw [hin, ht]; exact hst
      exact (State.seedDelivery_busy hbusy).trans hin
  case mismatch =>
    intro hruns
    exact congrArg (fun t => Host.Outcome.next (State.seedDelivery t n).onward) (State.core_mismatch hruns)
  case expiry =>
    intro hn hmark hseed
    exact congrArg Host.Outcome.next (if_pos ⟨hn, hmark, by simp [hseed]⟩)

end Sys2Proof.Machine
end

section
/-! SUPPORT and SETTLED. SKE lanes, their nonces and waits for entropy (R165, R181, R183, R190, R191, R195, R196, R198, R216). -/

namespace Sys2Proof.Machine

/-! ### The start of a request (R188, R190) -/

section
variable {s u : State} {n : Nat} {j j1 : Job}

/-- A lane that is out of reset takes the next request. -/
theorem State.requestStart_free (hn : n < 8) (hr : bitOf s.pwr.regionReset 4 = false) (hc : bitOf s.pwr.clusterReset 16 = false) :
    s.requestStart n = s.startSke n (s.eng.skeQueue.length + 1) :=
  if_pos ⟨hn, by simp [hr], by simp [hc]⟩

section
variable {fuel : Nat} (hst : s.laneState n = 2) (hgate : s.is (R.skeLaneStatusGatePending n) = false)
include hst hgate

/-- With no request that may start, the lane stays READY. -/
theorem State.startSke_none (hpick : s.pick true s.requestMayStart = none) : s.startSke n (fuel + 1) = s := by
  simp [State.startSke, hst, hgate, hpick]

/-- A request that is neither stale nor refused its nonce runs on the lane. -/
theorem State.startSke_starts (hpick : s.pick true s.requestMayStart = some j) (hfresh : (s.unqueue j).jobStale j = none)
    (hiv : (s.unqueue j).giveIv n j = (u, .ok j1)) :
    s.startSke n (fuel + 1) = (((((u.armJob j1).1.setLane n { (u.armJob j1).1.lane n with job := some (u.armJob j1).2 }).setLaneState n
      3).put (R.skeLaneStatusAlg n) (u.armJob j1).2.prog).put (R.skeLaneStatusLeased n) 1) := by
  simp [State.startSke, hst, hgate, hpick, hfresh, hiv]

end

end

/-! ### The end of a request (R181, R183) -/

section
variable {s : State} {n : Nat} {j : Job} {ok : Bool} (hj : (s.lane n).job = some j)
include hj

/-- A request that is marked dying stops with the status of its mark. -/
theorem State.requestEnd_marked {st : Nat} (hmark : s.jobDying j = some st) :
    s.requestEnd n ok = ((s.zeroDest j).yield j (Yield.of st)).clearLane n := by
  simp only [State.requestEnd, State.stopSke, hj, hmark]

/-- One that is not, and whose check passes, ends with what it yields: OK releases its output, another status zeroes it. -/
theorem State.requestEnd_passes (hmark : s.jobDying j = none) :
    s.requestEnd n true = ((if j.runSke.status = St.ok then s else s.zeroDest j).yield j
      { j.runSke with info := s.rotationOf j, key := j.slots.headD 0 }).clearLane n := by
  simp only [State.requestEnd, State.endSke, hj, hmark, if_true]

/-- One whose check fails is a mismatch of its lane. -/
theorem State.requestEnd_mismatch (hmark : s.jobDying j = none) : s.requestEnd n false = s.laneMismatch n j := by
  simp only [State.requestEnd, hj, hmark, Bool.false_eq_true, if_false]

end

/-! ### A lane's self-test (R198) -/

section
variable {s : State} {n : Nat} {ok : Bool}

/-- The self-test of a lane in SELF_TEST has it join, or isolates it. -/
theorem State.laneTested_first (hn : n < 8) (hst : s.laneState n = 1) :
    s.laneTested n ok = s.setLaneState n (if ok then 2 else 4) := by
  simp [State.laneTested, Nat.not_le.2 hn, hst]

/-- A lane that has passed its test to rejoin: READY, its mismatch window clear. -/
def State.rejoined (s : State) (n : Nat) : State :=
  let t := s.put (R.skeLaneCtrlRejoin n) 0
  ((t.setLane n { t.lane n with mism := [] }).showMism n).setLaneState n 2

section
variable (hn : n < 8) (hst : s.laneState n = 4) (hre : s.is (R.skeLaneCtrlRejoin n) = true)
include hn hst hre

/-- A lane that rejoins is gated at once where its gate or fence asks for it. -/
theorem State.laneTested_rejoins :
    s.laneTested n true = if (s.rejoined n).is (R.skeLaneCtrlGateReq n) = true ∨ (s.rejoined n).is (R.skeLaneCtrlFence n) = true
      then ((s.rejoined n).put (R.skeLaneStatusGatePending n) 1).settleLane n else s.rejoined n :=
  (if_neg (Nat.not_le.2 hn)).trans (if_pos ⟨hre, hst⟩)

/-- A lane that fails its test to rejoin stays ISOLATED. -/
theorem State.laneTested_stays : s.laneTested n false = s.put (R.skeLaneCtrlRejoin n) 0 :=
  (if_neg (Nat.not_le.2 hn)).trans (if_pos ⟨hre, hst⟩)

end

end

/-! ### A reservation write (R191) -/

/-- A bank that has taken `h`: its newest 64 values. -/
def bankWith (h : Nat) (l : List Nat) : List Nat := (h :: l.filter (· != h)).take 64

section
variable {s : State} {h : Nat} (hh : s.eng.reserving = some h)
include hh

/-- A value that stands in both banks is reserved. -/
theorem State.reservationDone_both :
    s.reservationDone true true = ({ s with
      eng.nonce0 := bankWith h s.eng.nonce0
      eng.nonce1 := bankWith h s.eng.nonce1
      eng.reserving := none } : State).put R.skeNonceReservedH h := by
  rw [State.reservationDone, hh]
  rfl

/-- A value that the first bank alone has taken is still being written. -/
theorem State.reservationDone_first : s.reservationDone true false = { s with eng.nonce0 := bankWith h s.eng.nonce0 } := by
  rw [State.reservationDone, hh]
  rfl

/-- So is one that the second bank alone has taken. -/
theorem State.reservationDone_second : s.reservationDone false true = { s with eng.nonce1 := bankWith h s.eng.nonce1 } := by
  rw [State.reservationDone, hh]
  rfl

/-- A write that failed in both banks ends the guard. -/
theorem State.reservationDone_neither : s.reservationDone false false = ({ s with eng.reserving := none } : State).loseBase := by
  rw [State.reservationDone, hh]
  rfl

end

/-! ### The rotation of a slot (R195) -/

/-- A slot whose rotation is due, and under way nowhere, has its command taken and run. -/
theorem State.rotateSlot_due {s : State} {i : Nat} {x : Slot} (hx : look s.keys.slots i = some x) (hlive : s.life.updating = none)
    (htenant : s.keys.rotating.contains x.tenant = true) (hdue : x.rotateDue = true) (hnew : x.successor = none)
    (hdoomed : x.doomed = false)
    (hidle : s.host.cmds.any (fun c => c.2.m.opcode == rotateOp && c.2.m.key == handleOf i x.epoch) = false) {m : Msg}
    (hm : m = ownMsg rotateOp x.tenant (s.get R.ferryStatusSelf) 0 0 (handleOf i x.epoch)) :
    s.rotateSlot i = ((s.take m).1.runAct (s.take m).2 { m with cid := (s.take m).2 }).pump := by
  subst hm
  have hbegins : s.life.updating.isNone = true ∧ s.keys.rotating.contains x.tenant = true ∧ x.rotateDue = true ∧
      x.successor.isNone = true ∧ (!x.doomed) = true ∧
      (!s.host.cmds.any (fun c => c.2.m.opcode == rotateOp && c.2.m.key == handleOf i x.epoch)) = true := by
    simp only [hlive, htenant, hdue, hnew, hdoomed, hidle, Option.isNone_none, Bool.not_false, and_self]
  simp only [State.rotateSlot, hx]
  exact if_pos hbegins

/-! ### Waits for entropy (R165, R216) -/

section
variable {s : State} {cid : Nat} {j : Job} {c : Cmd} (hdrbg : s.drbgUp = false)
include hdrbg

/-- The one PKE job that waits for a draw ends. -/
theorem State.entropyTimeout_pke (hcid : j.cid = cid) (hp : s.eng.pkeQueue = [j]) (hs : s.eng.skeQueue = []) (hske : j.ske = false)
    (hdraws : j.draws = true) : s.entropyTimeout cid = s.dropQueue false (· == j) St.entropyFailed := by
  simp [State.entropyTimeout, hp, hs, hcid, hske, hdraws, hdrbg]

/-- The one SKE request that waits for its IV ends. -/
theorem State.entropyTimeout_ske (hcid : j.cid = cid) (hp : s.eng.pkeQueue = []) (hs : s.eng.skeQueue = [j]) (hske : j.ske = true)
    (hcounted : j.counted = true) (hguard : guardIv j.prog = false) :
    s.entropyTimeout cid = s.dropQueue true (· == j) St.entropyFailed := by
  simp [State.entropyTimeout, hp, hs, hcid, hske, hcounted, hguard, hdrbg]

/-- A command that waits for a draw of its own ends. -/
theorem State.entropyTimeout_command (hp : s.eng.pkeQueue = []) (hs : s.eng.skeQueue = []) (hc : look s.host.cmds cid = some c)
    (hstage : c.stage = .route) (hneeds : c.needs.contains needEntropy = true) :
    s.entropyTimeout cid = s.complete cid (Resp.of St.entropyFailed) := by
  have hwaits : c.stage = .route ∧ c.needs.contains needEntropy = true ∧ (!s.drbgUp) = true := ⟨hstage, hneeds, by simp [hdrbg]⟩
  simp only [State.entropyTimeout, hp, hs, hc, List.append_nil, List.find?_nil, if_pos hwaits]

end

/-- Settles O52: each event of a lane is the branch of its operation that the lane's state and its checks select. -/
theorem skeEvents : Obligations.SkeEvents := by
  unfold Obligations.SkeEvents
  intro s n i h cid j j1 u x c ok mayStart near off seen noted missed y ended keep due msg
  refine ⟨?start, ?idle, ?ending, ?selfTest, ?rejoin, ?reserved, ?rotation, ?entropy⟩
  case start =>
    rintro ⟨hn, hr, hc, hst, hgate⟩ hpick hfresh hiv
    exact congrArg (fun t => Host.Outcome.next (State.onward t))
      ((State.requestStart_free hn hr hc).trans (State.startSke_starts hst hgate hpick hfresh hiv))
  case idle =>
    rintro ⟨hn, hr, hc, hst, hgate⟩ hpick
    exact congrArg (fun t => Host.Outcome.next (State.onward t))
      ((State.requestStart_free hn hr hc).trans (State.startSke_none hst hgate hpick))
  case ending =>
    intro hj
    refine ⟨fun hmark hy => ?_, fun hmark hy => ?_, fun hmark hoff => ?_, fun hmark hoff => ?_, fun st hmark => ?_⟩ <;>
      refine congrArg (fun t => Host.Outcome.next (ended t)) ?_
    · exact (State.requestEnd_passes hj hmark).trans (by rw [if_pos hy])
    · exact (State.requestEnd_passes hj hmark).trans (by rw [if_neg hy])
    · exact (State.requestEnd_mismatch hj hmark).trans (if_neg (ne_true_of_eq_false hoff))
    · exact (State.requestEnd_mismatch hj hmark).trans (if_pos hoff)
    · exact State.requestEnd_marked hj hmark
  case selfTest =>
    intro hn hst
    exact congrArg (fun t => Host.Outcome.next (State.onward t)) (State.laneTested_first hn hst)
  case rejoin =>
    intro hn hst hre t back gated
    refine ⟨fun hg => ?_, fun hg => ?_, ?_⟩ <;> refine congrArg (fun t => Host.Outcome.next (State.onward t)) ?_
    · exact (State.laneTested_rejoins hn hst hre).trans (if_neg hg)
    · exact (State.laneTested_rejoins hn hst hre).trans (if_pos hg)
    · exact State.laneTested_stays hn hst hre
  case reserved =>
    intro hh
    exact ⟨congrArg Host.Outcome.next (State.reservationDone_both hh), congrArg Host.Outcome.next (State.reservationDone_first hh),
      congrArg Host.Outcome.next (State.reservationDone_second hh), congrArg Host.Outcome.next (State.reservationDone_neither hh)⟩
  case rotation =>
    rintro ⟨hserves, hlive, hx, htenant, hdue, hnew, hdoomed⟩ hidle
    exact congrArg Host.Outcome.next ((if_pos hserves).trans (State.rotateSlot_due hx hlive htenant hdue hnew hdoomed hidle rfl))
  case entropy =>
    intro hdrbg hcid
    refine ⟨fun hp hs hske hdraws => ?_, fun hp hs hske hcounted hguard => ?_, fun hp hs hc hstage hneeds => ?_⟩ <;>
      refine congrArg (fun t => Host.Outcome.next (State.onward t)) ?_
    · exact State.entropyTimeout_pke hdrbg hcid hp hs hske hdraws
    · exact State.entropyTimeout_ske hdrbg hcid hp hs hske hcounted hguard
    · exact State.entropyTimeout_command hdrbg hp hs hc hstage hneeds

end Sys2Proof.Machine
end

section
/-! SUPPORT and SETTLED. KEY_GENERATE, KEY_IMPORT, KEY_EXPORT, KEY_DERIVE and KEY_PUBLIC_GET (R152, R185, R186, R233 to R235). -/

namespace Sys2Proof.Machine

/-! ### KEY_GENERATE (R185, R233) -/

/-- The key of KEY_GENERATE, its form checked and its placement found; `head` is the group of an FFDH key. -/
def State.generateKey (s : State) (m : Msg) (a : Attr) (head : Bytes) : State × Answer :=
  match symmetricLen a, keygenProgram a.typ, s.gotOf m.cid with
  | _, _, some y => s.keepKey m a y.secret y.out
  | some n, _, none =>
    if !s.canDraw then (s, .wait [needEntropy])
    else ((s.draw n).1.setGot m.cid (Yield.keep [] (s.draw n).2)).keepKey m a (s.draw n).2 []
  | none, some prog, none =>
    if !s.hasProgram prog then (s, .of St.programAbsent) else (s.submitPke (s.keygenJob m a prog head), .engine)
  | none, none, none => (s, .of St.keyAttributes)

section
variable {m : Msg} {s : State} {a : Attr} {head : Bytes}

/-- The key that was made, drawn or by a job, is kept. -/
theorem State.generateKey_keeps {y : Yield} (hgot : s.gotOf m.cid = some y) :
    s.generateKey m a head = s.keepKey m a y.secret y.out := by
  rw [State.generateKey, hgot]

/-- A symmetric key is drawn, and kept with its command. -/
theorem State.generateKey_draws {n : Nat} {w : State} {k : Bytes} (hgot : s.gotOf m.cid = none) (hlen : symmetricLen a = some n)
    (hcan : s.canDraw = true) (hdraw : s.draw n = (w, k)) :
    s.generateKey m a head = (w.setGot m.cid (Yield.keep [] k)).keepKey m a k [] := by
  simp only [State.generateKey, hgot, hlen, hcan, hdraw, Bool.not_true, Bool.false_eq_true, if_false]

/-- An asymmetric one is asked of its keygen program. -/
theorem State.generateKey_asks {prog : Nat} (hgot : s.gotOf m.cid = none) (hlen : symmetricLen a = none)
    (hprog : keygenProgram a.typ = some prog) (hthere : s.hasProgram prog = true) :
    s.generateKey m a head = (s.submitPke (s.keygenJob m a prog head), .engine) := by
  simp only [State.generateKey, hgot, hlen, hprog, hthere, Bool.not_true, Bool.false_eq_true, if_false]

end

/-- KEY_GENERATE in its form, with a place for its key, makes the key. -/
theorem keyGenerate_eq {m : Msg} {s v : State} {p : Parts} {a : Attr} {q : Bytes} (hp : partsOf m = .ok p) (halg : m.alg = 0)
    (hparam : m.param ||| 0xC = 0xC) (hset : setOf m.param ≤ 2) (hout : p.outLen = 0) (hinp : p.inp = []) (haux : p.aux.length ≤ 4)
    (hblock : s.attrItem (p.item 0) 1 = .ok a) (hcomposite : a.typ ≠ 0x42) (hrsa : a.typ = 0x40 → a.size % 1024 = 0)
    (hgroup : if a.typ = 0x41 then (ffdhHead a (p.item 1) (p.item 2) (p.item 3)).isSome = true
      else p.item 1 ++ p.item 2 ++ p.item 3 = [])
    (htenant : s.tenantRefusal m.tenant false = none) (hplace : s.placement m.hamper = (v, .page q))
    (hlarge : largeType a.typ = (refOf m.hamper).large) :
    keyGenerate m s = v.generateKey m a ((ffdhHead a (p.item 1) (p.item 2) (p.item 3)).getD []) := by
  have hhead : ¬ (m.alg ≠ 0 ∨ m.param ||| 0xC ≠ 0xC ∨ setOf m.param > 2 ∨ p.outLen ≠ 0) := by simp [halg, hparam, hset, hout]
  have hempty : ¬ (!p.inp.isEmpty) = true := by simp [hinp]
  have hplain : ¬ (a.typ ≠ 0x41 ∧ (!(p.item 1 ++ p.item 2 ++ p.item 3).isEmpty) = true) := fun h => by
    rw [if_neg h.1] at hgroup
    simp [hgroup] at h
  have hsize : ¬ (a.typ = 0x42 ∨ (a.typ = 0x40 ∧ a.size % 1024 ≠ 0)) := fun h => h.elim hcomposite fun h => h.2 (hrsa h.1)
  have hffdh : ¬ (a.typ = 0x41 ∧ (ffdhHead a (p.item 1) (p.item 2) (p.item 3)).isNone = true) := fun h => by
    rw [if_pos h.1, Option.isSome_iff_ne_none] at hgroup
    exact hgroup (Option.isNone_iff_eq_none.1 h.2)
  simp only [keyGenerate, hp, if_neg hhead, if_neg hempty, hblock, if_neg (Nat.not_lt.2 haux), if_neg hplain, if_neg hsize, if_neg hffdh,
    htenant, hplace, hlarge, ne_eq, not_true_eq_false, if_false]
  rfl

/-! ### Transports opened (R235, Table CM.5a) -/

section
variable {m : Msg} {s : State} {x y : Slot} {item attr : Bytes} {pos : Nat}

/-- An item under the key of a slot is opened by a lane. -/
theorem State.openTransport_kek (hlen : 8 ≤ item.length) (hzero : allZero (slice item 1 7) = true) (htype : le item 0 1 = 1)
    (hkek : s.kek m uUnwrap = .ok x) : s.openTransport m item attr pos = s.lanePart 3 (blobJob m 0 x.wg [] (item.drop 8)) := by
  have hitem : ¬ (item.length < 8 ∨ (!allZero (slice item 1 7)) = true) := by simp [hzero, hlen]
  simp only [State.openTransport, if_neg hitem, if_pos htype, hkek]

/-- A hybrid item whose secrets and blob are there is open. -/
theorem State.openHybrid_there {body kem ecdh blob : Bytes} (hkem : s.partOf m.cid 6 = some kem) (hecdh : s.partOf m.cid 7 = some ecdh)
    (hblob : s.partOf m.cid 3 = some blob) : s.openHybrid m x y body attr = (s, .ok blob) := by
  have hkemThere : s.pkePart 6 (slotJob s m 0x2A m.key x 4 (body.take 1088)) = (s, .ok kem) := State.pkePart_there hkem
  have hecdhThere : s.pkePart 7 (slotJob s m 0x04 m.key2 y 0 (slice body 1088 97)) = (s, .ok ecdh) := State.pkePart_there hecdh
  rw [State.openHybrid, hkemThere]
  simp only [hecdhThere]
  exact State.lanePart_there (k := 3) (j := blobJob m 0 x.wg (hybridKek kem ecdh attr) (body.drop 1185)) hblob

end

/-! ### KEY_IMPORT (R152, R235) -/

/-- No program validates a symmetric key. -/
theorem importProgram_symmetric {typ usage : Nat} (h : typ < 0x10) : importProgram typ usage = none := by
  rw [importProgram]
  iterate 10 rw [if_neg (by omega)]

section
variable {m : Msg} {s v : State} {a : Attr} {k : Bytes} (husage : compositeUsageOk a k = true) (hsize : keySizeOk a k = true)
  (hlarge : largeType a.typ = (refOf m.hamper).large)
include husage hsize hlarge

/-- A symmetric key that fits its block is kept at once. -/
theorem State.importKey_symmetric (htype : a.typ < 0x10) (hgate : s.storeGate true = none)
    (hlen : keyLenOk s a.typ a.curve k.length = true) : s.importKey m a k = s.keepKey m a k [] := by
  simp only [State.importKey, hlen, husage, hsize, hlarge, hgate, importProgram_symmetric htype]
  cases s.gotOf m.cid <;> simp

section
variable (htype : 0x10 ≤ a.typ)
include htype

/-- Any other is validated by a job that carries it (R152, log entry 107). -/
theorem State.importKey_validates {prog : Nat} (hgot : s.gotOf m.cid = none) (hgate : s.storeGate true = none)
    (hprog : importProgram a.typ a.usage = some prog) (hcurves : s.handleRefusal (handlesOf a.typ a.curve k) = none)
    (hthere : s.hasProgram prog = true) : s.importKey m a k = (s.submitPke (s.validation m a prog k), .engine) := by
  simp [State.importKey, Nat.not_lt.2 htype, husage, hsize, hlarge, hgot, hgate, hprog, hcurves, hthere]

/-- Once it is validated, it is kept. -/
theorem State.importKey_validated {y : Yield} (hgot : s.gotOf m.cid = some y) : s.importKey m a k = s.keepKey m a k [] := by
  simp [State.importKey, Nat.not_lt.2 htype, husage, hsize, hlarge, hgot]

end

end

section
variable {m : Msg} {s v : State} {p : Parts} {a : Attr} (hp : partsOf m = .ok p) (halg : m.alg = 0) (hparam : m.param = 0)
  (hout : p.outLen = 0) (hinp : p.inp = []) (haux : p.aux.length ≤ 2) (hblock : s.attrItem (p.item 0) 1 = .ok a)
include hp halg hparam hout hinp haux hblock

/-- KEY_IMPORT in its form whose transport is not open, or not yet, ends as the opening does. -/
theorem keyImport_unopened {e : Answer} (hopen : s.openTransport m (p.item 1) (p.item 0) 2 = (v, .error e)) :
    keyImport m s = (v, e) := by
  simp [keyImport, hp, halg, hparam, hout, hinp, Nat.not_lt.2 haux, hblock, hopen]

/-- With the transport open, its key is imported where it agrees with the block. -/
theorem keyImport_imports {blob k : Bytes} (hopen : s.openTransport m (p.item 1) (p.item 0) 2 = (v, .ok blob))
    (hkey : transported a blob = .ok k) : keyImport m s = v.importKey m a k := by
  simp [keyImport, hp, halg, hparam, hout, hinp, Nat.not_lt.2 haux, hblock, hopen, hkey]

end

/-! ### KEY_EXPORT (R235) -/

/-- What KEY_EXPORT answers with its blob made, or not yet. -/
def exported (m : Msg) : State × Except Answer Bytes → State × Answer
  | (s, .error e) => (s, e)
  | (s, .ok out) => (s, .resp ⟨St.ok, 0, 0, 0, m.hamper, 0, out⟩)

/-- KEY_EXPORT, its form checked, for the recipient that `item` names: from what the opening of its hamper came to. -/
def exportOpened (m : Msg) (item : Bytes) : State × Except Answer (HamperHead × Bytes) → State × Answer
  | (s, .error e) => (s, e)
  | (s, .ok (h, key)) =>
    let attr := (exportAttr h key).bytes
    if !bitOf h.usage uExport then (s, .of St.keyUsage)
    else if le item 0 1 = 1 then
      match s.kek m uWrap with
      | .error st => (s, .of st)
      | .ok x => exported m (s.lanePart 3 (blobJob m 1 x.wg [] (attr ++ key)))
    else exported m (s.hybridSeal m (slice item 8 1184) (slice item 1192 97) attr (attr ++ key))

section
variable {m : Msg} {s : State} {item : Bytes} {h : HamperHead} {key : Bytes} (husage : bitOf h.usage uExport = true)
include husage

/-- A recipient that holds KEY2 has the blob wrapped under it. -/
theorem exportOpened_kek {x : Slot} (htype : le item 0 1 = 1) (hkek : s.kek m uWrap = .ok x) :
    exportOpened m item (s, .ok (h, key))
      = exported m (s.lanePart 3 (blobJob m 1 x.wg [] ((exportAttr h key).bytes ++ key))) := by
  simp only [exportOpened, husage, Bool.not_true, Bool.false_eq_true, if_false, if_pos htype, hkek]

/-- Any other has it sealed to its two public keys. -/
theorem exportOpened_hybrid (htype : le item 0 1 = 2) :
    exportOpened m item (s, .ok (h, key)) = exported m (s.hybridSeal m (slice item 8 1184) (slice item 1192 97)
      (exportAttr h key).bytes ((exportAttr h key).bytes ++ key)) := by
  have hslot : ¬ le item 0 1 = 1 := by omega
  simp only [exportOpened, husage, Bool.not_true, Bool.false_eq_true, if_false, if_neg hslot]

end

/-- KEY_EXPORT in its form opens its hamper and goes on with what that came to. -/
theorem keyExport_eq {m : Msg} {s : State} {p : Parts} (hp : partsOf m = .ok p) (halg : m.alg = 0) (hparam : m.param = 0)
    (hout : p.outLen = 0) (hinp : p.inp = []) (haux : p.aux.length ≤ 1) (hzero : allZero (slice (p.item 0) 1 7) = true)
    (hitem : le (p.item 0) 0 1 = 1 ∧ (p.item 0).length = 8 ∨ le (p.item 0) 0 1 = 2 ∧ (p.item 0).length = 1289) :
    keyExport m s = exportOpened m (p.item 0) (s.openHamper m) := by
  have hhead : ¬ (m.alg ≠ 0 ∨ m.param ≠ 0 ∨ p.outLen ≠ 0) := by simp [halg, hparam, hout]
  have hempty : ¬ (!p.inp.isEmpty) = true := by simp [hinp]
  have hrecipient : ¬ ((p.item 0).length < 8 ∨ (!allZero (slice (p.item 0) 1 7)) = true
      ∨ (!decide (le (p.item 0) 0 1 = 1 ∧ (p.item 0).length = 8 ∨ le (p.item 0) 0 1 = 2 ∧ (p.item 0).length = 1289)) = true) := by
    rw [decide_eq_true hitem, hzero]
    simp only [Bool.not_true, Bool.false_eq_true, or_false]
    omega
  simp only [keyExport, hp, if_neg hhead, if_neg hempty, if_neg (Nat.not_lt.2 haux)]
  rw [if_neg hrecipient]
  rfl

/-! ### KEY_DERIVE (R186, R234) -/

/-- KEY_DERIVE in its form asks a lane under its slot, a device's own request where DEST is a new hamper. -/
theorem keyDerive_asks {m : Msg} {s v : State} {p : Parts} {a : Attr} {h : Nat} {x : Slot} (hp : partsOf m = .ok p)
    (hlens : deriveLengths m p = none) (hblock : s.attrItem (p.item 0) 1 = .ok a) (hsize : a.size = p.outLen)
    (hgot : s.gotOf m.cid = none) (hgate : s.destGate m = none) (hkey : s.keyFor m uDerive (algType 0x3C) = (v, .ok (h, x)))
    (hexport : exportBlocked m x.usage = false) (hroom : v.skeRoom (m.param % 4 = 1) = true) :
    keyDerive m s = (v.submitSke { Job.of m true 0x3C (skeCost 0x3C x.keyLen true p.outLen) with
      wg := x.wg, slots := [h], own := m.param % 4 = 1, aad := p.item 1, extra := p.item 2, iv := p.item 3
      outLen := p.outLen }, .engine) := by
  simp only [keyDerive, hp, hlens, hblock, hsize, ne_eq, not_true_eq_false, if_false, hgot, hgate, hkey, hexport, Bool.false_eq_true]
  exact State.askSke_room hroom

/-! ### KEY_PUBLIC_GET -/

section
variable {m : Msg} {s v : State} {typ curve : Nat} {k : Bytes} {slots : List Nat} (hbare : bareRefusal m = none)
  (hkey : s.namedKey m = (v, .ok (typ, curve, k, slots))) (htype : 0x10 ≤ typ)
include hbare hkey htype

/-- A key that holds its public key gives it at once. -/
theorem keyPublicGet_holds (hprog : publicProgram typ = none) :
    keyPublicGet m s = (v, .resp ⟨St.ok, 0, 0, 0, m.hamper, m.key, publicKey v typ curve m.param k⟩) := by
  simp only [keyPublicGet, hbare, hkey, if_neg (Nat.not_lt.2 htype), hprog]

section
variable {prog : Nat} (hprog : publicProgram typ = some prog) (hcurves : v.handleRefusal (handlesOf typ curve []) = none)
include hprog hcurves

/-- A small key has its public key made by a job, under its slot or with the key of its hamper (log entry 107). -/
theorem keyPublicGet_asks (hgot : v.gotOf m.cid = none) (hthere : v.hasProgram prog = true) :
    keyPublicGet m s = (v.submitPke (v.withCurves { Job.of m false prog (runTime v prog curve (setOf m.param) 0 0) with
      curve := curve, param := m.param, priv := true, slots := slots, key := if slots = [] then k else [] } [curve]), .engine) := by
  simp only [keyPublicGet, hbare, hkey, if_neg (Nat.not_lt.2 htype), hprog, hcurves, hgot, hthere, Bool.not_true, Bool.false_eq_true,
    if_false, List.isEmpty_iff]

/-- What the job yields is the answer. -/
theorem keyPublicGet_answers {y : Yield} (hgot : v.gotOf m.cid = some y) : keyPublicGet m s = (v, y.answer m.hamper) := by
  simp only [keyPublicGet, hbare, hkey, if_neg (Nat.not_lt.2 htype), hprog, hcurves, hgot]

end

end

/-- Settles O25, act by act: a key made or imported goes on to its hamper, and one that is exported to its recipient. -/
theorem keyCommands : Obligations.KeyCommands := by
  intro m s u c p hp
  refine ⟨?generates, ?imports, ?exports, ?derives, ?publishes⟩
  case generates =>
    intro a v q halg hparam hset hout hinp haux hblock hcomposite hrsa hgroup htenant hplace hlarge run
    have hform := keyGenerate_eq hp halg hparam hset hout hinp haux hblock hcomposite hrsa hgroup htenant hplace hlarge
    have hrun : ∀ {w : State} {e : Answer}, keyGenerate c u = (w, e) → run w e := fun h => runs_key rfl h fun _ => rfl
    refine ⟨fun n w k hgot hlen hcan hdraw => keepsKey fun w' e hkeep => ?_, fun prog hgot hlen hprog hthere => ?_,
      fun y hgot => keepsKey fun w e hkeep => ?_⟩
    · exact hrun (hform.trans ((State.generateKey_draws hgot hlen hcan hdraw).trans hkeep))
    · exact hrun (hform.trans (State.generateKey_asks hgot hlen hprog hthere))
    · exact hrun (hform.trans ((State.generateKey_keeps hgot).trans hkeep))
  case imports =>
    rintro a body halg hparam hout hinp haux hblock rfl hlen hzero run kept
    have hrun : ∀ {w : State} {e : Answer}, keyImport c u = (w, e) → run w e := fun h => runs_key rfl h fun _ => rfl
    have hwaits : ∀ {w : State} {e : Answer}, u.openTransport c (p.item 1) (p.item 0) 2 = (w, .error e) → run w e := fun h =>
      hrun (keyImport_unopened hp halg hparam hout hinp haux hblock h)
    have hkept : ∀ {w : State} {blob : Bytes}, u.openTransport c (p.item 1) (p.item 0) 2 = (w, .ok blob) → kept w blob := by
      intro w blob hopen k hkey husage hsize hlarge
      have himport := keyImport_imports hp halg hparam hout hinp haux hblock hopen hkey
      refine ⟨fun htype hgate hfits => keepsKey fun w' e hkeep => ?_, fun prog htype hgot hgate hprog hcurves hthere => ?_,
        fun y htype hgot => keepsKey fun w' e hkeep => ?_⟩
      · exact hrun (himport.trans ((State.importKey_symmetric husage hsize hlarge htype hgate hfits).trans hkeep))
      · exact hrun (himport.trans (State.importKey_validates husage hsize hlarge htype hgot hgate hprog hcurves hthere))
      · exact hrun (himport.trans ((State.importKey_validated husage hsize hlarge htype hgot).trans hkeep))
    refine ⟨fun x htype hkek => ?_, fun i j x y htype hbody hdecaps hagree hx hy hcurve => ?_⟩
    · have hopen := State.openTransport_kek (attr := p.item 0) (pos := 2) hlen hzero htype hkek
      exact ⟨fun hnone hroom => hwaits (hopen.trans (State.lanePart_asks (j := blobJob c 0 x.wg [] _) hnone hroom)),
        fun blob hblob => hkept (hopen.trans (State.lanePart_there (j := blobJob c 0 x.wg [] _) hblob))⟩
    · have hlong : 1193 < (p.item 1).length := by
        rw [List.length_drop] at hbody
        omega
      have hopen := State.openTransport_hybrid (attr := p.item 0) (pos := 2) hzero htype hlong hdecaps hagree hx hy hcurve
      exact ⟨fun hnone hprog => hwaits (hopen.trans (State.openHybrid_decaps hnone hprog)), fun kem hkem =>
        ⟨fun hnone hprog => hwaits (hopen.trans (State.openHybrid_agree hkem hnone hprog)), fun ecdh hecdh =>
          ⟨fun hnone hroom => hwaits (hopen.trans (State.openHybrid_opens hkem hecdh hnone hroom)),
            fun blob hblob => hkept (hopen.trans (State.openHybrid_there hkem hecdh hblob))⟩⟩⟩
  case exports =>
    intro halg hparam hout hinp haux hzero hitem run
    have hform := keyExport_eq (s := u) hp halg hparam hout hinp haux hzero hitem
    have hrun : ∀ {w : State} {e : Answer}, keyExport c u = (w, e) → run w e := fun h => runs_key rfl h fun _ => rfl
    refine opens (fun v e ho => hrun (by rw [hform, ho, exportOpened])) ?_
    intro v h k ho husage attr
    rw [ho] at hform
    refine ⟨fun x htype hkek => ?_, fun w x htype hstart hnone hmade hblob hroom => ?_, fun x out htype hstart hsome => ?_⟩
    · have hslot := hform.trans (exportOpened_kek husage htype hkek)
      exact ⟨fun hnone hroom => hrun (hslot.trans (congrArg (exported c)
          (State.lanePart_asks (j := blobJob c 1 x.wg [] (attr ++ k)) hnone hroom))),
        fun out hsome => hrun (hslot.trans (congrArg (exported c)
          (State.lanePart_there (j := blobJob c 1 x.wg [] (attr ++ k)) hsome)))⟩
    · exact hrun ((hform.trans (exportOpened_hybrid husage htype)).trans (congrArg (exported c)
        (State.hybridSeal_asks hstart hmade hroom hblob)))
    · exact hrun ((hform.trans (exportOpened_hybrid husage htype)).trans (congrArg (exported c)
        (State.hybridSeal_there hstart hsome)))
  case derives =>
    intro a v h x hlens hblock hsize hgot hgate hkey hexport hroom
    exact runs_key rfl (keyDerive_asks hp hlens hblock hsize hgot hgate hkey hexport hroom) fun _ => rfl
  case publishes =>
    intro v typ curve k slots hbare hkey htype run
    have hrun : ∀ {w : State} {e : Answer}, keyPublicGet c u = (w, e) → run w e := fun h => runs_key rfl h fun _ => rfl
    exact ⟨fun prog hprog hcurves => ⟨fun hgot hthere => hrun (keyPublicGet_asks hbare hkey htype hprog hcurves hgot hthere),
        fun y hgot => hrun (keyPublicGet_answers hbare hkey htype hprog hcurves hgot)⟩,
      fun hprog => hrun (keyPublicGet_holds hbare hkey htype hprog)⟩

end Sys2Proof.Machine
end

section
/-! SUPPORT and SETTLED. ENCRYPT and DECRYPT (R177 to R182). -/

namespace Sys2Proof.Machine

/-! ### The key of a cipher (R178) -/

section
variable {m : Msg} {s v : State} {p : Parts} {enc : Bool}

/-- A slot that does not serve ends a cipher, or has it wait, as its check says. -/
theorem cipherJob_refused {e : Answer}
    (hkey : s.keyFor m (if enc then uEncrypt else uDecrypt) (fun typ => m.alg == 0x06 || algType m.alg typ) = (v, .error e)) :
    cipherJob m s p enc = (v, e) := by
  simp only [cipherJob, hkey]

section
variable {h : Nat} {x : Slot}
  (hkey : s.keyFor m (if enc then uEncrypt else uDecrypt) (fun typ => m.alg == 0x06 || algType m.alg typ) = (v, .ok (h, x)))
  (hroom : v.skeRoom false = true)
include hkey hroom

/-- A cipher other than AES-XTS asks a lane under its one slot. -/
theorem cipherJob_asks (hxts : m.alg ≠ 0x06) :
    cipherJob m s p enc = (v.submitSke { Job.of m true m.alg (skeCost m.alg x.keyLen enc (p.inp.length + (p.item 0).length)) with
      wg := x.wg, slots := [h], aad := p.item 0, iv := p.item 1, tag := p.item 2, data := p.inp }, .engine) := by
  simp only [cipherJob, hkey, if_neg hxts]
  exact State.askSke_room hroom

/-- AES-XTS asks one under two slots of one TYPE. -/
theorem cipherJob_xts {j : Nat} {y : Slot} (hxts : m.alg = 0x06)
    (hkey2 : v.handleCheck m.inst m.key2 (if enc then uEncrypt else uDecrypt) = .ok (j, y)) (htype : algType 0x06 x.typ = true)
    (hsame : y.typ = x.typ) :
    cipherJob m s p enc = (v.submitSke { Job.of m true m.alg (skeCost m.alg x.keyLen enc (p.inp.length + (p.item 0).length)) with
      wg := x.wg, slots := [h, m.key2], aad := p.item 0, iv := p.item 1, tag := p.item 2, data := p.inp }, .engine) := by
  have hserves : ¬ ((!algType 0x06 x.typ) = true ∨ y.typ ≠ x.typ) := by simp [htype, hsame]
  simp only [cipherJob, hkey, if_pos hxts, hkey2, if_neg hserves]
  exact State.askSke_room hroom

end

end

/-! ### The forms of the two commands -/

/-- A PARAM below 3 names a hash of OAEP (log entry 40). -/
theorem hashParam_ok {param : Nat} (h : param < 3) : (decide (param ≥ 4) || rsaHash param == 0) = false := by
  have hcases : param = 0 ∨ param = 1 ∨ param = 2 := by omega
  rcases hcases with rfl | rfl | rfl <;> rfl

/-- ENCRYPT, or DECRYPT. -/
def cipher (enc : Bool) (m : Msg) (s : State) : State × Answer := if enc then encrypt m s else decrypt m s

/-- Either answers what its job yields. -/
theorem cipher_answers {enc : Bool} {m : Msg} {s : State} {y : Yield} (hgot : s.gotOf m.cid = some y) :
    cipher enc m s = (s, y.answer m.usedHamper) := by
  cases enc
  · simp only [cipher, decrypt, hgot, Bool.false_eq_true, if_false]
  · simp only [cipher, encrypt, hgot, if_true]

section
variable {m : Msg} {s : State} {p : Parts} (hgot : s.gotOf m.cid = none) (hp : partsOf m = .ok p)
include hgot hp

/-- DECRYPT of an RSA ciphertext is RSA_DECRYPT. -/
theorem decrypt_rsa (halg : m.alg = 0x1A) (hprog : s.hasProgram 0x1A = true) : decrypt m s = rsaDecrypt m s p := by
  simp only [decrypt, hgot, hp, if_pos halg, State.algRefusal_none (progs := [0x1A]) hprog (by simp)]

variable (hout : p.outLen = 0)
include hout

/-- ENCRYPT of a cipher in its form, with no IV where the device makes it (R179), looks for the key. -/
theorem encrypt_eq (hprog : m.alg ≠ 0x1B)
    (hlens : cipherReason m.alg true ⟨p.inp.length, (p.item 0).length, (p.item 1).length, m.param % 32, 0, 0⟩ = none)
    (hparam : m.param < 32) (htag : p.item 2 = []) (haux : p.aux.length ≤ 3) (hiv : deviceIv m.alg = true → p.item 1 = []) :
    encrypt m s = cipherJob m s p true := by
  have hhead : firstBad [(decide (m.param ≥ 32) || p.outLen != 0, 0)] = none := firstBad_none (by simp [hparam, hout])
  have htail : firstBad [(!(p.item 2).isEmpty, 3), (decide (p.aux.length > 3), 4)] = none := firstBad_none (by simp [htag, haux])
  have hnonce : ¬ (deviceIv m.alg = true ∧ (!(p.item 1).isEmpty) = true) := fun h => by simp [hiv h.1] at h
  simp only [encrypt, hgot, hp, if_neg hprog, hhead, hlens, htail, if_neg hnonce]

/-- DECRYPT of a cipher in its form looks for the key. -/
theorem decrypt_eq (hprog : m.alg ≠ 0x1A)
    (hlens : cipherReason m.alg false ⟨p.inp.length, (p.item 0).length, (p.item 1).length, (p.item 2).length, 0, 0⟩ = none)
    (hparam : m.param = 0 ∨ m.param = (p.item 2).length) (hempty : p.item 3 = []) (haux : p.aux.length ≤ 4) :
    decrypt m s = cipherJob m s p false := by
  have hhead : firstBad [((m.param != 0 && m.param != (p.item 2).length) || p.outLen != 0, 0)] = none :=
    firstBad_none (by rcases hparam with h | h <;> simp [h, hout])
  have htail : firstBad [(!(p.item 3).isEmpty, 4), (decide (p.aux.length > 4), 5)] = none := firstBad_none (by simp [hempty, haux])
  simp only [decrypt, hgot, hp, if_neg hprog, hhead, hlens, htail]

/-- Either, of a cipher in its form, looks for the key. -/
theorem cipher_eq {enc : Bool} (hdec : m.alg ≠ 0x1A) (henc : m.alg ≠ 0x1B)
    (hlens : cipherReason m.alg enc ⟨p.inp.length, (p.item 0).length, (p.item 1).length,
      if enc then m.param % 32 else (p.item 2).length, 0, 0⟩ = none)
    (hparam : if enc then m.param < 32 else m.param = 0 ∨ m.param = (p.item 2).length)
    (hitems : if enc then p.item 2 = [] ∧ p.aux.length ≤ 3 else p.item 3 = [] ∧ p.aux.length ≤ 4)
    (hiv : enc = true → deviceIv m.alg = true → p.item 1 = []) : cipher enc m s = cipherJob m s p enc := by
  cases enc with
  | false => exact decrypt_eq hgot hp hout hdec hlens hparam hitems.1 hitems.2
  | true => exact encrypt_eq hgot hp hout henc hlens hparam hitems.1 hitems.2 (hiv rfl)

/-- RSA_ENCRYPT in its form hands its job to the engine with the public key. -/
theorem encrypt_rsa {n : Nat} (halg : m.alg = 0x1B) (hprog : s.hasProgram 0x1B = true) (hn : n = rsaModBytes (p.item 1).length)
    (hparam : m.param < 3) (hempty : p.item 0 = []) (hlow : 256 ≤ n) (hhigh : n ≤ 1024) (hlabel : (p.item 2).length ≤ 256)
    (haux : p.aux.length ≤ 3) (hinp : p.inp.length ≤ oaepMax n m.param) :
    encrypt m s = (s.submitPke { Job.of m false 0x1B (runTime s 0x1B 0 (8 * n) 0 (bitLen (ofBe ((p.item 1).drop n)))) with
      param := m.param, draws := true, aad := p.item 1, extra := p.item 2, data := p.inp, outLen := n }, .engine) := by
  subst hn
  have hform : firstBad [(decide (m.param ≥ 4) || rsaHash m.param == 0 || p.outLen != 0, 0), (!(p.item 0).isEmpty, 1),
      (decide (rsaModBytes (p.item 1).length < 256 ∨ rsaModBytes (p.item 1).length > 1024), 2), (decide ((p.item 2).length > 256), 3),
      (decide (p.aux.length > 3), 4), (decide (p.inp.length > oaepMax (rsaModBytes (p.item 1).length) m.param), 0xFF)] = none :=
    firstBad_none (by simp [hashParam_ok hparam, hout, hempty, hlow, hhigh, hlabel, haux, hinp])
  simp only [encrypt, hgot, hp, if_pos halg, State.algRefusal_none (progs := [0x1B]) hprog (by simp), rsaEncrypt, hform]

end

section
variable {m : Msg} {s v : State} {p : Parts} (hout : p.outLen = 0) (hparam : m.param < 3) (hitem0 : p.item 0 = [])
  (hitem1 : p.item 1 = []) (hitem2 : p.item 2 = []) (hlabel : (p.item 3).length ≤ 256) (haux : p.aux.length ≤ 4)
include hout hparam hitem0 hitem1 hitem2 hlabel haux

/-- The form of RSA_DECRYPT. -/
theorem rsaDecrypt_form : firstBad [(decide (m.param ≥ 4) || rsaHash m.param == 0 || p.outLen != 0, 0), (!(p.item 0).isEmpty, 1),
    (!(p.item 1).isEmpty, 2), (!(p.item 2).isEmpty, 3), (decide ((p.item 3).length > 256), 4), (decide (p.aux.length > 4), 5)] = none :=
  firstBad_none (by simp [hashParam_ok hparam, hout, hitem0, hitem1, hitem2, hlabel, haux])

/-- A large hamper that does not serve ends RSA_DECRYPT, or has it wait, as its check says. -/
theorem rsaDecrypt_refused {e : Answer} (hkey : s.largeKey m uDecrypt 0x40 = (v, .error e)) : rsaDecrypt m s p = (v, e) := by
  simp only [rsaDecrypt, rsaDecrypt_form hout hparam hitem0 hitem1 hitem2 hlabel haux, hkey]

/-- RSA_DECRYPT of a ciphertext of the modulus' length carries the key of its large hamper. -/
theorem rsaDecrypt_asks {h : HamperHead} {k : Bytes} (hkey : s.largeKey m uDecrypt 0x40 = (v, .ok (h, k)))
    (hlen : p.inp.length = le k 0 2 / 8) :
    rsaDecrypt m s p = (v.submitPke { Job.ofLarge m 0x1A (runTime v 0x1A 0 (le k 0 2) 0 0) h k with
      extra := p.item 3, data := p.inp }, .engine) := by
  simp only [rsaDecrypt, rsaDecrypt_form hout hparam hitem0 hitem1 hitem2 hlabel haux, hkey, hlen, ne_eq, not_true_eq_false, if_false]

end

/-- Settles O27: a cipher by its key, RSA by its direction, and what the engine yields. -/
theorem cipherCommands : Obligations.CipherCommands := by
  intro m s u c ends
  have hends : ∀ enc {v : State} {a : Answer}, cipher enc c u = (v, a) → ends enc v a := by
    rintro (_ | _) v a h
    · exact runs_crypto (f := decrypt) rfl h fun _ => rfl
    · exact runs_crypto (f := encrypt) rfl h fun _ => rfl
  refine ⟨fun enc y hgot => hends enc (cipher_answers hgot), fun p hgot hp hout => ⟨?_, ?_, ?_⟩⟩
  · rintro enc l use hdec henc rfl rfl hlens hparam hitems hiv
    have hform : cipher enc c u = cipherJob c u p enc := cipher_eq hgot hp hout hdec henc hlens hparam hitems hiv
    refine ⟨?_, fun v e hkey => hends enc (hform.trans (cipherJob_refused hkey))⟩
    rintro v h x cost hkey hroom rfl
    exact ⟨fun hxts => hends enc (hform.trans (cipherJob_asks hkey hroom hxts)),
      fun j y hxts hkey2 htype hsame => hends enc (hform.trans (cipherJob_xts hkey hroom hxts hkey2 htype hsame))⟩
  · intro n halg hprog hn hparam hempty hlow hhigh hlabel haux hinp
    exact hends true (encrypt_rsa hgot hp hout halg hprog hn hparam hempty hlow hhigh hlabel haux hinp)
  · intro halg hprog hparam hitem0 hitem1 hitem2 hlabel haux
    have hform : cipher false c u = rsaDecrypt c u p := decrypt_rsa hgot hp halg hprog
    exact ⟨fun v h k hkey hlen =>
        hends false (hform.trans (rsaDecrypt_asks hout hparam hitem0 hitem1 hitem2 hlabel haux hkey hlen)),
      fun v e hkey => hends false (hform.trans (rsaDecrypt_refused hout hparam hitem0 hitem1 hitem2 hlabel haux hkey))⟩

end Sys2Proof.Machine
end

section
/-! SUPPORT and SETTLED. MAC_GENERATE, MAC_VERIFY, HASH, WRAP and UNWRAP (Table SY.1, R178, R182). -/

namespace Sys2Proof.Machine

/-! ### MACs -/

section
variable {m : Msg} {s v : State} {p : Parts} {usage : Nat} {tag custom : Bytes}

/-- A slot that does not serve ends a MAC, or has it wait, as its check says. -/
theorem macJob_refused {e : Answer} (hkey : s.keyFor m usage (algType m.alg) = (v, .error e)) :
    macJob m s p usage tag custom = (v, e) := by
  simp only [macJob, hkey]

/-- A MAC asks a lane under its slot, whose key a KMAC takes from 16 bytes up (log entry 112). -/
theorem macJob_asks {h : Nat} {x : Slot} (hkey : s.keyFor m usage (algType m.alg) = (v, .ok (h, x)))
    (hlong : m.alg = 0x38 ∨ m.alg = 0x39 → 16 ≤ x.keyLen) (hroom : v.skeRoom false = true) :
    macJob m s p usage tag custom = (v.submitSke { Job.of m true m.alg (skeCost m.alg x.keyLen true p.inp.length) with
      wg := x.wg, slots := [h], tag := tag, extra := custom, data := p.inp, outLen := p.outLen }, .engine) := by
  have hserves : ¬ ((m.alg = 0x38 ∨ m.alg = 0x39) ∧ x.keyLen < 16) := fun hshort => Nat.not_lt.2 (hlong hshort.1) hshort.2
  simp only [macJob, hkey, if_neg hserves]
  exact State.askSke_room hroom

end

section
variable {m : Msg} {s : State} {y : Yield} (hgot : s.gotOf m.cid = some y)
include hgot

/-- MAC_GENERATE answers what its job yields. -/
theorem macGenerate_answers : macGenerate m s = (s, y.answer m.usedHamper) := by
  simp only [macGenerate, hgot]

/-- MAC_VERIFY answers what its job yields. -/
theorem macVerify_answers : macVerify m s = (s, y.answer m.usedHamper) := by
  simp only [macVerify, hgot]

/-- HASH answers what its job yields. -/
theorem hash_answers : hash m s = (s, y.answer 0) := by
  simp only [hash, hgot]

/-- WRAP and UNWRAP answer what their job yields. -/
theorem wrapData_answers {w : Bool} : wrapData m s w = (s, y.answer m.usedHamper) := by
  simp only [wrapData, hgot]

end

section
variable {m : Msg} {s v : State} {p : Parts} (hgot : s.gotOf m.cid = none) (hp : partsOf m = .ok p)
include hgot hp

/-- MAC_GENERATE in its form looks for the key: PARAM is the tag's length, 0 the full length of an HMAC (log entry 112); of a KMAC,
OUT_LEN is. -/
theorem macGenerate_eq {kmac : Bool} (hkmac : kmac = (m.alg == 0x38 || m.alg == 0x39))
    (hparam : if kmac then m.param = 0 else p.outLen = 0 ∧ m.param < 32)
    (htag : macOk m.alg ⟨0, 0, 0, if kmac then p.outLen else if m.param = 0 then digestLen m.alg else m.param, 0, 0⟩ = true)
    (hcustom : macOk m.alg ⟨0, 0, 0, 16, 0, (p.item 0).length⟩ = true) (hinp : macOk m.alg ⟨p.inp.length, 0, 0, 16, 0, 0⟩ = true)
    (haux : p.aux.length ≤ 1) : macGenerate m s = macJob m s p uMacGen [] (p.item 0) := by
  have hbits : m.param % 32 = m.param := Nat.mod_eq_of_lt (by split at hparam <;> omega)
  have hhead : (decide (m.param ≥ 32) || (if kmac then m.param != 0 else p.outLen != 0)) = false := by
    cases kmac with
    | false => simpa [and_comm] using hparam
    | true => simp [show m.param = 0 from hparam]
  have hform : firstBad [(!macOk m.alg ⟨0, 0, 0, if kmac then p.outLen else if m.param = 0 then digestLen m.alg
        else m.param % 32, 0, 0⟩ || decide (m.param ≥ 32) || (if kmac then m.param != 0 else p.outLen != 0), 0),
      (!macOk m.alg ⟨0, 0, 0, 16, 0, (p.item 0).length⟩, 1), (decide (p.aux.length > 1), 2),
      (!macOk m.alg ⟨p.inp.length, 0, 0, 16, 0, 0⟩, 0xFF)] = none :=
    firstBad_none (by rw [hbits, Bool.or_assoc, hhead]; simp [htag, hcustom, hinp, haux])
  subst hkmac
  simp only [macGenerate, hgot, hp, hform]

/-- MAC_VERIFY in its form looks for the key; the tag's own length is judged (R182). -/
theorem macVerify_eq (hparam : m.param = 0) (hout : p.outLen = 0) (halg : macOk m.alg ⟨0, 0, 0, 16, 0, 0⟩ = true)
    (htag : macOk m.alg ⟨0, 0, 0, (p.item 0).length, 0, 0⟩ = true) (hcustom : macOk m.alg ⟨0, 0, 0, 16, 0, (p.item 1).length⟩ = true)
    (hinp : macOk m.alg ⟨p.inp.length, 0, 0, 16, 0, 0⟩ = true) (haux : p.aux.length ≤ 2) :
    macVerify m s = macJob m s p uMacVer (p.item 0) (p.item 1) := by
  have hform : firstBad [(!macOk m.alg ⟨0, 0, 0, 16, 0, 0⟩ || m.param != 0 || p.outLen != 0, 0),
      (!macOk m.alg ⟨0, 0, 0, (p.item 0).length, 0, 0⟩, 1), (!macOk m.alg ⟨0, 0, 0, 16, 0, (p.item 1).length⟩, 2),
      (decide (p.aux.length > 2), 3), (!macOk m.alg ⟨p.inp.length, 0, 0, 16, 0, 0⟩, 0xFF)] = none :=
    firstBad_none (by simp [halg, hparam, hout, htag, hcustom, hinp, haux])
  simp only [macVerify, hgot, hp, hform]

/-! ### HASH -/

/-- HASH in its form asks a lane, under no slot. -/
theorem hash_asks (hparam : m.param = 0) (haux : p.aux = []) (halg : hashOk m.alg ⟨0, 0, 0, 0, p.outLen, 0⟩ = true)
    (hinp : hashOk m.alg ⟨p.inp.length, 0, 0, 0, p.outLen, 0⟩ = true) (hroom : s.skeRoom false = true) :
    hash m s = (s.submitSke { Job.of m true m.alg (skeCost m.alg 0 true p.inp.length) with data := p.inp, outLen := p.outLen },
      .engine) := by
  have hform : firstBad [(!hashOk m.alg ⟨0, 0, 0, 0, p.outLen, 0⟩ || m.param != 0, 0), (!p.aux.isEmpty, 1),
      (!hashOk m.alg ⟨p.inp.length, 0, 0, 0, p.outLen, 0⟩, 0xFF)] = none :=
    firstBad_none (by simp [halg, hparam, haux, hinp])
  simp only [hash, hgot, hp, hform]
  exact State.askSke_room hroom

end

/-! ### WRAP and UNWRAP -/

/-- WRAP, or UNWRAP, under a slot, its form checked. -/
def wrapJob (m : Msg) (s : State) (p : Parts) (w : Bool) : State × Answer :=
  match s.keyFor m (if w then uWrap else uUnwrap) (algType m.alg) with
  | (v, .error e) => (v, e)
  | (v, .ok (h, x)) =>
    v.askSke { Job.of m true m.alg (skeCost m.alg x.keyLen w p.inp.length) with wg := x.wg, slots := [h], data := p.inp }

section
variable {m : Msg} {s v : State} {p : Parts} {w : Bool}

/-- A slot that does not serve ends the command, or has it wait, as its check says. -/
theorem wrapJob_refused {e : Answer} (hkey : s.keyFor m (if w then uWrap else uUnwrap) (algType m.alg) = (v, .error e)) :
    wrapJob m s p w = (v, e) := by
  simp only [wrapJob, hkey]

/-- One that serves has a lane asked. -/
theorem wrapJob_asks {h : Nat} {x : Slot} (hkey : s.keyFor m (if w then uWrap else uUnwrap) (algType m.alg) = (v, .ok (h, x)))
    (hroom : v.skeRoom false = true) :
    wrapJob m s p w = (v.submitSke { Job.of m true m.alg (skeCost m.alg x.keyLen w p.inp.length) with
      wg := x.wg, slots := [h], data := p.inp }, .engine) := by
  simp only [wrapJob, hkey]
  exact State.askSke_room hroom

/-- WRAP and UNWRAP in their form look for the key. -/
theorem wrapData_eq (hgot : s.gotOf m.cid = none) (hp : partsOf m = .ok p) (halg : m.alg = 0x07 ∨ m.alg = 0x08) (hparam : m.param = 0)
    (hout : p.outLen = 0) (haux : p.aux = []) (hinp : wrapOk m.alg w p.inp.length = true) : wrapData m s w = wrapJob m s p w := by
  have hprog : (m.alg != 0x07 && m.alg != 0x08) = false := by
    rcases halg with h | h <;> rw [h] <;> rfl
  have hform : firstBad [((m.alg != 0x07 && m.alg != 0x08) || m.param != 0 || p.outLen != 0, 0), (!p.aux.isEmpty, 1),
      (!wrapOk m.alg w p.inp.length, 0xFF)] = none :=
    firstBad_none (by simp [hprog, hparam, hout, haux, hinp])
  simp only [wrapData, hgot, hp, hform]
  rfl

end

/-- Settles O28, act by act: each form, then its key, and what the engine yields. -/
theorem macHashWrapCommands : Obligations.MacHashWrapCommands := by
  intro m s u c generates verifies wraps
  have hgenerate : ∀ {v : State} {a : Answer}, macGenerate c u = (v, a) → generates v a := fun h => runs_crypto rfl h fun _ => rfl
  have hverify : ∀ {v : State} {a : Answer}, macVerify c u = (v, a) → verifies v a := fun h => runs_crypto rfl h fun _ => rfl
  have hhash : ∀ {v : State} {a : Answer}, hash c u = (v, a) → Runs (.hash m) 0x0307 m s u c v a :=
    fun h => runs_crypto rfl h fun _ => rfl
  have hwrap : ∀ w {v : State} {a : Answer}, wrapData c u w = (v, a) → wraps w v a := by
    rintro (_ | _) v a h
    · exact runs_crypto (f := unwrap) rfl h fun _ => rfl
    · exact runs_crypto (f := wrap) rfl h fun _ => rfl
  refine ⟨fun y hgot => ⟨hgenerate (macGenerate_answers hgot), hverify (macVerify_answers hgot), hhash (hash_answers hgot),
      fun w => hwrap w (wrapData_answers hgot)⟩, fun p hgot hp => ⟨?generate, ?verify, ?hash, ?wrap⟩⟩
  case generate =>
    intro kmac hkmac hparam htag hcustom hinp haux
    have hform := macGenerate_eq hgot hp hkmac hparam htag hcustom hinp haux
    exact ⟨fun v h x hkey hlong hroom => hgenerate (hform.trans (macJob_asks hkey (fun hk => hlong (by simpa [hkmac] using hk)) hroom)),
      fun v e hkey => hgenerate (hform.trans (macJob_refused hkey))⟩
  case verify =>
    intro hparam hout halg htag hcustom hinp haux
    have hform := macVerify_eq hgot hp hparam hout halg htag hcustom hinp haux
    exact ⟨fun v h x hkey hlong hroom => hverify (hform.trans (macJob_asks hkey hlong hroom)),
      fun v e hkey => hverify (hform.trans (macJob_refused hkey))⟩
  case hash =>
    intro hparam haux halg hinp hroom
    exact hhash (hash_asks hgot hp hparam haux halg hinp hroom)
  case wrap =>
    intro w halg hparam hout haux hinp
    have hform := wrapData_eq hgot hp halg hparam hout haux hinp
    exact ⟨fun v h x hkey hroom => hwrap w (hform.trans (wrapJob_asks hkey hroom)),
      fun v e hkey => hwrap w (hform.trans (wrapJob_refused hkey))⟩

end Sys2Proof.Machine
end

section
/-! SUPPORT and SETTLED. The device's random words (R214, R217), the controls of a noise source (R220 to R223), and what a window, the
DRBG and a recalibration do (R201, R205 to R207, R209 to R216, R220 to R222). -/

namespace Sys2Proof.Machine

/-! ### TRNG_DATA (R217) -/

/-- The words of TRNG_DATA and TRNG_DATA_VALID are assigned (R41). -/
theorem assigned_trngData : assigned 0x90060 = true := by decide
theorem assigned_trngDataHigh : assigned 0x90064 = true := by decide +kernel
theorem assigned_trngDataValid : assigned 0x90068 = true := by decide

/-- Of the three, a 64-bit register begins at the low half alone (R40). -/
theorem isWide_trngData : isWide 0x90060 = true := by decide
theorem isWide_trngDataHigh : isWide 0x90064 = false := by decide
theorem isWide_trngDataValid : isWide 0x90068 = false := by decide

/-- TRNG_DATA_READ is a read of its requester, and the core's check of what it drew. -/
theorem exec_trngDataRead (r : Requester) (part : Nat) (agree : Bool) (s : State) :
    exec (.trngDataRead r part agree) s = .next ((match part with
      | 0 => s.read r 0x90060 8
      | 1 => s.read r 0x90060 4
      | 2 => s.read r 0x90064 4
      | _ => s.read r 0x90068 4).core agree) := rfl

/-- A core whose paths disagreed has the state that the read leaves meet the mismatch (R214). -/
theorem exec_trngDataRead_mismatch {r : Requester} {part : Nat} {s w : State} (h : exec (.trngDataRead r part true) s = .next w) :
    exec (.trngDataRead r part false) s = .next (w.core false) := by
  rw [exec_trngDataRead] at h ⊢
  exact congrArg (fun t => Host.Outcome.next (State.core t false)) (Host.Outcome.next.inj h)

section
variable {s : State} {r : Requester}

/-- While the DRBG serves, a read takes the oldest word of the FIFO. -/
theorem State.readWide_takes {w : Bytes} {rest : List Bytes} (hup : s.drbgUp = true) (hfifo : s.trng.fifo = w :: rest) :
    s.readWide r 0x90060
      = ({ s with trng.fifo := rest, trng.valid := store s.trng.valid (halfKey r) 1 }.fillFifo, ofLe w) := by
  rw [State.readWide, if_pos rfl, State.popRandom, hup, hfifo]

/-- With no word ready, a read is an empty one. -/
theorem State.readWide_empty (hup : s.drbgUp = true) (hfifo : s.trng.fifo = []) :
    s.readWide r 0x90060 = (s.emptyRead r, 0) := by
  rw [State.readWide, if_pos rfl, State.popRandom, hup, hfifo]

/-- The low half of TRNG_DATA takes a word as the whole register does, and its high half is kept (R43). -/
theorem State.readWord_random {half : Option Half} {t : State} {v : Nat} (h : s.readWide r 0x90060 = (t, v)) :
    s.readWord r half 0x90060
      = ({ t with iface.halves := store t.iface.halves (halfKey r) (.readLatch 0x90060 (v / 2 ^ 32)) }, v % 2 ^ 32) := by
  unfold State.readWord
  rw [isWide_trngData, if_pos rfl, h]

/-- TRNG_DATA_VALID reads what the requester's last read of TRNG_DATA left. -/
theorem State.word_trngDataValid : s.word r 0x90068 = lookD s.trng.valid (halfKey r) 0 := by
  have hself : s.blankWord 0x90068 = false := by simp [State.blankWord]
  have hpf : s.word r 0x90068 = s.pfWord r 0x90068 := rfl
  rw [hpf, State.pfWord, hself]
  rfl

end

/-- Settles O32: each part is one shape of a read that gets through, and a mismatch of the core follows the read. -/
theorem randomWords : Obligations.RandomWords := by
  unfold Obligations.RandomWords
  intro s r t taken
  refine ⟨fun w rest h hup hfifo => ?whole, fun w rest h hup hfifo => ?low, fun v h hlatch => ?high, fun h _ => ?valid,
    fun h hup hfifo => ?empty, fun part w hread hruns => ?mismatch⟩
  case whole =>
    exact congrArg Host.Outcome.next (h.read_wide assigned_trngData assigned_trngDataHigh isWide_trngData
      (State.readWide_takes (s := t) hup hfifo))
  case low =>
    exact congrArg Host.Outcome.next (h.read_word assigned_trngData (State.readWord_random (State.readWide_takes (s := t) hup hfifo)))
  case high =>
    exact congrArg Host.Outcome.next (h.read_word assigned_trngDataHigh
      (hlatch ▸ State.readWord_latched isWide_trngDataHigh rfl isWide_trngData))
  case valid =>
    refine congrArg Host.Outcome.next (h.read_word assigned_trngDataValid ?_)
    rw [State.readWord_narrow isWide_trngDataValid (by decide), State.word_trngDataValid]
    rfl
  case empty =>
    exact congrArg Host.Outcome.next (h.read_wide assigned_trngData assigned_trngDataHigh isWide_trngData
      (State.readWide_empty (s := t) hup hfifo))
  case mismatch => rw [exec_trngDataRead_mismatch hread, State.core_mismatch hruns]

/-! ### TRNG_SRC_CTRL (R223) -/

/-- The control registers of the sources stand in the TRNG set, past the header. -/
theorem blockOf_srcCtrl {n : Nat} (hn : n ≤ 4) : blockOf (srcCtrlOff n) = 0x90000 := by
  rw [blockOf, srcCtrlOff]
  rw [if_neg (by omega)]
  omega

/-- Who writes the TRNG's fields as the custody pairs do has the gate of TRNG_SRC_CTRL pass. -/
theorem writeGate_srcCtrl {r : Requester} {n : Nat} (hn : n ≤ 4) (hr : custodyWriter r = true) :
    writeGate r (fieldsOf (srcCtrlOff n)) = .pass := by
  have hrow : (⟨R.trngSrcCtrlRecal 0, .rwm, .live, .value, 5, 16, .pairs⟩ : Row) ∈ layout := by decide
  have hat : Row.at ⟨R.trngSrcCtrlRecal 0, .rwm, .live, .value, 5, 16, .pairs⟩ (srcCtrlOff n) = some ⟨srcCtrlOff n, 0, 1, 0⟩ := by
    rw [Row.at, if_neg (by decide), if_pos (by simp only [R.trngSrcCtrlRecal, srcCtrlOff]; omega)]
    rfl
  have hmem := layout_mem_fieldsOf hrow hat (by rw [blockOf_srcCtrl hn, srcCtrlOff]; omega) (by rw [srcCtrlOff]; omega)
    (by simp [inWord])
  have hpast : ¬ srcCtrlOff n < 0x90000 := by rw [srcCtrlOff]; omega
  have hcommit : srcCtrlOff n ≠ 0x5000C := by omega
  have hack : srcCtrlOff n ≠ 0x50140 := by omega
  exact writeGate_pass hmem (by simp [fieldOpen, hcommit, hack, mayWrite, writesAt, hpast, hr])

section
variable {s : State} {r : Requester} {n : Nat}

/-- A write to TRNG_SRC_CTRL is one of its masked bits. -/
theorem State.writeSlow_srcCtrl {v : Nat} (hn : n ≤ 4) :
    s.writeSlow r (srcCtrlOff n) v = s.writeSrcCtrl r (srcCtrlOff n) n v := by
  have hcluster : nthReg (srcCtrlOff n) 0x7010C 0x10 16 = none := if_neg (by rw [srcCtrlOff]; omega)
  have hlane : nthReg (srcCtrlOff n) 0x8010C 0x10 8 = none := if_neg (by rw [srcCtrlOff]; omega)
  have hnth : nthReg (srcCtrlOff n) 0x90108 0x10 5 = some n := by
    have hindex : (srcCtrlOff n - 0x90108) / 0x10 = n := by rw [srcCtrlOff]; omega
    rw [nthReg, if_pos (by rw [hindex, srcCtrlOff]; omega), hindex]
  rw [State.writeSlow, blockOf_srcCtrl hn]
  rw [if_neg (by rw [srcCtrlOff]; omega), if_neg (by rw [srcCtrlOff]; omega), hcluster, hlane, hnth]

/-- The masked bit 0 of TRNG_SRC_CTRL is RECAL. -/
theorem State.writeSrcCtrl_recal {w : Nat} : s.writeSrcCtrl r w n (maskedValue 0 true % 2 ^ 32) = s.recalSource n := by
  simp [State.writeSrcCtrl, State.maskedBit, masked_maskedValue_bit, -Nat.reducePow]

/-- The masked bit 1 of TRNG_SRC_CTRL is ISOLATE. -/
theorem State.writeSrcCtrl_isolate {w : Nat} : s.writeSrcCtrl r w n (maskedValue 1 true % 2 ^ 32) = s.isolateSource n := by
  simp [State.writeSrcCtrl, State.maskedBit, masked_maskedValue_bit, -Nat.reducePow]

/-- RECAL, where its write gets through. -/
theorem exec_trngSrcCtrlRecal (hn : n ≤ 4) (hr : custodyWriter r = true) (h : s.writes32 r (srcCtrlOff n)) :
    exec (.trngSrcCtrlRecal r n) s = .next ((s.noHalf r).recalSource n) := by
  have hwrite : exec (.trngSrcCtrlRecal r n) s = .next (s.write r (srcCtrlOff n) 4 (maskedValue 0 true) true) :=
    congrArg Host.Outcome.next (if_pos hn)
  rw [hwrite, h.slow (writeGate_srcCtrl hn hr), State.writeSlow_srcCtrl hn, State.writeSrcCtrl_recal]

/-- ISOLATE, where its write gets through. -/
theorem exec_trngSrcCtrlIsolate (hn : n ≤ 4) (hr : custodyWriter r = true) (h : s.writes32 r (srcCtrlOff n)) :
    exec (.trngSrcCtrlIsolate r n) s = .next ((s.noHalf r).isolateSource n) := by
  have hwrite : exec (.trngSrcCtrlIsolate r n) s = .next (s.write r (srcCtrlOff n) 4 (maskedValue 1 true) true) :=
    congrArg Host.Outcome.next (if_pos hn)
  rw [hwrite, h.slow (writeGate_srcCtrl hn hr), State.writeSlow_srcCtrl hn, State.writeSrcCtrl_isolate]

/-! ### RECAL and ISOLATE of a noise source (R220 to R223) -/

/-- RECAL of a source that is in range and not RECALIBRATING, while the TRNG runs: its sweep, unless it is the last healthy one. -/
theorem State.recalSource_eq (hn : n ≤ 4) (hruns : s.trngRuns = true) (hst : s.get (R.trngSrcStatusState n) ≠ 4) :
    s.recalSource n = if s.lastSourceN n then s.blockErr 0x90000 (srcCtrlOff n) false else s.startSweep n [] :=
  if_neg (by simp [Nat.not_lt.2 hn, hruns, hst])

/-- ISOLATE of a source that is in range and not ISOLATED: its isolation, unless it is the last healthy one. -/
theorem State.isolateSource_eq (hn : n ≤ 4) (hst : s.get (R.trngSrcStatusState n) ≠ 3) :
    s.isolateSource n = if s.lastSourceN n then s.blockErr 0x90000 (srcCtrlOff n) false
      else (s.isolate n).put (R.trngSrcCtrlIsolate n) 1 :=
  if_neg (by simp [Nat.not_lt.2 hn, hst])

end

/-- Settles O42: each bit's act is its operation, which the last healthy source of N0 to N3 turns into an error. -/
theorem sourceControls : Obligations.SourceControls := by
  unfold Obligations.SourceControls
  intro s r n hn hr h t
  rw [exec_trngSrcCtrlRecal hn hr h, exec_trngSrcCtrlIsolate hn hr h]
  refine ⟨fun hruns hst hlast => ?_, fun hruns hst hlast => ?_, fun hst hlast => ?_, fun hst hlast => ?_⟩ <;>
    refine congrArg Host.Outcome.next ?_
  · exact (State.recalSource_eq (s := t) hn hruns hst).trans (if_neg (ne_true_of_eq_false hlast))
  · exact (State.recalSource_eq (s := t) hn hruns hst).trans (if_pos hlast)
  · exact (State.isolateSource_eq (s := t) hn hst).trans (if_neg (ne_true_of_eq_false hlast))
  · exact (State.isolateSource_eq (s := t) hn hst).trans (if_pos hlast)

/-! ### The windows of a source (R201, R205 to R207) -/

section
variable {s : State} {n : Nat} {bits : List Bool} {f : Failure}

/-- The state that a window which has passed leaves: the run of equal bits it ends with, and its blocks in the pool. -/
def State.windowPassed (s : State) (n : Nat) (bits : List Bool) : State :=
  (s.setSource n { s.source n with run := (repetition (s.source n).run bits).2 }).release n bits

/-- Whether a window of source `n` may have it join: it starts, or it waits with its chosen trim. -/
def State.joins (s : State) (n : Nat) : Prop :=
  s.get (R.trngSrcStatusState n) = 1 ∨ (s.get (R.trngSrcStatusState n) = 4 ∧ (s.source n).chosen ≠ none)

/-- A source that is to join does not serve yet. -/
theorem State.joins.ne_healthy (h : s.joins n) : s.get (R.trngSrcStatusState n) ≠ 2 := by
  rcases h with h | ⟨h, -⟩ <;> omega

section
variable (hn : n ≤ 4) (hruns : s.trngRuns = true)
include hn hruns

/-- While the TRNG runs, the window of a source that serves or is to join is that of its start-up test, or one of Table EN.2. -/
theorem State.windowEnd_running (hst : s.get (R.trngSrcStatusState n) = 2 ∨ s.joins n) :
    s.windowEnd n bits =
      if s.get (R.trngSrcStatusState n) ≠ 2 ∧ (!(s.source n).tested) = true then s.startupEnd n (startupOk bits)
      else match health (s.source n).run bits with
        | some f => (s.healthEvent n f).isolate n
        | none => (if s.get (R.trngSrcStatusState n) = 2 then s.windowPassed n bits
            else (s.windowPassed n bits).rejoin n).settleTrng := by
  have hkeeper : ¬ (n = 4 ∧ (!s.trngRuns) = true) := by simp [hruns]
  have hserves : s.get (R.trngSrcStatusState n) = 1 ∨ s.get (R.trngSrcStatusState n) = 2 ∨
      (s.get (R.trngSrcStatusState n) = 4 ∧ (s.source n).chosen.isSome = true) := by
    rcases hst with h | h | ⟨h, hchosen⟩
    · exact .inr (.inl h)
    · exact .inl h
    · exact .inr (.inr ⟨h, Option.isSome_iff_ne_none.2 hchosen⟩)
  refine (if_neg hkeeper).trans (if_neg ?_)
  rw [decide_eq_true hserves, hruns]
  simp [Nat.not_lt.2 hn]

/-- The first window of a source that is to join is its start-up test (R207). -/
theorem State.windowEnd_first (hjoins : s.joins n) (htested : (s.source n).tested = false) :
    s.windowEnd n bits = s.startupEnd n (startupOk bits) :=
  (State.windowEnd_running hn hruns (.inr hjoins)).trans (if_pos ⟨hjoins.ne_healthy, by rw [htested]; rfl⟩)

/-- A window that fails one of the tests isolates its source (R206). -/
theorem State.windowEnd_fails (hst : s.get (R.trngSrcStatusState n) = 2 ∨ (s.joins n ∧ (s.source n).tested = true))
    (hf : health (s.source n).run bits = some f) : s.windowEnd n bits = (s.healthEvent n f).isolate n := by
  have hlater : ¬ (s.get (R.trngSrcStatusState n) ≠ 2 ∧ (!(s.source n).tested) = true) := by
    rcases hst with h | ⟨-, h⟩ <;> simp [h]
  rw [State.windowEnd_running hn hruns (hst.imp_right And.left), if_neg hlater, hf]

/-- A window of a source that serves releases its blocks when it passes (R205). -/
theorem State.windowEnd_serves (hst : s.get (R.trngSrcStatusState n) = 2) (hf : health (s.source n).run bits = none) :
    s.windowEnd n bits = (s.windowPassed n bits).settleTrng := by
  rw [State.windowEnd_running hn hruns (.inl hst), if_neg (fun h => h.1 hst), hf]
  exact congrArg State.settleTrng (if_pos hst)

/-- The first window of Table EN.2 that passes has its source join (R220, R222). -/
theorem State.windowEnd_joins (hjoins : s.joins n) (htested : (s.source n).tested = true)
    (hf : health (s.source n).run bits = none) :
    s.windowEnd n bits = ((s.windowPassed n bits).rejoin n).settleTrng := by
  rw [State.windowEnd_running hn hruns (.inr hjoins), if_neg (by simp [htested]), hf]
  exact congrArg State.settleTrng (if_neg hjoins.ne_healthy)

end

/-- While the TRNG does not run, a window of NK that fails marks it (R201, log entry 114). -/
theorem State.windowEnd_keeper (hruns : s.trngRuns = false) (hf : health (s.source 4).run bits = some f) :
    s.windowEnd 4 bits = s.setTrim 4 { s.trimOf 4 with marked := true } :=
  (if_pos ⟨rfl, by rw [hruns]; rfl⟩).trans (if_pos (by rw [hf]; rfl))

end

/-! ### Instantiation and reseeding (R209 to R216) -/

section
variable {s u : State} {input : Bytes}

/-- The DRBG seated anew, before TRNG_STATE shows its service: `u` is what the taken blocks leave, `input` their bytes (R211). -/
def State.freshlySeated (u : State) (input : Bytes) : State := (u.seated (drbgFresh (input ++ u.personal))).stamped

/-- TRNG_STATE.DRBG shows the service that the sources allow; REDUCED is an event (Table EN.3). -/
def State.showService (s : State) : State :=
  let t := s.put R.trngStateDrbg s.serviceOf
  if s.serviceOf = 3 then t.raise 49 else t

/-- With its blocks there, a DRBG that is down takes a new Key and V, serves, and tells of the end of a stop (R209, R211). -/
theorem State.instantiate_fresh (hdown : s.drbgUp = false) (hruns : s.trngRuns = true) (herased : s.trng.erased = false)
    (hnk : s.get R.trngStateDrbg ≠ 4 ∨ s.nkReady = true) (hinput : s.freshInput = some (u, input)) :
    s.instantiate = (let t := (u.freshlySeated input).showService
      if t.trng.stopped then { t with trng.stopped := false }.raise 51 else t).showSources := by
  have hmay : ¬ (s.drbgUp = true ∨ (!s.trngRuns) = true ∨ s.trng.erased = true ∨
      (s.get R.trngStateDrbg = 4 ∧ (!s.nkReady) = true)) := by
    rintro (hup | hstill | hgone | ⟨h4, hno⟩)
    · exact ne_true_of_eq_false hdown hup
    · rw [hruns] at hstill
      exact Bool.false_ne_true hstill
    · exact ne_true_of_eq_false herased hgone
    · rw [hnk.resolve_left (absurd h4)] at hno
      exact Bool.false_ne_true hno
  rw [State.instantiate, if_neg hmay, hinput]
  rfl

/-- Without them it waits. -/
theorem State.instantiate_waits (hinput : s.freshInput = none) : s.instantiate = s := by
  rw [State.instantiate, hinput]
  exact ite_self s

section
variable (hup : s.drbgUp = true) (hdue : s.reseedDue = true) (hruns : s.trngRuns = true)
include hup hdue hruns

/-- A reseed that is due: the DRBG stops without a healthy source, and else waits for its blocks and takes them. -/
theorem State.reseed_due : s.reseed =
    if s.healthyN = 0 then s.stopDrbg
    else if (!s.nkReady) = true then s
    else match s.takeBlocks 4 with
      | none => s
      | some (s1, b) => ((s1.takeNk.1.seated (drbgReseeded (s1.takeNk.1.trng.key, s1.takeNk.1.trng.v) (b ++ s1.takeNk.2))).incMod
          R.trngReseedsCount 1).settleTrng :=
  if_neg (by simp [hup, hdue, hruns])

/-- With no healthy source of N0 to N3 the DRBG stops (R212). -/
theorem State.reseed_stops (hnone : s.healthyN = 0) : s.reseed = s.stopDrbg :=
  (State.reseed_due hup hdue hruns).trans (if_pos hnone)

/-- A reseed whose blocks are there gives the DRBG a new Key and V (R212). -/
theorem State.reseed_takes (hsome : s.healthyN ≠ 0) (hnk : s.nkReady = true) (hblocks : s.takeBlocks 4 = some (u, input)) :
    s.reseed = ((u.takeNk.1.seated (drbgReseeded (u.takeNk.1.trng.key, u.takeNk.1.trng.v) (input ++ u.takeNk.2))).incMod
      R.trngReseedsCount 1).settleTrng := by
  rw [State.reseed_due hup hdue hruns, if_neg hsome, if_neg (by simp [hnk]), hblocks]

/-- One whose blocks are not is held (R212). -/
theorem State.reseed_waits (hsome : s.healthyN ≠ 0) (hnk : s.nkReady = true) (hblocks : s.takeBlocks 4 = none) :
    s.reseed = s := by
  rw [State.reseed_due hup hdue hruns, if_neg hsome, if_neg (by simp [hnk]), hblocks]

end

end

/-- DRBG_INSTANTIATE checks the core, instantiates, and serves what waited; DRBG_RESEED does the same with its reseed. -/
theorem exec_drbgInstantiate (agree : Bool) (s : State) :
    exec (.drbgInstantiate agree) s = .next (s.core agree).instantiate.serveDraws := rfl
theorem exec_drbgReseed (agree : Bool) (s : State) : exec (.drbgReseed agree) s = .next (s.core agree).reseed.serveDraws := rfl

/-! ### Recalibration (R220 to R222) -/

section
variable {s : State} {n : Nat} {windows : List (List Bool)}

/-- The firmware's own recalibration of an isolated source begins (R220). -/
theorem exec_autoRecalibrate_begins (hn : n ≤ 4) (hst : s.get (R.trngSrcStatusState n) = 3) (hdue : (s.source n).due = true)
    (hup : s.is R.devStatusCustodyUp = true) (hruns : s.trngRuns = true) :
    exec (.autoRecalibrate n) s = .next (s.startSweep n []) :=
  congrArg Host.Outcome.next (if_pos ⟨hn, hst, hdue, hup, hruns⟩)

/-- The sweep of a source that recalibrates ends with the best setting chosen (R221), or fails: a marked source ends its recalibration
ISOLATED, another is isolated now (log entry 56). -/
theorem exec_recalSweepEnd_running (hn : n ≤ 4) (hst : s.get (R.trngSrcStatusState n) = 4) (hchosen : (s.source n).chosen = none)
    (hruns : s.trngRuns = true) :
    exec (.recalSweepEnd n windows) s = .next (match bestTrim windows with
      | some (trim, est) =>
        (s.setSource n { s.source n with chosen := some (trim, est) }).put (R.trngSrcStatusTrim n) trim
      | none =>
        if (s.trimOf n).marked then
          ((((s.healthEvent n ⟨5, 0, 0⟩).put (R.trngSrcStatusState n) 3).settleTrng).endRecal n St.limitReached)
        else (s.healthEvent n ⟨5, 0, 0⟩).isolate n) :=
  congrArg Host.Outcome.next (if_neg (by simp [Nat.not_lt.2 hn, hst, hchosen, hruns]))

end

/-- Settles O53: each event is the branch of its operation that the source's state, the pool and the core select. -/
theorem trngEvents : Obligations.TrngEvents := by
  unfold Obligations.TrngEvents
  intro s n bits f u input windows trim est x st joins passed first shown again apart
  have window {k : Nat} {t : State} (h : s.windowEnd k bits = t) : exec (.trngWindowEnd k bits) s = .next t.onward :=
    congrArg (fun t => Host.Outcome.next (State.onward t)) h
  have instantiated {t : State} (h : s.instantiate = t) : exec (.drbgInstantiate true) s = .next t.serveDraws :=
    congrArg (fun t => Host.Outcome.next (State.serveDraws t)) h
  have reseeded {t : State} (h : s.reseed = t) : exec (.drbgReseed true) s = .next t.serveDraws :=
    congrArg (fun t => Host.Outcome.next (State.serveDraws t)) h
  refine ⟨?passes, ?fails, ?startup, ?keeper, ?fresh, ?noInput, ?reseed, ?mismatch, ?auto, ?sweep⟩
  case passes =>
    intro hn hruns hf
    exact ⟨fun hst => window (State.windowEnd_serves hn hruns hst hf),
      fun hjoins htested => window (State.windowEnd_joins hn hruns hjoins htested hf)⟩
  case fails =>
    intro hn hruns hf hst
    exact window (State.windowEnd_fails hn hruns hst hf)
  case startup =>
    intro hn hruns hjoins htested
    have hfirst := State.windowEnd_first (bits := bits) hn hruns hjoins htested
    exact ⟨fun hok => window (hfirst.trans (if_pos hok)), fun hok => window (hfirst.trans (if_neg (ne_true_of_eq_false hok)))⟩
  case keeper =>
    intro hruns hf
    exact window (State.windowEnd_keeper hruns hf)
  case fresh =>
    intro hdown hruns herased hnk hinput
    have hfresh := State.instantiate_fresh hdown hruns herased hnk hinput
    exact ⟨fun hkept => instantiated (hfresh.trans (congrArg State.showSources (if_neg (ne_true_of_eq_false hkept)))),
      fun hstopped => instantiated (hfresh.trans (congrArg State.showSources (if_pos hstopped)))⟩
  case noInput =>
    intro _ hinput
    exact instantiated (State.instantiate_waits hinput)
  case reseed =>
    intro hup hdue hruns
    exact ⟨fun hsome hnk hblocks => reseeded (State.reseed_takes hup hdue hruns hsome hnk hblocks),
      fun hsome hnk hblocks => reseeded (State.reseed_waits hup hdue hruns hsome hnk hblocks),
      fun hnone => reseeded (State.reseed_stops hup hdue hruns hnone)⟩
  case mismatch =>
    intro hruns
    rw [exec_drbgInstantiate, exec_drbgReseed, State.core_mismatch hruns]
    exact ⟨rfl, rfl⟩
  case auto =>
    intro hn hst hdue hcustody hruns
    exact exec_autoRecalibrate_begins hn hst hdue hcustody hruns
  case sweep =>
    intro hn hst hchosen hruns
    rw [exec_recalSweepEnd_running hn hst hchosen hruns]
    refine ⟨fun hbest => ?_, fun hbest hmark => ?_, fun hbest hmark => ?_⟩ <;> rw [hbest]
    · exact congrArg Host.Outcome.next (if_neg (ne_true_of_eq_false hmark))
    · exact congrArg Host.Outcome.next (if_pos hmark)

end Sys2Proof.Machine
end

section
/-! SUPPORT and SETTLED. Every step goes on, and keeps the queue's rest, what the device has put out, and the draws already made. -/

namespace Sys2Proof.Machine

/-- Every command's meaning answers a next state: whatever a command meets, refusals and faults of the device included, is recorded in
the state it goes on to. -/
theorem exec_next (c : Instr) (s : State) : ∃ t, exec c s = .next t := by
  cases c <;> exact ⟨_, rfl⟩

/-- Settles O6: a command and the engine cycle of an empty queue go on to a state, and `Keeps` says what that state holds. -/
theorem stepGoesOn : Obligations.StepGoesOn := by
  intro s
  cases hp : s.pending with
  | nil =>
    obtain ⟨hpending, hout, hfresh, -⟩ := State.idle_keeps (Keeps.refl s)
    exact ⟨s.idle, step_nil hp, hpending.trans hp, hout, hfresh⟩
  | cons c rest =>
    obtain ⟨t, ht⟩ := exec_next c { s with pending := rest }
    obtain ⟨hpending, hout, hfresh, -⟩ := exec_keeps ht
    exact ⟨t, (step_cons hp).trans ht, hpending, hout, hfresh⟩

end Sys2Proof.Machine
end

section
/-! SUPPORT and SETTLED. OPERATION_STATUS_GET and OPERATION_CANCEL (R237). -/

namespace Sys2Proof.Machine

section
variable {m : Msg} {s : State} {op : Nat} (hop : op = le m.payload 0 4) (hlen : m.payloadLen = 4)
include hop hlen

/-- The operation that stands in the slot of its number is live: its state is told (R237). -/
theorem operationStatusGet_live (hst : s.get (R.quorumSlotClassState (op % 32)) ≠ 0)
    (hid : s.get (R.quorumSlotIdOperationId (op % 32)) = op) :
    operationStatusGet m s
      = (s, .okay (leBytes 1 (s.get (R.quorumSlotClassState (op % 32))) ++ leBytes 2 St.quorumPending)) := by
  subst hop
  rw [operationStatusGet, if_neg (not_not_intro hlen)]
  exact if_pos ⟨hst, hid⟩

/-- An operation that is in no slot any more is looked up among the outcomes (R237). -/
theorem operationStatusGet_ended {st : Nat} (hid : s.get (R.quorumSlotIdOperationId (op % 32)) ≠ op)
    (ho : s.quorum.outcomes.find? (fun o => o.1 == op) = some (op, st)) :
    operationStatusGet m s = (s, .okay (leBytes 1 4 ++ leBytes 2 st)) := by
  subst hop
  rw [operationStatusGet, if_neg (not_not_intro hlen)]
  simp only [if_neg (fun h => hid (And.right h)), ho]

/-- The function that started a pending operation, or the PF, ends it (R237). -/
theorem operationCancel_ends {a : Act} (hpends : s.slotPends op = true) (ha : look s.quorum.acts (op % 32) = some a)
    (hinst : m.inst = 0 ∨ m.inst = a.m.inst) :
    operationCancel m s = (s.endSlot (op % 32) 3 St.quorumCancelled, .of St.ok) := by
  subst hop
  rw [operationCancel, if_neg (not_not_intro hlen)]
  simp only [hpends, ha, if_pos hinst, Bool.not_true, Bool.false_eq_true, if_false]

end

/-- Settles O15: each command is its act, by where the operation stands. -/
theorem operations : Obligations.Operations := by
  intro m s u c op hop hlen
  refine ⟨fun h hst hid => ?_, fun st h hid ho => ?_, fun a h hpends ha hinst => ?_⟩
  · exact h.answers h.tenantAct rfl (operationStatusGet_live hop hlen hst hid) fun _ => rfl
  · exact h.answers h.tenantAct rfl (operationStatusGet_ended hop hlen hid ho) fun _ => rfl
  · exact h.answers h.tenantAct rfl (operationCancel_ends hop hlen hpends ha hinst) fun _ => rfl

end Sys2Proof.Machine
end

section
/-! SUPPORT and SETTLED. Mailboxes: their handshakes (R225 to R227), writes to their message areas (R226, R337), and CAPTURE (R50). -/

namespace Sys2Proof.Machine

/-! ### The handshakes -/

section
variable {s : State} {fn box : Nat} (h : s.mboxThere fn box = true)
include h

/-- GO acts on a mailbox that is there, and discards what the function's last half access left (R43). -/
theorem exec_go_there : exec (.go fn box) s = .next ((s.noHalf (requesterOf fn)).go (requesterOf fn) fn box) :=
  congrArg Host.Outcome.next (if_pos h)
/-- ACK does so too (R43). -/
theorem exec_ack_there : exec (.ack fn box) s = .next ((s.noHalf (requesterOf fn)).ack fn box) :=
  congrArg Host.Outcome.next (if_pos h)
/-- ABORT does so too (R43). -/
theorem exec_abort_there : exec (.abort fn box) s = .next ((s.noHalf (requesterOf fn)).abort fn box) :=
  congrArg Host.Outcome.next (if_pos h)

end

section
variable {s : State} {r : Requester} {fn box : Nat} {m : Msg}

/-- A CLOSED mailbox turns a command away (R228). -/
theorem State.toMbox_closed (h : s.get (mboxState fn box) = 3) :
    s.toMbox r fn box m = s.accessErr r 4 (doorbellOff fn box) true := if_pos h

/-- A RUNNING mailbox drops a command with OVERRUN (R226). -/
theorem State.toMbox_running (h : s.get (mboxState fn box) = 1) : s.toMbox r fn box m = s.put (mboxOverrun fn box) 1 := by
  rw [State.toMbox, h]
  rfl

/-- An IDLE or DONE mailbox takes a command and runs it (R225). -/
theorem State.toMbox_takes (hrun : s.get (mboxState fn box) ≠ 1) (hopen : s.get (mboxState fn box) ≠ 3) :
    s.toMbox r fn box m =
      let u := ((s.put (mboxState fn box) 1).put (mboxOverrun fn box) 0).take { m with inst := fn, origin := mboxOrigin fn box }
      (u.1.begin u.2 false).pump := by
  rw [State.toMbox, if_neg hopen, if_neg hrun]

end

section
variable {s : State} {fn box cid : Nat} {c : Cmd}

/-- ABORT reaches the command that the mailbox has sent and that has not been answered (R227). -/
theorem State.abort_found
    (hc : s.host.cmds.find? (fun c => c.2.m.origin == mboxOrigin fn box && c.2.silent.isNone) = some (cid, c)) :
    s.abort fn box = (s.abortCmd cid c).pump := by
  rw [State.abort, hc]

/-- A command whose payload is still being fetched ends (R227). -/
theorem State.abortCmd_payload (hstage : c.stage = .payload) : s.abortCmd cid c = s.complete cid (Resp.of St.cancelled) := by
  rw [State.abortCmd, hstage]

/-- A command on its route, with no engine's result and no format of the store under way, ends (R227). -/
theorem State.abortCmd_route (hstage : c.stage = .route) (hgot : c.got = none) (hformat : s.hs.formatting = none) :
    s.abortCmd cid c = s.complete cid (Resp.of St.cancelled) := by
  rw [State.abortCmd, hstage]
  simp only [hgot, hformat, Option.isSome_none, Bool.false_eq_true, if_false]

/-- A command that is held back ends, and the commands that are held are shown without it (R227). -/
theorem State.abortCmd_held (hstage : c.stage = .held) :
    s.abortCmd cid c = (s.complete cid (Resp.of St.cancelled)).showInbound := by
  rw [State.abortCmd, hstage]

end

/-! ### Where a host function's message area lies (Table WP.2) -/

/-- Checker 0 stands in front of the boot ROM alone, at the bottom of the map. -/
theorem lt_of_checkerOf_rom {a : Nat} (h : checkerOf a = some 0) : a < 0x40000 := by
  have hrom : ∀ t ∈ fabricMap, t.2.2 = 0 → t.1 + t.2.1 ≤ 0x40000 := by decide
  obtain ⟨t, ht, h0⟩ := Option.map_eq_some_iff.1 h
  have hin := List.find?_some ht
  simp only [Bool.and_eq_true, decide_eq_true_eq] at hin
  exact Nat.lt_of_lt_of_le hin.2 (hrom t (List.mem_of_find?_eq_some ht) h0)

/-- `box` is a mailbox of the host's function `fn`: the PF has 32, a VF one (R224). -/
def isHostBox (fn box : Nat) : Prop := fn < 256 ∧ box < (if fn = 0 then 32 else 1)

section
variable {fn box off : Nat} (hb : isHostBox fn box)
include hb

/-- A VF has its mailbox 0 alone. -/
theorem isHostBox.eq_zero (hvf : fn ≠ 0) : box = 0 := by
  obtain ⟨-, hbox⟩ := hb
  rw [if_neg hvf] at hbox
  omega

/-- The PF's areas stand in front of the VFs'. -/
theorem mboxArea_host : mboxArea fn box = if fn = 0 then 0x30100000 + 0x1000 * box else 0x30120000 + 0x1000 * (fn - 1) := by
  obtain ⟨hfn, -⟩ := hb
  rw [mboxArea, if_neg (c := fn = nwInst) (by unfold nwInst; omega)]

/-- Every area fills a page, in the window of the message areas. -/
theorem mboxArea_page : mboxArea fn box % 4096 = 0 ∧ 0x30100000 ≤ mboxArea fn box ∧ mboxArea fn box + 4096 ≤ 0x3021F000 := by
  rw [mboxArea_host hb]
  obtain ⟨hfn, hbox⟩ := hb
  split
  · rw [if_pos ‹_›] at hbox
    omega
  · omega

variable (ho : off < 4096)
include ho

/-- Each byte of an area is its function's (R337). -/
theorem areaOwner_mboxArea : areaOwner (mboxArea fn box + off) = some fn := by
  rw [mboxArea_host hb, areaOwner]
  obtain ⟨hfn, hbox⟩ := hb
  split
  case isTrue hpf =>
    rw [if_pos hpf] at hbox
    rw [if_pos (by omega), hpf]
  case isFalse hvf =>
    rw [if_neg (by omega), if_pos (by omega)]
    congr 1
    omega

/-- An area's offset shows in its addresses' low bits. -/
theorem mboxArea_offset : (mboxArea fn box + off) % 4096 = off := by
  obtain ⟨hpage, -, -⟩ := mboxArea_page hb
  omega

/-- An area is none of the register space. -/
theorem inRegs_mboxArea : inRegs (mboxArea fn box + off) = false := by
  obtain ⟨-, hlow, -⟩ := mboxArea_page hb
  simp only [inRegs, Bool.and_eq_false_iff, decide_eq_false_iff_not]
  omega

/-- An area is none of the boot ROM. -/
theorem checkerOf_mboxArea : checkerOf (mboxArea fn box + off) ≠ some 0 := by
  obtain ⟨-, hlow, -⟩ := mboxArea_page hb
  intro hrom
  have := lt_of_checkerOf_rom hrom
  omega

/-- The page of an area in the PF's window is the mailbox's number; a VF's is 0. -/
theorem boxOf_mboxArea : (if fn = 0 then (mboxArea fn box + off - 0x30100000) / 4096 else 0) = box := by
  split
  case isTrue hpf =>
    rw [mboxArea_host hb, if_pos hpf]
    omega
  case isFalse hvf => exact (hb.eq_zero hvf).symm

end

/-! ### A host function's write to its message area -/

section
variable {s : State} {fn box off : Nat} {bytes : Bytes}

/-- A write of a message area while the mailbox is RUNNING is dropped (R226). -/
theorem State.mboxWrite_running {r : Requester} (h : s.get (mboxState fn box) = 1) :
    s.mboxWrite r fn box off bytes = (s.put (mboxOverrun fn box) 1).accessErr r 4 (mboxAreaOff r fn box off) true := if_pos h

/-- Otherwise what fits the area lands in it (R226). -/
theorem State.mboxWrite_lands {r : Requester} (h : s.get (mboxState fn box) ≠ 1) (hfit : off + bytes.length ≤ 4096) :
    s.mboxWrite r fn box off bytes = s.writeMem (mboxArea fn box + off) bytes := by
  rw [State.mboxWrite, if_neg h, List.take_of_length_le (by omega)]

/-- A byte string that is not empty and fits starts within the area. -/
theorem off_lt_of_fits (hne : bytes ≠ []) (hfit : off + bytes.length ≤ 4096) : off < 4096 := by
  have := List.length_pos_iff.2 hne
  omega

section
variable (hb : isHostBox fn box) (hne : bytes ≠ []) (hfit : off + bytes.length ≤ 4096)
include hb hne hfit

/-- A posted write that the checker admits is a write of the mailbox's area (R226, R337). -/
theorem State.postedWrite_area (hj : s.judge ⟨0x50, fn⟩ .write (mboxArea fn box + off) = .allow) :
    s.postedWrite fn (mboxArea fn box + off) bytes = s.mboxWrite ⟨0x50, fn⟩ fn box off bytes := by
  have ho : off < 4096 := off_lt_of_fits hne hfit
  have htake : bytes.take (4096 - off) = bytes := List.take_of_length_le (by omega)
  simp only [State.postedWrite, areaOwner_mboxArea hb ho, if_pos hj, State.memWrite, if_neg (checkerOf_mboxArea hb ho), htake,
    boxOf_mboxArea hb ho, mboxArea_offset hb ho, true_or, if_true]

variable (hthere : s.hostThere fn = true) (hheld : s.heldBy (mboxArea fn box + off) bytes.length = none)
  (hj : s.judge ⟨0x50, fn⟩ .write (mboxArea fn box + off) = .allow)
include hthere hheld hj

/-- The access goes over the fabric as a posted write, and discards what a half access left (R43, R337). -/
theorem State.fabric_area : s.fabric ⟨0x50, fn⟩ .write (mboxArea fn box + off) bytes.length bytes
    = (s.noHalf ⟨0x50, fn⟩).mboxWrite ⟨0x50, fn⟩ fn box off bytes := by
  have ho : off < 4096 := off_lt_of_fits hne hfit
  have hup : ¬ ((!s.pwr.main) = true ∨ (!s.pwr.porstN) = true ∨ bytes.length = 0) := by
    simp only [State.hostThere, Bool.and_eq_true] at hthere
    obtain ⟨⟨⟨hmain, hporst⟩, -⟩, -⟩ := hthere
    simp [hmain, hporst, hne]
  rw [State.fabric, if_neg hup, hheld, ← State.postedWrite_area (s := s.noHalf ⟨0x50, fn⟩) hb hne hfit hj]
  have hhost : reqIsHost ⟨0x50, fn⟩ = true := rfl
  simp only [State.fabricNow, inRegs_mboxArea hb ho, hhost, Bool.false_eq_true, and_self, if_false, if_true, List.take_length]

/-- A host function's write to its area by mailbox and offset (R226). -/
theorem exec_mboxMessageWrite_area : exec (.mboxMessageWrite fn box off bytes) s
    = .next ((s.noHalf ⟨0x50, fn⟩).mboxWrite ⟨0x50, fn⟩ fn box off bytes) := by
  obtain ⟨hfn, hbox⟩ := id hb
  rw [← State.fabric_area hb hne hfit hthere hheld hj]
  show execMboxMessageWrite fn box off bytes s = _
  rw [execMboxMessageWrite, if_neg (by omega), if_neg (by unfold nwInst; omega), if_pos hthere]

/-- Its posted write to the same bytes by their address is the same write (R337). -/
theorem exec_hostMboxPostedWrite_area : exec (.hostMboxPostedWrite fn (mboxArea fn box + off) bytes) s
    = .next ((s.noHalf ⟨0x50, fn⟩).mboxWrite ⟨0x50, fn⟩ fn box off bytes) := by
  have howner : (areaOwner (mboxArea fn box + off)).isSome = true := by
    rw [areaOwner_mboxArea hb (off_lt_of_fits hne hfit), Option.isSome_some]
  rw [← State.fabric_area hb hne hfit hthere hheld hj]
  show execHostMboxPostedWrite fn (mboxArea fn box + off) bytes s = _
  rw [execHostMboxPostedWrite, if_pos ⟨hthere, howner⟩]

end
end

/-- CAPTURE latches the stamp that it issues (R50). -/
theorem exec_capture_latches {s : State} {fn v : Nat} (hthere : s.hostThere fn = true) (hv : bitOf v 0 = true) :
    exec (.capture fn v) s =
      let x := s.noHalf ⟨0x50, fn⟩
      .next { x.stamped with iface.stamps := store x.iface.stamps fn x.stamp } := by
  show execCapture fn v s = _
  rw [execCapture, if_pos hthere, State.captureStamp, if_pos hv]

/-- Settles O44: each door is what it comes to on the state without the function's half access, by the mailbox's state or the stage of
its command. -/
theorem mailboxes : Obligations.Mailboxes := by
  unfold Obligations.Mailboxes
  intro s fn box t x msg u
  refine ⟨?goTakes, ?goRunning, ?goClosed, ?ackDone, ?ackOther, ?abort, ?write, ?capture⟩
  case goTakes =>
    intro hthere hrun hopen
    exact (exec_go_there hthere).trans (congrArg Host.Outcome.next (State.toMbox_takes (s := t) hrun hopen))
  case goRunning =>
    intro hthere hrun
    exact (exec_go_there hthere).trans (congrArg Host.Outcome.next (State.toMbox_running (s := t) hrun))
  case goClosed =>
    intro hthere hclosed
    exact (exec_go_there hthere).trans (congrArg Host.Outcome.next (State.toMbox_closed (s := t) hclosed))
  case ackDone =>
    intro hthere hdone
    exact (exec_ack_there hthere).trans (congrArg Host.Outcome.next (if_pos (c := t.get (mboxState fn box) = 2) hdone))
  case ackOther =>
    intro hthere hother
    exact (exec_ack_there hthere).trans (congrArg Host.Outcome.next (if_neg (c := t.get (mboxState fn box) = 2) hother))
  case abort =>
    intro cid c hthere hc
    rw [exec_abort_there hthere, State.abort_found (s := t) hc]
    refine ⟨?_, fun hheld => by rw [State.abortCmd_held hheld]⟩
    rintro (hpayload | ⟨hroute, hgot, hformat⟩)
    · rw [State.abortCmd_payload hpayload]
    · rw [State.abortCmd_route (s := t) hroute hgot hformat]
  case write =>
    intro off bytes hfn hbox hne hfit hthere hheld hj
    have hb : isHostBox fn box := ⟨hfn, hbox⟩
    rw [exec_mboxMessageWrite_area hb hne hfit hthere hheld hj, exec_hostMboxPostedWrite_area hb hne hfit hthere hheld hj]
    exact ⟨fun hidle => congrArg Host.Outcome.next (State.mboxWrite_lands (s := x) hidle hfit),
      fun hidle => congrArg Host.Outcome.next (State.mboxWrite_lands (s := x) hidle hfit),
      fun hrun => congrArg Host.Outcome.next (State.mboxWrite_running (s := x) hrun)⟩
  case capture =>
    intro v hthere hv
    exact exec_capture_latches hthere hv

end Sys2Proof.Machine
end

section
/-! SUPPORT and SETTLED. Released acts and deadlines (R237, R253, R254), and the custodian ports (R258 to R261). -/

namespace Sys2Proof.Machine

/-! ### Released acts and deadlines -/

section
variable {s : State} {slot : Nat} {a : Act}

/-- The command that a released act runs as: the custody firmware's own (R237). -/
def Act.run (a : Act) : Msg := { a.m with origin := .firmware }

/-- The state in which the act released in `slot` meets its checks: the slot is marked, and the command taken. -/
def State.acting (s : State) (slot : Nat) (a : Act) : State :=
  let u := (s.put (R.quorumSlotClassState slot) 3).take a.run
  { u.1 with quorum.acting := store u.1.quorum.acting u.2 slot }

/-- While QUORUM is quiesced or a live update holds the act, it waits. -/
theorem exec_quorumActRun_waits (ha : look s.quorum.acts slot = some a)
    (hwait : s.is (R.hdrCtrlQuiesce 0xB0000) = true ∨ s.holdsAct a.m.opcode = true) : exec (.quorumActRun slot) s = .next s := by
  have hwaits : s.runReleased slot = s := by
    simp only [State.runReleased, ha]
    exact if_pos (.inr hwait)
  show Host.Outcome.next (if s.serves then s.runReleased slot else s) = _
  rw [hwaits, ite_self]

/-- A released act that nothing holds meets its checks again: it runs, or completes with what refused it (R237, R253). -/
theorem exec_quorumActRun_runs (hserves : s.serves = true) (ha : look s.quorum.acts slot = some a)
    (hst : s.get (R.quorumSlotClassState slot) = 2) (hquiet : s.is (R.hdrCtrlQuiesce 0xB0000) = false)
    (hfree : s.holdsAct a.m.opcode = false) :
    exec (.quorumActRun slot) s = .next (
      let cid := ((s.put (R.quorumSlotClassState slot) 3).take a.run).2
      match (s.acting slot a).precheck a.run with
      | some st => ((s.acting slot a).complete cid (Resp.of st)).pump
      | none => ((s.acting slot a).runAct cid { a.run with cid := cid }).pump) := by
  have hgoes : ¬ (s.get (R.quorumSlotClassState slot) ≠ 2 ∨ s.is (R.hdrCtrlQuiesce 0xB0000) = true ∨ s.holdsAct a.m.opcode = true) := by
    simp [hst, hquiet, hfree]
  show Host.Outcome.next (if s.serves then s.runReleased slot else s) = _
  rw [if_pos hserves]
  simp only [State.runReleased, ha, if_neg hgoes]
  rfl

/-- A pending operation ends once the count has reached its deadline (R254). -/
theorem exec_quorumTimeout_reached (hst : s.get (R.quorumSlotClassState slot) = 1)
    (hdue : s.get (R.quorumSlotDeadlineCycle slot) ≤ s.compass.count) :
    exec (.quorumTimeout slot) s = .next (s.endSlot slot 2 St.quorumTimeout) :=
  congrArg Host.Outcome.next (if_pos ⟨hst, hdue⟩)

/-- Before its deadline it stands. -/
theorem exec_quorumTimeout_early (hearly : s.compass.count < s.get (R.quorumSlotDeadlineCycle slot)) :
    exec (.quorumTimeout slot) s = .next s :=
  congrArg Host.Outcome.next (if_neg fun h => Nat.not_le.2 hearly h.2)

end

/-! ### Frames from a pad -/

section
variable {s : State} {port : Nat} {f : PadFrame}

/-- The port once the frame `f` of its pad is accepted. -/
def State.portAccepted (s : State) (port : Nat) (f : PadFrame) : State :=
  s.setPort port { s.port port with rxSeq := f.seq, discards := 0, silent := 0 }

/-- The frame that comes next, with a good tag, is accepted (R259). -/
theorem State.judgeFrame_accepts (hsome : f.empty = false) (htag : f.tagOk = true) (hseq : f.seq = (s.port port).rxSeq + 1) :
    s.judgeFrame port f = (s.portAccepted port f, true) := by
  simp only [State.judgeFrame, hsome, htag, hseq, beq_self_eq_true, Bool.and_self, Bool.false_eq_true, if_false, if_true,
    State.portAccepted]

/-- A frame with a bad tag is discarded and counted; before the third in a row and the hundredth transaction the port stays as it is
(R259). -/
theorem State.judgeFrame_discards (hsome : f.empty = false) (htag : f.tagOk = false) (hdiscards : (s.port port).discards < 2)
    (hsilent : (s.port port).silent < 99) :
    s.judgeFrame port f = ((s.incSat (if port = 0 then R.quorumPortErrDiscardA else R.quorumPortErrDiscardB)).setPort port { s.port port
      with discards := (s.port port).discards + 1, silent := (s.port port).silent + 1 }, false) := by
  have hstays : ¬ ((s.port port).discards + 1 ≥ 3 ∨ (s.port port).silent + 1 ≥ 100) := by omega
  simp only [State.judgeFrame, hsome, htag, Bool.false_and, Bool.false_eq_true, if_false, if_neg hstays]

/-- What a paired port whose session is open sends in a transaction (R258, R261). -/
def State.portSends (s : State) (port : Nat) : State :=
  match (s.port port).queue with
  | (kind, body) :: rest => (s.setPort port { s.port port with queue := rest }).sendFrame port kind body
  | [] =>
    match (if s.get (portFld port) = 3 then s.pinPendingAt port else none) with
    | some pos => s.sendFrame port 0x20 (leBytes 1 pos)
    | none => s

/-- A transaction sends, and judges what came (R258). -/
theorem exec_portTransaction_open (hpaired : (s.port port).paired = true) (hopen : 2 ≤ s.get (portFld port)) :
    exec (.portTransaction port f) s = .next ((s.portSends port).judgeFrame port f).1 := by
  have hgoes : ¬ ((!(s.port port).paired) = true ∨ s.get (portFld port) < 2) := by simp [hpaired, Nat.not_lt.2 hopen]
  show Host.Outcome.next (s.portExchange port f) = _
  rw [State.portExchange, if_neg hgoes]
  rfl

/-- A frame that waits goes out. -/
theorem State.portSends_queued {kind : Nat} {body : Bytes} {rest : List (Nat × Bytes)} (hq : (s.port port).queue = (kind, body) :: rest) :
    s.portSends port = (s.setPort port { s.port port with queue := rest }).sendFrame port kind body := by
  rw [State.portSends, hq]

/-- Where none waits, a port that is UP asks for a PIN that is pending (R261). -/
theorem State.portSends_pin {pos : Nat} (hq : (s.port port).queue = []) (hup : s.get (portFld port) = 3)
    (hpin : s.pinPendingAt port = some pos) : s.portSends port = s.sendFrame port 0x20 (leBytes 1 pos) := by
  simp only [State.portSends, hq, if_pos hup, hpin]

/-- With nothing to send the port sends nothing. -/
theorem State.portSends_none (hq : (s.port port).queue = []) (hnone : s.get (portFld port) = 2 ∨ s.pinPendingAt port = none) :
    s.portSends port = s := by
  have hpin : (if s.get (portFld port) = 3 then s.pinPendingAt port else none) = none := by
    rcases hnone with hopening | hpin
    · rw [if_neg (by omega)]
    · rw [hpin, ite_self]
  simp only [State.portSends, hq, hpin]

/-! ### Sessions -/

/-- A draw of 16 bytes is of the DRBG alone: the quorum unit stands. -/
theorem State.draw_quorum (s : State) : (s.draw 16).1.quorum = s.quorum := rfl

/-- A port is what the quorum unit holds of it. -/
theorem State.port_congr {t : State} (h : t.quorum = s.quorum) : t.port port = s.port port := by
  simp only [State.port, h]

/-- A port that is paired and DOWN opens a session once the DRBG serves (R259). -/
theorem exec_portSessionOpen_opens (hpaired : (s.port port).paired = true) (hdown : s.get (portFld port) = 1)
    (hdraw : s.canDraw = true) : exec (.portSessionOpen port) s = .next (((s.draw 16).1.setPort port { s.port port with
      nonce := (s.draw 16).2, session := [], txSeq := 0, rxSeq := 0, discards := 0, silent := 0
      queue := [(0x01, (s.draw 16).2)] }).setPortState port 2) := by
  show Host.Outcome.next (if _ then s.openSession port else s) = _
  rw [if_pos ⟨hpaired, hdown, hdraw⟩, ← State.port_congr (t := (s.draw 16).1) s.draw_quorum]
  rfl

/-- Without the DRBG nothing changes. -/
theorem exec_portSessionOpen_waits (hdraw : s.canDraw = false) : exec (.portSessionOpen port) s = .next s :=
  congrArg Host.Outcome.next (if_neg fun h => by simp [hdraw] at h)

section
variable (hok : s.judgeFrame port f = (s.portAccepted port f, true))
include hok

/-- The pad's answer sets the session's key, and the port is UP (R259). -/
theorem exec_helloAck_accepted {nonce : Bytes} (hopening : s.get (portFld port) = 2) :
    exec (.helloAck port f nonce) s = .next (
      let t := s.portAccepted port f
      (t.setPort port { t.port port with
        session := kdf (t.port port).key "PORT" ((t.port port).nonce ++ nonce ++ leBytes 1 port) 256 }).setPortState port 3) := by
  show Host.Outcome.next (s.helloAck port f nonce) = _
  rw [State.helloAck, if_neg (not_not_intro hopening), hok]
  rfl

/-- An APPROVE whose frame is accepted goes on from the port that has accepted it (R260). -/
theorem exec_approve_accepted {op pos : Nat} {pin digest : Bytes} (hup : s.get (portFld port) = 3) :
    exec (.approve port f op pos pin digest) s = .next ((s.portAccepted port f).padApprove port op pos pin digest) := by
  show execApprove port f op pos pin digest s = _
  simp only [execApprove, if_pos hup, hok, if_true]

/-- So does a PIN_SET (R261). -/
theorem exec_pinSet_accepted {pos : Nat} {pin pin2 : Bytes} (hup : s.get (portFld port) = 3) :
    exec (.pinSet port f pos pin pin2) s = .next ((s.portAccepted port f).padPinSet port pos pin pin2) := by
  show execPinSet port f pos pin pin2 s = _
  simp only [execPinSet, if_pos hup, hok, if_true]

/-- A KEEPALIVE does no more than be accepted (R259). -/
theorem exec_keepalive_accepted (hopen : 2 ≤ s.get (portFld port)) : exec (.keepalive port f) s = .next (s.portAccepted port f) := by
  show execKeepalive port f s = _
  rw [execKeepalive, if_pos hopen, hok]

end

end

/-! ### APPROVE (R260) -/

section
variable {s : State} {port op pos : Nat} {c : Custodian} {pin digest : Bytes}

/-- What the pad names is no pending operation: RESULT 3. -/
theorem State.padApprove_unknown (h : s.slotPends op = false) : s.padApprove port op pos pin digest = s.padResult port op 3 :=
  if_pos (.inl (by rw [h]; rfl))

/-- The APPROVE of custodian `c`, at device position `pos`, names a pending operation that it may approve at a pad, now. -/
structure State.approves (s : State) (op pos : Nat) (c : Custodian) (digest : Bytes) : Prop where
  pends : s.slotPends op = true
  names : some (digest.take 8) = (look s.quorum.acts (op % 32)).map (fun a => a.digest.take 8)
  device : s.is (R.quorumSlotClassTenantKind (op % 32)) = false
  enrolled : s.custodian none pos = some c
  eligible : bitOf (s.get (R.quorumSlotApprovalsEligible (op % 32))) pos = true
  atPort : c.port = true
  pinSet : c.pinPending = false
  allowed : c.suspendUntil ≤ s.compass.count

/-- Whether the PIN is the custodian's. -/
def State.pinRight (s : State) (pos : Nat) (c : Custodian) (pin : Bytes) : Bool := pinOk pin && c.verifier == s.pinVerifier pos pin

/-- The custodian's wrong PINs are forgotten. -/
def State.trusts (s : State) (pos : Nat) (c : Custodian) : State := s.setCustodian pos { c with pinFails := 0, suspendUntil := 0 }

section
variable (h : s.approves op pos c digest)
include h

/-- The PIN decides what such an APPROVE comes to. -/
theorem State.padApprove_byPin : s.padApprove port op pos pin digest =
    if s.pinRight pos c pin then
      if bitOf ((s.trusts pos c).get (R.quorumSlotApprovalsApproved (op % 32))) pos then (s.trusts pos c).padResult port op 5
      else ((s.trusts pos c).approveBit (op % 32) pos true).padResult port op 0
    else (s.wrongPin port (op % 32) pos c).padResult port op 1 := by
  obtain ⟨hpends, hnames, hdevice, henrolled, heligible, hport, hset, hallowed⟩ := h
  have hnamed : ¬ ((!s.slotPends op) = true ∨ some (digest.take 8) ≠ (look s.quorum.acts (op % 32)).map (fun a => a.digest.take 8)) := by
    simp [hpends, hnames]
  have hmay : ¬ ((!bitOf (s.get (R.quorumSlotApprovalsEligible (op % 32))) pos) = true ∨ (!c.port) = true) := by
    simp [heligible, hport]
  simp only [State.padApprove, if_neg hnamed, hdevice, henrolled, if_neg hmay, if_neg (ne_true_of_eq_false hset), Bool.false_eq_true,
    if_false, if_neg (Nat.not_lt.2 hallowed)]
  have hpin : (!(pinOk pin && c.verifier == s.pinVerifier pos pin)) = !s.pinRight pos c pin := rfl
  rw [hpin]
  cases s.pinRight pos c pin <;> rfl

/-- A right PIN approves, where its custodian has not yet approved (R253). -/
theorem State.padApprove_approves (hright : s.pinRight pos c pin = true)
    (hnew : bitOf ((s.trusts pos c).get (R.quorumSlotApprovalsApproved (op % 32))) pos = false) :
    s.padApprove port op pos pin digest = ((s.trusts pos c).approveBit (op % 32) pos true).padResult port op 0 := by
  rw [State.padApprove_byPin h, if_pos hright, if_neg (ne_true_of_eq_false hnew)]

/-- A second approval of the same custodian says so. -/
theorem State.padApprove_again (hright : s.pinRight pos c pin = true)
    (hold : bitOf ((s.trusts pos c).get (R.quorumSlotApprovalsApproved (op % 32))) pos = true) :
    s.padApprove port op pos pin digest = (s.trusts pos c).padResult port op 5 := by
  rw [State.padApprove_byPin h, if_pos hright, if_pos hold]

/-- Another PIN is a failure, and is told. -/
theorem State.padApprove_wrong (hwrong : s.pinRight pos c pin = false) :
    s.padApprove port op pos pin digest = (s.wrongPin port (op % 32) pos c).padResult port op 1 := by
  rw [State.padApprove_byPin h, if_neg (ne_true_of_eq_false hwrong)]

end

/-! ### PIN_SET (R261) -/

section
variable (hc : s.custodian none pos = some c)
include hc

/-- Two PINs that agree set the verifier of a custodian whose PIN is pending at this port. -/
theorem State.padPinSet_sets (hpending : c.pinPending = true) (hport : c.enrolPort = port) (hpin : pinOk pin = true) :
    s.padPinSet port pos pin pin = (s.setCustodian pos { c with
      pinPending := false
      verifier := s.pinVerifier pos pin
      pinFails := 0 }).padResult port 0 0 := by
  rw [State.padPinSet, hc]
  exact if_pos ⟨hpending, hport, rfl, hpin⟩

/-- Two that differ set nothing. -/
theorem State.padPinSet_differ {pin2 : Bytes} (hne : pin2 ≠ pin) : s.padPinSet port pos pin pin2 = s.padResult port 0 6 := by
  rw [State.padPinSet, hc]
  exact if_neg fun ⟨_, _, heq, _⟩ => hne heq.symm

end
end

/-- Settles O55: the quorum unit's events by the slot's state, and the ports' by what the frame and its PIN are. -/
theorem quorumAndPorts : Obligations.QuorumAndPorts := by
  unfold Obligations.QuorumAndPorts
  intro s slot port op pos a f c nonce pin pin2 digest m u acting st p good t n named right trusted
  refine ⟨?released, ?held, ?deadline, ?early, ?transaction, ?opens, ?noDrbg, ?accepted, ?discarded⟩
  case released =>
    intro hserves ha hst hquiet hfree
    rw [exec_quorumActRun_runs hserves ha hst hquiet hfree]
    refine ⟨fun hnone => ?_, fun why hwhy => ?_⟩
    · have hcheck : (s.acting slot a).precheck a.run = none := hnone
      rw [hcheck]
      rfl
    · have hcheck : (s.acting slot a).precheck a.run = some why := hwhy
      rw [hcheck]
      rfl
  case held => exact exec_quorumActRun_waits
  case deadline => exact exec_quorumTimeout_reached
  case early => exact fun _ => exec_quorumTimeout_early
  case transaction =>
    intro hpaired hopen
    rw [exec_portTransaction_open hpaired hopen]
    exact ⟨fun kind body rest hq => by rw [State.portSends_queued hq], fun hq hup hpin => by rw [State.portSends_pin hq hup hpin],
      fun hq hnone => by rw [State.portSends_none hq hnone]⟩
  case opens => exact exec_portSessionOpen_opens
  case noDrbg => exact exec_portSessionOpen_waits
  case accepted =>
    rintro ⟨hsome, htag, hseq⟩
    have hok : s.judgeFrame port f = (t, true) := State.judgeFrame_accepts hsome htag hseq
    have approves (h : named) : t.approves op pos c digest := by
      obtain ⟨hpends, hnames, hdevice, henrolled, heligible, hport, hset, hallowed⟩ := h
      exact ⟨hpends, hnames, hdevice, henrolled, heligible, hport, hset, hallowed⟩
    refine ⟨?hello, ?approve, ?again, ?wrong, ?unknown, ?pinSet, ?keepalive⟩
    case hello => exact exec_helloAck_accepted hok
    case approve =>
      intro hup hnamed hright hnew
      rw [exec_approve_accepted hok hup]
      exact congrArg Host.Outcome.next (State.padApprove_approves (approves hnamed) hright hnew)
    case again =>
      intro hup hnamed hright hold
      rw [exec_approve_accepted hok hup]
      exact congrArg Host.Outcome.next (State.padApprove_again (approves hnamed) hright hold)
    case wrong =>
      intro hup hnamed hwrong
      rw [exec_approve_accepted hok hup]
      exact congrArg Host.Outcome.next (State.padApprove_wrong (approves hnamed) hwrong)
    case unknown =>
      intro hup hunknown
      rw [exec_approve_accepted hok hup]
      exact congrArg Host.Outcome.next (State.padApprove_unknown hunknown)
    case pinSet =>
      intro hup hc hpending hport hpin
      rw [exec_pinSet_accepted hok hup]
      refine ⟨congrArg Host.Outcome.next (State.padPinSet_sets hc hpending hport hpin), fun hne => ?_⟩
      rw [exec_pinSet_accepted hok hup]
      exact congrArg Host.Outcome.next (State.padPinSet_differ hc hne)
    case keepalive => exact exec_keepalive_accepted hok
  case discarded =>
    intro hopen hsome htag hdiscards hsilent
    show execKeepalive port f s = _
    rw [execKeepalive, if_pos (show s.get (portFld port) ≥ 2 from hopen), State.judgeFrame_discards hsome htag hdiscards hsilent]

end Sys2Proof.Machine
end

section
/-! SUPPORT and SETTLED. CUSTODIAN_ENROL, CUSTODIAN_REMOVE, QUORUM_POLICY_SET, PORT_PAIR and APPROVAL_SUBMIT (R247, R249, R252, R256,
R262). -/

namespace Sys2Proof.Machine

/-- A command of groups 0x04 to 0x06 that runs on does what its group's table gives every command with its opcode. -/
theorem runsOn_tenant {op : Nat} {u v : State} {c : Msg} {a : Answer} {f : Msg → State → State × Answer} (hop : c.opcode = op)
    (ha : f c u = (v, a)) (hf : ∀ d : Msg, tenantAct { d with opcode := op } u = f { d with opcode := op } u)
    (k : op ≠ rotateOp ∧ 4 ≤ op / 256 ∧ op / 256 ≤ 6 := by decide) : RunsOn c u v a := by
  have hc : c = { c with opcode := op } := by rw [← hop]
  refine runsOn ?_
  rw [actOf_tenant hop k, ← ha, hc]
  exact hf c

/-! ### Custodians and policies (R247, R249) -/

/-- Whether slot `n` asks for approvals of the device's custodians (`none`), or of this tenant's. -/
def State.asksKind (s : State) (t : Option Nat) (n : Nat) : Bool :=
  match t with
  | none => !s.is (R.quorumSlotClassTenantKind n)
  | some k => s.is (R.quorumSlotClassTenantKind n) && s.get (R.quorumSlotClassTenant n) == k

/-- The approvals of the custodian at a position, taken out of every pending slot that asks for its kind (R247). -/
def State.dropApprovals (s : State) (t : Option Nat) (pos : Nat) : State :=
  (List.range 32).foldl (fun w n =>
    if w.get (R.quorumSlotClassState n) = 1 ∧ w.asksKind t n then w.putBit (R.quorumSlotApprovalsApproved n) pos false else w) s

section
variable {m : Msg} {s : State} {t : Option Nat} {pos : Nat} (ht : t = custTarget m.payload) (hpos : pos = le m.payload 1 1)
include ht hpos

/-- A free position takes its custodian, who has a pad only at the device (R247). -/
theorem custodianEnrol_enrols (hform : custPayloadOk m.payload m.payloadLen true = true) (hfree : s.custodian t pos = none)
    (hpad : t = none ∨ bitOf (le m.payload 5 1) 0 = false) :
    custodianEnrol m s = ({ s with
      quorum.custodians := store s.quorum.custodians (custKey t pos)
        ⟨(Config.sha384 ((m.payload.drop 8).take (m.payloadLen - 8))).take 16, le m.payload 4 1, bitOf (le m.payload 5 1) 0,
          bitOf (le m.payload 5 1) 0, 0, [], 0, le m.payload 6 1⟩
      quorum.tablesFailed := false }, .of St.ok) := by
  subst ht hpos
  rw [custodianEnrol, if_neg (by simp [hform])]
  refine if_neg ?_
  rw [hfree]
  rcases hpad with hdevice | hnone
  · simp [hdevice]
  · simp [hnone]

/-- A custodian whom its classes can spare goes, with its approvals; so do the operations that can no longer complete (R247). -/
theorem custodianRemove_removes {x : Custodian} {v : State} (hform : custPayloadOk m.payload m.payloadLen false = true)
    (hx : s.custodian t pos = some x) (hv : v = { s with quorum.custodians := drop s.quorum.custodians (custKey t pos) })
    (henough : ∀ k ∈ classesOf t, (v.policy k (t.getD 0)).m ≤ popcount 16 (v.eligible k (t.getD 0)))
    (hpads : t = none → ∀ k ∈ [7, 10, 12, 13], s.hasPad (s.eligible k 0) = true → v.hasPad (v.eligible k 0) = true) :
    custodianRemove m s = ((v.dropApprovals t pos).cancelSlots (fun w n => w.asksKind t n && decide (popcount 16
      (w.get (R.quorumSlotApprovalsEligible n) &&& w.enrolled t) < w.get (R.quorumSlotClassM n))), .of St.ok) := by
  have hshort : (classesOf t).any (fun k => decide (popcount 16 (v.eligible k (t.getD 0)) < (v.policy k (t.getD 0)).m)) = false := by
    simpa using henough
  have hpadless : (t.isNone && [7, 10, 12, 13].any (fun k => s.hasPad (s.eligible k 0) && !v.hasPad (v.eligible k 0))) = false := by
    cases t with
    | none => simpa using hpads rfl
    | some k => rfl
  subst ht hpos hv
  rw [custodianRemove, if_neg (by simp [hform])]
  simp only [hx, hshort, hpadless]
  rfl

end

/-- The classes whose policy names a custodian with a pad: those of the physical presence, and TAMPER_RESPONSE_SET's (R248). -/
theorem mem_padClasses {k : Nat} : k ∈ [7, 10, 12, 13] ↔ (isPpClass k || k == 7) = true := by
  simp [isPpClass]
  omega

/-- A policy that enough enrolled custodians meet takes its class's place, and the class's pending operations end (R249). -/
theorem quorumPolicySet_sets {m : Msg} {s : State} {k mask n t ten : Nat} (hlen : m.payloadLen = 16) (hk : k = le m.payload 0 1)
    (hn : n = le m.payload 1 1) (hmask : mask = le m.payload 2 2) (ht : t = le m.payload 4 4) (hten : ten = le m.payload 8 2)
    (hclass : k ∈ deviceClasses ∧ ten = 0 ∨ k = 16 ∨ k = 17) (htenant : ten < 4096) (hzero : le m.payload 10 6 = 0) (hlow : 1 ≤ n)
    (henough : n ≤ popcount 16 (s.enrolled (tenantOf k ten) &&& mask)) (hearly : 1000 ≤ t) (hlate : t ≤ 4000000)
    (hpad : k ∈ [7, 10, 12, 13] → s.hasPort (s.enrolled (tenantOf k ten) &&& mask) = true)
    (hfielded : s.get R.devStatusLife = 2 → k < 16 → 2 ≤ n) :
    quorumPolicySet m s =
      (({ s with quorum.policies := store s.quorum.policies (policyKey k ten) ⟨some mask, n, t⟩ } : State).cancelSlots
        (fun w i => w.get (R.quorumSlotClassClass i) == k && (decide (k < 16) || w.get (R.quorumSlotClassTenant i) == ten)),
        .of St.ok) := by
  subst hk hn hmask ht hten
  have hknown : (deviceClasses.contains (le m.payload 0 1) || le m.payload 0 1 == 16 || le m.payload 0 1 == 17) = true := by
    rcases hclass with ⟨hdevice, -⟩ | h16 | h17
    · simp [hdevice]
    · simp [h16]
    · simp [h17]
  unfold quorumPolicySet
  refine (if_neg ?form).trans (if_neg ?meets)
  case form =>
    rw [hknown]
    simp only [Bool.not_true, Bool.false_eq_true, false_or]
    omega
  case meets =>
    rintro (h | h | h | h | ⟨hpp, hnone⟩ | ⟨hlife, hdevice, h⟩)
    · omega
    · omega
    · omega
    · omega
    · simp [hpad (mem_padClasses.2 hpp)] at hnone
    · exact absurd (hfielded hlife hdevice) (Nat.not_le.2 h)

/-! ### PORT_PAIR (R262) -/

/-- What PORT_PAIR of port `p` answers with its blob made, or not yet. -/
def pairedBy (p : Nat) : State × Except Answer Bytes → State × Answer
  | (s, .error e) => (s, e)
  | (s, .ok out) => (s.pairPort p, .okay out)

/-- PORT_PAIR of port `p`, its form checked: the port's new key, for the recipient that the command names. -/
def State.pairing (s : State) (m : Msg) (p : Nat) (key : Bytes) : State × Answer :=
  let item := m.payload.drop 8
  if le item 0 1 = 1 then
    match s.kek m uWrap with
    | .error st => (s, .of st)
    | .ok x => pairedBy p (s.lanePart 3 (blobJob m 1 x.wg [] (pairAttr.bytes ++ key)))
  else pairedBy p (s.hybridSeal m (slice item 8 1184) (slice item 1192 97) pairAttr.bytes (pairAttr.bytes ++ key))

section
variable {m : Msg} {s : State} {p : Nat} {key : Bytes}

/-- PORT_PAIR in its form, of a device that has its seeds, pairs with the key of the next pairing count (R262). -/
theorem portPair_eq (hp : p = le m.payload 0 1) (hport : p ≤ 1) (hzero : le m.payload 1 7 = 0) (hlen : m.payloadLen = m.payload.length)
    (hitem : allZero (slice (m.payload.drop 8) 1 7) = true) (hseeds : s.keys.idSeeds ≠ [])
    (hkind : le (m.payload.drop 8) 0 1 = 1 ∧ m.payload.length = 16 ∨ le (m.payload.drop 8) 0 1 = 2 ∧ m.payload.length = 1297) :
    portPair m s = s.pairing m p (s.pairingKey p (((s.port p).pairCount + 1) % 65536)) := by
  subst hp
  have htake : m.payload.take m.payloadLen = m.payload := by rw [hlen, List.take_length]
  have hshape : (!decide (le (m.payload.drop 8) 0 1 = 1 ∧ (m.payload.drop 8).length = 8
      ∨ le (m.payload.drop 8) 0 1 = 2 ∧ (m.payload.drop 8).length = 1289)) = false := by
    rw [List.length_drop]
    exact congrArg Bool.not (decide_eq_true (by omega))
  simp only [portPair, htake, hshape]
  rw [if_neg (by simp [hport, hzero, hitem]), if_neg (by simp [hseeds])]
  rfl

/-- A recipient that holds KEY2 has the key wrapped under it. -/
theorem State.pairing_kek {x : Slot} (htype : le (m.payload.drop 8) 0 1 = 1) (hkek : s.kek m uWrap = .ok x) :
    s.pairing m p key = pairedBy p (s.lanePart 3 (blobJob m 1 x.wg [] (pairAttr.bytes ++ key))) := by
  simp only [State.pairing, if_pos htype, hkek]

/-- Any other has it sealed to its two public keys. -/
theorem State.pairing_hybrid (htype : le (m.payload.drop 8) 0 1 = 2) :
    s.pairing m p key = pairedBy p (s.hybridSeal m (slice (m.payload.drop 8) 8 1184) (slice (m.payload.drop 8) 1192 97) pairAttr.bytes
      (pairAttr.bytes ++ key)) :=
  if_neg (by omega)

end

/-! ### APPROVAL_SUBMIT (R252, R256) -/

/-- A token's job belongs to its command. -/
theorem tokenJob_cid (s : State) (m : Msg) (kind : Nat) (context pub signed sig : Bytes) :
    (tokenJob s m kind context pub signed sig).cid = m.cid := by
  unfold tokenJob
  split <;> rfl

/-- The job that verifies the signature of the token that `m` carries, whose head is `head` bytes long. -/
def State.tokenSigJob (s : State) (m : Msg) (head : Nat) (context : Bytes) : Job :=
  let n := le m.payload (if head = 80 then 72 else 48) 2
  tokenJob s m (le m.payload 1 1) context (slice m.payload head n) (m.payload.take (head + n)) (m.payload.drop (head + n))

section
variable {m : Msg} {s : State} {head : Nat} {context : Bytes}

/-- Until the verdict on a token's signature is there, the engine is asked for it. -/
theorem State.tokenSigOk_asks (hnone : s.partOf m.cid 12 = none) (hprog : s.hasProgram (s.tokenSigJob m head context).prog = true) :
    s.tokenSigOk m head context = (s.submitPke { s.tokenSigJob m head context with part := 12, own := true }, .error .engine) := by
  have hpart := State.pkePart_asks (s := s) (k := 12) (j := s.tokenSigJob m head context)
    (by rwa [State.tokenSigJob, tokenJob_cid]) hprog
  simp only [State.tokenSigJob] at hpart ⊢
  simp only [State.tokenSigOk, hpart]

/-- Then the signature verifies where the verdict is 1. -/
theorem State.tokenSigOk_there {b : Bytes} (hsome : s.partOf m.cid 12 = some b) :
    s.tokenSigOk m head context = (s, .ok (b == [1])) := by
  have hpart := State.pkePart_there (s := s) (k := 12) (j := s.tokenSigJob m head context)
    (by rwa [State.tokenSigJob, tokenJob_cid])
  simp only [State.tokenSigJob] at hpart
  simp only [State.tokenSigOk, hpart]

end

section
variable {m : Msg} {s : State}

/-- A token that a check refuses is counted (R252). -/
theorem approvalSubmit_refused {st why : Nat} (href : s.tokenRefusal m.payload m.payloadLen = some (st, why)) :
    approvalSubmit m s = (s.tokenRefused m, .why st why) := by
  rw [approvalSubmit, href]

variable (href : s.tokenRefusal m.payload m.payloadLen = none)
include href

/-- One that no check refuses has its signature verified (R256). -/
theorem approvalSubmit_asks (hnone : s.partOf m.cid 12 = none)
    (hprog : s.hasProgram (s.tokenSigJob m 80 (ascii "FV64-APPROVE")).prog = true) :
    approvalSubmit m s
      = (s.submitPke { s.tokenSigJob m 80 (ascii "FV64-APPROVE") with part := 12, own := true }, .engine) := by
  rw [approvalSubmit, href, State.tokenSigOk_asks hnone hprog]

/-- With a good signature it is taken. -/
theorem approvalSubmit_accepts (hsome : s.partOf m.cid 12 = some [1]) :
    approvalSubmit m s = (s.tokenTaken m, .okay ((s.tokenTaken m).approvalResult (le m.payload 8 4 % 32))) := by
  rw [approvalSubmit, href, State.tokenSigOk_there hsome, beq_self_eq_true]

/-- With a bad one it is counted as refused. -/
theorem approvalSubmit_rejects (hsome : s.partOf m.cid 12 = some [0]) :
    approvalSubmit m s = (s.tokenRefused m, .why St.tokenInvalid 6) := by
  have hbad : (([0] : Bytes) == [1]) = false := rfl
  rw [approvalSubmit, href, State.tokenSigOk_there hsome, hbad]

end

/-- Settles O13, act by act: the acts on custodians and policies, then a pairing by the recipient of its key, its blob to be made or
there. -/
theorem custodianActs : Obligations.CustodianActs := by
  intro m s u c
  refine ⟨?enrols, ?removes, ?sets, ?wraps, ?pairs⟩
  case enrols =>
    intro t pos h hform ht hpos hfree hpad
    exact h.answers h.tenantAct rfl (custodianEnrol_enrols ht hpos hform hfree hpad) fun _ => rfl
  case removes =>
    intro t pos x v h hform ht hpos hx hv henough hpads
    exact h.answers h.tenantAct rfl (custodianRemove_removes ht hpos hform hx hv henough hpads) fun _ => rfl
  case sets =>
    intro k mask n t ten h hlen hk hn hmask ht hten hclass htenant hzero hlow henough hearly hlate hpad hfielded
    exact h.answers h.tenantAct rfl (quorumPolicySet_sets hlen hk hn hmask ht hten hclass htenant hzero hlow henough hearly hlate hpad
      hfielded) fun _ => rfl
  case wraps =>
    rintro p key h hp hport hzero hlen hitem hseeds rfl
    have hform := portPair_eq hp hport hzero hlen hitem hseeds
    refine ⟨fun x hsize htype hkek hroom => ?_, fun v x hsize htype hstart hroom hnone => ?_⟩
    · have hpair := (hform (.inl ⟨htype, hsize⟩)).trans (State.pairing_kek htype hkek)
      rw [State.lanePart_asks (j := blobJob c 1 x.wg [] _) h.partOf hroom] at hpair
      exact h.queues rfl (h.acts h.tenantAct hpair fun _ => rfl)
    · have hpair := (hform (.inr ⟨htype, hsize⟩)).trans (State.pairing_hybrid htype)
      rw [State.hybridSeal_asks h.partOf hstart hroom hnone] at hpair
      exact h.queues rfl (h.acts h.tenantAct hpair fun _ => rfl)
  case pairs =>
    intro w p blob hop hp hport hzero hlen hitem hseeds hblob
    have hform := portPair_eq hp hport hzero hlen hitem hseeds
    refine ⟨fun x hsize htype hkek => ?_, fun x hsize htype hstarted => ?_⟩
    · have hpair := (hform (.inl ⟨htype, hsize⟩)).trans (State.pairing_kek htype hkek)
      rw [State.lanePart_there (j := blobJob c 1 x.wg [] _) hblob] at hpair
      exact runsOn_tenant hop hpair fun _ => rfl
    · have hpair := (hform (.inr ⟨htype, hsize⟩)).trans (State.pairing_hybrid htype)
      rw [State.hybridSeal_there hstarted hblob] at hpair
      exact runsOn_tenant hop hpair fun _ => rfl

/-- Settles O14: a token by what its checks say, and by the verdict on its signature. -/
theorem approvals : Obligations.Approvals := by
  rintro m s u c n pos l rfl rfl rfl job refused
  refine ⟨fun h => ⟨fun href hprog => ?_, fun st why href => ?_⟩, fun hop => ⟨fun v href hpart hv => ?_, fun href hpart => ?_⟩⟩
  · exact h.queues rfl (h.acts h.tenantAct (approvalSubmit_asks href h.partOf hprog) fun _ => rfl)
  · exact h.replies rfl (h.acts h.tenantAct (approvalSubmit_refused href) fun _ => rfl)
  · subst hv
    exact runsOn_tenant hop (approvalSubmit_accepts href hpart) fun _ => rfl
  · exact runsOn_tenant hop (approvalSubmit_rejects href hpart) fun _ => rfl

end Sys2Proof.Machine
end

section
/-! SUPPORT and SETTLED. Acknowledging events (R290) and faults (R379). -/

namespace Sys2Proof.Machine

/-! ### QENG_EVENT_ACK (R290) -/

section
variable {s : State} {r : Requester} {n : Nat}

/-- QENG_EVENT_ACK is one field, which nobody but the PF may write (R290). -/
theorem fieldOpen_eventAck : ∀ x ∈ fieldsOf 0x50140, fieldOpen r x = pfWriter r := by
  have hfields : fieldsOf 0x50140 = [(⟨R.qengEventAckSource, .wo, .live, .value, 1, 0, .pfAndPairs⟩, R.qengEventAckSource)] := by decide
  simp [hfields, fieldOpen, R.qengEventAckSource]

/-- The PF's write passes. -/
theorem writeGate_eventAck (hpf : pfWriter r = true) : writeGate r (fieldsOf 0x50140) = .pass := by
  obtain ⟨x, hx⟩ : ∃ x, x ∈ fieldsOf 0x50140 := ⟨_, List.head_mem (by decide)⟩
  exact writeGate_pass hx ((fieldOpen_eventAck x hx).trans hpf)

/-- Another master's is DENIED, a custody pair's too, as the field is no RO one (R53). -/
theorem writeGate_eventAck_denied (hpf : pfWriter r = false) : writeGate r (fieldsOf 0x50140) = .denied := by
  have hclosed : (fieldsOf 0x50140).any (fieldOpen r) = false := by
    rw [List.any_eq_false]
    intro x hx
    simp [fieldOpen_eventAck x hx, hpf]
  have hwritable : (fieldsOf 0x50140).all (fun x => x.1.acc == .ro) = false := by decide
  simp [writeGate, hclosed, hwritable]

/-- A write to QENG_EVENT_ACK acknowledges the source that its low nine bits name. -/
theorem State.writeSlow_eventAck {v : Nat} : s.writeSlow r 0x50140 v = s.eventAck (field v 0 9) := by
  simp [State.writeSlow, blockOf, nthReg]

/-- QENG_EVENT_ACK by the PF that gets through. -/
theorem exec_qengEventAck_pf (h : s.writes32 r 0x50140) (hpf : pfWriter r = true) (hn : n < 512) :
    exec (.qengEventAck r n) s = .next ((s.noHalf r).eventAck n) := by
  have hsource : field (n % 2 ^ 32) 0 9 = n := by
    simp only [field, Nat.shiftRight_zero]
    omega
  show Host.Outcome.next (s.write r 0x50140 4 n true) = _
  rw [h.slow (writeGate_eventAck hpf), State.writeSlow_eventAck, hsource]

/-- QENG_EVENT_ACK by another master. -/
theorem exec_qengEventAck_denied (h : s.writes32 r 0x50140) (hpf : pfWriter r = false) :
    exec (.qengEventAck r n) s = .next ((s.noHalf r).accessErr r 4 0x50140 true) :=
  congrArg Host.Outcome.next (h.denied (writeGate_eventAck_denied hpf))

/-- A pending source is cleared, and pending again where its condition lasts (R290). -/
theorem State.eventAck_pending (h : s.eventPending n = true) :
    s.eventAck n = (let u := s.putBit (R.qengEventPendingPending (n / 32)) (n % 32) false
      if u.lasting n then u.raise n else u) := if_pos h

/-- A source that is not pending stays as it is. -/
theorem State.eventAck_quiet (h : s.eventPending n = false) : s.eventAck n = s :=
  if_neg (by simp [h])

end

/-! ### FAULT_ACK (R379) -/

section
variable {s : State} {r : Requester} {n v : Nat}

/-- The pairs, the debug master and the PF acknowledge faults (R379). -/
theorem writeGate_faultAck (hr : (custodyWriter r || pfWriter r) = true) : writeGate r (fieldsOf 0x2008C) = .pass := by
  have hmem : (⟨R.faultAckHard, .wo, .live, .value, 1, 0, .pfAndPairs⟩, R.faultAckHard) ∈ fieldsOf 0x2008C := by decide
  exact writeGate_pass hmem (by simpa [fieldOpen, R.faultAckHard, mayWrite, writesAt] using hr)

/-- A write to FAULT_ACK acknowledges what its bits name. -/
theorem State.writeSlow_faultAck : s.writeSlow r 0x2008C v = s.writeFaultAck v := by
  simp [State.writeSlow, blockOf, nthReg]

/-- A write to FAULT_ACK that gets through. -/
theorem State.writes32.faultAck (h : s.writes32 r 0x2008C) (hr : (custodyWriter r || pfWriter r) = true) (hv : v < 2 ^ 32) :
    s.write r 0x2008C 4 v true = (s.noHalf r).writeFaultAck v := by
  rw [h.slow (writeGate_faultAck hr), State.writeSlow_faultAck, Nat.mod_eq_of_lt hv]

/-- The bits of FAULT_ACK that name a HARD slot. -/
theorem faultAck_hardBits : ∀ n < 16, field (0x10 + n) 0 4 = n ∧ bitOf (0x10 + n) 4 = true ∧ bitOf (0x10 + n) 5 = false
    ∧ bitOf (0x10 + n) 6 = false := by decide

/-- HARD closes the slot that it names, and health follows (R379). -/
theorem State.writeFaultAck_hard (hn : n < 16) : s.writeFaultAck (0x10 + n) = (s.closeHard n).noteHealth := by
  obtain ⟨hslot, hhard, hminor, hsevere⟩ := faultAck_hardBits n hn
  simp [State.writeFaultAck, hslot, hhard, hminor, hsevere, State.ackHard, hn]

/-- MINOR alone acknowledges what was recorded of the minor classes. -/
theorem State.writeFaultAck_minor : s.writeFaultAck 0x20 = s.ackMinor := rfl

/-- SEVERE alone acknowledges what was recorded of SEVERE, and health follows. -/
theorem State.writeFaultAck_severe : s.writeFaultAck 0x40 = s.ackSevere := rfl

end

/-- Settles O39: an event's acknowledgment by who writes it and whether the source is pending, and a fault's by the bit that is written. -/
theorem acknowledgments : Obligations.Acknowledgments := by
  intro s r n t
  refine ⟨fun h hpf hn hpending => ?_, fun h hpf hn hquiet => ?_, exec_qengEventAck_denied, fun h hr => ⟨fun hn => ?_, ?_, ?_⟩⟩
  · rw [exec_qengEventAck_pf h hpf hn, State.eventAck_pending (s := s.noHalf r) hpending]
  · rw [exec_qengEventAck_pf h hpf hn, State.eventAck_quiet (s := s.noHalf r) hquiet]
  · have hslot : 0x10 + n % 16 = 0x10 + n := by rw [Nat.mod_eq_of_lt hn]
    show Host.Outcome.next (s.write r 0x2008C 4 (0x10 + n % 16) true) = _
    rw [hslot, h.faultAck hr (by omega), State.writeFaultAck_hard hn]
  · exact congrArg Host.Outcome.next (h.faultAck hr (v := 0x20) (by decide))
  · exact congrArg Host.Outcome.next (h.faultAck hr (v := 0x40) (by decide))

end Sys2Proof.Machine
end

section
/-! SUPPORT and SETTLED. Messages (R289, R292), arbitration rounds (R284, R288), and the device's host reads (R266, R272, R273). -/

namespace Sys2Proof.Machine

/-! ### Messages -/

/-- The coalescing timer of a CQ with unsignalled completions signals them (R292). -/
theorem exec_coalesceTimer_signals {s : State} {n : Nat} {c : Cq} (hc : look s.host.cqs n = some c) (htimer : c.timer = true)
    (hopen : c.unsignalled ≠ 0) : exec (.coalesceTimer n) s = .next (s.cqSignal n c) := by
  show execCoalesceTimer n s = _
  simp [execCoalesceTimer, hc, htimer, hopen]

/-- A held message leaves the PBA and goes out once its vector can send (R289). -/
theorem exec_msixPendingSend_sends {s : State} {fn vec : Nat} (hheld : s.host.pba.contains (fn * 2048 + vec) = true)
    (hsend : s.canSend fn vec = true) : exec (.msixPendingSend fn vec) s
      = .next (({ s with host.pba := s.host.pba.filter (· != fn * 2048 + vec) } : State).emit (.msix fn vec)) := by
  show execMsixPendingSend fn vec s = _
  rw [execMsixPendingSend, hheld, hsend, Bool.and_self, if_pos rfl]

/-! ### Arbitration rounds -/

/-- A round takes nothing: the queues or the ITU are quiesced, the queue engine is absent, or a live update waits (R288, R39). -/
def State.takesNothing (s : State) : Prop :=
  s.is (R.hdrCtrlQuiesce 0x50000) = true ∨ s.is (R.hdrCtrlQuiesce 0x60000) = true ∨ s.pwr.parts.qeng = true
    ∨ s.life.updating.isSome = true

section
variable {s : State}

/-- A round that takes nothing still reaches its boundary (R287). -/
theorem State.round_takesNothing (h : s.takesNothing) : s.round = (s.roundEnd.afterTake s.host.sqs).pump := by
  rw [State.takesNothing] at h
  simp only [State.round, if_pos h]

/-- So does one in which no queue is eligible; it is counted (R284). -/
theorem State.round_noneEligible (h : ¬ s.takesNothing) (horder : (s.incMod R.qengRoundsCount 1).order = none) :
    s.round = ((s.incMod R.qengRoundsCount 1).roundEnd.afterTake s.host.sqs).pump := by
  rw [State.takesNothing] at h
  simp only [State.round, if_neg h, horder]

/-- Any other passes over the queues in their order, before its boundary (R284). -/
theorem State.round_passes {n0 : Nat} {order : List Nat} (h : ¬ s.takesNothing)
    (horder : (s.incMod R.qengRoundsCount 1).order = some (n0, order)) :
    s.round = ((({ s.incMod R.qengRoundsCount 1 with host.lastStart := n0 } : State).passes order 1 255).roundEnd.afterTake
      s.host.sqs).pump := by
  rw [State.takesNothing] at h
  simp only [State.round, if_neg h, horder]

/-- ARBITRATION_ROUND is a round while die M runs and the queue engine's region is not in reset. -/
theorem exec_arbitrationRound (hruns : s.dieMRuns = true) (hreset : bitOf s.pwr.regionReset 6 = false) :
    exec .arbitrationRound s = .next s.round := by
  show execArbitrationRound s = _
  rw [execArbitrationRound, if_pos ⟨hruns, by rw [hreset]; rfl⟩]

end

/-! ### Host reads -/

/-- The state in which the access `id` no longer waits. -/
def State.endAccess (s : State) (id : Nat) : State :=
  { s with host.accesses := s.host.accesses.filter (fun b => b.id != id) }

section
variable {s : State} {id : Nat} {a : Access} (hfind : s.host.accesses.find? (fun a => a.id == id) = some a)
include hfind

/-- The data of a read goes where it was wanted (R272). -/
theorem State.readDone_data {bs : Bytes} (hlist : a.listOf = none) :
    s.readDone id (.data bs) = ((s.endAccess id).gotData a bs).pump := by
  unfold State.readDone
  rw [hfind]
  dsimp only
  rw [hlist, State.endAccess]

/-- A page-list entry enters the cache, and its access goes on: it waits for more (R273). -/
theorem State.readDone_list_waits {bs : Bytes} {win page : Nat} {u : State} (hlist : a.listOf = some (win, page))
    (hgo : ((s.endAccess id).fillTlb a.fn win page (le bs 0 8)).access a.fn a.addr a.len a.data a.purpose = (u, .waits)) :
    s.readDone id (.data bs) = u.pump := by
  rw [State.endAccess] at hgo
  unfold State.readDone
  rw [hfind]
  dsimp only
  rw [hlist]
  dsimp only
  rw [hgo]

/-- It is done: what it was for goes on (R273). -/
theorem State.readDone_list_done {bs : Bytes} {win page : Nat} {u : State} (hlist : a.listOf = some (win, page))
    (hgo : ((s.endAccess id).fillTlb a.fn win page (le bs 0 8)).access a.fn a.addr a.len a.data a.purpose = (u, .done)) :
    s.readDone id (.data bs) = (u.wrote a.purpose).pump := by
  rw [State.endAccess] at hgo
  unfold State.readDone
  rw [hfind]
  dsimp only
  rw [hlist]
  dsimp only
  rw [hgo]

/-- A read that fails ends what it was for (R266). -/
theorem State.readDone_failed : s.readDone id .failed = (s.readFailed id).pump := by
  unfold State.readDone
  rw [hfind]

/-- A failed read of data is a failed host read (R266). -/
theorem State.readFailed_data (hlist : a.listOf = none) :
    s.readFailed id = (s.endAccess id).accessFailed a.purpose 4 0x12 := by
  simp only [State.readFailed, hfind, hlist, State.endAccess]

/-- One of a page list is the translation fault LIST_READ (R273). -/
theorem State.readFailed_list (hlist : a.listOf ≠ none) :
    s.readFailed id = ((s.endAccess id).ituFault a.fn a.addr 4 a.data.isSome).accessFailed a.purpose 3 0x10 := by
  obtain ⟨entry, hentry⟩ := Option.ne_none_iff_exists'.1 hlist
  simp only [State.readFailed, hfind, hentry, State.endAccess]

end

/-- HOST_READ_COMPLETION is the end of its read. -/
theorem exec_hostReadCompletion (id : Nat) (r : HostData) (s : State) :
    exec (.hostReadCompletion id r) s = .next (s.readDone id r) := rfl

/-- HOST_READ_TIMEOUT is the failure of its read (R266). -/
theorem exec_hostReadTimeout (id : Nat) (s : State) : exec (.hostReadTimeout id) s = .next (s.readFailed id) := rfl

/-- Settles O46: the timer and the message, a round by what it can take, and a read by what came back and what it was for. -/
theorem queueTraffic : Obligations.QueueTraffic := by
  intro s n fn c a bs
  refine ⟨exec_coalesceTimer_signals, exec_msixPendingSend_sends, fun hruns hreset => ?_, fun hfind => ?_⟩
  · rw [exec_arbitrationRound hruns hreset]
    exact ⟨fun hoff => congrArg _ (State.round_takesNothing hoff),
      fun hon horder => congrArg _ (State.round_noneEligible hon horder),
      fun n0 order hon horder => congrArg _ (State.round_passes hon horder)⟩
  · rw [exec_hostReadCompletion, exec_hostReadCompletion, exec_hostReadTimeout, State.readDone_failed hfind]
    refine ⟨fun hlist => congrArg _ (State.readDone_data hfind hlist), fun win page u hlist => ⟨fun hgo => ?_, fun hgo => ?_⟩,
      fun hlist => ?_, fun hlist => congrArg _ (State.readFailed_data hfind hlist),
      fun hlist => congrArg _ (State.readFailed_list hfind hlist)⟩
    · exact congrArg _ (State.readDone_list_waits hfind hlist hgo)
    · exact congrArg _ (State.readDone_list_done hfind hlist hgo)
    · exact congrArg (fun t : State => Host.Outcome.next t.pump) (State.readFailed_data hfind hlist)

end Sys2Proof.Machine
end

section
/-! SUPPORT and SETTLED. The configuration loader (R270, R271, R275, R287, R288, R473). -/

namespace Sys2Proof.Machine

/-! ### A load that is asked for -/

/-- The state in which the load that the PF has asked for runs (R270). -/
def State.loadRuns (s : State) : State := (s.noHalf ⟨0x50, 0⟩).put R.qengLoadStatusRunning 1

/-- RUNNING stands apart from every function's state. -/
theorem State.fnEnabled_loadRuns (s : State) (fn : Nat) : s.loadRuns.fnEnabled fn = s.fnEnabled fn := by
  have hapart : (R.qengFnStateEnabled fn).key ≠ R.qengLoadStatusRunning.key := by
    simp only [Fld.key, R.qengFnStateEnabled, R.qengLoadStatusRunning]
    omega
  exact State.is_put_ne (s.noHalf ⟨0x50, 0⟩) _ _ 1 hapart

section
variable {s : State} (hidle : s.host.load = none) (hlink : s.hostThere 0 = true)
include hidle hlink

/-- With no other load running, a load acts at once where its checks pass, and one that they refuse changes nothing but the outcome
(R270). -/
theorem State.load_idle {object action index : Nat} {check : Option Nat} {apply : State → State} {table : List Window} :
    s.load object action index check apply table = match if s.get R.qengCfgBaseAddr = 0 then some 1 else check with
      | some r => { s.loadRuns with host.load := some ⟨object, action, index, some (2, r), []⟩ }
      | none => { apply s.loadRuns with host.load := some ⟨object, action, index, some (1, 0), table⟩ } := by
  have hmine : (s.noHalf ⟨0x50, 0⟩).host.load = none := hidle
  have hthere : ¬ (!s.hostThere 0) = true := by simp [hlink]
  have hfree : ¬ (!true) = true := Bool.false_ne_true
  simp only [State.load, hmine, if_neg hthere, if_neg hfree]
  rfl

/-- Without QENG_CFG_BASE it is refused with REASON 1. -/
theorem State.load_noBase {object action index : Nat} {check : Option Nat} {apply : State → State} {table : List Window}
    (hbase : s.get R.qengCfgBaseAddr = 0) : s.load object action index check apply table
      = { s.loadRuns with host.load := some ⟨object, action, index, some (2, 1), []⟩ } := by
  rw [State.load_idle hidle hlink, if_pos hbase]

variable (hbase : s.get R.qengCfgBaseAddr ≠ 0)
include hbase

/-- Where its checks pass it acts, and its outcome stands ready. -/
theorem State.load_passes {object action index : Nat} {check : Option Nat} {apply : State → State} {table : List Window}
    (hcheck : check = none) : s.load object action index check apply table
      = { apply s.loadRuns with host.load := some ⟨object, action, index, some (1, 0), table⟩ } := by
  rw [State.load_idle hidle hlink, if_neg hbase, hcheck]

/-- Where they refuse it, the REASON stands ready. -/
theorem State.load_refused {object action index r : Nat} {check : Option Nat} {apply : State → State} {table : List Window}
    (hcheck : check = some r) : s.load object action index check apply table
      = { s.loadRuns with host.load := some ⟨object, action, index, some (2, r), []⟩ } := by
  rw [State.load_idle hidle hlink, if_neg hbase, hcheck]

/-! ### The objects -/

variable {n : Nat}

/-- A function that is not enabled is enabled, with its mailbox (R270). -/
theorem State.functionLoad_enables {d : FnDesc} (hcheck : fnRefusal n (some d) = none) (hoff : s.fnEnabled n = false) :
    s.functionLoad n (some d) =
      let t := s.loadRuns
      { ((({ t with host.fns := store t.host.fns n d } : State).put (R.qengFnStateEnabled n) 1).setMboxEnabled n
        true).countObjects with host.load := some ⟨1, 1, n, some (1, 0), []⟩ } := by
  rw [State.functionLoad, State.load_passes hidle hlink hbase hcheck]
  simp only [State.fnEnabled_loadRuns, hoff, Bool.false_eq_true, if_false]

/-- One that is enabled takes its new values at the next round boundary (R287). -/
theorem State.functionLoad_again {d : FnDesc} (hcheck : fnRefusal n (some d) = none) (hon : s.fnEnabled n = true) :
    s.functionLoad n (some d) =
      let t := s.loadRuns
      { t with
        host.inflightNext := store t.host.inflightNext n d
        host.load := some ⟨1, 1, n, some (1, 0), []⟩ } := by
  rw [State.functionLoad, State.load_passes hidle hlink hbase hcheck]
  simp only [State.fnEnabled_loadRuns, hon, if_true]

/-- A function without queues is disabled (R271). -/
theorem State.functionDisable_disables (hon : s.fnEnabled n = true) (hqueues : s.holdsQueues n = false) :
    s.functionDisable n =
      { (s.loadRuns.put (R.qengFnStateEnabled n) 0).countObjects with host.load := some ⟨1, 2, n, some (1, 0), []⟩ } :=
  State.load_passes hidle hlink hbase (by simp [hon, hqueues])

/-- One that holds queues is refused (R271). -/
theorem State.functionDisable_holds (hon : s.fnEnabled n = true) (hqueues : s.holdsQueues n = true) :
    s.functionDisable n = { s.loadRuns with host.load := some ⟨1, 2, n, some (2, 8), []⟩ } :=
  State.load_refused hidle hlink hbase (by simp [hon, hqueues])

/-- An enabled SQ is stopped (R288). -/
theorem State.sqDisable_stops (hon : s.get (R.qengSqStateState n) ≠ 0) :
    s.sqDisable n = { s.loadRuns.stopSq n with host.load := some ⟨2, 2, n, some (1, 0), []⟩ } :=
  State.load_passes hidle hlink hbase (if_neg hon)

/-- A CQ that no SQ names is stopped (R271). -/
theorem State.cqDisable_stops (hon : s.get (R.qengCqStateState n) ≠ 0)
    (hfree : s.host.sqs.any (fun q => q.2.desc.cq == n && s.get (R.qengSqStateState q.1) != 0) = false) :
    s.cqDisable n = { s.loadRuns.stopCq n with host.load := some ⟨3, 2, n, some (1, 0), []⟩ } :=
  State.load_passes hidle hlink hbase (by simp only [if_neg hon, hfree, Bool.false_eq_true, if_false])

end

/-- What is left of an SQ that stops: its prefetched entries are dropped (R279, R288). -/
theorem State.stopSq_there {s : State} {n : Nat} {q : Sq} (hq : look s.host.sqs n = some q) :
    s.stopSq n = ((s.setSq n { q with entries := [], next := q.cons, headerRead := false, headerAgain := false }).put
      (R.qengSqStateState n) 0).countObjects := by
  rw [State.stopSq, hq]

/-! ### The end of a load -/

/-- The state once a load shows RESULT and REASON and ends RUNNING, with source 83 raised (R270). -/
def State.showLoad (s : State) (result reason : Nat) : State :=
  (((({ s with host.load := none } : State).put R.qengLoadStatusRunning 0).put R.qengLoadStatusResult result).put
    R.qengLoadStatusReason reason).incMod R.qengLoadStatusLoads 1 |>.raise 83

section
variable {s : State} {l : Load} {result reason : Nat} (hload : s.host.load = some l) (hout : l.decided = some (result, reason))
include hload hout

/-- A decided load ends, unless it has passed and its drain lasts; the windows of one that replaces them change with it (R270,
R275). -/
theorem State.loadDone_decided : s.loadDone = if result = 1 ∧ (!s.loadDrained l) = true then s
    else (if result = 1 ∧ (l.object = 4 ∨ (l.object = 1 ∧ l.action = 2)) then s.setWindows l.index l.table else s).showLoad
      result reason := by
  simp only [State.loadDone, hload, hout]
  rfl

/-- A load that has passed waits for its drain (R288). -/
theorem State.loadDone_waits (hpassed : result = 1) (hdrain : s.loadDrained l = false) : s.loadDone = s := by
  rw [State.loadDone_decided hload hout, if_pos ⟨hpassed, by rw [hdrain]; rfl⟩]

/-- A load of a window table, or the end of a function, replaces the function's windows once the drain has ended (R275). -/
theorem State.loadDone_windows (hpassed : result = 1) (hdrain : s.loadDrained l = true)
    (hkind : l.object = 4 ∨ (l.object = 1 ∧ l.action = 2)) :
    s.loadDone = (s.setWindows l.index l.table).showLoad result reason := by
  have hended : ¬ (result = 1 ∧ (!s.loadDrained l) = true) := by simp [hdrain]
  rw [State.loadDone_decided hload hout, if_neg hended, if_pos ⟨hpassed, hkind⟩]

/-- Any other load that has passed leaves them. -/
theorem State.loadDone_plain (hdrain : s.loadDrained l = true) (hkind : ¬ (l.object = 4 ∨ (l.object = 1 ∧ l.action = 2))) :
    s.loadDone = s.showLoad result reason := by
  have hended : ¬ (result = 1 ∧ (!s.loadDrained l) = true) := by simp [hdrain]
  rw [State.loadDone_decided hload hout, if_neg hended, if_neg fun h => hkind h.2]

/-- A refused load shows its outcome alone, whether or not a drain lasts. -/
theorem State.loadDone_refused (hrefused : result ≠ 1) : s.loadDone = s.showLoad result reason := by
  rw [State.loadDone_decided hload hout, if_neg fun h => hrefused h.1, if_neg fun h => hrefused h.1]

end

/-- LOAD_DONE is the end of the load under way. -/
theorem exec_loadDone (s : State) : exec .loadDone s = .next s.loadDone := rfl

/-- Settles O47: each object's load or disable by what its checks say, and the end of a load by its outcome and its drain. -/
theorem configurationLoader : Obligations.ConfigurationLoader := by
  refine ⟨fun s n hidle hlink => ?_, fun s l result reason hload hout => ?_⟩
  · intro t ready
    refine ⟨fun hbase => ⟨fun d hcheck hoff => ?_, fun d hcheck hon => ?_, fun hon hqueues => ?_, fun hon hqueues => ?_,
      fun d hcheck => ?_, fun q hon hq => ?_, fun d hcheck => ?_, fun hon hfree => ?_, fun w hcheck => ?_, fun hon => ?_⟩,
      fun hbase => ?_⟩
    · exact congrArg Host.Outcome.next (State.functionLoad_enables hidle hlink hbase hcheck hoff)
    · exact congrArg Host.Outcome.next (State.functionLoad_again hidle hlink hbase hcheck hon)
    · exact congrArg Host.Outcome.next (State.functionDisable_disables hidle hlink hbase hon hqueues)
    · exact congrArg Host.Outcome.next (State.functionDisable_holds hidle hlink hbase hon hqueues)
    · exact congrArg Host.Outcome.next (State.load_passes hidle hlink hbase hcheck)
    · have hq' : look s.loadRuns.host.sqs n = some q := hq
      refine congrArg Host.Outcome.next ((State.sqDisable_stops hidle hlink hbase hon).trans ?_)
      rw [State.stopSq_there hq']
      rfl
    · exact congrArg Host.Outcome.next (State.load_passes hidle hlink hbase hcheck)
    · exact congrArg Host.Outcome.next (State.cqDisable_stops hidle hlink hbase hon hfree)
    · exact congrArg Host.Outcome.next (State.load_passes hidle hlink hbase hcheck)
    · exact congrArg Host.Outcome.next (State.load_passes hidle hlink hbase (by simp [hon]))
    · exact congrArg Host.Outcome.next (State.load_noBase hidle hlink hbase)
  · intro done
    rw [exec_loadDone]
    refine ⟨fun hpassed hdrain hkind => ?_, fun _ hdrain htable hends => ?_, fun hpassed hdrain => ?_, fun hrefused => ?_⟩
    · exact congrArg _ (State.loadDone_windows hload hout hpassed hdrain hkind)
    · exact congrArg _ (State.loadDone_plain hload hout hdrain (not_or.2 ⟨htable, hends⟩))
    · exact congrArg _ (State.loadDone_waits hload hout hpassed hdrain)
    · exact congrArg _ (State.loadDone_refused hload hout hrefused)

end Sys2Proof.Machine
end

section
/-! SUPPORT and SETTLED. Function-level resets, VF Enable and the link (R265, R267, R268, R423, R473). -/

namespace Sys2Proof.Machine

/-! ### Resets of functions -/

section
variable {s : State}

/-- A VF_FLR that comes over the link resets a VF that exists (R268). -/
theorem exec_vfFlr_there {fn : Nat} (hthere : s.hostThere 0 = true) (hfirst : 1 ≤ fn) (hlast : fn ≤ 255) (hon : s.pwr.vfEnable = true)
    (hexists : fn ≤ s.pwr.numVfs) : exec (.vfFlr fn) s = .next (s.flrVf fn) := by
  show execVfFlr fn s = _
  rw [execVfFlr, if_pos ⟨hthere, hfirst, hlast, hon, hexists⟩]

/-- None comes over a link that is down (R473). -/
theorem exec_vfFlr_away {fn : Nat} (haway : s.hostThere 0 = false) : exec (.vfFlr fn) s = .next s := by
  show execVfFlr fn s = _
  rw [execVfFlr, if_neg fun h => Bool.false_ne_true (haway.symm.trans h.1)]

/-- A PF_FLR that comes over the link is one of the whole device (R268). -/
theorem exec_pfFlr_there (hthere : s.hostThere 0 = true) : exec .pfFlr s = .next s.flrPf := by
  show execPfFlr s = _
  rw [execPfFlr, if_pos hthere]

/-- None comes over a link that is down (R473). -/
theorem exec_pfFlr_away (haway : s.hostThere 0 = false) : exec .pfFlr s = .next s := by
  show execPfFlr s = _
  rw [execPfFlr, haway, if_neg Bool.false_ne_true]

/-! ### VF Enable and NumVFs (R267, R268) -/

/-- Clearing VF Enable resets every VF that exists (R268). -/
theorem State.setVfs_clear {num : Nat} (hnum : num ≤ 255) :
    s.setVfs false num = { s.liveVfs.foldl (fun t f => t.flrVf f) s with pwr.vfEnable := false, pwr.numVfs := num } := by
  have hgone : s.liveVfs.filter (fun f => !false || decide (f > num)) = s.liveVfs := List.filter_eq_self.2 fun _ _ => rfl
  simp only [State.setVfs, hgone, Nat.min_eq_left hnum]
  rfl

/-- Setting it brings up NumVFs VFs, each with its mailbox (R267). -/
theorem State.setVfs_set {num : Nat} (hnum : num ≤ 255) (hoff : s.pwr.vfEnable = false) :
    s.setVfs true num = (List.range num).foldl (fun t f => t.setMboxEnabled (f + 1) true)
      ({ s with pwr.vfEnable := true, pwr.numVfs := num } : State) := by
  have hnone : s.liveVfs = [] := if_neg (by simp [hoff])
  have hlive : ({ s with pwr.vfEnable := true, pwr.numVfs := num } : State).liveVfs = (List.range num).map (· + 1) := if_pos rfl
  simp only [State.setVfs, hnone, List.filter_nil, List.foldl_nil, Nat.min_eq_left hnum, hlive, List.foldl_map]

/-- The write of VF Enable and NumVFs comes over the link (R473). -/
theorem exec_vfDisable_there {on : Bool} {num : Nat} (hthere : s.hostThere 0 = true) :
    exec (.vfDisable on num) s = .next (s.setVfs on num) := by
  show execVfDisable on num s = _
  rw [execVfDisable, if_pos hthere]

/-- None comes over a link that is down (R473). -/
theorem exec_vfDisable_away {on : Bool} {num : Nat} (haway : s.hostThere 0 = false) : exec (.vfDisable on num) s = .next s := by
  show execVfDisable on num s = _
  rw [execVfDisable, haway, if_neg Bool.false_ne_true]

/-- The fall of the link resets every function as a PF FLR does (R265). -/
theorem exec_linkReset : exec .linkReset s = .next { s.flrPf with pwr.link := false } := rfl

/-! ### The link's rise -/

/-- The state once the link is trained, with the lanes that it dropped (R27) and the BAR registers that the host sets (R45). -/
def State.linkTrained (s : State) (dropped bar vfBar : Nat) : State :=
  ({ s with pwr.link := true, pwr.parts.pcie := dropped, pwr.bar0 := bar, pwr.vfBar0 := vfBar } : State).showParts

/-- A follower's link to a host never trains (R423). -/
theorem exec_linkUp_follower {dropped bar vfBar : Nat} (hrole : s.get R.ferryStatusRole = 2) :
    exec (.linkUp dropped bar vfBar) s = .next s := by
  show execLinkUp s dropped bar vfBar = _
  rw [execLinkUp, if_pos (.inr (.inr hrole))]

section
variable {dropped bar vfBar : Nat} (hmain : s.pwr.main = true) (hporst : s.pwr.porstN = true) (hrole : s.get R.ferryStatusRole ≠ 2)
include hmain hporst hrole

/-- A device that runs and is no follower sees its link rise; without a role it becomes the front device (R423). -/
theorem exec_linkUp_rises : exec (.linkUp dropped bar vfBar) s = .next (let up := s.linkTrained dropped bar vfBar
    if up.get R.ferryStatusRole = 0 then (up.put R.ferryStatusRole 1).discoverAll else up) := by
  have hruns : ¬ ((!s.pwr.main) = true ∨ (!s.pwr.porstN) = true ∨ s.get R.ferryStatusRole = 2) := by simp [hmain, hporst, hrole]
  show execLinkUp s dropped bar vfBar = _
  rw [execLinkUp, if_neg hruns]
  rfl

/-- A device with a role keeps it. -/
theorem exec_linkUp_keeps (hhas : (s.linkTrained dropped bar vfBar).get R.ferryStatusRole ≠ 0) :
    exec (.linkUp dropped bar vfBar) s = .next (s.linkTrained dropped bar vfBar) :=
  (exec_linkUp_rises hmain hporst hrole).trans (congrArg _ (if_neg hhas))

/-- One without becomes the front device, and looks for its followers (R423). -/
theorem exec_linkUp_front (hnone : (s.linkTrained dropped bar vfBar).get R.ferryStatusRole = 0) :
    exec (.linkUp dropped bar vfBar) s = .next ((s.linkTrained dropped bar vfBar).put R.ferryStatusRole 1).discoverAll :=
  (exec_linkUp_rises hmain hporst hrole).trans (congrArg _ (if_pos hnone))

end

end

/-- Settles O48: the resets and VF Enable by whether the host reaches the device, and the link by the device's role. -/
theorem functionResets : Obligations.FunctionResets := by
  intro s fn flr pf
  have hflr : flr = State.flrVf := rfl
  have hpf : s.flrPf = pf := by simp only [State.flrPf, pf, hflr]
  clear_value pf
  subst hpf
  refine ⟨fun hthere => ⟨fun hfirst hlast hon hexists => ?_, exec_pfFlr_there hthere, fun num hnum => ?_, fun num hnum hoff => ?_⟩,
    fun haway => ⟨exec_vfFlr_away haway, exec_pfFlr_away haway, fun on num => exec_vfDisable_away haway⟩, exec_linkReset,
    fun dropped bar vfBar hmain hporst => ⟨exec_linkUp_keeps hmain hporst, exec_linkUp_front hmain hporst, exec_linkUp_follower⟩⟩
  · exact exec_vfFlr_there hthere hfirst hlast hon hexists
  · rw [exec_vfDisable_there hthere, State.setVfs_clear hnum, hflr]
  · rw [exec_vfDisable_there hthere, State.setVfs_set hnum hoff]

end Sys2Proof.Machine
end

section
/-! SUPPORT and SETTLED. The commands on time (R298, R306 to R308, R310, R311, R313). -/

namespace Sys2Proof.Machine

section
variable {m : Msg} {s : State}

/-- TIME_GET without a payload reads the stamp and the anchor out (Table CT.5). -/
theorem timeGet_reads (h : m.payloadLen = 0) :
    timeGet m s = (s.stamped, .okay (leBytes 12 s.stamp
      ++ leBytes 1 (s.get R.compassStatusAligned + 2 * s.get R.compassStatusAnchorHeld + 4 * s.get R.compassStatusClockDisagree)
      ++ leBytes 1 s.nominalHz ++ leBytes 2 0 ++ leBytes 4 s.period ++ leBytes 4 (s.get R.compassAnchorSerialSerial)
      ++ leBytes 8 (s.get R.compassAnchorCycleCycle) ++ leBytes 8 (s.get R.compassAnchorUtcUtcNs)
      ++ leBytes 8 (s.get R.compassRunStartCycle))) := if_neg (by simp [h])

/-! ### ANCHOR_LOAD (R306 to R308) -/

section
variable (href : s.anchorRefusal m.payload m.payloadLen = none)
include href

/-- An anchor that no check refuses has its signature verified (R306). -/
theorem anchorLoad_asks (hnone : s.partOf m.cid 12 = none)
    (hprog : s.hasProgram (s.tokenSigJob m 64 (ascii "FV64-ANCHOR")).prog = true) :
    anchorLoad m s = (s.submitPke { s.tokenSigJob m 64 (ascii "FV64-ANCHOR") with part := 12, own := true }, .engine) := by
  rw [anchorLoad, href, State.tokenSigOk_asks hnone hprog]

/-- With a good signature it takes effect. -/
theorem anchorLoad_accepts (hsome : s.partOf m.cid 12 = some [1]) : anchorLoad m s = (s.anchorTaken m.payload, .of St.ok) := by
  rw [anchorLoad, href, State.tokenSigOk_there hsome, beq_self_eq_true]

end

/-- The state that holds the anchor `p` (R308). -/
def State.holdingAnchor (s : State) (p : Bytes) : State :=
  (((s.put R.compassAnchorSerialSerial (le p 4 4)).put R.compassAnchorCycleCycle (le p 8 8)).put R.compassAnchorUtcUtcNs
    (le p 16 8)).put R.compassStatusAnchorHeld 1

/-- An anchor that aligns does so at once where the grid and the local count agree, and asks for a step where they do not (R308). -/
theorem State.anchorTaken_eq (p : Bytes) :
    s.anchorTaken p =
      let v := s.holdingAnchor p
      ((if bitOf (le p 2 1) 0 = false then v
        else if le p 8 8 - le p 32 8 = 0 then v.put R.compassStatusAligned 1
        else ({ v with compass.stepDue := le p 8 8 - le p 32 8 } : State).put R.compassStatusStepDue 1).compassEvent 3 0 0 0).raise 5 := by
  simp only [State.anchorTaken, State.holdingAnchor, Bool.not_eq_true']

/-! ### WAYPOINT_SET and WAYPOINT_CLEAR (R310, R311) -/

/-- The waypoint that WAYPOINT_SET's payload describes (Table CT.6). -/
def waypointOf (p : Bytes) : Waypoint :=
  ⟨le p 1 1, bitOf (le p 2 1) 0, bitOf (le p 2 1) 1, le p 4 2, le p 6 6, le p 12 4, le p 16 4, slice p 20 44, false⟩

/-- The state with the waypoint of the payload `p` armed, and its SQ held where its action is COMMAND (Table CT.7). -/
def State.waypointArmed (s : State) (p : Bytes) : State :=
  let n := le p 0 1
  (({ s with
    compass.waypoints := store s.compass.waypoints n (waypointOf p)
    compass.holds := if le p 1 1 = 2 then store s.compass.holds n (le p 20 2) else drop s.compass.holds n } :
      State).dropReleased).setArmed n true

/-- A waypoint's instant is reached by the count, or in its tick by the phase (R311). -/
theorem State.wpPassed_iff {w : Waypoint} :
    s.wpPassed w = true ↔ w.cycle < s.compass.count ∨ w.cycle = s.compass.count ∧ w.phase ≤ s.compass.lastPhase := by
  simp [State.wpPassed]

/-- WAYPOINT_SET in its form arms its waypoint (R310). -/
theorem waypointSet_ahead (hform : waypointOk m.payload m.payloadLen = true)
    (hahead : ¬ s.wpPassed (waypointOf m.payload) = true) : waypointSet m s = (s.waypointArmed m.payload, .of St.ok) := by
  have harmed : ¬ (s.waypointArmed m.payload).wpPassed (waypointOf m.payload) = true := hahead
  rw [waypointSet, if_neg (by simp [hform])]
  exact congrArg (·, Resp.of St.ok) (if_neg harmed)

/-- One that is set for an instant that has passed fires at once, LATE (R311). -/
theorem waypointSet_late (hform : waypointOk m.payload m.payloadLen = true)
    (hpassed : s.wpPassed (waypointOf m.payload) = true) :
    waypointSet m s =
      let v := s.waypointArmed m.payload
      let n := le m.payload 0 1
      (({ v with compass.waypoints := store v.compass.waypoints n { waypointOf m.payload with late := true } } : State).fireWaypoint n,
        .of St.ok) := by
  have harmed : (s.waypointArmed m.payload).wpPassed (waypointOf m.payload) = true := hpassed
  rw [waypointSet, if_neg (by simp [hform])]
  exact congrArg (·, Resp.of St.ok) (if_pos harmed)

/-- WAYPOINT_CLEAR disarms its waypoint and lifts its hold (R310). -/
theorem waypointClear_clears (hlen : m.payloadLen = 1) :
    waypointClear m s =
      let n := le m.payload 0 1
      (({ s with
        compass.waypoints := drop s.compass.waypoints n
        compass.holds := drop s.compass.holds n } : State).dropReleased.setArmed n false, .of St.ok) := if_neg (by simp [hlen])

/-! ### MAINS_NOMINAL_SET (R313) -/

/-- A limited change whose counter has room, with a good sample of the hold-up supply, is not refused (R407). -/
theorem State.limitRefusal_none {f : Fld} {n : Nat} (hroom : s.get f < n) (hsample : s.holdup = true) : s.limitRefusal f n = none := by
  rw [State.limitRefusal, if_neg (Nat.not_le.2 hroom), hsample]
  rfl

/-- MAINS_NOMINAL_SET burns its row, and alignment and anchor end with the old frequency (R313). -/
theorem mainsNominalSet_sets {hz : Nat} (hlen : m.payloadLen = 1) (hhz : hz = le m.payload 0 1) (hknown : hz = 50 ∨ hz = 60)
    (hroom : s.get R.lifeLimits0Nominal < 4) (hsample : s.holdup = true) :
    mainsNominalSet m s =
      let v := ({ s with life.nominals := s.life.nominals ++ [hz] } : State).limitUsed R.lifeLimits0Nominal 2
      ((((v.put R.compassStatusNominal (if hz = 60 then 2 else 1)).put R.compassStatusChanges (v.get R.lifeLimits0Nominal)).put
        R.compassStatusAligned 0).put R.compassStatusAnchorHeld 0, .of St.ok) := by
  subst hhz
  rw [mainsNominalSet, if_neg (by omega), State.limitRefusal_none hroom hsample]

end

/-- Settles O16, act by act: an anchor by whether the verdict on its signature is there, a waypoint by whether its instant has passed. -/
theorem timeCommands : Obligations.TimeCommands := by
  intro m s u c
  refine ⟨?reads, ?asks, ?accepts, ?sets, ?clears, ?burns⟩
  case reads =>
    intro h hlen
    exact h.answers h.tenantAct rfl (timeGet_reads hlen) fun _ => rfl
  case asks =>
    rintro job l h href rfl rfl hprog
    exact h.queues rfl (h.acts h.tenantAct (anchorLoad_asks href h.partOf hprog) fun _ => rfl)
  case accepts =>
    rintro v hop href hpart rfl
    exact runsOn_tenant hop ((anchorLoad_accepts href hpart).trans (by rw [State.anchorTaken_eq]; rfl)) fun _ => rfl
  case sets =>
    rintro n a x v h hform rfl rfl rfl rfl
    refine ⟨fun hahead => ?_, fun hpassed => ?_⟩
    · have hopen : ¬ u.wpPassed (waypointOf c.payload) = true := mt State.wpPassed_iff.1 hahead
      exact h.answers h.tenantAct rfl (waypointSet_ahead hform hopen) fun _ => rfl
    · have hdone : u.wpPassed (waypointOf c.payload) = true := State.wpPassed_iff.2 hpassed
      exact h.answers h.tenantAct rfl (waypointSet_late hform hdone) fun _ => rfl
  case clears =>
    rintro n h hlen rfl
    exact h.answers h.tenantAct rfl (waypointClear_clears hlen) fun _ => rfl
  case burns =>
    rintro hz v h hlen hhz hknown hroom hsample rfl
    exact h.answers h.tenantAct rfl (mainsNominalSet_sets hlen hhz hknown hroom hsample) fun _ => rfl

end Sys2Proof.Machine
end

section
/-! SUPPORT and SETTLED. Compass's crossings, ticks, starts and waypoints (R295 to R298, R300 to R303, R308, R310 to R312, R314). -/

namespace Sys2Proof.Machine

section
variable {s : State}

/-! ### Crossings (R295 to R298) -/

/-- A tracked period exists in no state but LOCKED, HOLDOVER and STEP (R296). -/
theorem State.cstate_ne_zero_of_tracked (h : s.tracked = true) : s.cstate ≠ 0 := by
  simp only [State.tracked, ge_iff_le, decide_eq_true_eq] at h
  omega

/-- A crossing comes far before its time where a period is tracked and less than 0.98 of it has passed (R296). -/
theorem State.not_far_before {t : Nat} (h : s.tracked = false ∨ 49 * s.period ≤ 50 * t) :
    ¬ (s.tracked && decide (50 * t < 49 * s.period)) = true := by
  rw [Bool.and_eq_true, decide_eq_true_eq]
  rintro ⟨htracked, hearly⟩
  rcases h with h | h
  · exact Bool.false_ne_true (h.symm.trans htracked)
  · omega

/-- The tick of a cycle that ends in LOCKED or STEP, which the first two bad cycles of a run keep (R297). -/
theorem State.crossingTick_eq (at_ : Nat) (valid : Bool) :
    s.crossingTick at_ valid =
      if (s.cstate = 2 ∨ s.cstate = 4) ∧ s.compass.ticked = false ∧ (valid = true ∨ s.compass.badRun < 2) then s.cycleTick at_
      else s := by
  simp only [State.crossingTick, Bool.not_eq_true']

/-- When the tick of a cycle that a crossing ends after `t` falls: at the expected instant where that has passed (R297). -/
def State.tickTime (s : State) (t : Nat) : Nat :=
  if s.tracked = true ∧ s.compass.cycleAt + s.period < s.compass.cycleAt + t then s.compass.cycleAt + s.period else s.compass.cycleAt + t

section
variable {t : Nat} {negs : List Nat} (hruns : s.compass.running = true)
include hruns

/-- The first crossing in ABSENT begins an acquisition (R300). -/
theorem State.crossing_begins (hstate : s.cstate = 0) :
    s.crossing t negs = ((({ s with
      compass.badRun := 0
      compass.estimate := 0
      compass.errors := [] } : State).put R.compassStatusValidRun 0).enter 1).newCycle (s.compass.cycleAt + t) := by
  rw [State.crossing, if_neg (by simp [hruns])]
  exact if_pos hstate

/-- A crossing far before its time taints the cycle (R296). -/
theorem State.crossing_taints (htracked : s.tracked = true) (hearly : 50 * t < 49 * s.period) :
    s.crossing t negs = { s with compass.discarded := true } := by
  rw [State.crossing, if_neg (by simp [hruns])]
  exact (if_neg (State.cstate_ne_zero_of_tracked htracked)).trans (if_pos (by simp [htracked, hearly]))

variable (hstate : s.cstate ≠ 0) (htime : s.tracked = false ∨ 49 * s.period ≤ 50 * t)
include hstate htime

/-- Any other ends the cycle, with its tick: a valid cycle feeds the loop and its run, a bad one counts (R296 to R298). -/
theorem State.crossing_ends :
    s.crossing t negs =
      let now := s.compass.cycleAt + t
      let ticked := s.crossingTick (s.tickTime t) (s.validCycle t negs)
      ((if s.validCycle t negs = true then (ticked.loop t now).validDone now
        else ((ticked.incSat R.compassCountsImplausible).compassEvent 6 0 0 0).badCycle).newCycle now).uncertNow := by
  rw [State.crossing, if_neg (by simp [hruns])]
  exact (if_neg hstate).trans (if_neg (State.not_far_before htime))

/-- A valid cycle. -/
theorem State.crossing_valid (hvalid : s.validCycle t negs = true) :
    s.crossing t negs =
      let now := s.compass.cycleAt + t
      ((((s.crossingTick (s.tickTime t) true).loop t now).validDone now).newCycle now).uncertNow := by
  rw [State.crossing_ends hruns hstate htime, hvalid]
  rfl

/-- An implausible one. -/
theorem State.crossing_bad (hbad : s.validCycle t negs = false) :
    s.crossing t negs =
      (((((s.crossingTick (s.tickTime t) false).incSat R.compassCountsImplausible).compassEvent 6 0 0 0).badCycle).newCycle
        (s.compass.cycleAt + t)).uncertNow := by
  rw [State.crossing_ends hruns hstate htime, hbad]
  rfl

omit htime

/-- A missing crossing ends the cycle as a bad one, at its expected instant or 29.762 ms after its start (R296). -/
theorem State.missing_ends :
    s.missing =
      let late := s.compass.cycleAt + (if s.tracked then s.period else missingAfter)
      ((((s.crossingTick late false).incSat R.compassCountsMissing).badCycle).newCycle late).uncertNow :=
  if_neg (by simp [hruns, hstate])

end

/-! ### Ticks (R297, R301) -/

/-- The state after an extrapolated tick of HOLDOVER (R301). -/
def State.heldTick (s : State) : State :=
  ({ s with
    compass.tickAt := s.compass.tickAt + s.period
    compass.heldTicks := s.compass.heldTicks + 1 } : State).tick1.uncertNow

section
variable (hruns : s.compass.running = true)
include hruns

/-- ABSENT and ACQUIRING tick every 20 ms. -/
theorem State.compassTick_free (hstate : s.cstate ≤ 1) :
    s.compassTick = ({ s with compass.tickAt := s.compass.tickAt + tick20ms } : State).tick1 := by
  rw [State.compassTick, if_neg (by simp [hruns]), if_pos hstate]

/-- HOLDOVER ticks by extrapolation, until its uncertainty has no bound (R301). -/
theorem State.compassTick_held (hstate : s.cstate = 3) :
    s.compassTick = if s.heldTick.get R.compassQualityUncert = 0xFFF then s.heldTick.enterAbsent else s.heldTick := by
  rw [State.compassTick, if_neg (by simp [hruns]), if_neg (by omega), if_pos hstate]
  rfl

/-- LOCKED and STEP tick at the expected instant of a cycle whose tick has not come. -/
theorem State.compassTick_cycle (hstate : s.cstate = 2 ∨ s.cstate = 4) (hdue : s.compass.ticked = false) :
    s.compassTick = s.cycleTick (s.compass.cycleAt + s.period) := by
  rw [State.compassTick, if_neg (by simp [hruns]), if_neg (by omega), if_neg (by omega), if_neg (by simp [hdue])]

end

/-! ### Starts and clock checks (R302, R314) -/

/-- A start while the main supply stands goes on from the held count plus 1 (R302). -/
theorem State.compassStart_goesOn {elapsed : Nat} (hoff : s.compass.running = false) (hmain : s.pwr.main = true) :
    s.compassStart elapsed =
      let begun : CompassSt := { s.compass with
        running := true
        count := (s.get R.compassHeldCycle + 1) % 2 ^ 48
        lastPhase := 0
        seq := 0
        cycleAt := elapsed
        tickAt := elapsed
        ticked := false
        discarded := false
        badRun := 0
        estimate := 0
        span := 0
        errors := []
        u0 := 0
        heldTicks := 0
        eBase := s.get R.compassHeldCycle
        uBase := 0
        stepDue := 0
        stepTicks := 0 }
      ((((({ s with compass := begun } : State).put R.compassStatusState 0).put R.compassHeldCycle (s.get R.compassHeldCycle + 1)).put
        R.compassStatusValidRun 0).put R.compassPeriodPeriod 0).put R.compassQualityUncert 0xFFF :=
  if_neg (by simp [hoff, hmain])

/-- The state that a first check past 200 ppm reports (R314). -/
def State.clocksApart (s : State) : State :=
  ((({ s with compass.agreeRun := 0 } : State).put R.compassStatusClockDisagree 1).compassEvent 5 0 0 0).report
    (plainFault 3 (locM 0xF 32 0xF) 4 5)

section
variable {ppm : Nat} (hruns : s.compass.running = true)
include hruns

/-- More than 200 ppm is a disagreement, which ends HOLDOVER. -/
theorem State.crossCheck_apart (hfar : 200 < ppm) (hnew : s.is R.compassStatusClockDisagree = false) :
    s.crossCheck ppm = if s.cstate = 3 then s.clocksApart.enterAbsent else s.clocksApart := by
  have hnew' : ¬ ({ s with compass.agreeRun := 0 } : State).is R.compassStatusClockDisagree = true := Bool.eq_false_iff.1 hnew
  rw [State.crossCheck, if_neg (by simp [hruns]), if_pos hfar]
  exact congrArg (fun t : State => if s.cstate = 3 then t.enterAbsent else t) (if_neg hnew')

/-- The third good check in a row ends it. -/
theorem State.crossCheck_agrees (hnear : ppm ≤ 200) :
    s.crossCheck ppm =
      let agreed : State := { s with compass.agreeRun := s.compass.agreeRun + 1 }
      if 2 ≤ s.compass.agreeRun then agreed.put R.compassStatusClockDisagree 0 else agreed := by
  have hthird : s.compass.agreeRun + 1 ≥ 3 ↔ 2 ≤ s.compass.agreeRun := by omega
  rw [State.crossCheck, if_neg (by simp [hruns]), if_neg (Nat.not_lt.2 hnear)]
  simp only [hthird]

end

/-! ### Waypoints (R310 to R312) -/

/-- A firing is recorded: WP_FIRE, its count and its event source (R311). -/
def State.firingRecorded (u : State) (n : Nat) (w : Waypoint) : State :=
  ((u.sqcEvent R.compassWpFireSeq (fun t => (((t.put R.compassWpFireNumber n).putB R.compassWpFireLate w.late).putB
    R.compassWpFireNotAligned false).putB R.compassWpFireFailed false)).incMod R.compassWpCountsFired 1).raise (128 + n)

/-- A waypoint that is armed and reached by the count fires. -/
theorem exec_waypointFire_reached {n : Nat} {w : Waypoint} (hw : look s.compass.waypoints n = some w) (harmed : s.armed n = true)
    (hdue : w.cycle ≤ s.compass.count) : exec (.waypointFire n) s = .next (s.fireWaypoint n) := by
  show execWaypointFire n s = _
  simp only [execWaypointFire, hw, harmed, hdue, and_self, if_true]

/-- A waypoint whose action is carried out is recorded, and disarms or moves on. -/
theorem State.fireWaypoint_acts {n : Nat} {w : Waypoint} {u : State} (hw : look s.compass.waypoints n = some w)
    (hany : w.alignedOnly = false) (hact : s.wpAction n w = (u, true)) :
    s.fireWaypoint n =
      let fired := u.firingRecorded n w
      if w.repeats = true ∧ w.left ≠ 1 then
        ({ fired with compass.waypoints := store fired.compass.waypoints n { w with
          cycle := (nextCycle w.cycle w.period fired.compass.count).1
          left := w.left - 1
          late := false } } : State).put R.compassWpCountsSkipped (saturate 0xFFFF
            (fired.get R.compassWpCountsSkipped + (nextCycle w.cycle w.period fired.compass.count).2))
      else ({ fired with compass.waypoints := drop fired.compass.waypoints n } : State).setArmed n false := by
  simp only [State.fireWaypoint, hw, hany, hact, Bool.false_and, Bool.false_eq_true, if_false, if_true]
  rfl

/-- A due epoch roll is a GENERATION_ROLL of the custody firmware's own (R312). -/
theorem State.epochRoll_due {n : Nat} {w : Waypoint} (hw : s.compass.epochDue.find? (fun e => e.1 == n) = some (n, w)) :
    s.epochRoll n =
      let taken := ({ s with compass.epochDue := removeFirst (fun e => e.1 == n) s.compass.epochDue } : State).take
        (ownMsg 0x0405 (le w.arg 0 2) (s.get R.ferryStatusSelf) n (ofBool w.late) 0)
      (taken.1.begin taken.2 false).pump := by
  rw [State.epochRoll, hw]

/-- WAYPOINT_EPOCH_ROLL while the custody firmware serves. -/
theorem exec_waypointEpochRoll_serves {n : Nat} (h : s.serves = true) : exec (.waypointEpochRoll n) s = .next (s.epochRoll n) :=
  congrArg Host.Outcome.next (if_pos h)

/-- A rate window whose end the count of ticks has reached lapses (R310). -/
theorem exec_rateWindowEnd_over {n : Nat} {r : RateWindow} (hr : look s.compass.rates n = some r) (hover : r.endsAt ≤ s.compass.mc) :
    exec (.rateWindowEnd n) s = .next { s with compass.rates := drop s.compass.rates n } := by
  show execRateWindowEnd n s = _
  simp only [execRateWindowEnd, hr, hover, if_true]

end

/-- Settles O54, clause by clause: crossings by the state and their time, ticks by the state, then starts, clock checks and waypoints. -/
theorem compassEvents : Obligations.CompassEvents := by
  intro s t ppm n elapsed negs w u r c now at_ hit late begun counted crossed held apart agreed fired due roll
  have hcounted : counted = s.cycleTick := rfl
  have hcrossed (x : Nat) (valid : Bool) : crossed x valid = s.crossingTick x valid := (State.crossingTick_eq x valid).symm
  refine ⟨?begins, ?taints, ?valid, ?bad, ?missing, ?ticks, ?starts, ?checks, ?fires, ?rolls, ?lapses⟩
  case begins => exact fun hruns hstate => congrArg Host.Outcome.next (State.crossing_begins hruns hstate)
  case taints => exact fun hruns htracked hearly => congrArg Host.Outcome.next (State.crossing_taints hruns htracked hearly)
  case valid =>
    rintro ⟨hruns, hstate, htime⟩ hvalid
    rw [hcrossed]
    exact congrArg Host.Outcome.next (State.crossing_valid hruns hstate htime hvalid)
  case bad =>
    rintro ⟨hruns, hstate, htime⟩ hbad
    rw [hcrossed]
    exact congrArg Host.Outcome.next (State.crossing_bad hruns hstate htime hbad)
  case missing =>
    intro hruns hstate
    rw [hcrossed]
    exact congrArg Host.Outcome.next (State.missing_ends hruns hstate)
  case ticks =>
    intro hruns
    refine ⟨fun hstate => ?_, fun hstate hbound => ?_, fun hstate hbound => ?_, fun hstate hdue => ?_⟩
    · exact congrArg Host.Outcome.next (State.compassTick_free hruns hstate)
    · exact congrArg Host.Outcome.next ((State.compassTick_held hruns hstate).trans (if_neg hbound))
    · exact congrArg Host.Outcome.next ((State.compassTick_held hruns hstate).trans (if_pos hbound))
    · rw [hcounted]
      exact congrArg Host.Outcome.next (State.compassTick_cycle hruns hstate hdue)
  case starts => exact fun hoff hmain => congrArg Host.Outcome.next (State.compassStart_goesOn hoff hmain)
  case checks =>
    intro hruns
    refine ⟨fun hfar hnew hstate => ?_, fun hfar hnew hstate => ?_, fun hnear hrun => ?_, fun hnear hrun => ?_⟩
    · exact congrArg Host.Outcome.next ((State.crossCheck_apart hruns hfar hnew).trans (if_neg hstate))
    · exact congrArg Host.Outcome.next ((State.crossCheck_apart hruns hfar hnew).trans (if_pos hstate))
    · exact congrArg Host.Outcome.next ((State.crossCheck_agrees hruns hnear).trans (if_neg (Nat.not_le.2 hrun)))
    · exact congrArg Host.Outcome.next ((State.crossCheck_agrees hruns hnear).trans (if_pos hrun))
  case fires =>
    intro hw harmed hdue hany hact
    have hacts := State.fireWaypoint_acts hw hany hact
    rw [exec_waypointFire_reached hw harmed hdue]
    refine ⟨fun honce => ?_, fun next skipped hrepeats hleft hnext => ?_⟩
    · exact congrArg Host.Outcome.next (hacts.trans (if_neg fun h => Bool.false_ne_true (honce.symm.trans h.1)))
    · have hcycle : nextCycle w.cycle w.period (u.firingRecorded n w).compass.count = (next, skipped) := hnext
      simp only [hcycle] at hacts
      exact congrArg Host.Outcome.next (hacts.trans (if_pos ⟨hrepeats, hleft⟩))
  case rolls =>
    intro hserves hfind
    rw [exec_waypointEpochRoll_serves hserves, State.epochRoll_due hfind]
  case lapses => exact exec_rateWindowEnd_over

end Sys2Proof.Machine
end

section
/-! SUPPORT and SETTLED. A step of the machine (R374), and the commands on the records (R385 to R389). -/

namespace Sys2Proof.Machine

/-! ### A step -/

/-- A device that is powered and out of reset counts an engine cycle; with no HARD slot open no timer runs (R374, R375). -/
theorem State.idle_counts {s : State} (hmain : s.pwr.main = true) (hporst : s.pwr.porstN = true) (hopen : s.get R.faultHardOpen = 0) :
    s.idle = s.incMod R.faultTickTick 1 := by
  have hnone : (s.incMod R.faultTickTick 1).get R.faultHardOpen = 0 := (State.get_incMod_ne _ _ _ _ (by decide)).trans hopen
  rw [State.idle, hmain, hporst, Bool.and_self, if_pos rfl, State.hardTimers, if_pos (.inl hnone)]

/-- Any other device stands still. -/
theorem State.idle_stands {s : State} (h : s.pwr.main = false ∨ s.pwr.porstN = false) : s.idle = s :=
  if_neg (by rcases h with h | h <;> simp [h])

/-- Settles O1: the front of the queue, or a cycle on the empty queue. -/
theorem stepRunsTheFront : Obligations.StepRunsTheFront := by
  refine ⟨fun c rest s => step_cons rfl, fun s hempty hmain hporst hopen => ?_, fun s hempty hout => ?_⟩
  · rw [step_nil hempty, State.idle_counts hmain hporst hopen]
  · rw [step_nil hempty, State.idle_stands hout]

/-! ### The commands on the records -/

section
variable {m : Msg} {s : State}

/-- LOG_READ reads whole records, at most 63 (R386). -/
theorem logRead_reads (hlen : m.payloadLen = 3) :
    logRead m s = (s, .okay (((s.log.recs.drop (le m.payload 0 2)).take (min 63 (le m.payload 2 1))).map LogRec.bytes).flatten) :=
  if_neg (not_not.2 hlen)

/-- LOG_FREEZE freezes the log (R385). -/
theorem logFreeze_freezes (hlen : m.payloadLen = 0) : logFreeze m s = (s.put R.logStatusFrozen 1, .of St.ok) := if_neg (not_not.2 hlen)

/-- LOG_THAW thaws it (R385). -/
theorem logThawCmd_thaws (hlen : m.payloadLen = 0) : logThawCmd m s = (s.logThaw, .of St.ok) := if_neg (not_not.2 hlen)

/-- The next epoch of the log begins in `s`: nothing is held, and LOG_CLEARED says what was (R387). -/
def State.nextLogEpoch (s : State) (inst opId : Nat) : State :=
  let empty : State := { s with log.recs := [], log.older := s.log.recs ++ s.log.older.drop s.log.recs.length }
  ((((empty.put R.logEpochEpoch (s.get R.logEpochEpoch + 1)).put R.logStatusHeld 0).put R.logStatusFull 0).logAdd 0x1 inst 0xFFFF
    (leBytes 2 (s.get R.logEpochEpoch) ++ leBytes 2 (s.get R.logStatusHeld) ++ leBytes 4 (s.get R.logOverflowCount)
      ++ leBytes 4 opId)).put R.logOverflowCount 0

/-- LOG_CLEAR thaws the log and begins its next epoch (R387). -/
theorem logClear_clears {opId : Nat} (hlen : m.payloadLen = 0) : logClear opId m s = (s.logThaw.nextLogEpoch m.inst opId, .of St.ok) :=
  if_neg (not_not.2 hlen)

/-- JOURNAL_ATTACH keeps the ring's place and its size (R389). -/
theorem journalAttach_attaches (hlen : m.payloadLen = 17) (hring : le m.payload 0 8 % 4096 = 0) (hlow : 6 ≤ le m.payload 8 1)
    (hhigh : le m.payload 8 1 ≤ 16) (hheader : le m.payload 9 8 % 64 = 0) :
    journalAttach m s = (({ s with log.ringAddr := le m.payload 0 8, log.headerAddr := le m.payload 9 8 } : State).put
      R.logJournalCfgLog2Size (le m.payload 8 1), .of St.ok) := if_neg (by omega)

end

/-- Settles O22, command by command. -/
theorem recordCommands : Obligations.RecordCommands := by
  intro m s u c
  refine ⟨fun h hlen => ?_, fun h hlen => ?_, fun h hlen => ?_, ?_, fun h hlen hring hlow hhigh hheader => ?_⟩
  · exact h.answers h.deviceAct rfl (logRead_reads hlen) fun _ => rfl
  · exact h.answers h.deviceAct rfl (logFreeze_freezes hlen) fun _ => rfl
  · exact h.answers h.deviceAct rfl (logThawCmd_thaws hlen) fun _ => rfl
  · rintro v h hlen rfl
    have hact := h.acts (f := fun d w => lift (logClear (w.opIdOf d)) d w) h.deviceAct (lift_eq (logClear_clears hlen)) fun _ => rfl
    exact h.replies rfl hact
  · exact h.answers h.deviceAct rfl (journalAttach_attaches hlen hring hlow hhigh hheader) fun _ => rfl

end Sys2Proof.Machine
end

section
/-! SUPPORT and SETTLED. CLUSTER_SERVICE (R417, R418, Table LC.11): the rule of each action for each kind of part, and then the action
of the command on the part that it names. -/

namespace Sys2Proof.Machine

section
variable {m : Msg} {s : State} {n g p : Nat}

/-- CLUSTER_SERVICE in its form does its action on the part that it names, which is no RETIRED cluster (R417). -/
theorem clusterService_acts {a : Nat} {x : Part} {r : State × Answer} (hlen : m.payloadLen = 8) (hzero : le m.payload 6 2 = 0)
    (haction : le m.payload 5 1 = a) (hknown : 1 ≤ a ∧ a ≤ 5) (hpart : s.partAt m.payload = some x)
    (hretired : ∀ n, x = .cluster n → s.clusterState n ≠ 8) (hr : serviceAct a m s x = r) : clusterService m s = r := by
  subst haction
  have hform : ¬ (m.payloadLen ≠ 8 ∨ le m.payload 6 2 ≠ 0 ∨ le m.payload 5 1 = 0 ∨ le m.payload 5 1 > 5) := by omega
  rw [clusterService, if_neg hform, hpart]
  cases x with
  | cluster n => exact (if_neg (hretired n rfl)).trans hr
  | lane n => exact hr
  | pair n => exact hr
  | region n => exact hr
  | port n => exact hr
  | sensor die n => exact hr

/-! ### FENCE -/

/-- A cluster that is not out by FENCE is fenced once it holds no lease. -/
theorem serviceFence_cluster (h : s.clusterFenced n = false) :
    serviceFence m s (.cluster n) = (s.gateCluster n false true).addService m 0 n 7 := by
  rw [serviceFence, h, if_neg Bool.false_ne_true]

/-- So is a lane that is not the last one in service. -/
theorem serviceFence_lane (h : s.laneFenced n = false) (hlast : s.lastLane n = false) :
    serviceFence m s (.lane n) = (s.gateLane n false true).addService m 1 n 0 := by
  rw [serviceFence, h, if_neg Bool.false_ne_true, hlast, if_neg Bool.false_ne_true]

/-- A pair goes out at once where the other one serves. -/
theorem serviceFence_pair (h : bitOf s.life.pairsFenced n = false) (hother : s.get (pairFld (1 - n)) = 1) :
    serviceFence m s (.pair n) = (((({ s with life.pairsFenced := setBit s.life.pairsFenced n true } : State).put
      (pairFld n) 0).setMissed n false).showPairs, .of St.ok) := by
  have hserves : s.is (pairFld (1 - n)) = true := by rw [State.is, hother]; rfl
  rw [serviceFence, h, if_neg Bool.false_ne_true, hserves, if_neg (by decide)]

/-! ### RETURN -/

/-- A cluster that is off, quarantined or fenced is loaded again where its region is on. -/
theorem serviceReturn_cluster (h : s.clusterState n = 0 ∨ s.clusterState n = 6 ∨ s.clusterState n = 7)
    (hon : bitOf s.pwr.regionOff (n / 4) = false) :
    serviceReturn m s (.cluster n) = (s.returnCluster n).addService m 0 n 3 :=
  if_pos ⟨h, by rw [hon]; rfl⟩

/-- A lane that is off tests itself. -/
theorem serviceReturn_lane (h : s.laneState n = 0) :
    serviceReturn m s (.lane n) = ((s.put (R.skeLaneCtrlGateReq n) 0).gateLane n false false).addService m 1 n 2 := if_pos h

/-- A fenced pair is back at once. -/
theorem serviceReturn_pair (h : bitOf s.life.pairsFenced n = true) :
    serviceReturn m s (.pair n) = ((({ s with
      life.pairsFenced := setBit s.life.pairsFenced n false } : State).pairBack n).showPairs, .of St.ok) := if_pos h

/-! ### POWER_OFF -/

/-- A region of clusters goes off once they all are; a RETIRED cluster is left as it is. -/
theorem servicePowerOff_region (h : bitOf s.pwr.regionOff g = false) (hg : g ≠ 7) :
    servicePowerOff m s (.region g) = ([0, 1, 2, 3].foldl (fun t i =>
      if t.clusterState (4 * g + i) = 8 then t else t.gateCluster (4 * g + i) true true) (s.addService m 2 g 0).1, .engine) := by
  rw [servicePowerOff, h, if_neg Bool.false_ne_true, if_neg hg]
  rfl

/-- The region of the ports goes off at once where no port carries a follower or is in use. -/
theorem servicePowerOff_ports (h : bitOf s.pwr.regionOff 7 = false)
    (hports : ∀ p < 4, s.portCarries p = false ∧ s.get (R.ferryPortUse p) = 0) :
    servicePowerOff m s (.region 7) = (s.ferryDown, .of St.ok) := by
  have hcarries : (List.range 4).any (fun p => s.portCarries p) = false := by
    simpa using fun p hp => (hports p hp).1
  have huse : (List.range 4).any (fun p => s.get (R.ferryPortUse p) != 0) = false := by
    simpa using fun p hp => (hports p hp).2
  rw [servicePowerOff, h, if_neg Bool.false_ne_true, if_pos rfl, hcarries, if_neg Bool.false_ne_true, huse,
    if_neg Bool.false_ne_true]

/-- A port that carries no follower and is not in use goes off at once. -/
theorem servicePowerOff_port (hcarries : s.portCarries p = false) (huse : s.get (R.ferryPortUse p) = 0) :
    servicePowerOff m s (.port p) = ((({ s with ferry.off := setBit s.ferry.off p true } : State).put
      (R.ferryPortState p) 0).showPorts, .of St.ok) := by
  rw [servicePowerOff, hcarries, if_neg Bool.false_ne_true, if_neg (not_not.2 huse)]

/-! ### POWER_ON -/

/-- A cluster that is off is loaded where its region is on. -/
theorem servicePowerOn_cluster (h : s.clusterState n = 0) (hon : bitOf s.pwr.regionOff (n / 4) = false) :
    servicePowerOn m s (.cluster n) = (s.returnCluster n).addService m 0 n 3 := by
  rw [servicePowerOn, if_neg (not_not.2 h), hon, if_neg Bool.false_ne_true]

/-- A region of clusters is on at once, and those of its clusters that are off are loaded. -/
theorem servicePowerOn_region (h : bitOf s.pwr.regionOff g = true) (hg : g ≠ 7) :
    servicePowerOn m s (.region g) = ([0, 1, 2, 3].foldl (fun t i =>
      if t.clusterState (4 * g + i) = 0 then t.returnCluster (4 * g + i) else t)
        ({ s with pwr.regionOff := setBit s.pwr.regionOff g false } : State)).addService m 2 g 3 := by
  rw [servicePowerOn, h, if_neg (by decide), if_neg hg]

/-- The region of the ports comes back at once. -/
theorem servicePowerOn_ports (h : bitOf s.pwr.regionOff 7 = true) : servicePowerOn m s (.region 7) = (s.ferryUp, .of St.ok) := by
  rw [servicePowerOn, h, if_neg (by decide), if_pos rfl]

/-- A port that is off trains again where its region is on. -/
theorem servicePowerOn_port (hon : bitOf s.pwr.regionOff 7 = false) (h : s.get (R.ferryPortState p) = 0) :
    servicePowerOn m s (.port p) = ((({ s with ferry.off := setBit s.ferry.off p false } : State).put
      (R.ferryPortState p) 2).showPorts, .of St.ok) := by
  rw [servicePowerOn, hon, if_neg Bool.false_ne_true, if_pos h]

/-! ### RECALIBRATE -/

/-- What the recalibration of sensor `n` of a die, the source `src`, comes to with the trim `need` (R418). -/
def State.recalibrated (s : State) (die n src need : Nat) : State × Answer :=
  if need ≤ 64 then ({ s.drawn with
    life.sensorsOut := s.life.sensorsOut.filter (· != src), life.sensorTrims := store s.life.sensorTrims src need }, .of St.ok)
  else (({ s.drawn with life.sensorsOut := addNew s.life.sensorsOut src } : State).hard
    (if die = 1 then locK 45 n else locM 0xF 36 n) 0x0E 0, .of St.limitReached)

/-- A sensor is recalibrated where three others stay in service (R418). -/
theorem serviceRecalibrate_sensor {die : Nat}
    (h : 3 ≤ ([2, 3, 4, 5, 6, 7].filter (fun x => x != sensorSource die n && !s.life.sensorsOut.contains x)).length) :
    serviceRecalibrate m s (.sensor die n) = s.recalibrated die n (sensorSource die n) (Config.freeNat s.fresh % 128) :=
  if_neg (Nat.not_lt.2 h)

end

/-- CLUSTER_SERVICE let through does its action on the part that it names. -/
theorem Granted.services {m c : Msg} {s u : State} {a : Nat} {x : Part} {r : State × Answer} (h : Granted 0x070F (m.withByte 5 a) s u c)
    (hform : c.payloadLen = 8 ∧ le c.payload 6 2 = 0) (haction : le c.payload 5 1 = a) (hpart : u.partAt c.payload = some x)
    (hretired : ∀ n, x = .cluster n → u.clusterState n ≠ 8) (hr : serviceAct a c u x = r) (hknown : 1 ≤ a ∧ a ≤ 5 := by decide) :
    actOf c u = r :=
  h.acts h.deviceAct (clusterService_acts hform.1 hform.2 haction hknown hpart hretired hr) fun _ => rfl

/-- Settles O20, action by action, and within an action by the kind of the part. -/
theorem serviceCommands : Obligations.ServiceCommands := by
  intro m s u c hlen hzero
  have hform := And.intro hlen hzero
  refine ⟨fun h ha => ?fence, fun h ha => ?back, fun h ha => ?off, fun h ha => ?on,
    fun die n src need h ha hpart hsrc hneed hothers => ?recalibrate⟩
  case fence =>
    refine ⟨fun n hpart hin hret => ?_, fun n hpart hin hlast => ?_, fun n hpart hin hother => ?_⟩
    · exact h.queues rfl (h.services hform ha hpart (by rintro _ ⟨⟩; exact hret) (serviceFence_cluster hin))
    · exact h.queues rfl (h.services hform ha hpart nofun (serviceFence_lane hin hlast))
    · exact h.replies rfl (h.services hform ha hpart nofun (serviceFence_pair (m := c) hin hother))
  case back =>
    refine ⟨fun n hpart hout hon => ?_, fun n hpart hout => ?_, fun n hpart hout => ?_⟩
    · exact h.queues rfl (h.services hform ha hpart (by rintro _ ⟨⟩; omega) (serviceReturn_cluster hout hon))
    · exact h.queues rfl (h.services hform ha hpart nofun (serviceReturn_lane hout))
    · exact h.replies rfl (h.services hform ha hpart nofun (serviceReturn_pair (m := c) hout))
  case off =>
    refine ⟨fun n hpart hret => ?_, fun g hpart hon hg => ?_, fun hpart hon hports => ?_, fun p hpart hcarries huse => ?_⟩
    · exact h.queues rfl (h.services hform ha hpart (by rintro _ ⟨⟩; exact hret) rfl)
    · exact h.queues rfl (h.services hform ha hpart nofun (servicePowerOff_region hon hg))
    · exact h.replies rfl (h.services hform ha hpart nofun (servicePowerOff_ports (m := c) hon hports))
    · exact h.replies rfl (h.services hform ha hpart nofun (servicePowerOff_port (m := c) hcarries huse))
  case on =>
    refine ⟨fun n hpart hst hon => ?_, fun g hpart hoff hg => ?_, fun hpart hoff => ?_, fun p hpart hon hst => ?_⟩
    · exact h.queues rfl (h.services hform ha hpart (by rintro _ ⟨⟩; omega) (servicePowerOn_cluster hst hon))
    · exact h.queues rfl (h.services hform ha hpart nofun (servicePowerOn_region hoff hg))
    · exact h.replies rfl (h.services hform ha hpart nofun (servicePowerOn_ports (m := c) hoff))
    · exact h.replies rfl (h.services hform ha hpart nofun (servicePowerOn_port (m := c) hon hst))
  case recalibrate =>
    subst hsrc hneed
    have hact := h.services hform ha hpart nofun (serviceRecalibrate_sensor (m := c) hothers)
    exact ⟨fun hneed => h.replies rfl (hact.trans (if_pos hneed)), fun hneed => h.replies rfl (hact.trans (if_neg (Nat.not_le.2 hneed)))⟩

end Sys2Proof.Machine
end

section
/-! SUPPORT and SETTLED. The acts on firmware, configuration and limits (R220, R354, R361, R408, R414 to R416, R419). -/

namespace Sys2Proof.Machine

section
variable {m : Msg} {s : State}

/-! ### Firmware and the configuration block -/

/-- A chunk for the package buffer is patched in at its place (R415). -/
theorem firmwareStage_buffers {off : Nat} {chunk : Bytes} (hlow : 5 ≤ m.payloadLen) (hchunk : chunk = (m.payload.take m.payloadLen).drop 4)
    (hlen : chunk.length ≤ 4000) (hoff : off = le m.payload 0 4 % 2 ^ 31) (hbusy : s.busyLife = false)
    (hpkg : bitOf (le m.payload 0 4) 31 = true) (hfits : off + chunk.length ≤ 40960) :
    firmwareStage m s = ({ s with life.pkgBuffer := patch (padTo 40960 s.life.pkgBuffer) off chunk }, .of St.ok) := by
  subst hchunk hoff
  rw [firmwareStage]
  simp only [hpkg, if_true, hbusy, Bool.false_eq_true, if_false]
  exact if_neg (by omega)

/-- Any other is written in the idle bank, whose header the first one clears and whose version is none until it is verified (R415). -/
theorem firmwareStage_writes {off n : Nat} {chunk : Bytes} (hlow : 5 ≤ m.payloadLen) (hchunk : chunk = (m.payload.take m.payloadLen).drop 4)
    (hlen : chunk.length ≤ 4000) (hoff : off = le m.payload 0 4 % 2 ^ 31) (hn : n = 1 - s.get R.bootStatusBank)
    (hbusy : s.busyLife = false) (hbank : bitOf (le m.payload 0 4) 31 = false) (hfits : off + chunk.length ≤ 0xB00000) :
    firmwareStage m s = (((if off = 0 then s.clearMem (bankBase n) 4096 else s).writeMem (bankBase n + off) chunk).put
      (bankVersion n) 0, .of St.ok) := by
  subst hchunk hoff hn
  rw [firmwareStage]
  simp only [hbank, Bool.false_eq_true, if_false, hbusy]
  exact if_neg (by omega)

/-- A verified idle bank whose tables are staged waits for the queues to be quiesced (R416). -/
theorem firmwareActivate_stages {n : Nat} {v : State} (hlen : m.payloadLen = 0) (hbusy : s.busyLife = false)
    (hn : n = 1 - s.get R.bootStatusBank) (hbank : s.bankRefusal n = none)
    (hstaged : s.stageSets (s.bankHead n).digest s.life.cfgDigest (s.get R.devStatusLife) true (s.bankHead n).version = (v, true)) :
    firmwareActivate m s = ({ v with life.updating := some (m.cid, .update n) }, .engine) := by
  subst hn
  rw [firmwareActivate, if_neg (not_not.2 hlen), hbusy, if_neg Bool.false_ne_true, hbank]
  simp only [hstaged]

/-- A field in its form is set, and the block is in force (R414). -/
theorem configSet_sets {b : CfgBlock} {v : State} (hlow : 4 ≤ m.payloadLen)
    (hlen : le m.payload 2 2 = ((m.payload.take m.payloadLen).drop 4).length)
    (hset : s.life.cfg.set (le m.payload 0 2) ((m.payload.take m.payloadLen).drop 4) = some b) (hbusy : s.busyLife = false)
    (hput : s.putCfg b = (v, true)) : configSet m s = (v.cfgInForce, .of St.ok) := by
  have hform : ¬ (m.payloadLen < 4 ∨ le m.payload 2 2 ≠ ((m.payload.take m.payloadLen).drop 4).length) := by omega
  rw [configSet, if_neg hform, hset]
  simp only [hbusy, Bool.false_eq_true, if_false, hput]

/-! ### TAMPER_RESPONSE_SET (R354, R355, R407) -/

/-- A change of a Thermos response burns a row, and is counted (R407). -/
def State.countThermos (s : State) (p : Bytes) : State := if s.thermosChanges p = [] then s else s.limitUsed R.lifeLimits0Thermos 5

/-- The responses that the payload asks for in `s` are put in `t`. -/
def State.putAsked (s t : State) (p : Bytes) : State :=
  ((List.range 27).map (fun n => (n, s.askedResponse p n))).foldl (fun t a =>
    (t.put (R.keeperRespMain a.1) a.2.1).put (R.keeperRespThermos a.1) a.2.2) t

/-- The class minimum of KIND 2, and the temperature limits of KIND 3 (Table TK.5). -/
def State.putTamperLimits (s : State) (p : Bytes) : State :=
  if le p 0 1 = 2 then (List.range 27).foldl (fun t n =>
    if tamperClass n = le p 1 1 then t.put (R.keeperRespMin n) (le p 2 1) else t) s
  else if le p 0 1 = 3 then (s.put R.keeperTempLimitsLow (le p 4 1)).put R.keeperTempLimitsHigh (le p 5 1) else s

/-- The configuration block takes its copy of the responses and limits, where it differs (R353). -/
def State.copyTamper (s : State) : State :=
  if s.withTamperCopy s.life.cfg = s.life.cfg then s else (s.putCfg (s.withTamperCopy s.life.cfg)).1

variable (href : s.tamperSetRefusal m.payload m.payloadLen = none)
include href

/-- A change of a Thermos response needs the board's hold-up (R407). -/
theorem tamperResponseSet_refused (hchanges : s.thermosChanges m.payload ≠ []) (hlow : s.holdup = false) :
    tamperResponseSet m s = (s, Resp.why St.lifecycleForbidden 3) := by
  have hempty : (s.thermosChanges m.payload).isEmpty = false := by simpa using hchanges
  have hsense : s.is R.sysPinsHoldup = false := hlow
  rw [tamperResponseSet, href]
  exact if_pos (by simp only [hempty, hsense]; decide)

/-- A change that no check refuses is applied, copied, and standing alarms are decided again under it (R354, R355). -/
theorem tamperResponseSet_sets (hheld : s.thermosChanges m.payload = [] ∨ s.holdup = true) :
    tamperResponseSet m s =
      ((((s.putAsked (s.countThermos m.payload) m.payload).putTamperLimits m.payload).copyTamper).redecide s.responseOf, .of St.ok) := by
  have hrow : ¬ ((!(s.thermosChanges m.payload).isEmpty) = true ∧ (!s.is R.sysPinsHoldup) = true) := by
    rintro ⟨hchanges, hlow⟩
    rcases hheld with hnone | hhigh
    · simp [hnone] at hchanges
    · have hsense : s.is R.sysPinsHoldup = true := hhigh
      simp [hsense] at hlow
  have hcount : (if (s.thermosChanges m.payload).isEmpty = true then s else s.limitUsed R.lifeLimits0Thermos 5)
      = s.countThermos m.payload := by
    simp only [State.countThermos, List.isEmpty_iff]
  rw [tamperResponseSet, href]
  simp only [if_neg hrow, hcount]
  rfl

end

/-! ### Sources, clusters, the lock and the floor -/

section
variable {m : Msg} {s : State}

/-- NOISE_RECALIBRATE of a source that is not the last one has it swept, or waits for the sweep that runs (R220). -/
theorem noiseRecalibrate_sweeps {n : Nat} (hlen : m.payloadLen = 1) (hn : n = le m.payload 0 1) (hrange : n ≤ 4)
    (hlast : s.lastSourceN n = false) (hruns : s.trngRuns = true) :
    noiseRecalibrate m s = if s.get (R.trngSrcStatusState n) = 4
      then (s.setSource n { s.source n with waiting := (s.source n).waiting ++ [m.cid] }, .engine) else (s.startSweep n [m.cid], .engine) := by
  subst hn
  have hform : ¬ (m.payloadLen ≠ 1 ∨ le m.payload 0 1 > 4) := by omega
  rw [noiseRecalibrate, if_neg hform, hlast, if_neg Bool.false_ne_true, hruns, if_neg (by decide)]

/-- A cluster that is off, quarantined or fenced is retired for good, with a record (R419). -/
theorem clusterRetire_retires {n : Nat} (hlen : m.payloadLen = 1) (hn : n = le m.payload 0 1) (hrange : n ≤ 15)
    (hnew : bitOf (s.get R.lifeLimits1Retired) n = false) (hout : s.clusterState n = 0 ∨ s.clusterState n = 6 ∨ s.clusterState n = 7)
    (hhigh : s.holdup = true) :
    clusterRetire m s = (((s.putBit R.lifeLimits1Retired n true).setClusterState n 8).logAdd 0x41 0xFFFF 0xFFFF
      (leBytes 1 6 ++ leBytes 2 1), .of St.ok) := by
  subst hn
  have hform : ¬ (m.payloadLen ≠ 1 ∨ le m.payload 0 1 > 15) := by omega
  rw [clusterRetire, if_neg hform, hnew, if_neg Bool.false_ne_true, if_neg (by simp [hout]), hhigh, if_neg (by decide)]

/-- The lock is released where no alarm holds it (R361). -/
theorem deviceUnlock_unlocks (hlen : m.payloadLen = 0) (hheld : s.lockHeld = false) :
    deviceUnlock m s = (((s.put R.keeperTamperStateLockFlag 0).put R.keeperTamperStateStrongest 0).setDev R.devStatusLocked 0,
      .of St.ok) := by
  rw [deviceUnlock, if_neg (not_not.2 hlen), hheld, if_neg Bool.false_ne_true]

/-- The floor rises to a version between it and the running one; what lies below it is void (R408, R88). -/
theorem floorRaise_raises {f : Nat} {v : State} (hlen : m.payloadLen = 2) (hf : f = le m.payload 0 2)
    (hlow : s.get R.lifeSecurityFloor < f) (hrunning : f ≤ s.get R.lifeSecurityRunning) (hcount : s.get R.lifeLimits0Floor < 256)
    (hhigh : s.holdup = true) (hv : v = ({ s with life.floors := s.life.floors ++ [f] } : State).limitUsed R.lifeLimits0Floor 1) :
    floorRaise m s = ([0, 1].foldl (fun t n => if t.get (bankVersion n) < f then t.put (bankVersion n) 0 else t)
      ((v.put R.lifeSecurityFloor f).zeroPrevious f), .of St.ok) := by
  subst hf hv
  rw [floorRaise, if_neg (not_not.2 hlen), if_neg (Nat.not_le.2 hlow), if_neg (Nat.not_lt.2 hrunning),
    State.limitRefusal_none hcount hhigh]

end

/-- Settles O19, act by act. -/
theorem deviceSettings : Obligations.DeviceSettings := by
  intro m s u c
  refine ⟨?stage, ?activate, ?config, ?refused, ?responses, ?sweep, ?retire, ?unlock, ?floor⟩
  case stage =>
    intro off chunk n h hlow hchunk hlen hoff hn hbusy
    refine ⟨fun hpkg hfits => ?_, fun hbank hfits => ?_⟩
    · exact h.answers h.deviceAct rfl (firmwareStage_buffers hlow hchunk hlen hoff hbusy hpkg hfits) fun _ => rfl
    · exact h.answers h.deviceAct rfl (firmwareStage_writes hlow hchunk hlen hoff hn hbusy hbank hfits) fun _ => rfl
  case activate =>
    intro n v h hlen hbusy hn hbank hstaged
    exact h.queues rfl (h.acts h.deviceAct (firmwareActivate_stages hlen hbusy hn hbank hstaged) fun _ => rfl)
  case config =>
    intro b v h hlow hlen hset hbusy hput
    exact h.answers h.deviceAct rfl (configSet_sets hlow hlen hset hbusy hput) fun _ => rfl
  case refused =>
    intro h href hchanges hlow
    exact h.answers h.deviceAct rfl (tamperResponseSet_refused href hchanges hlow) fun _ => rfl
  case responses =>
    rintro t v w x k h href hheld rfl rfl rfl rfl rfl
    exact h.answers h.deviceAct rfl (tamperResponseSet_sets href hheld) fun _ => rfl
  case sweep =>
    intro n h hlen hn hrange hlast hruns
    have hact := h.acts h.deviceAct (noiseRecalibrate_sweeps hlen hn hrange hlast hruns) fun _ => rfl
    exact ⟨fun hidle => h.queues rfl (hact.trans (if_neg hidle)), fun hswept => h.queues rfl (hact.trans (if_pos hswept))⟩
  case retire =>
    intro n h hlen hn hrange hnew hout hhigh
    exact h.answers h.deviceAct rfl (clusterRetire_retires hlen hn hrange hnew hout hhigh) fun _ => rfl
  case unlock =>
    intro h hlen hheld
    exact h.answers h.deviceAct rfl (deviceUnlock_unlocks hlen hheld) fun _ => rfl
  case floor =>
    intro f v h hlen hf hlow hrunning hcount hhigh hv
    exact h.answers h.deviceAct rfl (floorRaise_raises hlen hf hlow hrunning hcount hhigh hv) fun _ => rfl

end Sys2Proof.Machine
end

section
/-! SUPPORT and SETTLED. The life cycle and debug (R397 to R406). -/

namespace Sys2Proof.Machine

section
variable {m : Msg} {s : State}

/-! ### LIFECYCLE_TRANSITION (R397 to R403) -/

/-- A transition that no check refuses is staged, with FIELDED's tables, and waits for the queues to be quiesced (R89, R401). -/
theorem lifecycleTransition_stages {v : State} (href : s.transitionRefusal m = none)
    (hv : le m.payload 0 1 = 2 ∧ s.stageFielded = some v ∨ le m.payload 0 1 ≠ 2 ∧ v = s) :
    lifecycleTransition m s = ({ v with
      life.updating := some (m.cid, .transition (s.get R.devStatusLife) (le m.payload 0 1)) }, .engine) := by
  have hstaged : (if le m.payload 0 1 = 2 then s.stageFielded else some s) = some v := by
    rcases hv with ⟨hfielded, hv⟩ | ⟨hother, rfl⟩
    · rw [if_pos hfielded, hv]
    · rw [if_neg hother]
  rw [lifecycleTransition, href]
  simp only [hstaged]

/-- QUIESCED leaves the life cycle as it is, and with it the change that waits. -/
theorem State.quiescedNow_life (base : Nat) : (s.quiescedNow base).life = s.life := by
  rw [State.quiescedNow]
  split <;> rfl

/-- With the queues quiesced the transition that waits for them runs (Table LC.4). -/
theorem exec_quiesced_transition {cid a b : Nat} {v : State} (hwaits : s.life.updating = some (cid, .transition a b))
    (hout : s.blockOut 0x50000 true = false)
    (hv : v = (if s.get (R.hdrCtrlQuiesce 0x50000) = 1 then s.put (R.hdrStateQuiesced 0x50000) 1 else s)) :
    exec (.quiesced 0x50000) s = .next (v.runTransition cid a b).pump := by
  have hnow : s.quiescedNow 0x50000 = v := (State.quiescedNow_eq (by decide) hout).trans hv.symm
  have hstill : v.life.updating = some (cid, .transition a b) := by rw [← hnow, State.quiescedNow_life, hwaits]
  rw [exec_quiesced_change rfl (by simp [hwaits]) hout, hnow, State.runChange, hstill]

/-- With HOLDUP_SENSE high the rows are burned, the command is answered, and the device restarts (Table LC.4). -/
theorem State.runTransition_burns {cid a b : Nat} (hhigh : s.holdup = true) : s.runTransition cid a b
    = ((({ s with life.updating := none } : State).burnTransition a b).complete cid (.of St.ok)).lifeRestart := if_pos hhigh

/-- With it low the transition stops, its intent row burned (R402). -/
theorem State.runTransition_stops {cid a b : Nat} (hlow : s.holdup = false) : s.runTransition cid a b
    = ((({ s with life.updating := none } : State).dropStaged.burnIntent a b).complete cid holdupLow) :=
  if_neg (Bool.eq_false_iff.1 hlow)

/-! ### Debug (R404 to R406) -/

/-- A challenge is drawn, and stands until it is used or has expired (R406). -/
theorem debugChallengeGet_draws (hlen : m.payloadLen = 0) (hdraw : s.canDraw = true) :
    debugChallengeGet m s = (({ (s.draw 32).1 with life.challenge := (s.draw 32).2 } : State).put R.lifeDebugChallenge 1,
      .resp (.okay (s.draw 32).2)) := by
  rw [debugChallengeGet, if_neg (not_not.2 hlen), hdraw, if_neg (by decide)]
  rfl

/-- A level of this state opens to a credential that no check refuses (R404 to R406). -/
theorem debugOpen_opens {level : Nat} {cred : Bytes} {v : State} (hlow : 4 ≤ m.payloadLen) (hzero : le m.payload 1 3 = 0)
    (hlevel : level = le m.payload 0 1) (hcred : cred = (m.payload.take m.payloadLen).drop 4) (hup : 1 ≤ level)
    (hmax : level ≤ maxLevel (s.get R.devStatusLife)) (hnew : look s.quorum.acting m.cid = none)
    (hchecked : s.checkCredential level cred = (v, none)) : debugOpen m s = (v.openLevel level, .of St.ok) := by
  subst hlevel hcred
  have hform : ¬ (m.payloadLen < 4 ∨ le m.payload 1 3 ≠ 0
      ∨ (le m.payload 0 1 = 0 ∧ (!((m.payload.take m.payloadLen).drop 4).isEmpty) = true)) := by omega
  rw [debugOpen, if_neg hform, if_neg (Nat.ne_of_gt hup), if_neg (Nat.not_lt.2 hmax), hnew,
    if_neg (by decide), hchecked]

/-- Level 0, which takes no credential, closes what is open (R404). -/
theorem debugOpen_closes (hlen : m.payloadLen = 4) (hlevel : le m.payload 0 1 = 0) (hzero : le m.payload 1 3 = 0) :
    debugOpen m s = (s.debugClose, .of St.ok) := by
  have hnone : ((m.payload.take m.payloadLen).drop 4).isEmpty = true := by
    rw [hlen, List.isEmpty_iff]
    exact List.drop_eq_nil_of_le (List.length_take_le _ _)
  have hform : ¬ (m.payloadLen < 4 ∨ le m.payload 1 3 ≠ 0
      ∨ (le m.payload 0 1 = 0 ∧ (!((m.payload.take m.payloadLen).drop 4).isEmpty) = true)) := by
    rw [hnone]
    simp [hlen, hzero]
  rw [debugOpen, if_neg hform, if_pos hlevel]

/-- A password's digest is burned (R405). -/
theorem debugPasswordSet_burns (hlen : m.payloadLen = 32) (hroom : s.get R.lifeLimits0Password < 8) (hhigh : s.holdup = true) :
    debugPasswordSet m s = (({ s with life.passwords := s.life.passwords ++ [padTo 32 m.payload] } : State).limitUsed
      R.lifeLimits0Password 3, .of St.ok) := by
  rw [debugPasswordSet, if_neg (not_not.2 hlen), State.limitRefusal_none hroom hhigh]

/-- So is that of a debug key (R406). -/
theorem debugKeySet_burns (hlen : m.payloadLen = 97) (hroom : s.get R.lifeLimits0DebugKey < 4) (hhigh : s.holdup = true) :
    debugKeySet m s = (({ s with
      life.debugKeys := s.life.debugKeys ++ [(Config.sha384 (padTo 97 m.payload)).take 32] } : State).limitUsed
        R.lifeLimits0DebugKey 4, .of St.ok) := by
  rw [debugKeySet, if_neg (not_not.2 hlen), State.limitRefusal_none hroom hhigh]

end

/-- Settles O23: a transition is staged and then runs by the sample of HOLDUP_SENSE; the debug commands one by one. -/
theorem lifeCommands : Obligations.LifeCommands := by
  intro m s u c
  refine ⟨fun v h href hv => ?_, fun cid a b v hwaits hout hv => ⟨fun hhigh => ?_, fun hlow => ?_⟩, fun h hlen hdraw => ?_,
    fun level cred v h hlow hzero hlevel hcred hup hmax hnew hchecked => ?_, fun h hlen hlevel hzero => ?_,
    fun h hlen hroom hhigh => ?_, fun h hlen hroom hhigh => ?_⟩
  · exact h.queues rfl (h.acts h.deviceAct (lifecycleTransition_stages href hv) fun _ => rfl)
  · rw [exec_quiesced_transition hwaits hout hv, State.runTransition_burns hhigh]
  · rw [exec_quiesced_transition hwaits hout hv, State.runTransition_stops hlow]
  · exact h.replies rfl (h.acts h.deviceAct (debugChallengeGet_draws hlen hdraw) fun _ => rfl)
  · exact h.answers h.deviceAct rfl (debugOpen_opens hlow hzero hlevel hcred hup hmax hnew hchecked) fun _ => rfl
  · exact h.answers h.deviceAct rfl (debugOpen_closes hlen hlevel hzero) fun _ => rfl
  · exact h.answers h.deviceAct rfl (debugPasswordSet_burns hlen hroom hhigh) fun _ => rfl
  · exact h.answers h.deviceAct rfl (debugKeySet_burns hlen hroom hhigh) fun _ => rfl

end Sys2Proof.Machine
end

section
/-! SUPPORT and SETTLED. Federation: DOMAIN_JOIN (R437, R438), and TENANT_REPLICATE by its ROLE (R440, Table FY.5). -/

namespace Sys2Proof.Machine

section
variable {m : Msg} {s : State} {n : Nat} {d body : Bytes}

/-- DOMAIN_JOIN accepts a certificate that no check refuses (R438). -/
theorem domainJoin_accepts {x : Certificate} (hx : certOf (m.payload.take m.payloadLen) = some x) (hseeds : s.keys.idSeeds ≠ [])
    (href : s.certRefusal (m.payload.take m.payloadLen) x = none) :
    domainJoin m s = (s.acceptCert (m.payload.take m.payloadLen) x, .of St.ok) := by
  have hheld : s.keys.idSeeds.isEmpty = false := by simpa using hseeds
  rw [domainJoin, hx]
  simp only [hheld, Bool.false_eq_true, if_false, href]

/-! ### OFFER -/

/-- A member offers ephemeral keys for an entry that may take a replica, signed, for 180,000 mc. -/
theorem replicateOffer_offers {v : State} {r : Bytes} {o : Offer} (hparts : replicaParts m [0] = some (n, d))
    (hoffer : s.offerable n = true) (hmember : s.get R.ferryDomainMember = 1) (hseeds : s.keys.idSeeds ≠ []) (hdraw : s.canDraw = true)
    (hv : s.draw 224 = (v, r)) (ho : o = ⟨r.take 8, slice r 8 128, s.compass.mc + 180000⟩) :
    replicateOffer m s = ({ v with ferry.offers := store v.ferry.offers n o },
      .okay (v.offerBody n o ++ v.identitySigs (v.offerBody n o) (r.drop 136))) := by
  have hheld : s.keys.idSeeds.isEmpty = false := by simpa using hseeds
  have hmay : ¬ ((!s.offerable n) = true ∨ (!s.is R.ferryDomainMember) = true) := by simp [hoffer, State.is, hmember]
  subst ho
  rw [replicateOffer, hparts]
  simp only [if_neg hmay, hheld, Bool.false_eq_true, if_false, hdraw, Bool.not_true, hv]

/-! ### SEND -/

section
variable {t : Tenant} (hparts : replicaParts m [offerLen + sigsLen] = some (n, d)) (hbody : body = d.take offerLen)
  (hn : le body 8 2 = n) (hseeds : s.keys.idSeeds ≠ [])
  (hpeer : s.peerRefusal (slice body 10 certLen) (slice body 5528 2049) body (d.drop offerLen) = none) (ht : s.tenant n = some t)
  (hactive : t.state = 1) (hsound : t.failed = false) (hdraw : s.canDraw = true)
include hparts hbody hn hseeds hpeer ht hactive hsound hdraw

/-- SEND to a peer that no check refuses, while the tenant's record is not sealed yet. -/
theorem replicateSend_waits {v : State} {e : Answer}
    (hseal : s.hybridSeal m (slice body 7577 1184) (slice body 8761 97) rootAttr.bytes (rootAttr.bytes ++ t.record) = (v, .error e)) :
    replicateSend m s = (v, e) := by
  have hheld : s.keys.idSeeds.isEmpty = false := by simpa using hseeds
  subst hbody
  rw [replicateSend, hparts]
  simp [hn, hheld, hpeer, ht, hactive, hsound, hdraw, hseal]

/-- With the record sealed the package is signed. -/
theorem replicateSend_packs {v : State} {out pkg : Bytes}
    (hseal : s.hybridSeal m (slice body 7577 1184) (slice body 8761 97) rootAttr.bytes (rootAttr.bytes ++ t.record) = (v, .ok out))
    (hpkg : pkg = body.take 8 ++ leBytes 2 n ++ leBytes 4 t.tg ++ leBytes 2 t.live ++ out ++ padTo certLen v.ferry.cert
      ++ v.identityKeys) :
    replicateSend m s = ((v.draw 88).1, .okay (pkg ++ (v.draw 88).1.identitySigs pkg (v.draw 88).2)) := by
  have hheld : s.keys.idSeeds.isEmpty = false := by simpa using hseeds
  subst hbody hpkg
  rw [replicateSend, hparts]
  simp [hn, hheld, hpeer, ht, hactive, hsound, hdraw, hseal]

end

/-! ### ACCEPT -/

section
variable {kemKey scalar sealed_ attr ecdh : Bytes} (hecdh : p384.agree Blind.none scalar (slice sealed_ 1088 97) = .ok ecdh)
include hecdh

/-- A hybrid transport is opened by a lane, under the KEK that both secrets give. -/
theorem State.hybridOpen_asks (hnone : s.partOf m.cid 3 = none) (hroom : s.skeRoom true = true) :
    s.hybridOpen m kemKey scalar sealed_ attr = (s.submitSke { blobJob m 0 sealedWg
      (hybridKek (latticeOut 0x2A 1 32 true kemKey (sealed_.take 1088) []) ecdh attr) (sealed_.drop 1185) with
        part := 3, own := true }, .error .engine) := by
  rw [State.hybridOpen, hecdh]
  exact State.lanePart_asks (j := blobJob m 0 sealedWg _ (sealed_.drop 1185)) hnone hroom

/-- One that a lane has opened. -/
theorem State.hybridOpen_there {blob : Bytes} (hblob : s.partOf m.cid 3 = some blob) :
    s.hybridOpen m kemKey scalar sealed_ attr = (s, .ok blob) := by
  rw [State.hybridOpen, hecdh]
  exact State.lanePart_there (j := blobJob m 0 sealedWg _ (sealed_.drop 1185)) hblob

end

section
variable {o : Offer} {ecdh sealed_ : Bytes} (hparts : replicaParts m [packageLen + sigsLen] = some (n, d))
  (hbody : body = d.take packageLen) (hn : le body 8 2 = n)
  (hpeer : s.peerRefusal (slice body 1337 certLen) (slice body 6855 2049) body (d.drop packageLen) = none)
  (ho : s.heldOffer n (body.take 8) = some o) (hoffer : s.offerable n = true) (hsealed : sealed_ = slice body 16 1321)
  (hecdh : p384.agree Blind.none o.scalar (slice sealed_ 1088 97) = .ok ecdh)
include hparts hbody hn hpeer ho hoffer hsealed hecdh

/-- The package that answers a held offer has its record opened by a lane, under the KEK of the offer's keys. -/
theorem replicateAccept_asks (hnone : s.partOf m.cid 3 = none) (hroom : s.skeRoom true = true) :
    replicateAccept m s = (s.submitSke { blobJob m 0 sealedWg
      (hybridKek (latticeOut 0x2A 1 32 true o.kemSeed (sealed_.take 1088) []) ecdh rootAttr.bytes) (sealed_.drop 1185) with
        part := 3, own := true }, .engine) := by
  have hopen := State.hybridOpen_asks (kemKey := o.kemSeed) (attr := rootAttr.bytes) hecdh hnone hroom
  subst hbody hsealed
  rw [replicateAccept, hparts]
  simp [hn, hpeer, ho, hoffer, hopen]

/-- With the record open and in its form the entry is written, its replica bit set and the offer discarded. -/
theorem replicateAccept_writes {blob : Bytes} {v : State} (hblob : s.partOf m.cid 3 = some blob) (hlen : blob.length = 124)
    (hattr : blob.take 32 = rootAttr.bytes)
    (hv : v = (s.destroyTenantEntry n (replicaTenant (le body 14 2) (le body 10 4) (blob.drop 32))).setReplica n true) :
    replicateAccept m s = ({ v with ferry.offers := drop v.ferry.offers n }, .of St.ok) := by
  have hopen := State.hybridOpen_there (kemKey := o.kemSeed) (attr := rootAttr.bytes) hecdh hblob
  subst hbody hsealed hv
  rw [replicateAccept, hparts]
  simp [hn, hpeer, ho, hoffer, hopen, hlen, hattr]

end

/-! ### ADOPT -/

section
variable {b : Bytes} {h : HamperHead} (hparts : replicaParts m [256, 4096] = some (n, b)) (hhead : h = headOf b)
  (hformat : h.format = (if b.length = 4096 then 2 else 1)) (hlarge : (refOf m.hamper).large = decide (b.length = 4096))
  (hsize : sizeOk (decide (b.length = 4096)) h.typ h.len = true) (hwrap : h.wrapLen = wrapLenOf h.len) (hreplica : n ∈ s.ferry.replicas)
  (htenant : h.tenant = n) (hbound : s.bound m.inst n = true) (hentry : s.entryRefusal h = none) (hopen : h.isSealed = false)
include hparts hhead hformat hlarge hsize hwrap hreplica htenant hbound hentry hopen

/-- ADOPT of a hamper that no check refuses, while it is not unwrapped yet. -/
theorem replicateAdopt_waits {v : State} {e : Answer} (hkey : s.unwrapKey m h b = (v, .error e)) : replicateAdopt m s = (v, e) := by
  subst hhead
  rw [replicateAdopt, hparts]
  simp [beq_eq_decide, hformat, hlarge, hsize, hwrap, hreplica, htenant, hbound, hentry, hopen, hkey]

variable {v w : State} {key p : Bytes} (hkey : s.unwrapKey m h b = (s, .ok key)) (hplace : s.placement m.hamper = (v, .page p))
include hkey hplace

/-- With the key there and a place for it, while it is not wrapped again yet. -/
theorem replicateAdopt_wraps {e : Answer} (hadopt : v.adoptHamper m p m.hamper h key = (w, .error e)) :
    replicateAdopt m s = (w, e) := by
  subst hhead
  rw [replicateAdopt, hparts]
  simp [beq_eq_decide, hformat, hlarge, hsize, hwrap, hreplica, htenant, hbound, hentry, hopen, hkey, hplace, hadopt]

/-- With the new hamper there the command's change stands in the open batch. -/
theorem replicateAdopt_stages {h1 : HamperHead} (hadopt : v.adoptHamper m p m.hamper h key = (w, .ok h1)) :
    replicateAdopt m s = (w.stageDone ⟨m.cid, ⟨St.ok, 0, 0, 0, h1.address, 0, leBytes 8 h1.address⟩, none⟩, .staged) := by
  subst hhead
  rw [replicateAdopt, hparts]
  simp [beq_eq_decide, hformat, hlarge, hsize, hwrap, hreplica, htenant, hbound, hentry, hopen, hkey, hplace, hadopt]

end

section
variable {ref0 : Nat} {h h1 : HamperHead} {p key k1 : Bytes}
  (hh1 : h1 = { h with serial := s.hs.nextSerial, address := ref0 + s.hs.nextSerial % 2 ^ 24 * 2 ^ 40 })
  (hkek : s.hamperKek h1 = some k1)
include hh1 hkek

/-- The adopted hamper is wrapped by a lane under its own WG, with the next SERIAL. -/
theorem State.adoptHamper_asks (hnone : s.partOf m.cid 2 = none) (hroom : s.skeRoom true = true) :
    s.adoptHamper m p ref0 h key = (s.submitSke { h1.job m k1 1 key with part := 2, own := true }, .error .engine) := by
  subst hh1
  simp only [State.adoptHamper, State.wrapPart_asks hkek hnone hroom]

/-- With the wrap there it takes its place in the page. -/
theorem State.adoptHamper_there {x : Bytes} (hx : s.partOf m.cid 2 = some x) (hmatch : x.take 48 = h1.bytes) :
    s.adoptHamper m p ref0 h key = (({ s with hs.nextSerial := s.hs.nextSerial + 1 } : State).changePage (refOf ref0).page
      (putHamper p (refOf ref0) x), .ok h1) := by
  subst hh1
  simp only [State.adoptHamper, State.wrapPart_there hkek hx hmatch]

end

end

/-! ### The ROLE -/

/-- What each ROLE of TENANT_REPLICATE does (Table FY.5). -/
def roleAct (role : Nat) : Msg → State → State × Answer :=
  if role = 1 then replicateOffer else if role = 2 then replicateSend else if role = 3 then replicateAccept else replicateAdopt

/-- TENANT_REPLICATE does what its ROLE says. -/
theorem replicate_role {m : Msg} {s : State} {role : Nat} (hrole : le m.payload 0 1 = role) (hknown : role ∈ [1, 2, 3, 4]) :
    replicate m s = roleAct role m s := by
  rw [replicate, hrole]
  fin_cases hknown <;> rfl

section
variable {m c : Msg} {s u v : State} {role : Nat} {a : Answer} (hrole : le c.payload 0 1 = role) (ha : roleAct role c u = (v, a))
include hrole ha

/-- Let through, it does so. -/
theorem Granted.replicates (h : Granted 0x0714 (m.withByte 0 role) s u c) (hknown : role ∈ [1, 2, 3, 4] := by decide) : actOf c u = (v, a) :=
  h.acts h.deviceAct ((replicate_role hrole hknown).trans ha) fun _ => rfl

/-- Run on after a wait, too. -/
theorem runsOn_replicate (hop : c.opcode = 0x0714) (hknown : role ∈ [1, 2, 3, 4] := by decide) : RunsOn c u v a :=
  runsOn_device hop ((replicate_role hrole hknown).trans ha) fun _ => rfl

end

/-- Settles O21: a certificate, and then the four roles, each with what a lane has made for it or has still to make. -/
theorem domainCommands : Obligations.DomainCommands := by
  intro m s u c
  refine ⟨fun x h hx hseeds href => ?join, ?offer, ?send, ?accept, ?adopt⟩
  case join => exact h.replies rfl (h.acts h.deviceAct (domainJoin_accepts hx hseeds href) fun _ => rfl)
  case offer =>
    intro n d r v o h hrole hparts hoffer hmember hseeds hdraw hv ho
    exact h.replies rfl (h.replicates hrole (replicateOffer_offers hparts hoffer hmember hseeds hdraw hv ho))
  case send =>
    rintro n d body t blob hrole hparts hbody hn hseeds hpeer ht hactive hsound hdraw rfl
    refine ⟨fun v x h hstart hroom hnone => ?_, fun x out v pkg hop hx hout hv hpkg => ?_⟩
    · exact h.queues rfl (h.replicates hrole (replicateSend_waits hparts hbody hn hseeds hpeer ht hactive hsound hdraw
        (State.hybridSeal_asks h.partOf hstart hroom hnone)))
    · subst hv
      exact runsOn_replicate hrole (replicateSend_packs hparts hbody hn hseeds hpeer ht hactive hsound hdraw
        (State.hybridSeal_there hx hout) hpkg) hop
  case accept =>
    intro n d body o ecdh sealed_ hrole hparts hbody hn hpeer ho hoffer hsealed hecdh
    refine ⟨fun h hroom => ?_, fun blob v hop hblob hlen hattr hv => ?_⟩
    · exact h.queues rfl (h.replicates hrole (replicateAccept_asks hparts hbody hn hpeer ho hoffer hsealed hecdh h.partOf hroom))
    · exact runsOn_replicate hrole (replicateAccept_writes hparts hbody hn hpeer ho hoffer hsealed hecdh hblob hlen hattr hv) hop
  case adopt =>
    intro n b h hrole hparts hhead hformat hlarge hsize hwrap hreplica htenant hbound hentry hopen hunlocked
    refine ⟨fun kek hg hkek hroom => ?_, fun kek key v p h1 hop hkek hkey hplace hh1 => ⟨fun k1 hnone hk1 hroom => ?_,
      fun k1 x w hx hmatch hk1 hw => ?_⟩⟩
    · exact hg.queues rfl (hg.replicates hrole (replicateAdopt_waits hparts hhead hformat hlarge hsize hwrap hreplica htenant hbound
        hentry hopen (State.unwrapKey_asks hunlocked hkek hg.partOf hroom)))
    · exact runsOn_replicate hrole (replicateAdopt_wraps hparts hhead hformat hlarge hsize hwrap hreplica htenant hbound hentry hopen
        (State.unwrapKey_there hunlocked hkek hkey) hplace (State.adoptHamper_asks hh1 hk1 hnone hroom)) hop
    · subst hw
      exact runsOn_replicate hrole (replicateAdopt_stages hparts hhead hformat hlarge hsize hwrap hreplica htenant hbound hentry hopen
        (State.unwrapKey_there hunlocked hkek hkey) hplace (State.adoptHamper_there hh1 hk1 hx hmatch)) hop

end Sys2Proof.Machine
end

section
/-! SUPPORT and SETTLED. Tamper responses outside INTEGRATOR and FIELDED (R356), and LANTERN and SMBus (R380, R461, R462). -/

namespace Sys2Proof.Machine

/-! ### Alarms by the life cycle (R356) -/

section
variable {s : State} {n detail value : Nat} {b : Bool}

/-- The registers that show the sensors' readings (Table TK.12). -/
def sensorFields : List Fld := [R.keeperTempKK0, R.keeperTempKK1, R.keeperTempMM0M3, R.keeperPowerCellA, R.keeperPowerCellB]

/-- A sensor's reading in its register leaves the power state and the keeper as they were. -/
theorem State.showSensor_frame : (s.showSensor n detail value).pwr = s.pwr ∧ (s.showSensor n detail value).keeper = s.keeper := by
  unfold State.showSensor
  dsimp only
  split_ifs <;> exact ⟨rfl, rfl⟩

/-- It leaves every other register as it was. -/
theorem State.get_showSensor {g : Fld} (h : ∀ f ∈ sensorFields, g.key ≠ f.key) : (s.showSensor n detail value).get g = s.get g := by
  simp only [sensorFields, List.forall_mem_cons] at h
  obtain ⟨hk0, hk1, hm, hcellA, hcellB, -⟩ := h
  unfold State.showSensor
  dsimp only
  split_ifs
  · exact State.get_put_ne _ _ _ _ hk0
  · exact State.get_put_ne _ _ _ _ hk1
  · exact State.get_put_ne _ _ _ _ hm
  · rw [State.get_put_ne _ _ _ _ hcellB, State.get_put_ne _ _ _ _ hcellA]
  · rfl

/-- In MAKER and RETURNED every source is answered as LOG, but ZEROIZE, whose alarm is a SHRED (R356). -/
theorem State.responseOf_maker (hlife : s.get R.devStatusLife = 0 ∨ s.get R.devStatusLife = 3) (n : Nat) :
    s.responseOf n = if n = 23 then 4 else 0 := if_pos hlife

/-- There the decision on source `n` carries the number and the time of its detection (R366). -/
theorem State.decision_showSensor (hlife : s.get R.devStatusLife = 0 ∨ s.get R.devStatusLife = 3) :
    (s.showSensor n detail value).decision n b false detail value =
      ⟨if n = 23 then 4 else 0, !s.pwr.main, b, false, detail, value, 0, s.keeper.serial, s.get R.keeperThermosClockTicks⟩ := by
  obtain ⟨hpwr, hkeeper⟩ := State.showSensor_frame (s := s) (n := n) (detail := detail) (value := value)
  have hstill : (s.showSensor n detail value).get R.devStatusLife = s.get R.devStatusLife := State.get_showSensor (by decide)
  have hticks : (s.showSensor n detail value).get R.keeperThermosClockTicks = s.get R.keeperThermosClockTicks :=
    State.get_showSensor (by decide)
  rw [State.decision, State.responseOf_maker (by rwa [hstill]), hpwr, hkeeper, hticks]

/-- There the first path of a source counts, and its response begins (R357). -/
theorem exec_tamperAlarm_maker (hlife : s.get R.devStatusLife = 0 ∨ s.get R.devStatusLife = 3) (hwatched : s.watched n = true)
    (hdown : s.pathUp b n = false) (hother : s.pathUp (!b) n = false) :
    exec (.tamperAlarm n b detail value) s = .next (((s.showSensor n detail value).alarmStands n b).settleAlarm n
      ⟨if n = 23 then 4 else 0, !s.pwr.main, b, false, detail, value, 0, s.keeper.serial, s.get R.keeperThermosClockTicks⟩) := by
  have hkeeper := (State.showSensor_frame (s := s) (n := n) (detail := detail) (value := value)).2
  have hfirst : (s.showSensor n detail value).pathUp (!b) n = false := by rw [State.pathUp, hkeeper]; exact hother
  rw [exec_tamperAlarm, State.alarm_first hwatched hdown hfirst]
  dsimp only
  rw [State.decision_showSensor hlife]

/-- A source that is not CELL stands alarmed by its first path. -/
theorem State.alarmStands_ne (h : n ≠ 9) : s.alarmStands n b =
    ((s.detected.incSat R.keeperTamperCountAlarms).setPath b n true).putBit R.keeperAlarmedAlarmed n true := if_neg h

/-- ZEROIZE is a source of die K: the keeper's generator gives its delay (R357). -/
theorem State.delayFor_zeroize : s.delayFor 23 = s.keeperDelay := if_neg (by omega)

/-- In SCRAPPED the keeper watches nothing (R356). -/
theorem State.watched_scrapped (h : s.get R.devStatusLife = 4) : s.watched n = false := by
  simp [State.watched, h]

end

/-- Settles O3: the first alarm of a source by the source; in SCRAPPED nothing is watched. -/
theorem tamperByLifeCycle : Obligations.TamperByLifeCycle := by
  intro s n detail value serial time response flags b t said first stands
  refine ⟨fun hlife hwatched hdown hother => ?_, fun hscrapped => ⟨?_, if_pos hscrapped⟩⟩
  · have hexec := exec_tamperAlarm_maker (detail := detail) (value := value) hlife hwatched hdown hother
    refine ⟨fun hzeroize hcell => ?_, fun hcell => ?_, fun hzeroize => ?_⟩
    · rw [hexec, if_neg hzeroize, State.alarmStands_ne hcell, State.settleAlarm_performs (Nat.zero_lt_succ 2)]
      rfl
    · subst hcell
      rw [hexec, if_neg (by decide), State.settleAlarm_performs (Nat.zero_lt_succ 2)]
      rfl
    · subst hzeroize
      rw [hexec, if_pos rfl, State.alarmStands_ne (by decide), State.settleAlarm_delays (Nat.le_succ 3), State.delayFor_zeroize]
      rfl
  · rw [exec_tamperAlarm, State.alarm_ignored (.inl (State.watched_scrapped hscrapped))]

/-! ### SMBus (R461, R462) -/

/-- With the supplies present and PORST_N high the target answers (R462). -/
theorem State.smbusRead_answers {s : State} (hmain : s.pwr.main = true) (hporst : s.pwr.porstN = true) (data : Bytes) :
    s.smbusRead data = s.emit (.smbus data) := if_pos ⟨hmain, hporst⟩

/-! ### LANTERN (R380) -/

section
variable {s u : State} {t0 : Nat} (hu : s.noteHealth = u)
include hu

/-- Between LANTERN's edges the device's health is noted, and nothing more. -/
theorem State.lanternEdge_between (hrise : u.tick % cyclesPerMs ≠ 0) (hfall : u.tick % cyclesPerMs ≠ cyclesPerMs / 2) :
    s.lanternEdge = u := by
  subst hu
  exact if_pos ⟨hrise, hfall⟩

variable (hedge : u.tick % cyclesPerMs = 0 ∨ u.tick % cyclesPerMs = cyclesPerMs / 2)
include hedge

/-- At an edge LANTERN stands low while the device is not healthy, or has not been for four milliseconds. -/
theorem State.lanternEdge_unhealthy
    (hsick : u.fault.healthySince = none ∨ (u.fault.healthySince = some t0 ∧ u.tick < t0 + 4 * cyclesPerMs)) :
    s.lanternEdge = (u.put R.lanternStatusLevel 0).put R.lanternStatusRunning 0 := by
  have hscheduled : ¬ (u.tick % cyclesPerMs ≠ 0 ∧ u.tick % cyclesPerMs ≠ cyclesPerMs / 2) := by omega
  simp only [State.lanternEdge, hu, if_neg hscheduled]
  rcases hsick with hnone | ⟨hsome, hyoung⟩
  · simp only [hnone]
  · simp only [hsome, hyoung, if_true]

/-- After four milliseconds it rises at each whole millisecond, and falls half a millisecond later. -/
theorem State.lanternEdge_healthy (hsome : u.fault.healthySince = some t0) (hold : t0 + 4 * cyclesPerMs ≤ u.tick) :
    s.lanternEdge = if u.tick % cyclesPerMs = 0 then (u.put R.lanternStatusLevel 1).put R.lanternStatusRunning 1
      else u.put R.lanternStatusLevel 0 := by
  have hscheduled : ¬ (u.tick % cyclesPerMs ≠ 0 ∧ u.tick % cyclesPerMs ≠ cyclesPerMs / 2) := by omega
  simp only [State.lanternEdge, hu, if_neg hscheduled, hsome, if_neg (Nat.not_lt.2 hold), ite_not]

end

/-- LANTERN_EDGE takes the pins' levels before the edge (log entry 115). -/
theorem exec_lanternEdge (pins : Nat) (s : State) : exec (.lanternEdge pins) s = .next (s.setPins pins).lanternEdge := rfl

/-- Settles O60: the reads of the target, the alert response, and the edges by where the tick stands. -/
theorem pinsOfTheBase : Obligations.PinsOfTheBase := by
  intro s t0 pins u part
  have hhalf : cyclesPerMs / 2 ≠ 0 := by decide
  have hu : (s.setPins pins).noteHealth = u := rfl
  refine ⟨fun hmain hporst => ?reads, fun hclear => congrArg Host.Outcome.next (if_neg (Bool.eq_false_iff.1 hclear)),
    fun hrise hfall => ?between, fun hrise hsome hold => ?rises, fun hfall hsome hold => ?falls, fun hedge hsick => ?low⟩
  case reads =>
    have hread (data : Bytes) : (.next (s.smbusRead data) : Host.Outcome State Fault Refusal) = .next (s.emit (.smbus data)) :=
      congrArg Host.Outcome.next (State.smbusRead_answers hmain hporst data)
    exact ⟨hread _, hread _, hread _, hread _, hread _, hread _, fun hset => (congrArg Host.Outcome.next (if_pos hset)).trans (hread _)⟩
  case between => rw [exec_lanternEdge, State.lanternEdge_between hu hrise hfall]
  case rises => rw [exec_lanternEdge, State.lanternEdge_healthy hu (.inl hrise) hsome hold, if_pos hrise]
  case falls =>
    rw [exec_lanternEdge, State.lanternEdge_healthy hu (.inr hfall) hsome hold, if_neg (fun h => hhalf (hfall.symm.trans h))]
  case low => rw [exec_lanternEdge, State.lanternEdge_unhealthy hu hedge hsick]

end Sys2Proof.Machine
end

section
/-! SUPPORT and SETTLED. Commits of a checker's rules (R325, R333), and the watchdogs and leases of the custody pairs (R340 to R346). -/

namespace Sys2Proof.Machine

/-! ### Commits of a checker's rules -/

section
variable {s : State} {c : Nat}

/-- A request of one group of the checkers that is not pending yet starts that checker's drain (R333). -/
theorem State.requestCommit_checker (hc : c ∈ [0, 1, 2, 4, 5, 6]) (hp : bitOf (s.get (R.hdrCommitPending 0xC0000)) c = false) :
    s.requestCommit 0xC0000 (2 ^ c) = s.startDrain c := by
  have hgroup : (groupsOf 0xC0000).filter (fun g => bitOf (2 ^ c) g) = [c] :=
    (by decide : ∀ c ∈ [0, 1, 2, 4, 5, 6], (groupsOf 0xC0000).filter (fun g => bitOf (2 ^ c) g) = [c]) c hc
  rw [State.requestCommit, hgroup, List.foldl_cons, List.foldl_nil, State.requestGroup, hp, if_neg Bool.false_ne_true, if_pos rfl]

/-- COMMIT_REQUEST of one checker that gets through (R60). -/
theorem exec_commitRequest_checker {r : Requester} (hc : c ∈ [0, 1, 2, 4, 5, 6]) (h : s.writes32 r 0xC000C)
    (hr : custodyWriter r = true) (hp : bitOf (s.get (R.hdrCommitPending 0xC0000)) c = false) :
    exec (.commitRequest r 0xC0000 (2 ^ c)) s = .next ((s.noHalf r).startDrain c) := by
  have hsmall : 2 ^ c % 2 ^ 32 = 2 ^ c := (by decide : ∀ c ∈ [0, 1, 2, 4, 5, 6], 2 ^ c % 2 ^ 32 = 2 ^ c) c hc
  have hgate : writeGate r (fieldsOf 0xC000C) = .pass :=
    writeGate_header (base := 0xC0000) (row := ⟨R.hdrCommitRequest 0, .wo, .live, .value, 1, 0, .pairs⟩) (by decide) (by decide)
      (by decide) rfl hr (by decide)
  show Host.Outcome.next (s.write r (0xC0000 + 0xC) 4 (2 ^ c) true) = _
  rw [h.slow hgate, State.writeSlow_commit (base := 0xC0000) (by decide) hr, hsmall, State.requestCommit_checker (s := s.noHalf r) hc hp]

/-- Rules that a check refuses do not become pending (R325). -/
theorem State.startDrain_refused {why : Nat} (h3 : c ≠ 3) (h : s.rulesRefusal c = some why) :
    s.startDrain c = s.commitResult 0xC0000 c 2 why := by
  simp only [State.startDrain, checkerBase, checkerGroup, if_neg h3, h]

/-- Others do, and the checker drains (R333). -/
theorem State.startDrain_drains (h3 : c ≠ 3) (h : s.rulesRefusal c = none) :
    s.startDrain c = (s.putBit (R.hdrCommitPending 0xC0000) c true).put (R.mpcRuleEpochState c) 1 := by
  simp only [State.startDrain, checkerBase, checkerGroup, if_neg h3, h]

/-- With the drain ended the shadows are the rules of checker `c`, which reloads where its target is in reset (R25, R333, R335). -/
def State.newRules (s : State) (c : Nat) : State :=
  let a := s.applyShadows (fun key => decide (0xC1000 + 0x200 * c ≤ key / 64) && decide (key / 64 < 0xC1200 + 0x200 * c))
  (({ a with worlds.ruled := addNew a.worlds.ruled c }.incMod (R.mpcRuleEpochEpoch c) 1).put (R.mpcRuleEpochState c)
    (if s.checkerHeld c then 3 else 0)).commitResult 0xC0000 c 1 0

theorem State.nextEpoch_rules (h3 : c ≠ 3) : s.nextEpoch c = s.newRules c := by
  simp only [State.nextEpoch, State.newRules, checkerBase, checkerGroup, if_neg h3]

/-- The end of a drain: what the checker held is carried out under its new rules, in the order it came (R333). -/
theorem State.drainEnd_drained (hc : c ≤ 6) (h3 : c ≠ 3)
    (hst : s.get (R.mpcRuleEpochState c) = 1 ∨ s.get (R.mpcRuleEpochState c) = 2) :
    s.drainEnd c = (s.worlds.held.filter (fun h => h.1 == c)).foldl
      (fun w h => w.fabric h.2.req h.2.kind h.2.addr h.2.len h.2.data)
      { s.newRules c with worlds.held := (s.newRules c).worlds.held.filter (fun h => h.1 != c) } := by
  have hdrains : ¬ (c > 6 ∨ (!decide (s.get (R.mpcRuleEpochState c) = 1 ∨ s.get (R.mpcRuleEpochState c) = 2)) = true) := by
    simp [hst]
    exact hc
  rw [State.drainEnd, if_neg hdrains, State.nextEpoch_rules h3]

/-- A checker that does not drain has nothing to end. -/
theorem State.drainEnd_idle (h : s.get (R.mpcRuleEpochState c) = 0) : s.drainEnd c = s :=
  if_pos (.inr (by simp [h]))

/-- RULE_EPOCH_DRAIN_END is the end of its checker's drain. -/
theorem exec_ruleEpochDrainEnd (c : Nat) (s : State) : exec (.ruleEpochDrainEnd c) s = .next (s.drainEnd c) := rfl

end

/-- Settles O38: the request by what the rules' check says, and the drain's end. -/
theorem checkerCommits : Obligations.CheckerCommits := by
  intro s r c hc t asks
  obtain ⟨hc6, h3⟩ : c ≤ 6 ∧ c ≠ 3 := (by decide : ∀ c ∈ [0, 1, 2, 4, 5, 6], c ≤ 6 ∧ c ≠ 3) c hc
  refine ⟨?_, ?_, fun hst => ?_, fun hst => ?_⟩
  · rintro why ⟨h, hr, hp⟩ href
    rw [exec_commitRequest_checker hc h hr hp, State.startDrain_refused (s := s.noHalf r) h3 href]
  · rintro ⟨h, hr, hp⟩ href
    rw [exec_commitRequest_checker hc h hr hp, State.startDrain_drains (s := s.noHalf r) h3 href]
  · rw [exec_ruleEpochDrainEnd, State.drainEnd_drained hc6 h3 hst]
    rfl
  · rw [exec_ruleEpochDrainEnd, State.drainEnd_idle hst]

/-! ### Watchdogs (R340, R341) -/

section
variable {s : State} {p v : Nat}

/-- Either pair may write its watchdog's feed and the lease holds. -/
theorem writeGate_pairs (hp : p ≤ 1) :
    writeGate ⟨p + 1, 0⟩ (fieldsOf 0xC0048) = .pass ∧ writeGate ⟨p + 1, 0⟩ (fieldsOf 0xC0070) = .pass :=
  (by decide : ∀ p ≤ 1, writeGate ⟨p + 1, 0⟩ (fieldsOf 0xC0048) = .pass ∧ writeGate ⟨p + 1, 0⟩ (fieldsOf 0xC0070) = .pass) p hp

/-- A write to MPC_WDOG_FEED feeds the pair that makes it. -/
theorem State.writeSlow_feed {r : Requester} : s.writeSlow r 0xC0048 1 = s.feed r.master := by
  simp [State.writeSlow, blockOf, nthReg, bitOf]

/-- MPC_WDOG_FEED that gets through. -/
theorem exec_mpcWdogFeed_reaches (hp : p ≤ 1) (h : s.writes32 ⟨p + 1, 0⟩ 0xC0048) :
    exec (.mpcWdogFeed (p + 1)) s = .next ((s.noHalf ⟨p + 1, 0⟩).feed (p + 1)) := by
  show Host.Outcome.next (s.write ⟨p + 1, 0⟩ 0xC0048 4 1 true) = _
  rw [h.slow (writeGate_pairs hp).1, Nat.mod_eq_of_lt (by decide), State.writeSlow_feed]

/-- A pair that runs serves once it is fed (R340). -/
theorem State.feed_serves (hp : p ≤ 1) (h : s.pairRuns p = true) :
    s.feed (p + 1) = ((s.put (pairFld p) 1).setMissed p false).noteHealth := by
  have hpair : pairOf (p + 1) = some p := (by decide : ∀ p ≤ 1, pairOf (p + 1) = some p) p hp
  rw [State.feed, hpair]
  exact if_pos h

/-- A pair that misses its feed falls out: SEVERE while the other serves, and else the secure world hangs (R341). -/
theorem exec_watchdogMiss_missed (hp : p ≤ 1) (hpurged : s.is R.keeperTamperStatePurged = false)
    (hreset : bitOf s.pwr.regionReset 5 = false) (hunder : s.life.underway = false) (hserves : s.is (pairFld p) = true) :
    exec (.watchdogMiss p) s = .next (
      let u := ((s.setMissed p true).put (pairFld p) 0).incSat R.lanternStatusWdogMisses
      (if u.is (pairFld (1 - p)) then u.severe (plainFault 4 (locM 5 (18 + p) 0xF) 0x0C 0) else (u.regionReset 5).noteHealth).noteHealth) := by
  have hwatches : ¬ (p > 1 ∨ s.is R.keeperTamperStatePurged = true ∨ bitOf s.pwr.regionReset 5 = true ∨ s.life.underway = true
      ∨ (!s.is (pairFld p)) = true) := by
    simp [hpurged, hreset, hunder, hserves, hp]
  exact congrArg Host.Outcome.next (if_neg hwatches)

/-! ### Leases (R344, R346) -/

/-- A write to MPC_LEASE_HOLD is one of all its holds, and what waits goes on. -/
theorem State.writeSlow_leaseHold {r : Requester} : s.writeSlow r 0xC0070 v = (s.leaseHold v).onward := by
  simp [State.writeSlow, blockOf, nthReg]

/-- MPC_LEASE_HOLD_SET that gets through. -/
theorem exec_mpcLeaseHoldSet_reaches (hp : p ≤ 1) (hv : v < 2 ^ 24) (h : s.writes32 ⟨p + 1, 0⟩ 0xC0070) :
    exec (.mpcLeaseHoldSet (p + 1) v) s = .next ((s.noHalf ⟨p + 1, 0⟩).leaseHold v).onward := by
  show Host.Outcome.next (s.write ⟨p + 1, 0⟩ 0xC0070 4 v true) = _
  rw [h.slow (writeGate_pairs hp).2, Nat.mod_eq_of_lt (by omega), State.writeSlow_leaseHold]

/-- A cluster's gate that a lease still holds up is recorded, with a NOTE against the cluster (R346). -/
theorem State.leaseTimeout_cluster {n : Nat} (hn : n < 16) (hpends : s.is (R.pkeClusterStatusGatePending n) = true) :
    s.leaseTimeout false n = (s.sqcEvent R.mpcLeaseEventSeq (fun x =>
      (x.put R.mpcLeaseEventCluster n).put R.mpcLeaseEventUnit 0)).note (locM (n / 4) n 0xF) 0x0C 0 := by
  simp [State.leaseTimeout, hn, hpends]

/-- A lane's, with one against the lane. -/
theorem State.leaseTimeout_lane {n : Nat} (hn : n < 8) (hpends : s.is (R.skeLaneStatusGatePending n) = true) :
    s.leaseTimeout true n = (s.sqcEvent R.mpcLeaseEventSeq (fun x =>
      (x.put R.mpcLeaseEventCluster 16).put R.mpcLeaseEventUnit n)).note (locM 4 16 n) 0x0C 0 := by
  simp [State.leaseTimeout, hn, hpends]

/-- LEASE_TIMEOUT is the end of its lease's time. -/
theorem exec_leaseTimeout (ske : Bool) (n : Nat) (s : State) : exec (.leaseTimeout ske n) s = .next (s.leaseTimeout ske n) := rfl

end

/-- Settles O43: a feed, a miss, the holds written whole, and the end of a lease's time for a cluster and for a lane. -/
theorem watchdogsAndLeases : Obligations.WatchdogsAndLeases := by
  intro s p v hp r t
  refine ⟨fun h hruns => ?_, exec_watchdogMiss_missed hp, fun h hv => ?_, fun n hn hpends => ?_, fun n hn hpends => ?_⟩
  · rw [exec_mpcWdogFeed_reaches hp h, State.feed_serves (s := s.noHalf r) hp hruns]
  · rw [exec_mpcLeaseHoldSet_reaches hp hv h]
    rfl
  · rw [exec_leaseTimeout, State.leaseTimeout_cluster hn hpends]
  · rw [exec_leaseTimeout, State.leaseTimeout_lane hn hpends]

end Sys2Proof.Machine
end

section
/-! SUPPORT and SETTLED. Ferry links and the enumeration (R422 to R426, R428, R429, R434): what each link event does, by the port's
state and the device's role. -/

namespace Sys2Proof.Machine

section
variable {s : State} {port front : Nat}

/-- What arrives on a port of a running G7 that is not DOWN is not turned away (R428). -/
theorem State.ferryTakes (hup : s.ferryRuns = true ∧ port ≤ 3) (hst : s.get (R.ferryPortState port) ≠ 1) :
    ¬ ((!s.ferryRuns) = true ∨ port > 3 ∨ s.get (R.ferryPortState port) = 1) := by
  obtain ⟨hruns, hport⟩ := hup
  rintro (hno | hno | hno)
  · simp [hruns] at hno
  · omega
  · exact hst hno

/-- A link event of a running G7 finds its port. -/
theorem State.ferryHas (hup : s.ferryRuns = true ∧ port ≤ 3) : ¬ ((!s.ferryRuns) = true ∨ port > 3) := by
  obtain ⟨hruns, hport⟩ := hup
  rintro (hno | hno)
  · simp [hruns] at hno
  · omega

/-! ### DISCOVER and its answer (R423 to R426) -/

/-- The port on which a frame comes shows itself trained. -/
def State.seenOn (s : State) (port : Nat) : State := s.put (R.ferryPortState port) 3

/-- A device with no role becomes a follower of the sender, and answers (R423). -/
theorem exec_discover_noRole (hup : s.ferryRuns = true ∧ port ≤ 3) (hst : s.get (R.ferryPortState port) ≠ 1)
    (hrole : (s.seenOn port).get R.ferryStatusRole = 0) :
    exec (.discover port front) s = .next (({ ((s.seenOn port).put R.ferryStatusRole 2).put (R.ferryPortUse port) 1 with
      ferry.front := some front
      pwr.link := false } : State).answerDiscover port front) := by
  have hnot1 : ¬ (s.seenOn port).get R.ferryStatusRole = 1 := by rw [hrole]; decide
  show Host.Outcome.next (s.discover port front) = _
  rw [State.discover, if_neg (State.ferryTakes hup hst)]
  exact congrArg _ ((if_neg hnot1).trans (if_pos hrole))

/-- A follower that hears another front device holds the port DOWN (R426). -/
theorem exec_discover_otherFront (hup : s.ferryRuns = true ∧ port ≤ 3) (hst : s.get (R.ferryPortState port) ≠ 1)
    (hrole : (s.seenOn port).get R.ferryStatusRole = 2) (hfront : (s.seenOn port).ferry.front ≠ some front) :
    exec (.discover port front) s = .next ((s.seenOn port).holdDown port 1) := by
  have hnot1 : ¬ (s.seenOn port).get R.ferryStatusRole = 1 := by rw [hrole]; decide
  have hnot0 : ¬ (s.seenOn port).get R.ferryStatusRole = 0 := by rw [hrole]; decide
  show Host.Outcome.next (s.discover port front) = _
  rw [State.discover, if_neg (State.ferryTakes hup hst)]
  exact congrArg _ (((if_neg hnot1).trans (if_neg hnot0)).trans (if_neg hfront))

/-- A follower with an upstream port answers its own front device and passes the DISCOVER on (R426). -/
theorem exec_discover_ownFront (hup : s.ferryRuns = true ∧ port ≤ 3) (hst : s.get (R.ferryPortState port) ≠ 1)
    (hrole : (s.seenOn port).get R.ferryStatusRole = 2) (hfront : (s.seenOn port).ferry.front = some front)
    (huse : (List.range 4).any (fun p => (s.seenOn port).get (R.ferryPortUse p) == 1) = true) :
    exec (.discover port front) s = .next ((s.seenOn port).answerDiscover port front) := by
  have hnot1 : ¬ (s.seenOn port).get R.ferryStatusRole = 1 := by rw [hrole]; decide
  have hnot0 : ¬ (s.seenOn port).get R.ferryStatusRole = 0 := by rw [hrole]; decide
  show Host.Outcome.next (s.discover port front) = _
  rw [State.discover, if_neg (State.ferryTakes hup hst)]
  exact congrArg _ ((((if_neg hnot1).trans (if_neg hnot0)).trans (if_pos hfront)).trans
    (congrArg (State.answerDiscover · port front) (if_pos huse)))

/-- A front device holds the port DOWN on which a DISCOVER comes that is not its own walk back on F1 (R426). -/
theorem exec_discover_front (hup : s.ferryRuns = true ∧ port ≤ 3) (hst : s.get (R.ferryPortState port) ≠ 1)
    (hrole : (s.seenOn port).get R.ferryStatusRole = 1) (hown : ¬ (front = s.ownSerial ∧ port = 1)) :
    exec (.discover port front) s = .next ((s.seenOn port).holdDown port 1) := by
  show Host.Outcome.next (s.discover port front) = _
  rw [State.discover, if_neg (State.ferryTakes hup hst)]
  exact congrArg _ ((if_pos hrole).trans (if_neg hown))

variable {pos serial life : Nat}

/-- An answer that reaches the front device by F0 to F2 finds a device (R424 to R426). -/
theorem exec_discoverAck_front (hup : s.ferryRuns = true ∧ port ≤ 3) (hst : s.get (R.ferryPortState port) ≠ 1)
    (hrole : (s.seenOn port).get R.ferryStatusRole = 1) (hport : port ≤ 2) (hpos : pos ≠ 0) :
    exec (.discoverAck port pos serial life) s = .next ((s.seenOn port).found port pos serial life) := by
  show execDiscoverAck port pos serial life s = _
  rw [execDiscoverAck, if_neg (State.ferryTakes hup hst)]
  exact congrArg _ ((if_pos hrole).trans (if_pos ⟨hport, hpos⟩))

/-- A follower passes an answer on upstream (R426). -/
theorem exec_discoverAck_follower (hup : s.ferryRuns = true ∧ port ≤ 3) (hst : s.get (R.ferryPortState port) ≠ 1)
    (hrole : (s.seenOn port).get R.ferryStatusRole = 2) :
    exec (.discoverAck port pos serial life) s
      = .next ((s.seenOn port).ferrySend (s.seenOn port).upstream 2 0xFF 0 true true (leBytes 8 serial ++ leBytes 1 life)) := by
  have hnot1 : ¬ (s.seenOn port).get R.ferryStatusRole = 1 := by rw [hrole]; decide
  show execDiscoverAck port pos serial life s = _
  rw [execDiscoverAck, if_neg (State.ferryTakes hup hst)]
  exact congrArg _ ((if_neg hnot1).trans (if_pos hrole))

/-! ### ASSIGN and the tick (R426) -/

variable {number : Nat}

/-- A follower takes a number from 1 to 63. -/
theorem exec_assign_number (hruns : s.ferryRuns = true) (hrole : s.get R.ferryStatusRole = 2) (hn : 1 ≤ number ∧ number ≤ 63) :
    exec (.assign number) s = .next (s.put R.ferryStatusSelf number) :=
  congrArg Host.Outcome.next ((if_pos ⟨hruns, hrole⟩).trans (if_pos hn))

/-- Any other number is a malformed frame. -/
theorem exec_assign_outside (hruns : s.ferryRuns = true) (hrole : s.get R.ferryStatusRole = 2) (hn : number = 0 ∨ 63 < number) :
    exec (.assign number) s = .next (s.linkError s.upstream 4) :=
  congrArg Host.Outcome.next ((if_pos ⟨hruns, hrole⟩).trans (if_neg (by omega)))

/-- With a tick the front device ends the first enumeration and walks again. -/
theorem exec_ferryDiscoverTick_front (hruns : s.ferryRuns = true) (hrole : s.get R.ferryStatusRole = 1) :
    exec .ferryDiscoverTick s = .next s.closeEnumeration.discoverAll :=
  congrArg Host.Outcome.next (if_pos ⟨hruns, hrole⟩)

/-! ### Frames and ports (R428) -/

variable {h : FerryHead} {nak : Bool}

/-- An undamaged LINK frame is heard; with NAK everything unacknowledged goes out again. -/
theorem exec_linkFrame_heard (hup : s.ferryRuns = true ∧ port ≤ 3) (hst : s.get (R.ferryPortState port) ≠ 1) (hcrc : h.crcOk = true) :
    let t := (s.setFerryPort port ((s.ferryPort port).heard h false)).put (R.ferryPortState port) 3
    exec (.linkFrame port h nak) s = .next (if nak then t.replay port else t) := by
  have hcrc' : ¬ (!h.crcOk) = true := by simp [hcrc]
  have hseq : ¬ (false = true ∧ h.lseq % 65536 ≠ ((s.ferryPort port).rxSeq + 1) % 65536) := fun hs => Bool.false_ne_true hs.1
  show Host.Outcome.next (s.heard port h false _) = _
  rw [State.heard, if_neg (State.ferryTakes hup hst), if_neg hcrc']
  exact congrArg _ (if_neg hseq)

/-- A damaged one is a CRC failure. -/
theorem exec_linkFrame_damaged (hup : s.ferryRuns = true ∧ port ≤ 3) (hst : s.get (R.ferryPortState port) ≠ 1)
    (hcrc : h.crcOk = false) : exec (.linkFrame port h nak) s = .next (s.crcFailed port) := by
  have hcrc' : (!h.crcOk) = true := by simp [hcrc]
  show Host.Outcome.next (s.heard port h false _) = _
  rw [State.heard, if_neg (State.ferryTakes hup hst), if_pos hcrc']

/-- An idle link that is UP carries a LINK frame with ACK. -/
theorem exec_ferryIdleLink_up (hup : s.ferryRuns = true ∧ port ≤ 3) (hst : s.get (R.ferryPortState port) = 3) :
    exec (.ferryIdleLink port) s = .next (s.linkFrame port false) :=
  congrArg Host.Outcome.next (if_pos ⟨hup.1, hup.2, hst⟩)

/-- A port that trains is UP: it replays, the ring settles, and DISCOVER goes out (R422, R428, R429). -/
theorem exec_ferryPortTrained_down (hup : s.ferryRuns = true ∧ port ≤ 3) (hst : s.get (R.ferryPortState port) ≠ 3) :
    exec (.ferryPortTrained port) s
      = .next ((((s.seenOn port).put (R.ferryPortReason port) 0).replay port).settleRing.discoverAll) := by
  have hgo : ¬ ((!s.ferryRuns) = true ∨ port > 3 ∨ s.get (R.ferryPortState port) = 3) := by
    rintro (hno | hno | hno)
    · exact State.ferryHas hup (.inl hno)
    · exact State.ferryHas hup (.inr hno)
    · exact hst hno
  exact congrArg Host.Outcome.next (if_neg hgo)

/-- A port that falls silent retrains (R428). -/
theorem exec_ferryLinkSilence_up (hup : s.ferryRuns = true ∧ port ≤ 3) (hst : s.get (R.ferryPortState port) = 3) :
    exec (.ferryLinkSilence port) s = .next (s.retrain port) := by
  show execFerryLinkSilence port s = _
  rw [execFerryLinkSilence, if_neg (State.ferryHas hup), if_pos hst]

/-- A port of the ring that stays silent while it retrains breaks it: the followers take the other side (R429). -/
theorem exec_ferryLinkSilence_ring (hup : s.ferryRuns = true ∧ port ≤ 3) (hst : s.get (R.ferryPortState port) = 2)
    (hrole : s.get R.ferryStatusRole = 1) (hmode : s.get R.ferryStatusMode = 2) (hport : port ≤ 1) :
    exec (.ferryLinkSilence port) s = .next (s.breakRing (fun _ => 1 - port)).onward := by
  have hnot3 : ¬ s.get (R.ferryPortState port) = 3 := by rw [hst]; decide
  show execFerryLinkSilence port s = _
  rw [execFerryLinkSilence, if_neg (State.ferryHas hup), if_neg hnot3, if_pos ⟨hst, hrole, hmode, hport⟩]

/-! ### A follower that is lost (R428, R429, R434) -/

/-- The follower is ABSENT: the link error is recorded, and its commands end. -/
def State.followerLost (s : State) (number : Nat) : State :=
  (s.linkError (s.get (R.ferryFollowerPort number)) 2).loseFollower number

/-- FOLLOWER_ABSENT of a follower that is known is not turned away. -/
theorem State.followerKnown (hn : 0 < number ∧ number ≤ 63) (hrole : s.get R.ferryStatusRole = 1)
    (hst : 2 ≤ s.get (R.ferryFollowerState number)) :
    ¬ (number = 0 ∨ number > 63 ∨ s.get R.ferryStatusRole ≠ 1 ∨ s.get (R.ferryFollowerState number) < 2) := by
  rw [hrole]; omega

/-- In a ring the loss of a follower breaks the ring at it. -/
theorem exec_followerAbsent_ring (hn : 0 < number ∧ number ≤ 63) (hrole : s.get R.ferryStatusRole = 1)
    (hst : 2 ≤ s.get (R.ferryFollowerState number)) (hmode : (s.followerLost number).get R.ferryStatusMode = 2) :
    exec (.followerAbsent number) s
      = .next ((s.followerLost number).breakRing (fun k => if k < number then 0 else 1)).onward := by
  show execFollowerAbsent number s = _
  rw [execFollowerAbsent, if_neg (State.followerKnown hn hrole hst)]
  exact congrArg _ (congrArg State.onward (if_pos hmode))

/-- In any other topology the follower is lost, and nothing else moves. -/
theorem exec_followerAbsent_noRing (hn : 0 < number ∧ number ≤ 63) (hrole : s.get R.ferryStatusRole = 1)
    (hst : 2 ≤ s.get (R.ferryFollowerState number)) (hmode : (s.followerLost number).get R.ferryStatusMode ≠ 2) :
    exec (.followerAbsent number) s = .next (s.followerLost number).onward := by
  show execFollowerAbsent number s = _
  rw [execFollowerAbsent, if_neg (State.followerKnown hn hrole hst)]
  exact congrArg _ (congrArg State.onward (if_neg hmode))

end

/-- Settles O58: each link event by the state of its port and the device's role. -/
theorem ferryLinks : Obligations.FerryLinks := by
  intro s port front pos serial life number h st role up seen heard lost
  refine ⟨exec_discover_noRole, fun hup hst hrole => ⟨exec_discover_otherFront hup hst hrole, exec_discover_ownFront hup hst hrole⟩,
    fun hup hst hrole => ⟨exec_discover_front hup hst hrole, exec_discoverAck_front hup hst hrole⟩, exec_discoverAck_follower,
    fun hruns hrole hlow hhigh => exec_assign_number hruns hrole ⟨hlow, hhigh⟩, exec_assign_outside,
    fun hup hst hcrc => ⟨exec_linkFrame_heard hup hst hcrc, exec_linkFrame_heard hup hst hcrc⟩, exec_linkFrame_damaged,
    exec_ferryIdleLink_up, exec_ferryDiscoverTick_front, exec_ferryPortTrained_down, exec_ferryLinkSilence_up,
    exec_ferryLinkSilence_ring, fun hlow hhigh hrole hst =>
      ⟨exec_followerAbsent_ring ⟨hlow, hhigh⟩ hrole hst, exec_followerAbsent_noRing ⟨hlow, hhigh⟩ hrole hst⟩⟩

end Sys2Proof.Machine
end

section
/-! SUPPORT and SETTLED. Accesses over the fabric (R26 to R28, R34, R322, R326 to R328, R333, R337 to R339, R473): the parts of an
access, the targets and the answers, then FABRIC_ACCESS and DEBUG_ACCESS. -/

namespace Sys2Proof.Machine

/-! ### Parts (R328) -/

/-- An access within a page is one part. -/
theorem partsAt_page {a n : Nat} (hn : n ≠ 0) (hpage : a % 4096 + n ≤ 4096) : partsAt a n = [(a, n)] := by
  have hmin : min n (4096 - a % 4096) = n := by omega
  have hrest : ∀ fuel, splitParts fuel (a + n) 0 = [] := fun fuel => by
    cases fuel with
    | zero => rfl
    | succ fuel => exact if_pos rfl
  rw [partsAt, splitParts, if_neg hn]
  simp only [hmin, Nat.sub_self, hrest]

section
variable {s t : State} {r : Requester} {k : AccKind} {a n : Nat} {data : Bytes}

/-- The one part of a read that its checker admits reads its target. -/
theorem State.runParts_page_read (hk : k ≠ .write) (hc : s.checkPart r k a false = (t, true)) :
    s.runParts r k [(a, n)] data = ((t.readTarget r a n).1, (t.readTarget r a n).2, false) := by
  have hone : decide ([(a, n)].length > 1) = false := rfl
  simp only [State.runParts, List.foldl_cons, List.foldl_nil, hone, hc, if_neg hk, List.nil_append]

/-- That of a write writes its target. -/
theorem State.runParts_page_write (hc : s.checkPart r .write a false = (t, true)) :
    s.runParts r .write [(a, n)] data = (t.writeTarget r a (data.take n), List.replicate n 0, false) := by
  have hone : decide ([(a, n)].length > 1) = false := rfl
  simp only [State.runParts, List.foldl_cons, List.foldl_nil, hone, hc, if_pos, List.nil_append, List.length_nil, List.drop_zero]

/-- One that its checker denies reads zeros. -/
theorem State.runParts_page_denied (hc : s.checkPart r k a false = (t, false)) :
    s.runParts r k [(a, n)] data = (t, List.replicate n 0, true) := by
  have hone : decide ([(a, n)].length > 1) = false := rfl
  simp only [State.runParts, List.foldl_cons, List.foldl_nil, hone, hc, List.nil_append]

/-- A denied part of any master but the debug master is a violation (R326). -/
theorem State.checkPart_denied (hdebug : r.master ≠ 0x7F) (hj : s.judge r k a = .deny) (split : Bool) :
    s.checkPart r k a split = (s.violation r k a false false split, false) := by
  simp only [State.checkPart, hj, if_neg hdebug]

/-- The debug master's denied parts after the first of its session are counted (R339). -/
theorem State.checkPart_debugSeen (hdebug : r.master = 0x7F) (hj : s.judge r k a = .deny) (hseen : s.worlds.debugSeen = true)
    (split : Bool) : s.checkPart r k a split = (s.incSat R.mpcViolCountDebugDenied, false) := by
  simp only [State.checkPart, hj, if_pos hdebug, State.debugDenied, if_pos hseen]

/-! ### Targets (Table WP.2) -/

/-- The bytes of the system area or of memory at an address (log entry 111). -/
def State.bytesAt (s : State) (a n : Nat) : Bytes :=
  match sysOffset a with
  | some (bank, o) => s.sysBytes bank o n
  | none => readBytes s.mem a n

/-- A read that meets no bank withdrawn, no doorbell and no crossing unit gives the bytes of the system area or of memory. -/
theorem State.readTarget_memory (hgone : s.bankGone a = false) (hbell : inOwnBell a = false) (hcross : inCross a = false) :
    s.readTarget r a n = (s, s.bytesAt a n) := by
  simp only [State.readTarget, State.bytesAt, hgone, hbell, hcross, Bool.false_eq_true, if_false]
  cases sysOffset a <;> rfl

/-- A write to plain memory is written there. -/
theorem State.writeTarget_memory (hgone : s.bankGone a = false) (hbell : inOwnBell a = false) (hcross : inCross a = false)
    (harea : inOwnArea a = false) (howner : areaOwner a = none) (hrom : checkerOf a ≠ some 0) (hsys : sysOffset a = none) :
    s.writeTarget r a data = s.writeMem a data := by
  simp only [State.writeTarget, hgone, hbell, hcross, harea, hsys, Option.isSome_none, Bool.false_eq_true, false_and, if_false,
    State.memWrite, howner, if_neg hrom]

/-! ### Answers (R327, R328) -/

/-- A fabric master's read is answered on the fabric, with an error response where it is denied. -/
theorem State.answerRead_fabric (hhost : reqIsHost r = false) (hferry : r.master ≠ 0x60) (tag bytes : Bytes) (denied : Bool) :
    s.answerRead r a tag bytes denied
      = if denied then (s.emit (.fabricData r a bytes)).emit (.fabricDenied r a) else s.emit (.fabricData r a bytes) := by
  simp only [State.answerRead, if_neg hferry, hhost, Bool.false_eq_true, if_false]

/-- A fabric master's denied write draws an error response. -/
theorem State.answerWrite_denied (hhost : reqIsHost r = false) (hferry : r.master ≠ 0x60) :
    s.answerWrite r a true = s.emit (.fabricDenied r a) := by
  rw [State.answerWrite, if_pos ⟨rfl, by simp [hhost], hferry⟩]

/-- An admitted write draws none. -/
theorem State.answerWrite_admitted : s.answerWrite r a false = s := if_neg fun hd => Bool.false_ne_true hd.1

/-! ### The ways of an access (R322, R333, R337) -/

/-- An access of no bytes, or without power or reset, reaches nothing. -/
theorem State.fabric_off (hoff : ¬ (s.pwr.main = true ∧ s.pwr.porstN = true ∧ n ≠ 0)) : s.fabric r k a n data = s := by
  refine if_pos ?_
  simp only [Bool.not_eq_true']
  by_contra hno
  simp only [not_or, Bool.not_eq_false] at hno
  exact hoff hno

/-- Any other is held, or carried out. -/
theorem State.fabric_on (hon : s.pwr.main = true ∧ s.pwr.porstN = true ∧ n ≠ 0) :
    s.fabric r k a n data = match s.heldBy a n with
      | some c => { s with worlds.held := s.worlds.held ++ [(c, ⟨r, k, a, n, data⟩)] }
      | none => s.fabricNow r k a n data := by
  obtain ⟨hm, hp, hn⟩ := hon
  have hgo : ¬ ((!s.pwr.main) = true ∨ (!s.pwr.porstN) = true ∨ n = 0) := by simp [hm, hp, hn]
  exact if_neg hgo

/-- The access is held by the checker that drains. -/
theorem State.fabric_held {c : Nat} (hon : s.pwr.main = true ∧ s.pwr.porstN = true ∧ n ≠ 0) (hheld : s.heldBy a n = some c) :
    s.fabric r k a n data = { s with worlds.held := s.worlds.held ++ [(c, ⟨r, k, a, n, data⟩)] } := by
  rw [State.fabric_on hon]
  simp only [hheld]

/-- With no checker that drains it is carried out. -/
theorem State.fabric_free (hon : s.pwr.main = true ∧ s.pwr.porstN = true ∧ n ≠ 0) (hheld : s.heldBy a n = none) :
    s.fabric r k a n data = s.fabricNow r k a n data := by
  rw [State.fabric_on hon]
  simp only [hheld]

/-- In the register space it is done whole. -/
theorem State.fabricNow_regs (hregs : inRegs a = true) : s.fabricNow r k a n data = s.runRegs r k a n data := if_pos hregs

/-- Outside it a host function's write is posted. -/
theorem State.fabricNow_posted (hregs : inRegs a = false) (hpost : reqIsHost r = true ∧ k = .write) :
    s.fabricNow r k a n data = (s.noHalf r).postedWrite r.sub a (data.take n) := by
  rw [State.fabricNow, if_neg (by simp [hregs]), if_pos hpost]

/-- Everything else is done part by part, and answered. -/
theorem State.fabricNow_parts (hregs : inRegs a = false) (hpost : ¬ (reqIsHost r = true ∧ k = .write)) :
    s.fabricNow r k a n data = if k = .write
      then ((s.noHalf r).runParts r k (partsAt a n) data).1.answerWrite r a ((s.noHalf r).runParts r k (partsAt a n) data).2.2
      else ((s.noHalf r).runParts r k (partsAt a n) data).1.answerRead r a data
        ((s.noHalf r).runParts r k (partsAt a n) data).2.1 ((s.noHalf r).runParts r k (partsAt a n) data).2.2 := by
  rw [State.fabricNow, if_neg (by simp [hregs]), if_neg hpost]

/-! ### An access within a page, of a fabric master -/

/-- An access of a fabric master outside the register space, within one page (R328). -/
structure OnePage (r : Requester) (a n : Nat) : Prop where
  nonempty : n ≠ 0
  page : a % 4096 + n ≤ 4096
  regs : inRegs a = false
  host : reqIsHost r = false
  ferry : r.master ≠ 0x60

/-- Such a read runs as its one part, and is answered. -/
theorem State.fabricNow_page_read (h : OnePage r a n) (hk : k ≠ .write) :
    s.fabricNow r k a n data = ((s.noHalf r).runParts r k [(a, n)] data).1.answerRead r a data
      ((s.noHalf r).runParts r k [(a, n)] data).2.1 ((s.noHalf r).runParts r k [(a, n)] data).2.2 := by
  rw [State.fabricNow_parts h.regs (fun hp => hk hp.2), if_neg hk, partsAt_page h.nonempty h.page]

/-- So does such a write. -/
theorem State.fabricNow_page_write (h : OnePage r a n) :
    s.fabricNow r .write a n data = ((s.noHalf r).runParts r .write [(a, n)] data).1.answerWrite r a
      ((s.noHalf r).runParts r .write [(a, n)] data).2.2 := by
  have hpost : ¬ (reqIsHost r = true ∧ AccKind.write = .write) := by simp [h.host]
  rw [State.fabricNow_parts h.regs hpost, if_pos rfl, partsAt_page h.nonempty h.page]

/-- A read that is admitted is answered with its target's bytes. -/
theorem State.fabricNow_read_admitted (h : OnePage r a n) (hk : k ≠ .write) (hj : s.judge r k a = .allow)
    (hgone : s.bankGone a = false) (hbell : inOwnBell a = false) (hcross : inCross a = false) :
    s.fabricNow r k a n data = (s.noHalf r).emit (.fabricData r a ((s.noHalf r).bytesAt a n)) := by
  have hadm : (s.noHalf r).checkPart r k a false = (s.noHalf r, true) := checkPart_allow hj
  rw [State.fabricNow_page_read h hk, State.runParts_page_read hk hadm, State.readTarget_memory (s := s.noHalf r) hgone hbell hcross,
    State.answerRead_fabric h.host h.ferry, if_neg Bool.false_ne_true]

/-- A write of plain memory that is admitted is written there. -/
theorem State.fabricNow_write_admitted (h : OnePage r a n) (hj : s.judge r .write a = .allow) (hgone : s.bankGone a = false)
    (hbell : inOwnBell a = false) (hcross : inCross a = false) (harea : inOwnArea a = false) (howner : areaOwner a = none)
    (hrom : checkerOf a ≠ some 0) (hsys : sysOffset a = none) :
    s.fabricNow r .write a n data = (s.noHalf r).writeMem a (data.take n) := by
  have hadm : (s.noHalf r).checkPart r .write a false = (s.noHalf r, true) := checkPart_allow hj
  rw [State.fabricNow_page_write h, State.runParts_page_write hadm,
    State.writeTarget_memory (s := s.noHalf r) hgone hbell hcross harea howner hrom hsys, State.answerWrite_admitted]

/-- A read that is denied is recorded, reads zeros and draws an error response. -/
theorem State.fabricNow_read_denied (h : OnePage r a n) (hk : k ≠ .write) (hdebug : r.master ≠ 0x7F)
    (hj : s.judge r k a = .deny) :
    s.fabricNow r k a n data = (((s.noHalf r).violation r k a false false false).emit
      (.fabricData r a (List.replicate n 0))).emit (.fabricDenied r a) := by
  have hden : (s.noHalf r).checkPart r k a false = ((s.noHalf r).violation r k a false false false, false) :=
    State.checkPart_denied (s := s.noHalf r) hdebug hj false
  rw [State.fabricNow_page_read h hk, State.runParts_page_denied hden, State.answerRead_fabric h.host h.ferry, if_pos rfl]

/-- A write that is denied draws an error response; what records it is its checker's answer. -/
theorem State.fabricNow_write_denied (h : OnePage r a n) (hden : (s.noHalf r).checkPart r .write a false = (t, false)) :
    s.fabricNow r .write a n data = t.emit (.fabricDenied r a) := by
  rw [State.fabricNow_page_write h, State.runParts_page_denied hden, State.answerWrite_denied h.host h.ferry]

/-! ### FABRIC_ACCESS and DEBUG_ACCESS -/

/-- FABRIC_ACCESS of a master that can reach the device, by what befalls it (R322, R473). -/
theorem exec_fabricAccess (hthere : reqIsHost r = true → s.hostThere r.sub = true) (e : Mishap) :
    exec (.fabricAccess r k a n data e) s = .next (s.fabricMishap r k a n data e) := by
  refine congrArg Host.Outcome.next (if_neg ?_)
  rintro ⟨hr, hno⟩
  simp [hthere hr] at hno

/-- The host does not reach a device that its link does not reach (R473). -/
theorem exec_fabricAccess_noHost (hr : reqIsHost r = true) (hno : s.hostThere r.sub = false) (e : Mishap) :
    exec (.fabricAccess r k a n data e) s = .next s :=
  congrArg Host.Outcome.next (if_pos ⟨hr, by simp [hno]⟩)

/-- DEBUG_ACCESS is the debug master's access at the open level (R338). -/
theorem exec_debugAccess :
    exec (.debugAccess k a n data) s = .next (s.fabric ⟨0x7F, s.get R.lifeDebugLevel⟩ k a n data) := rfl

/-- A custody pair's lockstep disagreement keeps the access in the pair (R34). -/
theorem exec_fabricAccess_lockstep (hr : reqIsPair r = true) (hm : s.pwr.main = true) (hp : s.pwr.porstN = true) :
    exec (.fabricAccess r k a n data .lockstep) s = .next (s.lockstep r.master) := by
  have hhost : reqIsHost r = true → s.hostThere r.sub = true := fun hh => by
    simp only [reqIsPair, reqIsHost, Bool.or_eq_true, beq_iff_eq] at hr hh
    omega
  rw [exec_fabricAccess hhost]
  exact congrArg _ (if_pos ⟨hr, hm, hp⟩)

/-- No other master has lockstep to disagree. -/
theorem exec_fabricAccess_noLockstep (hr : reqIsPair r = false) :
    exec (.fabricAccess r k a n data .lockstep) s = exec (.fabricAccess r k a n data .none) s := by
  have hmis : s.fabricMishap r k a n data .lockstep = s.fabricMishap r k a n data .none := if_neg (by simp [hr])
  show execFabricAccess r k a n data s .lockstep = execFabricAccess r k a n data s .none
  rw [execFabricAccess, execFabricAccess, hmis]

/-- An uncorrectable error that an admitted access meets acts on its part, and answers the access (R26 to R28). -/
theorem exec_fabricAccess_uncorrectable {g u : Nat} (hthere : reqIsHost r = true → s.hostThere r.sub = true)
    (hon : s.pwr.main = true ∧ s.pwr.porstN = true ∧ n ≠ 0) (hadm : s.admits r k a n = true) :
    let t := (s.noHalf r).partFails g u
      ⟨4, groupLoc g u, 1, 0, a, r.master, r.sub, if k = .write then 2 else if k = .fetch then 3 else 1, false⟩
    exec (.fabricAccess r k a n data (.uncorrectable g u)) s
      = .next (if k = .write then t.answerWrite r a true else t.answerRead r a data (List.replicate n 0) true) := by
  obtain ⟨hm, hp, hn⟩ := hon
  rw [exec_fabricAccess hthere]
  exact congrArg _ (if_pos ⟨hm, hp, hn, hadm⟩)

/-- One that is not admitted meets none. -/
theorem exec_fabricAccess_notMet {g u : Nat} (hadm : s.admits r k a n = false) :
    exec (.fabricAccess r k a n data (.uncorrectable g u)) s = exec (.fabricAccess r k a n data .none) s := by
  have hmis : s.fabricMishap r k a n data (.uncorrectable g u) = s.fabricMishap r k a n data .none := if_neg (by simp [hadm])
  show execFabricAccess r k a n data s (.uncorrectable g u) = execFabricAccess r k a n data s .none
  rw [execFabricAccess, execFabricAccess, hmis]

end

/-- Settles O49: the two rows are one access of the fabric, which goes one of its ways; then what befalls an access. -/
theorem fabricAccesses : Obligations.FabricAccesses := by
  intro s r k a n data x row on
  have run : ∀ i, row i → exec i s = .next (s.fabric r k a n data) := by
    rintro i (⟨rfl, hthere⟩ | ⟨rfl, rfl⟩)
    · exact exec_fabricAccess hthere .none
    · exact exec_debugAccess
  have done : ∀ i, row i → on → s.heldBy a n = none → ∀ {t : State}, s.fabricNow r k a n data = t → exec i s = .next t :=
    fun i hi hon hheld t ht => (run i hi).trans (congrArg _ ((State.fabric_free hon hheld).trans ht))
  refine ⟨fun i hi hoff => (run i hi).trans (congrArg _ (State.fabric_off hoff)),
    fun i c hi hon hheld => (run i hi).trans (congrArg _ (State.fabric_held hon hheld)),
    fun i hi hon hheld => ⟨fun hregs => done i hi hon hheld (State.fabricNow_regs hregs),
      fun hregs hr hk => done i hi hon hheld (State.fabricNow_posted hregs ⟨hr, hk⟩),
      fun hregs hpost => done i hi hon hheld (State.fabricNow_parts hregs hpost), fun hregs hpage hr hferry => ?onePage⟩,
    fun e hr hno => exec_fabricAccess_noHost hr hno e, exec_fabricAccess_lockstep, exec_fabricAccess_noLockstep,
    fun g u hthere => ⟨exec_fabricAccess_uncorrectable hthere, exec_fabricAccess_notMet⟩⟩
  case onePage =>
    have hone : OnePage r a n := ⟨hon.2.2, hpage, hregs, hr, hferry⟩
    refine ⟨fun hk hj hgone hbell hcross =>
        done i hi hon hheld (State.fabricNow_read_admitted hone hk hj hgone hbell hcross), ?written,
      fun hk hdebug hj => done i hi hon hheld (State.fabricNow_read_denied hone hk hdebug hj), ?denied, ?debugSeen⟩
    case written =>
      rintro rfl hj hgone hbell hcross harea howner hrom hsys
      exact done i hi hon hheld (State.fabricNow_write_admitted hone hj hgone hbell hcross harea howner hrom hsys)
    case denied =>
      rintro rfl hdebug hj
      exact done i hi hon hheld (State.fabricNow_write_denied hone (State.checkPart_denied (s := x) hdebug hj false))
    case debugSeen =>
      rintro rfl hdebug hj hseen
      exact done i hi hon hheld (State.fabricNow_write_denied hone (State.checkPart_debugSeen (s := x) hdebug hj hseen false))

end Sys2Proof.Machine
end
